-- ==== Sys2Proof/Word.lean ====
section
/-! DEFINITION. The words of the machine (06_instruction_encoding.md R77; 02_execution_model.md R31, R38) and their plainest arithmetic. -/

namespace Sys2Proof

/-- A byte of memory. -/
abbrev Byte := BitVec 8

/-- An instruction word (R77). -/
abbrev Word := BitVec 32

/-- A scalar register, an address or a CSR (R15, R271). -/
abbrev Dword := BitVec 64

/-- A vector register or the data of a queue entry, 512 bytes (R15, R38). -/
abbrev Vec := BitVec 4096

/-- A mask register or the element mask of a queue entry (R15, R38). -/
abbrev Mask := BitVec 1024

/-- A stream descriptor, 64 bytes (R160). -/
abbrev Desc := BitVec 512

end Sys2Proof
end

