-- ==== Sys2Proof/Machine/Float.lean ====
section
/-! DEFINITION. Number formats and arithmetic (04_number_formats.md): formats, exact values, rounding, flags, NaN selection,
conversions, the mixer, and the elementary functions of the special-function unit. Values are exact: a finite number is
`m × 2^e`. A result is formed exactly and rounded once (R60). -/

namespace Sys2Proof.Machine

/-- Exception flags in the order of FLAGS: NV 4, DZ 3, OF 2, UF 1, NX 0 (R63). -/
abbrev Flags := BitVec 5

def flagNV : Flags := 16
def flagDZ : Flags := 8
def flagOFNX : Flags := 5
def flagUFNX : Flags := 3
def flagNX : Flags := 1

/-- How a format encodes infinities and NaNs (R50): as IEEE 754, as E4M3, or not at all. -/
inductive Special where
  | ieee | e4m3 | none
  deriving DecidableEq, Repr

/-- A floating-point format (R50, R123): exponent width, fraction width, bias, special encodings. -/
structure Fmt where
  eb : Nat
  fb : Nat
  bias : Nat
  sp : Special
  deriving DecidableEq, Repr

def fmtF64 : Fmt := ⟨11, 52, 1023, .ieee⟩
def fmtF32 : Fmt := ⟨8, 23, 127, .ieee⟩
def fmtF16 : Fmt := ⟨5, 10, 15, .ieee⟩
def fmtBF16 : Fmt := ⟨8, 7, 127, .ieee⟩
def fmtE5M2 : Fmt := ⟨5, 2, 15, .ieee⟩
def fmtE4M3 : Fmt := ⟨4, 3, 7, .e4m3⟩
def fmtE3M2 : Fmt := ⟨3, 2, 3, .none⟩
def fmtE2M3 : Fmt := ⟨2, 3, 1, .none⟩
def fmtE2M1 : Fmt := ⟨2, 1, 1, .none⟩

/-- The float type codes of R82. -/
def fmtOfCode (c : Nat) : Fmt :=
  match c with
  | 0 => fmtE2M1 | 1 => fmtE3M2 | 2 => fmtE2M3 | 3 => fmtE4M3 | 4 => fmtE5M2 | 5 => fmtBF16 | 6 => fmtF16 | _ => fmtF32

def Fmt.width (f : Fmt) : Nat := 1 + f.eb + f.fb

/-- Exponent of the smallest normal number. -/
def Fmt.emin (f : Fmt) : Int := 1 - (f.bias : Int)

/-- The largest finite magnitude as mantissa and exponent (R50). -/
def Fmt.largest (f : Fmt) : Nat × Int :=
  match f.sp with
  | .ieee => (2 ^ (f.fb + 1) - 1, (2 ^ f.eb - 2 : Int) - f.bias - f.fb)
  | .e4m3 => (14, 5)
  | .none => (2 ^ (f.fb + 1) - 1, (2 ^ f.eb - 1 : Int) - f.bias - f.fb)

/-- Encoding of the largest finite magnitude (R50). -/
def Fmt.largestEnc (f : Fmt) : Nat :=
  match f.sp with
  | .ieee => (2 ^ f.eb - 1) * 2 ^ f.fb - 1
  | .e4m3 => 0x7E
  | .none => 2 ^ (f.eb + f.fb) - 1

def Fmt.signBit (f : Fmt) (neg : Bool) : Nat := if neg then 2 ^ (f.eb + f.fb) else 0

/-- The infinity of a format that has one (R50). -/
def Fmt.infEnc (f : Fmt) (neg : Bool) : Nat := f.signBit neg + (2 ^ f.eb - 1) * 2 ^ f.fb

/-- The canonical quiet NaN (R66). -/
def Fmt.qnan (f : Fmt) : Nat :=
  match f.sp with
  | .ieee => (2 ^ f.eb - 1) * 2 ^ f.fb + 2 ^ (f.fb - 1)
  | .e4m3 => 0x7F
  | .none => 0

/-- An exact value: NaN with sign and fraction (its width given), infinity, or `± m × 2^e` (R51). -/
inductive FVal where
  | nan (neg : Bool) (frac fb : Nat) (quiet : Bool)
  | inf (neg : Bool)
  | fin (neg : Bool) (m : Nat) (e : Int)
  deriving DecidableEq, Repr

/-- The value of an encoding (R50, R51, R52). -/
def decodeF (f : Fmt) (x : Nat) : FVal :=
  let neg := x / 2 ^ (f.eb + f.fb) % 2 == 1
  let ex := x / 2 ^ f.fb % 2 ^ f.eb
  let fr := x % 2 ^ f.fb
  let finite := if ex = 0 then FVal.fin neg fr (f.emin - f.fb) else FVal.fin neg (2 ^ f.fb + fr) ((ex : Int) - f.bias - f.fb)
  match f.sp with
  | .ieee =>
    if ex = 2 ^ f.eb - 1 then
      if fr = 0 then .inf neg else .nan neg fr f.fb (2 ^ (f.fb - 1) ≤ fr)
    else finite
  | .e4m3 => if ex = 15 && fr = 7 then .nan neg 7 3 true else finite
  | .none => finite

def FVal.isNan : FVal → Bool
  | .nan .. => true
  | _ => false

/-- A signalling NaN (R51). -/
def FVal.isSnan : FVal → Bool
  | .nan _ _ _ q => !q
  | _ => false

def FVal.isInf : FVal → Bool
  | .inf _ => true
  | _ => false

def FVal.isZero : FVal → Bool
  | .fin _ m _ => m == 0
  | _ => false

def FVal.neg : FVal → Bool
  | .nan n .. => n
  | .inf n => n
  | .fin n .. => n

/-- An IEEE encoding with its quiet bit set (R66). -/
def quietEnc (f : Fmt) (x : Nat) : Nat :=
  match f.sp with
  | .ieee => x ||| 2 ^ (f.fb - 1)
  | _ => x

/-- Number of bits of a number. -/
def bitLen (n : Nat) : Nat := if n = 0 then 0 else n.log2 + 1

/-- Rounding modes of RNDM (R59): 0 RNE, 1 RTZ, 2 RDN, 3 RUP, 4 RNA, 5 SR. -/
abbrev RMode := Nat

/-- Whether a magnitude with kept part `lo`, dropped part `rem` of `k` bits and further non-zero bits `st` rounds up (R59, R61);
`sr` is the mixer's output for mode 5. -/
def roundsUp (mode : RMode) (neg : Bool) (lo rem k : Nat) (st : Bool) (sr : Nat) : Bool :=
  let inexact := rem != 0 || st
  match mode with
  | 0 => decide (2 ^ k < 2 * rem) || (2 ^ k == 2 * rem && (st || lo % 2 == 1))
  | 1 => false
  | 2 => neg && inexact
  | 3 => !neg && inexact
  | 4 => decide (2 ^ k ≤ 2 * rem) && decide (0 < k)
  | _ => decide (2 ^ 32 ≤ rem * 2 ^ 32 / 2 ^ k + sr)

/-- A magnitude `m × 2^e` (plus a trace `st` below its last bit) rounded to a multiple of `2^q`: the multiple and whether it is inexact. -/
def roundAt (mode : RMode) (neg : Bool) (m : Nat) (e : Int) (st : Bool) (sr : Nat) (q : Int) : Nat × Bool :=
  if q ≤ e then (m * 2 ^ (e - q).toNat + (if st && mode = 3 && !neg || st && mode = 2 && neg then 1 else 0), st)
  else
    let k := (q - e).toNat
    let lo := m / 2 ^ k
    let rem := m % 2 ^ k
    (lo + (if roundsUp mode neg lo rem k st sr then 1 else 0), rem != 0 || st)

/-- `a × 2^x ≤ b × 2^y`. -/
def dyLe (a : Nat) (x : Int) (b : Nat) (y : Int) : Bool :=
  if x ≤ y then decide (a ≤ b * 2 ^ (y - x).toNat) else decide (a * 2 ^ (x - y).toNat ≤ b)

/-- The result of an overflow (R62). -/
def overflowEnc (f : Fmt) (mode : RMode) (sat neg : Bool) : Nat :=
  let big := f.signBit neg + f.largestEnc
  if sat then big
  else match f.sp with
    | .ieee =>
      match mode with
      | 1 => big
      | 2 => if neg then f.infEnc true else big
      | 3 => if neg then big else f.infEnc false
      | _ => f.infEnc neg
    | .e4m3 => f.signBit neg + 0x7F
    | .none => big

/-- An exact non-zero magnitude rounded once to a format (R60 to R63, R69). Assumption 58, DEDUCED. -/
def roundF (f : Fmt) (mode : RMode) (sat neg : Bool) (m : Nat) (e : Int) (st : Bool := false) (sr : Nat := 0) : Nat × Flags :=
  if m = 0 && !st then (f.signBit neg, 0)
  else
    let top : Int := (bitLen m : Int) - 1 + e
    let qU : Int := top - f.fb
    let q : Int := if qU < f.emin - f.fb then f.emin - f.fb else qU
    let (r, inexact) := roundAt mode neg m e st sr q
    let (lm, le) := f.largest
    let ovf := !dyLe r q lm le || (mode == 5 && !dyLe m e lm le)
    if ovf then (overflowEnc f mode sat neg, flagOFNX)
    else
      let (rU, _) := roundAt mode neg m e st sr qU
      let tiny := !dyLe 1 f.emin rU qU
      let flags : Flags := if inexact then (if tiny then flagUFNX else flagNX) else 0
      let (r, q) := if r = 2 ^ (f.fb + 1) then (2 ^ f.fb, q + 1) else (r, q)
      let mag := if r < 2 ^ f.fb then r else (q + f.fb + f.bias).toNat * 2 ^ f.fb + (r - 2 ^ f.fb)
      (f.signBit neg + mag, flags)

/-- A signed exact number `i × 2^e` rounded; an exact zero takes the sign `zneg`. -/
def roundI (f : Fmt) (mode : RMode) (sat zneg : Bool) (i : Int) (e : Int) (sr : Nat := 0) : Nat × Flags :=
  if i = 0 then (f.signBit zneg, 0) else roundF f mode sat (decide (i < 0)) i.natAbs e false sr

/-- A quotient of naturals with a scale, `n / d × 2^e`, rounded once. -/
def roundRat (f : Fmt) (mode : RMode) (sat neg : Bool) (n d : Nat) (e : Int) (sr : Nat := 0) : Nat × Flags :=
  let k := f.fb + 40 + bitLen d
  roundF f mode sat neg (n * 2 ^ k / d) (e - k) (n * 2 ^ k % d != 0) sr

/-- Mode 5 acts as RNE outside conversions (R60). -/
def arithMode (mode : RMode) : RMode := if mode = 5 then 0 else mode

/-- The first NaN operand, quieted, and NV if any operand signals (R65, R66). -/
def firstNan (f : Fmt) (xs : List Nat) : Option (Nat × Flags) :=
  match xs.find? (fun x => (decodeF f x).isNan) with
  | some x => some (quietEnc f x, if xs.any (fun x => (decodeF f x).isSnan) then flagNV else 0)
  | none => none

/-- Exact sum of two signed dyadic numbers. -/
def dyAdd (x : Int × Int) (y : Int × Int) : Int × Int :=
  if x.1 = 0 then y else if y.1 = 0 then x
  else if x.2 ≤ y.2 then (x.1 + y.1 * 2 ^ (y.2 - x.2).toNat, x.2) else (x.1 * 2 ^ (x.2 - y.2).toNat + y.1, y.2)

/-- The signed mantissa of a finite value. -/
def sgn (neg : Bool) (m : Nat) : Int := if neg then -(m : Int) else (m : Int)

/-- a + b (R60, R65, R66). A zero sum of unlike signs is +0, or −0 under RDN, as in IEEE 754. -/
def fAdd (f : Fmt) (mode : RMode) (a b : Nat) : Nat × Flags :=
  match firstNan f [a, b] with
  | some r => r
  | none =>
    match decodeF f a, decodeF f b with
    | .inf x, .inf y => if x = y then (a, 0) else (f.qnan, flagNV)
    | .inf _, _ => (a, 0)
    | _, .inf _ => (b, 0)
    | .fin x m e, .fin y n k =>
      let (i, q) := dyAdd (sgn x m, e) (sgn y n, k)
      roundI f mode false (if x = y then x else mode == 2) i q
    | _, _ => (f.qnan, 0)

/-- The sign bit inverted. -/
def fNegEnc (f : Fmt) (x : Nat) : Nat := x ^^^ 2 ^ (f.eb + f.fb)

/-- a − b. A NaN operand keeps its own sign (R66). -/
def fSub (f : Fmt) (mode : RMode) (a b : Nat) : Nat × Flags :=
  match firstNan f [a, b] with
  | some r => r
  | none => fAdd f mode a (fNegEnc f b)

/-- a × b (R60, R65, R66). -/
def fMul (f : Fmt) (mode : RMode) (a b : Nat) : Nat × Flags :=
  match firstNan f [a, b] with
  | some r => r
  | none =>
    let va := decodeF f a
    let vb := decodeF f b
    let neg := va.neg != vb.neg
    if (va.isInf && vb.isZero) || (va.isZero && vb.isInf) then (f.qnan, flagNV)
    else if va.isInf || vb.isInf then (f.infEnc neg, 0)
    else match va, vb with
      | .fin _ m e, .fin _ n k => roundF f mode false neg (m * n) (e + k)
      | _, _ => (f.qnan, 0)

/-- a × b + c with one rounding; NaN choice c, a, b; 0 × ∞ raises NV even when c is NaN (R60, R65, R66). -/
def fFma (f : Fmt) (mode : RMode) (a b c : Nat) : Nat × Flags :=
  let va := decodeF f a
  let vb := decodeF f b
  let vc := decodeF f c
  let bad := (va.isInf && vb.isZero) || (va.isZero && vb.isInf)
  match firstNan f [c, a, b] with
  | some (r, fl) => (r, if bad then fl ||| flagNV else fl)
  | none =>
    if bad then (f.qnan, flagNV)
    else
      let neg := va.neg != vb.neg
      if va.isInf || vb.isInf then
        if vc.isInf && vc.neg != neg then (f.qnan, flagNV) else (f.infEnc neg, 0)
      else match va, vb, vc with
        | _, _, .inf n => (f.infEnc n, 0)
        | .fin _ m e, .fin _ n k, .fin z p q =>
          let (i, x) := dyAdd (sgn neg (m * n), e + k) (sgn z p, q)
          roundI f mode false (if neg = z then neg else mode == 2) i x
        | _, _, _ => (f.qnan, 0)

/-- a ÷ b (R63, R65, R66). -/
def fDiv (f : Fmt) (mode : RMode) (a b : Nat) : Nat × Flags :=
  match firstNan f [a, b] with
  | some r => r
  | none =>
    let neg := (decodeF f a).neg != (decodeF f b).neg
    match decodeF f a, decodeF f b with
    | .inf _, .inf _ => (f.qnan, flagNV)
    | .inf _, _ => (f.infEnc neg, 0)
    | _, .inf _ => (f.signBit neg, 0)
    | .fin _ m e, .fin _ n k =>
      if n = 0 then (if m = 0 then (f.qnan, flagNV) else (f.infEnc neg, flagDZ))
      else if m = 0 then (f.signBit neg, 0)
      else roundRat f mode false neg m n (e - k)
    | _, _ => (f.qnan, 0)

/-- One bit of an integer square root a step, from bit `n` down. -/
def isqrtStep (x : Nat) : Nat → Nat → Nat
  | 0, r => r
  | n + 1, r => if (r + 2 ^ n) * (r + 2 ^ n) ≤ x then isqrtStep x n (r + 2 ^ n) else isqrtStep x n r

/-- Integer square root, rounded down. -/
def isqrt (x : Nat) : Nat := isqrtStep x (bitLen x / 2 + 1) 0

/-- √a (R65): −0 gives −0, a negative non-zero value NV. -/
def fSqrt (f : Fmt) (mode : RMode) (a : Nat) : Nat × Flags :=
  match firstNan f [a] with
  | some r => r
  | none =>
    match decodeF f a with
    | .inf n => if n then (f.qnan, flagNV) else (a, 0)
    | .fin n m e =>
      if m = 0 then (a, 0) else if n then (f.qnan, flagNV)
      else
        let k : Nat := 2 * (f.fb + 8) + (if (e % 2 = 0) then 0 else 1)
        let x := m * 2 ^ k
        let r := isqrt x
        roundF f mode false false r ((e - k) / 2) (r * r != x)
    | _ => (f.qnan, 0)

/-- Order of two numbers that are not NaN, −0 below +0 (R68). -/
def fLtOrdered (f : Fmt) (a b : Nat) : Bool :=
  match decodeF f a, decodeF f b with
  | .inf x, .inf y => x && !y
  | .inf x, _ => x
  | _, .inf y => !y
  | .fin x m e, .fin y n k =>
    if x != y then x
    else if x then !dyLe m e n k else !dyLe n k m e
  | _, _ => false

/-- Minimum and maximum under R68. -/
def fMinMax (f : Fmt) (isMax : Bool) (a b : Nat) : Nat × Flags :=
  let va := decodeF f a
  let vb := decodeF f b
  if va.isNan && vb.isNan then (quietEnc f a, if va.isSnan || vb.isSnan then flagNV else 0)
  else if va.isNan then (b, if va.isSnan then flagNV else 0)
  else if vb.isNan then (a, if vb.isSnan then flagNV else 0)
  else if fLtOrdered f a b then (if isMax then b else a, 0) else (if isMax then a else b, 0)

/-- Numerical equality and order, −0 equal to +0, false with a NaN (R125). -/
def fEqNum (f : Fmt) (a b : Nat) : Bool :=
  let va := decodeF f a
  let vb := decodeF f b
  !va.isNan && !vb.isNan && ((va.isZero && vb.isZero) || (!fLtOrdered f a b && !fLtOrdered f b a))

def fLtNum (f : Fmt) (a b : Nat) : Bool :=
  let va := decodeF f a
  let vb := decodeF f b
  !va.isNan && !vb.isNan && !(va.isZero && vb.isZero) && fLtOrdered f a b

/-- Compares: 0 eq, 1 lt, 2 le, 3 un, with NV as R125 states. -/
def fCmp (f : Fmt) (c : Nat) (a b : Nat) : Bool × Flags :=
  let va := decodeF f a
  let vb := decodeF f b
  let anyNan := va.isNan || vb.isNan
  let anyS := va.isSnan || vb.isSnan
  match c with
  | 0 => (fEqNum f a b, if anyS then flagNV else 0)
  | 1 => (fLtNum f a b, if anyNan then flagNV else 0)
  | 2 => (fLtNum f a b || fEqNum f a b, if anyNan then flagNV else 0)
  | _ => (anyNan, if anyS then flagNV else 0)

/-- A NaN carried into a format (R67); FP6 and FP4 take +0 with NV (R62). -/
def nanTo (f : Fmt) (neg : Bool) (frac fb : Nat) (quiet : Bool) : Nat × Flags :=
  match f.sp with
  | .ieee =>
    let kept := if f.fb ≤ fb then frac / 2 ^ (fb - f.fb) else frac * 2 ^ (f.fb - fb)
    (f.signBit neg + (2 ^ f.eb - 1) * 2 ^ f.fb + (kept ||| 2 ^ (f.fb - 1)), if quiet then 0 else flagNV)
  | .e4m3 => (f.signBit neg + 0x7F, if quiet then 0 else flagNV)
  | .none => (0, flagNV)

/-- Conversion of an exact value to a format (R60 to R62, R67). -/
def valTo (f : Fmt) (mode : RMode) (sat : Bool) (v : FVal) (sr : Nat := 0) : Nat × Flags :=
  match v with
  | .nan n fr fb q => nanTo f n fr fb q
  | .inf n =>
    if sat then (f.signBit n + f.largestEnc, flagNV)
    else match f.sp with
      | .ieee => (f.infEnc n, 0)
      | .e4m3 => (f.signBit n + 0x7F, flagNV)
      | .none => (f.signBit n + f.largestEnc, flagNV)
  | .fin n m e => if m = 0 then (f.signBit n, 0) else roundF f mode sat n m e false sr

/-- Conversion between float formats. -/
def fCvt (src dst : Fmt) (mode : RMode) (sat : Bool) (x : Nat) (sr : Nat := 0) : Nat × Flags :=
  if src = dst then (if (decodeF src x).isSnan then (quietEnc src x, flagNV) else (x, 0))
  else valTo dst mode sat (decodeF src x) sr

/-- Conversion to an integer of the range `lo` to `hi` (R70). A value between the largest integer and the next one is rounded under mode 5
too before the range is tested, as R70 has it, where R61 would call it an overflow at once. Assumption 63, DEDUCED. -/
def toInt (mode : RMode) (lo hi : Int) (v : FVal) (sr : Nat := 0) : Int × Flags :=
  match v with
  | .nan .. => (0, flagNV)
  | .inf n => (if n then lo else hi, flagNV)
  | .fin n m e =>
    let (r, inexact) := roundAt mode n m e false sr 0
    let i := sgn n r
    if i < lo then (lo, flagNV) else if hi < i then (hi, flagNV) else (i, if inexact then flagNX else 0)

/-- Conversion from an integer: one rounding (R70). -/
def ofInt (f : Fmt) (mode : RMode) (sat : Bool) (i : Int) (sr : Nat := 0) : Nat × Flags := roundI f mode sat false i 0 sr

/-- RotL32 (R75). -/
def rotL32 (x : BitVec 32) (n : Nat) : BitVec 32 := x.rotateLeft n

/-- The rounding mixer (R75). -/
def mix (seed : BitVec 64) (stream row col : BitVec 32) : BitVec 32 :=
  let ks : List (BitVec 32) := [0x9E3779B9, 0x3C6EF372, 0xDAA66D2B, 0x78DDE6E4, 0x1715609D, 0xB54CDA56]
  let step := fun (t : BitVec 32 × BitVec 32 × BitVec 32 × BitVec 32) k =>
    let (a, b, c, d) := t
    let a := a + b + k
    let d := rotL32 (d ^^^ a) 16
    let c := c + d
    let b := rotL32 (b ^^^ c) 8
    (a, b, c, d)
  let (a, _, c, _) := ks.foldl step (seed.setWidth 32, (seed >>> 32).setWidth 32, stream ^^^ row, col)
  a ^^^ c

/-! Elementary functions (R196, R200): the exact value is approached by fixed-point series with 512 fraction bits, and the trace bit
keeps every inexact result inexact (assumption 14). -/

/-- Fraction bits of the fixed-point series. -/
def fixP : Nat := 512

/-- Σ t^(2k+1) / (2k+1) over `n` terms, alternating when `alt`: atanh or atan of t, in fixed point. `p` is the current power. -/
def atSeries (alt : Bool) (t2 : Nat) : Nat → Nat → Nat → Bool → Int
  | 0, _, _, _ => 0
  | n + 1, k, p, neg => (if neg then -((p / k : Nat) : Int) else ((p / k : Nat) : Int)) + atSeries alt t2 n (k + 2) (p * t2 / 2 ^ fixP) (alt && !neg)

/-- atan or atanh of the rational a / b. -/
def fixAt (alt : Bool) (a b : Nat) : Nat :=
  let t := a * 2 ^ fixP / b
  (atSeries alt (t * t / 2 ^ fixP) 180 1 t false).toNat

/-- ln 2 = 2 atanh(1/3). -/
def fixLn2 : Nat := 2 * fixAt false 1 3

/-- π by Machin's formula. -/
def fixPi : Nat := 16 * fixAt true 1 5 - 4 * fixAt true 1 239

/-- Σ y^k / k! from the term `term` of index k on, over `n` terms. -/
def expSeries (y : Nat) : Nat → Nat → Nat → Nat
  | 0, _, _ => 0
  | n + 1, k, term => term + expSeries y n (k + 1) (term * y / 2 ^ fixP / k)

/-- Alternating Σ y^(2k+1) / (2k+1)!. -/
def sinSeries (y2 : Nat) : Nat → Nat → Nat → Int
  | 0, _, _ => 0
  | n + 1, k, term => (term : Int) - sinSeries y2 n (k + 2) (term * y2 / 2 ^ fixP / ((k + 1) * (k + 2)))

/-- 2^x of a finite x (R196, R200): exact at integers. Beyond ±1,200 the result overflows or underflows in every format. -/
def fExp2 (f : Fmt) (mode : RMode) (v : FVal) : Nat × Flags :=
  match v with
  | .nan .. => (f.qnan, 0)
  | .inf n => (if n then 0 else f.infEnc false, 0)
  | .fin n m e =>
    if m = 0 then roundF f mode false false 1 0
    else if !dyLe m e 1200 0 then roundF f mode false false 1 (if n then -1200 else 1200)
    else if 0 ≤ e then roundF f mode false false 1 (sgn n (m * 2 ^ e.toNat))
    else
      let k := (-e).toNat
      let i : Int := if n then -((m + 2 ^ k - 1) / 2 ^ k : Nat) else (m / 2 ^ k : Nat)
      let fr := if n then (2 ^ k - m % 2 ^ k) % 2 ^ k else m % 2 ^ k
      if fr = 0 then roundF f mode false false 1 i
      else
        let y := fr * fixLn2 / 2 ^ k
        roundF f mode false false (expSeries y 140 1 (2 ^ fixP)) (i - fixP) true

/-- log2 x (R200): ±0 gives −∞ with DZ, a negative value NV, a power of two is exact. -/
def fLog2 (f : Fmt) (mode : RMode) (v : FVal) : Nat × Flags :=
  match v with
  | .nan .. => (f.qnan, 0)
  | .inf n => if n then (f.qnan, flagNV) else (f.infEnc false, 0)
  | .fin n m e =>
    if m = 0 then (f.infEnc true, flagDZ) else if n then (f.qnan, flagNV)
    else
      let l := bitLen m - 1
      let ex : Int := e + l
      if m = 2 ^ l then roundI f mode false false ex 0
      else
        let ln := 2 * fixAt false (m - 2 ^ l) (m + 2 ^ l)
        let fr := ln * 2 ^ fixP / fixLn2
        let t : Int := ex * 2 ^ fixP + fr
        roundF f mode false (decide (t < 0)) t.natAbs (-fixP) true

/-- sin(2πr) for 0 < r < 1/4 turn, r = m / 2^k, as a fixed-point number. -/
def fixSinTurn (m k : Nat) : Nat :=
  let y := 2 * fixPi * m / 2 ^ k
  (sinSeries (y * y / 2 ^ fixP) 80 1 y).toNat

/-- sin(2πx), x in turns (R200); `cosine` adds a quarter turn. Zeros take the sign R200 fixes. -/
def fSinTurn (f : Fmt) (mode : RMode) (cosine : Bool) (v : FVal) : Nat × Flags :=
  match v with
  | .nan .. => (f.qnan, 0)
  | .inf _ => (f.qnan, flagNV)
  | .fin n m e =>
    if m = 0 then (if cosine then roundF f mode false false 1 0 else (f.signBit n, 0))
    else
      let k := (if e < 0 then (-e).toNat else 0) + 2
      let x := (if e < 0 then m * 4 else m * 2 ^ e.toNat * 4) % 2 ^ k
      let x := (if cosine then x + 2 ^ (k - 2) else x) % 2 ^ k
      let quad := x / 2 ^ (k - 2)
      let r := x % 2 ^ (k - 2)
      let neg := (2 ≤ quad) != (!cosine && n)
      if r = 0 then
        if quad % 2 = 0 then (if cosine then 0 else f.signBit n, 0) else roundF f mode false neg 1 0
      else
        let t := if quad % 2 = 0 then r else 2 ^ (k - 2) - r
        roundF f mode false neg (fixSinTurn t k) (-fixP) true

/-- 1/x (R200). -/
def fRcp (f : Fmt) (mode : RMode) (v : FVal) : Nat × Flags :=
  match v with
  | .nan .. => (f.qnan, 0)
  | .inf n => (f.signBit n, 0)
  | .fin n m e => if m = 0 then (f.infEnc n, flagDZ) else roundRat f mode false n 1 m (-e)

/-- 1/√x (R200). -/
def fRsqrt (f : Fmt) (mode : RMode) (v : FVal) : Nat × Flags :=
  match v with
  | .nan .. => (f.qnan, 0)
  | .inf n => if n then (f.qnan, flagNV) else (0, 0)
  | .fin n m e =>
    if m = 0 then (f.infEnc n, flagDZ) else if n then (f.qnan, flagNV)
    else
      let (m, e) := if e % 2 = 0 then (m, e) else (2 * m, e - 1)
      let k := f.fb + 16 + bitLen m
      let r := isqrt (2 ^ (2 * k) / m)
      roundF f mode false false r (-(e / 2) - k) (r * r * m != 2 ^ (2 * k))

/-- A NaN operand of a unary function: quieted, NV if it signals (R66). -/
def unaryNan (f : Fmt) (x : Nat) (g : FVal → Nat × Flags) : Nat × Flags :=
  match firstNan f [x] with
  | some r => r
  | none => g (decodeF f x)

end Sys2Proof.Machine
end

