-- ==== Sys2Proof/Syntax.lean ====
section
/-! DEFINITION. The instructions and steps of the Ginkopel G4: one constructor of `Instr` for every row of
spec/opcode_table.json. The 271 rows with an encoding carry the fields of their word, named as the table names them; the 114 rows
without one are steps of the part outside a strand's words (95_what_each_step_holds.md) and carry what arrives with the step. -/

namespace Sys2Proof

/-- A device packet (R378), with what a group packet says of its sender (R243) and, the model's own, `xid`, which tells
the request that an answer answers, and `last`, the switch a refused message returns to (R387). -/
structure Packet where
  type : BitVec 6
  vc : BitVec 2 := 0
  esc : Bool := false
  bnc : BitVec 2 := 0
  ddev : BitVec 10 := 0
  ddie : BitVec 2 := 0
  sdev : BitVec 10 := 0
  sdie : BitVec 2 := 0
  part : BitVec 6 := 0
  len : BitVec 8 := 0
  seq : BitVec 15 := 0x7FFF
  arg : BitVec 64 := 0
  payload : List (BitVec 8) := []
  xid : Nat := 0
  sender : BitVec 32 := 0
  mseq : BitVec 64 := 0
  last : Nat := 0
  toPark : Bool := false
  bytes : Nat := 0
  since : Nat := 0
  port : Option Nat := none
  deriving DecidableEq, Repr

/-- A guest memory request (R395): a queue and packet sequence number, a grant with an offset or one of the queue's own areas
(R399), and the flags COMPL and REL. `area`: 0 a grant, 1 the slots, 2 the checkpoint area. -/
structure GuestReq where
  write : Bool
  queue : BitVec 16
  seq : BitVec 32
  area : BitVec 2 := 0
  grant : BitVec 16 := 0
  offset : BitVec 64 := 0
  size : Nat := 0
  data : List (BitVec 8) := []
  compl : Bool := false
  rel : Bool := false
  deriving DecidableEq, Repr

/-- What an ATS invalidation says (R370): the page of a PASID that changes, and the host address that it maps to from then on. -/
structure AtsPage where
  pasid : BitVec 20
  page : BitVec 64
  host : BitVec 64
  deriving DecidableEq, Repr

/-- Every row of the opcode table. Assumption 1, DESIGN CHOICE. -/
inductive Instr where
  /-- R147: Does nothing; bits 21:0 must be zero.  -/
  | nop
  /-- R116: Writes the 64-bit sum of two scalars to sD.  -/
  | add (d : BitVec 6) (a : BitVec 6) (b : BitVec 6)
  /-- R116: Writes the 64-bit difference of two scalars to sD.  -/
  | sub (d : BitVec 6) (a : BitVec 6) (b : BitVec 6)
  /-- R116: Writes the low 64 bits of the product of two scalars.  -/
  | mul (d : BitVec 6) (a : BitVec 6) (b : BitVec 6)
  /-- R116: Writes the high 64 bits of the signed product.  -/
  | mulhS (d : BitVec 6) (a : BitVec 6) (b : BitVec 6)
  /-- R116: Writes the high 64 bits of the unsigned product.  -/
  | mulhN (d : BitVec 6) (a : BitVec 6) (b : BitVec 6)
  /-- R117: Signed division truncating toward zero, with fixed results or an ARITH trap for the trap variant on special cases.  -/
  | divS (d : BitVec 6) (a : BitVec 6) (b : BitVec 6) (t : BitVec 1)
  /-- R117: Unsigned division, with a fixed result or ARITH trap on division by zero.  -/
  | divN (d : BitVec 6) (a : BitVec 6) (b : BitVec 6) (t : BitVec 1)
  /-- R117: Signed remainder with the sign of the dividend.  -/
  | remS (d : BitVec 6) (a : BitVec 6) (b : BitVec 6) (t : BitVec 1)
  /-- R117: Unsigned remainder.  -/
  | remN (d : BitVec 6) (a : BitVec 6) (b : BitVec 6) (t : BitVec 1)
  /-- R116: Bitwise and of two scalars.  -/
  | and (d : BitVec 6) (a : BitVec 6) (b : BitVec 6)
  /-- R116: Bitwise or of two scalars.  -/
  | or (d : BitVec 6) (a : BitVec 6) (b : BitVec 6)
  /-- R116: Bitwise xor of two scalars.  -/
  | xor (d : BitVec 6) (a : BitVec 6) (b : BitVec 6)
  /-- R116: Bitwise a and not b.  -/
  | andn (d : BitVec 6) (a : BitVec 6) (b : BitVec 6)
  /-- R116: Shifts left by b[5:0].  -/
  | shl (d : BitVec 6) (a : BitVec 6) (b : BitVec 6)
  /-- R116: Logical shift right by b[5:0].  -/
  | shrN (d : BitVec 6) (a : BitVec 6) (b : BitVec 6)
  /-- R116: Arithmetic shift right by b[5:0].  -/
  | shrS (d : BitVec 6) (a : BitVec 6) (b : BitVec 6)
  /-- R116: Rotates left by b[5:0].  -/
  | rot (d : BitVec 6) (a : BitVec 6) (b : BitVec 6)
  /-- R116: Signed minimum of two scalars.  -/
  | minS (d : BitVec 6) (a : BitVec 6) (b : BitVec 6)
  /-- R116: Unsigned minimum of two scalars.  -/
  | minN (d : BitVec 6) (a : BitVec 6) (b : BitVec 6)
  /-- R116: Signed maximum of two scalars.  -/
  | maxS (d : BitVec 6) (a : BitVec 6) (b : BitVec 6)
  /-- R116: Unsigned maximum of two scalars.  -/
  | maxN (d : BitVec 6) (a : BitVec 6) (b : BitVec 6)
  /-- R116: Counts leading zero bits.  -/
  | clz (d : BitVec 6) (a : BitVec 6)
  /-- R116: Counts trailing zero bits.  -/
  | ctz (d : BitVec 6) (a : BitVec 6)
  /-- R116: Counts one bits.  -/
  | popc (d : BitVec 6) (a : BitVec 6)
  /-- R116: Selects a or b by a condition scalar s0 to s15 named in F.  -/
  | sel (d : BitVec 6) (a : BitVec 6) (b : BitVec 6) (f : BitVec 4)
  /-- R118: Writes 1 or 0 by the integer condition in F.  -/
  | cmp (d : BitVec 6) (a : BitVec 6) (b : BitVec 6) (c : BitVec 4)
  /-- R119: Adds a sign-extended immediate.  -/
  | addi (d : BitVec 6) (a : BitVec 6) (i : BitVec 10)
  /-- R119: Ands with a sign-extended immediate.  -/
  | andi (d : BitVec 6) (a : BitVec 6) (i : BitVec 10)
  /-- R119: Ors with a sign-extended immediate.  -/
  | ori (d : BitVec 6) (a : BitVec 6) (i : BitVec 10)
  /-- R119: Xors with a sign-extended immediate.  -/
  | xori (d : BitVec 6) (a : BitVec 6) (i : BitVec 10)
  /-- R119: Shifts left by an immediate from 0 to 63.  -/
  | shli (d : BitVec 6) (a : BitVec 6) (i : BitVec 10)
  /-- R119: Logical shift right by an immediate.  -/
  | shriN (d : BitVec 6) (a : BitVec 6) (i : BitVec 10)
  /-- R119: Arithmetic shift right by an immediate.  -/
  | shriS (d : BitVec 6) (a : BitVec 6) (i : BitVec 10)
  /-- R120: Loads a sign-extended 16-bit or 42-bit immediate.  -/
  | li (d : BitVec 6) (i : BitVec 16)
  /-- R121: Extracts a bit field with sign extension.  -/
  | bfxS (d : BitVec 6) (a : BitVec 6) (b : BitVec 6)
  /-- R121: Extracts a bit field with zero extension.  -/
  | bfxN (d : BitVec 6) (a : BitVec 6) (b : BitVec 6)
  /-- R121: Inserts a bit field into sD.  -/
  | bfi (d : BitVec 6) (a : BitVec 6) (b : BitVec 6)
  /-- R122: Funnel shift left of sD:sA.  -/
  | fshl (d : BitVec 6) (a : BitVec 6) (b : BitVec 6)
  /-- R122: Funnel shift right of sD:sA.  -/
  | fshr (d : BitVec 6) (a : BitVec 6) (b : BitVec 6)
  /-- R124: Scalar floating-point add in f32 or f64.  -/
  | fadd (d : BitVec 6) (a : BitVec 6) (b : BitVec 6) (p : BitVec 1)
  /-- R124: Scalar floating-point subtract.  -/
  | fsub (d : BitVec 6) (a : BitVec 6) (b : BitVec 6) (p : BitVec 1)
  /-- R124: Scalar floating-point multiply.  -/
  | fmul (d : BitVec 6) (a : BitVec 6) (b : BitVec 6) (p : BitVec 1)
  /-- R124: Scalar fused multiply-add with sD as addend and destination.  -/
  | ffma (d : BitVec 6) (a : BitVec 6) (b : BitVec 6) (p : BitVec 1)
  /-- R124: Scalar floating-point divide.  -/
  | fdiv (d : BitVec 6) (a : BitVec 6) (b : BitVec 6) (p : BitVec 1)
  /-- R124: Scalar floating-point square root.  -/
  | fsqrt (d : BitVec 6) (a : BitVec 6) (p : BitVec 1)
  /-- R124: Scalar floating-point minimum under R68.  -/
  | fmin (d : BitVec 6) (a : BitVec 6) (b : BitVec 6) (p : BitVec 1)
  /-- R124: Scalar floating-point maximum under R68.  -/
  | fmax (d : BitVec 6) (a : BitVec 6) (b : BitVec 6) (p : BitVec 1)
  /-- R125: Floating-point compare writing 1 or 0.  -/
  | fcmp (d : BitVec 6) (a : BitVec 6) (b : BitVec 6) (c : BitVec 3) (p : BitVec 1)
  /-- R126: Scalar conversion selected by F, with stochastic coordinates from sB.  -/
  | fcvt (d : BitVec 6) (a : BitVec 6) (b : BitVec 6) (f : BitVec 4)
  /-- R128: Branches when the scalars are equal.  -/
  | beq (a : BitVec 6) (b : BitVec 6) (o : BitVec 10)
  /-- R128: Branches when the scalars differ.  -/
  | bne (a : BitVec 6) (b : BitVec 6) (o : BitVec 10)
  /-- R128: Branches on signed less-than.  -/
  | bltS (a : BitVec 6) (b : BitVec 6) (o : BitVec 10)
  /-- R128: Branches on unsigned less-than.  -/
  | bltN (a : BitVec 6) (b : BitVec 6) (o : BitVec 10)
  /-- R128: Branches on signed greater-or-equal.  -/
  | bgeS (a : BitVec 6) (b : BitVec 6) (o : BitVec 10)
  /-- R128: Branches on unsigned greater-or-equal.  -/
  | bgeN (a : BitVec 6) (b : BitVec 6) (o : BitVec 10)
  /-- R129: Continues fetch at the target.  -/
  | jmp (o : BitVec 22)
  /-- R129: Writes the return address to s1 and jumps.  -/
  | jal (o : BitVec 22)
  /-- R129: Writes the return address to sD and jumps to S[sA].  -/
  | jr (d : BitVec 6) (a : BitVec 6)
  /-- R131: Pushes a zero-overhead loop level with a scalar count, or skips a zero-trip body.  -/
  | loop (a : BitVec 6) (o : BitVec 16)
  /-- R131: Pushes a zero-overhead loop level with an immediate count.  -/
  | loopi (c : BitVec 10) (o : BitVec 12)
  /-- R133: Conditionally pops loop levels and continues after the outermost popped end.  -/
  | lbrk (l : BitVec 4) (z : BitVec 1) (a : BitVec 6)
  /-- R135: Arrives at a team barrier and waits for the phase.  -/
  | barSync (b : BitVec 4) (m : BitVec 1)
  /-- R135: Arrives at a team barrier without waiting.  -/
  | barArr (b : BitVec 4) (m : BitVec 1)
  /-- R135: Waits for the phase of the strand's arrival.  -/
  | barWait (b : BitVec 4) (m : BitVec 1)
  /-- R139: Waits for the barrier phase with a TIME deadline and writes success to sD.  -/
  | barWaitt (b : BitVec 4) (m : BitVec 1) (d : BitVec 6) (a : BitVec 6)
  /-- R135: Arrives and drops out of later phases.  -/
  | barDrop (b : BitVec 4) (m : BitVec 1)
  /-- R140: Increments an event counter at completion.  -/
  | evSig (e : BitVec 4)
  /-- R140: Holds the CTRL queue until a counter satisfies a threshold.  -/
  | evWait (e : BitVec 4) (t : BitVec 8)
  /-- R140: Timed counter wait writing 1, or 0 with STAT.TIMEOUT.  -/
  | evWaitt (e : BitVec 4) (d : BitVec 6) (a : BitVec 6)
  /-- R142: Reads a CSR into sD.  -/
  | csrr (d : BitVec 6) (c : BitVec 12)
  /-- R142: Writes a CSR field by field under its access codes.  -/
  | csrw (a : BitVec 6) (c : BitVec 12)
  /-- R143: Reads a mailbox of the running context, optionally clearing it.  -/
  | mbrd (d : BitVec 6) (c : BitVec 1) (n : BitVec 3)
  /-- R143: Writes a mailbox of the running context.  -/
  | mbwr (a : BitVec 6) (n : BitVec 3)
  /-- R144: Reads TIME into sD.  -/
  | time (d : BitVec 6)
  /-- R144: Reads the cycles the team has been placed since strand start.  -/
  | timeCyc (d : BitVec 6)
  /-- R145: Offers a pre-emption point to a waiting team that fits.  -/
  | yield
  /-- R145: Holds the CTRL queue for 64 cycles.  -/
  | yieldPause
  /-- R146: Raises USER_TRAP with TVAL from a scalar and an immediate.  -/
  | trap (a : BitVec 6) (i : BitVec 16)
  /-- R257: Hands the team's tile to an eligible team of the named context.  -/
  | cswitch (d : BitVec 6) (a : BitVec 6)
  /-- R256: Returns at once if a named wake holds, else takes the team off with a park condition.  -/
  | park (w : BitVec 4) (m : BitVec 1) (e : BitVec 1) (t : BitVec 1) (l : BitVec 1) (r : BitVec 1) (a : BitVec 6) (b : BitVec 6)
  /-- R32: Ends the strand; later words are not executed.  -/
  | parkEnd
  /-- R258: Sets or clears a context's predicted wake time.  -/
  | wakehint (a : BitVec 6) (b : BitVec 6)
  /-- R259: Returns the status word of a context.  -/
  | ctxqSt (d : BitVec 6) (a : BitVec 6)
  /-- R259: Returns the predicted wake time of a context.  -/
  | ctxqWake (d : BitVec 6) (a : BitVec 6)
  /-- R259: Returns the counts of a context's KV pages per tier.  -/
  | ctxqTiers (d : BitVec 6) (a : BitVec 6)
  /-- R260: Creates a context from a record and returns its handle or 0.  -/
  | ctxnew (d : BitVec 6) (a : BitVec 6)
  /-- R262: Frees a parked or swapped context, discarding its teams and objects.  -/
  | ctxfree (d : BitVec 6) (a : BitVec 6)
  /-- R261: Changes a context's priority.  -/
  | ctxsetPrio (d : BitVec 6) (a : BitVec 6) (b : BitVec 6)
  /-- R261: Changes a parked context's table root and walker profile.  -/
  | ctxsetBind (d : BitVec 6) (a : BitVec 6) (b : BitVec 6)
  /-- R265: Returns from a trap handler and reissues the trapped unit.  -/
  | rtt
  /-- R348: Returns from a trap handler, completing the trapped unit with no effect.  -/
  | rttNext
  /-- R264: Ends the issuing team and records HALTED with a code.  -/
  | halt (a : BitVec 6)
  /-- R263: Discards every team of a context and parks it.  -/
  | kill (d : BitVec 6) (a : BitVec 6)
  /-- R266: Adds a pin with a tier ceiling to a KV page object.  -/
  | hingePin (d : BitVec 6) (a : BitVec 6) (b : BitVec 6)
  /-- R266: Removes the most recent pin the running context made on an object.  -/
  | hingeUnpin (d : BitVec 6) (a : BitVec 6)
  /-- R267: Returns a snapshot of an object's directory entry.  -/
  | hingeQ (d : BitVec 6) (a : BitVec 6)
  /-- R268: Asks Hinge to migrate an object to a tier.  -/
  | hingeMove (d : BitVec 6) (a : BitVec 6) (b : BitVec 6)
  /-- R269: Removes every stage-2 and fabric-MMU entry of a partition.  -/
  | tlbinvPart (a : BitVec 6)
  /-- R269: Removes stage-2 entries covering one guest-physical page.  -/
  | tlbinvS2 (a : BitVec 6)
  /-- R269: Removes fabric-MMU entries covering a window offset.  -/
  | tlbinvFab (a : BitVec 6)
  /-- R269: Removes every stage-2 and fabric-MMU entry of the device.  -/
  | tlbinvAll
  /-- R269: Removes translations from host process tables of a root or all roots.  -/
  | tlbinvHost (a : BitVec 6)
  /-- R270: Reads a word of a strand slot's hang record.  -/
  | hangRd (d : BitVec 6) (a : BitVec 6) (b : BitVec 6)
  /-- R155: Loads a sign-extended byte.  -/
  | ldBS (c : BitVec 4) (d : BitVec 6) (a : BitVec 6) (i : BitVec 6)
  /-- R155: Loads a zero-extended byte.  -/
  | ldBN (c : BitVec 4) (d : BitVec 6) (a : BitVec 6) (i : BitVec 6)
  /-- R155: Loads a sign-extended halfword.  -/
  | ldHS (c : BitVec 4) (d : BitVec 6) (a : BitVec 6) (i : BitVec 6)
  /-- R155: Loads a zero-extended halfword.  -/
  | ldHN (c : BitVec 4) (d : BitVec 6) (a : BitVec 6) (i : BitVec 6)
  /-- R155: Loads a sign-extended word.  -/
  | ldWS (c : BitVec 4) (d : BitVec 6) (a : BitVec 6) (i : BitVec 6)
  /-- R155: Loads a zero-extended word.  -/
  | ldWN (c : BitVec 4) (d : BitVec 6) (a : BitVec 6) (i : BitVec 6)
  /-- R155: Loads a dword.  -/
  | ldD (c : BitVec 4) (d : BitVec 6) (a : BitVec 6) (i : BitVec 6)
  /-- R155: Stores a byte.  -/
  | stB (c : BitVec 4) (d : BitVec 6) (a : BitVec 6) (i : BitVec 6)
  /-- R155: Stores a halfword.  -/
  | stH (c : BitVec 4) (d : BitVec 6) (a : BitVec 6) (i : BitVec 6)
  /-- R155: Stores a word.  -/
  | stW (c : BitVec 4) (d : BitVec 6) (a : BitVec 6) (i : BitVec 6)
  /-- R155: Stores a dword.  -/
  | stD (c : BitVec 4) (d : BitVec 6) (a : BitVec 6) (i : BitVec 6)
  /-- R156: Loads 512 bytes into a vector register or pushes a queue.  -/
  | ldV (c : BitVec 4) (d : BitVec 6) (a : BitVec 6) (i : BitVec 6)
  /-- R156: Stores a vector register or popped queue entry.  -/
  | stV (c : BitVec 4) (d : BitVec 6) (a : BitVec 6) (i : BitVec 6)
  /-- R157: Loads eight strided 64-byte segments.  -/
  | ldVs (c : BitVec 4) (d : BitVec 6) (a : BitVec 6) (b : BitVec 6)
  /-- R157: Stores eight strided 64-byte segments.  -/
  | stVs (c : BitVec 4) (d : BitVec 6) (a : BitVec 6) (b : BitVec 6)
  /-- R159: Loads a 1,024-bit mask.  -/
  | ldM (c : BitVec 4) (d : BitVec 4) (a : BitVec 6) (i : BitVec 6)
  /-- R159: Stores a 1,024-bit mask.  -/
  | stM (c : BitVec 4) (d : BitVec 4) (a : BitVec 6) (i : BitVec 6)
  /-- R164: Pushes the next or a named chunk of a stream, with scale and metadata entries.  -/
  | sfetch (c : BitVec 4) (d : BitVec 6) (a : BitVec 4) (b : BitVec 6)
  /-- R166: Gathers 8-bit elements by index vector.  -/
  | gathB (c : BitVec 4) (d : BitVec 6) (a : BitVec 6) (b : BitVec 6)
  /-- R166: Gathers 16-bit elements.  -/
  | gathH (c : BitVec 4) (d : BitVec 6) (a : BitVec 6) (b : BitVec 6)
  /-- R166: Gathers 32-bit elements.  -/
  | gathW (c : BitVec 4) (d : BitVec 6) (a : BitVec 6) (b : BitVec 6)
  /-- R166: Scatters 8-bit elements.  -/
  | scatB (c : BitVec 4) (d : BitVec 6) (a : BitVec 6) (b : BitVec 6)
  /-- R166: Scatters 16-bit elements.  -/
  | scatH (c : BitVec 4) (d : BitVec 6) (a : BitVec 6) (b : BitVec 6)
  /-- R166: Scatters 32-bit elements.  -/
  | scatW (c : BitVec 4) (d : BitVec 6) (a : BitVec 6) (b : BitVec 6)
  /-- R167: Bounds-checked block gather of stream rows, optionally trapping BOUNDS.  -/
  | gathb (c : BitVec 4) (d : BitVec 6) (t : BitVec 1) (a : BitVec 4) (b : BitVec 6)
  /-- R165: Prefetches a line into L1 or the MSC; never faults.  -/
  | pref (l : BitVec 1) (a : BitVec 6) (i : BitVec 6)
  /-- R163: Loads a 64-byte stream descriptor.  -/
  | dld (c : BitVec 4) (d : BitVec 4) (a : BitVec 6) (i : BitVec 6)
  /-- R163: Stores a stream descriptor.  -/
  | dst (c : BitVec 4) (d : BitVec 4) (a : BitVec 6) (i : BitVec 6)
  /-- R163: Writes one dword of a descriptor from a scalar.  -/
  | dset (d : BitVec 4) (a : BitVec 6) (k : BitVec 3)
  /-- R169: Waits until a ring slot is published, or reports an ended empty window.  -/
  | rwaitf (c : BitVec 4) (d : BitVec 6) (a : BitVec 6) (b : BitVec 6)
  /-- R169: Waits until a ring slot is free to write.  -/
  | rwaite (c : BitVec 4) (a : BitVec 6) (b : BitVec 6)
  /-- R169: Publishes a ring slot and advances TAIL with a release.  -/
  | rpub (c : BitVec 4) (a : BitVec 6) (b : BitVec 6)
  /-- R169: Releases a ring slot and advances HEAD.  -/
  | rrel (c : BitVec 4) (a : BitVec 6) (b : BitVec 6)
  /-- R169: Claims a producer slot number.  -/
  | rclaimP (c : BitVec 4) (d : BitVec 6) (a : BitVec 6)
  /-- R169: Claims a consumer slot number.  -/
  | rclaimC (c : BitVec 4) (d : BitVec 6) (a : BitVec 6)
  /-- R170: Binds a scratchpad window to a ring and starts filling it.  -/
  | wmap (c : BitVec 4) (d : BitVec 4) (a : BitVec 6) (b : BitVec 6)
  /-- R170: Unbinds a window.  -/
  | wmapOff (c : BitVec 4) (a : BitVec 6)
  /-- R171: Consumes window slots by advancing HEAD once enough are published.  -/
  | wadv (c : BitVec 4) (a : BitVec 6) (b : BitVec 6)
  /-- R172: 32-bit atomic read-modify-write by AOP.  -/
  | amoW (p : BitVec 4) (d : BitVec 6) (a : BitVec 6) (b : BitVec 6)
  /-- R172: 64-bit atomic read-modify-write by AOP.  -/
  | amoD (p : BitVec 4) (d : BitVec 6) (a : BitVec 6) (b : BitVec 6)
  /-- R172: Floating-point atomic add, min or max.  -/
  | amoF (p : BitVec 4) (d : BitVec 6) (a : BitVec 6) (b : BitVec 6)
  /-- R173: 32-bit compare-and-swap.  -/
  | casW (t : BitVec 1) (d : BitVec 6) (a : BitVec 6) (b : BitVec 6)
  /-- R173: 64-bit compare-and-swap.  -/
  | casD (t : BitVec 1) (d : BitVec 6) (a : BitVec 6) (b : BitVec 6)
  /-- R173: 128-bit compare-and-swap on register pairs.  -/
  | casQ (t : BitVec 1) (d : BitVec 6) (a : BitVec 6) (b : BitVec 6)
  /-- R175: Orders the strand's accesses across two classes.  -/
  | fenceCls (c : BitVec 4) (k : BitVec 4)
  /-- R176: Acquire, release or both at a scope for every class.  -/
  | fence
  /-- R177: Makes earlier writes through one view visible through other views.  -/
  | fenceView
  /-- R178: Loads a dword at an intermediate fabric address.  -/
  | fld (c : BitVec 4) (d : BitVec 6) (a : BitVec 6) (i : BitVec 6)
  /-- R178: Stores a dword at an intermediate fabric address.  -/
  | fst (c : BitVec 4) (d : BitVec 6) (a : BitVec 6) (i : BitVec 6)
  /-- R178: Fabric 64-bit atomic by AOP.  -/
  | famo (p : BitVec 4) (d : BitVec 6) (a : BitVec 6) (b : BitVec 6)
  /-- R178: Fabric 64-bit compare-and-swap.  -/
  | fcas (t : BitVec 1) (d : BitVec 6) (a : BitVec 6) (b : BitVec 6)
  /-- R183: Integer vector add.  -/
  | vadd (y : BitVec 3) (d : BitVec 6) (a : BitVec 6) (b : BitVec 6) (s : BitVec 1)
  /-- R183: Integer vector subtract.  -/
  | vsub (y : BitVec 3) (d : BitVec 6) (a : BitVec 6) (b : BitVec 6) (s : BitVec 1)
  /-- R183: Integer vector multiply, low half.  -/
  | vmul (y : BitVec 3) (d : BitVec 6) (a : BitVec 6) (b : BitVec 6) (s : BitVec 1)
  /-- R183: Integer vector multiply, high half.  -/
  | vmulh (y : BitVec 3) (d : BitVec 6) (a : BitVec 6) (b : BitVec 6) (s : BitVec 1)
  /-- R183: Integer vector multiply-add into D.  -/
  | vmad (y : BitVec 3) (d : BitVec 6) (a : BitVec 6) (b : BitVec 6) (s : BitVec 1)
  /-- R183: Integer vector absolute value.  -/
  | vabs (y : BitVec 3) (d : BitVec 6) (a : BitVec 6) (s : BitVec 1)
  /-- R183: Integer vector negate.  -/
  | vneg (y : BitVec 3) (d : BitVec 6) (a : BitVec 6) (s : BitVec 1)
  /-- R183: Integer vector minimum.  -/
  | vmin (y : BitVec 3) (d : BitVec 6) (a : BitVec 6) (b : BitVec 6) (s : BitVec 1)
  /-- R183: Integer vector maximum.  -/
  | vmax (y : BitVec 3) (d : BitVec 6) (a : BitVec 6) (b : BitVec 6) (s : BitVec 1)
  /-- R183: Vector bitwise and.  -/
  | vand (y : BitVec 3) (d : BitVec 6) (a : BitVec 6) (b : BitVec 6) (s : BitVec 1)
  /-- R183: Vector bitwise or.  -/
  | vor (y : BitVec 3) (d : BitVec 6) (a : BitVec 6) (b : BitVec 6) (s : BitVec 1)
  /-- R183: Vector bitwise xor.  -/
  | vxor (y : BitVec 3) (d : BitVec 6) (a : BitVec 6) (b : BitVec 6) (s : BitVec 1)
  /-- R183: Vector bitwise not.  -/
  | vnot (y : BitVec 3) (d : BitVec 6) (a : BitVec 6) (s : BitVec 1)
  /-- R183: Vector shift left by element.  -/
  | vshl (y : BitVec 3) (d : BitVec 6) (a : BitVec 6) (b : BitVec 6) (s : BitVec 1)
  /-- R183: Vector shift right by element.  -/
  | vshr (y : BitVec 3) (d : BitVec 6) (a : BitVec 6) (b : BitVec 6) (s : BitVec 1)
  /-- R185: Vector bit-field extract.  -/
  | vbfx (y : BitVec 3) (d : BitVec 6) (a : BitVec 6) (b : BitVec 6) (s : BitVec 1)
  /-- R185: Vector bit-field insert into D.  -/
  | vbfi (y : BitVec 3) (d : BitVec 6) (a : BitVec 6) (b : BitVec 6) (s : BitVec 1)
  /-- R185: Vector funnel shift left.  -/
  | vfshl (y : BitVec 3) (d : BitVec 6) (a : BitVec 6) (b : BitVec 6) (s : BitVec 1)
  /-- R185: Vector funnel shift right.  -/
  | vfshr (y : BitVec 3) (d : BitVec 6) (a : BitVec 6) (b : BitVec 6) (s : BitVec 1)
  /-- R183: Vector population count.  -/
  | vpopc (y : BitVec 3) (d : BitVec 6) (a : BitVec 6) (s : BitVec 1)
  /-- R183: Vector leading-zero count.  -/
  | vclz (y : BitVec 3) (d : BitVec 6) (a : BitVec 6) (s : BitVec 1)
  /-- R184: Vector add of a signed immediate.  -/
  | vaddi (y : BitVec 3) (d : BitVec 6) (a : BitVec 6) (i : BitVec 6) (s : BitVec 1)
  /-- R184: Vector shift left by an immediate.  -/
  | vshli (y : BitVec 3) (d : BitVec 6) (a : BitVec 6) (i : BitVec 6) (s : BitVec 1)
  /-- R184: Vector shift right by an immediate.  -/
  | vshri (y : BitVec 3) (d : BitVec 6) (a : BitVec 6) (i : BitVec 6) (s : BitVec 1)
  /-- R186: Vector floating-point add.  -/
  | vfadd (y : BitVec 3) (d : BitVec 6) (a : BitVec 6) (b : BitVec 6) (s : BitVec 1)
  /-- R186: Vector floating-point subtract.  -/
  | vfsub (y : BitVec 3) (d : BitVec 6) (a : BitVec 6) (b : BitVec 6) (s : BitVec 1)
  /-- R186: Vector floating-point multiply.  -/
  | vfmul (y : BitVec 3) (d : BitVec 6) (a : BitVec 6) (b : BitVec 6) (s : BitVec 1)
  /-- R186: Vector fused multiply-add into D.  -/
  | vfma (y : BitVec 3) (d : BitVec 6) (a : BitVec 6) (b : BitVec 6) (s : BitVec 1)
  /-- R186: Vector floating-point minimum.  -/
  | vfmin (y : BitVec 3) (d : BitVec 6) (a : BitVec 6) (b : BitVec 6) (s : BitVec 1)
  /-- R186: Vector floating-point maximum.  -/
  | vfmax (y : BitVec 3) (d : BitVec 6) (a : BitVec 6) (b : BitVec 6) (s : BitVec 1)
  /-- R186: Clears each element's sign bit.  -/
  | vfabs (y : BitVec 3) (d : BitVec 6) (a : BitVec 6) (s : BitVec 1)
  /-- R186: Inverts each element's sign bit.  -/
  | vfneg (y : BitVec 3) (d : BitVec 6) (a : BitVec 6) (s : BitVec 1)
  /-- R187: Integer equality compare into a mask.  -/
  | vcmpEq (y : BitVec 3) (d : BitVec 4) (a : BitVec 6) (b : BitVec 6) (s : BitVec 1)
  /-- R187: Integer inequality compare into a mask.  -/
  | vcmpNe (y : BitVec 3) (d : BitVec 4) (a : BitVec 6) (b : BitVec 6) (s : BitVec 1)
  /-- R187: Integer less-than compare into a mask.  -/
  | vcmpLt (y : BitVec 3) (d : BitVec 4) (a : BitVec 6) (b : BitVec 6) (s : BitVec 1)
  /-- R187: Integer greater-or-equal compare into a mask.  -/
  | vcmpGe (y : BitVec 3) (d : BitVec 4) (a : BitVec 6) (b : BitVec 6) (s : BitVec 1)
  /-- R187: Float equality compare into a mask.  -/
  | vfcmpEq (y : BitVec 3) (d : BitVec 4) (a : BitVec 6) (b : BitVec 6) (s : BitVec 1)
  /-- R187: Float less-than compare into a mask.  -/
  | vfcmpLt (y : BitVec 3) (d : BitVec 4) (a : BitVec 6) (b : BitVec 6) (s : BitVec 1)
  /-- R187: Float less-or-equal compare into a mask.  -/
  | vfcmpLe (y : BitVec 3) (d : BitVec 4) (a : BitVec 6) (b : BitVec 6) (s : BitVec 1)
  /-- R187: Float unordered compare into a mask.  -/
  | vfcmpUn (y : BitVec 3) (d : BitVec 4) (a : BitVec 6) (b : BitVec 6) (s : BitVec 1)
  /-- R188: Bitwise and of masks.  -/
  | mand (d : BitVec 4) (a : BitVec 4) (b : BitVec 4) (s : BitVec 1)
  /-- R188: Bitwise or of masks.  -/
  | mor (d : BitVec 4) (a : BitVec 4) (b : BitVec 4) (s : BitVec 1)
  /-- R188: Bitwise xor of masks.  -/
  | mxor (d : BitVec 4) (a : BitVec 4) (b : BitVec 4) (s : BitVec 1)
  /-- R188: Inverts a mask.  -/
  | mnot (d : BitVec 4) (a : BitVec 4) (s : BitVec 1)
  /-- R188: Counts the one bits of a mask into element 0 of a vector.  -/
  | mpopc (d : BitVec 6) (a : BitVec 4) (s : BitVec 1)
  /-- R188: Writes the index of a mask's lowest one bit.  -/
  | mfirst (d : BitVec 6) (a : BitVec 4) (s : BitVec 1)
  /-- R189: Builds a mask of bits below a scalar count.  -/
  | msetLt (d : BitVec 4) (a : BitVec 6) (s : BitVec 1)
  /-- R189: Builds a mask of bits at or above a scalar count.  -/
  | msetGe (d : BitVec 4) (a : BitVec 6) (s : BitVec 1)
  /-- R189: Pops a queue entry and copies its element mask.  -/
  | msetQ (d : BitVec 4) (a : BitVec 6) (s : BitVec 1)
  /-- R190: Selects elements of A or B by the mask.  -/
  | vsel (y : BitVec 3) (d : BitVec 6) (a : BitVec 6) (b : BitVec 6) (s : BitVec 1)
  /-- R190: Moves a vector.  -/
  | vmov (y : BitVec 3) (d : BitVec 6) (a : BitVec 6) (s : BitVec 1)
  /-- R190: Broadcasts a scalar to every element.  -/
  | vbcast (y : BitVec 3) (d : BitVec 6) (a : BitVec 6) (s : BitVec 1)
  /-- R190: Extracts one element into element 0.  -/
  | vext (y : BitVec 3) (d : BitVec 6) (a : BitVec 6) (b : BitVec 6) (s : BitVec 1)
  /-- R190: Inserts element 0 of A at a scalar position of D.  -/
  | vins (y : BitVec 3) (d : BitVec 6) (a : BitVec 6) (b : BitVec 6) (s : BitVec 1)
  /-- R190: Permutes A by indices in B.  -/
  | vperm (y : BitVec 3) (d : BitVec 6) (a : BitVec 6) (b : BitVec 6) (s : BitVec 1)
  /-- R190: Shuffles A and B by indices held in D.  -/
  | vshuf (y : BitVec 3) (d : BitVec 6) (a : BitVec 6) (b : BitVec 6) (s : BitVec 1)
  /-- R190: Rotates elements by a scalar amount.  -/
  | vrot (y : BitVec 3) (d : BitVec 6) (a : BitVec 6) (b : BitVec 6) (s : BitVec 1)
  /-- R191: Integer tree-sum reduction.  -/
  | vredAdd (y : BitVec 3) (d : BitVec 6) (a : BitVec 6) (s : BitVec 1)
  /-- R191: Integer maximum reduction.  -/
  | vredMax (y : BitVec 3) (d : BitVec 6) (a : BitVec 6) (s : BitVec 1)
  /-- R191: Integer minimum reduction.  -/
  | vredMin (y : BitVec 3) (d : BitVec 6) (a : BitVec 6) (s : BitVec 1)
  /-- R191: Float pairwise-tree sum reduction to f32.  -/
  | vfredAdd (y : BitVec 3) (d : BitVec 6) (a : BitVec 6) (s : BitVec 1)
  /-- R191: Float maximum reduction.  -/
  | vfredMax (y : BitVec 3) (d : BitVec 6) (a : BitVec 6) (s : BitVec 1)
  /-- R191: Float minimum reduction.  -/
  | vfredMin (y : BitVec 3) (d : BitVec 6) (a : BitVec 6) (s : BitVec 1)
  /-- R192: Inclusive sequential prefix sum.  -/
  | vscanAdd (y : BitVec 3) (d : BitVec 6) (a : BitVec 6) (f : BitVec 1) (s : BitVec 1)
  /-- R193: Converts between element types into 1, 2 or 4 registers or entries.  -/
  | vcvt (y : BitVec 3) (d : BitVec 6) (a : BitVec 6) (q : BitVec 1) (r : BitVec 1) (w : BitVec 1) (t : BitVec 3) (s : BitVec 1)
  /-- R194: Quantises 128 f32 values into four scaled blocks and keeps residuals.  -/
  | vquant (y : BitVec 3) (d : BitVec 6) (a : BitVec 6) (b : BitVec 6) (s : BitVec 1)
  /-- R195: Expands quantised blocks to f32.  -/
  | vdequant (y : BitVec 3) (d : BitVec 6) (a : BitVec 6) (s : BitVec 1)
  /-- R196: One online-softmax step over a block of scores.  -/
  | vsmxUpd (d : BitVec 6) (a : BitVec 6) (b : BitVec 6) (s : BitVec 1)
  /-- R197: Divides an output row by the running sum, or writes zeros for an empty row.  -/
  | vsmxFin (d : BitVec 6) (a : BitVec 6) (b : BitVec 6) (s : BitVec 1)
  /-- R199: Adds a bucketed relative bias to scores.  -/
  | vrbias (d : BitVec 6) (a : BitVec 6) (b : BitVec 6) (s : BitVec 1)
  /-- R190: Writes an index sequence from a scalar base.  -/
  | vidx (y : BitVec 3) (d : BitVec 6) (a : BitVec 6) (s : BitVec 1)
  /-- R190: Looks up B by 4-bit codes in A.  -/
  | vlut (y : BitVec 3) (d : BitVec 6) (a : BitVec 6) (b : BitVec 6) (s : BitVec 1)
  /-- R214: Adds the product of two operand streams into an accumulator tile in Cam steps.  -/
  | mmt (c : BitVec 3) (a : BitVec 4) (b : BitVec 4) (n : BitVec 4) (p : BitVec 3) (s : BitVec 1) (r : BitVec 1) (z : BitVec 1)
  /-- R214: Tile multiply with B from a weight buffer.  -/
  | mmtWb (c : BitVec 3) (a : BitVec 4) (w : BitVec 2) (n : BitVec 4) (p : BitVec 3) (s : BitVec 1) (z : BitVec 1)
  /-- R217: Copies a speculative shadow to the main tile.  -/
  | scommit (c : BitVec 3) (n : BitVec 4)
  /-- R217: Drops a speculative shadow.  -/
  | sdrop (c : BitVec 3) (n : BitVec 4)
  /-- R218: Zeroes a tile or its shadow.  -/
  | accz (c : BitVec 3) (n : BitVec 4) (s : BitVec 1)
  /-- R219: Loads a tile region from a stream.  -/
  | accld (c : BitVec 3) (a : BitVec 4) (n : BitVec 4) (s : BitVec 1)
  /-- R220: Stores a tile region to a stream with conversion.  -/
  | accst (c : BitVec 3) (a : BitVec 4) (n : BitVec 4) (s : BitVec 1) (t : BitVec 1)
  /-- R221: Copies one tile row to a vector register or queue, optionally clearing it.  -/
  | accmv (c : BitVec 3) (d : BitVec 6) (a : BitVec 6) (s : BitVec 1) (l : BitVec 1)
  /-- R215: Copies an encoded stream into a weight buffer.  -/
  | wbload (w : BitVec 2) (a : BitVec 4) (n : BitVec 4)
  /-- R226: Blocked attention with online softmax on the array.  -/
  | attb (c : BitVec 2) (a : BitVec 4) (b : BitVec 4) (n : BitVec 4) (f : BitVec 1) (z : BitVec 1)
  /-- R200: Correctly rounded 2 to the x per element.  -/
  | sfuExp2 (y : BitVec 3) (d : BitVec 6) (a : BitVec 6) (k : BitVec 3)
  /-- R200: Correctly rounded log2 per element.  -/
  | sfuLog2 (y : BitVec 3) (d : BitVec 6) (a : BitVec 6) (k : BitVec 3)
  /-- R200: Correctly rounded reciprocal.  -/
  | sfuRcp (y : BitVec 3) (d : BitVec 6) (a : BitVec 6) (k : BitVec 3)
  /-- R200: Correctly rounded reciprocal square root.  -/
  | sfuRsqrt (y : BitVec 3) (d : BitVec 6) (a : BitVec 6) (k : BitVec 3)
  /-- R200: Correctly rounded square root.  -/
  | sfuSqrt (y : BitVec 3) (d : BitVec 6) (a : BitVec 6) (k : BitVec 3)
  /-- R200: Sine of 2 pi x.  -/
  | sfuSin (y : BitVec 3) (d : BitVec 6) (a : BitVec 6) (k : BitVec 3)
  /-- R200: Cosine of 2 pi x.  -/
  | sfuCos (y : BitVec 3) (d : BitVec 6) (a : BitVec 6) (k : BitVec 3)
  /-- R202: Interpolates a table at each element.  -/
  | tint (y : BitVec 3) (d : BitVec 6) (a : BitVec 6) (f : BitVec 3) (k : BitVec 3)
  /-- R201: Writes part of an interpolation table.  -/
  | tload (d : BitVec 6) (a : BitVec 6) (f : BitVec 3) (k : BitVec 3)
  /-- R204: Empties the top-k sorter and sets capacity and key type.  -/
  | topkInit (y : BitVec 3) (a : BitVec 6) (k : BitVec 3)
  /-- R204: Offers the active keys of a vector to the sorter.  -/
  | topkFeed (y : BitVec 3) (d : BitVec 6) (a : BitVec 6) (k : BitVec 3)
  /-- R204: Writes 128 held indices or keys selected by FN.  -/
  | topkEmit (d : BitVec 6) (a : BitVec 6) (f : BitVec 3) (k : BitVec 3)
  /-- R204: Returns the sorter's counts, threshold and capacity.  -/
  | topkQ (d : BitVec 6) (k : BitVec 3)
  /-- R233: Hands a byte copy to the tile copy engine.  -/
  | copy (x : BitVec 6) (y : BitVec 6) (z : BitVec 6) (e : BitVec 4)
  /-- R235: A copy that carries the next MTX word as its follow-on.  -/
  | copyMmt (x : BitVec 6) (y : BitVec 6) (z : BitVec 6) (e : BitVec 4)
  /-- R237: Attaches the participant to a reduction slot.  -/
  | collOpen (x : BitVec 6) (e : BitVec 4)
  /-- R238: Contributes the buffer to the rank's next round.  -/
  | collRed (x : BitVec 6) (e : BitVec 4)
  /-- R240: Contributes an empty round.  -/
  | collBar (x : BitVec 6) (e : BitVec 4)
  /-- R241: Detaches the rank from its slot.  -/
  | collClose (x : BitVec 6) (e : BitVec 4)
  /-- R244: Advertises one unit of readiness with a receive buffer.  -/
  | gready (x : BitVec 6) (y : BitVec 6) (e : BitVec 4)
  /-- R245: Withdraws the unit held by a receive buffer.  -/
  | gunready (x : BitVec 6) (y : BitVec 6) (e : BitVec 4)
  /-- R246: Sends a message to a group, optionally ordered by key.  -/
  | gsend (x : BitVec 6) (y : BitVec 6) (o : BitVec 1) (e : BitVec 4)
  /-- R248: Completes when a receive buffer's unit resolves.  -/
  | grecv (x : BitVec 6) (e : BitVec 4)
  /-- R249: Appends a packet to a guest queue with a release at dev scope.  -/
  | gqpush (x : BitVec 6) (y : BitVec 6) (e : BitVec 4)
  /-- R250: Completes when a completion word is non-zero.  -/
  | gqwait (x : BitVec 6) (e : BitVec 4)
  /-- R251: Submits a launch record to the Keyring of the named context's die.  -/
  | launch (x : BitVec 6) (e : BitVec 4)
  /-- R252: Writes or ORs a value into a mailbox of any context.  -/
  | mbsend (x : BitVec 6) (o : BitVec 1) (k : BitVec 3) (z : BitVec 6) (e : BitVec 4)
  /-- R45: Holds the named engine queues until all have reached it.  -/
  | join (c : BitVec 1) (a : BitVec 1) (v : BitVec 1) (m : BitVec 1) (s : BitVec 1) (x : BitVec 1)
  /-- R88: Prefix extending the target's immediate.  -/
  | extImm (i : BitVec 26)
  /-- R89: Prefix setting scope, order and class.  -/
  | extOrd (s : BitVec 3) (o : BitVec 2) (c : BitVec 4)
  /-- R90: Prefix giving an event wait and a completion signal.  -/
  | extTok (w : BitVec 1) (e : BitVec 4) (t : BitVec 8) (g : BitVec 1) (f : BitVec 4)
  /-- R91: Prefix giving a stall count.  -/
  | extStall (c : BitVec 4)
  /-- R92: Prefix predicating elements by a mask.  -/
  | extMask (z : BitVec 1) (m : BitVec 4)
  /-- R93: Prefix making vector fields indirect through a scalar.  -/
  | extInd (b : BitVec 6) (x : BitVec 1) (y : BitVec 1) (z : BitVec 1)
  /-- R34: The splitter fetches the next word and appends it to its engine queue once a slot is free.  -/
  | fetchWord
  /-- R45: Once every named queue has reached the marker, all are released together.  -/
  | joinRelease
  /-- R344: A trap freezes the strand's queues into the trap frame and enters the handler in the P view.  -/
  | trapEntry (cause : BitVec 8) (eng : BitVec 3) (tval : BitVec 64)
  /-- R355: The strand's hang timer reaches HANGCTL.TIMEOUT, the hang record is captured and HANG raised.  -/
  | hangTimeout
  /-- R39: Load data arrives and fills its register or reserved queue entry, completing the word.  -/
  | loadDataReturn (seq : Nat)
  /-- R43: A store is performed at the scope of its order, completing it.  -/
  | storePerformed (seq : Nat)
  /-- R174: An atomic is performed at the home of its line and returns the old value.  -/
  | atomicPerformed (seq : Nat)
  /-- R372: The completion of a PCIe AtomicOp sent to the host returns the old value.  -/
  | atomicopCompletion (seq : Nat) (old : BitVec 128)
  /-- R301: A transfer NACKed by a full page hold queue is retried after 1 microsecond.  -/
  | holdQueueNackRetry (seq : Nat)
  /-- R222: The Cam sequencer performs one K chunk or key block of a matrix command.  -/
  | camStep
  /-- R49: Every 64 array cycles in alternate mode the array passes to the other core's window.  -/
  | arrayWindowSwitch (arr : BitVec 8)
  /-- R342: An idle array of the tile takes a relocatable mmt that its own array has not started.  -/
  | relocationTake (arr : BitVec 8)
  /-- R227: The copy engine or message unit accepts an XFER word once it has a free entry.  -/
  | xferAccept
  /-- R341: The copy engine advances an accepted operation by up to 4 KiB, translating and writing.  -/
  | copyEngineStep (op : Nat)
  /-- R235: After the last byte of a copy.mmt, the copy engine issues its follow-on to the array.  -/
  | followOnIssue (op : Nat)
  /-- R170: The copy engine claims a ring slot, writes chunk images and publishes it.  -/
  | windowFill (win : Nat)
  /-- R139: A timed barrier or event wait reaches its deadline and returns 0 with STAT.TIMEOUT.  -/
  | waitDeadline
  /-- R145: The 64-cycle pause of yield.pause ends.  -/
  | yieldPauseExpiry
  /-- R32: Once every strand has ended and every queue and access drained, the team's slots are freed.  -/
  | teamEnd (team : Nat)
  /-- R327: Keyring applies a wake request to a context, clearing its park condition or latching it.  -/
  | wakeRequest (ctx : BitVec 16) (src : BitVec 3)
  /-- R256: TIME reaches a park condition's deadline and the context wakes.  -/
  | parkTimerExpiry (ctx : BitVec 16)
  /-- R349: A fault park's resolution arrives and the team becomes eligible again.  -/
  | faultWake (team : Nat) (key : Nat)
  /-- R338: A placed team's quantum expires and it is taken off if another eligible team fits.  -/
  | quantumExpiry (team : Nat)
  /-- R354: Every strand reaches a unit boundary and the team's image is saved to its save area.  -/
  | teamTakeOff (team : Nat)
  /-- R335: Keyring places an eligible team on a tile when its slots are free and restores its image.  -/
  | teamPlace (die : BitVec 2)
  /-- R329: Keyring checks a launch record and accepts it when the die has room.  -/
  | launchRecordAccept (record : BitVec 512) (host : Bool) (part : BitVec 6)
  /-- R297: A parked context's predicted wake lies beyond a threshold, so Hinge demotes its pages.  -/
  | demotionThreshold (ctx : BitVec 16)
  /-- R297: TIME reaches the predicted wake less the lead, so Hinge starts a recall.  -/
  | recallStart (ctx : BitVec 16)
  /-- R301: The busy count of a held page reaches zero and Hinge copies it.  -/
  | busyCountZero (obj : BitVec 48)
  /-- R301: The 64 KiB page copy finishes and the rebind starts.  -/
  | pageCopyComplete (obj : BitVec 48)
  /-- R295: Every die acknowledges the invalidation, the rebind completes and held transfers are released.  -/
  | directoryRebind (obj : BitVec 48)
  /-- R295: A directory invalidation reaches a die, which acknowledges once old-entry accesses are performed.  -/
  | dirinvArrival (die : BitVec 2) (obj : BitVec 48) (ver : BitVec 32)
  /-- R302: Hinge pulls the next invalid line of a line-valid migration.  -/
  | backgroundLinePull (obj : BitVec 48)
  /-- R283: A row closes, its activation counter is read and the row may be captured.  -/
  | rowPrecharge (row : Nat) (parityOk : Bool)
  /-- R282: A row is refreshed and its activation counter cleared.  -/
  | refreshWindow (row : Nat)
  /-- R284: The power manager starts changing one channel's rate, holding its requests.  -/
  | channelRateChange (ch : BitVec 8) (rate : BitVec 2)
  /-- R284: The channel resumes at its new rate and performs held requests.  -/
  | rateChangeComplete (ch : BitVec 8)
  /-- R349: A PCIe page request response arrives and wakes or traps the faulted team.  -/
  | priResponse (key : Nat) (code : BitVec 2)
  /-- R361: A host write to a walker line invalidates TLB entries and is answered after draining.  -/
  | hostTableSnoop (line : BitVec 64) (data : List (BitVec 8))
  /-- R361: The walker evicts a table line, invalidating the entries tagged with it.  -/
  | walkerLineEviction (die : BitVec 2) (line : BitVec 64)
  /-- R370: An ATS invalidation is answered after dependent requests and lines are flushed.  -/
  | atsInvalidation (page : AtsPage)
  /-- R371: A host snoop makes the cache agent pull, return and drop a line from every L1.  -/
  | hostSnoop (line : BitVec 64) (data : List (BitVec 8))
  /-- R374: The host answers a back-invalidate snoop and the waiting device access proceeds.  -/
  | backInvalidateResponse (line : BitVec 64) (data : List (BitVec 8))
  /-- R373: The host reads or writes device HBM through CXL.mem at the owning MSC.  -/
  | hostCxlMemAccess (write : Bool) (addr : BitVec 64) (size : Nat) (data : List (BitVec 8))
  /-- R376: An Unordered I/O transfer to pool memory completes or fails.  -/
  | poolTransferCompletion (obj : BitVec 48) (ok : Bool)
  /-- R8: A host write to a register with no row of its own acts field by field under its access codes.  -/
  | registerWrite (off : BitVec 32) (val : BitVec 64)
  /-- R368: A write to a partition control register, refused with ERR while teams are placed or out of limits.  -/
  | partitionRegisterWrite (part : BitVec 6) (off : BitVec 17) (val : BitVec 64)
  /-- R332: A write to the launch queue base, refused while the queue is not empty.  -/
  | lqbaseWrite (part : BitVec 6) (val : BitVec 64)
  /-- R377: A write of LQTAIL is tested and makes Keyring read the new records.  -/
  | doorbell (part : BitVec 6) (val : BitVec 32)
  /-- R369: PCMD OP 1 recalls the page from T2 if needed and marks it SHARED.  -/
  | setShared (part : BitVec 6) (obj : BitVec 48)
  /-- R369: PCMD OP 2 clears SHARED after any line-valid migration.  -/
  | clearShared (part : BitVec 6) (obj : BitVec 48)
  /-- R369: PCMD OP 3 acts as tlbinv.host for the partition.  -/
  | invalidateHostTranslations (part : BitVec 6) (root : BitVec 48)
  /-- R376: A write to a pool register, with no effect while Hinge holds frames in its range.  -/
  | poolRegisterWrite (off : BitVec 32) (val : BitVec 64)
  /-- R383: GRPCMD OP 1 creates a group in the device's group table.  -/
  | groupCreate (part : BitVec 6) (plim : BitVec 16) (index : BitVec 14)
  /-- R383: GRPCMD OP 2 withdraws units and discards parked messages with deferred faults.  -/
  | groupDestroy (index : BitVec 14)
  /-- R383: GRPCMD OP 3 destroys a partition's groups and frees its reduction slots.  -/
  | clearPartition (part : BitVec 6)
  /-- R389: A write of a partition's fabric steering and reduction switch, refused while teams are placed.  -/
  | fabpartWrite (part : BitVec 6) (val : BitVec 64)
  /-- R408: A write assigning the fabric device number once.  -/
  | fabidWrite (val : BitVec 64)
  /-- R408: A write of a domain map entry, used by packets sent after it.  -/
  | dommapWrite (dev : BitVec 10) (val : BitVec 64)
  /-- R412: MCMD OP 1 returns a signed attestation of firmware, configuration and guest.  -/
  | attest
  /-- R412: MCMD OP 2 runs the reset sequence and discards every context.  -/
  | reset
  /-- R412: MCMD OP 3 copies the die error logs into MDATA.  -/
  | readlog
  /-- R411: An MCMD write with an unassigned code or while BUSY is refused.  -/
  | mcmdRefused
  /-- R396: Writing ARM lets the device measure a guest, or clearing it fences or resets the site.  -/
  | gctlWrite (val : BitVec 64)
  /-- R398: A write of a guest queue's base, checkpoint or partition, refused while packets are in flight.  -/
  | gqRegisterWrite (q : BitVec 8) (reg : BitVec 5) (val : BitVec 64)
  /-- R404: Setting STOP sends PREEMPT, clearing it sends QRESUME.  -/
  | gqctlStopWrite (q : BitVec 8) (stop : Bool)
  /-- R382: A READ, WRITE or ATOMIC packet or standard UALink request is performed in stream order through the fabric MMU.  -/
  | fabricRequestArrival (p : Packet)
  /-- R379: A response packet completes, NACKs or refuses the waiting request.  -/
  | respArrival (p : Packet)
  /-- R254: A forwarded context-table operation is applied at the entry's Keyring.  -/
  | ctxopArrival (op : BitVec 3) (handle : BitVec 32) (val : BitVec 64)
  /-- R252: A mailbox send is written at the owning die.  -/
  | mboxArrival (p : Packet)
  /-- R392: A source resends a NACKed packet after 1 microsecond.  -/
  | fabricNackResend (xid : Nat)
  /-- R393: A packet waiting too long at a queue head is moved to the escape channel.  -/
  | deadlockRecoveryTimer (xid : Nat)
  /-- R385: A switch counts a readiness advertisement on its arrival port.  -/
  | gadvAtSwitch (p : Packet) (port : BitVec 8)
  /-- R385: The home registers a unit and answers GREG, or refuses an unknown group.  -/
  | gadvAtHome (p : Packet)
  /-- R385: The registration answer arms the unit or delivers a parked message, completing gready.  -/
  | gregArrival (p : Packet)
  /-- R387: A switch steers a group message by readiness counts or towards the home.  -/
  | gsendAtSwitch (p : Packet) (port : BitVec 8)
  /-- R387: A member device delivers a group message to an armed unit or refuses it.  -/
  | gsendAtDevice (p : Packet)
  /-- R387: The home parks a message, or NACKs it when the store or group limit is full.  -/
  | gsendAtHome (p : Packet)
  /-- R387: A refused message returns to its last switch, which steers it again.  -/
  | grefuseAtSwitch (p : Packet) (port : BitVec 8)
  /-- R390: Without steering, a refusal returns to the sender, which chooses another member.  -/
  | grefuseAtSender (p : Packet)
  /-- R387: A targeted message whose unit was consumed returns to the home and is matched again.  -/
  | targetedRefusalAtHome (p : Packet)
  /-- R247: The acceptance notice completes the gsend and releases later ordered sends.  -/
  | gacceptArrival (p : Packet)
  /-- R387: The home removes a consumed unit from the registration list.  -/
  | gconsArrival (p : Packet)
  /-- R388: A withdrawal reaches the home, with switches lowering counts on the route.  -/
  | gwdrawArrival (p : Packet)
  /-- R384: The sender's message unit retries a NACKed group message after 1 microsecond.  -/
  | parkingNackRetry (xid : Nat)
  /-- R390: A readiness cache entry older than 10 microseconds is fetched again from the home.  -/
  | readinessCacheRefresh (group : BitVec 24) (entries : List (Nat × Nat))
  /-- R237: A slot open allocates or attaches to a reduction slot.  -/
  | cctlOpenArrival (p : Packet)
  /-- R391: A contribution segment arrives and is counted, held or answered CLOSED by round.  -/
  | credArrival (p : Packet)
  /-- R239: TIMEOUT after the first counted arrival the round closes INCOMPLETE.  -/
  | slotTimeout (slot : Nat)
  /-- R391: Result segments arrive and the copy engine writes BUF, RESID, ABMP, INFO and STATUS.  -/
  | cresArrival (p : Packet)
  /-- R391: A contribution with no result within TIMEOUT plus 10 ms completes UNAVAILABLE.  -/
  | collLostContact (op : Nat)
  /-- R241: A rank detaches; the slot is freed when every rank has closed.  -/
  | cctlCloseArrival (p : Packet)
  /-- R407: Input power or a management reset runs the bring-up sequence.  -/
  | powerOnReset (pufOk : Bool) (fwOk : Bool) (trainOk : Bool) (cfg : List (BitVec 8))
  /-- R410: Draw or temperature passes a limit and the power manager steps rates and clocks.  -/
  | powerLimit (level : BitVec 4)
  /-- R410: The critical temperature triggers a management reset.  -/
  | criticalTemperature
  /-- R396: With ARM set and both links trained the site enters MEASURING and sends MNONCE.  -/
  | guestLinksTrained
  /-- R397: A measurement record arrives and enables or refuses the guest.  -/
  | mrec (record : List (BitVec 8))
  /-- R396: No valid MREC within 100 ms refuses the guest.  -/
  | mrecTimeout
  /-- R399: An accepted gqpush writes its packet to a free slot, advances TAIL and sends QNOTIFY.  -/
  | queuePacketWrite (op : Nat)
  /-- R399: The guest advances a queue's HEAD.  -/
  | qconsume (q : BitVec 16) (head : BitVec 32)
  /-- R404: The guest acknowledges pre-emption; cancelled packets are completed and QRESUME sent.  -/
  | preack (q : BitVec 16)
  /-- R401: The guest asks for a translation grant for a packet's context.  -/
  | xlreq (tag : BitVec 16) (q : BitVec 16) (seq : BitVec 32) (va : BitVec 64) (kind : BitVec 8)
  /-- R402: The guest acknowledges a grant invalidation so the grant number may be reused.  -/
  | ginvack (grant : BitVec 16)
  /-- R402: No GINVACK within 10 microseconds fences the guest.  -/
  | ginvDeadline (grant : BitVec 16)
  /-- R403: The guest reports a translation fault and the packet's team makes a fault park.  -/
  | fault (tag : BitVec 16)
  /-- R403: No FAULT or COMPL within 5 microseconds of XLRSP FAULT fences the guest.  -/
  | faultReportDeadline (tag : BitVec 16)
  /-- R404: No PREACK within 20 microseconds of PREEMPT fences the guest.  -/
  | preemptDeadline (q : BitVec 16)
  /-- R395: A guest memory request through a grant is performed or refused at the port.  -/
  | guestMemoryRequest (g : GuestReq)
  /-- R405: Loss of either guest UCIe link fences the guest.  -/
  | guestLinkLoss
  /-- R396: The fenced guest's reset ends and the site returns to OFF.  -/
  | guestResetComplete
  /-- R12: A CXL host port goes down or comes back up, and host traffic of the dies moves to the other port or returns.  -/
  | hostPortDown (port : BitVec 1) (up : Bool)
  /-- R381: A UALink port goes down or comes back up, changing the hashed port choice and the forwarding over UCIe to another die.  -/
  | ualinkPortDown (port : BitVec 6) (up : Bool)
  /-- R143: A host write to a context mailbox, taking its place in the mailbox's single total order.  -/
  | hostMailboxWrite (handle : BitVec 32) (mb : BitVec 3) (val : BitVec 64)
  /-- R400: A guest message with an unlisted TYPE or non-zero header bytes arrives, which is a PROTOCOL breach that fences the guest.  -/
  | guestMessageUnlistedType
  deriving DecidableEq, Repr

end Sys2Proof
end

