-- ==== Sys2Proof/WellFormed.lean ====
section
/-! DEFINITION. Well-formed instructions: `Instr.isWord` says the row has an encoding, `Instr.fieldsOk` that its field values lie
within the limits its description states whatever prefixes the word carries (R98, row "Field value outside the instruction's stated
limits"). Limits that depend on a prefix, the view, the array mode or a CSR are checked where the word issues. -/

namespace Sys2Proof

/-- Vector, SFU and float type codes that are bf16, f16 or f32 (R82, R186). -/
def ty567 (y : BitVec 3) : Bool := y == 5 || y == 6 || y == 7

/-- The narrow float formats e2m1 to e5m2 (R82, R194). -/
def ty04 (y : BitVec 3) : Bool := y.toNat ≤ 4

/-- A vector field value that names a data queue (R79). -/
def isQ (x : BitVec 6) : Bool := 56 ≤ x.toNat

/-- The row has an encoding as an instruction word. -/
def Instr.isWord : Instr → Bool
  | .fetchWord | .joinRelease | .trapEntry _ _ _ | .hangTimeout | .loadDataReturn _ | .storePerformed _
  | .atomicPerformed _ | .atomicopCompletion _ _ | .holdQueueNackRetry _ | .camStep | .arrayWindowSwitch _ | .relocationTake _
  | .xferAccept | .copyEngineStep _ | .followOnIssue _ | .windowFill _ | .waitDeadline | .yieldPauseExpiry
  | .teamEnd _ | .wakeRequest _ _ | .parkTimerExpiry _ | .faultWake _ _ | .quantumExpiry _ | .teamTakeOff _
  | .teamPlace _ | .launchRecordAccept _ _ _ | .demotionThreshold _ | .recallStart _ | .busyCountZero _ | .pageCopyComplete _
  | .directoryRebind _ | .dirinvArrival _ _ _ | .backgroundLinePull _ | .rowPrecharge _ _ | .refreshWindow _ | .channelRateChange _ _
  | .rateChangeComplete _ | .priResponse _ _ | .hostTableSnoop _ _ | .walkerLineEviction _ _ | .atsInvalidation _ | .hostSnoop _ _
  | .backInvalidateResponse _ _ | .hostCxlMemAccess _ _ _ _ | .poolTransferCompletion _ _ | .registerWrite _ _ | .partitionRegisterWrite _ _ _ | .lqbaseWrite _ _
  | .doorbell _ _ | .setShared _ _ | .clearShared _ _ | .invalidateHostTranslations _ _ | .poolRegisterWrite _ _ | .groupCreate _ _ _
  | .groupDestroy _ | .clearPartition _ | .fabpartWrite _ _ | .fabidWrite _ | .dommapWrite _ _ | .attest
  | .reset | .readlog | .mcmdRefused | .gctlWrite _ | .gqRegisterWrite _ _ _ | .gqctlStopWrite _ _
  | .fabricRequestArrival _ | .respArrival _ | .ctxopArrival _ _ _ | .mboxArrival _ | .fabricNackResend _ | .deadlockRecoveryTimer _
  | .gadvAtSwitch _ _ | .gadvAtHome _ | .gregArrival _ | .gsendAtSwitch _ _ | .gsendAtDevice _ | .gsendAtHome _
  | .grefuseAtSwitch _ _ | .grefuseAtSender _ | .targetedRefusalAtHome _ | .gacceptArrival _ | .gconsArrival _ | .gwdrawArrival _
  | .parkingNackRetry _ | .readinessCacheRefresh _ _ | .cctlOpenArrival _ | .credArrival _ | .slotTimeout _ | .cresArrival _
  | .collLostContact _ | .cctlCloseArrival _ | .powerOnReset _ _ _ _ | .powerLimit _ | .criticalTemperature | .guestLinksTrained
  | .mrec _ | .mrecTimeout | .queuePacketWrite _ | .qconsume _ _ | .preack _ | .xlreq _ _ _ _ _
  | .ginvack _ | .ginvDeadline _ | .fault _ | .faultReportDeadline _ | .preemptDeadline _ | .guestMemoryRequest _
  | .guestLinkLoss | .guestResetComplete | .hostPortDown _ _ | .ualinkPortDown _ _ | .hostMailboxWrite _ _ _ | .guestMessageUnlistedType => false
  | _ => true

/-- Static field limits (R98): each line cites the rule that states the limit. -/
def Instr.fieldsOk : Instr → Bool
  | .cmp _ _ _ c => c.toNat ≤ 5                                   -- R118
  | .fcmp _ _ _ c _ => c.toNat ≤ 3                                -- R125
  | .park w m e t l r a b =>                                      -- R255
    (m == 1 || e == 1 || t == 1 || l == 1 || r == 1)
      && (e == 1 || (w == 0 && b == 0)) && (t == 1 || a == 0)
  | .amoF p _ _ _ => p.toNat % 8 ≤ 5                              -- R172
  | .casQ _ d _ b => d.toNat % 2 == 0 && 2 ≤ d.toNat && b.toNat % 2 == 0 && 2 ≤ b.toNat   -- R173
  | .vbfx y _ _ _ _ | .vbfi y _ _ _ _ | .vfshl y _ _ _ _ | .vfshr y _ _ _ _ => 4 ≤ y.toNat   -- R185
  | .vfadd y _ _ _ _ | .vfsub y _ _ _ _ | .vfmul y _ _ _ _ | .vfma y _ _ _ _
  | .vfmin y _ _ _ _ | .vfmax y _ _ _ _ => ty567 y                -- R186
  | .vfcmpEq y _ _ _ _ | .vfcmpLt y _ _ _ _ | .vfcmpLe y _ _ _ _ | .vfcmpUn y _ _ _ _ => ty567 y   -- R187
  | .vfredAdd y _ _ _ | .vfredMax y _ _ _ | .vfredMin y _ _ _ => ty567 y   -- R191
  | .vscanAdd y _ _ f _ => f == 0 || ty567 y                      -- R192
  | .vquant y _ _ _ _ | .vdequant y _ _ _ => ty04 y               -- R194, R195
  | .mmt _ _ _ _ p _ _ _ => p.toNat ≤ 3                           -- R83
  | .mmtWb _ _ _ _ p _ _ => p.toNat ≤ 3                           -- R83
  | .attb _ _ b _ _ _ => b.toNat ≤ 14                             -- R213
  | .sfuExp2 y _ _ _ | .sfuLog2 y _ _ _ | .sfuRcp y _ _ _ | .sfuRsqrt y _ _ _ | .sfuSqrt y _ _ _
  | .sfuSin y _ _ _ | .sfuCos y _ _ _ => ty567 y                  -- R200
  | .tint y _ _ _ _ => ty567 y                                    -- R202
  | .tload d _ _ _ => d.toNat ≤ 2                                 -- R201
  | .topkInit y _ _ => 3 ≤ y.toNat                                -- R204
  | .topkEmit _ _ f _ => f.toNat ≤ 2                              -- R204
  | .join c a v m s x => c == 1 || a == 1 || v == 1 || m == 1 || s == 1 || x == 1   -- R45
  | .extOrd s _ _ => s.toNat ≤ 6                                  -- R89
  | _ => true

/-- A well-formed instruction word. -/
def Instr.wf (i : Instr) : Bool := i.isWord && i.fieldsOk

end Sys2Proof
end

