-- ==== Sys2Proof/Decode.lean ====
section
/-! DEFINITION. Decoding and encoding of instruction words (06_instruction_encoding.md R77 to R98). `decode` is total: a word is an
instruction of the opcode table or is rejected as `illegalOpcode` or `illegalField` (R98). Limits on field values that leave the
word's row clear (types, condition codes, SP and the like) are `Instr.fieldsOk`, checked when the word issues (R99). -/

namespace Sys2Proof

/-- Why a word is no instruction (R98). -/
inductive DecErr where
  | illegalOpcode
  | illegalField
  deriving DecidableEq, Repr

/-- Field of `n` bits of a word, lowest bit `lo`. -/
def fld (w : Word) (lo n : Nat) : BitVec n := BitVec.ofNat n (w.toNat / 2 ^ lo)

/-- The same field as a number: reserved and fixed fields are tested with it (R4, R98). -/
def fldN (w : Word) (lo n : Nat) : Nat := w.toNat / 2 ^ lo % 2 ^ n

/-- The engine field E (R77). -/
def engineOf (w : Word) : Nat := fldN w 29 3

/-- The opcode of a word whose E is not 7 (R77). -/
def opcodeOf (w : Word) : Nat := fldN w 22 7

/-- Opcodes of engine CTRL (R97). -/
def decodeCtrl (w : Word) : Except DecErr Instr :=
  match opcodeOf w with
  | 0x00 => if fldN w 0 22 == 0 then .ok (.nop) else .error .illegalField
  | 0x01 => if fldN w 0 4 == 0 then .ok (.add (fld w 16 6) (fld w 10 6) (fld w 4 6)) else .error .illegalField
  | 0x02 => if fldN w 0 4 == 0 then .ok (.sub (fld w 16 6) (fld w 10 6) (fld w 4 6)) else .error .illegalField
  | 0x03 => if fldN w 0 4 == 0 then .ok (.mul (fld w 16 6) (fld w 10 6) (fld w 4 6)) else .error .illegalField
  | 0x04 => if fldN w 0 4 == 0 then .ok (.mulhS (fld w 16 6) (fld w 10 6) (fld w 4 6)) else .error .illegalField
  | 0x05 => if fldN w 0 4 == 0 then .ok (.mulhN (fld w 16 6) (fld w 10 6) (fld w 4 6)) else .error .illegalField
  | 0x06 => if fldN w 1 3 == 0 then .ok (.divS (fld w 16 6) (fld w 10 6) (fld w 4 6) (fld w 0 1)) else .error .illegalField
  | 0x07 => if fldN w 1 3 == 0 then .ok (.divN (fld w 16 6) (fld w 10 6) (fld w 4 6) (fld w 0 1)) else .error .illegalField
  | 0x08 => if fldN w 1 3 == 0 then .ok (.remS (fld w 16 6) (fld w 10 6) (fld w 4 6) (fld w 0 1)) else .error .illegalField
  | 0x09 => if fldN w 1 3 == 0 then .ok (.remN (fld w 16 6) (fld w 10 6) (fld w 4 6) (fld w 0 1)) else .error .illegalField
  | 0x0A => if fldN w 0 4 == 0 then .ok (.and (fld w 16 6) (fld w 10 6) (fld w 4 6)) else .error .illegalField
  | 0x0B => if fldN w 0 4 == 0 then .ok (.or (fld w 16 6) (fld w 10 6) (fld w 4 6)) else .error .illegalField
  | 0x0C => if fldN w 0 4 == 0 then .ok (.xor (fld w 16 6) (fld w 10 6) (fld w 4 6)) else .error .illegalField
  | 0x0D => if fldN w 0 4 == 0 then .ok (.andn (fld w 16 6) (fld w 10 6) (fld w 4 6)) else .error .illegalField
  | 0x0E => if fldN w 0 4 == 0 then .ok (.shl (fld w 16 6) (fld w 10 6) (fld w 4 6)) else .error .illegalField
  | 0x0F => if fldN w 0 4 == 0 then .ok (.shrN (fld w 16 6) (fld w 10 6) (fld w 4 6)) else .error .illegalField
  | 0x10 => if fldN w 0 4 == 0 then .ok (.shrS (fld w 16 6) (fld w 10 6) (fld w 4 6)) else .error .illegalField
  | 0x11 => if fldN w 0 4 == 0 then .ok (.rot (fld w 16 6) (fld w 10 6) (fld w 4 6)) else .error .illegalField
  | 0x12 => if fldN w 0 4 == 0 then .ok (.minS (fld w 16 6) (fld w 10 6) (fld w 4 6)) else .error .illegalField
  | 0x13 => if fldN w 0 4 == 0 then .ok (.minN (fld w 16 6) (fld w 10 6) (fld w 4 6)) else .error .illegalField
  | 0x14 => if fldN w 0 4 == 0 then .ok (.maxS (fld w 16 6) (fld w 10 6) (fld w 4 6)) else .error .illegalField
  | 0x15 => if fldN w 0 4 == 0 then .ok (.maxN (fld w 16 6) (fld w 10 6) (fld w 4 6)) else .error .illegalField
  | 0x16 => if fldN w 0 10 == 0 then .ok (.clz (fld w 16 6) (fld w 10 6)) else .error .illegalField
  | 0x17 => if fldN w 0 10 == 0 then .ok (.ctz (fld w 16 6) (fld w 10 6)) else .error .illegalField
  | 0x18 => if fldN w 0 10 == 0 then .ok (.popc (fld w 16 6) (fld w 10 6)) else .error .illegalField
  | 0x19 => .ok (.sel (fld w 16 6) (fld w 10 6) (fld w 4 6) (fld w 0 4))
  | 0x1A => .ok (.cmp (fld w 16 6) (fld w 10 6) (fld w 4 6) (fld w 0 4))
  | 0x1B => .ok (.addi (fld w 16 6) (fld w 10 6) (fld w 0 10))
  | 0x1C => .ok (.andi (fld w 16 6) (fld w 10 6) (fld w 0 10))
  | 0x1D => .ok (.ori (fld w 16 6) (fld w 10 6) (fld w 0 10))
  | 0x1E => .ok (.xori (fld w 16 6) (fld w 10 6) (fld w 0 10))
  | 0x1F => .ok (.shli (fld w 16 6) (fld w 10 6) (fld w 0 10))
  | 0x20 => .ok (.shriN (fld w 16 6) (fld w 10 6) (fld w 0 10))
  | 0x21 => .ok (.shriS (fld w 16 6) (fld w 10 6) (fld w 0 10))
  | 0x22 => .ok (.li (fld w 16 6) (fld w 0 16))
  | 0x23 => if fldN w 0 4 == 0 then .ok (.bfxS (fld w 16 6) (fld w 10 6) (fld w 4 6)) else .error .illegalField
  | 0x24 => if fldN w 0 4 == 0 then .ok (.bfxN (fld w 16 6) (fld w 10 6) (fld w 4 6)) else .error .illegalField
  | 0x25 => if fldN w 0 4 == 0 then .ok (.bfi (fld w 16 6) (fld w 10 6) (fld w 4 6)) else .error .illegalField
  | 0x26 => if fldN w 0 4 == 0 then .ok (.fshl (fld w 16 6) (fld w 10 6) (fld w 4 6)) else .error .illegalField
  | 0x27 => if fldN w 0 4 == 0 then .ok (.fshr (fld w 16 6) (fld w 10 6) (fld w 4 6)) else .error .illegalField
  | 0x28 => if fldN w 1 3 == 0 then .ok (.fadd (fld w 16 6) (fld w 10 6) (fld w 4 6) (fld w 0 1)) else .error .illegalField
  | 0x29 => if fldN w 1 3 == 0 then .ok (.fsub (fld w 16 6) (fld w 10 6) (fld w 4 6) (fld w 0 1)) else .error .illegalField
  | 0x2A => if fldN w 1 3 == 0 then .ok (.fmul (fld w 16 6) (fld w 10 6) (fld w 4 6) (fld w 0 1)) else .error .illegalField
  | 0x2B => if fldN w 1 3 == 0 then .ok (.ffma (fld w 16 6) (fld w 10 6) (fld w 4 6) (fld w 0 1)) else .error .illegalField
  | 0x2C => if fldN w 1 3 == 0 then .ok (.fdiv (fld w 16 6) (fld w 10 6) (fld w 4 6) (fld w 0 1)) else .error .illegalField
  | 0x2D => if fldN w 1 9 == 0 then .ok (.fsqrt (fld w 16 6) (fld w 10 6) (fld w 0 1)) else .error .illegalField
  | 0x2E => if fldN w 1 3 == 0 then .ok (.fmin (fld w 16 6) (fld w 10 6) (fld w 4 6) (fld w 0 1)) else .error .illegalField
  | 0x2F => if fldN w 1 3 == 0 then .ok (.fmax (fld w 16 6) (fld w 10 6) (fld w 4 6) (fld w 0 1)) else .error .illegalField
  | 0x30 => .ok (.fcmp (fld w 16 6) (fld w 10 6) (fld w 4 6) (fld w 1 3) (fld w 0 1))
  | 0x31 => .ok (.fcvt (fld w 16 6) (fld w 10 6) (fld w 4 6) (fld w 0 4))
  | 0x32 => .ok (.beq (fld w 16 6) (fld w 10 6) (fld w 0 10))
  | 0x33 => .ok (.bne (fld w 16 6) (fld w 10 6) (fld w 0 10))
  | 0x34 => .ok (.bltS (fld w 16 6) (fld w 10 6) (fld w 0 10))
  | 0x35 => .ok (.bltN (fld w 16 6) (fld w 10 6) (fld w 0 10))
  | 0x36 => .ok (.bgeS (fld w 16 6) (fld w 10 6) (fld w 0 10))
  | 0x37 => .ok (.bgeN (fld w 16 6) (fld w 10 6) (fld w 0 10))
  | 0x38 => .ok (.jmp (fld w 0 22))
  | 0x39 => .ok (.jal (fld w 0 22))
  | 0x3A => if fldN w 0 10 == 0 then .ok (.jr (fld w 16 6) (fld w 10 6)) else .error .illegalField
  | 0x3B => .ok (.loop (fld w 16 6) (fld w 0 16))
  | 0x3C => .ok (.loopi (fld w 12 10) (fld w 0 12))
  | 0x3D => if fldN w 0 11 == 0 then .ok (.lbrk (fld w 18 4) (fld w 17 1) (fld w 11 6)) else .error .illegalField
  | 0x3E => if fldN w 0 17 == 0 then .ok (.barSync (fld w 18 4) (fld w 17 1)) else .error .illegalField
  | 0x3F => if fldN w 0 17 == 0 then .ok (.barArr (fld w 18 4) (fld w 17 1)) else .error .illegalField
  | 0x40 => if fldN w 0 17 == 0 then .ok (.barWait (fld w 18 4) (fld w 17 1)) else .error .illegalField
  | 0x41 => if fldN w 0 5 == 0 then .ok (.barWaitt (fld w 18 4) (fld w 17 1) (fld w 11 6) (fld w 5 6)) else .error .illegalField
  | 0x42 => if fldN w 0 17 == 0 then .ok (.barDrop (fld w 18 4) (fld w 17 1)) else .error .illegalField
  | 0x43 => if fldN w 0 18 == 0 then .ok (.evSig (fld w 18 4)) else .error .illegalField
  | 0x44 => if fldN w 0 10 == 0 then .ok (.evWait (fld w 18 4) (fld w 10 8)) else .error .illegalField
  | 0x45 => if fldN w 0 5 == 0 && fldN w 17 1 == 0 then .ok (.evWaitt (fld w 18 4) (fld w 11 6) (fld w 5 6)) else .error .illegalField
  | 0x46 => if fldN w 12 4 == 0 then .ok (.csrr (fld w 16 6) (fld w 0 12)) else .error .illegalField
  | 0x47 => if fldN w 12 4 == 0 then .ok (.csrw (fld w 16 6) (fld w 0 12)) else .error .illegalField
  | 0x48 => if fldN w 4 12 == 0 then .ok (.mbrd (fld w 16 6) (fld w 3 1) (fld w 0 3)) else .error .illegalField
  | 0x49 => if fldN w 3 13 == 0 then .ok (.mbwr (fld w 16 6) (fld w 0 3)) else .error .illegalField
  | 0x4A => if fldN w 0 16 == 0 then .ok (.time (fld w 16 6)) else if fldN w 0 16 == 1 then .ok (.timeCyc (fld w 16 6)) else .error .illegalField
  | 0x4B => if fldN w 0 22 == 0 then .ok (.yield) else if fldN w 0 22 == 1 then .ok (.yieldPause) else .error .illegalField
  | 0x4C => .ok (.trap (fld w 16 6) (fld w 0 16))
  | 0x4D => if fldN w 0 10 == 0 then .ok (.cswitch (fld w 16 6) (fld w 10 6)) else .error .illegalField
  | 0x4E => if fldN w 0 22 == 0 then .ok (.parkEnd) else if fldN w 0 1 == 0 then .ok (.park (fld w 18 4) (fld w 17 1) (fld w 16 1) (fld w 15 1) (fld w 14 1) (fld w 13 1) (fld w 7 6) (fld w 1 6)) else .error .illegalField
  | 0x4F => if fldN w 0 4 == 0 && fldN w 16 6 == 0 then .ok (.wakehint (fld w 10 6) (fld w 4 6)) else .error .illegalField
  | 0x50 => if fldN w 0 10 == 0 then .ok (.ctxqSt (fld w 16 6) (fld w 10 6)) else if fldN w 0 10 == 1 then .ok (.ctxqWake (fld w 16 6) (fld w 10 6)) else if fldN w 0 10 == 2 then .ok (.ctxqTiers (fld w 16 6) (fld w 10 6)) else .error .illegalField
  | 0x51 => if fldN w 0 10 == 0 then .ok (.ctxnew (fld w 16 6) (fld w 10 6)) else .error .illegalField
  | 0x52 => if fldN w 0 10 == 0 then .ok (.ctxfree (fld w 16 6) (fld w 10 6)) else .error .illegalField
  | 0x53 => if fldN w 0 4 == 0 then .ok (.ctxsetPrio (fld w 16 6) (fld w 10 6) (fld w 4 6)) else if fldN w 0 4 == 1 then .ok (.ctxsetBind (fld w 16 6) (fld w 10 6) (fld w 4 6)) else .error .illegalField
  | 0x54 => if fldN w 0 22 == 0 then .ok (.rtt) else if fldN w 0 22 == 1 then .ok (.rttNext) else .error .illegalField
  | 0x55 => if fldN w 0 10 == 0 && fldN w 16 6 == 0 then .ok (.halt (fld w 10 6)) else .error .illegalField
  | 0x56 => if fldN w 0 10 == 0 then .ok (.kill (fld w 16 6) (fld w 10 6)) else .error .illegalField
  | 0x57 => if fldN w 0 4 == 0 then .ok (.hingePin (fld w 16 6) (fld w 10 6) (fld w 4 6)) else .error .illegalField
  | 0x58 => if fldN w 0 10 == 0 then .ok (.hingeUnpin (fld w 16 6) (fld w 10 6)) else .error .illegalField
  | 0x59 => if fldN w 0 10 == 0 then .ok (.hingeQ (fld w 16 6) (fld w 10 6)) else .error .illegalField
  | 0x5A => if fldN w 0 4 == 0 then .ok (.hingeMove (fld w 16 6) (fld w 10 6) (fld w 4 6)) else .error .illegalField
  | 0x5B => if fldN w 0 22 == 3 then .ok (.tlbinvAll) else if fldN w 0 10 == 0 && fldN w 16 6 == 0 then .ok (.tlbinvPart (fld w 10 6)) else if fldN w 0 10 == 1 && fldN w 16 6 == 0 then .ok (.tlbinvS2 (fld w 10 6)) else if fldN w 0 10 == 2 && fldN w 16 6 == 0 then .ok (.tlbinvFab (fld w 10 6)) else if fldN w 0 10 == 4 && fldN w 16 6 == 0 then .ok (.tlbinvHost (fld w 10 6)) else .error .illegalField
  | 0x5C => if fldN w 0 4 == 0 then .ok (.hangRd (fld w 16 6) (fld w 10 6) (fld w 4 6)) else .error .illegalField
  | _ => .error .illegalOpcode

/-- Opcodes of engine ACC (R97). -/
def decodeAcc (w : Word) : Except DecErr Instr :=
  match opcodeOf w with
  | 0x00 => .ok (.ldBS (fld w 18 4) (fld w 12 6) (fld w 6 6) (fld w 0 6))
  | 0x01 => .ok (.ldBN (fld w 18 4) (fld w 12 6) (fld w 6 6) (fld w 0 6))
  | 0x02 => .ok (.ldHS (fld w 18 4) (fld w 12 6) (fld w 6 6) (fld w 0 6))
  | 0x03 => .ok (.ldHN (fld w 18 4) (fld w 12 6) (fld w 6 6) (fld w 0 6))
  | 0x04 => .ok (.ldWS (fld w 18 4) (fld w 12 6) (fld w 6 6) (fld w 0 6))
  | 0x05 => .ok (.ldWN (fld w 18 4) (fld w 12 6) (fld w 6 6) (fld w 0 6))
  | 0x06 => .ok (.ldD (fld w 18 4) (fld w 12 6) (fld w 6 6) (fld w 0 6))
  | 0x07 => .ok (.stB (fld w 18 4) (fld w 12 6) (fld w 6 6) (fld w 0 6))
  | 0x08 => .ok (.stH (fld w 18 4) (fld w 12 6) (fld w 6 6) (fld w 0 6))
  | 0x09 => .ok (.stW (fld w 18 4) (fld w 12 6) (fld w 6 6) (fld w 0 6))
  | 0x0A => .ok (.stD (fld w 18 4) (fld w 12 6) (fld w 6 6) (fld w 0 6))
  | 0x0B => .ok (.ldV (fld w 18 4) (fld w 12 6) (fld w 6 6) (fld w 0 6))
  | 0x0C => .ok (.stV (fld w 18 4) (fld w 12 6) (fld w 6 6) (fld w 0 6))
  | 0x0D => .ok (.ldVs (fld w 18 4) (fld w 12 6) (fld w 6 6) (fld w 0 6))
  | 0x0E => .ok (.stVs (fld w 18 4) (fld w 12 6) (fld w 6 6) (fld w 0 6))
  | 0x0F => if fldN w 16 2 == 0 then .ok (.ldM (fld w 18 4) (fld w 12 4) (fld w 6 6) (fld w 0 6)) else .error .illegalField
  | 0x10 => if fldN w 16 2 == 0 then .ok (.stM (fld w 18 4) (fld w 12 4) (fld w 6 6) (fld w 0 6)) else .error .illegalField
  | 0x11 => if fldN w 10 2 == 0 then .ok (.sfetch (fld w 18 4) (fld w 12 6) (fld w 6 4) (fld w 0 6)) else .error .illegalField
  | 0x12 => .ok (.gathB (fld w 18 4) (fld w 12 6) (fld w 6 6) (fld w 0 6))
  | 0x13 => .ok (.gathH (fld w 18 4) (fld w 12 6) (fld w 6 6) (fld w 0 6))
  | 0x14 => .ok (.gathW (fld w 18 4) (fld w 12 6) (fld w 6 6) (fld w 0 6))
  | 0x15 => .ok (.scatB (fld w 18 4) (fld w 12 6) (fld w 6 6) (fld w 0 6))
  | 0x16 => .ok (.scatH (fld w 18 4) (fld w 12 6) (fld w 6 6) (fld w 0 6))
  | 0x17 => .ok (.scatW (fld w 18 4) (fld w 12 6) (fld w 6 6) (fld w 0 6))
  | 0x18 => if fldN w 10 1 == 0 then .ok (.gathb (fld w 18 4) (fld w 12 6) (fld w 11 1) (fld w 6 4) (fld w 0 6)) else .error .illegalField
  | 0x19 => if fldN w 13 9 == 0 then .ok (.pref (fld w 12 1) (fld w 6 6) (fld w 0 6)) else .error .illegalField
  | 0x1A => if fldN w 16 2 == 0 then .ok (.dld (fld w 18 4) (fld w 12 4) (fld w 6 6) (fld w 0 6)) else .error .illegalField
  | 0x1B => if fldN w 16 2 == 0 then .ok (.dst (fld w 18 4) (fld w 12 4) (fld w 6 6) (fld w 0 6)) else .error .illegalField
  | 0x1C => if fldN w 3 3 == 0 && fldN w 16 6 == 0 then .ok (.dset (fld w 12 4) (fld w 6 6) (fld w 0 3)) else .error .illegalField
  | 0x1D => .ok (.rwaitf (fld w 18 4) (fld w 12 6) (fld w 6 6) (fld w 0 6))
  | 0x1E => if fldN w 12 6 == 0 then .ok (.rwaite (fld w 18 4) (fld w 6 6) (fld w 0 6)) else .error .illegalField
  | 0x1F => if fldN w 12 6 == 0 then .ok (.rpub (fld w 18 4) (fld w 6 6) (fld w 0 6)) else .error .illegalField
  | 0x20 => if fldN w 12 6 == 0 then .ok (.rrel (fld w 18 4) (fld w 6 6) (fld w 0 6)) else .error .illegalField
  | 0x21 => if fldN w 0 6 == 0 then .ok (.rclaimP (fld w 18 4) (fld w 12 6) (fld w 6 6)) else if fldN w 0 6 == 1 then .ok (.rclaimC (fld w 18 4) (fld w 12 6) (fld w 6 6)) else .error .illegalField
  | 0x22 => if fldN w 0 6 == 0 && fldN w 12 6 == 63 then .ok (.wmapOff (fld w 18 4) (fld w 6 6)) else if fldN w 16 2 == 0 then .ok (.wmap (fld w 18 4) (fld w 12 4) (fld w 6 6) (fld w 0 6)) else .error .illegalField
  | 0x23 => if fldN w 12 6 == 0 then .ok (.wadv (fld w 18 4) (fld w 6 6) (fld w 0 6)) else .error .illegalField
  | 0x24 => .ok (.amoW (fld w 18 4) (fld w 12 6) (fld w 6 6) (fld w 0 6))
  | 0x25 => .ok (.amoD (fld w 18 4) (fld w 12 6) (fld w 6 6) (fld w 0 6))
  | 0x26 => .ok (.amoF (fld w 18 4) (fld w 12 6) (fld w 6 6) (fld w 0 6))
  | 0x27 => if fldN w 18 3 == 0 then .ok (.casW (fld w 21 1) (fld w 12 6) (fld w 6 6) (fld w 0 6)) else .error .illegalField
  | 0x28 => if fldN w 18 3 == 0 then .ok (.casD (fld w 21 1) (fld w 12 6) (fld w 6 6) (fld w 0 6)) else .error .illegalField
  | 0x29 => if fldN w 18 3 == 0 then .ok (.casQ (fld w 21 1) (fld w 12 6) (fld w 6 6) (fld w 0 6)) else .error .illegalField
  | 0x2A => if fldN w 4 14 == 0 then .ok (.fenceCls (fld w 18 4) (fld w 0 4)) else .error .illegalField
  | 0x2B => if fldN w 0 22 == 0 then .ok (.fence) else .error .illegalField
  | 0x2C => if fldN w 0 22 == 0 then .ok (.fenceView) else .error .illegalField
  | 0x2D => .ok (.fld (fld w 18 4) (fld w 12 6) (fld w 6 6) (fld w 0 6))
  | 0x2E => .ok (.fst (fld w 18 4) (fld w 12 6) (fld w 6 6) (fld w 0 6))
  | 0x2F => .ok (.famo (fld w 18 4) (fld w 12 6) (fld w 6 6) (fld w 0 6))
  | 0x30 => if fldN w 18 3 == 0 then .ok (.fcas (fld w 21 1) (fld w 12 6) (fld w 6 6) (fld w 0 6)) else .error .illegalField
  | _ => .error .illegalOpcode

/-- Opcodes of engine VEC (R97). -/
def decodeVec (w : Word) : Except DecErr Instr :=
  match opcodeOf w with
  | 0x00 => .ok (.vadd (fld w 19 3) (fld w 13 6) (fld w 7 6) (fld w 1 6) (fld w 0 1))
  | 0x01 => .ok (.vsub (fld w 19 3) (fld w 13 6) (fld w 7 6) (fld w 1 6) (fld w 0 1))
  | 0x02 => .ok (.vmul (fld w 19 3) (fld w 13 6) (fld w 7 6) (fld w 1 6) (fld w 0 1))
  | 0x03 => .ok (.vmulh (fld w 19 3) (fld w 13 6) (fld w 7 6) (fld w 1 6) (fld w 0 1))
  | 0x04 => .ok (.vmad (fld w 19 3) (fld w 13 6) (fld w 7 6) (fld w 1 6) (fld w 0 1))
  | 0x05 => if fldN w 1 6 == 0 then .ok (.vabs (fld w 19 3) (fld w 13 6) (fld w 7 6) (fld w 0 1)) else .error .illegalField
  | 0x06 => if fldN w 1 6 == 0 then .ok (.vneg (fld w 19 3) (fld w 13 6) (fld w 7 6) (fld w 0 1)) else .error .illegalField
  | 0x07 => .ok (.vmin (fld w 19 3) (fld w 13 6) (fld w 7 6) (fld w 1 6) (fld w 0 1))
  | 0x08 => .ok (.vmax (fld w 19 3) (fld w 13 6) (fld w 7 6) (fld w 1 6) (fld w 0 1))
  | 0x09 => .ok (.vand (fld w 19 3) (fld w 13 6) (fld w 7 6) (fld w 1 6) (fld w 0 1))
  | 0x0A => .ok (.vor (fld w 19 3) (fld w 13 6) (fld w 7 6) (fld w 1 6) (fld w 0 1))
  | 0x0B => .ok (.vxor (fld w 19 3) (fld w 13 6) (fld w 7 6) (fld w 1 6) (fld w 0 1))
  | 0x0C => if fldN w 1 6 == 0 then .ok (.vnot (fld w 19 3) (fld w 13 6) (fld w 7 6) (fld w 0 1)) else .error .illegalField
  | 0x0D => .ok (.vshl (fld w 19 3) (fld w 13 6) (fld w 7 6) (fld w 1 6) (fld w 0 1))
  | 0x0E => .ok (.vshr (fld w 19 3) (fld w 13 6) (fld w 7 6) (fld w 1 6) (fld w 0 1))
  | 0x0F => .ok (.vbfx (fld w 19 3) (fld w 13 6) (fld w 7 6) (fld w 1 6) (fld w 0 1))
  | 0x10 => .ok (.vbfi (fld w 19 3) (fld w 13 6) (fld w 7 6) (fld w 1 6) (fld w 0 1))
  | 0x11 => .ok (.vfshl (fld w 19 3) (fld w 13 6) (fld w 7 6) (fld w 1 6) (fld w 0 1))
  | 0x12 => .ok (.vfshr (fld w 19 3) (fld w 13 6) (fld w 7 6) (fld w 1 6) (fld w 0 1))
  | 0x13 => if fldN w 1 6 == 0 then .ok (.vpopc (fld w 19 3) (fld w 13 6) (fld w 7 6) (fld w 0 1)) else .error .illegalField
  | 0x14 => if fldN w 1 6 == 0 then .ok (.vclz (fld w 19 3) (fld w 13 6) (fld w 7 6) (fld w 0 1)) else .error .illegalField
  | 0x15 => .ok (.vaddi (fld w 19 3) (fld w 13 6) (fld w 7 6) (fld w 1 6) (fld w 0 1))
  | 0x16 => .ok (.vshli (fld w 19 3) (fld w 13 6) (fld w 7 6) (fld w 1 6) (fld w 0 1))
  | 0x17 => .ok (.vshri (fld w 19 3) (fld w 13 6) (fld w 7 6) (fld w 1 6) (fld w 0 1))
  | 0x18 => .ok (.vfadd (fld w 19 3) (fld w 13 6) (fld w 7 6) (fld w 1 6) (fld w 0 1))
  | 0x19 => .ok (.vfsub (fld w 19 3) (fld w 13 6) (fld w 7 6) (fld w 1 6) (fld w 0 1))
  | 0x1A => .ok (.vfmul (fld w 19 3) (fld w 13 6) (fld w 7 6) (fld w 1 6) (fld w 0 1))
  | 0x1B => .ok (.vfma (fld w 19 3) (fld w 13 6) (fld w 7 6) (fld w 1 6) (fld w 0 1))
  | 0x1C => .ok (.vfmin (fld w 19 3) (fld w 13 6) (fld w 7 6) (fld w 1 6) (fld w 0 1))
  | 0x1D => .ok (.vfmax (fld w 19 3) (fld w 13 6) (fld w 7 6) (fld w 1 6) (fld w 0 1))
  | 0x1E => if fldN w 1 6 == 0 then .ok (.vfabs (fld w 19 3) (fld w 13 6) (fld w 7 6) (fld w 0 1)) else .error .illegalField
  | 0x1F => if fldN w 1 6 == 0 then .ok (.vfneg (fld w 19 3) (fld w 13 6) (fld w 7 6) (fld w 0 1)) else .error .illegalField
  | 0x20 => if fldN w 17 2 == 0 then .ok (.vcmpEq (fld w 19 3) (fld w 13 4) (fld w 7 6) (fld w 1 6) (fld w 0 1)) else .error .illegalField
  | 0x21 => if fldN w 17 2 == 0 then .ok (.vcmpNe (fld w 19 3) (fld w 13 4) (fld w 7 6) (fld w 1 6) (fld w 0 1)) else .error .illegalField
  | 0x22 => if fldN w 17 2 == 0 then .ok (.vcmpLt (fld w 19 3) (fld w 13 4) (fld w 7 6) (fld w 1 6) (fld w 0 1)) else .error .illegalField
  | 0x23 => if fldN w 17 2 == 0 then .ok (.vcmpGe (fld w 19 3) (fld w 13 4) (fld w 7 6) (fld w 1 6) (fld w 0 1)) else .error .illegalField
  | 0x24 => if fldN w 17 2 == 0 then .ok (.vfcmpEq (fld w 19 3) (fld w 13 4) (fld w 7 6) (fld w 1 6) (fld w 0 1)) else .error .illegalField
  | 0x25 => if fldN w 17 2 == 0 then .ok (.vfcmpLt (fld w 19 3) (fld w 13 4) (fld w 7 6) (fld w 1 6) (fld w 0 1)) else .error .illegalField
  | 0x26 => if fldN w 17 2 == 0 then .ok (.vfcmpLe (fld w 19 3) (fld w 13 4) (fld w 7 6) (fld w 1 6) (fld w 0 1)) else .error .illegalField
  | 0x27 => if fldN w 17 2 == 0 then .ok (.vfcmpUn (fld w 19 3) (fld w 13 4) (fld w 7 6) (fld w 1 6) (fld w 0 1)) else .error .illegalField
  | 0x28 => if fldN w 5 2 == 0 && fldN w 11 2 == 0 && fldN w 17 5 == 0 then .ok (.mand (fld w 13 4) (fld w 7 4) (fld w 1 4) (fld w 0 1)) else .error .illegalField
  | 0x29 => if fldN w 5 2 == 0 && fldN w 11 2 == 0 && fldN w 17 5 == 0 then .ok (.mor (fld w 13 4) (fld w 7 4) (fld w 1 4) (fld w 0 1)) else .error .illegalField
  | 0x2A => if fldN w 5 2 == 0 && fldN w 11 2 == 0 && fldN w 17 5 == 0 then .ok (.mxor (fld w 13 4) (fld w 7 4) (fld w 1 4) (fld w 0 1)) else .error .illegalField
  | 0x2B => if fldN w 1 6 == 0 && fldN w 11 2 == 0 && fldN w 17 5 == 0 then .ok (.mnot (fld w 13 4) (fld w 7 4) (fld w 0 1)) else .error .illegalField
  | 0x2C => if fldN w 1 6 == 0 && fldN w 11 2 == 0 && fldN w 19 3 == 0 then .ok (.mpopc (fld w 13 6) (fld w 7 4) (fld w 0 1)) else .error .illegalField
  | 0x2D => if fldN w 1 6 == 0 && fldN w 11 2 == 0 && fldN w 19 3 == 0 then .ok (.mfirst (fld w 13 6) (fld w 7 4) (fld w 0 1)) else .error .illegalField
  | 0x2E => if fldN w 1 6 == 0 && fldN w 17 5 == 0 then .ok (.msetLt (fld w 13 4) (fld w 7 6) (fld w 0 1)) else if fldN w 1 6 == 1 && fldN w 17 5 == 0 then .ok (.msetGe (fld w 13 4) (fld w 7 6) (fld w 0 1)) else if fldN w 1 6 == 2 && fldN w 17 5 == 0 then .ok (.msetQ (fld w 13 4) (fld w 7 6) (fld w 0 1)) else .error .illegalField
  | 0x2F => .ok (.vsel (fld w 19 3) (fld w 13 6) (fld w 7 6) (fld w 1 6) (fld w 0 1))
  | 0x30 => if fldN w 1 6 == 0 then .ok (.vmov (fld w 19 3) (fld w 13 6) (fld w 7 6) (fld w 0 1)) else .error .illegalField
  | 0x31 => if fldN w 1 6 == 0 then .ok (.vbcast (fld w 19 3) (fld w 13 6) (fld w 7 6) (fld w 0 1)) else .error .illegalField
  | 0x32 => .ok (.vext (fld w 19 3) (fld w 13 6) (fld w 7 6) (fld w 1 6) (fld w 0 1))
  | 0x33 => .ok (.vins (fld w 19 3) (fld w 13 6) (fld w 7 6) (fld w 1 6) (fld w 0 1))
  | 0x34 => .ok (.vperm (fld w 19 3) (fld w 13 6) (fld w 7 6) (fld w 1 6) (fld w 0 1))
  | 0x35 => .ok (.vshuf (fld w 19 3) (fld w 13 6) (fld w 7 6) (fld w 1 6) (fld w 0 1))
  | 0x36 => .ok (.vrot (fld w 19 3) (fld w 13 6) (fld w 7 6) (fld w 1 6) (fld w 0 1))
  | 0x37 => if fldN w 1 6 == 0 then .ok (.vredAdd (fld w 19 3) (fld w 13 6) (fld w 7 6) (fld w 0 1)) else .error .illegalField
  | 0x38 => if fldN w 1 6 == 0 then .ok (.vredMax (fld w 19 3) (fld w 13 6) (fld w 7 6) (fld w 0 1)) else .error .illegalField
  | 0x39 => if fldN w 1 6 == 0 then .ok (.vredMin (fld w 19 3) (fld w 13 6) (fld w 7 6) (fld w 0 1)) else .error .illegalField
  | 0x3A => if fldN w 1 6 == 0 then .ok (.vfredAdd (fld w 19 3) (fld w 13 6) (fld w 7 6) (fld w 0 1)) else .error .illegalField
  | 0x3B => if fldN w 1 6 == 0 then .ok (.vfredMax (fld w 19 3) (fld w 13 6) (fld w 7 6) (fld w 0 1)) else .error .illegalField
  | 0x3C => if fldN w 1 6 == 0 then .ok (.vfredMin (fld w 19 3) (fld w 13 6) (fld w 7 6) (fld w 0 1)) else .error .illegalField
  | 0x3D => if fldN w 2 5 == 0 then .ok (.vscanAdd (fld w 19 3) (fld w 13 6) (fld w 7 6) (fld w 1 1) (fld w 0 1)) else .error .illegalField
  | 0x3E => .ok (.vcvt (fld w 19 3) (fld w 13 6) (fld w 7 6) (fld w 6 1) (fld w 5 1) (fld w 4 1) (fld w 1 3) (fld w 0 1))
  | 0x3F => .ok (.vquant (fld w 19 3) (fld w 13 6) (fld w 7 6) (fld w 1 6) (fld w 0 1))
  | 0x40 => if fldN w 1 6 == 0 then .ok (.vdequant (fld w 19 3) (fld w 13 6) (fld w 7 6) (fld w 0 1)) else .error .illegalField
  | 0x41 => if fldN w 19 3 == 7 then .ok (.vsmxUpd (fld w 13 6) (fld w 7 6) (fld w 1 6) (fld w 0 1)) else .error .illegalField
  | 0x42 => if fldN w 19 3 == 7 then .ok (.vsmxFin (fld w 13 6) (fld w 7 6) (fld w 1 6) (fld w 0 1)) else .error .illegalField
  | 0x43 => if fldN w 19 3 == 7 then .ok (.vrbias (fld w 13 6) (fld w 7 6) (fld w 1 6) (fld w 0 1)) else .error .illegalField
  | 0x44 => if fldN w 1 6 == 0 then .ok (.vidx (fld w 19 3) (fld w 13 6) (fld w 7 6) (fld w 0 1)) else .error .illegalField
  | 0x45 => .ok (.vlut (fld w 19 3) (fld w 13 6) (fld w 7 6) (fld w 1 6) (fld w 0 1))
  | _ => .error .illegalOpcode

/-- Opcodes of engine MTX (R97). -/
def decodeMtx (w : Word) : Except DecErr Instr :=
  match opcodeOf w with
  | 0x00 => if fldN w 0 1 == 0 then .ok (.mmt (fld w 19 3) (fld w 15 4) (fld w 11 4) (fld w 7 4) (fld w 4 3) (fld w 3 1) (fld w 2 1) (fld w 1 1)) else .error .illegalField
  | 0x01 => if fldN w 0 1 == 0 && fldN w 2 1 == 0 && fldN w 13 2 == 0 then .ok (.mmtWb (fld w 19 3) (fld w 15 4) (fld w 11 2) (fld w 7 4) (fld w 4 3) (fld w 3 1) (fld w 1 1)) else .error .illegalField
  | 0x02 => if fldN w 0 7 == 0 && fldN w 11 8 == 0 then .ok (.scommit (fld w 19 3) (fld w 7 4)) else .error .illegalField
  | 0x03 => if fldN w 0 7 == 0 && fldN w 11 8 == 0 then .ok (.sdrop (fld w 19 3) (fld w 7 4)) else .error .illegalField
  | 0x04 => if fldN w 0 3 == 0 && fldN w 4 3 == 0 && fldN w 11 8 == 0 then .ok (.accz (fld w 19 3) (fld w 7 4) (fld w 3 1)) else .error .illegalField
  | 0x05 => if fldN w 0 3 == 0 && fldN w 4 3 == 0 && fldN w 11 4 == 0 then .ok (.accld (fld w 19 3) (fld w 15 4) (fld w 7 4) (fld w 3 1)) else .error .illegalField
  | 0x06 => if fldN w 0 1 == 0 && fldN w 2 1 == 0 && fldN w 4 3 == 0 && fldN w 11 4 == 0 then .ok (.accst (fld w 19 3) (fld w 15 4) (fld w 7 4) (fld w 3 1) (fld w 1 1)) else .error .illegalField
  | 0x07 => if fldN w 0 1 == 0 && fldN w 2 1 == 0 && fldN w 4 3 == 0 then .ok (.accmv (fld w 19 3) (fld w 13 6) (fld w 7 6) (fld w 3 1) (fld w 1 1)) else .error .illegalField
  | 0x08 => if fldN w 0 7 == 0 && fldN w 11 4 == 0 && fldN w 21 1 == 0 then .ok (.wbload (fld w 19 2) (fld w 15 4) (fld w 7 4)) else .error .illegalField
  | 0x09 => if fldN w 0 1 == 0 && fldN w 2 2 == 0 && fldN w 5 2 == 0 && fldN w 19 1 == 0 then .ok (.attb (fld w 20 2) (fld w 15 4) (fld w 11 4) (fld w 7 4) (fld w 4 1) (fld w 1 1)) else .error .illegalField
  | _ => .error .illegalOpcode

/-- Opcodes of engine SFU (R97). -/
noncomputable def decodeSfu (w : Word) : Except DecErr Instr :=
  match opcodeOf w with
  | 0x00 => if fldN w 0 1 == 0 && fldN w 4 3 == 0 then .ok (.sfuExp2 (fld w 19 3) (fld w 13 6) (fld w 7 6) (fld w 1 3)) else .error .illegalField
  | 0x01 => if fldN w 0 1 == 0 && fldN w 4 3 == 0 then .ok (.sfuLog2 (fld w 19 3) (fld w 13 6) (fld w 7 6) (fld w 1 3)) else .error .illegalField
  | 0x02 => if fldN w 0 1 == 0 && fldN w 4 3 == 0 then .ok (.sfuRcp (fld w 19 3) (fld w 13 6) (fld w 7 6) (fld w 1 3)) else .error .illegalField
  | 0x03 => if fldN w 0 1 == 0 && fldN w 4 3 == 0 then .ok (.sfuRsqrt (fld w 19 3) (fld w 13 6) (fld w 7 6) (fld w 1 3)) else .error .illegalField
  | 0x04 => if fldN w 0 1 == 0 && fldN w 4 3 == 0 then .ok (.sfuSqrt (fld w 19 3) (fld w 13 6) (fld w 7 6) (fld w 1 3)) else .error .illegalField
  | 0x05 => if fldN w 0 1 == 0 && fldN w 4 3 == 0 then .ok (.sfuSin (fld w 19 3) (fld w 13 6) (fld w 7 6) (fld w 1 3)) else .error .illegalField
  | 0x06 => if fldN w 0 1 == 0 && fldN w 4 3 == 0 then .ok (.sfuCos (fld w 19 3) (fld w 13 6) (fld w 7 6) (fld w 1 3)) else .error .illegalField
  | 0x07 => if fldN w 0 1 == 0 then .ok (.tint (fld w 19 3) (fld w 13 6) (fld w 7 6) (fld w 4 3) (fld w 1 3)) else .error .illegalField
  | 0x08 => if fldN w 0 1 == 0 && fldN w 19 3 == 7 then .ok (.tload (fld w 13 6) (fld w 7 6) (fld w 4 3) (fld w 1 3)) else .error .illegalField
  | 0x09 => if fldN w 0 1 == 0 && fldN w 4 3 == 0 && fldN w 13 6 == 0 then .ok (.topkInit (fld w 19 3) (fld w 7 6) (fld w 1 3)) else .error .illegalField
  | 0x0A => if fldN w 0 1 == 0 && fldN w 4 3 == 0 then .ok (.topkFeed (fld w 19 3) (fld w 13 6) (fld w 7 6) (fld w 1 3)) else .error .illegalField
  | 0x0B => if fldN w 0 1 == 0 && fldN w 19 3 == 0 then .ok (.topkEmit (fld w 13 6) (fld w 7 6) (fld w 4 3) (fld w 1 3)) else .error .illegalField
  | 0x0C => if fldN w 0 1 == 0 && fldN w 4 9 == 0 && fldN w 19 3 == 0 then .ok (.topkQ (fld w 13 6) (fld w 1 3)) else .error .illegalField
  | _ => .error .illegalOpcode

/-- Opcodes of engine XFER (R97). -/
noncomputable def decodeXfer (w : Word) : Except DecErr Instr :=
  match opcodeOf w with
  | 0x00 => .ok (.copy (fld w 16 6) (fld w 10 6) (fld w 4 6) (fld w 0 4))
  | 0x01 => .ok (.copyMmt (fld w 16 6) (fld w 10 6) (fld w 4 6) (fld w 0 4))
  | 0x02 => if fldN w 4 12 == 0 then .ok (.collOpen (fld w 16 6) (fld w 0 4)) else .error .illegalField
  | 0x03 => if fldN w 4 12 == 0 then .ok (.collRed (fld w 16 6) (fld w 0 4)) else .error .illegalField
  | 0x04 => if fldN w 4 12 == 0 then .ok (.collBar (fld w 16 6) (fld w 0 4)) else .error .illegalField
  | 0x05 => if fldN w 4 12 == 0 then .ok (.collClose (fld w 16 6) (fld w 0 4)) else .error .illegalField
  | 0x06 => if fldN w 4 6 == 0 then .ok (.gready (fld w 16 6) (fld w 10 6) (fld w 0 4)) else .error .illegalField
  | 0x07 => if fldN w 4 6 == 0 then .ok (.gunready (fld w 16 6) (fld w 10 6) (fld w 0 4)) else .error .illegalField
  | 0x08 => if fldN w 4 5 == 0 then .ok (.gsend (fld w 16 6) (fld w 10 6) (fld w 9 1) (fld w 0 4)) else .error .illegalField
  | 0x09 => if fldN w 4 12 == 0 then .ok (.grecv (fld w 16 6) (fld w 0 4)) else .error .illegalField
  | 0x0A => if fldN w 4 6 == 0 then .ok (.gqpush (fld w 16 6) (fld w 10 6) (fld w 0 4)) else .error .illegalField
  | 0x0B => if fldN w 4 12 == 0 then .ok (.gqwait (fld w 16 6) (fld w 0 4)) else .error .illegalField
  | 0x0C => if fldN w 4 12 == 0 then .ok (.launch (fld w 16 6) (fld w 0 4)) else .error .illegalField
  | 0x0D => if fldN w 14 2 == 0 then .ok (.mbsend (fld w 16 6) (fld w 13 1) (fld w 10 3) (fld w 4 6) (fld w 0 4)) else .error .illegalField
  | _ => .error .illegalOpcode

/-- Opcodes of engine JOIN (R97). -/
noncomputable def decodeJoin (w : Word) : Except DecErr Instr :=
  match opcodeOf w with
  | 0x00 => if fldN w 0 16 == 0 then .ok (.join (fld w 21 1) (fld w 20 1) (fld w 19 1) (fld w 18 1) (fld w 17 1) (fld w 16 1)) else .error .illegalField
  | _ => .error .illegalOpcode

/-- EXT prefix words by kind (R86, R87); kinds 6 and 7 are no instruction. -/
noncomputable def decodeExt (w : Word) : Except DecErr Instr :=
  match fldN w 26 3 with
  | 0 => .ok (.extImm (fld w 0 26))
  | 1 => if fldN w 0 17 == 0 then .ok (.extOrd (fld w 23 3) (fld w 21 2) (fld w 17 4)) else .error .illegalField
  | 2 => if fldN w 0 8 == 0 then .ok (.extTok (fld w 25 1) (fld w 21 4) (fld w 13 8) (fld w 12 1) (fld w 8 4)) else .error .illegalField
  | 3 => if fldN w 4 22 == 0 then .ok (.extStall (fld w 0 4)) else .error .illegalField
  | 4 => if fldN w 5 21 == 0 then .ok (.extMask (fld w 4 1) (fld w 0 4)) else .error .illegalField
  | 5 => if fldN w 0 17 == 0 then .ok (.extInd (fld w 20 6) (fld w 19 1) (fld w 18 1) (fld w 17 1)) else .error .illegalField
  | _ => .error .illegalOpcode

/-- Every 32-bit value is an instruction or has a fate (R98). -/
noncomputable def decode (w : Word) : Except DecErr Instr :=
  match engineOf w with
  | 0 => decodeCtrl w
  | 1 => decodeAcc w
  | 2 => decodeVec w
  | 3 => decodeMtx w
  | 4 => decodeSfu w
  | 5 => decodeXfer w
  | 6 => decodeJoin w
  | _ => decodeExt w

/-- A word whose opcode is privileged, whatever its other fields hold (R97, R98: PRIVILEGE is reported before ILLEGAL_FIELD), or that
names a privileged CSR (R142). -/
def opcodePrivileged (w : Word) : Bool :=
  let op := opcodeOf w
  engineOf w == 0 && ((0x51 ≤ op && op ≤ 0x56) || (0x5A ≤ op && op ≤ 0x5C) || ((op == 0x46 || op == 0x47) && 0x800 ≤ fldN w 0 12))

/-- The four bytes of a word in memory, lowest address first (R6, R77). -/
def wordOfBytes (b0 b1 b2 b3 : Byte) : Word :=
  BitVec.ofNat 32 (b0.toNat + 2 ^ 8 * b1.toNat + 2 ^ 16 * b2.toNat + 2 ^ 24 * b3.toNat)

/-- The bytes of a word as memory holds them, lowest address first (R6, R77). -/
def bytesOfWord (w : Word) : List Byte := [fld w 0 8, fld w 8 8, fld w 16 8, fld w 24 8]

/-- Decoding from a list of bytes: the instruction and the rest. -/
noncomputable def decodeBytes (bs : List Byte) : Option (Instr × List Byte) :=
  match bs with
  | b0 :: b1 :: b2 :: b3 :: rest =>
    match decode (wordOfBytes b0 b1 b2 b3) with
    | .ok i => some (i, rest)
    | .error _ => none
  | _ => none

/-- The instruction the decoder reads from a word numbered as the opcode table numbers it (every row is one 32-bit word). -/
noncomputable def decodeTableWord (nbits w : Nat) : Option Instr :=
  if nbits ≤ 32 then
    (decodeBytes (bytesOfWord (BitVec.ofNat 32 (w % 2 ^ nbits)))).map Prod.fst
  else none

/-- The word of an instruction (R80 to R87, R97). A step without an encoding has none, and the value here is 0. -/
def encode : Instr → Word
  | .nop => BitVec.ofNat 32 (0)
  | .add d a b => BitVec.ofNat 32 (4194304 + 65536 * d.toNat + 1024 * a.toNat + 16 * b.toNat)
  | .sub d a b => BitVec.ofNat 32 (8388608 + 65536 * d.toNat + 1024 * a.toNat + 16 * b.toNat)
  | .mul d a b => BitVec.ofNat 32 (12582912 + 65536 * d.toNat + 1024 * a.toNat + 16 * b.toNat)
  | .mulhS d a b => BitVec.ofNat 32 (16777216 + 65536 * d.toNat + 1024 * a.toNat + 16 * b.toNat)
  | .mulhN d a b => BitVec.ofNat 32 (20971520 + 65536 * d.toNat + 1024 * a.toNat + 16 * b.toNat)
  | .divS d a b t => BitVec.ofNat 32 (25165824 + 65536 * d.toNat + 1024 * a.toNat + 16 * b.toNat + t.toNat)
  | .divN d a b t => BitVec.ofNat 32 (29360128 + 65536 * d.toNat + 1024 * a.toNat + 16 * b.toNat + t.toNat)
  | .remS d a b t => BitVec.ofNat 32 (33554432 + 65536 * d.toNat + 1024 * a.toNat + 16 * b.toNat + t.toNat)
  | .remN d a b t => BitVec.ofNat 32 (37748736 + 65536 * d.toNat + 1024 * a.toNat + 16 * b.toNat + t.toNat)
  | .and d a b => BitVec.ofNat 32 (41943040 + 65536 * d.toNat + 1024 * a.toNat + 16 * b.toNat)
  | .or d a b => BitVec.ofNat 32 (46137344 + 65536 * d.toNat + 1024 * a.toNat + 16 * b.toNat)
  | .xor d a b => BitVec.ofNat 32 (50331648 + 65536 * d.toNat + 1024 * a.toNat + 16 * b.toNat)
  | .andn d a b => BitVec.ofNat 32 (54525952 + 65536 * d.toNat + 1024 * a.toNat + 16 * b.toNat)
  | .shl d a b => BitVec.ofNat 32 (58720256 + 65536 * d.toNat + 1024 * a.toNat + 16 * b.toNat)
  | .shrN d a b => BitVec.ofNat 32 (62914560 + 65536 * d.toNat + 1024 * a.toNat + 16 * b.toNat)
  | .shrS d a b => BitVec.ofNat 32 (67108864 + 65536 * d.toNat + 1024 * a.toNat + 16 * b.toNat)
  | .rot d a b => BitVec.ofNat 32 (71303168 + 65536 * d.toNat + 1024 * a.toNat + 16 * b.toNat)
  | .minS d a b => BitVec.ofNat 32 (75497472 + 65536 * d.toNat + 1024 * a.toNat + 16 * b.toNat)
  | .minN d a b => BitVec.ofNat 32 (79691776 + 65536 * d.toNat + 1024 * a.toNat + 16 * b.toNat)
  | .maxS d a b => BitVec.ofNat 32 (83886080 + 65536 * d.toNat + 1024 * a.toNat + 16 * b.toNat)
  | .maxN d a b => BitVec.ofNat 32 (88080384 + 65536 * d.toNat + 1024 * a.toNat + 16 * b.toNat)
  | .clz d a => BitVec.ofNat 32 (92274688 + 65536 * d.toNat + 1024 * a.toNat)
  | .ctz d a => BitVec.ofNat 32 (96468992 + 65536 * d.toNat + 1024 * a.toNat)
  | .popc d a => BitVec.ofNat 32 (100663296 + 65536 * d.toNat + 1024 * a.toNat)
  | .sel d a b f => BitVec.ofNat 32 (104857600 + 65536 * d.toNat + 1024 * a.toNat + 16 * b.toNat + f.toNat)
  | .cmp d a b c => BitVec.ofNat 32 (109051904 + 65536 * d.toNat + 1024 * a.toNat + 16 * b.toNat + c.toNat)
  | .addi d a i => BitVec.ofNat 32 (113246208 + 65536 * d.toNat + 1024 * a.toNat + i.toNat)
  | .andi d a i => BitVec.ofNat 32 (117440512 + 65536 * d.toNat + 1024 * a.toNat + i.toNat)
  | .ori d a i => BitVec.ofNat 32 (121634816 + 65536 * d.toNat + 1024 * a.toNat + i.toNat)
  | .xori d a i => BitVec.ofNat 32 (125829120 + 65536 * d.toNat + 1024 * a.toNat + i.toNat)
  | .shli d a i => BitVec.ofNat 32 (130023424 + 65536 * d.toNat + 1024 * a.toNat + i.toNat)
  | .shriN d a i => BitVec.ofNat 32 (134217728 + 65536 * d.toNat + 1024 * a.toNat + i.toNat)
  | .shriS d a i => BitVec.ofNat 32 (138412032 + 65536 * d.toNat + 1024 * a.toNat + i.toNat)
  | .li d i => BitVec.ofNat 32 (142606336 + 65536 * d.toNat + i.toNat)
  | .bfxS d a b => BitVec.ofNat 32 (146800640 + 65536 * d.toNat + 1024 * a.toNat + 16 * b.toNat)
  | .bfxN d a b => BitVec.ofNat 32 (150994944 + 65536 * d.toNat + 1024 * a.toNat + 16 * b.toNat)
  | .bfi d a b => BitVec.ofNat 32 (155189248 + 65536 * d.toNat + 1024 * a.toNat + 16 * b.toNat)
  | .fshl d a b => BitVec.ofNat 32 (159383552 + 65536 * d.toNat + 1024 * a.toNat + 16 * b.toNat)
  | .fshr d a b => BitVec.ofNat 32 (163577856 + 65536 * d.toNat + 1024 * a.toNat + 16 * b.toNat)
  | .fadd d a b p => BitVec.ofNat 32 (167772160 + 65536 * d.toNat + 1024 * a.toNat + 16 * b.toNat + p.toNat)
  | .fsub d a b p => BitVec.ofNat 32 (171966464 + 65536 * d.toNat + 1024 * a.toNat + 16 * b.toNat + p.toNat)
  | .fmul d a b p => BitVec.ofNat 32 (176160768 + 65536 * d.toNat + 1024 * a.toNat + 16 * b.toNat + p.toNat)
  | .ffma d a b p => BitVec.ofNat 32 (180355072 + 65536 * d.toNat + 1024 * a.toNat + 16 * b.toNat + p.toNat)
  | .fdiv d a b p => BitVec.ofNat 32 (184549376 + 65536 * d.toNat + 1024 * a.toNat + 16 * b.toNat + p.toNat)
  | .fsqrt d a p => BitVec.ofNat 32 (188743680 + 65536 * d.toNat + 1024 * a.toNat + p.toNat)
  | .fmin d a b p => BitVec.ofNat 32 (192937984 + 65536 * d.toNat + 1024 * a.toNat + 16 * b.toNat + p.toNat)
  | .fmax d a b p => BitVec.ofNat 32 (197132288 + 65536 * d.toNat + 1024 * a.toNat + 16 * b.toNat + p.toNat)
  | .fcmp d a b c p => BitVec.ofNat 32 (201326592 + 65536 * d.toNat + 1024 * a.toNat + 16 * b.toNat + 2 * c.toNat + p.toNat)
  | .fcvt d a b f => BitVec.ofNat 32 (205520896 + 65536 * d.toNat + 1024 * a.toNat + 16 * b.toNat + f.toNat)
  | .beq a b o => BitVec.ofNat 32 (209715200 + 65536 * a.toNat + 1024 * b.toNat + o.toNat)
  | .bne a b o => BitVec.ofNat 32 (213909504 + 65536 * a.toNat + 1024 * b.toNat + o.toNat)
  | .bltS a b o => BitVec.ofNat 32 (218103808 + 65536 * a.toNat + 1024 * b.toNat + o.toNat)
  | .bltN a b o => BitVec.ofNat 32 (222298112 + 65536 * a.toNat + 1024 * b.toNat + o.toNat)
  | .bgeS a b o => BitVec.ofNat 32 (226492416 + 65536 * a.toNat + 1024 * b.toNat + o.toNat)
  | .bgeN a b o => BitVec.ofNat 32 (230686720 + 65536 * a.toNat + 1024 * b.toNat + o.toNat)
  | .jmp o => BitVec.ofNat 32 (234881024 + o.toNat)
  | .jal o => BitVec.ofNat 32 (239075328 + o.toNat)
  | .jr d a => BitVec.ofNat 32 (243269632 + 65536 * d.toNat + 1024 * a.toNat)
  | .loop a o => BitVec.ofNat 32 (247463936 + 65536 * a.toNat + o.toNat)
  | .loopi c o => BitVec.ofNat 32 (251658240 + 4096 * c.toNat + o.toNat)
  | .lbrk l z a => BitVec.ofNat 32 (255852544 + 262144 * l.toNat + 131072 * z.toNat + 2048 * a.toNat)
  | .barSync b m => BitVec.ofNat 32 (260046848 + 262144 * b.toNat + 131072 * m.toNat)
  | .barArr b m => BitVec.ofNat 32 (264241152 + 262144 * b.toNat + 131072 * m.toNat)
  | .barWait b m => BitVec.ofNat 32 (268435456 + 262144 * b.toNat + 131072 * m.toNat)
  | .barWaitt b m d a => BitVec.ofNat 32 (272629760 + 262144 * b.toNat + 131072 * m.toNat + 2048 * d.toNat + 32 * a.toNat)
  | .barDrop b m => BitVec.ofNat 32 (276824064 + 262144 * b.toNat + 131072 * m.toNat)
  | .evSig e => BitVec.ofNat 32 (281018368 + 262144 * e.toNat)
  | .evWait e t => BitVec.ofNat 32 (285212672 + 262144 * e.toNat + 1024 * t.toNat)
  | .evWaitt e d a => BitVec.ofNat 32 (289406976 + 262144 * e.toNat + 2048 * d.toNat + 32 * a.toNat)
  | .csrr d c => BitVec.ofNat 32 (293601280 + 65536 * d.toNat + c.toNat)
  | .csrw a c => BitVec.ofNat 32 (297795584 + 65536 * a.toNat + c.toNat)
  | .mbrd d c n => BitVec.ofNat 32 (301989888 + 65536 * d.toNat + 8 * c.toNat + n.toNat)
  | .mbwr a n => BitVec.ofNat 32 (306184192 + 65536 * a.toNat + n.toNat)
  | .time d => BitVec.ofNat 32 (310378496 + 65536 * d.toNat)
  | .timeCyc d => BitVec.ofNat 32 (310378497 + 65536 * d.toNat)
  | .yield => BitVec.ofNat 32 (314572800)
  | .yieldPause => BitVec.ofNat 32 (314572801)
  | .trap a i => BitVec.ofNat 32 (318767104 + 65536 * a.toNat + i.toNat)
  | .cswitch d a => BitVec.ofNat 32 (322961408 + 65536 * d.toNat + 1024 * a.toNat)
  | .park w m e t l r a b => BitVec.ofNat 32 (327155712 + 262144 * w.toNat + 131072 * m.toNat + 65536 * e.toNat + 32768 * t.toNat + 16384 * l.toNat + 8192 * r.toNat + 128 * a.toNat + 2 * b.toNat)
  | .parkEnd => BitVec.ofNat 32 (327155712)
  | .wakehint a b => BitVec.ofNat 32 (331350016 + 1024 * a.toNat + 16 * b.toNat)
  | .ctxqSt d a => BitVec.ofNat 32 (335544320 + 65536 * d.toNat + 1024 * a.toNat)
  | .ctxqWake d a => BitVec.ofNat 32 (335544321 + 65536 * d.toNat + 1024 * a.toNat)
  | .ctxqTiers d a => BitVec.ofNat 32 (335544322 + 65536 * d.toNat + 1024 * a.toNat)
  | .ctxnew d a => BitVec.ofNat 32 (339738624 + 65536 * d.toNat + 1024 * a.toNat)
  | .ctxfree d a => BitVec.ofNat 32 (343932928 + 65536 * d.toNat + 1024 * a.toNat)
  | .ctxsetPrio d a b => BitVec.ofNat 32 (348127232 + 65536 * d.toNat + 1024 * a.toNat + 16 * b.toNat)
  | .ctxsetBind d a b => BitVec.ofNat 32 (348127233 + 65536 * d.toNat + 1024 * a.toNat + 16 * b.toNat)
  | .rtt => BitVec.ofNat 32 (352321536)
  | .rttNext => BitVec.ofNat 32 (352321537)
  | .halt a => BitVec.ofNat 32 (356515840 + 1024 * a.toNat)
  | .kill d a => BitVec.ofNat 32 (360710144 + 65536 * d.toNat + 1024 * a.toNat)
  | .hingePin d a b => BitVec.ofNat 32 (364904448 + 65536 * d.toNat + 1024 * a.toNat + 16 * b.toNat)
  | .hingeUnpin d a => BitVec.ofNat 32 (369098752 + 65536 * d.toNat + 1024 * a.toNat)
  | .hingeQ d a => BitVec.ofNat 32 (373293056 + 65536 * d.toNat + 1024 * a.toNat)
  | .hingeMove d a b => BitVec.ofNat 32 (377487360 + 65536 * d.toNat + 1024 * a.toNat + 16 * b.toNat)
  | .tlbinvPart a => BitVec.ofNat 32 (381681664 + 1024 * a.toNat)
  | .tlbinvS2 a => BitVec.ofNat 32 (381681665 + 1024 * a.toNat)
  | .tlbinvFab a => BitVec.ofNat 32 (381681666 + 1024 * a.toNat)
  | .tlbinvAll => BitVec.ofNat 32 (381681667)
  | .tlbinvHost a => BitVec.ofNat 32 (381681668 + 1024 * a.toNat)
  | .hangRd d a b => BitVec.ofNat 32 (385875968 + 65536 * d.toNat + 1024 * a.toNat + 16 * b.toNat)
  | .ldBS c d a i => BitVec.ofNat 32 (536870912 + 262144 * c.toNat + 4096 * d.toNat + 64 * a.toNat + i.toNat)
  | .ldBN c d a i => BitVec.ofNat 32 (541065216 + 262144 * c.toNat + 4096 * d.toNat + 64 * a.toNat + i.toNat)
  | .ldHS c d a i => BitVec.ofNat 32 (545259520 + 262144 * c.toNat + 4096 * d.toNat + 64 * a.toNat + i.toNat)
  | .ldHN c d a i => BitVec.ofNat 32 (549453824 + 262144 * c.toNat + 4096 * d.toNat + 64 * a.toNat + i.toNat)
  | .ldWS c d a i => BitVec.ofNat 32 (553648128 + 262144 * c.toNat + 4096 * d.toNat + 64 * a.toNat + i.toNat)
  | .ldWN c d a i => BitVec.ofNat 32 (557842432 + 262144 * c.toNat + 4096 * d.toNat + 64 * a.toNat + i.toNat)
  | .ldD c d a i => BitVec.ofNat 32 (562036736 + 262144 * c.toNat + 4096 * d.toNat + 64 * a.toNat + i.toNat)
  | .stB c d a i => BitVec.ofNat 32 (566231040 + 262144 * c.toNat + 4096 * d.toNat + 64 * a.toNat + i.toNat)
  | .stH c d a i => BitVec.ofNat 32 (570425344 + 262144 * c.toNat + 4096 * d.toNat + 64 * a.toNat + i.toNat)
  | .stW c d a i => BitVec.ofNat 32 (574619648 + 262144 * c.toNat + 4096 * d.toNat + 64 * a.toNat + i.toNat)
  | .stD c d a i => BitVec.ofNat 32 (578813952 + 262144 * c.toNat + 4096 * d.toNat + 64 * a.toNat + i.toNat)
  | .ldV c d a i => BitVec.ofNat 32 (583008256 + 262144 * c.toNat + 4096 * d.toNat + 64 * a.toNat + i.toNat)
  | .stV c d a i => BitVec.ofNat 32 (587202560 + 262144 * c.toNat + 4096 * d.toNat + 64 * a.toNat + i.toNat)
  | .ldVs c d a b => BitVec.ofNat 32 (591396864 + 262144 * c.toNat + 4096 * d.toNat + 64 * a.toNat + b.toNat)
  | .stVs c d a b => BitVec.ofNat 32 (595591168 + 262144 * c.toNat + 4096 * d.toNat + 64 * a.toNat + b.toNat)
  | .ldM c d a i => BitVec.ofNat 32 (599785472 + 262144 * c.toNat + 4096 * d.toNat + 64 * a.toNat + i.toNat)
  | .stM c d a i => BitVec.ofNat 32 (603979776 + 262144 * c.toNat + 4096 * d.toNat + 64 * a.toNat + i.toNat)
  | .sfetch c d a b => BitVec.ofNat 32 (608174080 + 262144 * c.toNat + 4096 * d.toNat + 64 * a.toNat + b.toNat)
  | .gathB c d a b => BitVec.ofNat 32 (612368384 + 262144 * c.toNat + 4096 * d.toNat + 64 * a.toNat + b.toNat)
  | .gathH c d a b => BitVec.ofNat 32 (616562688 + 262144 * c.toNat + 4096 * d.toNat + 64 * a.toNat + b.toNat)
  | .gathW c d a b => BitVec.ofNat 32 (620756992 + 262144 * c.toNat + 4096 * d.toNat + 64 * a.toNat + b.toNat)
  | .scatB c d a b => BitVec.ofNat 32 (624951296 + 262144 * c.toNat + 4096 * d.toNat + 64 * a.toNat + b.toNat)
  | .scatH c d a b => BitVec.ofNat 32 (629145600 + 262144 * c.toNat + 4096 * d.toNat + 64 * a.toNat + b.toNat)
  | .scatW c d a b => BitVec.ofNat 32 (633339904 + 262144 * c.toNat + 4096 * d.toNat + 64 * a.toNat + b.toNat)
  | .gathb c d t a b => BitVec.ofNat 32 (637534208 + 262144 * c.toNat + 4096 * d.toNat + 2048 * t.toNat + 64 * a.toNat + b.toNat)
  | .pref l a i => BitVec.ofNat 32 (641728512 + 4096 * l.toNat + 64 * a.toNat + i.toNat)
  | .dld c d a i => BitVec.ofNat 32 (645922816 + 262144 * c.toNat + 4096 * d.toNat + 64 * a.toNat + i.toNat)
  | .dst c d a i => BitVec.ofNat 32 (650117120 + 262144 * c.toNat + 4096 * d.toNat + 64 * a.toNat + i.toNat)
  | .dset d a k => BitVec.ofNat 32 (654311424 + 4096 * d.toNat + 64 * a.toNat + k.toNat)
  | .rwaitf c d a b => BitVec.ofNat 32 (658505728 + 262144 * c.toNat + 4096 * d.toNat + 64 * a.toNat + b.toNat)
  | .rwaite c a b => BitVec.ofNat 32 (662700032 + 262144 * c.toNat + 64 * a.toNat + b.toNat)
  | .rpub c a b => BitVec.ofNat 32 (666894336 + 262144 * c.toNat + 64 * a.toNat + b.toNat)
  | .rrel c a b => BitVec.ofNat 32 (671088640 + 262144 * c.toNat + 64 * a.toNat + b.toNat)
  | .rclaimP c d a => BitVec.ofNat 32 (675282944 + 262144 * c.toNat + 4096 * d.toNat + 64 * a.toNat)
  | .rclaimC c d a => BitVec.ofNat 32 (675282945 + 262144 * c.toNat + 4096 * d.toNat + 64 * a.toNat)
  | .wmap c d a b => BitVec.ofNat 32 (679477248 + 262144 * c.toNat + 4096 * d.toNat + 64 * a.toNat + b.toNat)
  | .wmapOff c a => BitVec.ofNat 32 (679735296 + 262144 * c.toNat + 64 * a.toNat)
  | .wadv c a b => BitVec.ofNat 32 (683671552 + 262144 * c.toNat + 64 * a.toNat + b.toNat)
  | .amoW p d a b => BitVec.ofNat 32 (687865856 + 262144 * p.toNat + 4096 * d.toNat + 64 * a.toNat + b.toNat)
  | .amoD p d a b => BitVec.ofNat 32 (692060160 + 262144 * p.toNat + 4096 * d.toNat + 64 * a.toNat + b.toNat)
  | .amoF p d a b => BitVec.ofNat 32 (696254464 + 262144 * p.toNat + 4096 * d.toNat + 64 * a.toNat + b.toNat)
  | .casW t d a b => BitVec.ofNat 32 (700448768 + 2097152 * t.toNat + 4096 * d.toNat + 64 * a.toNat + b.toNat)
  | .casD t d a b => BitVec.ofNat 32 (704643072 + 2097152 * t.toNat + 4096 * d.toNat + 64 * a.toNat + b.toNat)
  | .casQ t d a b => BitVec.ofNat 32 (708837376 + 2097152 * t.toNat + 4096 * d.toNat + 64 * a.toNat + b.toNat)
  | .fenceCls c k => BitVec.ofNat 32 (713031680 + 262144 * c.toNat + k.toNat)
  | .fence => BitVec.ofNat 32 (717225984)
  | .fenceView => BitVec.ofNat 32 (721420288)
  | .fld c d a i => BitVec.ofNat 32 (725614592 + 262144 * c.toNat + 4096 * d.toNat + 64 * a.toNat + i.toNat)
  | .fst c d a i => BitVec.ofNat 32 (729808896 + 262144 * c.toNat + 4096 * d.toNat + 64 * a.toNat + i.toNat)
  | .famo p d a b => BitVec.ofNat 32 (734003200 + 262144 * p.toNat + 4096 * d.toNat + 64 * a.toNat + b.toNat)
  | .fcas t d a b => BitVec.ofNat 32 (738197504 + 2097152 * t.toNat + 4096 * d.toNat + 64 * a.toNat + b.toNat)
  | .vadd y d a b s => BitVec.ofNat 32 (1073741824 + 524288 * y.toNat + 8192 * d.toNat + 128 * a.toNat + 2 * b.toNat + s.toNat)
  | .vsub y d a b s => BitVec.ofNat 32 (1077936128 + 524288 * y.toNat + 8192 * d.toNat + 128 * a.toNat + 2 * b.toNat + s.toNat)
  | .vmul y d a b s => BitVec.ofNat 32 (1082130432 + 524288 * y.toNat + 8192 * d.toNat + 128 * a.toNat + 2 * b.toNat + s.toNat)
  | .vmulh y d a b s => BitVec.ofNat 32 (1086324736 + 524288 * y.toNat + 8192 * d.toNat + 128 * a.toNat + 2 * b.toNat + s.toNat)
  | .vmad y d a b s => BitVec.ofNat 32 (1090519040 + 524288 * y.toNat + 8192 * d.toNat + 128 * a.toNat + 2 * b.toNat + s.toNat)
  | .vabs y d a s => BitVec.ofNat 32 (1094713344 + 524288 * y.toNat + 8192 * d.toNat + 128 * a.toNat + s.toNat)
  | .vneg y d a s => BitVec.ofNat 32 (1098907648 + 524288 * y.toNat + 8192 * d.toNat + 128 * a.toNat + s.toNat)
  | .vmin y d a b s => BitVec.ofNat 32 (1103101952 + 524288 * y.toNat + 8192 * d.toNat + 128 * a.toNat + 2 * b.toNat + s.toNat)
  | .vmax y d a b s => BitVec.ofNat 32 (1107296256 + 524288 * y.toNat + 8192 * d.toNat + 128 * a.toNat + 2 * b.toNat + s.toNat)
  | .vand y d a b s => BitVec.ofNat 32 (1111490560 + 524288 * y.toNat + 8192 * d.toNat + 128 * a.toNat + 2 * b.toNat + s.toNat)
  | .vor y d a b s => BitVec.ofNat 32 (1115684864 + 524288 * y.toNat + 8192 * d.toNat + 128 * a.toNat + 2 * b.toNat + s.toNat)
  | .vxor y d a b s => BitVec.ofNat 32 (1119879168 + 524288 * y.toNat + 8192 * d.toNat + 128 * a.toNat + 2 * b.toNat + s.toNat)
  | .vnot y d a s => BitVec.ofNat 32 (1124073472 + 524288 * y.toNat + 8192 * d.toNat + 128 * a.toNat + s.toNat)
  | .vshl y d a b s => BitVec.ofNat 32 (1128267776 + 524288 * y.toNat + 8192 * d.toNat + 128 * a.toNat + 2 * b.toNat + s.toNat)
  | .vshr y d a b s => BitVec.ofNat 32 (1132462080 + 524288 * y.toNat + 8192 * d.toNat + 128 * a.toNat + 2 * b.toNat + s.toNat)
  | .vbfx y d a b s => BitVec.ofNat 32 (1136656384 + 524288 * y.toNat + 8192 * d.toNat + 128 * a.toNat + 2 * b.toNat + s.toNat)
  | .vbfi y d a b s => BitVec.ofNat 32 (1140850688 + 524288 * y.toNat + 8192 * d.toNat + 128 * a.toNat + 2 * b.toNat + s.toNat)
  | .vfshl y d a b s => BitVec.ofNat 32 (1145044992 + 524288 * y.toNat + 8192 * d.toNat + 128 * a.toNat + 2 * b.toNat + s.toNat)
  | .vfshr y d a b s => BitVec.ofNat 32 (1149239296 + 524288 * y.toNat + 8192 * d.toNat + 128 * a.toNat + 2 * b.toNat + s.toNat)
  | .vpopc y d a s => BitVec.ofNat 32 (1153433600 + 524288 * y.toNat + 8192 * d.toNat + 128 * a.toNat + s.toNat)
  | .vclz y d a s => BitVec.ofNat 32 (1157627904 + 524288 * y.toNat + 8192 * d.toNat + 128 * a.toNat + s.toNat)
  | .vaddi y d a i s => BitVec.ofNat 32 (1161822208 + 524288 * y.toNat + 8192 * d.toNat + 128 * a.toNat + 2 * i.toNat + s.toNat)
  | .vshli y d a i s => BitVec.ofNat 32 (1166016512 + 524288 * y.toNat + 8192 * d.toNat + 128 * a.toNat + 2 * i.toNat + s.toNat)
  | .vshri y d a i s => BitVec.ofNat 32 (1170210816 + 524288 * y.toNat + 8192 * d.toNat + 128 * a.toNat + 2 * i.toNat + s.toNat)
  | .vfadd y d a b s => BitVec.ofNat 32 (1174405120 + 524288 * y.toNat + 8192 * d.toNat + 128 * a.toNat + 2 * b.toNat + s.toNat)
  | .vfsub y d a b s => BitVec.ofNat 32 (1178599424 + 524288 * y.toNat + 8192 * d.toNat + 128 * a.toNat + 2 * b.toNat + s.toNat)
  | .vfmul y d a b s => BitVec.ofNat 32 (1182793728 + 524288 * y.toNat + 8192 * d.toNat + 128 * a.toNat + 2 * b.toNat + s.toNat)
  | .vfma y d a b s => BitVec.ofNat 32 (1186988032 + 524288 * y.toNat + 8192 * d.toNat + 128 * a.toNat + 2 * b.toNat + s.toNat)
  | .vfmin y d a b s => BitVec.ofNat 32 (1191182336 + 524288 * y.toNat + 8192 * d.toNat + 128 * a.toNat + 2 * b.toNat + s.toNat)
  | .vfmax y d a b s => BitVec.ofNat 32 (1195376640 + 524288 * y.toNat + 8192 * d.toNat + 128 * a.toNat + 2 * b.toNat + s.toNat)
  | .vfabs y d a s => BitVec.ofNat 32 (1199570944 + 524288 * y.toNat + 8192 * d.toNat + 128 * a.toNat + s.toNat)
  | .vfneg y d a s => BitVec.ofNat 32 (1203765248 + 524288 * y.toNat + 8192 * d.toNat + 128 * a.toNat + s.toNat)
  | .vcmpEq y d a b s => BitVec.ofNat 32 (1207959552 + 524288 * y.toNat + 8192 * d.toNat + 128 * a.toNat + 2 * b.toNat + s.toNat)
  | .vcmpNe y d a b s => BitVec.ofNat 32 (1212153856 + 524288 * y.toNat + 8192 * d.toNat + 128 * a.toNat + 2 * b.toNat + s.toNat)
  | .vcmpLt y d a b s => BitVec.ofNat 32 (1216348160 + 524288 * y.toNat + 8192 * d.toNat + 128 * a.toNat + 2 * b.toNat + s.toNat)
  | .vcmpGe y d a b s => BitVec.ofNat 32 (1220542464 + 524288 * y.toNat + 8192 * d.toNat + 128 * a.toNat + 2 * b.toNat + s.toNat)
  | .vfcmpEq y d a b s => BitVec.ofNat 32 (1224736768 + 524288 * y.toNat + 8192 * d.toNat + 128 * a.toNat + 2 * b.toNat + s.toNat)
  | .vfcmpLt y d a b s => BitVec.ofNat 32 (1228931072 + 524288 * y.toNat + 8192 * d.toNat + 128 * a.toNat + 2 * b.toNat + s.toNat)
  | .vfcmpLe y d a b s => BitVec.ofNat 32 (1233125376 + 524288 * y.toNat + 8192 * d.toNat + 128 * a.toNat + 2 * b.toNat + s.toNat)
  | .vfcmpUn y d a b s => BitVec.ofNat 32 (1237319680 + 524288 * y.toNat + 8192 * d.toNat + 128 * a.toNat + 2 * b.toNat + s.toNat)
  | .mand d a b s => BitVec.ofNat 32 (1241513984 + 8192 * d.toNat + 128 * a.toNat + 2 * b.toNat + s.toNat)
  | .mor d a b s => BitVec.ofNat 32 (1245708288 + 8192 * d.toNat + 128 * a.toNat + 2 * b.toNat + s.toNat)
  | .mxor d a b s => BitVec.ofNat 32 (1249902592 + 8192 * d.toNat + 128 * a.toNat + 2 * b.toNat + s.toNat)
  | .mnot d a s => BitVec.ofNat 32 (1254096896 + 8192 * d.toNat + 128 * a.toNat + s.toNat)
  | .mpopc d a s => BitVec.ofNat 32 (1258291200 + 8192 * d.toNat + 128 * a.toNat + s.toNat)
  | .mfirst d a s => BitVec.ofNat 32 (1262485504 + 8192 * d.toNat + 128 * a.toNat + s.toNat)
  | .msetLt d a s => BitVec.ofNat 32 (1266679808 + 8192 * d.toNat + 128 * a.toNat + s.toNat)
  | .msetGe d a s => BitVec.ofNat 32 (1266679810 + 8192 * d.toNat + 128 * a.toNat + s.toNat)
  | .msetQ d a s => BitVec.ofNat 32 (1266679812 + 8192 * d.toNat + 128 * a.toNat + s.toNat)
  | .vsel y d a b s => BitVec.ofNat 32 (1270874112 + 524288 * y.toNat + 8192 * d.toNat + 128 * a.toNat + 2 * b.toNat + s.toNat)
  | .vmov y d a s => BitVec.ofNat 32 (1275068416 + 524288 * y.toNat + 8192 * d.toNat + 128 * a.toNat + s.toNat)
  | .vbcast y d a s => BitVec.ofNat 32 (1279262720 + 524288 * y.toNat + 8192 * d.toNat + 128 * a.toNat + s.toNat)
  | .vext y d a b s => BitVec.ofNat 32 (1283457024 + 524288 * y.toNat + 8192 * d.toNat + 128 * a.toNat + 2 * b.toNat + s.toNat)
  | .vins y d a b s => BitVec.ofNat 32 (1287651328 + 524288 * y.toNat + 8192 * d.toNat + 128 * a.toNat + 2 * b.toNat + s.toNat)
  | .vperm y d a b s => BitVec.ofNat 32 (1291845632 + 524288 * y.toNat + 8192 * d.toNat + 128 * a.toNat + 2 * b.toNat + s.toNat)
  | .vshuf y d a b s => BitVec.ofNat 32 (1296039936 + 524288 * y.toNat + 8192 * d.toNat + 128 * a.toNat + 2 * b.toNat + s.toNat)
  | .vrot y d a b s => BitVec.ofNat 32 (1300234240 + 524288 * y.toNat + 8192 * d.toNat + 128 * a.toNat + 2 * b.toNat + s.toNat)
  | .vredAdd y d a s => BitVec.ofNat 32 (1304428544 + 524288 * y.toNat + 8192 * d.toNat + 128 * a.toNat + s.toNat)
  | .vredMax y d a s => BitVec.ofNat 32 (1308622848 + 524288 * y.toNat + 8192 * d.toNat + 128 * a.toNat + s.toNat)
  | .vredMin y d a s => BitVec.ofNat 32 (1312817152 + 524288 * y.toNat + 8192 * d.toNat + 128 * a.toNat + s.toNat)
  | .vfredAdd y d a s => BitVec.ofNat 32 (1317011456 + 524288 * y.toNat + 8192 * d.toNat + 128 * a.toNat + s.toNat)
  | .vfredMax y d a s => BitVec.ofNat 32 (1321205760 + 524288 * y.toNat + 8192 * d.toNat + 128 * a.toNat + s.toNat)
  | .vfredMin y d a s => BitVec.ofNat 32 (1325400064 + 524288 * y.toNat + 8192 * d.toNat + 128 * a.toNat + s.toNat)
  | .vscanAdd y d a f s => BitVec.ofNat 32 (1329594368 + 524288 * y.toNat + 8192 * d.toNat + 128 * a.toNat + 2 * f.toNat + s.toNat)
  | .vcvt y d a q r w t s => BitVec.ofNat 32 (1333788672 + 524288 * y.toNat + 8192 * d.toNat + 128 * a.toNat + 64 * q.toNat + 32 * r.toNat + 16 * w.toNat + 2 * t.toNat + s.toNat)
  | .vquant y d a b s => BitVec.ofNat 32 (1337982976 + 524288 * y.toNat + 8192 * d.toNat + 128 * a.toNat + 2 * b.toNat + s.toNat)
  | .vdequant y d a s => BitVec.ofNat 32 (1342177280 + 524288 * y.toNat + 8192 * d.toNat + 128 * a.toNat + s.toNat)
  | .vsmxUpd d a b s => BitVec.ofNat 32 (1350041600 + 8192 * d.toNat + 128 * a.toNat + 2 * b.toNat + s.toNat)
  | .vsmxFin d a b s => BitVec.ofNat 32 (1354235904 + 8192 * d.toNat + 128 * a.toNat + 2 * b.toNat + s.toNat)
  | .vrbias d a b s => BitVec.ofNat 32 (1358430208 + 8192 * d.toNat + 128 * a.toNat + 2 * b.toNat + s.toNat)
  | .vidx y d a s => BitVec.ofNat 32 (1358954496 + 524288 * y.toNat + 8192 * d.toNat + 128 * a.toNat + s.toNat)
  | .vlut y d a b s => BitVec.ofNat 32 (1363148800 + 524288 * y.toNat + 8192 * d.toNat + 128 * a.toNat + 2 * b.toNat + s.toNat)
  | .mmt c a b n p s r z => BitVec.ofNat 32 (1610612736 + 524288 * c.toNat + 32768 * a.toNat + 2048 * b.toNat + 128 * n.toNat + 16 * p.toNat + 8 * s.toNat + 4 * r.toNat + 2 * z.toNat)
  | .mmtWb c a w n p s z => BitVec.ofNat 32 (1614807040 + 524288 * c.toNat + 32768 * a.toNat + 2048 * w.toNat + 128 * n.toNat + 16 * p.toNat + 8 * s.toNat + 2 * z.toNat)
  | .scommit c n => BitVec.ofNat 32 (1619001344 + 524288 * c.toNat + 128 * n.toNat)
  | .sdrop c n => BitVec.ofNat 32 (1623195648 + 524288 * c.toNat + 128 * n.toNat)
  | .accz c n s => BitVec.ofNat 32 (1627389952 + 524288 * c.toNat + 128 * n.toNat + 8 * s.toNat)
  | .accld c a n s => BitVec.ofNat 32 (1631584256 + 524288 * c.toNat + 32768 * a.toNat + 128 * n.toNat + 8 * s.toNat)
  | .accst c a n s t => BitVec.ofNat 32 (1635778560 + 524288 * c.toNat + 32768 * a.toNat + 128 * n.toNat + 8 * s.toNat + 2 * t.toNat)
  | .accmv c d a s l => BitVec.ofNat 32 (1639972864 + 524288 * c.toNat + 8192 * d.toNat + 128 * a.toNat + 8 * s.toNat + 2 * l.toNat)
  | .wbload w a n => BitVec.ofNat 32 (1644167168 + 524288 * w.toNat + 32768 * a.toNat + 128 * n.toNat)
  | .attb c a b n f z => BitVec.ofNat 32 (1648361472 + 1048576 * c.toNat + 32768 * a.toNat + 2048 * b.toNat + 128 * n.toNat + 16 * f.toNat + 2 * z.toNat)
  | .sfuExp2 y d a k => BitVec.ofNat 32 (2147483648 + 524288 * y.toNat + 8192 * d.toNat + 128 * a.toNat + 2 * k.toNat)
  | .sfuLog2 y d a k => BitVec.ofNat 32 (2151677952 + 524288 * y.toNat + 8192 * d.toNat + 128 * a.toNat + 2 * k.toNat)
  | .sfuRcp y d a k => BitVec.ofNat 32 (2155872256 + 524288 * y.toNat + 8192 * d.toNat + 128 * a.toNat + 2 * k.toNat)
  | .sfuRsqrt y d a k => BitVec.ofNat 32 (2160066560 + 524288 * y.toNat + 8192 * d.toNat + 128 * a.toNat + 2 * k.toNat)
  | .sfuSqrt y d a k => BitVec.ofNat 32 (2164260864 + 524288 * y.toNat + 8192 * d.toNat + 128 * a.toNat + 2 * k.toNat)
  | .sfuSin y d a k => BitVec.ofNat 32 (2168455168 + 524288 * y.toNat + 8192 * d.toNat + 128 * a.toNat + 2 * k.toNat)
  | .sfuCos y d a k => BitVec.ofNat 32 (2172649472 + 524288 * y.toNat + 8192 * d.toNat + 128 * a.toNat + 2 * k.toNat)
  | .tint y d a f k => BitVec.ofNat 32 (2176843776 + 524288 * y.toNat + 8192 * d.toNat + 128 * a.toNat + 16 * f.toNat + 2 * k.toNat)
  | .tload d a f k => BitVec.ofNat 32 (2184708096 + 8192 * d.toNat + 128 * a.toNat + 16 * f.toNat + 2 * k.toNat)
  | .topkInit y a k => BitVec.ofNat 32 (2185232384 + 524288 * y.toNat + 128 * a.toNat + 2 * k.toNat)
  | .topkFeed y d a k => BitVec.ofNat 32 (2189426688 + 524288 * y.toNat + 8192 * d.toNat + 128 * a.toNat + 2 * k.toNat)
  | .topkEmit d a f k => BitVec.ofNat 32 (2193620992 + 8192 * d.toNat + 128 * a.toNat + 16 * f.toNat + 2 * k.toNat)
  | .topkQ d k => BitVec.ofNat 32 (2197815296 + 8192 * d.toNat + 2 * k.toNat)
  | .copy x y z e => BitVec.ofNat 32 (2684354560 + 65536 * x.toNat + 1024 * y.toNat + 16 * z.toNat + e.toNat)
  | .copyMmt x y z e => BitVec.ofNat 32 (2688548864 + 65536 * x.toNat + 1024 * y.toNat + 16 * z.toNat + e.toNat)
  | .collOpen x e => BitVec.ofNat 32 (2692743168 + 65536 * x.toNat + e.toNat)
  | .collRed x e => BitVec.ofNat 32 (2696937472 + 65536 * x.toNat + e.toNat)
  | .collBar x e => BitVec.ofNat 32 (2701131776 + 65536 * x.toNat + e.toNat)
  | .collClose x e => BitVec.ofNat 32 (2705326080 + 65536 * x.toNat + e.toNat)
  | .gready x y e => BitVec.ofNat 32 (2709520384 + 65536 * x.toNat + 1024 * y.toNat + e.toNat)
  | .gunready x y e => BitVec.ofNat 32 (2713714688 + 65536 * x.toNat + 1024 * y.toNat + e.toNat)
  | .gsend x y o e => BitVec.ofNat 32 (2717908992 + 65536 * x.toNat + 1024 * y.toNat + 512 * o.toNat + e.toNat)
  | .grecv x e => BitVec.ofNat 32 (2722103296 + 65536 * x.toNat + e.toNat)
  | .gqpush x y e => BitVec.ofNat 32 (2726297600 + 65536 * x.toNat + 1024 * y.toNat + e.toNat)
  | .gqwait x e => BitVec.ofNat 32 (2730491904 + 65536 * x.toNat + e.toNat)
  | .launch x e => BitVec.ofNat 32 (2734686208 + 65536 * x.toNat + e.toNat)
  | .mbsend x o k z e => BitVec.ofNat 32 (2738880512 + 65536 * x.toNat + 8192 * o.toNat + 1024 * k.toNat + 16 * z.toNat + e.toNat)
  | .join c a v m s x => BitVec.ofNat 32 (3221225472 + 2097152 * c.toNat + 1048576 * a.toNat + 524288 * v.toNat + 262144 * m.toNat + 131072 * s.toNat + 65536 * x.toNat)
  | .extImm i => BitVec.ofNat 32 (3758096384 + i.toNat)
  | .extOrd s o c => BitVec.ofNat 32 (3825205248 + 8388608 * s.toNat + 2097152 * o.toNat + 131072 * c.toNat)
  | .extTok w e t g f => BitVec.ofNat 32 (3892314112 + 33554432 * w.toNat + 2097152 * e.toNat + 8192 * t.toNat + 4096 * g.toNat + 256 * f.toNat)
  | .extStall c => BitVec.ofNat 32 (3959422976 + c.toNat)
  | .extMask z m => BitVec.ofNat 32 (4026531840 + 16 * z.toNat + m.toNat)
  | .extInd b x y z => BitVec.ofNat 32 (4093640704 + 1048576 * b.toNat + 524288 * x.toNat + 262144 * y.toNat + 131072 * z.toNat)
  | .fetchWord | .joinRelease | .trapEntry _ _ _ | .hangTimeout | .loadDataReturn _ | .storePerformed _
  | .atomicPerformed _ | .atomicopCompletion _ _ | .holdQueueNackRetry _ | .camStep | .arrayWindowSwitch _ | .relocationTake _
  | .xferAccept | .copyEngineStep _ | .followOnIssue _ | .windowFill _ | .waitDeadline | .yieldPauseExpiry
  | .teamEnd _ | .wakeRequest _ _ | .parkTimerExpiry _ | .faultWake _ _ | .quantumExpiry _ | .teamTakeOff _
  | .teamPlace _ | .launchRecordAccept _ _ _ | .demotionThreshold _ | .recallStart _ | .busyCountZero _ | .pageCopyComplete _
  | .directoryRebind _ | .dirinvArrival _ _ _ | .backgroundLinePull _ | .rowPrecharge _ _ | .refreshWindow _ | .channelRateChange _ _
  | .rateChangeComplete _ | .priResponse _ _ | .hostTableSnoop _ _ | .walkerLineEviction _ _ | .atsInvalidation _ | .hostSnoop _ _
  | .backInvalidateResponse _ _ | .hostCxlMemAccess _ _ _ _ | .poolTransferCompletion _ _ | .registerWrite _ _ | .partitionRegisterWrite _ _ _ | .lqbaseWrite _ _
  | .doorbell _ _ | .setShared _ _ | .clearShared _ _ | .invalidateHostTranslations _ _ | .poolRegisterWrite _ _ | .groupCreate _ _ _
  | .groupDestroy _ | .clearPartition _ | .fabpartWrite _ _ | .fabidWrite _ | .dommapWrite _ _ | .attest
  | .reset | .readlog | .mcmdRefused | .gctlWrite _ | .gqRegisterWrite _ _ _ | .gqctlStopWrite _ _
  | .fabricRequestArrival _ | .respArrival _ | .ctxopArrival _ _ _ | .mboxArrival _ | .fabricNackResend _ | .deadlockRecoveryTimer _
  | .gadvAtSwitch _ _ | .gadvAtHome _ | .gregArrival _ | .gsendAtSwitch _ _ | .gsendAtDevice _ | .gsendAtHome _
  | .grefuseAtSwitch _ _ | .grefuseAtSender _ | .targetedRefusalAtHome _ | .gacceptArrival _ | .gconsArrival _ | .gwdrawArrival _
  | .parkingNackRetry _ | .readinessCacheRefresh _ _ | .cctlOpenArrival _ | .credArrival _ | .slotTimeout _ | .cresArrival _
  | .collLostContact _ | .cctlCloseArrival _ | .powerOnReset _ _ _ _ | .powerLimit _ | .criticalTemperature | .guestLinksTrained
  | .mrec _ | .mrecTimeout | .queuePacketWrite _ | .qconsume _ _ | .preack _ | .xlreq _ _ _ _ _
  | .ginvack _ | .ginvDeadline _ | .fault _ | .faultReportDeadline _ | .preemptDeadline _ | .guestMemoryRequest _
  | .guestLinkLoss | .guestResetComplete | .hostPortDown _ _ | .ualinkPortDown _ _ | .hostMailboxWrite _ _ _ | .guestMessageUnlistedType => 0

end Sys2Proof
end

