-- ==== Sys2Proof/Config.lean ====
section
/-! DEFINITION. What an implementation fixes and what the manual leaves free. An `opaque` constant has no body: no proof can see
its value, so what is proved of the machine holds whatever it is. -/

namespace Sys2Proof.Config

/-- Nanoseconds of TIME that pass during the n-th step (R144 gives no duration to a step): assumption 11. -/
opaque tick : Nat → Nat

/-- Arithmetic-clock cycles that pass during the n-th step (R144, `time.cyc`): assumption 11. -/
opaque cycles : Nat → Nat

/-- Cycles by which the n-th VEC or SFU word issues later than the earliest cycle R94 allows: assumption 10. -/
opaque issueDelay : Nat → Nat

/-- The 32 fresh bytes of MNONCE (R396), as one number: assumption 12. -/
opaque nonce : Nat → BitVec 256

/-- Ed448 verification of a signature under a public key over a message (R397, R407, R409): assumption 12. -/
opaque ed448Verify : List (BitVec 8) → List (BitVec 8) → List (BitVec 8) → Bool

/-- Ed448 signature under the identity key (R412), 114 bytes: assumption 12. -/
opaque ed448Sign : List (BitVec 8) → BitVec 912

/-- The identity public key that step 1 of R407 derives from the PUF, 57 bytes: assumption 12. -/
opaque identityKey : BitVec 456

/-- SHAKE256 with 64 bytes of output (R397, R412): assumption 12. -/
opaque shake256 : List (BitVec 8) → BitVec 512

/-- The firmware image of module flash (R407, R412): assumption 12. -/
opaque firmware : List (BitVec 8)

/-- The Dornov key of the boot ROM (R407, R409): assumption 12. -/
opaque dornovKey : List (BitVec 8)

/-- The fixed hash that chooses a UALink port among n candidates for a target device (R381): assumption 13. -/
opaque portHash : BitVec 10 → Nat → Nat

/-- The port of the group-capable switch that leads to a device (R387): assumption 18. -/
opaque switchPort : BitVec 10 → BitVec 8

/-- The number of the group-capable switch (R387): assumption 18. -/
opaque switchNum : BitVec 10

/-- The bytes that READLOG puts into MDATA for the entries (die, event, address) of the error logs (R412 gives no layout): assumption 38. -/
opaque logImage : List (Nat × Nat × Nat) → List (BitVec 8)

/-- Whether a 64 KiB frame of the first 256 MiB of a die's HBM is one of those reserved for context tables, page directory entries and save
areas (R373), by its number: assumption 50. -/
opaque reservedFrame : Nat → Bool

/-- The n-th value of a launch parameter that cannot be read (R96): assumption 19. -/
opaque unreadable : Nat → BitVec 64

/-- How steps 1, 2 and 4 of a reset sequence end that no input describes, in bits 0 to 2 (R407): assumption 52. -/
opaque resetSteps : Nat → BitVec 3

/-- A soft error (R356): one that is corrected, counted at a die; or damage that is not, in a 32-byte granule of memory, or in a register, a
knot or parameter of a table, the sorter or the entry of a data queue of the stepping strand, or in part `k` of an array. -/
inductive SoftError where
  | corrected (die : BitVec 2)
  | memory (granule : Nat)
  | scalar (n : BitVec 6)
  | vector (n : BitVec 8)
  | mask (n : BitVec 4)
  | desc (n : BitVec 4)
  | table (n : BitVec 3) (k : Nat)
  | sorter
  | queue (q : BitVec 3) (k : Nat)
  | array (n k : Nat)
  deriving DecidableEq, Repr, Inhabited

/-- The soft errors of the n-th step (R356 does not say when one strikes): assumption 56. -/
opaque softErrors : Nat → List SoftError

end Sys2Proof.Config
end

