-- ==== Sys2Proof/Machine/State.lean ====
section
/-! DEFINITION. The state of the machine as plain data: everything the manual gives the device, strand by strand and block by
block, and the outcomes a step can have. Register files, tables and memory are sparse lists (`Sparse`), sorted by key, that list no
entry equal to what an unlisted key reads as. -/

namespace Sys2Proof.Machine

/-- A table from numbers to values in one canonical form (Machine/Sparse.lean). -/
abbrev Sparse (α : Type) := List (Nat × α)

/-- Trap causes (R343). -/
inductive Cause where
  | illegalOpcode | illegalField | privilege | misaligned | pageFault | protection | bounds | stallCheck
  | arith | uncorrectable | hang | staleHandle | atomicUnsupported | fabricError | guestFault | userTrap | viewViolation
  deriving DecidableEq, Repr

/-- The six engine queues, in the order of R270. -/
inductive Eng where
  | ctrl | acc | vec | mtx | sfu | xfer
  deriving DecidableEq, Repr

/-- One unit: a word with its EXT words (R86). `addr` is the address of its first word, `taddr` of its target. `seq` is its place
in fetch order. `loopBad` records the fate of R131 for an end word, `patchBad` that of R96 for a patch entry. `follow` holds the follow-on of `copy.mmt` (R97):
its address, word and EXT words, with its own fates of R96 and R131. `skip` marks a unit that `rtt.next` completes: it makes its queue
traffic, these pops and pushes, and its signals, and has no other effect (R348). -/
structure EUnit where
  addr : Dword := 0
  taddr : Dword := 0
  word : Word := 0
  pfx : List Word := []
  seq : Nat := 0
  loopBad : Bool := false
  patchBad : Bool := false
  follow : Option (Dword × Word × List Word) := none
  followPatchBad : Bool := false
  followLoopBad : Bool := false
  skip : Option (List Nat × List Nat) := none
  deriving DecidableEq, Repr

/-- An engine queue holds units and JOIN markers (R34, R45). `joinMark u` is the marker of the JOIN unit `u`. -/
inductive QItem where
  | unit (u : EUnit)
  | joinMark (u : EUnit)
  deriving DecidableEq, Repr

/-- The six engine queues of a strand, oldest item first (R34). -/
structure Queues where
  ctrl : List QItem := []
  acc : List QItem := []
  vec : List QItem := []
  mtx : List QItem := []
  sfu : List QItem := []
  xfer : List QItem := []
  deriving DecidableEq, Repr

/-- EXT words fetched and not yet attached to a target (R86). -/
structure Partial where
  addr : Dword := 0
  words : List Word := []
  loopBad : Bool := false
  deriving DecidableEq, Repr

/-- One level of the loop stack (R131). -/
structure LoopLevel where
  start : Dword
  stop : Dword
  remaining : Dword
  deriving DecidableEq, Repr

/-- One entry of a data queue (R38, R351): filled, or reserved by the load of record number `seq`; `bad` says that its data is damaged
(R356). -/
structure QEntry where
  data : Vec := 0
  mask : Mask := 0
  filled : Bool := true
  seq : Nat := 0
  bad : Bool := false
  deriving DecidableEq, Repr

/-- State inside a core that an uncorrectable error can damage (R356): a scalar, vector or mask register, a descriptor, element 128 DEST + i of
a table as `tload` numbers them, and the sorter. Damaged data queue entries are marked in the queue, accumulator tiles and weight buffers in their array. -/
inductive CorePart where
  | scalar (n : Nat)
  | vector (n : Nat)
  | mask (n : Nat)
  | desc (n : Nat)
  | table (n k : Nat)
  | sorter
  deriving DecidableEq, Repr

/-- A register or mask write of a VEC or SFU word that is not complete until cycle `ready` of its queue (R94, R95); `sig` is the counter
that the word signals then (R43), and `flags` what it raises in FLAGS (R64). -/
structure PendWrite where
  isMask : Bool
  idx : Nat
  old : Vec
  ready : Nat
  sig : Option (BitVec 4) := none
  flags : BitVec 5 := 0
  deriving DecidableEq, Repr

/-- One interpolation table (R201). -/
structure SfuTable where
  knots : Sparse Word := []
  lo : Word := 0
  sc : Word := 0
  mode : BitVec 2 := 0
  deriving DecidableEq, Repr

/-- The top-k sorter (R203): held pairs in rank order, keys as FP32 encodings. -/
structure TopK where
  kc : Nat := 0
  ty : Option (BitVec 3) := none
  fed : Word := 0
  held : List (Word × Word) := []
  deriving DecidableEq, Repr

/-- Class, order and scope of an access (R152). -/
structure AccOrd where
  cls : BitVec 4 := 0
  order : BitVec 2 := 0
  scope : BitVec 3 := 0
  deriving DecidableEq, Repr

/-- One contiguous piece of a request: `size` bytes at `va`, which lie at byte `off` of the request's data. -/
structure Elem where
  off : Nat
  va : Dword
  size : Nat
  deriving DecidableEq, Repr

/-- Where load data goes (R350 DEST). -/
inductive Dest where
  | none
  | scalar (d : BitVec 6) (size : Nat) (signed : Bool)
  | pair (d : BitVec 6)
  | vecs (regs : List Nat)
  | queue (q : Nat) (masks : List Mask)
  | mask (n : Nat)
  | desc (n : Nat)
  deriving DecidableEq, Repr

/-- An atomic's operation (R172, R173): `kind` 0 integer, 1 float, 2 compare-and-swap. -/
structure AtomOp where
  kind : BitVec 2
  op : BitVec 3
  trap : Bool
  size : Nat
  b : BitVec 128
  expect : BitVec 128 := 0
  deriving DecidableEq, Repr

/-- The kinds of request of R350. -/
inductive AccKind where
  | load | store | atomic | gather | scatter | gathb | sfetch | desc | ring | fill | fabric
  deriving DecidableEq, Repr

/-- What a ring word does to its ring, with its operand (R169 to R171); for `wmap` the descriptor that it took at its issue and the first
chunk. -/
inductive RingOp where
  | claim (off : Nat)
  | waitFree (k : Nat)
  | waitFull (k : Nat)
  | publish (k : Nat)
  | release (k : Nat)
  | advance (n : Nat)
  | map (x : Desc) (first : Nat)
  | unmap
  deriving DecidableEq, Repr

/-- A memory request with everything its replay needs (R350): shape, destination, captured data, order. The bytes of `elems` are read
into the images `part`; where `pick` is not empty, they are raw source bytes, and each (destination bit, source bit, width) of
`pick` moves an element of them into `base` (R160 to R167). -/
structure Req where
  kind : AccKind
  write : Bool := false
  elems : List Elem := []
  dest : Dest := .none
  base : List Vec := []
  part : List Vec := []
  pick : List (Nat × Nat × Nat) := []
  data : List Vec := []
  atom : Option AtomOp := none
  ring : Option RingOp := none
  ord : AccOrd := {}
  deriving DecidableEq, Repr

/-- State of an access-record entry (R350). DONE entries are removed; only a matrix read from another device stays done until its step
takes the data. HELD is `held` in a hold queue and `nacked` where the queue was full (R301). -/
inductive RecState where
  | pending | faulted | held | nacked | done
  deriving DecidableEq, Repr

/-- One access-record entry (R350). `key` names the resolution a FAULTED entry waits for; `fail` is the trap that is due for it when
the resolution has failed, or its completion reports a fault (R349); `trapped` says that one has been raised (R352). `priv` is the view
the word issued in (R345). `moved` is the T0 frame and the object of the page that held it (R301). `here` is 1 where a store has bytes at other devices and here, which are written once the others are (R151),
and 2 from then on. -/
structure RecEntry where
  seq : Nat
  unit : EUnit
  req : Req
  state : RecState
  key : Nat := 0
  fail : Option (Cause × Dword) := none
  sig : Option (BitVec 4) := none
  trapped : Bool := false
  priv : Bool := false
  moved : Option (Nat × BitVec 48) := none
  here : Nat := 0
  deriving DecidableEq, Repr

/-- An MTX command that has issued and not completed (R205, R222): the descriptors as its word took them, its fields and view, the next Cam
step, the operand bytes read so far under their addresses, which later steps may share, and the Q operand of `attb` (R414). -/
structure MtxCmd where
  unit : EUnit
  opcode : Nat
  acc : Nat
  a : Desc := 0
  b : Desc := 0
  c : Desc := 0
  wb : Option Nat := none
  spec : Bool := false
  rel : Bool := false
  z : Bool := false
  fin : Bool := false
  en : BitVec 4 := 0
  sig : Option (BitVec 4) := none
  priv : Bool := false
  step : Nat := 0
  kept : List (Nat × Byte) := []
  q : List Vec := []
  deriving DecidableEq, Repr

/-- An MTX word that has taken its descriptor and waits for its one access (R205): its place in fetch order, the descriptor, and, once bytes
of it have gone to another device, the tiles that it holds until it completes (R211). -/
structure MtxWait where
  seq : Nat
  desc : Desc
  uses : List Nat := []
  deriving DecidableEq, Repr

/-- Accesses that an invalidation waits for (R269, R362): record entries and operations with packets or AtomicOps under way, and guest
requests that are held, by their numbers. -/
structure InFlight where
  accs : List Nat := []
  ops : List Nat := []
  reqs : List Nat := []
  deriving DecidableEq, Repr

/-- The XFER words (R227). -/
inductive XKind where
  | copy | copyMmt | collOpen | collRed | collBar | collClose | gready | gunready | gsend | grecv | gqpush | gqwait | launch | mbsend
  deriving DecidableEq, Repr

/-- Where an accepted operation stands: running, stopped on a deferred fault (R230), or held at a page that is being resolved. -/
inductive XStat where
  | active
  | fault (c : Cause) (tval : Dword)
  | waiting (key : Nat)
  | done
  deriving DecidableEq, Repr

/-- An XFER operation from its acceptance to its completion (R227): operands read at issue, what was read since, and progress. `asked`
says that a request to another device is under way; its data arrives in `part`. `status`, `info` and `got` are a collective's STATUS and
INFO and the result segments that have arrived, `since` the time at which its contribution left. `here` says that a write under way to
other devices has bytes at this one too, which are written once the others are. -/
structure XOp where
  id : Nat := 0
  kind : XKind
  team : Nat := 0
  sid : Nat := 0
  tile : Nat := 0
  unit : EUnit := {}
  en : BitVec 4 := 0
  sig : Option (BitVec 4) := none
  ord : AccOrd := {}
  x : Dword := 0
  y : Dword := 0
  z : Dword := 0
  flag : Bool := false
  priv : Bool := false
  n : Nat := 0
  progress : Nat := 0
  payload : List Byte := []
  resid : List Word := []
  stat : XStat := .active
  xid : Nat := 0
  answered : List (Nat × Cause) := []
  ctx : Word := 0
  asked : Bool := false
  part : List Vec := []
  status : Nat := 0
  info : Nat := 0
  got : Nat := 0
  since : Nat := 0
  here : Bool := false
  deriving DecidableEq, Repr

/-- The trap frame (R344): the trapped unit with its engine and the data queues it pops and pushes (R348), and what entry moved
aside. -/
structure Frame where
  eng : Nat := 0
  unit : EUnit := {}
  fetchFault : Bool := false
  deferred : Option Nat := none
  pops : List Nat := []
  pushes : List Nat := []
  q : Queues := {}
  arec : List RecEntry := []
  resume : Dword := 0
  dq : Sparse (List QEntry) := []
  loops : List LoopLevel := []
  pc : Dword := 0
  pfx : Partial := {}
  hold : Bool := false
  parkEnded : Bool := false
  sregs : Sparse Dword := []
  mtx : Option MtxCmd := none
  mreq : Option RecEntry := none
  sync : Bool := false
  pauseEnd : Option Nat := none
  timeUp : Bool := false
  mdesc : Option MtxWait := none
  inval : Option (Nat × InFlight) := none
  damage : List CorePart := []
  deriving DecidableEq, Repr

/-- A strand: its registers (R15, R31), CSRs (R271 to R273), queues (R34), access record (R350) and trap frame (R344).
`live` is false for a strand that is on no tile. The model's own: `unit` and `held`, the unit that is issuing and
whether it had to wait; `mreq` and `fetchReq`, the reads of the matrix command and of fetch from another device; `answered`, the pages and objects whose resolution
has been answered, each with the cause to raise if the next walk still fails (R349); `timeUp`, a timed wait at the head of the CTRL
queue whose deadline has passed before it was satisfied (R139); `mdesc`, an MTX word that waits for its access (R205); `inval`, the `tlbinv`
word that has removed its entries, by its place in fetch order, and what it waits for (R269). `damage` lists the registers that hold damaged
data (R356).
Assumption 3, DESIGN CHOICE. -/
structure Strand where
  live : Bool := false
  team : Nat := 0
  sid : Nat := 0
  die : BitVec 2 := 0
  tile : BitVec 4 := 0
  core : BitVec 3 := 0
  slot : BitVec 2 := 0
  ctx : Word := 0
  pc : Dword := 0
  s : Sparse Dword := []
  v : Sparse Vec := []
  m : Sparse Mask := []
  d : Sparse Desc := []
  dq : Sparse (List QEntry) := []
  e : Sparse (BitVec 8) := []
  loops : List LoopLevel := []
  flags : BitVec 5 := 0
  rndm : BitVec 3 := 0
  scbm : BitVec 2 := 2
  srseed : Dword := 0
  srstream : Word := 0
  rbtab : BitVec 9 := 0
  stat : BitVec 6 := 0
  teamid : Dword := 0
  teamsize : Dword := 0
  tsbase : Dword := 0x6A0000000000
  dswbase : Dword := 0x6B0000000000
  lpb : Dword := 0
  p : Bool := false
  pp : Bool := false
  tvec : Dword := 0
  tcause : BitVec 11 := 0
  tval : Dword := 0
  tepc : Dword := 0
  tqHalted : BitVec 6 := 0
  tqNonempty : BitVec 6 := 0
  pfx : Partial := {}
  unit : EUnit := {}
  held : Bool := false
  fetchHold : Bool := false
  parkEnded : Bool := false
  q : Queues := {}
  arec : List RecEntry := []
  resume : Dword := 0
  frame : Option Frame := none
  tables : Sparse SfuTable := []
  topk : TopK := {}
  pend : List PendWrite := []
  spend : List PendWrite := []
  vclk : Nat := 0
  sclk : Nat := 0
  barPhase : Sparse (Option Nat) := []
  barDropped : BitVec 16 := 0
  syncArrived : Bool := false
  pauseEnd : Option Nat := none
  mtx : Option MtxCmd := none
  mreq : Option RecEntry := none
  xpend : Option XOp := none
  fetchReq : Option RecEntry := none
  answered : List (Nat × Cause) := []
  timeUp : Bool := false
  mdesc : Option MtxWait := none
  inval : Option (Nat × InFlight) := none
  damage : List CorePart := []
  hangTimer : Nat := 0
  cyc : Nat := 0
  deriving DecidableEq, Repr

/-- A team barrier (R134). -/
structure Barrier where
  e : Nat := 0
  a : Nat := 0
  p : Nat := 0
  phase : Nat := 0
  deriving DecidableEq, Repr

/-- A weight buffer with its record (R215): K and N are 0 when empty, `bytes` is the encoded form row by row. -/
structure WBuf where
  k : Nat := 0
  n : Nat := 0
  fmt : BitVec 8 := 0
  elems : Sparse Byte := []
  scales : Sparse Byte := []
  supers : Sparse Byte := []
  deriving DecidableEq, Repr

/-- An accumulator tile: element (i, j) under key 128 i + j (R209). -/
abbrev Tile := Sparse Word

/-- The state of a core pair's array (R48, R209, R216). `bad` lists the damaged tiles, weight buffers under 8 + number, and
shadows under 12 + number (R356).
Assumption 3, DESIGN CHOICE. -/
structure ArrayState where
  amode : BitVec 2 := 0
  grant0 : Option Nat := none
  grant1 : Option Nat := none
  tiles : Sparse Tile := []
  shadows : Sparse Tile := []
  spec : BitVec 8 := 0
  wb : Sparse WBuf := []
  window : Bool := false
  bad : List Nat := []
  deriving DecidableEq, Repr

/-- The values of a kernel header that live on with a team (R31, R96, R108). -/
structure Header where
  entry : Dword := 0
  nv : Nat := 256
  scbm : BitVec 2 := 2
  tsram : Nat := 0
  seedp : Nat := 0xFFFF
  streamp : Nat := 0xFFFF
  rbtabp : Nat := 0xFFFF
  patches : List (Dword × Nat × BitVec 8 × BitVec 8) := []
  inputs : List (Nat × Nat × Nat) := []
  shapeC : Nat := 0
  shapeP : Nat := 0
  deriving DecidableEq, Repr

/-- A team of a launch (R29, R30, R354): its placement, barriers, tile SRAM frames or saved image, saved array images, and what
keeps it from being eligible. `halted` says that it ended early (R264, R346), with the status and code that its launch records once it
has ended. `save` holds the frames of T1 or T2, as memory keys, that its save image takes (R354), `left` the tile SRAM frames that it had
when it left its tile (R231). -/
structure Team where
  id : Nat := 0
  ctx : Word := 0
  launch : Nat := 0
  number : Nat := 0
  c : Nat := 1
  p : Nat := 1
  array : BitVec 2 := 0
  hdr : Header := {}
  patchVals : List Dword := []
  started : Bool := false
  placed : Bool := false
  die : BitVec 2 := 0
  tile : BitVec 4 := 0
  cores : List Nat := []
  slots : List Nat := []
  barriers : Sparse Barrier := []
  frames : List Nat := []
  image : List Host.Cell := []
  arrays : List (Nat × ArrayState) := []
  parkHeld : Bool := false
  faults : List Nat := []
  quantumEnd : Nat := 0
  placedAt : Nat := 0
  dies : BitVec 4 := 0
  off : Dword := 0
  halted : Bool := false
  endWith : Option (BitVec 32 × Dword) := none
  save : List Nat := []
  left : List Nat := []
  ended : Bool := false
  deriving DecidableEq, Repr

/-- A launch (R328 to R331). `kernel` says that it is accepted and step 3 of R329 is still to be made. `ready` says that only its completion
steps are left, `written` of them made; they wait for the resolution `wait` or the operation `xid`, and the writes of the
completion record are skipped when `refused`. `got` keeps what it read from other devices, each under its address; nothing, where the read
was refused. `map` is the launch's map once it has been read (R334). -/
structure Launch where
  id : Nat := 0
  record : BitVec 512 := 0
  host : Bool := false
  issuer : Option (Nat × Nat) := none
  done : Nat := 0
  status : BitVec 32 := 0
  code : Dword := 0
  ready : Bool := false
  wait : Option Nat := none
  refused : Bool := false
  kernel : Bool := false
  written : Nat := 0
  xid : Option Nat := none
  got : List (Nat × List Byte) := []
  map : Option (List (BitVec 4 × Dword)) := none
  deriving DecidableEq, Repr

/-- Context states (R26). -/
inductive CtxState where
  | free | ready | running | parked | swapped
  deriving DecidableEq, Repr

/-- A park condition (R256): named latched sources, the earliest deadline, and EVENT conditions tied to strands. -/
structure ParkCond where
  named : BitVec 6 := 0
  deadline : Option Dword := none
  events : List (Nat × Nat × BitVec 4 × BitVec 8) := []
  deriving DecidableEq, Repr

/-- A recall under way, whose completion is a RECALL source (R256, R266, R297): the pages that are not back yet with the tiers they go
to, and whether the save area belongs to it. -/
structure Recall where
  pages : List (BitVec 48 × BitVec 2)
  save : Bool := false
  deriving DecidableEq, Repr

/-- A context-table entry (R25 to R28, R256, R258, R296). `recalling` says that a recall is asked for, `recalls` are those under way; `due`
is the source by which a context that Hinge recalls will leave SWAPPED (R256). -/
structure Ctx where
  gen : BitVec 10 := 1
  part : BitVec 6 := 0
  state : CtxState := .free
  root : Dword := 0
  profile : BitVec 2 := 0
  prio : BitVec 3 := 0
  mb : Sparse Dword := []
  hint : Option Dword := none
  est : Option Nat := none
  wake : Option Nat := none
  parkStart : Nat := 0
  latch : BitVec 6 := 0
  lastWake : BitVec 6 := 0
  cond : Option ParkCond := none
  recalling : Bool := false
  recalls : List Recall := []
  due : BitVec 6 := 0
  lastTile : Option Nat := none
  deriving DecidableEq, Repr

/-- A migration of a page (R301, R302): `line` when line-valid, the new tier and frame, how far it is (busy count zero, copy made,
rebind begun), the tier it leaves and the time it started. -/
structure Migration where
  line : Bool := false
  tier : BitVec 2 := 0
  frame : Nat := 0
  drained : Bool := false
  copied : Bool := false
  rebinding : Bool := false
  src : BitVec 2 := 0
  start : Nat := 0
  deriving DecidableEq, Repr

/-- A page directory entry (R294) with the pins it counts (R266), its migration, the moves queued behind that, each with whether
`hinge.move` asked for it, and the tier it held when its context parked, once a demotion has moved it (R297). `acks` has a bit for each die and, as bit
4, one for the guest's port (R402). -/
structure Pde where
  obj : BitVec 48 := 0
  tier : BitVec 2 := 1
  shared : Bool := false
  moving : Bool := false
  pins : List (Word × BitVec 1) := []
  version : Word := 1
  owner : Word := 0
  frame : Nat := 0
  oldFrame : Nat := 0
  lines : Sparse Bool := []
  mig : Option Migration := none
  queued : List (BitVec 2 × Bool) := []
  parkTier : Option (BitVec 2) := none
  acks : BitVec 5 := 0
  deriving DecidableEq, Repr

/-- A cached translation (R361, R363, R364): `kind` 0 host table, 1 stage 2, 2 fabric MMU. The entry covers the piece of
`span` bytes whose number is `page`, and maps it from page `frame` of 4 KiB on. `line` is the GPA of the table line of a host table's
leaf. Each die has its own (R18). -/
structure TlbEntry where
  die : BitVec 2 := 0
  kind : BitVec 2
  part : BitVec 6
  root : Dword
  page : Nat
  frame : Nat
  perm : BitVec 8
  line : Nat := 0
  span : Nat := 4096
  deriving DecidableEq, Repr

/-- A line of a host table that the walker of a die keeps (R361): the partition and root of the walk, and whether the leaf lies in it. -/
structure WalkLine where
  die : BitVec 2
  part : BitVec 6
  root : Dword
  line : Nat
  leaf : Bool
  deriving DecidableEq, Repr

/-- An entry of a port's address translation cache (R370): partition, GPA page and host page. -/
structure AtsEntry where
  port : BitVec 1
  part : BitVec 6
  page : Nat
  host : Nat
  deriving DecidableEq, Repr

/-- A unit of a registration list (R385): its device and number, and whether a message has been matched to it. -/
structure Reg where
  dev : BitVec 10
  unit : Nat
  taken : Bool := false
  deriving DecidableEq, Repr

/-- A group of this device's group table (R383), its registration list oldest first, and its parking store. -/
structure Group where
  part : BitVec 6
  plim : Nat
  regs : List Reg := []
  parked : List Packet := []
  deriving DecidableEq, Repr

/-- A unit of readiness of a member on this device (R244): outstanding until it resolves, armed once the GREG arrives (R385). A message
that waits for a page of the buffer stands in `waiting` with the key of the resolution, or the cause of its failure (R247). -/
structure GUnit where
  id : Nat
  ctx : Word
  group : BitVec 24
  buf : Dword
  team : Nat
  sid : Nat
  op : Nat
  word : EUnit := {}
  armed : Bool := false
  waiting : Option Packet := none
  key : Nat := 0
  fail : Option Cause := none
  deriving DecidableEq, Repr

/-- A contribution, or a part of one, at a reduction slot (R238, R239, R391): rank, round, the request it came with, and its segments'
bytes by segment number. -/
structure Contrib where
  rank : Nat
  round : Nat
  sdev : BitVec 10 := 0
  sdie : BitVec 2 := 0
  xid : Nat := 0
  segs : Sparse (List Byte) := []
  deriving DecidableEq, Repr

/-- A reduction slot (R236 to R241, R391): agreed fields (those of the descriptor), generation, attached ranks, round, contributions
counted in it, complete ones held for later rounds, those of which segments are missing, and the time at which the round closes. A slot
that was never allocated has generation 1: assumption 5, DESIGN CHOICE. -/
structure Slot where
  inUse : Bool := false
  part : BitVec 6 := 0
  agreed : BitVec 512 := 0
  gen : BitVec 16 := 1
  ranks : List Nat := []
  round : Nat := 0
  counted : List Contrib := []
  held : List Contrib := []
  partials : List Contrib := []
  deadline : Option Nat := none
  deriving DecidableEq, Repr

/-- What the copy engines keep of an open handle (R236, R239): the next round of its rank and the agreed fields it was opened with. -/
structure Attached where
  round : Nat := 0
  agreed : BitVec 512 := 0
  deriving DecidableEq, Repr

/-- A readiness cache entry (R390): when it was fetched, and devices with their counts. -/
structure Readiness where
  time : Nat := 0
  entries : List (Nat × Nat) := []
  deriving DecidableEq, Repr

/-- States of the Mortise site (R396). -/
inductive GState where
  | off | measuring | enabled | fenced | refused
  deriving DecidableEq, Repr

/-- An outstanding guest packet (R399): its queue, sequence number, context, pushing team and strand, and COMPL address. -/
structure GPacket where
  queue : Nat
  seq : Word
  ctx : Word
  team : Nat
  sid : Nat
  op : Nat
  compl : Dword
  deriving DecidableEq, Repr

/-- A translation grant (R401): its page's guest-physical base, its object and the table line it came from. `told` says that GINV has been
sent for a dropped one (R402). -/
structure Grant where
  ctx : Word
  base : Dword
  log2 : Nat
  perm : BitVec 2
  dropped : Bool := false
  told : Bool := false
  order : Nat := 0
  gpa : Nat := 0
  obj : Option (BitVec 48) := none
  line : Nat := 0
  deriving DecidableEq, Repr

/-- A translation the guest has asked for that waits for FAULT or FRES (R401, R403), and the team that pushed its packet. `res` is the
STATUS of FRES once it is known. -/
structure GTag where
  tag : BitVec 16
  queue : Nat
  seq : Word
  va : Dword
  key : Nat
  team : Nat := 0
  reported : Bool := false
  res : Option Nat := none
  deriving DecidableEq, Repr

/-- The Mortise site (R396 to R405). `notify` are the QNOTIFY messages that are held, as queue and TAIL, `cancelled` the packets that the
device has cancelled, `reqs` memory requests that wait for a line or page, in the order of their arrival, with their numbers. -/
structure Guest where
  state : GState := .off
  cause : BitVec 8 := 0
  err : Bool := false
  arm : Bool := false
  linksUp : Bool := false
  nonce : BitVec 256 := 0
  gmrec : List Byte := []
  head : Sparse Word := []
  tail : Sparse Word := []
  stop : List Nat := []
  stopped : List Nat := []
  preempt : List (Nat × Option Word) := []
  packets : List GPacket := []
  grants : Sparse Grant := []
  grantNext : Nat := 0
  tags : List GTag := []
  waitReqs : List (BitVec 16 × BitVec 16 × Word × Dword × BitVec 8) := []
  notify : List (Nat × Word) := []
  cancelled : List (Nat × Word) := []
  reqs : List (Nat × GuestReq) := []
  deriving DecidableEq, Repr

/-- A bound scratchpad window (R170): ring header address, its die and tile, the binding strand with its view, the descriptor copied at
binding, the next chunk, the slot that is being filled and its first chunk, a fault to report, and whether filling has stopped at a
reported one. -/
structure Window where
  id : Nat
  ring : Nat
  tile : Nat
  team : Nat
  sid : Nat
  ctx : Word
  priv : Bool := false
  unit : EUnit
  desc : Desc
  next : Nat
  slot : Option Nat := none
  start : Nat := 0
  fault : Option (Cause × Dword) := none
  stopped : Bool := false
  deriving DecidableEq, Repr

/-- An unanswered packet of this device (R382, R392): kept until its answer, with the operation it serves, or the number of the record
entry and the bytes of its data that it carries. -/
structure Pending where
  xid : Nat
  pkt : Packet
  team : Nat := 0
  sid : Nat := 0
  op : Option Nat := none
  acc : Option Nat := none
  off : Nat := 0
  n : Nat := 0
  nacked : Bool := false
  escaped : Bool := false
  bounces : Nat := 0
  deriving DecidableEq, Repr

/-- What the device sends out: packets on the fabric, messages to the guest (TYPE and fields of R400), requests or answers at a host
port (a PRI request, a snoop answer, a back-invalidate, an ATS answer, a read's data), packets that the group-capable switch sends on a
port, and a fetch of a group's readiness (R390). -/
inductive Out where
  | packet (p : Packet)
  | guest (type : BitVec 8) (fields : List Nat)
  | guestData (status : Nat) (data : List Byte)
  | pri (key : Nat) (page : Nat) (pasid : Nat)
  | atomicOp (seq : Nat) (gpa : Nat) (pasid : Nat)
  | biSnp (inv : Bool) (line : Nat)
  | snoopAnswer (line : Nat)
  | hostData (poison : Bool) (data : List Byte)
  | port (d : BitVec 8) (p : Packet)
  | readiness (group : Nat)
  deriving DecidableEq, Repr

/-- A translation that the device is resolving (R349): the key, what it is for, the object or page, the address that met it, the team
and strand number of a strand that waits for it, the die of the access and whether it writes. `kind`: 0 recall of an object, 1 a free
frame for a new object, 2 a PRI request. -/
structure Resolve where
  key : Nat := 0
  kind : BitVec 2 := 0
  obj : BitVec 48 := 0
  ctx : Word := 0
  va : Dword := 0
  at_ : Dword := 0
  who : Option (Nat × Nat) := none
  die : BitVec 2 := 0
  write : Bool := false
  deriving DecidableEq, Repr

/-- A line of an L1 that hardware does not keep coherent (R276, R289): a line of another die's HBM, or of a view. `core` is 128 die +
8 tile + core; the tag is partition and guest-physical line; `keys` are the places of its 64 bytes; the bytes whose bit of `dirty` is set
are not written back yet. -/
structure L1Line where
  core : Nat
  part : BitVec 6
  line : Nat
  view : Bool := false
  keys : List Nat := []
  data : BitVec 512 := 0
  dirty : BitVec 64 := 0
  deriving DecidableEq, Repr

/-- A transfer in the hold queue of a die for a page that migrates (R301): a record entry, operation or guest request by its number. -/
structure Hold where
  obj : BitVec 48
  die : BitVec 2
  id : Nat
  deriving DecidableEq, Repr

/-- A CXL.mem access of the host that waits for its channel (R284). -/
structure HostReq where
  write : Bool
  addr : Nat
  size : Nat
  data : List Byte
  deriving DecidableEq, Repr

/-- A snoop of a table line, or an ATS invalidation, whose answer waits for accesses (R362, R370): its address. -/
structure TableSnoop where
  line : Nat
  left : InFlight
  deriving DecidableEq, Repr

/-- An entry of a die's error log (R282, R356, R379): a code and an address. -/
structure LogEntry where
  die : BitVec 2
  code : Nat
  addr : Nat
  deriving DecidableEq, Repr

/-- A step of another agent that is due because of an earlier one: FAULT_WAKE, WAKE_REQUEST, the arrival of a packet that this device
sent to itself, and the command of the management mailbox (R411). The queue of these is the wake queue of R327 and the packets between
dies, those of a rebind (R295) among them. -/
inductive Due where
  | faultWake (team key : Nat)
  | wake (ctx : BitVec 16) (src : BitVec 3)
  | packet (p : Packet)
  | command (op : Nat)
  deriving DecidableEq, Repr

/-- Why a step stops for good. -/
inductive Fault where
  /-- Raised by `step` when the reset sequence failed at step 1 or 4 (R407: MSTAT.STATE 7, no port trains and the sequence stops):
  nothing more happens until power is applied again. Safe: no state follows it. -/
  | bringUpFailed
  deriving DecidableEq, Repr

/-- Why an instruction has no meaning. -/
inductive Refusal where
  /-- The arm of `exec` of an instruction that has no meaning yet, by its mnemonic. Safe: no state follows it. -/
  | notModelled (mnemonic : String)
  deriving DecidableEq, Repr

/-- The state of the machine. `cs` is the strand that steps now, `others` the other strands, next first (R33).
`moves` holds the latest durations of page moves (R297). `bidir` lists the recorded lines of R374, oldest first, and `biShared` those of
them that the host may hold shared only. `hits` counts the accesses to captured rows (R283), `hostReqs` are CXL.mem accesses that wait, and
`tableSnoops` snoops that are not answered yet. `clock` is the arithmetic clock in MHz (R18, R410), `flash` the configuration record in module
flash (R407), `corrected` the corrected errors of each die (R356). `l1` lists the lines that hardware does not keep coherent, least recently filled first, and
`holds` the hold queues, first held first. `walkprof` and `hangctl` are one for the device (assumption 71, DESIGN CHOICE). `iommu` is the host's map of device pages, under 2^42 PASID + page (R370), where it is not the
identity. The model's own: `inputs`, `due` and `out` (steps of other agents and what goes out), the
counters `free`, `nextId` and `nextSeq`, `turn`, which shares steps out between events and strands, `served`, the strand slot that each
engine of a core served last (R33), `copyTurn` and `sendTurn`, the strands whose transfers the copy engines and the message units served
last, and `sendsNext`, whether a message unit comes before the copy engines (R341).
Assumption 1, DESIGN CHOICE; 8, DESIGN CHOICE. -/
structure State where
  cs : Strand := {}
  others : List Strand := []
  mem : List Host.Cell := []
  time : Nat := 0
  teams : List Team := []
  arrays : Sparse ArrayState := []
  hangRec : Sparse Dword := []
  ctxs : Sparse Ctx := []
  launches : List Launch := []
  deficits : Sparse Int := []
  ptrs : Sparse Nat := []
  pdes : List Pde := []
  badT2 : List Nat := []
  moves : Sparse (List Nat) := []
  resolves : List Resolve := []
  tlb : List TlbEntry := []
  walkprof : Sparse Dword := []
  hangctl : Word := 50000
  pcb : Sparse Dword := []
  regions : Sparse (BitVec 512) := []
  bar0 : Sparse Dword := []
  groups : Sparse Group := []
  units : List GUnit := []
  sent : Sparse Dword := []
  switch : Sparse Nat := []
  cache : Sparse Readiness := []
  slots : Sparse Slot := []
  opens : List Packet := []
  attached : Sparse Attached := []
  ops : List XOp := []
  windows : List Window := []
  pending : List Pending := []
  guest : Guest := {}
  fabSeq : Sparse Nat := []
  fabNext : Sparse Nat := []
  fabHeld : List Packet := []
  bidir : List Nat := []
  biShared : List Nat := []
  priOff : Bool := false
  poison : List Nat := []
  corrected : Sparse Nat := []
  l1 : List L1Line := []
  holds : List Hold := []
  iommu : Sparse Nat := []
  atc : List AtsEntry := []
  walker : List WalkLine := []
  rows : Sparse Nat := []
  captured : List Nat := []
  hits : Sparse Nat := []
  hostReqs : List HostReq := []
  tableSnoops : List TableSnoop := []
  rates : Sparse (BitVec 2) := []
  changing : Sparse (BitVec 2) := []
  portsDown : BitVec 2 := 0
  portsPcie : BitVec 2 := 0
  ualDown : BitVec 36 := 0
  errLog : List LogEntry := []
  mstate : BitVec 3 := 3
  cfgdef : Bool := false
  throttle : BitVec 4 := 0
  clock : Nat := 2500
  mresult : BitVec 2 := 0
  mbusy : Bool := false
  mdata : List Byte := []
  cfg : List Byte := []
  flash : List Byte := []
  inputs : List Instr := []
  due : List Due := []
  out : List Out := []
  free : Nat := 0
  nextId : Nat := 1
  nextSeq : Nat := 0
  turn : Nat := 0
  served : Sparse Nat := []
  copyTurn : Nat := 0
  sendTurn : Nat := 0
  sendsNext : Bool := false
  deriving DecidableEq, Repr

/-- The machine right after the reset sequence of R407 reached READY: no context, launch or team exists, no strand is placed, and
nothing is in memory. Every field has the value its register map states, or the value assumption 3, 4, 5, 6, 7, 8 or 52 names. -/
def State.reset : State := {}

end Sys2Proof.Machine
end

