-- ==== Sys2Proof/Machine/Sparse.lean ====
section
/-! DEFINITION. Sparse tables: reading and writing keep one canonical form, keys strictly rising and no entry equal to the value `d`
that an unlisted key reads as. Memory, register files and accumulator tiles all use these two operations. -/

namespace Sys2Proof.Machine

/-- The value under a key; `d` where the key is not listed. -/
def Sparse.get {α : Type} (d : α) : Sparse α → Nat → α
  | [], _ => d
  | (k, v) :: m, i => if i = k then v else Sparse.get d m i

/-- Writing a value under a key; writing `d` removes the entry. -/
def Sparse.set {α : Type} [DecidableEq α] (d : α) : Sparse α → Nat → α → Sparse α
  | [], i, x => if x = d then [] else [(i, x)]
  | (k, v) :: m, i, x =>
    if i < k then (if x = d then (k, v) :: m else (i, x) :: (k, v) :: m)
    else if i = k then (if x = d then m else (i, x) :: m)
    else (k, v) :: Sparse.set d m i x

/-- Every key is at least `b`, keys rise strictly, and no value is `d`. -/
def Sparse.wfFrom {α : Type} [DecidableEq α] (d : α) : Nat → Sparse α → Bool
  | _, [] => true
  | b, (k, v) :: m => b ≤ k && v ≠ d && Sparse.wfFrom d (k + 1) m

/-- The canonical form. -/
def Sparse.wf {α : Type} [DecidableEq α] (d : α) (m : Sparse α) : Bool := Sparse.wfFrom d 0 m

/-- What a byte of memory that nothing has written reads as (R292 for tile SRAM and object frames; assumption 2 elsewhere). -/
def unwritten : Byte := 0

/-- The canonical form of memory: addresses strictly rising, and no entry equal to what an unlisted address reads as. -/
def Memory.wf (m : List Host.Cell) : Bool := Sparse.wf unwritten m

/-- One byte of memory. Assumption 2, DESIGN CHOICE. -/
def memByte (m : List Host.Cell) (a : Nat) : Byte := Sparse.get unwritten m a

/-- Writing one byte of memory. -/
def setByte (m : List Host.Cell) (a : Nat) (b : Byte) : List Host.Cell := Sparse.set unwritten m a b

/-- `n` bytes at rising addresses as one little-endian number (R6). -/
def leNat : List Byte → Nat
  | [] => 0
  | b :: bs => b.toNat + 256 * leNat bs

/-- The `n` low bytes of a number, least significant first (R6). -/
def leBytes : Nat → Nat → List Byte
  | 0, _ => []
  | n + 1, x => BitVec.ofNat 8 x :: leBytes n (x / 256)

/-- `n` bytes from address `a` on. -/
def memBytes (m : List Host.Cell) (a : Nat) : Nat → List Byte
  | 0 => []
  | n + 1 => memByte m a :: memBytes m (a + 1) n

/-- A little-endian number of `n` bytes at address `a`. -/
def memNat (m : List Host.Cell) (a n : Nat) : Nat := leNat (memBytes m a n)

/-- Writing bytes at rising addresses. -/
def setBytes (m : List Host.Cell) (a : Nat) : List Byte → List Host.Cell
  | [] => m
  | b :: bs => setBytes (setByte m a b) (a + 1) bs

/-- Byte `i` of a wide value, byte 0 lowest (R6, R54). -/
def byteOf {w : Nat} (x : BitVec w) (i : Nat) : Byte := x.extractLsb' (8 * i) 8

/-- A wide value with byte `i` replaced. -/
def setByteOf {w : Nat} (x : BitVec w) (i : Nat) (b : Byte) : BitVec w :=
  (x &&& ~~~((BitVec.ofNat w 255) <<< (8 * i))) ||| ((BitVec.ofNat w b.toNat) <<< (8 * i))

/-- The fields of a record held as bits: `n` bytes at byte offset `off`. -/
def recField {w : Nat} (x : BitVec w) (off n : Nat) : Nat := x.toNat / 2 ^ (8 * off) % 2 ^ (8 * n)

end Sys2Proof.Machine
end

