-- ==== Sys2Proof/Machine/Ops.lean ====
section
/-! DEFINITION. Named operations over a strand and its team: registers, data queues, event counters, prefix words, the engine queues,
taking a trap and returning from one (02_execution_model.md, 06_instruction_encoding.md R86 to R93, 22_faults_and_translation.md
R343 to R348). -/

namespace Sys2Proof.Machine

/-- Cause codes (R343). -/
def Cause.code : Cause → BitVec 8
  | .illegalOpcode => 0x01 | .illegalField => 0x02 | .privilege => 0x03 | .misaligned => 0x04 | .pageFault => 0x05
  | .protection => 0x06 | .bounds => 0x07 | .stallCheck => 0x08 | .arith => 0x09 | .uncorrectable => 0x0A | .hang => 0x0B
  | .staleHandle => 0x0C | .atomicUnsupported => 0x0D | .fabricError => 0x0E | .guestFault => 0x0F | .userTrap => 0x10
  | .viewViolation => 0x11

/-- The cause of a code (R343); codes that R343 does not list count as HANG's neighbour 0x01. -/
def Cause.ofCode (c : BitVec 8) : Cause :=
  match c.toNat with
  | 0x02 => .illegalField | 0x03 => .privilege | 0x04 => .misaligned | 0x05 => .pageFault | 0x06 => .protection | 0x07 => .bounds
  | 0x08 => .stallCheck | 0x09 => .arith | 0x0A => .uncorrectable | 0x0B => .hang | 0x0C => .staleHandle
  | 0x0D => .atomicUnsupported | 0x0E => .fabricError | 0x0F => .guestFault | 0x10 => .userTrap | 0x11 => .viewViolation
  | _ => .illegalOpcode

/-! Registers (R15, R79). -/

/-- A scalar; s0 reads zero. -/
def Strand.sc (t : Strand) (n : BitVec 6) : Dword := if n = 0 then 0 else Sparse.get 0 t.s n.toNat

/-- A part of the core has been written whole: it holds no damaged data any more (R356). -/
def Strand.repaired (t : Strand) (p : CorePart) : Strand := { t with damage := t.damage.filter (· ≠ p) }

/-- Writing a scalar; s0 discards the value (R79). -/
def Strand.setSc (t : Strand) (n : BitVec 6) (x : Dword) : Strand :=
  if n = 0 then t else { t.repaired (.scalar n.toNat) with s := Sparse.set 0 t.s n.toNat x }

/-- A vector register. -/
def Strand.vr (t : Strand) (n : Nat) : Vec := Sparse.get 0 t.v n

def Strand.setVr (t : Strand) (n : Nat) (x : Vec) : Strand := { t.repaired (.vector n) with v := Sparse.set 0 t.v n x }

/-- A mask register. -/
def Strand.mr (t : Strand) (n : Nat) : Mask := Sparse.get 0 t.m n

def Strand.setMr (t : Strand) (n : Nat) (x : Mask) : Strand := { t.repaired (.mask n) with m := Sparse.set 0 t.m n x }

/-- A stream descriptor. -/
def Strand.dr (t : Strand) (n : Nat) : Desc := Sparse.get 0 t.d n

def Strand.setDr (t : Strand) (n : Nat) (x : Desc) : Strand := { t.repaired (.desc n) with d := Sparse.set 0 t.d n x }

/-- An event counter. -/
def Strand.ev (t : Strand) (n : BitVec 4) : BitVec 8 := Sparse.get 0 t.e n.toNat

/-- One increment of an event counter, modulo 256 (R42). -/
def Strand.bump (t : Strand) (n : BitVec 4) : Strand := { t with e := Sparse.set 0 t.e n.toNat (t.ev n + 1) }

/-- The mark of a unit that had to wait. -/
def Strand.setHeld (t : Strand) (b : Bool) : Strand := { t with held := b }

/-- Counter value `e` satisfies threshold `t` (R44). -/
def satisfied (e t : BitVec 8) : Bool := (e - t).toNat < 128

/-! Data queues (R38, R39, R351). -/

/-- The entries of a data queue, head first. -/
def Strand.dataq (t : Strand) (q : Nat) : List QEntry := Sparse.get [] t.dq q

def Strand.setDataq (t : Strand) (q : Nat) (l : List QEntry) : Strand := { t with dq := Sparse.set [] t.dq q l }

/-- A push at the tail. -/
def Strand.pushq (t : Strand) (q : Nat) (e : QEntry) : Strand := t.setDataq q (t.dataq q ++ [e])

/-- Free entries of a queue of eight (R38). -/
def Strand.qfree (t : Strand) (q : Nat) : Nat := 8 - (t.dataq q).length

/-- The first `n` entries are there and filled (R39). -/
def Strand.qready (t : Strand) (q n : Nat) : Bool :=
  decide (n ≤ (t.dataq q).length) && ((t.dataq q).take n).all (·.filled)

/-- A pop of the head; an empty queue gives an empty entry (callers test `qready` first). -/
def Strand.popq (t : Strand) (q : Nat) : QEntry × Strand :=
  match t.dataq q with
  | [] => ({}, t)
  | e :: l => (e, t.setDataq q l)

/-- Filling the entry that record number `seq` reserved (R351); `k` names one of several entries it reserved, in order. -/
def fillEntry (seq : Nat) (data : Vec) (mask : Mask) : List QEntry → List QEntry
  | [] => []
  | e :: l => if !e.filled && e.seq == seq then { e with data := data, mask := mask, filled := true } :: l
              else e :: fillEntry seq data mask l

/-! Engine queues (R34, R270). -/

/-- Engine number (R77, R270). -/
def Eng.num : Eng → Nat
  | .ctrl => 0 | .acc => 1 | .vec => 2 | .mtx => 3 | .sfu => 4 | .xfer => 5

def Eng.all : List Eng := [.ctrl, .acc, .vec, .mtx, .sfu, .xfer]

def Queues.get (q : Queues) : Eng → List QItem
  | .ctrl => q.ctrl | .acc => q.acc | .vec => q.vec | .mtx => q.mtx | .sfu => q.sfu | .xfer => q.xfer

def Queues.set (q : Queues) (e : Eng) (l : List QItem) : Queues :=
  match e with
  | .ctrl => { q with ctrl := l } | .acc => { q with acc := l } | .vec => { q with vec := l }
  | .mtx => { q with mtx := l } | .sfu => { q with sfu := l } | .xfer => { q with xfer := l }

/-- The engine of a unit's target word; a JOIN word has none of its own and counts under CTRL. -/
def engOf (w : Word) : Eng :=
  match engineOf w with
  | 1 => .acc | 2 => .vec | 3 => .mtx | 4 => .sfu | 5 => .xfer | _ => .ctrl

def QItem.unit? : QItem → Option EUnit
  | .unit u => some u
  | .joinMark _ => none

/-- Queue `e` holds an unissued unit. -/
def Queues.nonempty (q : Queues) (e : Eng) : Bool := (q.get e).any (fun i => i.unit?.isSome)

/-- Bits 5:0 of the queues that hold unissued units (R273). -/
def Queues.bits (q : Queues) : BitVec 6 :=
  Eng.all.foldl (fun b e => if q.nonempty e then b ||| (BitVec.ofNat 6 (2 ^ e.num)) else b) 0

/-! Prefix words (R86 to R93). -/

/-- Kind of an EXT word. -/
def extKind (w : Word) : Nat := fldN w 26 3

/-- The prefix of kind `k` that a unit carries. -/
def EUnit.ext (u : EUnit) (k : Nat) : Option Word := u.pfx.find? (fun w => extKind w == k)

/-- A signed immediate of width `w`, extended under R88. -/
def EUnit.immS (u : EUnit) {w : Nat} (imm : BitVec w) : Int :=
  match u.ext 0 with
  | none => imm.toInt
  | some x => (BitVec.ofNat (26 + w) (fldN x 0 26 * 2 ^ w + imm.toNat)).toInt

/-- An unsigned immediate of width `w`, extended under R88. -/
def EUnit.immN (u : EUnit) {w : Nat} (imm : BitVec w) : Nat :=
  match u.ext 0 with
  | none => imm.toNat
  | some x => fldN x 0 26 * 2 ^ w + imm.toNat

/-- Class, order and scope of a unit's access; `cls` is the CLS field of AM and AR words (R89, R152). -/
def EUnit.ordOf (u : EUnit) (cls : BitVec 4) : AccOrd :=
  match u.ext 1 with
  | none => { cls := cls }
  | some x => { cls := if cls = 0 then fld x 17 4 else cls, order := fld x 21 2, scope := fld x 23 3 }

/-- The unit waits for a counter (R44, R90). -/
def Strand.tokHolds (t : Strand) (u : EUnit) : Bool :=
  match u.ext 2 with
  | none => false
  | some x => fldN x 25 1 == 1 && !satisfied (t.ev (fld x 21 4)) (fld x 13 8)

/-- The counter a unit signals at its completion (R42, R90). -/
def EUnit.sig (u : EUnit) : Option (BitVec 4) :=
  match u.ext 2 with
  | none => none
  | some x => if fldN x 12 1 == 1 then some (fld x 8 4) else none

/-- The completion signal of a word. -/
def Strand.signal (t : Strand) (e : Option (BitVec 4)) : Strand :=
  match e with
  | none => t
  | some n => t.bump n

/-- A pending write is complete: its word raises its flags and signals (R43, R64). -/
def Strand.complete (t : Strand) (p : PendWrite) : Strand := ({ t with flags := t.flags ||| p.flags } : Strand).signal p.sig

/-- Writes of the VEC queue, or of the SFU queue, that are complete by cycle `c` are pending no longer. -/
def Strand.settlePend (sfu : Bool) (c : Nat) (t : Strand) : Strand :=
  let l := if sfu then t.spend else t.pend
  let left := l.filter (fun p => c < p.ready)
  (l.filter (fun p => p.ready ≤ c)).foldl Strand.complete (if sfu then { t with spend := left } else { t with pend := left })

/-- The mask of an EXT.MASK and its zeroing bit; without one every element is active (R92). -/
def Strand.maskOf (t : Strand) (u : EUnit) : Mask × Bool :=
  match u.ext 4 with
  | none => (BitVec.allOnes 1024, false)
  | some x => (t.mr (fldN x 0 4), fldN x 4 1 == 1)

/-- What a vector field names (R79, R93): a register or a data queue. `k` is the enable bit of EXT.IND: 19 D, 18 A, 17 B. -/
inductive VName where
  | reg (n : Nat)
  | queue (q : Nat)
  deriving DecidableEq, Repr

def Strand.vname (t : Strand) (u : EUnit) (k : Nat) (x : BitVec 6) : VName :=
  match u.ext 5 with
  | some w =>
    if fldN w k 1 == 1 then .reg ((x.toNat + (t.sc (fld w 20 6)).toNat % 256) % 256)
    else if isQ x then .queue (x.toNat - 56) else .reg x.toNat
  | none => if isQ x then .queue (x.toNat - 56) else .reg x.toNat

/-! The whole machine seen from the strand that steps. -/

/-- A change of the stepping strand. -/
def State.onCs (s : State) (f : Strand → Strand) : State := { s with cs := f s.cs }

/-- Every strand, the stepping one first. -/
def State.strands (s : State) : List Strand := s.cs :: s.others

/-- A change of every strand that `p` selects. -/
def State.onStrands (s : State) (p : Strand → Bool) (f : Strand → Strand) : State :=
  { s with cs := if p s.cs then f s.cs else s.cs, others := s.others.map (fun t => if p t then f t else t) }

/-- A change of the strand `sid` of team `id`. -/
def State.onStrand (s : State) (id sid : Nat) (f : Strand → Strand) : State :=
  s.onStrands (fun t => t.team == id && t.sid == sid) f

def State.strand? (s : State) (id sid : Nat) : Option Strand := s.strands.find? (fun t => t.team == id && t.sid == sid)

def State.team? (s : State) (id : Nat) : Option Team := s.teams.find? (fun t => t.id == id)

def State.onTeam (s : State) (id : Nat) (f : Team → Team) : State :=
  { s with teams := s.teams.map (fun t => if t.id == id then f t else t) }

/-- The team of the stepping strand; an empty record where there is none. -/
def State.csTeam (s : State) : Team := (s.team? s.cs.team).getD {}

def State.onLaunch (s : State) (id : Nat) (f : Launch → Launch) : State :=
  { s with launches := s.launches.map (fun l => if l.id == id then f l else l) }

/-- A context-table entry by index of handle bits 15:0 (R16, R23). -/
def State.ctx (s : State) (h : Word) : Ctx := Sparse.get {} s.ctxs (h.toNat % 2 ^ 16)

def State.setCtx (s : State) (h : Word) (c : Ctx) : State := { s with ctxs := Sparse.set {} s.ctxs (h.toNat % 2 ^ 16) c }

/-- The running partition, PARTID (R273): handle bits 21:16 of the running context. -/
def Strand.part (t : Strand) : BitVec 6 := fld t.ctx 16 6

/-- The P view (R273). -/
def Strand.priv (t : Strand) : Bool := t.p

/-- A free value: the counter moves on. -/
def State.nextFree (s : State) : Nat × State := (s.free, { s with free := s.free + 1 })

/-! Registers with a reset value of their own are kept as the difference from it, so that an unlisted one reads its reset value. -/

/-- Reset values of BAR 0 registers that are not 0 (R408). -/
def barReset (off : Nat) : Dword := if off = 0x2100 then 0x3FF else if 0x8000 ≤ off && off < 0xA000 then 0xFF00 else 0

def State.bar (s : State) (off : Nat) : Dword := Sparse.get 0 s.bar0 off ^^^ barReset off

def State.setBar (s : State) (off : Nat) (x : Dword) : State := { s with bar0 := Sparse.set 0 s.bar0 off (x ^^^ barReset off) }

/-- Reset values of partition-block registers that are not 0: WEIGHT is 1 (R332). -/
def pcbReset (off : Nat) : Dword := if off = 0x118 then 1 else 0

/-- A register of the control block of partition `p` (R368). -/
def State.pcbReg (s : State) (p off : Nat) : Dword := Sparse.get 0 s.pcb (p * 0x20000 + off) ^^^ pcbReset off

def State.setPcb (s : State) (p off : Nat) (x : Dword) : State :=
  { s with pcb := Sparse.set 0 s.pcb (p * 0x20000 + off) (x ^^^ pcbReset off) }

/-- Reset values of WALKPROF0 to WALKPROF3 (R359): Sv48, Sv57, Sv48, Sv48. -/
def walkReset (n : Nat) : Dword := if n = 1 then 0x59800831061C504A else 0x49800831061C504A

def State.walkProf (s : State) (n : Nat) : Dword := Sparse.get 0 s.walkprof n ^^^ walkReset n

def State.setWalkProf (s : State) (n : Nat) (x : Dword) : State :=
  { s with walkprof := Sparse.set 0 s.walkprof n (x ^^^ walkReset n) }

/-- A field of 6 bits of a walker profile. -/
def profField (p : Dword) (lo : Nat) : Nat := p.toNat / 2 ^ lo % 64

/-- DEVID.UNASSIGNED is 1 until FABID.ASSIGNED is written (R20, R408). -/
def State.assigned (s : State) : Bool := (s.bar 0x2100).getLsbD 63

/-- DEVID.DEVNUM. -/
def State.devNum (s : State) : BitVec 10 := (s.bar 0x2100).setWidth 10

/-! Ending a team early (R263, R264, R346). -/

/-- A strand that issues nothing more. Accesses still under way are kept until they complete (R32). -/
def Strand.stop (t : Strand) : Strand :=
  { t with
    parkEnded := true, q := {}, pfx := {}, dq := [], loops := [], pend := [], spend := [], mtx := none, mreq := none, xpend := none,
    fetchReq := none, pauseEnd := none, syncArrived := false, fetchHold := false, frame := none,
    arec := (t.arec ++ (match t.frame with | some f => f.arec | none => [])).filter (fun e => e.state != .faulted) }

/-- The status a launch records for its team: the first one stands (R264, R331). -/
def Launch.recordStatus (status : BitVec 32) (code : Dword) (l : Launch) : Launch :=
  if l.status = 0 then { l with status := status, code := code } else l

def statusDone : BitVec 32 := 1
def statusKilled : BitVec 32 := 2
def statusHalted : BitVec 32 := 3
def statusBadKernel : BitVec 32 := 4
def statusBadShape : BitVec 32 := 5
def statusStale : BitVec 32 := 6
def statusBadRecord : BitVec 32 := 7
def statusAborted : BitVec 32 := 8

/-- The issuing team ends at once; once its accepted operations complete it has ended under R32, and its launch records the status and
code (R264, R346). -/
def State.haltTeam (s : State) (status : BitVec 32) (code : Dword) : State :=
  (s.onStrands (fun t => t.team == s.cs.team) Strand.stop).onTeam s.cs.team (fun m => { m with
    halted := true, endWith := some (m.endWith.getD (status, code)) })

/-! Taking a trap (R343, R344, R346). -/

/-- Scalars s1 to s10, moved into the frame (R344). -/
def savedScalars (m : Sparse Dword) : Sparse Dword := m.filter (fun c => c.1 ≤ 10)

/-- A part that moves into the frame with s1 to s10. -/
def CorePart.framed : CorePart → Bool
  | .scalar n => decide (n ≤ 10)
  | _ => false

/-- The item is the marker of the JOIN unit with the number. -/
def QItem.isMark (seq : Nat) : QItem → Bool
  | .unit _ => false
  | .joinMark u => u.seq == seq

/-- An MTX command other than the trapping unit runs on to its completion (R344 step 1). -/
def Strand.runsMtx (t : Strand) (u : EUnit) : Bool := t.mtx.any (fun c => c.unit.seq != u.seq)

/-- The matrix read under way belongs to the running command. -/
def Strand.mtxReads (t : Strand) : Bool :=
  match t.mtx, t.mreq with
  | some c, some e => c.unit.seq == e.unit.seq
  | _, _ => false

/-- The frame of a trap of the unit `u` on engine number `eng`. Assumption 27, DEDUCED. -/
def Strand.frameOf (t : Strand) (u : EUnit) (eng : Nat) (fetchFault : Bool) (deferred : Option Nat) (pops pushes : List Nat) : Frame :=
  { eng := eng, unit := u, fetchFault := fetchFault, deferred := deferred, pops := pops, pushes := pushes, q := t.q, arec := t.arec,
    resume := t.resume, dq := t.dq, loops := t.loops, pc := t.pc, pfx := t.pfx, hold := t.fetchHold, parkEnded := t.parkEnded,
    sregs := savedScalars t.s, mtx := if t.runsMtx u then none else t.mtx, mreq := if t.runsMtx u && t.mtxReads then none else t.mreq,
    sync := t.syncArrived, pauseEnd := t.pauseEnd, timeUp := t.timeUp, mdesc := t.mdesc, inval := t.inval
    damage := t.damage.filter CorePart.framed }

/-- The trapped unit has issued: its request stands in the record, its command in the Cam sequencer, its markers in the queues, or it is an
earlier word whose fault was deferred (R347). -/
def Frame.issued (f : Frame) : Bool :=
  f.mtx.any (fun c => c.unit.seq == f.unit.seq) || f.arec.any (fun e => e.unit.seq == f.unit.seq && e.state == .faulted) ||
  Eng.all.any (fun e => (f.q.get e).any (QItem.isMark f.unit.seq))

/-- Steps 1 to 4 of R344 on the trapping strand. NONEMPTY covers the trapped unit where that has not issued (R273). -/
def Strand.enter (t : Strand) (u : EUnit) (eng : Nat) (c : Cause) (tval tepc : Dword) (fetchFault : Bool) (deferred : Option Nat)
    (pops pushes : List Nat) : Strand :=
  let halted : BitVec 6 := BitVec.ofNat 6 (2 ^ eng)
  let f := t.frameOf u eng fetchFault deferred pops pushes
  { t with
    frame := some f
    q := {}, arec := [], resume := 0, dq := [], loops := [], pfx := {}, fetchHold := false, parkEnded := false
    mtx := if t.runsMtx u then t.mtx else none
    mreq := if t.runsMtx u && t.mtxReads then t.mreq else none
    fetchReq := none, syncArrived := false, pauseEnd := none, timeUp := false, mdesc := none, inval := none
    damage := t.damage.filter (fun p => !p.framed)
    s := t.s.filter (fun c => 10 < c.1)
    tcause := (BitVec.ofNat 3 eng) ++ c.code
    tval := tval
    tepc := tepc &&& ~~~3
    tqHalted := halted
    tqNonempty := if fetchFault || deferred.isSome || f.issued then t.q.bits else t.q.bits ||| halted
    pp := t.p
    p := true
    pc := t.tvec
    held := false }

/-- The error log of a die. Assumption 38, DESIGN CHOICE. -/
def State.log (s : State) (die : Nat) (code addr : Nat) : State :=
  { s with errLog := s.errLog ++ [⟨BitVec.ofNat 2 die, code, addr⟩] }

/-- Codes of error-log events. -/
def logUncorrectable : Nat := 1
def logPacket : Nat := 2
def logReserved : Nat := 3
def logLaunch : Nat := 4
def logParity : Nat := 5
def logGuest : Nat := 6
def logPower : Nat := 7
def logCorrected : Nat := 8

/-- Trap entry (R344). A double trap, or a TVEC of 0, ends the team ABORTED (R346). An uncorrectable error is logged with its
address (R356). -/
def State.enterTrap (s : State) (u : EUnit) (eng : Nat) (c : Cause) (tval tepc : Dword) (fetchFault : Bool) (deferred : Option Nat)
    (pops pushes : List Nat) : State :=
  let s := if c = .uncorrectable then s.log s.cs.die.toNat logUncorrectable tval.toNat else s
  if s.cs.frame.isSome || s.cs.tvec = 0 then (s.haltTeam statusAborted 0).onCs (fun t => t.setHeld false)
  else s.onCs (fun t => t.enter u eng c tval tepc fetchFault deferred pops pushes)

/-- The issuing unit traps: engine and addresses are the unit's (R86, R343). `pops` and `pushes` are its queue traffic (R348). -/
def State.trap (s : State) (c : Cause) (tval : Dword) (pops pushes : List Nat := []) : State :=
  s.enterTrap s.cs.unit (engineOf s.cs.unit.word % 6) c tval s.cs.unit.addr false none pops pushes

/-- A fetch fault at the fetch address (R343). -/
def State.trapFetch (s : State) (c : Cause) : State :=
  s.enterTrap { addr := s.cs.pc, taddr := s.cs.pc, seq := s.nextSeq } 0 c s.cs.pc s.cs.pc true none [] []

/-- A fault of the earlier word `u` is raised where the issuing unit stands, which stays unissued at the head of its queue (R170, R230,
R347). Assumption 37, DEDUCED. -/
def State.trapDeferred (s : State) (u : EUnit) (c : Cause) (tval : Dword) : State :=
  let cur := s.cs.unit
  let e := engOf cur.word
  let s := s.onCs (fun t => { t with q := t.q.set e (.unit cur :: t.q.get e) })
  s.enterTrap u (engineOf u.word % 6) c tval u.addr false (some u.seq) [] []

/-! Returning from a trap (R265, R348). -/

/-- The frame's queues with the trapped unit at the head of its own queue again. -/
def Frame.requeue (f : Frame) : Queues :=
  let e := engOf f.unit.word
  f.q.set e (.unit f.unit :: f.q.get e)

/-- The queues without the markers of a JOIN unit. -/
def Queues.dropMarks (q : Queues) (seq : Nat) : Queues :=
  Eng.all.foldl (fun q e => q.set e ((q.get e).filter (fun i => !i.isMark seq))) q

/-- A word that stops fetch until it has issued: a branch, a jump, `loop`, `loopi` or `lbrk` (R127), and `rtt`, `rtt.next` and the end
form of `park`, beyond which no word may be fetched and later discarded (assumption 20). -/
def stopsFetch (w : Word) : Bool :=
  let op := opcodeOf w
  engineOf w == 0 && ((0x32 ≤ op && op ≤ 0x3D) || op == 0x54 || (op == 0x4E && fldN w 13 5 == 0))

/-- `rtt` waits until the handler's own words have issued and their accesses are done, and until one matrix command at most is left, so
that restoring the frame loses none of them. The manual does not say what becomes of them. Assumption 62, DESIGN CHOICE. -/
def Strand.rttWaits (t : Strand) (f : Frame) : Bool := t.q != {} || !t.arec.isEmpty || (f.mtx.isSome && t.mtx.isSome)

/-- What both forms restore: queues, record, data queues, loop stack, s1 to s10, fetch state and the view. -/
def Strand.restore (t : Strand) (f : Frame) (q : Queues) (pc : Dword) : Strand :=
  { t with
    frame := none, q := q, arec := f.arec, resume := f.resume, dq := f.dq, loops := f.loops, pc := pc, pfx := f.pfx,
    fetchHold := f.hold, parkEnded := f.parkEnded, syncArrived := f.sync, pauseEnd := f.pauseEnd, timeUp := f.timeUp, mdesc := f.mdesc
    inval := f.inval, damage := f.damage ++ t.damage.filter (fun p => !p.framed)
    mtx := if f.mtx.isSome then f.mtx else t.mtx
    mreq := if f.mreq.isSome then f.mreq else t.mreq
    s := f.sregs ++ t.s.filter (fun c => 10 < c.1)
    p := t.pp }

/-- The command of a unit ends where it stands (R348). -/
def Strand.dropMtx (t : Strand) (seq : Nat) : Strand :=
  { t with
    mdesc := t.mdesc.filter (fun x => x.seq != seq)
    mtx := t.mtx.filter (fun c => c.unit.seq != seq)
    mreq := t.mreq.filter (fun e => e.unit.seq != seq) }

/-- `rtt` with F = 0: the trapped unit issues again. Where the handler has moved TEPC away from the trapped unit, that unit is
dropped and fetch continues at TEPC (assumption 15). -/
def Strand.rtt (t : Strand) (f : Frame) : Strand :=
  if t.tepc = (f.unit.addr &&& ~~~3) then
    if f.fetchFault then t.restore f f.q f.pc
    else t.restore f (if f.issued then f.q else f.requeue) f.pc
  else ({ t.restore f f.q t.tepc with pfx := {}, fetchHold := false } : Strand).dropMtx f.unit.seq

/-- Entries of zeros for the destination queues of a unit, and its pops. -/
def Strand.emptyTraffic (t : Strand) (pops pushes : List Nat) : Strand :=
  let t := pops.foldl (fun t q => (t.popq q).2) t
  pushes.foldl (fun t q => t.pushq q {}) t

/-- The eN field of an MTX or XFER word that has one; 0 signals nothing (R42). `accmv` has none. -/
def eventOfWord (w : Word) : Option (BitVec 4) :=
  let op := opcodeOf w
  let e : BitVec 4 := if engineOf w = 3 && op ≤ 0x09 && op ≠ 0x07 then fld w 7 4 else if engineOf w = 5 && op ≤ 0x0D then fld w 0 4 else 0
  if e = 0 then none else some e

/-- A unit completes with its signals alone. -/
def Strand.signalUnit (t : Strand) (u : EUnit) : Strand := (t.signal u.sig).signal (eventOfWord u.word)

/-- The address after a unit. -/
def EUnit.next (u : EUnit) : Dword := u.taddr + 4

/-- `rtt.next`: the trapped unit completes with no effect but its signals and its queue traffic (R348). Traffic that it has not made waits
for its entries, as any pop and push does (R35, R351): the unit is then first in its queue again, marked to make that alone. A fetch
fault continues at the word after the one that faulted. -/
def Strand.rttNext (t : Strand) (f : Frame) : Strand :=
  let t := t.restore f (f.q.dropMarks f.unit.seq) (if f.fetchFault then f.unit.next else f.pc)
  let t := ({ t with pfx := if f.fetchFault then {} else t.pfx } : Strand).dropMtx f.unit.seq
  let t := if stopsFetch f.unit.word then { t with fetchHold := false } else t
  match t.arec.find? (fun e => e.unit.seq == f.unit.seq && e.state == .faulted) with
  | some e => ({ t with arec := t.arec.filter (fun x => x.seq ≠ e.seq), dq := t.dq.map (fun c => (c.1, c.2.map (fun x =>
      if !x.filled && x.seq == e.seq then { x with filled := true } else x))) } : Strand).signalUnit f.unit
  | none =>
    if f.fetchFault then t
    else if f.pops.isEmpty && f.pushes.isEmpty then t.signalUnit f.unit
    else { t with q := t.q.set (engOf f.unit.word) (.unit { f.unit with skip := some (f.pops, f.pushes) } :: t.q.get (engOf f.unit.word)) }

/-- Earlier accesses of the strand that are still to be performed: those of its record, and in a trap handler those that the frame holds,
but for the faulted ones, which are reissued after it (R344, R352). The chunks that a window's copy engine reads (R170) are no accesses
of a word. -/
def Strand.earlier (t : Strand) : List RecEntry :=
  (t.arec ++ (match t.frame with | some f => f.arec.filter (·.state != .faulted) | none => [])).filter (·.req.kind != .fill)

/-! The outcome of one unit's issue. -/

/-- What a meaning finds when its unit issues: it is done, done without its completion signal yet, it must wait (with or without a
change of state), it traps (with or without a change of state), or an earlier word of the strand traps in its place: the issuing unit
is then frozen unissued (R230, R347). -/
inductive Act where
  | ok (s : State)
  | okNoSig (s : State)
  | wait
  | waitWith (s : State)
  | trap (c : Cause) (tval : Dword)
  | trapWith (s : State) (c : Cause) (tval : Dword)
  | deferred (s : State) (u : EUnit) (c : Cause) (tval : Dword)
  deriving DecidableEq, Repr

end Sys2Proof.Machine
end

