-- ==== Sys2Proof/Machine/Flags.lean ====
section
/-! DEFINITION. Raising FLAGS and STAT bits, and reading and writing the rounding state (04_number_formats.md R59, R63, R64;
15_system_instructions.md R272). -/

namespace Sys2Proof.Machine

/-- Flags are raised by OR (R64). -/
def Strand.raise (t : Strand) (f : Flags) : Strand := { t with flags := t.flags ||| f }

/-- Bits of STAT (R272). -/
def statOOB : BitVec 6 := 1
def statEMPTY : BitVec 6 := 2
def statAUNS : BitVec 6 := 4
def statTIMEOUT : BitVec 6 := 8
def statNANSEEN : BitVec 6 := 16
def statINCOMPLETE : BitVec 6 := 32

/-- STAT bits are sticky (R272). -/
def Strand.setStat (t : Strand) (b : BitVec 6) : Strand := { t with stat := t.stat ||| b }

/-- RNDM.MODE (R59). -/
def Strand.rmode (t : Strand) : RMode := t.rndm.toNat

/-- The rounding mode of instructions that take mode 5 as RNE (R60). -/
def Strand.amode (t : Strand) : RMode := arithMode t.rmode

/-- The mixer's output for an element's row and column (R75). -/
def Strand.mixAt (t : Strand) (row col : BitVec 32) : Nat := (mix t.srseed t.srstream row col).toNat

end Sys2Proof.Machine
end

