-- ==== Sys2Proof/Machine/Operands.lean ====
section
/-! DEFINITION. What each instruction word names: its scalar sources and destinations, its vector fields, the prefixes that suit it
(R36 to R38, R79, R87, R413), and from that the fate of a word that is no instruction (R98, R99) and the conditions under which a
unit issues (R35). -/

namespace Sys2Proof.Machine

/-- A vector field of a word: whether it is read, written, may name a queue, must name one; and over how many registers from the
named one it reaches. -/
structure VField where
  x : BitVec 6
  src : Bool := false
  dst : Bool := false
  q : Bool := true
  qOnly : Bool := false
  n : Nat := 1
  deriving DecidableEq, Repr

/-- A vector source that may pop a queue. -/
def vsrc (x : BitVec 6) : Option VField := some { x := x, src := true }

/-- A vector destination that may push a queue. -/
def vdst (x : BitVec 6) : Option VField := some { x := x, dst := true }

/-- A vector register that is read and written. -/
def vacc (x : BitVec 6) : Option VField := some { x := x, src := true, dst := true, q := false }

/-- The operands of a word and the prefixes that suit it. `ord` lists the orders it accepts (R413), none where EXT.ORD does not
suit. `masks`, `descs` and `parts` are the mask registers, descriptors and other parts of the core that the word reads besides, and `toMask`
the mask register that it writes. -/
structure Roles where
  reads : List (BitVec 6) := []
  writes : List (BitVec 6) := []
  d : Option VField := none
  a : Option VField := none
  b : Option VField := none
  imm : Bool := false
  ord : List Nat := []
  mask : Bool := false
  stall : Bool := false
  ind : Bool := false
  masks : List (BitVec 4) := []
  toMask : Option (BitVec 4) := none
  descs : List (BitVec 4) := []
  parts : List CorePart := []
  deriving DecidableEq, Repr

/-- Two-source scalar words. -/
def rolesCR (d a b : BitVec 6) : Roles := { reads := [a, b], writes := [d] }

/-- Scalar words with an immediate. -/
def rolesCI (d a : BitVec 6) : Roles := { reads := [a], writes := [d], imm := true }

def rolesBranch (a b : BitVec 6) : Roles := { reads := [a, b], imm := true }

/-- Orders of loads, of stores and of atomics (R413). -/
def ordR : List Nat := [0, 1]
def ordW : List Nat := [0, 2]
def ordA : List Nat := [0, 1, 2, 3]

/-- VEC words: EXT.MASK and EXT.IND suit, EXT.STALL with S = 0 (R87). -/
def rolesV (s : BitVec 1) (d a b : Option VField) : Roles := { d := d, a := a, b := b, mask := true, stall := s == 0, ind := true }

/-- SFU words (R87). -/
def rolesF (k : BitVec 3) (d a : Option VField) : Roles := { d := d, a := a, mask := true, stall := k == 0, ind := true }

/-- XFER words read scalars and write none (R37). -/
def rolesX (r : List (BitVec 6)) : Roles := { reads := r }

def rolesInit (k : BitVec 3) (a : BitVec 6) : Roles := { rolesF k none none with reads := [a], mask := false }
def rolesFeed (k : BitVec 3) (d a : BitVec 6) : Roles := { rolesF k none (vsrc a) with reads := [d], parts := [.sorter] }
def rolesEmit (k : BitVec 3) (d a : BitVec 6) : Roles := { rolesF k (vdst d) none with reads := [a], parts := [.sorter] }
def rolesQ (k : BitVec 3) (d : BitVec 6) : Roles := { rolesF k (vdst d) none with mask := false, parts := [.sorter] }

/-- `tint` reads the 257 knots and three parameters of its table (R202). -/
def rolesTint (f k : BitVec 3) (d a : BitVec 6) : Roles :=
  { rolesF k (vdst d) (vsrc a) with parts := (List.range 260).map (CorePart.table f.toNat) }
def rolesCopy (x y z : BitVec 6) : Roles := { rolesX [x, y, z] with ord := ordA }
def rolesSend (x y : BitVec 6) : Roles := { rolesX [x, y] with ord := ordW }

/-- Elements of a type code of VEC: 4, 8, 16 and 32 bits for the integer codes (R82, R180). -/
def nInt (y : BitVec 3) : Nat := 1024 / 2 ^ (y.toNat / 2)

/-- Element width of an integer code. -/
def wInt (y : BitVec 3) : Nat := 4 * 2 ^ (y.toNat / 2)

/-- Elements of a float code (R180): 4, 6, 8, 16 and 32 bits. -/
def nFloat (y : BitVec 3) : Nat :=
  match y.toNat with
  | 0 => 1024 | 1 => 512 | 2 => 512 | 3 => 512 | 4 => 512 | 5 => 256 | 6 => 256 | _ => 128

/-- Element width of a float code. -/
def wFloat (y : BitVec 3) : Nat := (fmtOfCode y.toNat).width

/-- Elements of a code of either class: `cls` 0 float, 1 integer. -/
def nOf (cls : BitVec 1) (y : BitVec 3) : Nat := if cls = 1 then nInt y else nFloat y

/-- Source elements that `vcvt` converts, and the registers it writes (R193). -/
def cvtN (ns nd : Nat) : Nat := min ns (4 * nd)
def cvtK (ns nd : Nat) : Nat := max 1 (cvtN ns nd / nd)

/-- The operands of every instruction word. -/
def rolesOf : Instr → Roles
  | .nop | .yield | .yieldPause | .parkEnd | .rtt | .rttNext | .tlbinvAll => {}
  | .add d a b | .sub d a b | .mul d a b | .mulhS d a b | .mulhN d a b | .and d a b | .or d a b | .xor d a b | .andn d a b
  | .shl d a b | .shrN d a b | .shrS d a b | .rot d a b | .minS d a b | .minN d a b | .maxS d a b | .maxN d a b
  | .bfxS d a b | .bfxN d a b => rolesCR d a b
  | .divS d a b _ | .divN d a b _ | .remS d a b _ | .remN d a b _ => rolesCR d a b
  | .clz d a | .ctz d a | .popc d a => { reads := [a], writes := [d] }
  | .sel d a b f => { reads := [a, b, f.setWidth 6], writes := [d] }
  | .cmp d a b _ => rolesCR d a b
  | .addi d a _ | .andi d a _ | .ori d a _ | .xori d a _ | .shli d a _ | .shriN d a _ | .shriS d a _ => rolesCI d a
  | .li d _ => { writes := [d], imm := true }
  | .bfi d a b | .fshl d a b | .fshr d a b => { reads := [d, a, b], writes := [d] }
  | .fadd d a b _ | .fsub d a b _ | .fmul d a b _ | .fdiv d a b _ | .fmin d a b _ | .fmax d a b _ => rolesCR d a b
  | .ffma d a b _ => { reads := [d, a, b], writes := [d] }
  | .fsqrt d a _ => { reads := [a], writes := [d] }
  | .fcmp d a b _ _ => rolesCR d a b
  | .fcvt d a b _ => rolesCR d a b
  | .beq a b _ | .bne a b _ | .bltS a b _ | .bltN a b _ | .bgeS a b _ | .bgeN a b _ => rolesBranch a b
  | .jmp _ => { imm := true }
  | .jal _ => { writes := [1], imm := true }
  | .jr d a => { reads := [a], writes := [d] }
  | .loop a _ => { reads := [a], imm := true }
  | .loopi _ _ => { imm := true }
  | .lbrk _ _ a => { reads := [a] }
  | .barSync _ _ | .barArr _ _ | .barWait _ _ | .barDrop _ _ | .evSig _ | .evWait _ _ => {}
  | .barWaitt _ _ d a => { reads := [a], writes := [d] }
  | .evWaitt _ d a => { reads := [d, a], writes := [d] }
  | .csrr d _ => { writes := [d] }
  | .csrw a _ => { reads := [a] }
  | .mbrd d _ _ => { writes := [d] }
  | .mbwr a _ => { reads := [a] }
  | .time d | .timeCyc d => { writes := [d] }
  | .trap a _ => { reads := [a], imm := true }
  | .cswitch d a => { reads := [a], writes := [d] }
  | .park _ _ _ _ _ _ a b => { reads := [a, b] }
  | .wakehint a b => { reads := [a, b] }
  | .ctxqSt d a | .ctxqWake d a | .ctxqTiers d a | .ctxnew d a | .ctxfree d a | .kill d a | .hingeUnpin d a | .hingeQ d a =>
    { reads := [a], writes := [d] }
  | .ctxsetPrio d a b | .ctxsetBind d a b | .hingePin d a b | .hingeMove d a b | .hangRd d a b => rolesCR d a b
  | .halt a | .tlbinvPart a | .tlbinvS2 a | .tlbinvFab a | .tlbinvHost a => { reads := [a] }
  | .ldBS _ d a _ | .ldBN _ d a _ | .ldHS _ d a _ | .ldHN _ d a _ | .ldWS _ d a _ | .ldWN _ d a _ | .ldD _ d a _ =>
    { reads := [a], writes := [d], imm := true, ord := ordR }
  | .stB _ d a _ | .stH _ d a _ | .stW _ d a _ | .stD _ d a _ => { reads := [d, a], imm := true, ord := ordW }
  | .ldV _ d a _ => { reads := [a], d := vdst d, imm := true, ord := ordR, mask := true, ind := true }
  | .stV _ d a _ => { reads := [a], d := vsrc d, imm := true, ord := ordW, mask := true, ind := true }
  | .ldVs _ d a b => { reads := [a, b], d := vdst d, ord := ordR, mask := true, ind := true }
  | .stVs _ d a b => { reads := [a, b], d := vsrc d, ord := ordW, mask := true, ind := true }
  | .ldM _ _ a _ => { reads := [a], imm := true, ord := ordR }
  | .stM _ m a _ => { reads := [a], imm := true, ord := ordW, masks := [m] }
  | .sfetch _ d x b => { reads := [b], descs := [x], d := some { x := d, dst := true, qOnly := true }, ord := ordR, ind := true }
  | .gathB _ d a b | .gathH _ d a b | .gathW _ d a b =>
    { reads := [a], d := vdst d, b := vsrc b, ord := ordR, mask := true, ind := true }
  | .scatB _ d a b | .scatH _ d a b | .scatW _ d a b =>
    { reads := [a], d := vsrc d, b := vsrc b, ord := ordW, mask := true, ind := true }
  | .gathb _ d _ x b => { descs := [x], d := vdst d, b := vsrc b, ord := ordR, mask := true, ind := true }
  | .pref _ a _ => { reads := [a], imm := true }
  | .dld _ _ a _ => { reads := [a], imm := true, ord := ordR }
  | .dst _ x a _ => { reads := [a], imm := true, ord := ordW, descs := [x] }
  | .dset x a _ => { reads := [a], descs := [x] }
  | .rwaitf _ d a b => rolesCR d a b
  | .rwaite _ a b | .rpub _ a b | .rrel _ a b | .wadv _ a b => { reads := [a, b] }
  | .rclaimP _ d a | .rclaimC _ d a => { reads := [a], writes := [d] }
  | .wmap _ x a b => { reads := [a, b], descs := [x] }
  | .wmapOff _ a => { reads := [a] }
  | .amoW _ d a b | .amoD _ d a b | .amoF _ d a b | .famo _ d a b => { reads := [a, b], writes := [d], ord := ordA }
  | .casW _ d a b | .casD _ d a b | .fcas _ d a b => { reads := [d, a, b], writes := [d], ord := ordA }
  | .casQ _ d a b => { reads := [d, d + 1, a, b, b + 1], writes := [d, d + 1], ord := ordA }
  | .fenceCls _ _ => { ord := [0] }
  | .fence => { ord := [1, 2, 3] }
  | .fenceView => { ord := ordA }
  | .fld _ d a _ => { reads := [a], writes := [d], imm := true, ord := ordR }
  | .fst _ d a _ => { reads := [d, a], imm := true, ord := ordW }
  | .vadd _ d a b s | .vsub _ d a b s | .vmul _ d a b s | .vmulh _ d a b s | .vmin _ d a b s | .vmax _ d a b s | .vand _ d a b s
  | .vor _ d a b s | .vxor _ d a b s | .vshl _ d a b s | .vshr _ d a b s | .vbfx _ d a b s
  | .vfadd _ d a b s | .vfsub _ d a b s | .vfmul _ d a b s | .vfmin _ d a b s | .vfmax _ d a b s
  | .vsel _ d a b s | .vperm _ d a b s | .vlut _ d a b s => rolesV s (vdst d) (vsrc a) (vsrc b)
  | .vmad _ d a b s | .vbfi _ d a b s | .vfshl _ d a b s | .vfshr _ d a b s | .vfma _ d a b s | .vshuf _ d a b s =>
    rolesV s (vacc d) (vsrc a) (vsrc b)
  | .vabs _ d a s | .vneg _ d a s | .vnot _ d a s | .vpopc _ d a s | .vclz _ d a s | .vfabs _ d a s | .vfneg _ d a s
  | .vmov _ d a s | .vredAdd _ d a s | .vredMax _ d a s | .vredMin _ d a s | .vfredAdd _ d a s | .vfredMax _ d a s
  | .vfredMin _ d a s | .vdequant _ d a s => rolesV s (vdst d) (vsrc a) none
  | .vaddi _ d a _ s | .vshli _ d a _ s | .vshri _ d a _ s => { rolesV s (vdst d) (vsrc a) none with imm := true }
  | .vscanAdd _ d a _ s => rolesV s (vdst d) (vsrc a) none
  | .vcmpEq _ d a b s | .vcmpNe _ d a b s | .vcmpLt _ d a b s | .vcmpGe _ d a b s
  | .vfcmpEq _ d a b s | .vfcmpLt _ d a b s | .vfcmpLe _ d a b s | .vfcmpUn _ d a b s =>
    { rolesV s none (vsrc a) (vsrc b) with toMask := some d }
  | .mand d a b s | .mor d a b s | .mxor d a b s => { rolesV s none none none with masks := [a, b], toMask := some d }
  | .mnot d a s => { rolesV s none none none with masks := [a], toMask := some d }
  | .mpopc d a s | .mfirst d a s => { rolesV s (vdst d) none none with mask := false, masks := [a] }
  | .msetLt d a s | .msetGe d a s => { rolesV s none none none with reads := [a], mask := false, toMask := some d }
  | .msetQ d a s => { rolesV s none (some { x := a, src := true, qOnly := true }) none with mask := false, toMask := some d }
  | .vbcast _ d a s | .vidx _ d a s => { rolesV s (vdst d) none none with reads := [a] }
  | .vext _ d a b s => { rolesV s (vdst d) (vsrc a) none with reads := [b], mask := false }
  | .vins _ d a b s => { rolesV s (vacc d) (vsrc a) none with reads := [b], mask := false }
  | .vrot _ d a b s => { rolesV s (vdst d) (vsrc a) none with reads := [b] }
  | .vcvt y d a _ r w t s =>
    rolesV s (some { x := d, dst := true, n := cvtK (nOf w t) (nOf r y) }) (vsrc a) none
  | .vquant _ d a b s => rolesV s (vdst d) (vsrc a) (vacc b)
  | .vsmxUpd d a b s => rolesV s (vacc d) (vsrc a) (vdst b)
  | .vsmxFin d a b s => rolesV s (vdst d) (vsrc a) (vsrc b)
  | .vrbias d a b s => rolesV s (vacc d) (vsrc a) (vsrc b)
  | .accmv _ d a _ _ => { reads := [a], d := vdst d }
  | .sfuExp2 _ d a k | .sfuLog2 _ d a k | .sfuRcp _ d a k | .sfuRsqrt _ d a k | .sfuSqrt _ d a k | .sfuSin _ d a k | .sfuCos _ d a k =>
    rolesF k (vdst d) (vsrc a)
  | .tint _ d a f k => rolesTint f k d a
  | .mmt _ a b _ _ _ _ _ => { descs := [a, b] }
  | .attb _ a b _ _ _ => { descs := [a, b, b + 1] }
  | .mmtWb _ a _ _ _ _ _ | .accld _ a _ _ | .accst _ a _ _ _ | .wbload _ a _ => { descs := [a] }
  | .tload _ a _ k => rolesF k none (vsrc a)
  | .topkInit _ a k => rolesInit k a
  | .topkFeed _ d a k => rolesFeed k d a
  | .topkEmit d a _ k => rolesEmit k d a
  | .topkQ d k => rolesQ k d
  | .copy x y z _ | .copyMmt x y z _ => rolesCopy x y z
  | .collOpen x _ | .collRed x _ | .collBar x _ | .collClose x _ | .grecv x _ | .gqwait x _ | .launch x _ => rolesX [x]
  | .gready x y _ | .gunready x y _ | .gqpush x y _ => rolesX [x, y]
  | .gsend x y _ _ => rolesSend x y
  | .mbsend x _ _ z _ => rolesSend x z
  | _ => {}

/-- The vector fields in the order in which sources pop: D, A, B (R38), with their EXT.IND enable bits. -/
def Roles.fields (r : Roles) : List (Nat × VField) :=
  (match r.d with | some f => [(19, f)] | none => []) ++ (match r.a with | some f => [(18, f)] | none => []) ++
  (match r.b with | some f => [(17, f)] | none => [])

/-- Scalars a unit reads, its EXT.IND base among them (R36, R93). -/
def Roles.scalarReads (r : Roles) (u : EUnit) : List (BitVec 6) :=
  match u.ext 5 with
  | some x => fld x 20 6 :: r.reads
  | none => r.reads

/-- The queues a unit pops, in order, and pushes (R38, R41). -/
def Roles.pops (r : Roles) (t : Strand) (u : EUnit) : List Nat :=
  (r.fields.filter (fun f => f.2.src)).filterMap (fun f => match t.vname u f.1 f.2.x with | .queue q => some q | .reg _ => none)

def Roles.pushes (r : Roles) (t : Strand) (u : EUnit) : List Nat :=
  ((r.fields.filter (fun f => f.2.dst)).map (fun f => match t.vname u f.1 f.2.x with
    | .queue q => List.replicate f.2.n q | .reg _ => [])).flatten

/-- The registers a unit reads or writes through its vector fields (R79, R93, R193). -/
def Roles.regs (r : Roles) (t : Strand) (u : EUnit) (p : VField → Bool) : List Nat :=
  ((r.fields.filter (fun f => p f.2)).map (fun f => match t.vname u f.1 f.2.x with
    | .queue _ => [] | .reg k => (List.range f.2.n).map (fun j => (k + j) % 256))).flatten

/-! Damaged data (R356). -/

/-- The masks that a unit reads: its EXT.MASK and its mask sources. -/
def Roles.maskReads (r : Roles) (u : EUnit) : List Nat :=
  (match u.ext 4 with | some x => [fldN x 0 4] | none => []) ++ r.masks.map (·.toNat)

/-- A unit keeps the inactive elements of its destination (R92). -/
def EUnit.merges (u : EUnit) : Bool := (u.ext 4).any (fun x => fldN x 4 1 == 0)

/-- The parts of the core that a unit reads: its sources, and a destination of which it keeps a part. Assumption 56, DESIGN CHOICE. -/
def Roles.partsRead (r : Roles) (t : Strand) (u : EUnit) : List CorePart :=
  (r.scalarReads u).map (fun n => .scalar n.toNat) ++ (r.regs t u (fun f => f.src || (f.dst && u.merges))).map .vector ++
  (r.maskReads u).map .mask ++ (if u.merges then r.toMask.toList.map (fun m => .mask m.toNat) else []) ++
  r.descs.map (fun x => .desc x.toNat) ++ r.parts

/-- The issuing unit reads damaged state of the core, or pops a damaged entry. -/
def Roles.readsDamage (r : Roles) (t : Strand) : Bool :=
  t.damage.any (fun p => (r.partsRead t t.unit).contains p) ||
  (List.range 8).any (fun q => ((t.dataq q).take ((r.pops t t.unit).count q)).any (·.bad))

/-! Encoding fates (R86 to R93, R98, R99). -/

/-- Prefix kinds 6 and 7 are no instruction (R98). -/
def EUnit.badKind (u : EUnit) : Bool := u.pfx.any (fun w => 6 ≤ extKind w)

/-- Reserved bits of a prefix word (R87). -/
def extReserved (w : Word) : Bool :=
  match extKind w with
  | 1 => fldN w 0 17 != 0
  | 2 => fldN w 0 8 != 0
  | 3 => fldN w 4 22 != 0
  | 4 => fldN w 5 21 != 0
  | 5 => fldN w 0 17 != 0
  | _ => false

/-- A prefix of the kind suits its target, with the limits of R89 and R93. -/
def extSuits (r : Roles) (cls : Bool) (w : Word) : Bool :=
  match extKind w with
  | 0 => r.imm
  | 1 => r.ord.contains (fldN w 21 2) && fldN w 23 3 ≤ 6 && !(cls && fldN w 17 4 != 0)
  | 2 => true
  | 3 => r.stall
  | 4 => r.mask
  | _ => r.ind && (fldN w 19 1 == 0 || r.d.isSome) && (fldN w 18 1 == 0 || r.a.isSome) && (fldN w 17 1 == 0 || r.b.isSome)

/-- A word of format AM or AR carries its class in CLS (R81, R89): every ACC word but the atomics. -/
def clsInWord : Instr → Bool
  | .amoW .. | .amoD .. | .amoF .. | .casW .. | .casD .. | .casQ .. | .famo .. | .fcas .. => false
  | .copy .. | .copyMmt .. | .gsend .. | .mbsend .. => false
  | _ => true

/-- The prefixes of a unit are legal for a target with these operands; `cls` says that the word carries a class in CLS. -/
def extsOk (r : Roles) (cls : Bool) (u : EUnit) : Bool :=
  u.pfx.length ≤ 2 && (u.pfx.map extKind).Nodup && u.pfx.all (fun w => !extReserved w && extSuits r cls w)

/-- EXT.IND enables the field with enable bit `k` (R93). -/
def EUnit.indirect (u : EUnit) (k : Nat) : Bool := (u.ext 5).any (fun w => fldN w k 1 == 1)

/-- Queue names stand only where the word accepts them, no register lies beyond v55 when named directly, and none at NV or above
(R79, R98, R109, R167, R193). -/
def Roles.fieldsOk (r : Roles) (t : Strand) (u : EUnit) (nv : Nat) : Bool :=
  r.fields.all (fun f => match t.vname u f.1 f.2.x with
    | .queue _ => f.2.q || f.2.qOnly
    | .reg k => !f.2.qOnly && ((List.range f.2.n).all (fun j => (k + j) % 256 < nv)) &&
        (u.indirect f.1 || f.2.x.toNat + f.2.n ≤ 56))

/-- Limits that the word's immediate, its prefixes or a CSR decide (R119, R130, R184, R190, R199, R49, R176). -/
def dynamicOk (i : Instr) (t : Strand) (u : EUnit) (amode : BitVec 2) : Bool :=
  let alt := amode == 2
  let acc := fun (c : BitVec 3) => !alt || c.toNat ≤ 3
  let wb := fun (w : BitVec 2) => !alt || w.toNat ≤ 1
  match i with
  | .shli _ _ v | .shriN _ _ v | .shriS _ _ v => 0 ≤ u.immS v && u.immS v ≤ 63
  | .loop _ o => 1 ≤ u.immS o
  | .loopi _ o => 1 ≤ u.immS o
  | .vshli y _ _ v _ | .vshri y _ _ v _ => u.immN v < wInt y
  | .vsel .. => !(u.ext 4).any (fun w => fldN w 4 1 == 1)
  | .vrbias .. => !(t.rbtab.getLsbD 8 && t.rbtab.toNat % 8 == 4)
  | .topkFeed y .. => t.topk.ty == some y
  | .fence => (u.ext 1).isSome
  | .mmt c .. | .scommit c _ | .sdrop c _ | .accz c .. | .accld c .. | .accst c .. | .accmv c .. => acc c
  | .mmtWb c _ w .. => acc c && wb w
  | .wbload w .. => wb w
  | .attb c .. => acc (c ++ (0 : BitVec 1))
  | _ => true

/-- A privileged word (R97, R253). -/
def isPrivileged : Instr → Bool
  | .ctxnew .. | .ctxfree .. | .ctxsetPrio .. | .ctxsetBind .. | .rtt | .rttNext | .halt .. | .kill .. | .hingeMove ..
  | .tlbinvPart .. | .tlbinvS2 .. | .tlbinvFab .. | .tlbinvAll | .tlbinvHost .. | .hangRd .. => true
  | .csrr _ c => 0x800 ≤ c.toNat
  | .csrw _ c => 0x800 ≤ c.toNat
  | _ => false

/-- AMODE of the array of the stepping strand's core pair (R48). Arrays are numbered 64 die + 4 tile + pair. -/
def Strand.arrayNo (t : Strand) : Nat := 64 * t.die.toNat + 4 * t.tile.toNat + t.core.toNat / 2

def State.array (s : State) (n : Nat) : ArrayState := Sparse.get {} s.arrays n

def State.setArray (s : State) (n : Nat) (a : ArrayState) : State := { s with arrays := Sparse.set {} s.arrays n a }

/-- The fate of a unit that is no instruction, first in the order of R99: `priv` for a privileged word, `ok` for its field limits, `r` for
its operands, `cls` for a class field. -/
def fateWith (s : State) (priv ok : Bool) (r : Roles) (cls : Bool) : Option Cause :=
  let t := s.cs
  let u := t.unit
  if u.badKind then some .illegalOpcode
  else if priv && !t.priv then some .privilege
  else if u.loopBad || u.patchBad || !ok || !extsOk r cls u || !r.fieldsOk t u s.csTeam.hdr.nv
      || (t.frame.isSome && !(r.pops t u ++ r.pushes t u).isEmpty) then some .illegalField
  else none

/-- The fate of an instruction. -/
def fateOf (s : State) (i : Instr) : Option Cause :=
  fateWith s (isPrivileged i) (i.fieldsOk && dynamicOk i s.cs s.cs.unit (s.array s.cs.arrayNo).amode) (rolesOf i) (clsInWord i)

/-- The data queues let a unit issue: every pop finds a filled entry, and every push a free one, the pops of the same word counted
(R35, R38, R39). -/
def queuesReady (r : Roles) (t : Strand) : Bool :=
  let pops := r.pops t t.unit
  let pushes := r.pushes t t.unit
  (List.range 8).all (fun q =>
    t.qready q (pops.count q) && pushes.count q ≤ t.qfree q + pops.count q)

/-- The word with the fields that its opcode leaves unused, or fixes, set as R78 and R97 want them: bits cleared and bits set, for the
words of ACC, VEC and SFU that name queues. A word refused for such a field still names its queues. -/
def laxWord (w : Word) : Word :=
  let op := opcodeOf w
  let fix := fun (clear set : List (Nat × Nat)) =>
    let m := fun (l : List (Nat × Nat)) => l.foldl (fun (x : Word) f => x ||| BitVec.ofNat 32 ((2 ^ f.2 - 1) * 2 ^ f.1)) 0
    (w &&& ~~~(m clear)) ||| m set
  match engineOf w with
  | 1 => if op = 0x11 then fix [(10, 2)] [] else if op = 0x18 then fix [(10, 1)] [] else w
  | 2 =>
    if (0x20 ≤ op && op ≤ 0x27) then fix [(17, 2)] []
    else if op = 0x2C || op = 0x2D then fix [(1, 6), (11, 2), (19, 3)] []
    else if op = 0x2E then fix [(17, 5)] []
    else if op = 0x3D then fix [(2, 5)] []
    else if 0x41 ≤ op && op ≤ 0x43 then fix [] [(19, 3)]
    else if [0x05, 0x06, 0x0C, 0x13, 0x14, 0x1E, 0x1F, 0x30, 0x31, 0x37, 0x38, 0x39, 0x3A, 0x3B, 0x3C, 0x40, 0x44].contains op then
      fix [(1, 6)] []
    else w
  | 4 =>
    if op ≤ 6 || op = 0x0A then fix [(0, 1), (4, 3)] []
    else if op = 7 then fix [(0, 1)] []
    else if op = 8 then fix [(0, 1)] [(19, 3)]
    else if op = 9 then fix [(0, 1), (4, 3), (13, 6)] []
    else if op = 0x0B then fix [(0, 1), (19, 3)] []
    else if op = 0x0C then fix [(0, 1), (4, 9), (19, 3)] []
    else w
  | _ => w

/-- The operands of a word; none for one whose opcode names no instruction. -/
noncomputable def laxRoles (w : Word) : Roles :=
  match decode (laxWord w) with
  | .ok i => rolesOf i
  | .error _ => {}

/-- The queues hold the unit: one that is to trap, in a handler, waits for none, since a handler names no queue (R345). -/
def queuesHold (r : Roles) (fate : Option Cause) (t : Strand) : Bool :=
  !((fate.isSome && t.frame.isSome) || queuesReady r t)

/-- One unit's issue: its waits, then its fate, then its effect, then its completion signal (R35, R42, R99). -/
def issueWith (r : Roles) (fate : Option Cause) (s : State) (body : State → Act) : State :=
  let u := s.cs.unit
  let s0 := s.onCs (fun t => t.setHeld false)
  let hold := s.onCs (fun t => t.setHeld true)
  if s.cs.tokHolds u || queuesHold r fate s.cs then hold
  else
    match fate with
    | some c => s0.trap c (u.word.setWidth 64) (r.pops s.cs u) (r.pushes s.cs u)
    | none =>
      match body s0 with
      | .ok t => t.onCs (fun c => c.signal u.sig)
      | .okNoSig t => t
      | .wait => hold
      | .waitWith t => t.onCs (fun c => c.setHeld true)
      | .trap c v => s0.trap c v (r.pops s.cs u) (r.pushes s.cs u)
      | .trapWith t c v => t.trap c v (r.pops s.cs u) (r.pushes s.cs u)
      | .deferred t e c v => t.trapDeferred e c v

/-- The trap of a word that reads damaged state inside the core (R343, R356). -/
def damageTrap : Act := .trap .uncorrectable (BitVec.allOnes 64)

/-- The effect of a word with the operands `r`: it traps where it reads damaged state of the core. -/
def undamaged (r : Roles) (body : State → Act) (s : State) : Act := if r.readsDamage s.cs then damageTrap else body s

/-- The issue of an instruction. -/
def issue (i : Instr) (s : State) (body : State → Act) : State :=
  issueWith (rolesOf i) (fateOf s i) s (undamaged (rolesOf i) body)

end Sys2Proof.Machine
end

