-- ==== Sys2Proof/Machine/Translate.lean ====
section
/-! DEFINITION. From a virtual address to a byte (10_access_instructions.md R149; 16_memory_hierarchy.md R274, R278, R280, R286 to
R292, R302; 22_faults_and_translation.md R349, R358 to R364; 24_host_coherence.md R368, R374). -/

namespace Sys2Proof.Machine

/-- What an access does at an address. -/
inductive AKind where
  | read | write | exec | rw
  deriving DecidableEq, Repr

def AKind.writes : AKind → Bool
  | .write => true | .rw => true | _ => false

def AKind.reads : AKind → Bool
  | .read => true | .rw => true | _ => false

/-- Where a byte lies: device-physical memory (R274); HBM of another die than the accessing agent's, or memory reached through a view
(R287), both with the guest-physical address by which an L1 tags it (R276, R289); host memory by GPA and host address (R370); or a fabric
address (R178). -/
inductive Loc where
  | dev (a : Nat)
  | far (a gpa : Nat)
  | view (a : Nat) (row : Bool) (gpa : Nat)
  | host (g h : Nat)
  | fab (a : Dword)
  deriving DecidableEq, Repr

/-- How the translation of one byte ends (R349): a place, a page that a migration holds (R301), a host copy that is being taken back
(R374), a channel that changes its rate (R284), a page to recall from T2, a new object with no free frame (R291), a failed host-table walk
at a page, or a fault. -/
inductive TRes where
  | ok (l : Loc)
  | moving (obj : BitVec 48)
  | snoop (inv : Bool) (line : Nat)
  | busy
  | recall (obj : BitVec 48)
  | frame (obj : BitVec 48)
  | pri (page : Dword)
  | fault (c : Cause)
  deriving DecidableEq, Repr

/-- The tile SRAM windows of a strand: TSBASE and DSWBASE, its die and tile, its team's frames and TSRAM figure (R278). While the team is
off its tile, `image` is where its operations find the saved allocation (R231, R279). -/
structure Windows where
  ts : Dword
  dsw : Dword
  die : BitVec 2
  tile : BitVec 4
  frames : List Nat
  figure : Nat
  image : Option Nat := none
  deriving DecidableEq, Repr

/-- The address space an access is made in: the context, the view, the tile SRAM windows of the strand that makes it, the die whose
TLB it uses, which is that of the context where no strand is placed, and the L1 that it may fill (R276): that of an ACC word's core. For
an access that a migration has held, `moved` is the T0 frame that it named through DSWBASE, with its object (R301). -/
structure Space where
  ctx : Word
  priv : Bool := false
  win : Option Windows := none
  die : BitVec 2 := fld ctx 14 2
  core : Option Nat := none
  moved : Option (Nat × BitVec 48) := none
  deriving DecidableEq, Repr

/-- The space of the strand `t` with its team `m`: TSBASE, DSWBASE, die, tile, tile SRAM frames and TSRAM figure. -/
def spaceOf (t : Strand) (m : Team) : Space :=
  { ctx := t.ctx, priv := t.p, win := some ⟨t.tsbase, t.dswbase, t.die, t.tile, m.frames, m.hdr.tsram, none⟩, die := t.die }

/-- Memory keys: device-physical addresses stand for themselves, host addresses and pool addresses lie above them. -/
def hostKey (h : Nat) : Nat := 2 ^ 64 + h
def poolKey (a : Nat) : Nat := 2 ^ 65 + a

/-- The PASID of a partition's host requests (R368, R370). -/
def pasidOf (s : State) (part : BitVec 6) : Nat := (s.pcbReg part.toNat 0).toNat % 2 ^ 20

/-- The page number of a host GPA. -/
def hostPage (gpa : Nat) : Nat := gpa / 2 ^ 12 % 2 ^ 42

/-- The host address of a partition's GPA under the host's IOMMU, by the PASID of its control block (R17, R370), as a request that goes
untranslated finds it. The map is the host's, and the identity where `State.iommu` lists nothing. Assumption 60, DESIGN CHOICE. -/
def ioMap (s : State) (part : BitVec 6) (gpa : Nat) : Nat :=
  ((Sparse.get 0 s.iommu (pasidOf s part * 2 ^ 42 + hostPage gpa)) ^^^ hostPage gpa) % 2 ^ 52 * 2 ^ 12 + gpa % 2 ^ 12

/-- The host address of a CXL.cache request: from the ports' address translation caches, else from the IOMMU (R370). -/
def ioAddr (s : State) (part : BitVec 6) (gpa : Nat) : Nat :=
  match s.atc.find? (fun e => e.part == part && e.page == hostPage gpa) with
  | some e => e.host * 2 ^ 12 + gpa % 2 ^ 12
  | none => ioMap s part gpa

/-- A translation that a CXL.cache request has used stands in its port's cache of 4,096 entries, whose oldest gives way (R370).
Assumption 60, DESIGN CHOICE. -/
def State.cacheAts (s : State) (port : BitVec 1) (part : BitVec 6) (gpa : Nat) : State :=
  if s.atc.any (fun e => e.port == port && e.part == part && e.page == hostPage gpa) then s
  else
    let mine := s.atc.filter (·.port == port)
    { s with atc := ⟨port, part, hostPage gpa, ioAddr s part gpa / 2 ^ 12⟩ :: (s.atc.filter (·.port != port) ++ mine.take 4095) }

/-! The physical address map (R274). -/

/-- Base of a die's HBM. -/
def hbmBase (die : Nat) : Nat := die * 2 ^ 37

/-- Base of a tile's SRAM. -/
def tileBase (die tile : Nat) : Nat := 2 ^ 40 + die * 2 ^ 26 + tile * 2 ^ 22

/-- HBM of some die. -/
def isHbm (a : Nat) : Bool := a < 2 ^ 39

/-- Tile SRAM of some tile. -/
def isTile (a : Nat) : Bool := 2 ^ 40 ≤ a && a < 2 ^ 40 + 2 ^ 28

/-- The address map assigns the address. -/
def assignedAddr (a : Nat) : Bool := isHbm a || isTile a

/-- The die that holds a device-physical address. -/
def dieOf (a : Nat) : Nat := if isTile a then (a - 2 ^ 40) / 2 ^ 26 else a / 2 ^ 37 % 4

/-- Tile and frame number of a tile SRAM address. -/
def tileOf (a : Nat) : Nat × Nat := ((a - 2 ^ 40) / 2 ^ 22 % 16, a / 2 ^ 16 % 64)

/-- The host may hold the line of an address modified, or, when the access writes, at all (R374). Assumption 51, DEDUCED. -/
def State.hostHolds (s : State) (writes : Bool) (a : Nat) : Bool := s.bidir.contains (a / 64) && (writes || !s.biShared.contains (a / 64))

/-- An address of the context table of a die, 4 MiB of its HBM (R16, R326), or of a frame that holds a save image (R354): no stage-2
table, directory entry or fabric window maps it. The table is taken to be the lowest 4 MiB. Assumption 50, DESIGN CHOICE. -/
def tableFrame (s : State) (a : Nat) : Bool :=
  isHbm a && (a % 2 ^ 37 < 2 ^ 22 || s.teams.any (fun m => m.save.contains (a / 2 ^ 16 * 2 ^ 16)))

/-- An address of a frame that holds slots or a checkpoint of an assigned guest queue (R398). -/
def guestFrame (s : State) (a : Nat) : Bool :=
  (List.range 256).any (fun q =>
    let b := (s.bar (0x3400 + 32 * q)).toNat
    let slots := b / 2 ^ 12 * 2 ^ 12
    let ckpt := (s.bar (0x3408 + 32 * q)).toNat / 2 ^ 12 * 2 ^ 12
    let within := fun (base n : Nat) => decide (base / 2 ^ 16 ≤ a / 2 ^ 16 && a / 2 ^ 16 ≤ (base + n - 1) / 2 ^ 16)
    b % 2 == 1 && (within slots (2 ^ (b / 2 ^ 4 % 16 + 4) * 64) || within ckpt (2 ^ 16)))

/-- An address of a frame that is reserved for context tables, page directory entries, save areas, the parking store or guest queues
(R373, R384, R398). Assumption 50, DESIGN CHOICE. -/
def isReserved (s : State) (a : Nat) : Bool :=
  tableFrame s a || (isHbm a && a % 2 ^ 37 < 2 ^ 28 && Config.reservedFrame (a / 2 ^ 16)) || guestFrame s a

/-! Channels and rows of a die's HBM (R275). -/

/-- The channel of a granule of 256 bytes. -/
def channelOf (a : Nat) : Nat := (a % 2 ^ 37 / 2 ^ 8 ^^^ a % 2 ^ 37 / 2 ^ 14 ^^^ a % 2 ^ 37 / 2 ^ 20) % 64

/-- The number of the 1 KiB row that holds a byte: die, row of the channel, channel. Four granules of one channel make a row. -/
def rowOf (a : Nat) : Nat := dieOf a * 2 ^ 27 + a % 2 ^ 37 / 2 ^ 16 * 64 + channelOf a

/-- The die of a row. -/
def rowDie (row : Nat) : Nat := row / 2 ^ 27 % 4

/-! Multi-view regions (R286 to R288). -/

/-- The region entries in effect for a partition, each under its number 1,024 partition + 256 die + index. -/
def regionsOf (s : State) (part : BitVec 6) : List (Nat × BitVec 512) := s.regions.filter (fun r => r.1 / 1024 = part.toNat)

/-- The die whose table holds a region entry. -/
def regDie (n : Nat) : Nat := n / 256 % 4

def regEs (r : BitVec 512) : Nat := 2 ^ recField r 0x28 1
def regBytes (r : BitVec 512) : Nat := recField r 0x20 4 * recField r 0x24 4 * regEs r

/-- Ranges of the views that a region has. -/
def regViews (r : BitVec 512) : List (Nat × Nat) :=
  [recField r 0x08 8, recField r 0x10 8, recField r 0x18 8].filterMap (fun b => if b = 0 then none else some (b, b + regBytes r))

/-- The limits of R286 on one entry; the entry's partition is the one whose table holds it. Reserved bits are ignored (R4). -/
def regLimits (die part : Nat) (r : BitVec 512) : Bool :=
  let rows := recField r 0x20 4
  let cols := recField r 0x24 4
  let ok := fun (n : Nat) => n % 32 == 0 && 32 ≤ n && n ≤ 2 ^ 20
  recField r 0x2A 1 % 2 == 1 && recField r 0x28 1 ≤ 2 && recField r 0x29 1 == part && ok rows && ok cols &&
  recField r 0 8 % 2 ^ 16 == 0 && recField r 0x08 8 % 2 ^ 16 == 0 && recField r 0x10 8 % 2 ^ 16 == 0 && recField r 0x18 8 % 2 ^ 16 == 0 &&
  hbmBase die ≤ recField r 0 8 && recField r 0 8 + regBytes r ≤ hbmBase (die + 1)

def overlaps (a b : Nat × Nat) : Bool := a.1 < b.2 && b.1 < a.2

/-- Some ranges of the list overlap. -/
def anyOverlap : List (Nat × Nat) → Bool
  | [] => false
  | x :: l => l.any (overlaps x) || anyOverlap l

/-- The physical range of an entry. -/
def regRange (r : BitVec 512) : Nat × Nat := (recField r 0 8, recField r 0 8 + regBytes r)

/-- The range holds no frame of the context table and none of a save image, which only Keyring reaches (R326, R373).
Assumption 43, DEDUCED. -/
def regClear (s : State) (r : BitVec 512) : Bool :=
  decide (2 ^ 22 ≤ (regRange r).1 % 2 ^ 37) &&
  s.teams.all (fun m => m.save.all (fun f => !overlaps (f, f + 2 ^ 16) (regRange r)))

/-- The entry takes part in translation: within its limits, and no view range overlaps another of it or of a valid entry (R286).
Assumption 43, DEDUCED. -/
def regionLive (s : State) (part : BitVec 6) (r : Nat × BitVec 512) : Bool :=
  let all := (regionsOf s part).filter (fun x => regLimits (regDie x.1) part.toNat x.2)
  regLimits (regDie r.1) part.toNat r.2 && regClear s r.2 && !anyOverlap (regViews r.2) &&
  ((all.filter (·.1 ≠ r.1)).all (fun x => (regViews x.2).all (fun v => (regViews r.2).all (fun w => !overlaps v w))))

/-- The bytes of element (i, j): brick, bank lane and slot (R288). -/
def brickAddr (r : BitVec 512) (i j b : Nat) : Nat :=
  let es := regEs r
  let bc := recField r 0x24 4 / 32
  recField r 0 8 + (i / 32 * bc + j / 32) * 1024 * es + (i % 32 * 32 + (i % 32 + j % 32) % 32) * es + b

/-- The byte that a view address names in a region, and whether the view is the row view (R287). -/
def viewByte (r : BitVec 512) (gpa : Nat) : Option (Nat × Bool) :=
  let es := regEs r
  let rows := recField r 0x20 4
  let cols := recField r 0x24 4
  let inView := fun (b : Nat) => b ≠ 0 && b ≤ gpa && gpa < b + regBytes r
  let vr := recField r 0x08 8
  let vc := recField r 0x10 8
  let vt := recField r 0x18 8
  if inView vr then
    let e := (gpa - vr) / es
    some (brickAddr r (e / cols) (e % cols) ((gpa - vr) % es), true)
  else if inView vc then
    let e := (gpa - vc) / es
    some (brickAddr r (e % rows) (e / rows) ((gpa - vc) % es), false)
  else if inView vt then
    let e := (gpa - vt) / es
    let bc := cols / 32
    let brick := e / 1024
    some (brickAddr r (brick / bc * 32 + e % 1024 / 32) (brick % bc * 32 + e % 32) ((gpa - vt) % es), false)
  else none

/-- The view of a live region that covers a GPA. -/
def findView (s : State) (part : BitVec 6) (gpa : Nat) : Option (Nat × Bool) :=
  ((regionsOf s part).filter (regionLive s part)).findSome? (fun r => viewByte r.2 gpa)

/-- A device-physical address inside some live region, of any partition (R286). -/
def inRegion (s : State) (a : Nat) : Bool :=
  s.regions.any (fun c =>
    let part : BitVec 6 := BitVec.ofNat 6 (c.1 / 1024)
    let r := c.2
    regionLive s part c && recField r 0 8 ≤ a && a < recField r 0 8 + regBytes r)

/-- Frames that the regions' ranges take at most. -/
def regionFrames (s : State) : Nat := s.regions.foldl (fun n c => n + regBytes c.2 / 2 ^ 16 + 1) 0

/-- The channel of a byte of HBM, under 64 die + channel: that of its brick in a multi-view region (R288), else that of R275. -/
def chanOf (s : State) (a : Nat) : Nat :=
  dieOf a * 64 + (match s.regions.find? (fun c => regionLive s (BitVec.ofNat 6 (c.1 / 1024)) c && recField c.2 0 8 ≤ a &&
      a < recField c.2 0 8 + regBytes c.2) with
    | some c => (a - recField c.2 0 8) / (1024 * regEs c.2) % 64
    | none => channelOf a)

/-- The channel of a byte changes its rate, so that it performs no access now (R284). -/
def chanStopped (s : State) (a : Nat) : Bool := isHbm a && !s.changing.isEmpty && s.changing.any (fun c => c.1 == chanOf s a)

/-- A channel of the die that holds a frame of 64 KiB changes its rate; the frame has granules in every channel (R275, R284). -/
def frameStopped (s : State) (frame : Nat) : Bool := isHbm frame && s.changing.any (fun c => c.1 / 64 == dieOf frame)

/-- Why the device cannot read or write a byte of its memory now: a copy at the host is taken back first (R374), or its channel changes
its rate (R284). -/
def devWait (s : State) (writes : Bool) (a : Nat) : Option TRes :=
  if s.hostHolds writes a then some (.snoop writes (a / 64)) else if chanStopped s a then some .busy else none

/-! Objects and frames (R290 to R293). -/

def State.pde? (s : State) (obj : BitVec 48) : Option Pde := s.pdes.find? (fun p => p.obj == obj)

def State.onPde (s : State) (obj : BitVec 48) (f : Pde → Pde) : State :=
  { s with pdes := s.pdes.map (fun p => if p.obj == obj then f p else p) }

/-- Frames that page directory entries name: current, old, and those a migration has taken; frames that hold save images (R354); and
frames of which the host holds a line (R374). -/
def framesUsed (s : State) : List Nat :=
  (s.teams.map (·.save)).flatten ++ s.bidir.map (fun l => l / 1024 * 2 ^ 16) ++ (s.pdes.map (fun p => [p.frame, p.oldFrame] ++ (match p.mig with | some m => [m.frame] | none => []))).flatten

/-- Tile SRAM frames of placed teams (R277), as device-physical addresses. -/
def teamFrames (s : State) : List Nat :=
  (s.teams.map (fun m => if m.placed then m.frames.map (fun f => tileBase m.die.toNat m.tile.toNat + f * 2 ^ 16) else [])).flatten

/-- The first of `n` candidates that is not taken. -/
def firstFree (taken : Nat → Bool) (at_ : Nat → Nat) : Nat → Nat → Option Nat
  | 0, _ => none
  | n + 1, k => if taken (at_ k) then firstFree taken at_ n (k + 1) else some (at_ k)

/-- T1 frames of a die: its HBM from 256 MiB on but for the ranges of regions (R286), 2^21 - 2^12 frames, taken from the top down
(assumption 6). -/
def freeT1 (s : State) (die : Nat) : Option Nat :=
  let used := framesUsed s
  firstFree (fun a => used.contains a || inRegion s a) (fun k => hbmBase (die + 1) - (k + 1) * 2 ^ 16)
    (min (2 ^ 21 - 2 ^ 12) (used.length + regionFrames s + 1)) 0

/-- A T1 frame of the die, else of another die, lowest number first (R291). -/
def freeT1Any (s : State) (die : Nat) : Option Nat :=
  (die :: (List.range 4).filter (· ≠ die)).findSome? (freeT1 s)

/-- The valid pool ranges: base and number of frames (R376). -/
def poolRanges (s : State) : List (Nat × Nat) :=
  (List.range 8).filterMap (fun n =>
    let b := (s.bar (0x1000 + 16 * n)).toNat
    if b % 2 = 1 then some (b / 2 ^ 30 * 2 ^ 30, (s.bar (0x1008 + 16 * n)).toNat % 2 ^ 16 * 2 ^ 14) else none)

/-- The lowest T2 frame not in use and not set aside after a failed demotion (R376), as a memory key.
Assumption 6, DESIGN CHOICE. -/
def freeT2 (s : State) : Option Nat :=
  let used := framesUsed s ++ s.badT2
  (poolRanges s).findSome? (fun r => firstFree used.contains (fun k => poolKey (r.1 + k * 2 ^ 16)) (min r.2 (used.length + 1)) 0)

/-- Free T0 frames of a tile (R277). Assumption 6, DESIGN CHOICE. -/
def freeT0 (s : State) (die tile : Nat) : List Nat :=
  let used := framesUsed s ++ teamFrames s
  ((List.range 64).map (fun f => tileBase die tile + f * 2 ^ 16)).filter (fun a => !used.contains a)

/-- A frame is zero-filled before it is mapped (R292). -/
def zeroFrame (m : List Host.Cell) (base : Nat) : List Host.Cell := m.filter (fun c => c.1 < base || base + 2 ^ 16 ≤ c.1)

/-- Frames that have been written whole hold no damaged data (R356). -/
def State.heal (s : State) (frames : List Nat) : State :=
  if s.poison.isEmpty then s else { s with poison := s.poison.filter (fun g => !frames.contains (g / 2048 * 2 ^ 16)) }

/-- Copying a frame's bytes. -/
def copyFrame (m : List Host.Cell) (src dst : Nat) : List Host.Cell :=
  (m.filter (fun c => src ≤ c.1 && c.1 < src + 2 ^ 16)).foldl (fun m c => setByte m (dst + (c.1 - src)) c.2) (zeroFrame m dst)

/-- The object number of a window page (R290). -/
def objOf (part : BitVec 6) (gpa : Nat) : BitVec 48 :=
  BitVec.ofNat 48 (part.toNat * 2 ^ 42 + (gpa - 0x0080000000000000) / 2 ^ 16 % 2 ^ 39)

/-- A frame that becomes free is zero-filled, unless the host holds a line of it or a channel is changing: it is zero-filled before it is
used again in any case (R292, R301, R374). -/
def State.zeroFree (s : State) (f : Nat) : State :=
  if s.bidir.any (fun l => l / 1024 * 2 ^ 16 == f) || frameStopped s f then s else { s.heal [f] with mem := zeroFrame s.mem f }

/-- An object comes into existence at its first access (R291). -/
def createObject (s : State) (ctx : Word) (obj : BitVec 48) : Option State :=
  let die := (fld ctx 14 2).toNat
  match freeT1Any s die with
  | some f => some { s.heal [f] with mem := zeroFrame s.mem f, pdes := s.pdes ++ [{ obj := obj, owner := ctx, frame := f }] }
  | none =>
    match freeT2 s with
    | some f => some { s.heal [f] with mem := zeroFrame s.mem f, pdes := s.pdes ++ [{ obj := obj, owner := ctx, frame := f, tier := 2 }] }
    | none => none

/-- Damaged granules of 32 bytes (R356). -/
def State.bad (s : State) (key : Nat) : Bool := s.poison.contains (key / 32)

/-- Why a line cannot be pulled now (R284, R374). -/
def pullWait (s : State) (p : Pde) (line : Nat) : Option TRes :=
  (devWait s true (p.oldFrame + line * 64)).orElse (fun _ => devWait s true (p.frame + line * 64))

/-- The line of an object page is made valid: pulled from the old frame, or only marked where the access covers it whole
(R302, R357). `none` where the old line is damaged. -/
def pullLine (s : State) (p : Pde) (line : Nat) (full : Bool) : Option State :=
  let src := p.oldFrame + line * 64
  let dst := p.frame + line * 64
  let mark := fun (s : State) => s.onPde p.obj (fun p => { p with lines := Sparse.set false p.lines line true })
  if full then some (mark s)
  else if s.bad src || s.bad (src + 32) then none
  else some (mark { s with
    mem := setBytes s.mem dst (memBytes s.mem src 64), poison := s.poison.filter (fun g => g ≠ dst / 32 && g ≠ dst / 32 + 1) })

/-- A byte of an object page (R295, R301, R302). Until the rebind of a line-valid migration is complete, the old entry holds and no line
is pulled. -/
def pageByte (s : State) (p : Pde) (full : Bool) (off : Nat) : State × TRes :=
  if p.tier = 2 then (s, TRes.recall p.obj)
  else if p.moving then
    match p.mig with
    | some m =>
      if !m.line then (s, .moving p.obj)
      else if m.rebinding || Sparse.get false p.lines (off / 64) then (s, .ok (.dev (p.frame + off)))
      else match pullWait s p (off / 64) with
        | some r => (s, r)
        | none => match pullLine s p (off / 64) full with
          | some s' => (s', .ok (.dev (p.frame + off)))
          | none => (s, .fault .uncorrectable)
    | none => (s, .moving p.obj)
  else (s, .ok (.dev (p.frame + off)))

/-- An address of an object page (R290, R291). -/
def resolveObject (s : State) (ctx : Word) (full : Bool) (gpa : Nat) : State × TRes :=
  let obj := objOf (fld ctx 16 6) gpa
  match s.pde? obj with
  | some p => pageByte s p full (gpa % 2 ^ 16)
  | none =>
    if frameStopped s ((freeT1Any s (fld ctx 14 2).toNat).getD (2 ^ 64)) then (s, .busy)
    else match createObject s ctx obj with
    | some s' => match s'.pde? obj with
      | some p => pageByte s' p full (gpa % 2 ^ 16)
      | none => (s, .frame obj)
    | none => (s, .frame obj)

/-! Stage 2 and the fabric MMU (R363, R364). -/

/-- How a walk of a table ends: with what it looks for, without it, or with a wait or a refusal on the way. -/
inductive Walk (α : Type) where
  | found (x : α)
  | fails
  | stop (r : TRes)
  deriving DecidableEq, Repr

/-- What a walk goes on with. -/
def Walk.bind {α β : Type} (w : Walk α) (f : α → Walk β) : Walk β :=
  match w with
  | .found x => f x
  | .fails => .fails
  | .stop r => .stop r

/-- An entry of a table at a device-physical address, once it can be read (R284, R374). -/
def devEntry (s : State) (a : Nat) : Walk Nat :=
  match devWait s false a with
  | some r => .stop r
  | none => .found (memNat s.mem a 8)

/-- An entry of a stage-2 table, or of a fabric-MMU table, is refused: invalid, reserved bits, a TYPE that the table does not have
(R363, R364). -/
def s2Bad (fab : Bool) (e : Nat) : Bool :=
  e % 2 == 0 || e / 2 ^ 8 % 16 != 0 || e / 2 ^ 4 % 2 != 0 || (if fab then e / 2 ^ 6 % 4 != 0 else decide (2 ≤ e / 2 ^ 6 % 4))

/-- The FRAME of an entry that a table or a page may lie in: assigned, in no region's range (R363), in no frame that only Keyring
reaches (R326). -/
def s2Frame (s : State) (a : Nat) : Bool := assignedAddr a && !inRegion s a && !tableFrame s a

/-- The rest of a walk below a table at `table`, `n` levels left, indexing 9 bits a level: the leaf entry and the size of its page. -/
def s2Walk (s : State) (fab : Bool) (addr : Nat) : Nat → Nat → Walk (Nat × Nat)
  | 0, _ => .fails
  | n + 1, table =>
    (devEntry s (table + addr / 2 ^ (12 + 9 * n) % 512 * 8)).bind (fun e =>
      if s2Bad fab e then .fails
      else if e / 2 ^ 5 % 2 = 1 then .found (e, 2 ^ (12 + 9 * n))
      else if n = 0 || !s2Frame s (e / 2 ^ 12 * 2 ^ 12) then .fails
      else s2Walk s fab addr n (e / 2 ^ 12 * 2 ^ 12))

/-- Four levels, the first of which may hold no leaf: it is indexed by 9 bits in a stage-2 table and by 15 in a fabric-MMU table. -/
def s2Root (s : State) (fab : Bool) (root addr : Nat) : Walk (Nat × Nat) :=
  (devEntry s (root + addr / 2 ^ 39 % 2 ^ (if fab then 15 else 9) * 8)).bind (fun e =>
    if s2Bad fab e || e / 2 ^ 5 % 2 = 1 || !s2Frame s (e / 2 ^ 12 * 2 ^ 12) then .fails
    else s2Walk s fab addr 3 (e / 2 ^ 12 * 2 ^ 12))

/-- Permission bits of a leaf: RD 1, W 2, X 3. -/
def s2Allows (e : Nat) (k : AKind) : Bool :=
  (!k.reads || e / 2 % 2 == 1) && (!k.writes || e / 4 % 2 == 1) && (k != .exec || e / 8 % 2 == 1)

/-- What a leaf maps the address to (R363). -/
def s2Leaf (s : State) (e size addr : Nat) (k : AKind) : TRes :=
  let base := e / 2 ^ 12 * 2 ^ 12
  let a := base + addr % size
  if !s2Allows e k then .fault .protection
  else if e / 2 ^ 6 % 4 = 1 then .ok (.fab (BitVec.ofNat 64 a))
  else if !s2Frame s a then .fault .protection
  else .ok (.dev a)

/-- An entry covers an address: it lies in the entry's piece. -/
def TlbEntry.covers (e : TlbEntry) (addr : Nat) : Bool := e.page == addr / e.span

/-- What an entry maps an address of its piece to. -/
def TlbEntry.target (e : TlbEntry) (addr : Nat) : Nat := e.frame * 2 ^ 12 + addr % e.span

/-- A cached entry of a die that covers an address (R361, R363, R364). -/
def tlbFind (s : State) (die : BitVec 2) (kind : BitVec 2) (part : BitVec 6) (addr : Nat) : Option TlbEntry :=
  s.tlb.find? (fun e => e.die == die && e.kind == kind && e.part == part && e.covers addr)

/-- The newest `n` entries of a die, and every entry of the others. -/
def keepNewest (die : BitVec 2) : Nat → List TlbEntry → List TlbEntry
  | _, [] => []
  | n, e :: l => if e.die != die then e :: keepNewest die n l else match n with
    | 0 => keepNewest die 0 l
    | n + 1 => e :: keepNewest die n l

/-- A translation enters its die's TLB of 16,384 entries (R18). A full one loses its oldest entry. Assumption 6, DESIGN CHOICE. -/
def State.cacheTlb (s : State) (e : TlbEntry) : State :=
  { s with tlb := e :: (if s.tlb.length < 16384 then s.tlb else keepNewest e.die 16383 s.tlb) }

/-- The leaf entry of a cached translation, in the layout of R363. -/
def tlbLeaf (e : TlbEntry) : Nat := e.frame * 2 ^ 12 + e.perm.toNat

/-- The entry of a leaf of a stage-2 or fabric-MMU table, whole: its leaves are 1 GiB at most. -/
def s2Entry (die : BitVec 2) (kind : BitVec 2) (part : BitVec 6) (addr e size : Nat) : TlbEntry :=
  { die := die, kind := kind, part := part, root := 0, page := addr / size, frame := e / 2 ^ 12, perm := BitVec.ofNat 8 e, span := size }

/-- A stage-2 GPA (R363): entries are used as cached until `tlbinv`. -/
def stage2 (s : State) (die : BitVec 2) (part : BitVec 6) (gpa : Nat) (k : AKind) : State × TRes :=
  match tlbFind s die 1 part gpa with
  | some e => (s, s2Leaf s (tlbLeaf e) e.span gpa k)
  | none =>
    match s2Root s false ((s.pcbReg part.toNat 0x018).toNat / 2 ^ 12 * 2 ^ 12) (gpa % 2 ^ 48) with
    | .fails => (s, .fault .protection)
    | .stop r => (s, r)
    | .found (e, size) => (s.cacheTlb (s2Entry die 1 part gpa e size), s2Leaf s e size gpa k)

/-- A window offset under the fabric MMU of this device, for a partition (R364): a place, a wait, or a refusal. Its entries are taken to
stand in the TLB of die 0. Assumption 43, DEDUCED. -/
def fabricMmu (s : State) (part : BitVec 6) (off : Nat) (k : AKind) : State × TRes :=
  let use := fun (e size : Nat) => match s2Leaf s e size off k with
    | .ok (.dev a) => TRes.ok (.dev a)
    | _ => .fault .fabricError
  match tlbFind s 0 2 part off with
  | some e => (s, use (tlbLeaf e) e.span)
  | none =>
    match s2Root s true ((s.pcbReg part.toNat 0x010).toNat / 2 ^ 12 * 2 ^ 12) off with
    | .fails => (s, .fault .fabricError)
    | .stop r => (s, r)
    | .found (e, size) => (s.cacheTlb (s2Entry 0 2 part off e size), use e size)

/-! Guest-physical addresses (R358, R368). -/

/-- The alias window that covers a host GPA, as a stage-2 GPA; the lowest-numbered governs. -/
def aliasOf (s : State) (part : BitVec 6) (gpa : Nat) : Option Nat :=
  (List.range 4).findSome? (fun n =>
    let h := (s.pcbReg part.toNat (0x300 + 16 * n)).toNat
    let base := h / 2 ^ 30 * 2 ^ 30
    let size := h % 256 * 2 ^ 30
    if base ≤ gpa && gpa < base + size then
      some ((s.pcbReg part.toNat (0x308 + 16 * n)).toNat / 2 ^ 30 * 2 ^ 30 + (gpa - base))
    else none)

/-- The host range entry that covers a GPA; the lowest-numbered governs: its HRLIM value. -/
def hostRange (s : State) (part : BitVec 6) (gpa : Nat) : Option Nat :=
  (List.range 16).findSome? (fun n =>
    let b := (s.pcbReg part.toNat (0x200 + 16 * n)).toNat
    let l := (s.pcbReg part.toNat (0x208 + 16 * n)).toNat
    if b % 2 = 1 && b / 2 ^ 12 ≤ gpa / 2 ^ 12 && gpa / 2 ^ 12 ≤ l / 2 ^ 12 then some l else none)

/-- Some port is up and runs CXL: through it the host snoops and reaches device memory (R367, R371, R373). -/
def State.cxlUp (s : State) : Bool := s.portsPcie ||| s.portsDown != 3

/-- The host port of a die's traffic: that of die 0 for dies 0 and 1, that of die 3 for dies 2 and 3, or the other one while that is down
(R12). With both down it stays the own one. Assumption 60, DESIGN CHOICE. -/
def hostPort (s : State) (die : BitVec 2) : Nat :=
  let own := die.toNat / 2
  if s.portsDown.getLsbD own && !s.portsDown.getLsbD (1 - own) then 1 - own else own

/-- A host GPA behaves as non-coherent for a die, and its atomic capability bits CAP32, CAP64, CAP128 (R367, R368). -/
def hostAttr (s : State) (die : BitVec 2) (part : BitVec 6) (gpa : Nat) : Bool × Nat :=
  let pcie := s.portsPcie.getLsbD (hostPort s die)
  match hostRange s part gpa with
  | some l => (pcie || l / 8 % 2 = 1, l % 8)
  | none => (pcie, 0)

/-- A GPA of the stage-2 range: a view of a live region first, then stage 2 (R358). -/
def deviceGpa (s : State) (die : BitVec 2) (part : BitVec 6) (gpa : Nat) (k : AKind) : State × TRes :=
  match findView s part gpa with
  | some (a, row) => (s, .ok (.view a row gpa))
  | none => stage2 s die part gpa k

/-- The number of the port that `hostPort` gives. -/
def portNo (s : State) (die : BitVec 2) : BitVec 1 := BitVec.ofNat 1 (hostPort s die)

/-- A host GPA outside every alias window (R358, R370): a coherent one is translated by ATS, a non-coherent one goes untranslated. -/
def hostGpa (s : State) (die : BitVec 2) (part : BitVec 6) (gpa : Nat) : State × TRes :=
  if (hostAttr s die part gpa).1 then (s, .ok (.host gpa (ioMap s part gpa)))
  else (s.cacheAts (portNo s die) part gpa, .ok (.host gpa (ioAddr s part gpa)))

/-- A GPA of the running context (R358). -/
def resolveGpa (s : State) (die : BitVec 2) (ctx : Word) (k : AKind) (full : Bool) (gpa : Nat) : State × TRes :=
  let part := fld ctx 16 6
  if gpa < 0x0040000000000000 then
    match aliasOf s part gpa with
    | some g => deviceGpa s die part g k
    | none => hostGpa s die part gpa
  else if gpa < 0x0041000000000000 then deviceGpa s die part gpa k
  else if 0x0080000000000000 ≤ gpa && gpa < 0x0100000000000000 then resolveObject s ctx full gpa
  else (s, .fault .protection)

/-! The host-table walk (R359, R360). -/

/-- Bit `p` of an entry; position 63 in A, D, G, U or XN means that the format has no such bit. -/
def entryBit (e p : Nat) : Bool := e / 2 ^ p % 2 == 1

/-- The memory key of a table entry's GPA: host memory, or device memory through an alias window, as the walker of a die reads or writes
it. A GPA at which the host has no memory fails the walk; a refusal by stage 2 stops it (R349, R358, R360). -/
def tableKey (s : State) (die : BitVec 2) (part : BitVec 6) (k : AKind) (gpa : Nat) : Walk Nat :=
  if 0x0040000000000000 ≤ gpa then .fails
  else match aliasOf s part gpa with
    | some g =>
      let use := fun (a : Nat) => match devWait s k.writes a with
        | some r => Walk.stop r
        | none => .found a
      match (deviceGpa s die part g k).2 with
      | .ok (.dev a) => use a
      | .ok (.view a _ _) => use a
      | .ok _ => .stop (.fault .protection)
      | r => .stop r
    | none => .found (hostKey (if s.portsPcie.getLsbD (hostPort s die) then ioMap s part gpa else ioAddr s part gpa))

/-- The line of a table entry: by its host address, or its GPA where it lies behind an alias window. -/
def tableLine (s : State) (part : BitVec 6) (gpa : Nat) : Nat :=
  (if (aliasOf s part gpa).isSome then gpa else ioAddr s part gpa) / 64 * 64

/-- A leaf under the profile (R359): by the LF bit, by W, or by XN with XPOL = 1; or by LF and the last level. -/
def isLeaf (prof : Dword) (e : Nat) (last : Bool) : Bool :=
  let lf := entryBit e (profField prof 6)
  let xn := profField prof 36
  if prof.getLsbD 54 then lf || last
  else lf || entryBit e (profField prof 42) || (prof.getLsbD 55 && xn != 63 && entryBit e xn)

/-- The frame field times 4 KiB. -/
def entryFrame (prof : Dword) (e : Nat) : Nat := e / 2 ^ profField prof 0 % 2 ^ 44 * 2 ^ 12

/-- Where a walk found its leaf: its key, its GPA, the entry, the size of the page, and the lines it has used, the leaf's last. -/
structure Leaf where
  key : Nat
  gpa : Nat
  entry : Nat
  size : Nat
  lines : List Nat
  deriving DecidableEq, Repr

/-- The walk below a table at GPA `table` with `n` levels left. -/
def walkFrom (s : State) (die : BitVec 2) (part : BitVec 6) (prof : Dword) (va : Nat) : Nat → Nat → Walk Leaf
  | 0, _ => .fails
  | n + 1, table =>
    let idxw := prof.toNat / 2 ^ 56 % 16
    let gpa := table + va / 2 ^ (12 + idxw * n) % 2 ^ idxw * 8
    (tableKey s die part .read gpa).bind (fun key =>
      let e := memNat s.mem key 8
      let line := tableLine s part gpa
      if !entryBit e (profField prof 48) then .fails
      else if isLeaf prof e (n = 0) then .found ⟨key, gpa, e, 2 ^ (12 + idxw * n), [line]⟩
      else if n = 0 then .fails
      else (walkFrom s die part prof va n (entryFrame prof e)).bind (fun l => .found { l with lines := line :: l.lines }))

/-- A leaf permits the access (R360): W for writes, XN for fetch, U in the user view. Assumption 59, DEDUCED. -/
def leafAllows (prof : Dword) (e : Nat) (k : AKind) (priv : Bool) : Bool :=
  let xn := profField prof 36
  let u := profField prof 30
  (!k.writes || entryBit e (profField prof 42)) &&
  (k != .exec || xn == 63 || (entryBit e xn == prof.getLsbD 55)) &&
  (priv || u == 63 || entryBit e u)

/-- A and D set where the format has them (R360). -/
def setAD (prof : Dword) (e : Nat) (k : AKind) : Nat :=
  let a := profField prof 24
  let d := profField prof 18
  let e := if a = 63 then e else e ||| 2 ^ a
  if k.writes && d != 63 then e ||| 2 ^ d else e

/-- The piece of a leaf that enters the TLB (R360): 1 GiB at most, and 64 KiB at most for pages of the object window.
Assumption 59, DEDUCED. -/
def pieceOf (size g : Nat) : Nat :=
  min size (if 0x0080000000000000 ≤ g && g < 0x0100000000000000 then 2 ^ 16 else 2 ^ 30)

/-- GINV is sent for each dropped grant once every accepted request that used it has been performed (R402). -/
def State.tellGrants (s : State) : State :=
  let due := fun (c : Nat × Grant) => c.2.dropped && !c.2.told && !s.guest.reqs.any (fun r => r.2.area == 0 && r.2.grant.toNat == c.1)
  let hit := s.guest.grants.filter due
  if hit.isEmpty then s
  else
    { s with
      guest := { s.guest with grants := s.guest.grants.map (fun (c : Nat × Grant) => if due c then (c.1, { c.2 with told := true }) else c) }
      out := s.out ++ hit.map (fun c => Out.guest 0x22 [c.1]) }

/-- Grants that `p` selects are dropped at once (R402). -/
def State.dropGrants (s : State) (p : Grant → Bool) : State :=
  if s.guest.grants.any (fun c => !c.2.dropped && p c.2) then
    { s with guest := { s.guest with
        grants := s.guest.grants.map (fun (c : Nat × Grant) => if !c.2.dropped && p c.2 then (c.1, { c.2 with dropped := true }) else c) } }.tellGrants
  else s

/-- A line leaves the walker cache of a die: the die's entries that depend on it go, those whose leaf lies in it and, where it is no leaf's
line, those of its roots, and so do the grants whose translation depends on it, which the port has from the walks of their contexts' dies
(R361, R402). The cache holds 4,096 lines on each die, whose oldest gives way. Assumption 6, DESIGN CHOICE. -/
def State.dropWalk (s : State) (die : BitVec 2) (line : Nat) : State :=
  let mine := s.walker.filter (fun w => w.die == die && w.line == line)
  let roots := (mine.filter (fun w => !w.leaf)).map (fun w => (w.part, w.root))
  { s with
    walker := s.walker.filter (fun w => !(w.die == die && w.line == line))
    tlb := s.tlb.filter (fun e => !(e.die == die && e.kind == 0 && (e.line == line || roots.contains (e.part, e.root)))) }.dropGrants
      (fun g => fld g.ctx 14 2 == die && (g.line == line || roots.contains (fld g.ctx 16 6, (s.ctx g.ctx).root)))

/-- A line enters a die's walker cache. -/
def State.keepWalk (s : State) (w : WalkLine) : State :=
  if s.walker.contains w then s
  else
    let mine := s.walker.filter (·.die == w.die)
    let s := match mine.getLast? with
      | some old => if mine.length < 4096 then s else s.dropWalk old.die old.line
      | none => s
    { s with walker := w :: s.walker }

/-- The lines of a walk enter the walker cache of its die. -/
def State.keepWalks (s : State) (die : BitVec 2) (part : BitVec 6) (root : Dword) (lines : List Nat) : State :=
  lines.zipIdx.foldl (fun s l => s.keepWalk ⟨die, part, root, l.1, l.2 + 1 == lines.length⟩) s

/-- The walk of a virtual address, with A and D written back; the GPA and the cache entry it leaves. It fails at a missing permission and
where stage 2 refuses the update of A or D (R349, R360). Assumption 43, DEDUCED; 59, DEDUCED. -/
def hostWalk (s : State) (ctx : Word) (priv : Bool) (k : AKind) (va : Nat) (die : BitVec 2 := fld ctx 14 2) : Walk (State × Nat) :=
  let part := fld ctx 16 6
  let c := s.ctx ctx
  let prof := s.walkProf c.profile.toNat
  (walkFrom s die part prof va (prof.toNat / 2 ^ 60 % 8) (c.root.toNat / 2 ^ 12 * 2 ^ 12)).bind (fun l =>
    let e := l.entry
    let frame := entryFrame prof e
    if frame % l.size ≠ 0 || !leafAllows prof e k priv then .fails
    else
      let e' := setAD prof e k
      let g := frame + va % l.size
      let d := profField prof 18
      let perm := (if entryBit e (profField prof 42) then 1 else 0)
        + (if leafAllows prof e .exec true then 2 else 0)
        + (if leafAllows prof e .read false then 4 else 0)
        + (if d = 63 || entryBit e' d then 8 else 0)
        + (if profField prof 12 ≠ 63 && entryBit e (profField prof 12) then 16 else 0) + 32 * c.profile.toNat
      let n := pieceOf l.size g
      let t : TlbEntry := {
        die := die, kind := 0, part := part, root := c.root, page := va / n, frame := (g - g % n) / 2 ^ 12
        perm := BitVec.ofNat 8 perm, line := tableLine s part l.gpa, span := n }
      let put := fun (s : State) => Walk.found ((s.keepWalks die part c.root l.lines).cacheTlb t, g)
      if e' = e then put s
      else match tableKey s die part .write l.gpa with
        | .found key => put { s with mem := setBytes s.mem key (leBytes 8 e') }
        | .stop (.fault _) => .fails
        | .stop r => .stop r
        | .fails => .fails)

/-- A cached host-table translation that permits the access; G entries match every root of the partition with the profile (R361). -/
def tlbHost (s : State) (ctx : Word) (priv : Bool) (k : AKind) (va : Nat) (die : BitVec 2 := fld ctx 14 2) : Option Nat :=
  let part := fld ctx 16 6
  let c := s.ctx ctx
  (s.tlb.find? (fun e => e.die == die && e.kind == 0 && e.part == part && e.covers va &&
    (e.root == c.root || (e.perm.getLsbD 4 && e.perm.toNat / 32 % 4 == c.profile.toNat)) &&
    (!k.writes || (e.perm.getLsbD 0 && e.perm.getLsbD 3)) && (k != .exec || e.perm.getLsbD 1) &&
    (priv || e.perm.getLsbD 2))).map (fun e => e.target va)

/-- The GPA of an address of a context's tables, as Hinge and Keyring look at it: `none` where it does not translate. -/
def gpaOf (s : State) (ctx : Word) (va : Nat) : Option Nat :=
  match tlbHost s ctx true .read va with
  | some g => some g
  | none => match hostWalk s ctx true .read va with
    | .found (_, g) => some g
    | _ => none

/-- The object page that an access reaches at a T0 frame: the one that it was held for, else one of the partition that lies there. -/
def t0Page (s : State) (sp : Space) (frame : Nat) : Option Pde :=
  match sp.moved with
  | some (f, obj) => if f = frame then s.pde? obj else here
  | none => here
where
  here : Option Pde := s.pdes.find? (fun p => p.tier = 0 && p.frame = frame && BitVec.extractLsb' 42 6 p.obj == fld sp.ctx 16 6)

/-- The tile SRAM windows (R149, R278, R280): `none` where the address lies in neither. An object page in T0 is reached as through the
object window: a migration holds it, and a line of the new frame is pulled first (R301, R302). An access that was held goes to the page's
new frame. -/
def windowLoc (s : State) (sp : Space) (full : Bool) (va : Nat) : Option (State × TRes) :=
  match sp.win with
  | none => none
  | some ⟨ts, dsw, die, tile, frames, figure, image⟩ =>
    if ts.toNat ≤ va && va < ts.toNat + 2 ^ 22 then
      let x := va - ts.toNat
      if x < figure then
        match image, frames[x / 2 ^ 16]? with
        | some b, _ => some (s, .ok (.dev (b + x)))
        | none, some f => some (s, .ok (.dev (tileBase die.toNat tile.toNat + f * 2 ^ 16 + x % 2 ^ 16)))
        | none, none => some (s, .fault .protection)
      else some (s, .fault .protection)
    else if dsw.toNat ≤ va && va < dsw.toNat + 2 ^ 26 then
      let o := va - dsw.toNat
      let a := tileBase die.toNat 0 + o
      let own := o / 2 ^ 22 = tile.toNat && frames.contains (o / 2 ^ 16 % 64)
      if own then some (s, .ok (.dev (match image with
        | some b => b + frames.idxOf (o / 2 ^ 16 % 64) * 2 ^ 16 + o % 2 ^ 16
        | none => a)))
      else some (match t0Page s sp (a / 2 ^ 16 * 2 ^ 16) with
        | some p => pageByte s p full (a % 2 ^ 16)
        | none => (s, .fault .protection))
    else none

/-- Host copies of device lines are taken back before a device access (R374). -/
def backInvalidate (s : State) (k : AKind) (r : TRes) : TRes :=
  match r with
  | .ok (.dev a) => if s.hostHolds k.writes a then .snoop k.writes (a / 64) else r
  | .ok (.view a _ _) => if s.hostHolds k.writes a then .snoop k.writes (a / 64) else r
  | _ => r

/-- HBM of another die than the agent's is `far`: an L1 holds its lines under the guest-physical address without snooping (R276). -/
def TRes.seenFrom (die : BitVec 2) (gpa : Nat) (r : TRes) : TRes :=
  match r with
  | .ok (.dev a) => if isHbm a && dieOf a ≠ die.toNat then .ok (.far a gpa) else r
  | _ => r

/-- The translation of one byte. `full` says that the access covers the whole 64-byte line. -/
def translate (s : State) (sp : Space) (k : AKind) (full : Bool) (va : Dword) : State × TRes :=
  match windowLoc s sp full va.toNat with
  | some r => r
  | none =>
    let go := fun (s : State) (g : Nat) =>
      let (s, r) := resolveGpa s sp.die sp.ctx k full g
      (s, (backInvalidate s k r).seenFrom sp.die g)
    match tlbHost s sp.ctx sp.priv k va.toNat sp.die with
    | some g => go s g
    | none =>
      match hostWalk s sp.ctx sp.priv k va.toNat sp.die with
      | .found (s', g) => go s' g
      | .stop r => (s, r)
      | .fails => (s, if s.priOff then .fault .pageFault else .pri (va &&& ~~~0xFFF))

def State.send (s : State) (o : Out) : State := { s with out := s.out ++ [o] }

/-- A back-invalidate snoop to the host, unless it is under way (R374): BISnpInv or BISnpData. -/
def State.askHost (s : State) (inv : Bool) (line : Nat) : State :=
  if s.out.contains (.biSnp inv line) then s else s.send (.biSnp inv line)

/-- The memory key of a place that this device's memory or the host's holds. -/
def Loc.key : Loc → Nat
  | .dev a => a
  | .far a _ => a
  | .view a _ _ => a
  | .host _ h => hostKey h
  | .fab a => a.toNat

end Sys2Proof.Machine
end

