-- ==== Sys2Proof/Machine/L1.lean ====
section
/-! DEFINITION. The L1 lines that hardware does not keep coherent: lines of another die's HBM and of views (16_memory_hierarchy.md R276,
R289; 18_consistency_model.md R309, R318). Lines of the own die's HBM and of the host are coherent (R276, R371) and hold no value of
their own. -/

namespace Sys2Proof.Machine

/-- The number of a core's L1: 128 die + 8 tile + core. -/
def coreNo (die : BitVec 2) (tile : BitVec 4) (core : Nat) : Nat := die.toNat * 128 + tile.toNat * 8 + core

/-- The L1 of a strand's core. -/
def Strand.l1No (t : Strand) : Nat := coreNo t.die t.tile t.core.toNat

/-- The guest-physical address by which an L1 tags a place that it holds without snooping, and whether it is a view address. -/
def Loc.tag? : Loc → Option (Nat × Bool)
  | .far _ g => some (g, false)
  | .view _ _ g => some (g, true)
  | _ => none

/-- The bytes of a line that are not written back, with their places. -/
def L1Line.dirtyBytes (l : L1Line) : List (Nat × Byte) :=
  (List.range 64).filterMap (fun b => if l.dirty.getLsbD b then (l.keys[b]?).map (fun k => (k, byteOf l.data b)) else none)

/-- The dirty bytes of a line reach memory; a granule that they cover whole is damaged no longer (R356). -/
def writeBack (s : State) (l : L1Line) : State :=
  let bs := l.dirtyBytes
  { s with
    mem := bs.foldl (fun m x => setByte m x.1 x.2) s.mem
    poison := s.poison.filter (fun g => !(List.range 32).all (fun k => bs.any (fun x => x.1 == g * 32 + k))) }

/-- Why the lines that `p` selects cannot be written back now: a dirty byte lies in a line of which the host holds a copy, which is taken
back first (R319, R374), or in a channel that changes its rate (R284). -/
def l1Waits (s : State) (p : L1Line → Bool) : Option TRes :=
  if s.l1.isEmpty then none else (s.l1.filter p).findSome? (fun l => l.dirtyBytes.findSome? (fun x => devWait s true x.1))

/-- What a wait asks of the host. -/
def askFor (s : State) (r : TRes) : State :=
  match r with
  | .snoop inv line => s.askHost inv line
  | _ => s

/-- The lines that `p` selects are written back; then they stay, clean, or are invalidated. No performed write is discarded (R276). -/
def flushL1 (s : State) (keep : Bool) (p : L1Line → Bool) : State :=
  if s.l1.isEmpty then s
  else
    let l := s.l1
    let s := (l.filter p).foldl writeBack s
    { s with l1 := if keep then l.map (fun x => if p x then { x with dirty := 0 } else x) else l.filter (fun x => !p x) }

/-- A release at die scope or wider writes back the dirty lines of the core; a narrower one does nothing (R289, R318). -/
def releaseL1 (s : State) (core : Nat) (scope : BitVec 3) : State :=
  if 3 ≤ scope.toNat then flushL1 s true (·.core == core) else s

/-- An acquire at die scope or wider writes back the dirty bytes of the lines of the core and then invalidates them (R289, R318). -/
def acquireL1 (s : State) (core : Nat) (scope : BitVec 3) : State :=
  if 3 ≤ scope.toNat then flushL1 s false (·.core == core) else s

/-- The release side and the acquire side of an order (R152): 1 acquire, 2 release, 3 both. -/
def AccOrd.isRelease (o : AccOrd) : Bool := o.order.getLsbD 1
def AccOrd.isAcquire (o : AccOrd) : Bool := o.order.getLsbD 0

/-- Why the lines that an order of a core writes back cannot be written back now (R319). -/
def orderWait (s : State) (core : Nat) (o : AccOrd) : Option TRes :=
  if 3 ≤ o.scope.toNat && (o.isRelease || o.isAcquire) then l1Waits s (·.core == core) else none

/-- Lines that hold a byte of the list of places. -/
def L1Line.meets (l : L1Line) (keys : List Nat) : Bool := keys.any l.keys.contains

/-- The line of an L1 under a tag. -/
def State.l1Line? (s : State) (core : Nat) (part : BitVec 6) (g : Nat) : Option L1Line :=
  s.l1.find? (fun l => l.core == core && l.part == part && l.line == g / 64)

/-- The places of the 64 bytes of the line of a place; `none` where some byte of the line is no place of the kind. -/
def lineKeys (s : State) (part : BitVec 6) : Loc → Option (List Nat)
  | .far a _ => some ((List.range 64).map (fun b => a / 64 * 64 + b))
  | .view _ _ g => (List.range 64).mapM (fun b => (findView s part (g / 64 * 64 + b)).map (·.1))
  | _ => none

/-- The least recently filled line of a full L1 of 8,192 lines gives way. Assumption 65, DESIGN CHOICE. -/
def makeRoom (s : State) (core : Nat) : State :=
  if s.l1.length < 8192 || ((s.l1.filter (·.core == core)).length < 8192) then s
  else match s.l1.find? (·.core == core) with
    | some x => flushL1 s false (fun l => l.core == core && l.part == x.part && l.line == x.line)
    | none => s

/-- An access of a core to a place that its L1 holds without snooping brings in the line (R276). A line with damaged data, one that
cannot be read now, and one for which no other could be written back, is not held. Assumption 65, DESIGN CHOICE. -/
def fillL1 (s : State) (core : Nat) (part : BitVec 6) (l : Loc) : State :=
  match l.tag? with
  | none => s
  | some (g, view) =>
    if (s.l1Line? core part g).isSome then s
    else match lineKeys s part l with
      | none => s
      | some keys =>
        if keys.any (fun k => s.bad k || (devWait s false k).isSome) || (l1Waits s (·.core == core)).isSome then s
        else
          let s := makeRoom s core
          let data : BitVec 512 := keys.zipIdx.foldl (fun v k => setByteOf v k.2 (memByte s.mem k.1)) 0
          { s with l1 := s.l1 ++ [{ core := core, part := part, line := g / 64, view := view, keys := keys, data := data }] }

/-- The byte that a core's L1 holds of a place. -/
def l1Byte (s : State) (core : Nat) (part : BitVec 6) (l : Loc) : Option Byte :=
  l.tag?.bind (fun t => (s.l1Line? core part t.1).map (fun x => byteOf x.data (t.1 % 64)))

/-- A byte is written to a core's L1; the answer is `none` where that holds no line for it. -/
def l1Put (s : State) (core : Nat) (part : BitVec 6) (l : Loc) (b : Byte) : Option State :=
  match l.tag? with
  | none => none
  | some (g, _) =>
    if (s.l1Line? core part g).isNone then none
    else some { s with l1 := s.l1.map (fun x => if x.core == core && x.part == part && x.line == g / 64 then
        { x with data := setByteOf x.data (g % 64) b, dirty := x.dirty ||| BitVec.ofNat 64 (2 ^ (g % 64)) } else x) }

/-- A line of a frame of 64 KiB. -/
def inFrame (frame : Nat) (l : L1Line) : Bool := l.keys.any (fun k => k / 2 ^ 16 == frame / 2 ^ 16)

/-- The lines of a frame of 64 KiB that is about to move or to be freed leave every L1: evicting a line is always allowed, and no stale
or lost byte follows the page. Assumption 65, DESIGN CHOICE. -/
def flushFrame (s : State) (frame : Nat) : State := flushL1 s false (inFrame frame)

end Sys2Proof.Machine
end

