-- ==== Sys2Proof/Machine/Keyring.lean ====
section
/-! DEFINITION. Contexts, their states and wakes (02_execution_model.md R24 to R28; 15_system_instructions.md R256; 20_scheduling.md
R327, R333; 16_memory_hierarchy.md R296). -/

namespace Sys2Proof.Machine

/-! Handles (R23, R24). -/

def handleGen (h : Word) : BitVec 10 := fld h 22 10
def handlePart (h : Word) : BitVec 6 := fld h 16 6
def handleDie (h : Word) : BitVec 2 := fld h 14 2
def handleIndex (h : Word) : Nat := fldN h 0 16

/-- The handle that is current for an entry. -/
def Ctx.handle (c : Ctx) (index : Nat) : Word :=
  BitVec.ofNat 32 (c.gen.toNat * 2 ^ 22 + c.part.toNat * 2 ^ 16 + index % 2 ^ 16)

/-- A handle is current: generation and partition are the entry's, and the entry is in use (R24; generation 0 is never issued). -/
def State.handleOk (s : State) (h : Word) : Bool :=
  let c := s.ctx h
  h != 0 && c.state != .free && c.gen == handleGen h && c.part == handlePart h

/-- The checks of R24 for a word of the stepping strand: STALE_HANDLE first, then PROTECTION. -/
def handleFault (s : State) (h : Word) : Option Cause :=
  if !s.handleOk h then some .staleHandle
  else if handlePart h ≠ s.cs.part && !s.cs.priv then some .protection
  else none

/-- A context table entry by its index. Assumption 5, DESIGN CHOICE. -/
def State.entry (s : State) (i : Nat) : Ctx := Sparse.get {} s.ctxs i

def State.setEntry (s : State) (i : Nat) (c : Ctx) : State := { s with ctxs := Sparse.set {} s.ctxs i c }

/-! Sources of R256. -/

def srcMsg : BitVec 6 := 1
def srcEvent : BitVec 6 := 2
def srcTimer : BitVec 6 := 4
def srcLaunch : BitVec 6 := 8
def srcRecall : BitVec 6 := 16
def srcFault : BitVec 6 := 32

/-- The source of bit number `n`. -/
def srcBit (n : Nat) : BitVec 6 := BitVec.ofNat 6 (2 ^ n)

/-- Sources that are latched: MSG, LAUNCH and RECALL (R256). -/
def latchable : BitVec 6 := 25

/-! Residency of declared inputs and eligibility (R26, R333). -/

/-- A page of a declared input is resident: outside the object window, without a directory entry, or in a tier that `tier` admits. A
page of the context's tables that does not translate is not in the object window. -/
def pageResident (s : State) (ctx : Word) (tier : Nat) (va : Nat) : Bool :=
  match gpaOf s ctx va with
  | none => true
  | some g =>
    if 0x0080000000000000 ≤ g && g < 0x0100000000000000 then
      match s.pde? (objOf (fld ctx 16 6) g) with
      | none => true
      | some p => p.tier.toNat ≤ tier
    else true

/-- The pages of 4 KiB of a byte range. -/
def rangePages (a len : Nat) : List Nat :=
  if len = 0 then [] else (List.range ((a + len - 1) / 4096 + 1 - a / 4096)).map (fun k => (a / 4096 + k) * 4096)

/-- The ranges of a team's declared inputs: address, length and tier, with the offset of its map entry (R333). -/
def teamInputs (m : Team) : List (Nat × Nat × Nat) :=
  m.hdr.inputs.map (fun i => ((BitVec.ofNat 64 i.1 + m.off).toNat, i.2.1, i.2.2))

def inputsResident (s : State) (m : Team) : Bool :=
  (teamInputs m).all (fun i => (rangePages i.1 i.2.1).all (pageResident s m.ctx i.2.2))

/-- A team is eligible (R26, R333). -/
def eligible (s : State) (m : Team) : Bool :=
  !m.placed && !m.ended && m.faults.isEmpty && (s.entry (handleIndex m.ctx)).cond.isNone &&
  (s.entry (handleIndex m.ctx)).state != .swapped && inputsResident s m

/-- Eligible but for the state of the context's save area. -/
def eligibleOnceBack (s : State) (m : Team) : Bool :=
  !m.placed && !m.ended && m.faults.isEmpty && (s.entry (handleIndex m.ctx)).cond.isNone && inputsResident s m

/-- The teams that entry `i` owns. -/
def teamsOf (s : State) (i : Nat) : List Team := s.teams.filter (fun m => handleIndex m.ctx == i && !m.ended)

/-! Estimates (R296). -/

/-- The update of the estimate after a park of `d` ns. -/
def newEstimate (e : Option Nat) (d : Nat) : Option Nat :=
  match e with
  | none => some d
  | some e => some ((e : Int) + ((d : Int) - (e : Int)).tdiv 4).toNat

/-- Entering PARKED: the park start and the predicted wake time are fixed. -/
def Ctx.enterPark (c : Ctx) (time : Nat) : Ctx :=
  let w := match c.hint with
    | some h => some h.toNat
    | none => c.est.map (fun e => time + e)
  { c with state := .parked, parkStart := time, wake := w }

/-- A frame of a save image lies in T2 (R354). -/
def inPool (f : Nat) : Bool := decide (2 ^ 65 ≤ f)

/-- An entry enters PARKED. From now on its pages hold the tier that a recall brings them back to (R297). Where part of its save area had
to be allocated in T2 it is SWAPPED at once (R26; assumption 33). -/
def parkCtx (s : State) (i : Nat) : State :=
  let c := (s.entry i).enterPark s.time
  let swapped := (teamsOf s i).any (fun m => m.save.any inPool)
  { s with pdes := s.pdes.map (fun p : Pde => if handleIndex p.owner == i then { p with parkTier := none } else p) }.setEntry i
    { c with state := if swapped then .swapped else .parked }

/-- Leaving PARKED or SWAPPED: the estimate is updated and the hint is cleared (R258, R296). -/
def Ctx.leavePark (c : Ctx) (time : Nat) (dest : CtxState) : Ctx :=
  { c with state := dest, est := newEstimate c.est (time - c.parkStart), hint := none, wake := none, recalling := false }

/-- The state of R27 that an entry takes after one of its teams or conditions has changed. A team that becomes eligible while the context
is PARKED, by whatever event (the recall of a declared input, a later team of a launch), makes it READY, and while it is SWAPPED starts
the recall: R27 lists neither, R26 says what READY means. SWAPPED is left only once the save area is back; a READY context whose teams
are no longer eligible stays READY. Assumption 61, DEDUCED. -/
def settleCtx (s : State) (i : Nat) : State :=
  let c := s.entry i
  let placed := (teamsOf s i).any (·.placed)
  let elig := (teamsOf s i).any (eligible s)
  match c.state with
  | .free => s
  | .swapped =>
    if (teamsOf s i).any (eligibleOnceBack s) then s.setEntry i { c with recalling := true } else s
  | .parked =>
    if placed then s.setEntry i (c.leavePark s.time .running)
    else if elig then s.setEntry i (c.leavePark s.time .ready)
    else s
  | .ready => if placed then s.setEntry i { c with state := .running } else s
  | .running =>
    if placed then s
    else if elig then s.setEntry i { c with state := .ready }
    else parkCtx s i

/-- Sources of a condition that hold: latched or arriving named sources, the deadline, and each EVENT condition on its strand's
counter (R44, R256). -/
def condHolds (s : State) (c : ParkCond) (latch : BitVec 6) : BitVec 6 :=
  let ev := c.events.any (fun e => match s.strand? e.1 e.2.1 with
    | some t => satisfied (t.ev e.2.2.1) e.2.2.2
    | none => false)
  let tm := match c.deadline with
    | some d => decide (d.toNat ≤ s.time % 2 ^ 64)
    | none => false
  (latch &&& c.named &&& latchable) ||| (if ev then srcEvent else 0) ||| (if tm then srcTimer else 0)

/-- The parked teams of a context run again (R256). -/
def releaseParked (s : State) (i : Nat) : State :=
  { s with teams := s.teams.map (fun m => if handleIndex m.ctx == i then { m with parkHeld := false } else m) }

/-- A wake of a SWAPPED context starts the recall of its save area, whether or not a team will be eligible (R27). -/
def wakeSwapped (s : State) (i : Nat) : State :=
  let c := s.entry i
  if c.state = .swapped then s.setEntry i { c with recalling := true } else s

/-- The test of a held park condition (R256): it clears when any part holds. -/
def testCond (s : State) (i : Nat) : State :=
  let c := s.entry i
  match c.cond with
  | none => s
  | some k =>
    let h := condHolds s k c.latch
    if h = 0 then s
    else wakeSwapped (settleCtx (releaseParked (s.setEntry i { c with cond := none, latch := c.latch &&& ~~~k.named, lastWake := h, due := 0 }) i) i) i

/-- The source is latched (R28): in READY, RUNNING, or SWAPPED under recall; a source that the condition names clears with it. -/
def Ctx.latches (c : Ctx) (src : BitVec 6) : Bool :=
  c.state == .ready || c.state == .running || (c.state == .swapped && c.recalling) ||
  (match c.cond with | some k => k.named &&& src &&& latchable != 0 | none => false)

/-- A wake source at an entry (R27, R28, R327): it is latched where R28 says so, and a condition that names it clears. A launch whose
first team is eligible, or the FAULT wake of a team, makes a parked context READY without a condition; LASTWAKE then records it (R256),
for a SWAPPED context once its recall has ended. -/
def wakeEntry (s : State) (i : Nat) (src : BitVec 6) : State :=
  let c := s.entry i
  if c.state = .free then s
  else
    let s := if c.latches src then s.setEntry i { c with latch := c.latch ||| (src &&& latchable) } else s
    let s := testCond s i
    let before := (s.entry i).state
    let s := settleCtx s i
    let s := if src = srcFault then wakeSwapped s i else s
    let c := s.entry i
    if (before = .parked || before = .swapped) && (src = srcLaunch || src = srcFault) then
      if c.state ≠ before then s.setEntry i { c with lastWake := src }
      else if c.state = .swapped && c.recalling then s.setEntry i { c with due := src }
      else s
    else s

/-- The FAULT wake of one resolution of a team (R349): the team is no longer held by it. -/
def faultWake (s : State) (team key : Nat) : State :=
  let s := s.onTeam team (fun m => { m with faults := m.faults.filter (· ≠ key) })
  match s.team? team with
  | some m => if m.faults.isEmpty then wakeEntry s (handleIndex m.ctx) srcFault else s
  | none => s

/-- A fault park holds the team until the key is resolved (R349). -/
def holdTeam (s : State) (team key : Nat) : State := s.onTeam team (fun m => { m with faults := m.faults ++ [key] })

/-! What Hinge and the tables do to the guest's grants and faults (R402, R403). -/

/-- Resolutions with keys `ks` are over with a STATUS of FRES: reported faults are answered, others keep it for their report. -/
def State.answerTags (s : State) (ks : List Nat) (status : Nat) : State :=
  let now := s.guest.tags.filter (fun t => t.reported && ks.contains t.key)
  if s.guest.tags.isEmpty then s
  else
    { s with
      guest := { s.guest with tags := (s.guest.tags.filter (fun t => !(t.reported && ks.contains t.key))).map (fun t =>
        if ks.contains t.key then { t with res := some (t.res.getD status) } else t) }
      out := s.out ++ now.map (fun t => Out.guest 0x25 [t.tag.toNat, status]) }

end Sys2Proof.Machine
end

