-- ==== Sys2Proof/Machine/Hinge.lean ====
section
/-! DEFINITION. Hinge: migrations, rebinds, recalls and demotions of object pages (16_memory_hierarchy.md R295 to R303;
22_faults_and_translation.md R349, R357, R365; 24_host_coherence.md R369, R376). -/

namespace Sys2Proof.Machine

/-- Types of R379. -/
def ptREAD : BitVec 6 := 0x00
def ptWRITE : BitVec 6 := 0x01
def ptATOMIC : BitVec 6 := 0x02
def ptRESP : BitVec 6 := 0x03
def ptDIRINV : BitVec 6 := 0x08
def ptCTXOP : BitVec 6 := 0x09
def ptMBOX : BitVec 6 := 0x0A
def ptGSEND : BitVec 6 := 0x10
def ptGREFUSE : BitVec 6 := 0x11
def ptGACCEPT : BitVec 6 := 0x12
def ptGADV : BitVec 6 := 0x13
def ptGWDRAW : BitVec 6 := 0x14
def ptGREG : BitVec 6 := 0x15
def ptGCONS : BitVec 6 := 0x16
def ptCRED : BitVec 6 := 0x18
def ptCRES : BitVec 6 := 0x19
def ptCCTL : BitVec 6 := 0x1A

/-- A wake request for a context (R327). -/
def State.dueWake (s : State) (h : Word) (src : BitVec 3) : State :=
  { s with due := s.due ++ [.wake (BitVec.ofNat 16 (handleIndex h)) src] }

/-- A resolution under way (R349). -/
def State.resolve (s : State) (r : Resolve) : State := { s with resolves := s.resolves ++ [r] }

/-- The next VERSION, wrapping to 1 (R294). -/
def nextVersion (v : Word) : Word := if v = 0xFFFFFFFF then 1 else v + 1

/-- The home die of an object: the XOR of its 24 two-bit slices (R294). -/
def homeDie (obj : BitVec 48) : BitVec 2 :=
  (List.range 24).foldl (fun d k => d ^^^ obj.extractLsb' (2 * k) 2) 0

/-- The tile of a new T0 frame (R298): one on which a team of the owner is placed, the owner's latest tile, then the tile of the
owner's die with most free frames. -/
def chooseT0 (s : State) (owner : Word) : Option Nat :=
  let i := handleIndex owner
  let placed := ((List.range 64).filter (fun t => s.teams.any (fun m => m.placed && handleIndex m.ctx == i &&
    m.die.toNat * 16 + m.tile.toNat == t)))
  let last := match (s.entry i).lastTile with | some t => [t] | none => []
  let die := (handleDie owner).toNat
  let own := (List.range 16).map (die * 16 + ·)
  let best := own.foldl (fun (b : Option (Nat × Nat)) t =>
    let n := (freeT0 s (t / 16) (t % 16)).length
    match b with
    | some (_, m) => if m < n then some (t, n) else b
    | none => some (t, n)) none
  let order := placed ++ last ++ (match best with | some (t, _) => [t] | none => [])
  order.findSome? (fun t => (freeT0 s (t / 16) (t % 16)).head?)

/-- A frame in the tier for an object of the owner. -/
def chooseFrame (s : State) (owner : Word) (tier : BitVec 2) : Option Nat :=
  match tier.toNat with
  | 0 => chooseT0 s owner
  | 1 => freeT1Any s (handleDie owner).toNat
  | _ => freeT2 s

/-- The step of a move: between T2 and T0 the page passes T1 (R297). -/
def nextTier (cur target : BitVec 2) : BitVec 2 := if cur = 2 && target = 0 || cur = 0 && target = 2 then 1 else target

/-- The DIRINV packet of a rebind to a die. Its object and VERSION, which have no room in ARG, are its payload. Assumption 68, DESIGN
CHOICE. -/
def dirinvPacket (s : State) (die : BitVec 2) (obj : BitVec 48) (ver : Word) : Packet :=
  { type := ptDIRINV, ddev := s.devNum, ddie := die, sdev := s.devNum, sdie := homeDie obj, part := obj.extractLsb' 42 6, len := 1, bytes := 12
    payload := leBytes 8 obj.toNat ++ leBytes 4 ver.toNat ++ List.replicate 20 0, since := s.time }

/-- A rebind begins (R295, R402): the guest's grants of the page are dropped, and a DIRINV goes to each other die. -/
def dirinv (s : State) (obj : BitVec 48) (ver : Word) : State :=
  let s := s.dropGrants (fun g => g.obj == some obj)
  { s with due := s.due ++ ((List.range 4).filter (· ≠ (homeDie obj).toNat)).map (fun d =>
      Due.packet (dirinvPacket s (BitVec.ofNat 2 d) obj ver)) }

/-- Acknowledgements that a rebind has from its start: that of the home die, and that of the guest's port, whose accepted requests are held
by the migration (R295 step 2, R402). -/
def firstAcks (obj : BitVec 48) : BitVec 5 := BitVec.ofNat 5 (16 + 2 ^ (homeDie obj).toNat)

/-- The tier in which the moves under way and queued leave a page. -/
def Pde.goal (p : Pde) : BitVec 2 :=
  match p.queued.getLast? with
  | some q => q.1
  | none => match p.mig with | some m => m.tier | none => p.tier

/-- SHARED pages that a die holds or is about to hold (R302, R369). -/
def sharedOn (s : State) (die : Nat) : Nat :=
  (s.pdes.filter (fun x => x.shared && x.tier ≠ 2 && (dieOf x.frame == die || x.mig.any (fun m => dieOf m.frame == die)))).length

/-- The frame of a move: a SHARED page goes to no die that holds 4,096 of them already (R302). -/
def moveFrame (s : State) (p : Pde) (tier : BitVec 2) : Option Nat :=
  (chooseFrame s p.owner tier).filter (fun f => !p.shared || dieOf f == dieOf p.frame || sharedOn s (dieOf f) < 4096)

/-- Hinge starts a migration, or queues it behind the one in flight (R268, R301 to R303); `soft` for `hinge.move`. A move that finds no
frame stays queued, and one to the tier that earlier ones lead to is not queued again. A SHARED page never goes to T2; its line-valid
migration takes the new frame and begins the rebind at once, which the dies acknowledge (R295, R302). -/
def beginMove (s : State) (obj : BitVec 48) (tier : BitVec 2) (soft : Bool) : State :=
  match s.pde? obj with
  | none => s
  | some p =>
    let wait := if p.goal = tier then s else s.onPde obj (fun p => { p with queued := p.queued ++ [(tier, soft)] })
    if p.shared && tier = 2 then s
    else if p.mig.isSome then wait
    else if p.tier = tier then s
    else
      let step := nextTier p.tier tier
      let rest := if step = tier then [] else [(tier, soft)]
      match moveFrame s p step with
      | none => wait
      | some f =>
        if p.shared then
          dirinv ({ s.heal [f] with mem := zeroFrame s.mem f }.onPde obj (fun p => { p with
            oldFrame := p.frame, lines := [], moving := true, queued := rest ++ p.queued, acks := firstAcks obj
            mig := some { line := true, tier := step, frame := f, rebinding := true, src := p.tier, start := s.time } }))
            obj (nextVersion p.version)
        else
          s.onPde obj (fun p => { p with
            moving := true, queued := rest ++ p.queued,
            mig := some { tier := step, frame := f, src := p.tier, start := s.time } })

/-- The shallowest ceiling of an object's pins: 0 T0, 1 T1, none without pins (R266). -/
def Pde.ceiling (p : Pde) : Option (BitVec 1) :=
  if p.pins.isEmpty then none else if p.pins.any (·.2 == 0) then some 0 else some 1

/-- A demotion to the tier would break a pin (R266). -/
def Pde.pinBars (p : Pde) (tier : BitVec 2) : Bool :=
  match p.ceiling with
  | none => false
  | some c => decide (c.toNat < tier.toNat)

/-- Order of victims (R300): latest W first, then contexts without W, oldest park first. -/
def victimBefore (a b : Ctx) : Bool :=
  match a.wake, b.wake with
  | some x, some y => decide (y < x)
  | some _, none => true
  | none, some _ => false
  | none, none => decide (a.parkStart < b.parkStart)

/-- CAPACITY_DEMOTION (R300): a page in the tier, of a parked context and among those that `here` selects, starts to move one tier down.
Its tier at the park is noted for the recall (R297). -/
def capacityDemote (s : State) (tier : BitVec 2) (here : Pde → Bool) : State :=
  let parked := fun (p : Pde) => let st := (s.entry (handleIndex p.owner)).state; st == .parked || st == .swapped
  let cand := s.pdes.filter (fun p => p.tier == tier && p.mig.isNone && parked p && here p && !p.pinBars (tier + 1) &&
    !(p.shared && tier == 1))
  let best := cand.foldl (fun (b : Option Pde) p =>
    match b with
    | none => some p
    | some q => if victimBefore (s.entry (handleIndex p.owner)) (s.entry (handleIndex q.owner)) then some p else b) none
  match best with
  | none => s
  | some p =>
    beginMove (s.onPde p.obj (fun p => { p with parkTier := some (p.parkTier.getD p.tier) })) p.obj (tier + 1) false

/-- A page in T0 of some tile of the die. -/
def inT0 (die : Nat) (p : Pde) : Bool := p.tier == 0 && dieOf p.frame == die

/-- A move of a page; where its tier has no frame, Hinge demotes to free one (R298, R300). -/
def startMove (s : State) (obj : BitVec 48) (tier : BitVec 2) (soft : Bool := false) : State :=
  match s.pde? obj with
  | none => s
  | some p =>
    let step := nextTier p.tier tier
    let s := if p.mig.isNone && p.tier ≠ tier && (chooseFrame s p.owner step).isNone then
        if step = 0 then capacityDemote s 0 (inT0 (handleDie p.owner).toNat)
        else if step = 1 then capacityDemote s 1 (fun _ => true) else s
      else s
    beginMove s obj tier soft

/-- A recall of a page in T2 that an access waits for (R349), unless it is on its way up. It goes ahead of others: `pagesInOrder`. -/
def startRecall (s : State) (obj : BitVec 48) : State :=
  match s.pde? obj with
  | some p => if p.goal = 2 then startMove s obj 1 else s
  | none => s

/-- The migration queued first starts once none is in flight (R303), unless a pin or sharing bars it by now (R266, R297). -/
def startQueued (s : State) (obj : BitVec 48) : State :=
  match s.pde? obj with
  | none => s
  | some p =>
    match p.mig, p.queued with
    | none, (t, soft) :: q =>
      let s := s.onPde obj (fun p => { p with queued := q })
      if p.tier.toNat < t.toNat && (p.pinBars t || (p.shared && t = 2)) then s else startMove s obj t soft
    | _, _ => s

/-- A recall of a context begins. -/
def State.addRecall (s : State) (i : Nat) (r : Recall) : State :=
  s.setEntry i { s.entry i with recalls := (s.entry i).recalls ++ [r] }

/-- The recall of a page to the tier of a pin; once complete, it is a RECALL source of the owner (R266). -/
def recallPinned (s : State) (p : Pde) (ceil : BitVec 1) : State :=
  startMove (s.addRecall (handleIndex p.owner) { pages := [(p.obj, ceil.setWidth 2)] }) p.obj (ceil.setWidth 2)

/-- A pinned page that lies below its ceiling is recalled (R266, R303). -/
def liftPinned (s : State) (obj : BitVec 48) : State :=
  match s.pde? obj with
  | some p => match p.ceiling with
    | some c => if c.toNat < p.tier.toNat && p.mig.isNone then recallPinned s p c else s
    | none => s
  | none => s

/-- Object pages of the declared inputs of a context's waiting teams. -/
def inputObjs (s : State) (i : Nat) : List (BitVec 48) :=
  (((teamsOf s i).filter (fun m => !m.placed)).map (fun m => ((teamInputs m).map (fun r => (rangePages r.1 r.2.1).filterMap (fun va =>
    match gpaOf s m.ctx va with
    | some g => if 0x0080000000000000 ≤ g && g < 0x0100000000000000 then some (objOf (fld m.ctx 16 6) g) else none
    | none => none))).flatten)).flatten

/-- The pages that `p` selects, and then the others. -/
def firstThose (p : Pde → Bool) (l : List Pde) : List Pde := l.filter p ++ l.filter (fun x => !p x)

/-- The pages with a move to make: first those that an access waits for (R349), then the declared inputs of waiting teams (R297, R333). -/
def pagesInOrder (s : State) (l : List Pde) : List Pde :=
  if l.length ≤ 1 then l
  else
    let inputs := ((s.teams.map (fun m => handleIndex m.ctx)).dedup.map (inputObjs s)).flatten
    firstThose (fun p => s.resolves.any (fun r => r.kind == 0 && r.obj == p.obj)) (firstThose (fun p => inputs.contains p.obj) l)

/-- FAULT wakes due for an object: one for each resolution that waits for it (R349). Each becomes a FAULT_WAKE step. -/
def State.wakesFor (s : State) (p : Resolve → Bool) : State :=
  let ks := (s.resolves.filter p).map (·.key)
  let evs := (s.teams.map (fun m => (m.faults.filter ks.contains).map (fun k => Due.faultWake m.id k))).flatten
  { s with resolves := s.resolves.filter (fun r => !p r), due := s.due ++ evs }.answerTags ks 0

/-- A frame has become free: fault parks that wait for one end (R291), and queued moves that found none are made again (R298). -/
def frameFreed (s : State) : State :=
  let s := s.wakesFor (fun r => r.kind == 1)
  (pagesInOrder s (s.pdes.filter (fun p => !p.queued.isEmpty))).foldl (fun s p => startQueued s p.obj) s

/-- A page whose recall has failed belongs to no recall any more; one of that page alone is over without a wake (R376). -/
def recallFailed (s : State) (obj : BitVec 48) : State :=
  { s with ctxs := s.ctxs.map (fun x => (x.1, { x.2 with recalls :=
      (x.2.recalls.map (fun r => { r with pages := r.pages.filter (·.1 ≠ obj) })).filter (fun r => !r.pages.isEmpty || r.save) })) }

/-- The first line of a frame that the host holds (R374). -/
def heldLine (s : State) (frame : Nat) : Option Nat := s.bidir.find? (fun l => l / 1024 * 2 ^ 16 == frame)

/-- BUSY_COUNT_ZERO (R301 step 2): no transfer translated with the current entry is under way, and the host holds no line of the page.
Damaged data abandons the migration (R357). -/
def busyCountZero (s : State) (obj : BitVec 48) : State :=
  match s.pde? obj with
  | none => s
  | some p =>
    match p.mig with
    | some m =>
      if m.line || m.drained then s
      else if (heldLine s p.frame).isSome then s.askHost true ((heldLine s p.frame).getD 0)
      else if p.tier ≠ 2 && (List.range 2048).any (fun k => s.poison.contains (p.frame / 32 + k)) then
        frameFreed (recallFailed ((s.onPde obj (fun p => { p with moving := false, mig := none })).log (dieOf p.frame) logUncorrectable p.frame) obj)
      else s.onPde obj (fun p => { p with mig := some { m with drained := true } })
    | none => s

/-- Why Hinge cannot copy between two frames now: the host holds a line of one of them (R374), a channel changes its rate (R284), or an L1
line of the old one cannot be written back yet. -/
def copyWait (s : State) (src dst : Nat) : Option TRes :=
  match (heldLine s src).orElse (fun _ => heldLine s dst) with
  | some l => some (.snoop true l)
  | none => if frameStopped s src || frameStopped s dst then some .busy else l1Waits s (inFrame src)

/-- Hinge's copy of a page to its new frame (R301 step 3). -/
def copyPage (s : State) (obj : BitVec 48) : State :=
  match s.pde? obj with
  | none => s
  | some p =>
    match p.mig with
    | some m =>
      if m.line || !m.drained || m.copied then s
      else match copyWait s p.frame m.frame with
        | some r => askFor s r
        | none =>
          let s := flushFrame s p.frame
          { s.heal [m.frame] with mem := copyFrame s.mem p.frame m.frame }.onPde obj (fun p => { p with mig := some { m with copied := true } })
    | none => s

/-- PAGE_COPY_COMPLETE: the copy between frames of T0 and T1. -/
def pageCopyComplete (s : State) (obj : BitVec 48) : State :=
  match s.pde? obj with
  | none => s
  | some p => match p.mig with
    | some m => if p.tier = 2 || m.tier = 2 then s else copyPage s obj
    | none => s

/-- POOL_TRANSFER_COMPLETION (R376): a copy to or from the pool is done. A failed demotion is abandoned and its pool frame set aside;
a failed recall leaves the page in T2 and fails the accesses that wait for it. -/
def poolTransfer (s : State) (obj : BitVec 48) (ok : Bool) : State × List Nat :=
  match s.pde? obj with
  | none => (s, [])
  | some p => match p.mig with
    | some m =>
      if !m.drained || m.copied || !(p.tier = 2 || m.tier = 2) then (s, [])
      else if ok then (copyPage s obj, [])
      else
        let s := s.onPde obj (fun p => { p with moving := false, mig := none })
        if m.tier = 2 then (frameFreed { s with badT2 := s.badT2 ++ [m.frame] }, [])
        else (frameFreed (recallFailed s obj), (s.resolves.filter (fun r => r.kind == 0 && r.obj == obj)).map (·.key))
    | none => (s, [])

/-- DIRECTORY_REBIND, step 1 of R295: the home die writes the new entry and invalidates the other dies' copies. -/
def directoryRebind (s : State) (obj : BitVec 48) : State :=
  match s.pde? obj with
  | none => s
  | some p => match p.mig with
    | some m =>
      if m.line || !m.copied || m.rebinding then s
      else dirinv (s.onPde obj (fun p => { p with
        acks := firstAcks obj, mig := some { m with rebinding := true } })) obj (nextVersion p.version)
    | none => s

/-- The duration of a finished page move joins the latest 64 of its tier pair, which stands under 4 · from + to (R297).
Assumption 34, DEDUCED. -/
def State.noteMove (s : State) (src dst : BitVec 2) (start : Nat) : State :=
  let k := 4 * src.toNat + dst.toNat
  { s with moves := Sparse.set [] s.moves k ((s.time - start) :: (Sparse.get [] s.moves k).take 63) }

/-- The tier to which a recall brings a page: the one it held at the park, at least T1, within its pin ceiling (R297). -/
def Pde.recallTier (p : Pde) : BitVec 2 :=
  let t := match p.parkTier with | some t => t | none => p.tier
  if p.pinBars 1 then 0 else if t = 2 then 1 else t

/-- The page is to be brought back (R297): the moves under way and queued leave it below its recall tier. -/
def Pde.needsRecall (p : Pde) : Bool := decide (p.recallTier.toNat < p.goal.toNat)

/-- A page of a recall is back: no migration of it runs, and it is in its tier, or in T1 with only the move into T0 left to make, for
which there is no frame (R297: "and the frames available"; R298). Assumption 34, DEDUCED. -/
def pageBack (s : State) (x : BitVec 48 × BitVec 2) : Bool :=
  match s.pde? x.1 with
  | none => true
  | some p => p.mig.isNone && (p.tier.toNat ≤ x.2.toNat || (p.tier == 1 && p.queued.any (·.1 == 0)))

/-- Each recall of a context that is complete is a RECALL source (R256, R266, R297): its pages are back, and so is the save area where it
belongs to the recall. -/
def recallCheck (s : State) (i : Nat) : State :=
  let c := s.entry i
  if c.recalls.isEmpty then s
  else
    let left := c.recalls.map (fun r => { r with pages := r.pages.filter (fun x => !pageBack s x), save := r.save && c.state == .swapped })
    let open_ := left.filter (fun r => !r.pages.isEmpty || r.save)
    let s := s.setEntry i { c with recalls := open_ }
    (List.range (left.length - open_.length)).foldl (fun s _ => s.dueWake (c.handle i) 4) s

/-- What follows every migration: a pinned page that is too low is recalled, a recall of the owner's context may be complete, and a queued
migration starts. -/
def moveEnded (s : State) (p : Pde) : State := startQueued (recallCheck (liftPinned s p.obj) (handleIndex p.owner)) p.obj

/-- A window whose ring header lies in a page that has moved finds it in the new frame (R170). -/
def State.moveRings (s : State) (old new : Nat) : State :=
  { s with windows := s.windows.map (fun w => if w.ring / 2 ^ 16 * 2 ^ 16 == old then { w with ring := new + w.ring % 2 ^ 16 } else w) }

/-- The rebind is complete (R295 step 3): the page has its new frame, held transfers are released, the old frame is zero-filled and
free, waiting accesses wake, and a queued migration starts. -/
def rebindDone (s : State) (obj : BitVec 48) (p : Pde) (m : Migration) : State :=
  let s := (s.zeroFree p.frame).moveRings p.frame m.frame
  let s := s.onPde obj (fun p => { p with
    tier := m.tier, frame := m.frame, version := nextVersion p.version, moving := false, mig := none, acks := 0 })
  let s := s.noteMove p.tier m.tier m.start
  let s := if m.tier = 2 then s else s.wakesFor (fun r => r.kind == 0 && r.obj == obj)
  moveEnded (frameFreed s) p

/-- The rebind of a line-valid migration is complete (R302): the page has its new frame, tier and version, no line of it is valid
yet. -/
def lineRebound (s : State) (obj : BitVec 48) (p : Pde) (m : Migration) : State :=
  ((flushFrame s p.frame).moveRings p.frame m.frame).onPde obj (fun p => { p with
    frame := m.frame, tier := m.tier, version := nextVersion p.version, acks := 0, mig := some { m with rebinding := false } })

/-- DIRINV_ARRIVAL: a die acknowledges (R295 step 2); the last acknowledgement completes the rebind, once the L1 lines of the old frame
can be written back. -/
def dirinvArrival (s : State) (die : BitVec 2) (obj : BitVec 48) (ver : Word) : State :=
  match s.pde? obj with
  | none => s
  | some p => match p.mig with
    | some m =>
      if !m.rebinding || ver ≠ nextVersion p.version then s
      else
        let acks := p.acks ||| BitVec.ofNat 5 (2 ^ die.toNat)
        if acks ≠ BitVec.allOnes 5 then s.onPde obj (fun p => { p with acks := acks })
        else if !m.line then rebindDone s obj p m
        else match l1Waits s (inFrame p.frame) with
          | some r => { askFor s r with due := s.due ++ [.packet (dirinvPacket s die obj ver)] }
          | none => lineRebound s obj p m
    | none => s

/-- A line-valid migration ends when all 1,024 lines are valid (R302): MOVING clears, and the old frame is zero-filled and free.
Assumption 34, DEDUCED. -/
def lineValidDone (s : State) (p : Pde) (m : Migration) : State :=
  let s := (s.onPde p.obj (fun p => { p with lines := [], oldFrame := 0, moving := false, mig := none })).noteMove m.src m.tier m.start
  moveEnded (frameFreed (s.zeroFree p.oldFrame)) p

/-- BACKGROUND_LINE_PULL (R302 steps 3 and 4): the next invalid line in increasing order; a damaged line is skipped (R357). Once every
line is valid the migration ends. -/
def backgroundPull (s : State) (obj : BitVec 48) : State :=
  match s.pde? obj with
  | none => s
  | some p => match p.mig with
    | some m =>
      if !m.line || m.rebinding then s
      else if p.lines.length = 1024 then lineValidDone s p m
      else
        let cand := (List.range 1024).filter (fun l => !Sparse.get false p.lines l &&
          !s.bad (p.oldFrame + l * 64) && !s.bad (p.oldFrame + l * 64 + 32))
        match cand.find? (fun l => (pullWait s p l).isNone) with
        | some l => (pullLine s p l false).getD s
        | none => match cand.findSome? (pullWait s p) with
          | some r => askFor s r
          | none => s
    | none => s

/-! Fault parks (R349). -/

/-- The page request of a resolution has been sent. -/
def priSent (s : State) (r : Resolve) : Bool := s.out.any (fun o => match o with | .pri k _ _ => k == r.key | _ => false)

/-- A page request goes out, with the PASID of its partition (R370), where the port of the accessing die (R12) has fewer than 512 outstanding (R366). One that is not sent yet goes out after an answer. -/
def sendPri (s : State) (r : Resolve) : State :=
  let port := fun (x : Resolve) => hostPort s x.die
  if priSent s r || 512 ≤ (s.resolves.filter (fun x => x.kind == 2 && port x == port r && priSent s x)).length then s
  else s.send (.pri r.key r.va.toNat (pasidOf s (handlePart r.ctx)))

/-- Page requests that wait for room at their port. -/
def sendPris (s : State) : State := (s.resolves.filter (·.kind == 2)).foldl sendPri s

/-- A request that cannot be translated yet parks the stepping strand's team: the resolution it waits for, and what the device does
about it at once. `x` says who makes the request: context, strand, die, and whether it writes. -/
def parkFault (s : State) (team : Nat) (x : Resolve) (r : TRes) (va : Dword) : State × Nat :=
  let key := s.nextId
  let s := holdTeam { s with nextId := key + 1 } team key
  let x := { x with key := key, va := va, at_ := va }
  match r with
  | .recall obj => (startRecall (s.resolve { x with obj := obj }) obj, key)
  | .frame obj => (capacityDemote (s.resolve { x with kind := 1, obj := obj }) 1 (fun _ => true), key)
  | .pri page =>
    let x := { x with kind := 2, va := page }
    (sendPri (s.resolve x) x, key)
  | _ => (s, key)

/-- The number under which an answered resolution is kept. -/
def TRes.number : TRes → Option Nat
  | .pri p => some p.toNat
  | .recall o => some (2 ^ 64 + o.toNat)
  | _ => none

/-- An answer has led to its trap. -/
def Strand.useAnswer (t : Strand) (n : Nat) : Strand := { t with answered := t.answered.filter (·.1 ≠ n) }

/-- A page that the host has refused is kept under 2^65 and its address: its next access traps without another walk (R349). The answer's
number, the cause and the first address of the range on that page. -/
def refusedAt (l : List (Nat × Cause)) (va : Dword) (n : Nat) : Option (Nat × Cause × Dword) :=
  l.findSome? (fun a =>
    let page := (a.1 - 2 ^ 65) / 4096
    if 2 ^ 65 ≤ a.1 && va.toNat / 4096 ≤ page && page ≤ (va.toNat + (n - 1)) / 4096 then
      some (a.1, a.2, if va.toNat / 4096 = page then va else BitVec.ofNat 64 (page * 4096))
    else none)

/-- A fault park of the strand `t`, unless the resolution has been answered already and the walk still fails: then the cause of the trap
(R349). -/
def tryPark (s : State) (t : Strand) (r : TRes) (va : Dword) : State × (Cause ⊕ Nat) :=
  match r.number.bind (fun n => t.answered.find? (fun a => a.1 == n || a.1 == n + 2 ^ 65)) with
  | some (n, c) => (s.onStrand t.team t.sid (fun t => t.useAnswer n), .inl c)
  | none =>
    let (s, key) := parkFault s t.team { ctx := t.ctx, who := some (t.team, t.sid), die := t.die } r va
    (s, .inr key)

/-- Answers are used up once an access of the strand succeeds. -/
def Strand.clearAnswered (t : Strand) : Strand := if t.answered.isEmpty then t else { t with answered := [] }

/-! Thresholds (R297, R299). -/

/-- A field of `n` bytes of the verified configuration record (R409); 0 selects the default. -/
def State.cfgField (s : State) (off n default : Nat) : Nat :=
  let x := leNat ((s.cfg.drop off).take n)
  if x = 0 then default else x

/-- Thresholds in ns: DEMOTE1 in µs and DEMOTE2 in ms (R297, R409). -/
def thresholdT0 (s : State) : Nat := s.cfgField 0x0C 4 2000 * 1000
def thresholdT1 (s : State) : Nat := s.cfgField 0x10 4 250 * 1000000

/-! Save areas (R354): frames of T1, or of T2 when demoted, that hold the save images of a context's teams. -/

/-- A T1 frame for the owner, else one of T2. -/
def saveFrame (s : State) (ctx : Word) : Option Nat :=
  match freeT1Any s (handleDie ctx).toNat with
  | some f => some f
  | none => freeT2 s

/-- `n` frames that `pick` finds, one after another, join the save image of a team; `none` where they run out. -/
def takeSave (pick : State → Option Nat) (id : Nat) : Nat → State → Option State
  | 0, s => some s
  | n + 1, s => match pick s with
    | some f => takeSave pick id n ({ s.heal [f] with mem := zeroFrame s.mem f }.onTeam id (fun m => { m with save := m.save ++ [f] }))
    | none => none

/-- The frames of the save images of a context's teams that `old` selects go where `pick` finds frames; `none` where there are too few. -/
def moveSaves (pick : State → Option Nat) (old : Nat → Bool) (i : Nat) (s : State) : Option State :=
  (teamsOf s i).foldl (fun r m => r.bind (fun s =>
    let n := (m.save.filter old).length
    if n = 0 then some s
    else (takeSave pick m.id n s).map (fun s => s.onTeam m.id (fun m => { m with save := m.save.filter (fun f => !old f) })))) (some s)

/-- DEMOTION_THRESHOLD (R297): pages of a parked context far from its predicted wake go down one tier; its save area goes to T2 if that
has the frames, and a context that holds a saved team becomes SWAPPED (R27). The copy of a save image is part of the step.
Assumption 33, DESIGN CHOICE. -/
def demoteContext (s : State) (i : Nat) : State :=
  let c := s.entry i
  match c.wake with
  | none => s
  | some w =>
    if c.state ≠ .parked && c.state ≠ .swapped then s
    else
      let far := fun (th : Nat) => decide (s.time + th < w)
      let down := fun (s : State) (p : Pde) =>
        startMove (s.onPde p.obj (fun p => { p with parkTier := some (p.parkTier.getD p.tier) })) p.obj (p.tier + 1)
      let mine := s.pdes.filter (fun p => handleIndex p.owner == i && p.mig.isNone && p.queued.isEmpty)
      let s := if far (thresholdT0 s) then
          mine.foldl (fun s p => if p.tier = 0 && p.pins.isEmpty then down s p else s) s else s
      if far (thresholdT1 s) then
        let s := mine.foldl (fun s p => if p.tier = 1 && !p.pinBars 2 && !p.shared then down s p else s) s
        if c.state = .parked && (teamsOf s i).any (·.started) then
          match moveSaves freeT2 (fun f => !inPool f) i s with
          | some t => frameFreed (t.setEntry i { t.entry i with state := .swapped })
          | none => s
        else s
      else s

/-- Insertion by object ID. -/
def insertObj (p : Pde) : List Pde → List Pde
  | [] => [p]
  | q :: l => if p.obj.toNat < q.obj.toNat then p :: q :: l else q :: insertObj p l

/-- The moves queued for a page that `hinge.move` has asked for. -/
def Pde.soft (p : Pde) : List (BitVec 2 × Bool) := p.queued.filter (·.2)

/-- The recall of one page starts: Hinge's own moves down that have not started are given up, and what is under way or was asked for by
`hinge.move` completes first (R299, R303). -/
def recallPage (s : State) (p : Pde) : State :=
  if p.needsRecall then startMove (s.onPde p.obj (fun p => { p with parkTier := none, queued := p.soft })) p.obj p.recallTier else s

/-- The recall of the save area of a SWAPPED context: once it is back in T1, the context leaves SWAPPED (R27), and LASTWAKE records the
event that asked for the recall where no park condition did (R256). While T1 has too few frames it stays, and Hinge demotes to free some
(R300). -/
def recallSave (s : State) (i : Nat) : State :=
  match moveSaves (fun s => freeT1Any s (i / 2 ^ 14)) inPool i s with
  | none => capacityDemote s 1 (fun _ => true)
  | some t =>
    let c := t.entry i
    settleCtx (t.setEntry i { c with
      state := .parked, recalling := false, due := 0, lastWake := if c.due = 0 then c.lastWake else c.due }) i

/-- RECALL_START (R297, R299): declared inputs first, then the save area, then the other pages in increasing object ID, each to the tier
it held at the park. The save area waits until the context's inputs are back. -/
def recallContext (s : State) (i : Nat) : State :=
  let c := s.entry i
  let first := inputObjs s i
  let mine := (s.pdes.filter (fun p => handleIndex p.owner == i)).foldr insertObj []
  let inputs := mine.filter (fun p => first.contains p.obj)
  let rest := mine.filter (fun p => !first.contains p.obj)
  let pages := (mine.filter (·.needsRecall)).map (fun p => (p.obj, p.recallTier))
  let swapped := c.state == .swapped
  let s := s.setEntry i { c with recalling := swapped }
  let s := if c.recalls.any (·.save) || (pages.isEmpty && !swapped) then s else s.addRecall i { pages := pages, save := swapped }
  if swapped then
    let s := inputs.foldl recallPage s
    if s.pdes.any (fun p => handleIndex p.owner == i && first.contains p.obj && (p.mig.isSome || !p.queued.isEmpty || p.tier = 2)) then s
    else
      let s := recallSave s i
      if (s.entry i).state = .swapped then s else recallCheck (rest.foldl recallPage s) i
  else recallCheck ((inputs ++ rest).foldl recallPage s) i

/-- A wake, a hint or a launch while pages of the context are demoted (R299): a demotion that has not reached its copy step is
cancelled, one that waits for a frame too; one that has completes, and the page is then recalled. A line-valid migration has begun to
copy when it starts. Moves that `hinge.move` has asked for stay queued (R303). -/
def wakeMoves (s : State) (i : Nat) : State :=
  (s.pdes.filter (fun p => handleIndex p.owner == i)).foldl (fun s p =>
    let cancel := fun (s : State) => startQueued (s.onPde p.obj (fun p => { p with
      moving := p.shared && p.mig.isSome, mig := if p.shared then p.mig else none, queued := p.soft })) p.obj
    match p.mig with
    | some m =>
      if m.tier.toNat ≤ m.src.toNat then s
      else if m.line || m.drained then
        s.onPde p.obj (fun p => { p with queued := p.soft ++ (if p.soft.getLast?.any (·.1 == m.src) then [] else [(m.src, false)]) })
      else cancel s
    | none => if p.tier.toNat < p.goal.toNat then cancel s else s) s

end Sys2Proof.Machine
end

