-- ==== Sys2Proof/Machine/Access.lean ====
section
/-! DEFINITION. Memory requests: planning every byte, performing reads, writes and atomics, and the access record
(10_access_instructions.md R148 to R154, R172 to R174, R178; 22_faults_and_translation.md R349 to R353, R356; 26_fabric.md R378 to
R382). A request is performed whole when its word issues, unless a page is held, a fault park is made, or it goes to another
device. -/

namespace Sys2Proof.Machine

/-! Planning (R151): every byte is translated before any is performed. -/

/-- The bytes of one element, `n` left, from data offset `off` and address `va` on; collected newest first. `cov` says whether the request
writes the whole 64-byte line of an address. -/
def planBytes (sp : Space) (k : AKind) (cov : Dword → Bool) :
    Nat → Nat → Dword → State × List (Nat × Loc) → State × Except (TRes × Dword) (List (Nat × Loc))
  | 0, _, _, (s, acc) => (s, .ok acc)
  | n + 1, off, va, (s, acc) =>
    match translate s sp k (cov va) va with
    | (s, .ok l) => planBytes sp k cov n (off + 1) (va + 1) (s, (off, l) :: acc)
    | (s, r) => (s, .error (r, va))

/-- A written element covers the whole 64-byte line of an address (R302). -/
def coversLine (k : AKind) (e : Elem) (va : Dword) : Bool :=
  let b := va.toNat / 64 * 64
  k == .write && e.va.toNat ≤ b && b + 64 ≤ e.va.toNat + e.size

/-- The elements in order; a failure names the first failing address (R151, R166). -/
def planElems (sp : Space) (k : AKind) : List Elem → State × List (Nat × Loc) → State × Except (TRes × Dword) (List (Nat × Loc))
  | [], (s, acc) => (s, .ok acc.reverse)
  | e :: es, (s, acc) =>
    match planBytes sp k (coversLine k e) e.size e.off e.va (s, acc) with
    | (s, .ok acc) => planElems sp k es (s, acc)
    | (s, .error x) => (s, .error x)

/-! Performing at this device. -/

/-- Byte `off` of a list of 512-byte images. -/
def imgByte (imgs : List Vec) (off : Nat) : Byte := byteOf ((imgs[off / 512]?).getD 0) (off % 512)

/-- One byte put into the images. -/
def setImg (imgs : List Vec) (off : Nat) (b : Byte) : List Vec :=
  imgs.modify (off / 512) (fun v => setByteOf v (off % 512) b)

/-- `w` bits at bit offset `o` of the images. -/
def imgBits (imgs : List Vec) (o w : Nat) : Nat := ((imgs[o / 4096]?).getD 0).toNat / 2 ^ (o % 4096) % 2 ^ w

/-- `w` bits put at bit offset `o` of the images. -/
def setImgBits (imgs : List Vec) (o w x : Nat) : List Vec :=
  imgs.modify (o / 4096) (fun v =>
    (v &&& ~~~((BitVec.ofNat 4096 (2 ^ w - 1)) <<< (o % 4096))) ||| ((BitVec.ofNat 4096 (x % 2 ^ w)) <<< (o % 4096)))

/-- The images a request delivers from the bytes it has read. -/
def Req.final (q : Req) (read : List Vec) : List Vec :=
  if q.pick.isEmpty then read else q.pick.foldl (fun imgs x => setImgBits imgs x.1 x.2.2 (imgBits read x.2.1 x.2.2)) q.base

/-- The images that the bytes are read into. -/
def Req.start (q : Req) : List Vec := if q.pick.isEmpty then q.base else q.part

/-- Reading the planned bytes into the images. -/
def readPlan (mem : List Host.Cell) (imgs : List Vec) (plan : List (Nat × Loc)) : List Vec :=
  plan.foldl (fun imgs p => setImg imgs p.1 (memByte mem p.2.key)) imgs

/-- Writing the planned bytes, in order. -/
def writePlan (mem : List Host.Cell) (data : List Vec) (plan : List (Nat × Loc)) : List Host.Cell :=
  plan.foldl (fun mem p => setByte mem p.2.key (imgByte data p.1)) mem

/-- A place of another device. -/
def Loc.isFab : Loc → Bool
  | .fab _ => true
  | _ => false

/-- A write that covers a damaged granule of 32 bytes whole replaces it (R356). -/
def granuleCovered (plan : List (Nat × Loc)) (g : Nat) : Bool :=
  (List.range 32).all (fun k => plan.any (fun p => p.2.key == g * 32 + k))

/-- The first byte whose granule is damaged and that the access consumes (R356). Assumption 56, DESIGN CHOICE. -/
def badByte (s : State) (writeOnly : Bool) (plan : List (Nat × Loc)) : Option Nat :=
  if s.poison.isEmpty then none
  else
    let here := plan.filter (fun p => !p.2.isFab)
    (here.find? (fun p => s.bad p.2.key && !(writeOnly && granuleCovered here (p.2.key / 32)))).map (·.1)

/-- Damaged granules that a write has replaced. Assumption 56, DESIGN CHOICE. -/
def repairGranules (s : State) (plan : List (Nat × Loc)) : State :=
  if s.poison.isEmpty then s else { s with poison := s.poison.filter (fun g => !granuleCovered plan g) }

/-- A packet may be sent to the device: this device and the target are in the domain (R20, R408). -/
def mayReach (s : State) (dev : BitVec 10) : Bool := s.assigned && (s.bar (0x8000 + 8 * dev.toNat)).toNat / 64 % 4 != 0

/-- The device of a fabric address (R178). -/
def fabDev (a : Dword) : BitVec 10 := BitVec.extractLsb' 54 10 a

/-- Window addresses of this device go through its own fabric MMU (R178), those of others must be reachable; else the data offset of the
first byte for which this fails, and how. -/
def resolveFab (s : State) (part : BitVec 6) (k : AKind) : List (Nat × Loc) → Except (Nat × TRes) (List (Nat × Loc))
  | [] => .ok []
  | (o, .fab a) :: l =>
    if s.assigned && fabDev a == s.devNum then
      match (fabricMmu s part (a.toNat % 2 ^ 54) k).2 with
      | .ok p => (resolveFab s part k l).map (fun r => (o, p) :: r)
      | r => .error (o, r)
    else if mayReach s (fabDev a) then (resolveFab s part k l).map (fun r => (o, .fab a) :: r)
    else .error (o, .fault .fabricError)
  | p :: l => (resolveFab s part k l).map (fun r => p :: r)

/-! Atomics (R172 to R174, R309, R372). -/

/-- The new value of an atomic of `size` bytes: `m` the memory operand. -/
def atomNew (a : AtomOp) (m : Nat) : Nat :=
  let w := 8 * a.size
  let b := a.b.toNat % 2 ^ w
  let sm := signOf64 m w
  let sb := signOf64 b w
  match a.kind.toNat with
  | 0 =>
    match a.op.toNat with
    | 0 => b
    | 1 => (m + b) % 2 ^ w
    | 2 => m &&& b
    | 3 => m ||| b
    | 4 => if sm ≤ sb then m else b
    | 5 => if sm ≤ sb then b else m
    | 6 => min m b
    | _ => max m b
  | 1 =>
    match a.op.toNat with
    | 0 => (fAdd fmtF32 0 m b).1
    | 1 => (fMinMax fmtF32 false m b).1
    | 2 => (fMinMax fmtF32 true m b).1
    | 3 => (fAdd fmtF64 0 m b).1
    | 4 => (fMinMax fmtF64 false m b).1
    | _ => (fMinMax fmtF64 true m b).1
  | _ => if m = a.expect.toNat % 2 ^ w then b else m
where
  /-- A number of `w` bits as two's complement. -/
  signOf64 (x w : Nat) : Int := if x < 2 ^ (w - 1) then x else (x : Int) - 2 ^ w

/-- The atomic writes memory: a compare that fails does not (R173, R309). -/
def atomWrites (a : AtomOp) (m : Nat) : Bool := a.kind ≠ 2 || m = a.expect.toNat % 2 ^ (8 * a.size)

/-- A host completer does not support the atomic (R372). Assumption 44, DEDUCED. -/
def atomUnsupported (nc : Bool) (caps : Nat) (a : AtomOp) : Bool :=
  if !nc then false
  else
    let cap := if a.size = 4 then caps % 2 = 1 else if a.size = 8 then caps / 2 % 2 = 1 else caps / 4 % 2 = 1
    if a.kind = 2 || (a.kind = 0 && a.op.toNat ≤ 1) then !cap else true

/-! Requests. -/

/-- How a request ends: performed, with the images it read; to be tried again once a host copy is back (R374) or a channel works again
(R284); held by a migration (R301); parked on a fault (R349); sent to another device; sent to the host as a PCIe AtomicOp, with its GPA
and host address (R174); not supported (R174); or a trap. -/
inductive ROut where
  | done (s : State) (imgs : List Vec)
  | again (s : State)
  | held (obj : BitVec 48)
  | park (r : TRes) (va : Dword)
  | remote (s : State) (plan : List (Nat × Loc)) (imgs : List Vec)
  | atomicOp (s : State) (gpa h : Nat)
  | unsupported
  | trap (c : Cause) (tval : Dword)
  deriving DecidableEq, Repr

def Req.akind (q : Req) : AKind := if q.atom.isSome then .rw else if q.write then .write else .read

/-- The address of the byte at data offset `o`. -/
def Req.vaOf (q : Req) (o : Nat) : Dword :=
  match q.elems.find? (fun e => e.off ≤ o && o < e.off + e.size) with
  | some e => e.va + BitVec.ofNat 64 (o - e.off)
  | none => 0

/-- A view other than the row view. -/
def Loc.otherView : Loc → Bool
  | .view _ row _ => !row
  | _ => false

/-- The GPA of an atomic's place in host memory; `none` for device memory. -/
def hostOf (plan : List (Nat × Loc)) : Option Nat :=
  match plan with
  | (_, .host g _) :: _ => some g
  | _ => none

/-- Swap, add and compare-and-swap go to the host as AtomicOp requests; the cache agent does the other operations (R174). -/
def AtomOp.toHost (a : AtomOp) : Bool := a.kind == 2 || (a.kind == 0 && a.op.toNat ≤ 1)

/-- The first byte of a request. -/
def Req.first (q : Req) : Dword := match q.elems with | e :: _ => e.va | [] => 0

/-! The L1 of the accessing core (R276, R289, R318). -/

/-- An access counts once for each captured row that it touches (R283). Page walks and Hinge's copies are not counted. Assumption 69,
DESIGN CHOICE. -/
def State.touchRows (s : State) (keys : List Nat) : State :=
  if s.captured.isEmpty then s
  else
    let rows := (keys.filter isHbm).map rowOf
    { s with hits := (s.captured.filter rows.contains).foldl (fun m r => Sparse.set 0 m r (Sparse.get 0 m r + 1)) s.hits }

/-- What L1s do before a request is performed: an atomic's lines leave every L1; an ACC word's own L1 takes in the lines that it does not
snoop, after a release has written it back; any other access, and a fabric word, is coherent with the L1s of its die. -/
def prepareL1 (s : State) (sp : Space) (q : Req) (plan : List (Nat × Loc)) : State :=
  let keys := (plan.filter (fun p => !p.2.isFab)).map (·.2.key)
  let s := s.touchRows keys
  let s := match sp.core with
    | some c => if q.ord.isRelease then releaseL1 s c q.ord.scope else s
    | none => s
  if q.atom.isSome then flushL1 s false (·.meets keys)
  else match sp.core with
    | some c => if q.kind == .fabric then dieL1 s keys else plan.foldl (fun s p => fillL1 s c (fld sp.ctx 16 6) p.2) s
    | none => dieL1 s keys
where
  /-- An access that no L1 holds is coherent with the L1s of its die. -/
  dieL1 (s : State) (keys : List Nat) : State := flushL1 s (!q.write) (fun l => l.core / 128 == sp.die.toNat && l.meets keys)

/-- The L1 lines that a request may have written back: those of its bytes, and all of its core's for an order at die scope or wider. -/
def flushedBy (sp : Space) (q : Req) (plan : List (Nat × Loc)) (l : L1Line) : Bool :=
  l.meets (plan.map (·.2.key)) || (3 ≤ q.ord.scope.toNat && (q.ord.isRelease || q.ord.isAcquire) && sp.core == some l.core)

/-- A byte as an access of the space reads it: from the core's L1 where that holds it, else from memory. -/
def hereByte (s : State) (sp : Space) (l : Loc) : Byte :=
  (sp.core.bind (fun c => l1Byte s c (fld sp.ctx 16 6) l)).getD (memByte s.mem l.key)

/-- Reading the planned bytes into the images. -/
def readHere (s : State) (sp : Space) (imgs : List Vec) (plan : List (Nat × Loc)) : List Vec :=
  plan.foldl (fun imgs p => setImg imgs p.1 (hereByte s sp p.2)) imgs

/-- Writing the planned bytes, those that the core's L1 holds to there. -/
def writeHere (s : State) (sp : Space) (data : List Vec) (plan : List (Nat × Loc)) : State :=
  let inL1 := fun (p : Nat × Loc) => !s.l1.isEmpty && sp.core.any (fun c => (l1Byte s c (fld sp.ctx 16 6) p.2).isSome)
  let out := plan.filter (fun p => !inL1 p)
  (plan.filter inL1).foldl (fun s p => ((sp.core.bind (fun c => l1Put s c (fld sp.ctx 16 6) p.2 (imgByte data p.1)))).getD s)
    (repairGranules { s with mem := writePlan s.mem data out } out)

/-- The order of an ACC access that has been performed: its own store is written back by a release, and an acquire invalidates. -/
def orderDone (s : State) (sp : Space) (o : AccOrd) : State :=
  match sp.core with
  | none => s
  | some c =>
    let s := if o.isRelease then releaseL1 s c o.scope else s
    if o.isAcquire then acquireL1 s c o.scope else s

/-- An atomic performed here: the old value, and memory with the new one. -/
def atomicHere (s : State) (sp : Space) (o : AccOrd) (a : AtomOp) (plan : List (Nat × Loc)) : ROut :=
  let imgs := readPlan s.mem [0] plan
  let m := (imgs.headD 0).toNat % 2 ^ (8 * a.size)
  let new : Vec := BitVec.ofNat 4096 (atomNew a m)
  .done (orderDone (if atomWrites a m then { s with mem := writePlan s.mem [new] plan } else s) sp o) imgs

/-- Performing the planned bytes of a request in its space: window addresses of this device, damaged data, and then the effect. `s0` is
the state before planning, which stands where the request is not performed. With `here` the bytes at other devices are written already.
A store with bytes here and at other devices writes those here once the others are written (R151). Assumption 55, DESIGN CHOICE. -/
def performPlan (s0 s' : State) (sp : Space) (q : Req) (here : Bool) (plan0 : List (Nat × Loc)) : ROut :=
  match (resolveFab s' (fld sp.ctx 16 6) q.akind plan0).map (fun l => if here then l.filter (fun p => !p.2.isFab) else l) with
  | .error (o, .fault c) => .trap c (q.vaOf o)
  | .error (_, r) => .again (askFor s0 r)
  | .ok plan =>
    match (plan.findSome? (fun p => if p.2.isFab then none else devWait s' q.akind.writes p.2.key)).orElse
        (fun _ => l1Waits s' (flushedBy sp q plan)) with
    | some r => .again (askFor s0 r)
    | none =>
    match badByte s' (q.write && q.atom.isNone) plan with
    | some o => .trap .uncorrectable (q.vaOf o)
    | none =>
      match q.atom with
      | none =>
        let s' := prepareL1 s' sp q plan
        if plan.any (fun p => p.2.isFab) then
          let local_ := plan.filter (fun p => !p.2.isFab)
          if q.write then .remote (if local_.isEmpty then s' else prepareL1 s0 sp q []) plan q.start
          else .remote s' plan (readHere s' sp q.start local_)
        else if q.write then .done (orderDone (writeHere s' sp q.data plan) sp q.ord) q.base
        else .done (orderDone s' sp q.ord) (q.final (readHere s' sp q.start plan))
      | some a =>
        if plan.any (fun p => p.2.otherView) then .trap .viewViolation q.first
        else
          let s' := prepareL1 s' sp q plan
          if plan.any (fun p => p.2.isFab) then .remote s' plan [0]
          else
            match hostOf plan with
            | some g =>
              let (nc, caps) := hostAttr s' sp.die (fld sp.ctx 16 6) g
              if atomUnsupported nc caps a then .unsupported
              else if a.toHost then .atomicOp s' g (ioMap s' (fld sp.ctx 16 6) g)
              else atomicHere s' sp q.ord a plan
            | none => atomicHere s' sp q.ord a plan

/-- A fabric word's bytes: the source performs no translation (R178). -/
def fabPlan (q : Req) : List (Nat × Loc) :=
  (q.elems.map (fun e => (List.range e.size).map (fun k => (e.off + k, Loc.fab (e.va + BitVec.ofNat 64 k))))).flatten

/-- Performing a request in an address space; with `here`, what is left of it at this device. -/
def runReq (s : State) (sp : Space) (q : Req) (here : Bool := false) : ROut :=
  if q.kind == .fabric then performPlan s s sp q here (fabPlan q)
  else
    match planElems sp q.akind q.elems (s, []) with
    | (_, .error (r, va)) =>
      match r with
      | .fault c => .trap c va
      | .moving obj => .held obj
      | .snoop .. | .busy => .again (askFor s r)
      | .ok _ => .trap .protection va
      | r => .park r va
    | (s', .ok plan0) => performPlan s s' sp q here plan0

/-! Delivery of load data (R43, R155, R158, R350). -/

/-- The scalar a load of `size` bytes writes. -/
def loadValue (v : Vec) (size : Nat) (signed : Bool) : Dword :=
  let x := v.toNat % 2 ^ (8 * size)
  if signed && 2 ^ (8 * size - 1) ≤ x then BitVec.ofInt 64 ((x : Int) - 2 ^ (8 * size)) else BitVec.ofNat 64 x

/-- Data into its destination. `rsv` is the record number whose reserved queue entries it fills; without one it pushes. -/
def Strand.deliver (t : Strand) (d : Dest) (imgs : List Vec) (rsv : Option Nat) : Strand :=
  match d with
  | .none => t
  | .scalar r size signed => t.setSc r (loadValue (imgs.headD 0) size signed)
  | .pair r =>
    let v := (imgs.headD 0).toNat
    (t.setSc r (BitVec.ofNat 64 v)).setSc (r + 1) (BitVec.ofNat 64 (v / 2 ^ 64))
  | .vecs regs => (regs.zip imgs).foldl (fun t x => t.setVr (x.1 % 256) x.2) t
  | .queue n masks =>
    (masks.zip imgs).foldl (fun t x =>
      match rsv with
      | some k => t.setDataq n (fillEntry k x.2 x.1 (t.dataq n))
      | none => t.pushq n { data := x.2, mask := x.1 }) t
  | .mask n => t.setMr n ((imgs.headD 0).setWidth 1024)
  | .desc n => t.setDr n ((imgs.headD 0).setWidth 512)

/-- Entries that a load reserves when it issues and its data comes later (R39). -/
def Strand.reserve (t : Strand) (d : Dest) (seq : Nat) : Strand :=
  match d with
  | .queue n masks => masks.foldl (fun t _ => t.pushq n { filled := false, seq := seq }) t
  | _ => t

/-- Delivery to a strand whose record entry lies in its trap frame: s1 to s10 and the data queues are the frame's (R344). -/
def Strand.deliverFrame (t : Strand) (f : Frame) (d : Dest) (imgs : List Vec) (seq : Nat) : Strand :=
  let inner : Strand := {
    t with frame := none, s := f.sregs ++ t.s.filter (fun c => 10 < c.1), dq := f.dq, damage := f.damage ++ t.damage.filter (fun p => !p.framed) }
  let inner := inner.deliver d imgs (some seq)
  { inner with
    frame := some { f with dq := inner.dq, sregs := savedScalars inner.s, damage := inner.damage.filter CorePart.framed }
    damage := t.damage.filter CorePart.framed ++ inner.damage.filter (fun p => !p.framed)
    s := t.s.filter (fun c => c.1 ≤ 10) ++ inner.s.filter (fun c => 10 < c.1)
    dq := t.dq }

/-- A record entry is DONE: data delivered, entry removed, completion signalled (R43, R350). -/
def Strand.finish (t : Strand) (seq : Nat) (imgs : List Vec) : Strand :=
  match t.arec.find? (fun e => e.seq == seq) with
  | some e =>
    ({ t with arec := t.arec.filter (fun x => x.seq ≠ seq) }.deliver e.req.dest imgs (some seq)).signal e.sig
  | none =>
    match t.frame with
    | none => t
    | some f =>
      match f.arec.find? (fun e => e.seq == seq) with
      | none => t
      | some e =>
        let f := { f with arec := f.arec.filter (fun x => x.seq ≠ seq) }
        ({ t with frame := some f }.deliverFrame f e.req.dest imgs seq).signal e.sig

/-- A record entry that completes with no effect on its destination (R174), its completion signalled. -/
def Strand.dropEntry (t : Strand) (seq : Nat) : Strand :=
  let keep := fun (l : List RecEntry) => l.filter (fun x => x.seq ≠ seq)
  let sig : Option (BitVec 4) := match t.arec.find? (fun e : RecEntry => e.seq == seq) with
    | some e => e.sig
    | none => match t.frame with
      | none => none
      | some f => match f.arec.find? (fun e : RecEntry => e.seq == seq) with
        | some e => e.sig
        | none => none
  ({ t with arec := keep t.arec, frame := t.frame.map (fun f : Frame => { f with arec := keep f.arec }) } : Strand).signal sig

/-- The entry of a record number, in the record or in the trap frame. -/
def Strand.entry? (t : Strand) (seq : Nat) : Option RecEntry :=
  match t.arec.find? (fun e => e.seq == seq) with
  | some e => some e
  | none => match t.frame with
    | some f => f.arec.find? (fun e => e.seq == seq)
    | none => none

/-- A change of one entry. -/
def Strand.onEntry (t : Strand) (seq : Nat) (f : RecEntry → RecEntry) : Strand :=
  let g := fun (l : List RecEntry) => l.map (fun e => if e.seq == seq then f e else e)
  { t with arec := g t.arec, frame := t.frame.map (fun x => { x with arec := g x.arec }) }

/-! Fabric packets of a request (R178, R379, R382). -/

/-- Runs of planned bytes that are consecutive at one device: first data offset, fabric address, length. Assumption 44, DEDUCED. -/
def fabRuns : List (Nat × Loc) → List (Nat × Dword × Nat)
  | [] => []
  | (o, .fab a) :: l =>
    match fabRuns l with
    | (o', a', n) :: rest => if o' = o + 1 && a' = a + 1 && a'.toNat % 4096 ≠ 0 then (o, a, n + 1) :: rest else (o, a, 1) :: (o', a', n) :: rest
    | [] => [(o, a, 1)]
  | _ :: l => fabRuns l

/-- Beats of 32 bytes that a run touches. -/
def beats (a n : Nat) : Nat := (a % 32 + n + 31) / 32

/-- The key of a stream: source die, target device and class (R382). -/
def streamKey (die : BitVec 2) (dev : BitVec 10) (cls : BitVec 4) : Nat := die.toNat * 2 ^ 14 + dev.toNat * 2 ^ 4 + cls.toNat

/-- The next SEQ of a stream: 0x7FFF is kept for unordered traffic (R378, R382). -/
def nextStreamSeq (n : Nat) : Nat := if n = 0x7FFE then 0 else n + 1

/-- An escape route towards a device leads out of this one: its port is named and up (R408). -/
def escapes (s : State) (dev : BitVec 10) : Bool :=
  let port := (s.bar (0x8000 + 8 * dev.toNat)).toNat / 2 ^ 8 % 2 ^ 8
  port < 36 && !s.ualDown.getLsbD port

/-- The UALink port, die × 9 + port, on which a packet leaves: in VC 3 the escape port, else one of its die's ports that are up, chosen by
a fixed hash of its target, and where none is up one of the next die that has one (R381, R393, R408). Assumption 13, DESIGN CHOICE. -/
def leavePort (s : State) (p : Packet) : Option Nat :=
  if p.vc = 3 then if escapes s p.ddev then some ((s.bar (0x8000 + 8 * p.ddev.toNat)).toNat / 2 ^ 8 % 2 ^ 8) else none
  else
    let up := fun (d : Nat) => (List.range 9).filterMap (fun k => if s.ualDown.getLsbD (9 * d + k) then none else some (9 * d + k))
    ((List.range 4).map (fun k => up ((p.sdie.toNat + k) % 4))).findSome? (fun l =>
      if l.isEmpty then none else l[Config.portHash p.ddev l.length % l.length]?)

/-- A packet goes out on the fabric. -/
def State.emit (s : State) (p : Packet) : State := s.send (.packet { p with since := s.time, port := leavePort s p })

end Sys2Proof.Machine

namespace Sys2Proof

/-- A packet with a payload, filled up to whole beats (R378); how many bytes of it count is the model's own. Assumption 68, DESIGN
CHOICE. -/
def Packet.load (p : Packet) (l : List (BitVec 8)) : Packet :=
  let n := (l.length + 31) / 32
  { p with payload := l ++ List.replicate (32 * n - l.length) 0, len := BitVec.ofNat 8 n, bytes := l.length }

/-- The bytes of a payload that count. -/
def Packet.data (p : Packet) : List (BitVec 8) := if p.bytes = 0 then p.payload else p.payload.take p.bytes

end Sys2Proof

namespace Sys2Proof.Machine

/-- The packet of a read, or of a write of `l`, of `n` bytes at a fabric address: a write carries the beats that hold its bytes. -/
def runPacket (s : State) (die : BitVec 2) (part : BitVec 6) (cls : BitVec 4) (write : Bool) (a : Dword) (n : Nat) (l : List Byte) : Packet :=
  let p : Packet := {
    type := if write then ptWRITE else ptREAD, ddev := fabDev a, sdev := s.devNum, sdie := die, part := part
    arg := BitVec.ofNat 64 (a.toNat % 2 ^ 54 + cls.toNat * 2 ^ 54), len := BitVec.ofNat 8 (beats a.toNat n) }
  if write then { p.load (List.replicate (a.toNat % 32) 0 ++ l) with bytes := n } else p

/-- Sending a packet and keeping it until its answer. -/
def sendReq (s : State) (p : Packet) (x : Pending) : State :=
  let id := s.nextId
  let p := { p with xid := id }
  { s with nextId := id + 1, pending := s.pending ++ [{ x with xid := id, pkt := p }] }.emit p

/-- The stream of a numbered packet of this device (R382). -/
def streamOf (p : Packet) : Option Nat := if p.seq = 0x7FFF then none else some (streamKey p.sdie p.ddev (p.arg.extractLsb' 54 4))

/-- An earlier packet of the stream is unanswered. -/
def streamBusy (s : State) (key xid : Nat) : Bool := s.pending.any (fun x => decide (x.xid < xid) && streamOf x.pkt == some key)

/-- Towards a device that is not a G4, one request of a stream is under way at a time (R382). -/
def oneAtATime (s : State) (dev : BitVec 10) : Bool := (s.bar (0x8000 + 8 * dev.toNat)).toNat / 64 % 4 != 1

/-- Sending a packet of a stream. One that must wait for an earlier one is kept like a packet that was refused for now, and leaves in the
same way. Assumption 44, DEDUCED. -/
def sendStream (s : State) (key : Nat) (p : Packet) (x : Pending) : State :=
  if oneAtATime s p.ddev && streamBusy s key s.nextId then
    { s with nextId := s.nextId + 1, pending := s.pending ++ [{ x with xid := s.nextId, pkt := { p with xid := s.nextId }, nacked := true }] }
  else sendReq s p x

/-- With the packets of these runs a stream would have more than 8,192 unanswered (R382). -/
def streamFull (s : State) (die : BitVec 2) (cls : BitVec 4) (runs : List (Nat × Dword × Nat)) : Bool :=
  runs.any (fun r =>
    let dev := fabDev r.2.1
    decide (8192 < (s.pending.filter (fun x => streamOf x.pkt == some (streamKey die dev cls))).length +
      (runs.filter (fun x => fabDev x.2.1 == dev)).length))

/-- The packets of a request: one for each run. `ordered` numbers them in their stream (fabric words only). The payload of an ATOMIC is
the operand, the expected value, the kind and the size: the manual gives it no layout. Assumption 68, DESIGN CHOICE. -/
def sendRuns (s : State) (t : Strand) (q : Req) (seq : Nat) (ordered : Bool) (runs : List (Nat × Dword × Nat)) : State :=
  runs.foldl (fun s r =>
    let (off, a, n) := r
    let dev := fabDev a
    let key := streamKey t.die dev q.ord.cls
    let num := Sparse.get 0 s.fabSeq key
    let s := if ordered then { s with fabSeq := Sparse.set 0 s.fabSeq key (nextStreamSeq num) } else s
    let run := runPacket s t.die t.part q.ord.cls (q.write && q.atom.isNone) a n ((List.range n).map (fun k => imgByte q.data (off + k)))
    let pkt : Packet := match q.atom with
      | some x => { run.load (leBytes 16 x.b.toNat ++ leBytes 16 x.expect.toNat ++ [BitVec.ofNat 8 x.kind.toNat, BitVec.ofNat 8 x.size]) with
          type := ptATOMIC, arg := run.arg + BitVec.ofNat 64 ((x.op.toNat + (if x.trap then 8 else 0)) * 2 ^ 58 + (if x.kind = 2 then 2 ^ 62 else 0)) }
      | none => run
    let pkt := { pkt with seq := if ordered then BitVec.ofNat 15 num else 0x7FFF }
    let x : Pending := { xid := 0, pkt := pkt, team := t.team, sid := t.sid, acc := some seq, off := off, n := n }
    if ordered then sendStream s key pkt x else sendReq s pkt x) s

/-! The hold queues (R301). -/

/-- A transfer to a migrating page enters the hold queue of its die, which has 32 entries; a full one answers NACK. -/
def State.hold (s : State) (obj : BitVec 48) (die : BitVec 2) (id : Nat) : State × RecState :=
  if s.holds.any (·.id == id) then (s, .held)
  else if (s.holds.filter (fun h => h.obj == obj && h.die == die)).length < 32 then ({ s with holds := s.holds ++ [⟨obj, die, id⟩] }, .held)
  else (s, .nacked)

/-- What a held access keeps of a page in T0: its frame and object (R301). -/
def State.movedFrom (s : State) (obj : BitVec 48) : Option (Nat × BitVec 48) :=
  (s.pde? obj).bind (fun p => if p.tier = 0 then some (p.frame, obj) else none)

/-- A transfer leaves its hold queue. -/
def State.unhold (s : State) (id : Nat) : State := if s.holds.isEmpty then s else { s with holds := s.holds.filter (·.id ≠ id) }

/-- Held transfers are released in queue order. -/
def State.holdTurn (s : State) (id : Nat) : Bool :=
  match s.holds.find? (·.id == id) with
  | none => true
  | some h => (s.holds.find? (fun x => x.obj == h.obj && x.die == h.die)).any (·.id == id)

/-! The ACC word as a whole (R46, R151, R154, R350, R353). -/

/-- The space of an ACC word, in the view `priv`: that of its strand, with the L1 of its core. -/
def accSpace (t : Strand) (m : Team) (priv : Bool) : Space := { spaceOf t m with priv := priv, core := some t.l1No }

/-- A record entry of the stepping strand for a request that is not done yet; its queue entries are reserved (R39). -/
def addEntry (s : State) (q : Req) (st : RecState) (key : Nat) (fail : Option (Cause × Dword) := none) : State × Nat :=
  let seq := s.nextId
  let s := { s with nextId := seq + 1 }
  let e : RecEntry := { seq := seq, unit := s.cs.unit, req := q, state := st, key := key, fail := fail, sig := s.cs.unit.sig, priv := s.cs.p }
  (s.onCs (fun t => { t with arec := t.arec ++ [e] }.reserve q.dest seq), seq)

/-- An earlier access of the strand holds a later one of the class, or one that touches a common byte (R152, R311).
Assumption 39, DEDUCED. -/
def recordHolds (t : Strand) (cls : BitVec 4) (elems : List Elem) : Bool :=
  t.earlier.any (fun e => e.req.ord.cls == cls ||
    e.req.elems.any (fun x => elems.any (fun y => decide ((y.va - x.va).toNat < x.size || (x.va - y.va).toNat < y.size))))

/-- Causes that an ACC word's request meets at its completion: the record entry is then FAULTED (R343, R347, R356). -/
def Cause.late : Cause → Bool
  | .uncorrectable | .atomicUnsupported | .fabricError => true
  | _ => false

/-- A store with bytes at other devices and here. -/
def spansHere (q : Req) (plan : List (Nat × Loc)) : Nat := if q.write && q.atom.isNone && plan.any (fun p => !p.2.isFab) then 1 else 0

/-- The word's request meets a fault at its completion: a FAULTED entry, whose trap is due. -/
def failAct (s : State) (q : Req) (c : Cause) (v : Dword) (setup : State → State := id) : Act :=
  .okNoSig (setup (addEntry s q .faulted 0 (some (c, v))).1)

/-- The word's request is held by a migration (R301). -/
def heldAct (s : State) (q : Req) (obj : BitVec 48) (setup : State → State := id) : Act :=
  let (s', seq) := addEntry s q .held 0
  let (s', st) := s'.hold obj s.cs.die seq
  .okNoSig (setup (s'.onCs (fun t => t.onEntry seq (fun e => { e with state := st, moved := s.movedFrom obj }))))

/-- The word's request cannot be translated yet: a fault park with a FAULTED entry (R349). -/
def parkAct (s : State) (q : Req) (r : TRes) (va : Dword) (setup : State → State := id) : Act :=
  match tryPark s s.cs r va with
  | (s', .inr key) => .okNoSig (setup (addEntry s' q .faulted key).1)
  | (s', .inl c) => failAct s' q c va setup

/-- The record has no room for a request, or an earlier access of the strand goes first (R46, R152, R311). -/
def recordBusy (s : State) (q : Req) : Bool := !q.elems.isEmpty && (64 ≤ s.cs.arec.length || recordHolds s.cs q.ord.cls q.elems)

/-- What becomes of the issuing ACC word by the outcome `out` of its request. `setup` is what the word changes besides (a descriptor's
POS, a status bit). -/
def actOf (s : State) (q : Req) (ordered : Bool) (setup : State → State) (out : ROut) : Act :=
  match out with
  | .done s' imgs => .ok (setup (s'.onCs (fun t => t.clearAnswered.deliver q.dest imgs none)))
  | .again s' => .waitWith s'
  | .held obj => heldAct s q obj setup
  | .park r va => parkAct s q r va setup
  | .remote s' plan imgs =>
    if ordered && streamFull s s.cs.die q.ord.cls (fabRuns plan) then .wait else
    let (s'', seq) := addEntry s' { q with part := imgs } .pending 0
    let s'' := s''.onCs (fun t => t.onEntry seq (fun e => { e with here := spansHere q plan }))
    .okNoSig (setup (sendRuns s'' s''.cs q seq ordered (fabRuns plan)))
  | .atomicOp s' g h =>
    let (s'', seq) := addEntry s' q .pending h
    .okNoSig (setup (s''.send (.atomicOp seq g (pasidOf s s.cs.part))))
  | .unsupported =>
    match q.atom with
    | some a =>
      if a.trap then failAct s q .atomicUnsupported q.first setup
      else .ok (setup (s.onCs (fun t => t.setStat statAUNS)))
    | none => .trap .atomicUnsupported 0
  | .trap c v => if c.late then failAct s q c v setup else .trap c v

/-- A request of the issuing ACC word. -/
def accReq (s : State) (q : Req) (ordered : Bool := false) (setup : State → State := id) : Act :=
  if recordBusy s q then .wait else actOf s q ordered setup (runReq s (accSpace s.cs s.csTeam s.cs.p) q)

/-- What becomes of a record entry that is performed again: a FAULTED one on replay (R352), a HELD or NACKed one when it is released or
retried (R301, R365). A page that has gone to T2 meanwhile makes it FAULTED. No second trap is raised for an entry that has trapped: it
stays FAULTED (R352). -/
def retried (s : State) (t : Strand) (e : RecEntry) (out : ROut) : State :=
  let seq := e.seq
  let upd := fun (s : State) (f : Strand → Strand) => s.onStrand t.team t.sid f
  let put := fun (s : State) (st : RecState) (key : Nat) (fail : Option (Cause × Dword)) =>
    upd (s.unhold seq) (fun t => t.onEntry seq (fun e => { e with state := st, key := key, fail := if e.trapped then none else fail }))
  match out with
  | .done s' imgs => upd (s'.unhold seq) (fun t => t.finish seq imgs)
  | .again s' => upd s' (fun t => t.onEntry seq (fun e => { e with state := .held }))
  | .held obj =>
    let (s', st) := s.hold obj t.die seq
    upd s' (fun t => t.onEntry seq (fun e => { e with state := st, moved := (s.movedFrom obj).orElse (fun _ => e.moved) }))
  | .park r va =>
    match tryPark s t r va with
    | (s', .inr key) => put s' .faulted key none
    | (s', .inl c) => put s' .faulted 0 (some (c, va))
  | .remote s' plan imgs =>
    if e.req.kind == .fabric && streamFull s t.die e.req.ord.cls (fabRuns plan) then upd s (fun t => t.onEntry seq (fun e => { e with state := .held })) else
    let s'' := upd (s'.unhold seq) (fun t => t.onEntry seq (fun e => { e with
      state := .pending, req := { e.req with part := imgs }, here := spansHere e.req plan }))
    sendRuns s'' t e.req seq (e.req.kind == .fabric) (fabRuns plan)
  | .atomicOp s' g h =>
    (upd (s'.unhold seq) (fun t => t.onEntry seq (fun e => { e with state := .pending, key := h }))).send (.atomicOp seq g (pasidOf s t.part))
  | .unsupported =>
    match e.req.atom with
    | some a =>
      if a.trap then put s .faulted 0 (some (.atomicUnsupported, e.req.first))
      else upd (s.unhold seq) (fun t => (t.dropEntry seq).setStat statAUNS)
    | none => s
  | .trap c v =>
    put (if e.trapped && c = .uncorrectable then s.log t.die.toNat logUncorrectable v.toNat else s) .faulted 0 (some (c, v))

/-- The space of a record entry of a strand: the view it issued in (R345), and the page that has held it (R301). -/
def entrySpace (s : State) (t : Strand) (e : RecEntry) : Space :=
  { accSpace t ((s.team? t.team).getD {}) e.priv with moved := e.moved }

end Sys2Proof.Machine
end

