-- ==== Sys2Proof/Machine/Scalar.lean ====
section
/-! DEFINITION. Scalar arithmetic of the CTRL engine (09_control_instructions.md R116 to R126, R147). -/

namespace Sys2Proof.Machine

/-- What a step answers. -/
abbrev Result := Host.Outcome State Fault Refusal

/-- A word whose effect is one scalar result. -/
def scalarWord (i : Instr) (s : State) (d : BitVec 6) (f : Strand → Dword) : Result :=
  .next (issue i s (fun s => .ok (s.onCs (fun t => t.setSc d (f t)))))

/-- A word whose effect is one scalar result with flags (R64, R124). -/
def floatWord (i : Instr) (s : State) (d : BitVec 6) (f : Strand → Nat × Flags) : Result :=
  .next (issue i s (fun s => .ok (s.onCs (fun t => (t.setSc d (BitVec.ofNat 64 (f t).1)).raise (f t).2))))

/-- 1 or 0. -/
def bit64 (b : Bool) : Dword := if b then 1 else 0

/-- `nop` (R147). -/
def execNop (s : State) : Result := .next (issue .nop s (fun s => .ok s))

/-! Integer words (R116). -/

def execAdd (d a b : BitVec 6) (s : State) : Result := scalarWord (.add d a b) s d (fun t => t.sc a + t.sc b)
def execSub (d a b : BitVec 6) (s : State) : Result := scalarWord (.sub d a b) s d (fun t => t.sc a - t.sc b)
def execMul (d a b : BitVec 6) (s : State) : Result := scalarWord (.mul d a b) s d (fun t => t.sc a * t.sc b)

/-- Bits 127:64 of the signed product. -/
def mulHighS (a b : Dword) : Dword := BitVec.ofInt 64 (a.toInt * b.toInt / 2 ^ 64)

/-- Bits 127:64 of the unsigned product. -/
def mulHighN (a b : Dword) : Dword := BitVec.ofNat 64 (a.toNat * b.toNat / 2 ^ 64)

def execMulhS (d a b : BitVec 6) (s : State) : Result := scalarWord (.mulhS d a b) s d (fun t => mulHighS (t.sc a) (t.sc b))
def execMulhN (d a b : BitVec 6) (s : State) : Result := scalarWord (.mulhN d a b) s d (fun t => mulHighN (t.sc a) (t.sc b))
def execAnd (d a b : BitVec 6) (s : State) : Result := scalarWord (.and d a b) s d (fun t => t.sc a &&& t.sc b)
def execOr (d a b : BitVec 6) (s : State) : Result := scalarWord (.or d a b) s d (fun t => t.sc a ||| t.sc b)
def execXor (d a b : BitVec 6) (s : State) : Result := scalarWord (.xor d a b) s d (fun t => t.sc a ^^^ t.sc b)
def execAndn (d a b : BitVec 6) (s : State) : Result := scalarWord (.andn d a b) s d (fun t => t.sc a &&& ~~~ t.sc b)

/-- Bits 5:0 of a shift amount. -/
def shamt (b : Dword) : Nat := b.toNat % 64

def execShl (d a b : BitVec 6) (s : State) : Result := scalarWord (.shl d a b) s d (fun t => t.sc a <<< shamt (t.sc b))
def execShrN (d a b : BitVec 6) (s : State) : Result := scalarWord (.shrN d a b) s d (fun t => t.sc a >>> shamt (t.sc b))
def execShrS (d a b : BitVec 6) (s : State) : Result := scalarWord (.shrS d a b) s d (fun t => (t.sc a).sshiftRight (shamt (t.sc b)))
def execRot (d a b : BitVec 6) (s : State) : Result := scalarWord (.rot d a b) s d (fun t => (t.sc a).rotateLeft (shamt (t.sc b)))

def minSigned (a b : Dword) : Dword := if a.toInt ≤ b.toInt then a else b
def maxSigned (a b : Dword) : Dword := if a.toInt ≤ b.toInt then b else a
def minUnsigned (a b : Dword) : Dword := if a.toNat ≤ b.toNat then a else b
def maxUnsigned (a b : Dword) : Dword := if a.toNat ≤ b.toNat then b else a

def execMinS (d a b : BitVec 6) (s : State) : Result := scalarWord (.minS d a b) s d (fun t => minSigned (t.sc a) (t.sc b))
def execMinN (d a b : BitVec 6) (s : State) : Result := scalarWord (.minN d a b) s d (fun t => minUnsigned (t.sc a) (t.sc b))
def execMaxS (d a b : BitVec 6) (s : State) : Result := scalarWord (.maxS d a b) s d (fun t => maxSigned (t.sc a) (t.sc b))
def execMaxN (d a b : BitVec 6) (s : State) : Result := scalarWord (.maxN d a b) s d (fun t => maxUnsigned (t.sc a) (t.sc b))

/-- Leading zero bits of the low `w` bits, 0 to w. -/
def countLeading (w x : Nat) : Nat := w - bitLen (x % 2 ^ w)

/-- Trailing zero bits of the low bits, at most `n`. -/
def countTrailing : Nat → Nat → Nat
  | 0, _ => 0
  | n + 1, x => if x % 2 = 1 then 0 else 1 + countTrailing n (x / 2)

/-- One bits among the low `n`. -/
def countOnes : Nat → Nat → Nat
  | 0, _ => 0
  | n + 1, x => x % 2 + countOnes n (x / 2)

def execClz (d a : BitVec 6) (s : State) : Result := scalarWord (.clz d a) s d (fun t => BitVec.ofNat 64 (countLeading 64 (t.sc a).toNat))
def execCtz (d a : BitVec 6) (s : State) : Result := scalarWord (.ctz d a) s d (fun t => BitVec.ofNat 64 (countTrailing 64 (t.sc a).toNat))
def execPopc (d a : BitVec 6) (s : State) : Result := scalarWord (.popc d a) s d (fun t => BitVec.ofNat 64 (countOnes 64 (t.sc a).toNat))

/-- `sel` (R116): F names a condition scalar s0 to s15. -/
def execSel (d a b : BitVec 6) (f : BitVec 4) (s : State) : Result :=
  scalarWord (.sel d a b f) s d (fun t => if t.sc (f.setWidth 6) ≠ 0 then t.sc a else t.sc b)

/-! Division (R117). -/

/-- Signed quotient, truncated toward zero. -/
def divSigned (a b : Dword) : Dword := if b = 0 then BitVec.allOnes 64 else BitVec.ofInt 64 (a.toInt.tdiv b.toInt)

/-- Unsigned quotient. -/
def divUnsigned (a b : Dword) : Dword := if b = 0 then BitVec.allOnes 64 else BitVec.ofNat 64 (a.toNat / b.toNat)

/-- Signed remainder, with the sign of the dividend. -/
def remSigned (a b : Dword) : Dword := if b = 0 then a else BitVec.ofInt 64 (a.toInt.tmod b.toInt)

/-- Unsigned remainder. -/
def remUnsigned (a b : Dword) : Dword := if b = 0 then a else BitVec.ofNat 64 (a.toNat % b.toNat)

/-- A division word; the `.trap` variant traps ARITH with TVAL 0 for a divisor of 0 and 1 for the signed overflow (R117). -/
def divWord (i : Instr) (signed : Bool) (d a b : BitVec 6) (t : BitVec 1) (f : Dword → Dword → Dword) (s : State) : Result :=
  .next (issue i s (fun s =>
    let x := s.cs.sc a
    let y := s.cs.sc b
    if t = 1 && y = 0 then .trap .arith 0
    else if t = 1 && signed && x = 0x8000000000000000 && y = BitVec.allOnes 64 then .trap .arith 1
    else .ok (s.onCs (fun c => c.setSc d (f x y)))))

def execDivS (d a b : BitVec 6) (t : BitVec 1) (s : State) : Result := divWord (.divS d a b t) true d a b t divSigned s
def execDivN (d a b : BitVec 6) (t : BitVec 1) (s : State) : Result := divWord (.divN d a b t) false d a b t divUnsigned s
def execRemS (d a b : BitVec 6) (t : BitVec 1) (s : State) : Result := divWord (.remS d a b t) true d a b t remSigned s
def execRemN (d a b : BitVec 6) (t : BitVec 1) (s : State) : Result := divWord (.remN d a b t) false d a b t remUnsigned s

/-- Conditions of `cmp` (R118). -/
def cmpHolds (c : BitVec 4) (a b : Dword) : Bool :=
  match c.toNat with
  | 0 => a == b
  | 1 => a != b
  | 2 => decide (a.toInt < b.toInt)
  | 3 => decide (a.toNat < b.toNat)
  | 4 => decide (b.toInt ≤ a.toInt)
  | _ => decide (b.toNat ≤ a.toNat)

def execCmp (d a b : BitVec 6) (c : BitVec 4) (s : State) : Result :=
  scalarWord (.cmp d a b c) s d (fun t => bit64 (cmpHolds c (t.sc a) (t.sc b)))

/-! Immediate words (R119, R120). -/

/-- The immediate of a CI word, sign-extended to 64 bits. -/
def immOf (s : State) (i : BitVec 10) : Dword := BitVec.ofInt 64 (s.cs.unit.immS i)

def execAddi (d a : BitVec 6) (i : BitVec 10) (s : State) : Result := scalarWord (.addi d a i) s d (fun t => t.sc a + immOf s i)
def execAndi (d a : BitVec 6) (i : BitVec 10) (s : State) : Result := scalarWord (.andi d a i) s d (fun t => t.sc a &&& immOf s i)
def execOri (d a : BitVec 6) (i : BitVec 10) (s : State) : Result := scalarWord (.ori d a i) s d (fun t => t.sc a ||| immOf s i)
def execXori (d a : BitVec 6) (i : BitVec 10) (s : State) : Result := scalarWord (.xori d a i) s d (fun t => t.sc a ^^^ immOf s i)
def execShli (d a : BitVec 6) (i : BitVec 10) (s : State) : Result := scalarWord (.shli d a i) s d (fun t => t.sc a <<< shamt (immOf s i))
def execShriN (d a : BitVec 6) (i : BitVec 10) (s : State) : Result :=
  scalarWord (.shriN d a i) s d (fun t => t.sc a >>> shamt (immOf s i))
def execShriS (d a : BitVec 6) (i : BitVec 10) (s : State) : Result :=
  scalarWord (.shriS d a i) s d (fun t => (t.sc a).sshiftRight (shamt (immOf s i)))

/-- `li` (R120). -/
def execLi (d : BitVec 6) (i : BitVec 16) (s : State) : Result := scalarWord (.li d i) s d (fun _ => BitVec.ofInt 64 (s.cs.unit.immS i))

/-! Bit fields and funnel shifts (R121, R122). -/

/-- Offset and width of a field description at width `w`. -/
def fieldOf (desc : Dword) : Nat × Nat :=
  let o := desc.toNat % 64
  let w := min (desc.toNat / 2 ^ 8 % 2 ^ 7) 64
  (o, min w (64 - o))

/-- The field of `a` at offset `o`, width `w`, as a number. -/
def fieldBits (a : Dword) (o w : Nat) : Nat := a.toNat / 2 ^ o % 2 ^ w

/-- A number of `w` bits read as two's complement; 0 for w = 0. -/
def signOf (x w : Nat) : Int := if w = 0 then 0 else if x < 2 ^ (w - 1) then x else (x : Int) - 2 ^ w

def bfxSigned (a desc : Dword) : Dword :=
  let (o, w) := fieldOf desc
  BitVec.ofInt 64 (signOf (fieldBits a o w) w)

def bfxUnsigned (a desc : Dword) : Dword :=
  let (o, w) := fieldOf desc
  BitVec.ofNat 64 (fieldBits a o w)

def bfiInsert (d a desc : Dword) : Dword :=
  let (o, w) := fieldOf desc
  let m : Dword := BitVec.ofNat 64 ((2 ^ w - 1) * 2 ^ o)
  (d &&& ~~~m) ||| ((a <<< o) &&& m)

def execBfxS (d a b : BitVec 6) (s : State) : Result := scalarWord (.bfxS d a b) s d (fun t => bfxSigned (t.sc a) (t.sc b))
def execBfxN (d a b : BitVec 6) (s : State) : Result := scalarWord (.bfxN d a b) s d (fun t => bfxUnsigned (t.sc a) (t.sc b))
def execBfi (d a b : BitVec 6) (s : State) : Result := scalarWord (.bfi d a b) s d (fun t => bfiInsert (t.sc d) (t.sc a) (t.sc b))

/-- Bits 127:64 of (h : l) << n. -/
def funnelLeft (h l : Dword) (n : Nat) : Dword := ((h ++ l) <<< n).extractLsb' 64 64

/-- Bits 63:0 of (h : l) >> n. -/
def funnelRight (h l : Dword) (n : Nat) : Dword := ((h ++ l) >>> n).extractLsb' 0 64

def execFshl (d a b : BitVec 6) (s : State) : Result :=
  scalarWord (.fshl d a b) s d (fun t => funnelLeft (t.sc d) (t.sc a) (shamt (t.sc b)))
def execFshr (d a b : BitVec 6) (s : State) : Result :=
  scalarWord (.fshr d a b) s d (fun t => funnelRight (t.sc d) (t.sc a) (shamt (t.sc b)))

/-! Scalar floating point (R123 to R126). -/

/-- The format that the precision bit selects. -/
def precFmt (p : BitVec 1) : Fmt := if p = 1 then fmtF64 else fmtF32

/-- A floating-point operand: the low bits of its scalar (R123). -/
def Strand.fsc (t : Strand) (p : BitVec 1) (n : BitVec 6) : Nat := (t.sc n).toNat % 2 ^ (precFmt p).width

def execFadd (d a b : BitVec 6) (p : BitVec 1) (s : State) : Result :=
  floatWord (.fadd d a b p) s d (fun t => fAdd (precFmt p) t.amode (t.fsc p a) (t.fsc p b))
def execFsub (d a b : BitVec 6) (p : BitVec 1) (s : State) : Result :=
  floatWord (.fsub d a b p) s d (fun t => fSub (precFmt p) t.amode (t.fsc p a) (t.fsc p b))
def execFmul (d a b : BitVec 6) (p : BitVec 1) (s : State) : Result :=
  floatWord (.fmul d a b p) s d (fun t => fMul (precFmt p) t.amode (t.fsc p a) (t.fsc p b))
def execFfma (d a b : BitVec 6) (p : BitVec 1) (s : State) : Result :=
  floatWord (.ffma d a b p) s d (fun t => fFma (precFmt p) t.amode (t.fsc p a) (t.fsc p b) (t.fsc p d))
def execFdiv (d a b : BitVec 6) (p : BitVec 1) (s : State) : Result :=
  floatWord (.fdiv d a b p) s d (fun t => fDiv (precFmt p) t.amode (t.fsc p a) (t.fsc p b))
def execFsqrt (d a : BitVec 6) (p : BitVec 1) (s : State) : Result :=
  floatWord (.fsqrt d a p) s d (fun t => fSqrt (precFmt p) t.amode (t.fsc p a))
def execFmin (d a b : BitVec 6) (p : BitVec 1) (s : State) : Result :=
  floatWord (.fmin d a b p) s d (fun t => fMinMax (precFmt p) false (t.fsc p a) (t.fsc p b))
def execFmax (d a b : BitVec 6) (p : BitVec 1) (s : State) : Result :=
  floatWord (.fmax d a b p) s d (fun t => fMinMax (precFmt p) true (t.fsc p a) (t.fsc p b))

/-- `fcmp` (R125). -/
def execFcmp (d a b : BitVec 6) (c : BitVec 3) (p : BitVec 1) (s : State) : Result :=
  floatWord (.fcmp d a b c p) s d (fun t =>
    let r := fCmp (precFmt p) c.toNat (t.fsc p a) (t.fsc p b)
    ((if r.1 then 1 else 0), r.2))

/-- A 64-bit integer as a number. -/
def intTo64 (r : Int × Flags) : Nat × Flags := ((BitVec.ofInt 64 r.1).toNat, r.2)

/-- The sixteen conversions of `fcvt` (R126); `sr` is the mixer's output for mode 5. -/
def fcvtOp (f : BitVec 4) (mode : RMode) (x : Dword) (sr : Nat) : Nat × Flags :=
  let lo16 := x.toNat % 2 ^ 16
  let lo32 := x.toNat % 2 ^ 32
  let lo64 := x.toNat
  match f.toNat with
  | 0 => fCvt fmtF64 fmtF32 mode false lo64 sr
  | 1 => fCvt fmtF32 fmtF64 mode false lo32 sr
  | 2 => fCvt fmtF32 fmtBF16 mode false lo32 sr
  | 3 => fCvt fmtF32 fmtF16 mode false lo32 sr
  | 4 => fCvt fmtF32 fmtE4M3 mode false lo32 sr
  | 5 => fCvt fmtF32 fmtE5M2 mode false lo32 sr
  | 6 => fCvt fmtF32 fmtE4M3 mode true lo32 sr
  | 7 => fCvt fmtF32 fmtE5M2 mode true lo32 sr
  | 8 => fCvt fmtBF16 fmtF32 mode false lo16 sr
  | 9 => fCvt fmtF16 fmtF32 mode false lo16 sr
  | 10 => intTo64 (toInt mode (-2 ^ 63) (2 ^ 63 - 1) (decodeF fmtF32 lo32) sr)
  | 11 => intTo64 (toInt mode (-2 ^ 63) (2 ^ 63 - 1) (decodeF fmtF64 lo64) sr)
  | 12 => ofInt fmtF32 mode false x.toInt sr
  | 13 => ofInt fmtF64 mode false x.toInt sr
  | 14 => intTo64 (toInt mode 0 (2 ^ 64 - 1) (decodeF fmtF64 lo64) sr)
  | _ => ofInt fmtF64 mode false x.toNat sr

/-- `fcvt` (R126): sB gives the coordinates of stochastic rounding. -/
def execFcvt (d a b : BitVec 6) (f : BitVec 4) (s : State) : Result :=
  floatWord (.fcvt d a b f) s d (fun t =>
    fcvtOp f t.rmode (t.sc a) (t.mixAt ((t.sc b).extractLsb' 32 32) ((t.sc b).setWidth 32)))

end Sys2Proof.Machine
end

