-- ==== Sys2Proof/Machine/Flow.lean ====
section
/-! DEFINITION. Control flow and zero-overhead loops (09_control_instructions.md R127 to R133). Fetch has stopped at the word (R127);
its issue fixes the next fetch address and lets fetch go on. -/

namespace Sys2Proof.Machine

/-- Fetch continues at `pc`. -/
def Strand.fetchAt (t : Strand) (pc : Dword) : Strand := { t with pc := pc, fetchHold := false }

/-- A branch or jump target: the address of the branch word plus 4 × offset (R80). -/
def target (u : EUnit) (off : Int) : Dword := u.taddr + BitVec.ofInt 64 (4 * off)

/-- A conditional branch (R128). -/
def branchWord (i : Instr) (o : BitVec 10) (cond : Strand → Bool) (s : State) : Result :=
  .next (issue i s (fun s => .ok (s.onCs (fun t =>
    t.fetchAt (if cond t then target t.unit (t.unit.immS o) else t.unit.next)))))

def execBeq (a b : BitVec 6) (o : BitVec 10) (s : State) : Result := branchWord (.beq a b o) o (fun t => t.sc a == t.sc b) s
def execBne (a b : BitVec 6) (o : BitVec 10) (s : State) : Result := branchWord (.bne a b o) o (fun t => t.sc a != t.sc b) s
def execBltS (a b : BitVec 6) (o : BitVec 10) (s : State) : Result :=
  branchWord (.bltS a b o) o (fun t => decide ((t.sc a).toInt < (t.sc b).toInt)) s
def execBltN (a b : BitVec 6) (o : BitVec 10) (s : State) : Result :=
  branchWord (.bltN a b o) o (fun t => decide ((t.sc a).toNat < (t.sc b).toNat)) s
def execBgeS (a b : BitVec 6) (o : BitVec 10) (s : State) : Result :=
  branchWord (.bgeS a b o) o (fun t => decide ((t.sc b).toInt ≤ (t.sc a).toInt)) s
def execBgeN (a b : BitVec 6) (o : BitVec 10) (s : State) : Result :=
  branchWord (.bgeN a b o) o (fun t => decide ((t.sc b).toNat ≤ (t.sc a).toNat)) s

/-- `jmp` (R129). -/
def execJmp (o : BitVec 22) (s : State) : Result :=
  .next (issue (.jmp o) s (fun s => .ok (s.onCs (fun t => t.fetchAt (target t.unit (t.unit.immS o))))))

/-- `jal`: s1 takes the address after the word (R129). -/
def execJal (o : BitVec 22) (s : State) : Result :=
  .next (issue (.jal o) s (fun s => .ok (s.onCs (fun t =>
    (t.setSc 1 t.unit.next).fetchAt (target t.unit (t.unit.immS o))))))

/-- `jr`: the target is read before sD is written (R129). -/
def execJr (d a : BitVec 6) (s : State) : Result :=
  .next (issue (.jr d a) s (fun s => .ok (s.onCs (fun t =>
    (t.setSc d t.unit.next).fetchAt (t.sc a &&& ~~~3)))))

/-- The loop words (R131): both checks come before the count. -/
def loopWord (i : Instr) (off : Int) (count : Strand → Dword) (s : State) : Result :=
  .next (issue i s (fun s =>
    let t := s.cs
    let stop := target t.unit off
    let crosses := match t.loops with
      | [] => false
      | l :: _ => decide (l.stop.toNat < stop.toNat)
    if 4 ≤ t.loops.length || crosses then .trap .illegalField (t.unit.word.setWidth 64)
    else if count t = 0 then .ok (s.onCs (fun t => t.fetchAt (stop + 4)))
    else .ok (s.onCs (fun t =>
      { t.fetchAt t.unit.next with loops := ⟨t.unit.next, stop, count t⟩ :: t.loops }))))

def execLoop (a : BitVec 6) (o : BitVec 16) (s : State) : Result :=
  loopWord (.loop a o) (s.cs.unit.immS o) (fun t => t.sc a) s
def execLoopi (c : BitVec 10) (o : BitVec 12) (s : State) : Result :=
  loopWord (.loopi c o) (s.cs.unit.immS o) (fun _ => c.setWidth 64) s

/-- The back-edge test at the fetch of a non-EXT word at `addr` (R131): the levels that end there, innermost first, until one has
iterations left. The result is the loop stack and the next fetch address. Assumption 42, DEDUCED. -/
def backEdge (addr : Dword) : List LoopLevel → List LoopLevel × Dword
  | [] => ([], addr + 4)
  | l :: ls =>
    if l.stop = addr then
      if l.remaining.toNat ≤ 1 then backEdge addr ls
      else ({ l with remaining := l.remaining - 1 } :: ls, l.start)
    else (l :: ls, addr + 4)

/-- `lbrk` (R133). Where the condition fails, fetch goes on where the fetch of the word left it: at the word after, or at the start of
a body that ends with it (R131). Assumption 42, DEDUCED. -/
def execLbrk (l : BitVec 4) (z : BitVec 1) (a : BitVec 6) (s : State) : Result :=
  .next (issue (.lbrk l z a) s (fun s =>
    let t := s.cs
    let n := l.toNat + 1
    if t.loops.length < n then .trap .illegalField (t.unit.word.setWidth 64)
    else if (t.sc a != 0) != (z == 1) then
      match t.loops[n - 1]? with
      | some lv => .ok (s.onCs (fun t => { t.fetchAt (lv.stop + 4) with loops := t.loops.drop n }))
      | none => .wait
    else .ok (s.onCs (fun t => { t with fetchHold := false }))))

end Sys2Proof.Machine
end

