-- ==== Sys2Proof/Machine/Sync.lean ====
section
/-! DEFINITION. Barriers, event counters, CSRs, mailboxes, time and `trap` (09_control_instructions.md R134 to R146;
15_system_instructions.md R271 to R273). -/

namespace Sys2Proof.Machine

/-! Team barriers (R134 to R139). -/

def Team.barrier (m : Team) (b : BitVec 4) : Barrier := Sparse.get {} m.barriers b.toNat

def Team.setBarrier (m : Team) (b : BitVec 4) (x : Barrier) : Team := { m with barriers := Sparse.set {} m.barriers b.toNat x }

/-- The phase of the strand's latest arrival, or none. -/
def Strand.phaseOf (t : Strand) (b : BitVec 4) : Option Nat := Sparse.get none t.barPhase b.toNat

/-- A phase that completes: the next phase expects the strands that have not dropped. -/
def Barrier.settle (x : Barrier) : Barrier := if x.a = x.e then { e := x.e - x.p, a := 0, p := 0, phase := x.phase + 1 } else x

/-- One arrival, with a drop or without (R135). -/
def Barrier.arrive (x : Barrier) (drop : Bool) : Barrier :=
  Barrier.settle { x with a := x.a + 1, p := if drop then x.p + 1 else x.p }

/-- A strand that ends leaves the barrier (R137): its arrival in the current phase stands; else one fewer is expected at once. -/
def Barrier.leave (x : Barrier) (arrived : Bool) : Barrier :=
  if arrived then Barrier.settle { x with p := x.p + 1 } else Barrier.settle { x with e := x.e - 1 }

/-- The awaited phase has completed, or nothing is awaited (R135). -/
def phaseDone (t : Strand) (m : Team) (b : BitVec 4) : Bool :=
  match t.phaseOf b with
  | none => true
  | some p => decide (p < (m.barrier b).phase)

/-- Earlier ACC words of the strand that are not complete: a `.mem` arrival waits for them (R138). -/
def earlierAcc (t : Strand) : Bool :=
  t.q.acc.any (fun x => match x with | .unit u => decide (u.seq < t.unit.seq) | .joinMark _ => false) ||
  t.earlier.any (fun e => decide (e.unit.seq < t.unit.seq))

/-- The arrival itself on strand and team. -/
def State.arrive (s : State) (b : BitVec 4) (drop : Bool) : State :=
  let x := s.csTeam.barrier b
  let s := s.onTeam s.cs.team (fun m => m.setBarrier b (x.arrive drop))
  s.onCs (fun t => { t with
    barPhase := Sparse.set none t.barPhase b.toNat (some x.phase)
    barDropped := if drop then t.barDropped ||| BitVec.ofNat 16 (2 ^ b.toNat) else t.barDropped })

/-- Arrive(b, drop) of R135. -/
def arriveAct (b : BitVec 4) (m : BitVec 1) (drop : Bool) (s : State) : Act :=
  if s.cs.barDropped.getLsbD b.toNat then .trap .illegalField (s.cs.unit.word.setWidth 64)
  else if !phaseDone s.cs s.csTeam b || (m = 1 && earlierAcc s.cs) then .wait
  else .ok (s.arrive b drop)

def execBarArr (b : BitVec 4) (m : BitVec 1) (s : State) : Result := .next (issue (.barArr b m) s (arriveAct b m false))
def execBarDrop (b : BitVec 4) (m : BitVec 1) (s : State) : Result := .next (issue (.barDrop b m) s (arriveAct b m true))

/-- Wait(b) of R135. -/
def waitAct (b : BitVec 4) (s : State) : Act := if phaseDone s.cs s.csTeam b then .ok s else .wait

def execBarWait (b : BitVec 4) (m : BitVec 1) (s : State) : Result := .next (issue (.barWait b m) s (waitAct b))

/-- `bar.sync`: Arrive, then Wait, in one word. `syncArrived` says the first half is done. -/
def execBarSync (b : BitVec 4) (m : BitVec 1) (s : State) : Result :=
  .next (issue (.barSync b m) s (fun s =>
    let act := if s.cs.syncArrived then Act.ok s else arriveAct b m false s
    match act with
    | .ok s' =>
      if phaseDone s'.cs s'.csTeam b then .ok (s'.onCs (fun t => { t with syncArrived := false }))
      else .waitWith (s'.onCs (fun t => { t with syncArrived := true }))
    | other => other))

/-- A timed wait: 1 when it is satisfied, else 0 with STAT.TIMEOUT once TIME has reached the deadline (R139, R140). One whose deadline has
passed unsatisfied, on its tile or off it, stays a timeout whatever happens before the word's next attempt (R139, R141). -/
def timedWait (d : BitVec 6) (deadline : Dword) (done : Bool) (s : State) : Act :=
  if !s.cs.timeUp && done then .ok (s.onCs (fun t => t.setSc d 1))
  else if s.cs.timeUp || deadline.toNat ≤ s.time % 2 ^ 64 then
    .ok (s.onCs (fun t => ({ t with timeUp := false }.setSc d 0).setStat statTIMEOUT))
  else .wait

def execBarWaitt (b : BitVec 4) (m : BitVec 1) (d a : BitVec 6) (s : State) : Result :=
  .next (issue (.barWaitt b m d a) s (fun s => timedWait d (s.cs.sc a) (phaseDone s.cs s.csTeam b) s))

/-- A strand that ends leaves every barrier from which it has not dropped (R137). -/
def State.leaveBarriers (s : State) : State :=
  let t := s.cs
  s.onTeam t.team (fun m => (List.range 16).foldl (fun m k =>
    if t.barDropped.getLsbD k then m
    else
      let b := BitVec.ofNat 4 k
      m.setBarrier b ((m.barrier b).leave (t.phaseOf b == some (m.barrier b).phase))) m)

/-! Event counters (R140). -/

def execEvSig (e : BitVec 4) (s : State) : Result := .next (issue (.evSig e) s (fun s => .ok (s.onCs (fun t => t.bump e))))

def execEvWait (e : BitVec 4) (t : BitVec 8) (s : State) : Result :=
  .next (issue (.evWait e t) s (fun s => if satisfied (s.cs.ev e) t then .ok s else .wait))

def execEvWaitt (e : BitVec 4) (d a : BitVec 6) (s : State) : Result :=
  .next (issue (.evWaitt e d a) s (fun s =>
    timedWait d (s.cs.sc a) (satisfied (s.cs.ev e) ((s.cs.sc d).setWidth 8)) s))

/-! CSRs (R142, R271 to R273). -/

/-- Bits of STAT, FLAGS and the like as a CSR value. -/
def csrOf {w : Nat} (x : BitVec w) : Dword := x.setWidth 64

/-- DEVID (R20). -/
def State.devid (s : State) : Dword := (if s.assigned then 0 else 0x8000000000000000) ||| csrOf s.devNum

/-- The value of a CSR; none where the address is unassigned. -/
def csrRead (s : State) (c : BitVec 12) : Option Dword :=
  let t := s.cs
  match c.toNat with
  | 0x001 => some (csrOf t.flags)
  | 0x002 => some (csrOf t.rndm)
  | 0x003 => some (csrOf t.scbm)
  | 0x010 => some (BitVec.ofNat 64 t.sid)
  | 0x011 => some t.teamid
  | 0x012 => some t.teamsize
  | 0x013 => some (csrOf t.ctx)
  | 0x014 => some (csrOf t.tile)
  | 0x015 => some (csrOf t.die)
  | 0x016 => some s.devid
  | 0x020 => some t.tsbase
  | 0x021 => some t.dswbase
  | 0x030 => some (csrOf t.rbtab)
  | 0x031 => some t.srseed
  | 0x032 => some (csrOf t.srstream)
  | 0x040 => some t.lpb
  | 0x050 => some (BitVec.ofNat 64 s.time)
  | 0x060 => some (csrOf t.stat)
  | 0x800 => some ((if t.p then 1 else 0) ||| (if t.pp then 2 else 0))
  | 0x801 => some t.tvec
  | 0x802 => some (csrOf t.tcause)
  | 0x803 => some t.tval
  | 0x804 => some t.tepc
  | 0x805 => some (csrOf (t.tqHalted ++ (0 : BitVec 2) ++ t.tqNonempty))
  | 0x810 => some (csrOf t.part)
  | 0x811 => some (csrOf (s.array t.arrayNo).amode)
  | 0x812 => some (csrOf s.hangctl)
  | 0x820 => some (s.pcbReg t.part.toNat 0x018 &&& ~~~0xFFF)
  | 0x830 => some (s.walkProf 0)
  | 0x831 => some (s.walkProf 1)
  | 0x832 => some (s.walkProf 2)
  | 0x833 => some (s.walkProf 3)
  | _ => none

/-- The limits of a walker profile (R359). -/
def profileOk (p : Dword) : Bool :=
  let levels := p.toNat / 2 ^ 60 % 8
  let idxw := p.toNat / 2 ^ 56 % 16
  2 ≤ levels && levels ≤ 5 && 12 + levels * idxw ≤ 64 &&
  profField p 48 != 63 && profField p 42 != 63 && profField p 6 != 63 && profField p 0 != 63

/-- The array number of core pair `pair` of a tile (R13). -/
def arrayIndex (die : BitVec 2) (tile : BitVec 4) (core : Nat) : Nat := 64 * die.toNat + 4 * tile.toNat + core / 2

/-- A team is placed on a core of the array's pair (R48). Assumption 45, DEDUCED. -/
def State.pairBusy (s : State) (n : Nat) : Bool :=
  s.teams.any (fun m => m.placed && m.cores.any (fun c => arrayIndex m.die m.tile c == n))

/-- RBTAB as written: bits 8, 5:4 and 2:0; a P of 5 to 7 leaves P unchanged (R198). -/
def rbtabWrite (old : BitVec 9) (x : Dword) : BitVec 9 :=
  let p := if 5 ≤ x.toNat % 8 then old.toNat % 8 else x.toNat % 8
  ((x.setWidth 9) &&& 0x130) ||| BitVec.ofNat 9 p

/-- A write of a CSR field by field (R8, R142); none where the address is unassigned or read-only in the user map.
Assumption 45, DEDUCED. -/
def csrWrite (s : State) (c : BitVec 12) (x : Dword) : Option State :=
  let t := s.cs
  match c.toNat with
  | 0x001 => some (s.onCs (fun t => { t with flags := x.setWidth 5 }))
  | 0x002 => some (if 6 ≤ x.toNat % 8 then s else s.onCs (fun t => { t with rndm := x.setWidth 3 }))
  | 0x003 => some (if x.toNat % 4 = 3 then s else s.onCs (fun t => { t with scbm := x.setWidth 2 }))
  | 0x030 => some (s.onCs (fun t => { t with rbtab := rbtabWrite t.rbtab x }))
  | 0x031 => some (s.onCs (fun t => { t with srseed := x }))
  | 0x032 => some (s.onCs (fun t => { t with srstream := x.setWidth 32 }))
  | 0x060 => some (s.onCs (fun t => { t with stat := t.stat &&& ~~~(x.setWidth 6) }))
  | 0x800 => some (s.onCs (fun t => { t with pp := x.getLsbD 1 }))
  | 0x801 => some (s.onCs (fun t => { t with tvec := x &&& ~~~3 }))
  | 0x802 => some (s.onCs (fun t => { t with tcause := x.setWidth 11 }))
  | 0x803 => some (s.onCs (fun t => { t with tval := x }))
  | 0x804 => some (s.onCs (fun t => { t with tepc := x &&& ~~~3 }))
  | 0x805 | 0x810 | 0x820 => some s
  | 0x811 =>
    let a := s.array t.arrayNo
    some (if x.toNat % 4 = 3 || s.pairBusy t.arrayNo then s else s.setArray t.arrayNo { a with amode := x.setWidth 2 })
  | 0x812 => some { s with hangctl := x.setWidth 32 }
  | 0x830 => some (if profileOk x then s.setWalkProf 0 (x &&& ~~~0x8000000000000000) else s)
  | 0x831 => some (if profileOk x then s.setWalkProf 1 (x &&& ~~~0x8000000000000000) else s)
  | 0x832 => some (if profileOk x then s.setWalkProf 2 (x &&& ~~~0x8000000000000000) else s)
  | 0x833 => some (if profileOk x then s.setWalkProf 3 (x &&& ~~~0x8000000000000000) else s)
  | _ => none

/-- `csrr` (R142). -/
def execCsrr (d : BitVec 6) (c : BitVec 12) (s : State) : Result :=
  .next (issue (.csrr d c) s (fun s =>
    match csrRead s c with
    | some x => .ok (s.onCs (fun t => t.setSc d x))
    | none => .trap .illegalField (s.cs.unit.word.setWidth 64)))

/-- `csrw` (R142). -/
def execCsrw (a : BitVec 6) (c : BitVec 12) (s : State) : Result :=
  .next (issue (.csrw a c) s (fun s =>
    match csrWrite s c (s.cs.sc a) with
    | some s' => .ok s'
    | none => .trap .illegalField (s.cs.unit.word.setWidth 64)))

/-! Mailboxes (R143). -/

def Ctx.mailbox (c : Ctx) (n : Nat) : Dword := Sparse.get 0 c.mb n

def Ctx.setMailbox (c : Ctx) (n : Nat) (x : Dword) : Ctx := { c with mb := Sparse.set 0 c.mb n x }

/-- A change of a mailbox of a context, as one action. -/
def State.onMailbox (s : State) (h : Word) (n : Nat) (f : Dword → Dword) : State :=
  s.setCtx h ((s.ctx h).setMailbox n (f ((s.ctx h).mailbox n)))

def execMbrd (d : BitVec 6) (c : BitVec 1) (n : BitVec 3) (s : State) : Result :=
  .next (issue (.mbrd d c n) s (fun s =>
    let x := (s.ctx s.cs.ctx).mailbox n.toNat
    let s := if c = 1 then s.onMailbox s.cs.ctx n.toNat (fun _ => 0) else s
    .ok (s.onCs (fun t => t.setSc d x))))

def execMbwr (a : BitVec 6) (n : BitVec 3) (s : State) : Result :=
  .next (issue (.mbwr a n) s (fun s => .ok (s.onMailbox s.cs.ctx n.toNat (fun _ => s.cs.sc a))))

/-! Time (R144, R145) and `trap` (R146). -/

def execTime (d : BitVec 6) (s : State) : Result := .next (issue (.time d) s (fun s => .ok (s.onCs (fun t => t.setSc d (BitVec.ofNat 64 s.time)))))

def execTimeCyc (d : BitVec 6) (s : State) : Result := scalarWord (.timeCyc d) s d (fun t => BitVec.ofNat 64 t.cyc)

/-- `yield.pause` holds the CTRL queue for 64 cycles (R145), counted while the team is on its tile: the manual does not say what becomes of
them off it. Assumption 67, DESIGN CHOICE. -/
def execYieldPause (s : State) : Result :=
  .next (issue .yieldPause s (fun s =>
    match s.cs.pauseEnd with
    | none => .waitWith (s.onCs (fun t => { t with pauseEnd := some (t.cyc + 64) }))
    | some c => if c ≤ s.cs.cyc then .ok (s.onCs (fun t => { t with pauseEnd := none })) else .wait))

/-- `trap` (R146). -/
def execTrap (a : BitVec 6) (i : BitVec 16) (s : State) : Result :=
  .next (issue (.trap a i) s (fun s => .trap .userTrap (s.cs.sc a + BitVec.ofNat 64 (s.cs.unit.immN i))))

/-! Steps that end a CTRL wait (R139 to R141, R145). -/

/-- The head unit of the CTRL queue. -/
def Strand.ctrlHead (t : Strand) : Option EUnit :=
  match t.q.ctrl with
  | .unit u :: _ => some u
  | _ => none

/-- The head unit of the CTRL queue issues, and leaves the queue unless it must still wait or has trapped (its queue is then in the
frame, and the trapped unit with it). Its issue is progress (R355). -/
def State.issueCtrlHead (s : State) (u : EUnit) (f : State → Result) : Result :=
  match f (s.onCs (fun t => { t with unit := u, q := { t.q with ctrl := t.q.ctrl.drop 1 }, hangTimer := 0 })) with
  | .next s' =>
    .next (if s'.cs.held then
        s'.onCs (fun t => { t with q := { t.q with ctrl := .unit u :: t.q.ctrl }, hangTimer := s.cs.hangTimer })
      else s')
  | r => r

/-- The timed wait at the head of the CTRL queue of a strand stands unsatisfied although TIME has reached its deadline (R139). A word
that waits for its token, or that `held` says is held by other words of the strand, has not issued. -/
def Strand.lateWait (s : State) (held : EUnit → Bool) (t : Strand) : Bool :=
  match t.ctrlHead with
  | some u =>
    let late := fun (a : BitVec 6) => decide ((t.sc a).toNat ≤ s.time % 2 ^ 64)
    !t.tokHolds u && !held u && (match decodeCtrl u.word with
      | .ok (.barWaitt b _ _ a) => late a && !phaseDone t ((s.team? t.team).getD {}) b
      | .ok (.evWaitt e d a) => late a && !satisfied (t.ev e) ((t.sc d).setWidth 8)
      | _ => false)
  | none => false

/-- A timed wait whose deadline passes unsatisfied is a timeout from then on (R139 to R141). -/
def Strand.latchWait (s : State) (held : EUnit → Bool) (t : Strand) : Strand :=
  if t.lateWait s held then { t with timeUp := true } else t

/-- WAIT_DEADLINE: the timed wait at the head of the CTRL queue is settled at its deadline (R136, R139, R140). -/
def execWaitDeadline (s : State) : Result :=
  match s.cs.ctrlHead with
  | some u =>
    match decodeCtrl u.word with
    | .ok (.barWaitt b m d a) => s.issueCtrlHead u (execBarWaitt b m d a)
    | .ok (.evWaitt e d a) => s.issueCtrlHead u (execEvWaitt e d a)
    | _ => .next s
  | none => .next s

/-- YIELD_PAUSE_EXPIRY: the 64 cycles of the `yield.pause` at the head of the CTRL queue are over (R145). -/
def execYieldPauseExpiry (s : State) : Result :=
  match s.cs.ctrlHead with
  | some u =>
    match decodeCtrl u.word with
    | .ok .yieldPause => s.issueCtrlHead u execYieldPause
    | _ => .next s
  | none => .next s

end Sys2Proof.Machine
end

