-- ==== Sys2Proof/Machine/LoadStore.lean ====
section
/-! DEFINITION. Loads and stores of scalars, vectors, masks and descriptors (10_access_instructions.md R148, R150, R155 to R159,
R163, R165). -/

namespace Sys2Proof.Machine

/-- The address of a word of format AM (R148). -/
def addrAM (t : Strand) (a i : BitVec 6) (size : Nat) : Dword := t.sc a + BitVec.ofInt 64 (t.unit.immS i * size)

/-- The address is a multiple of `n` (R150). -/
def aligned (va : Dword) (n : Nat) : Bool := va.toNat % n = 0

/-- A request of an ACC word whose address must be aligned; MISALIGNED names the address (R150). -/
def alignedReq (s : State) (va : Dword) (n : Nat) (f : State → Act) : Act := if aligned va n then f s else .trap .misaligned va

/-! Scalars (R155). -/

def scalarLoad (i : Instr) (c : BitVec 4) (d a imm : BitVec 6) (size : Nat) (signed : Bool) (s : State) : Result :=
  .next (issue i s (fun s =>
    let va := addrAM s.cs a imm size
    alignedReq s va size (fun s => accReq s {
      kind := .load, elems := [⟨0, va, size⟩], dest := .scalar d size signed, base := [0], ord := s.cs.unit.ordOf c })))

def scalarStore (i : Instr) (c : BitVec 4) (d a imm : BitVec 6) (size : Nat) (s : State) : Result :=
  .next (issue i s (fun s =>
    let va := addrAM s.cs a imm size
    alignedReq s va size (fun s => accReq s {
      kind := .store, write := true, elems := [⟨0, va, size⟩], data := [(s.cs.sc d).setWidth 4096], ord := s.cs.unit.ordOf c })))

def execLdBS (c : BitVec 4) (d a i : BitVec 6) (s : State) : Result := scalarLoad (.ldBS c d a i) c d a i 1 true s
def execLdBN (c : BitVec 4) (d a i : BitVec 6) (s : State) : Result := scalarLoad (.ldBN c d a i) c d a i 1 false s
def execLdHS (c : BitVec 4) (d a i : BitVec 6) (s : State) : Result := scalarLoad (.ldHS c d a i) c d a i 2 true s
def execLdHN (c : BitVec 4) (d a i : BitVec 6) (s : State) : Result := scalarLoad (.ldHN c d a i) c d a i 2 false s
def execLdWS (c : BitVec 4) (d a i : BitVec 6) (s : State) : Result := scalarLoad (.ldWS c d a i) c d a i 4 true s
def execLdWN (c : BitVec 4) (d a i : BitVec 6) (s : State) : Result := scalarLoad (.ldWN c d a i) c d a i 4 false s
def execLdD (c : BitVec 4) (d a i : BitVec 6) (s : State) : Result := scalarLoad (.ldD c d a i) c d a i 8 false s
def execStB (c : BitVec 4) (d a i : BitVec 6) (s : State) : Result := scalarStore (.stB c d a i) c d a i 1 s
def execStH (c : BitVec 4) (d a i : BitVec 6) (s : State) : Result := scalarStore (.stH c d a i) c d a i 2 s
def execStW (c : BitVec 4) (d a i : BitVec 6) (s : State) : Result := scalarStore (.stW c d a i) c d a i 4 s
def execStD (c : BitVec 4) (d a i : BitVec 6) (s : State) : Result := scalarStore (.stD c d a i) c d a i 8 s

/-! Vectors (R156 to R158). -/

/-- The source vectors of the fields, popped in order (R38): `fields` are enable bit and field value. -/
def takeSources (u : EUnit) : List (Nat × BitVec 6) → Strand → List Vec × Strand
  | [], t => ([], t)
  | (k, x) :: fs, t =>
    match t.vname u k x with
    | .reg n =>
      let (vs, t') := takeSources u fs t
      (t.vr n :: vs, t')
    | .queue q =>
      let (e, t1) := t.popq q
      let (vs, t') := takeSources u fs t1
      (e.data :: vs, t')

/-- The 64-byte line at data offset 64 j as elements: whole, byte by byte where a mask selects some of it, or not at all (R158). -/
def lineElems (m : Mask) (masked : Bool) (j : Nat) (va : Dword) : List Elem :=
  let bits := (List.range 64).filter (fun k => m.getLsbD (64 * j + k))
  if !masked || bits.length = 64 then [⟨64 * j, va, 64⟩] else bits.map (fun k => ⟨64 * j + k, va + BitVec.ofNat 64 k, 1⟩)

/-- Eight lines at `va`, `va` + stride, … -/
def vecElems (t : Strand) (va stride : Dword) : List Elem :=
  let (m, _) := t.maskOf t.unit
  let masked := (t.unit.ext 4).isSome
  ((List.range 8).map (fun j => lineElems m masked j (va + BitVec.ofNat 64 j * stride))).flatten

/-- What a masked load to a register starts from: the old bytes under merge, zeros under zeroing; only active bytes are read into
it (R158). -/
def mergeBase (t : Strand) (n : Nat) : Vec :=
  if (t.unit.ext 4).isSome && !(t.maskOf t.unit).2 then t.vr n else 0

/-- The word's address or stride is misaligned; a word with no active byte makes no request and cannot fault (R150, R353). -/
def vecMisaligned (t : Strand) (va stride : Dword) : Bool :=
  (!aligned va 64 || !aligned stride 64) && !(vecElems t va stride).isEmpty

/-- A load of 512 bytes into field D (R156 to R158). -/
def vectorLoad (i : Instr) (c : BitVec 4) (d : BitVec 6) (va stride : Strand → Dword) (s : State) : Result :=
  .next (issue i s (fun s =>
    let t := s.cs
    if vecMisaligned t (va t) (stride t) then .trap .misaligned (va t)
    else
      let q : Req := { kind := .load, elems := vecElems t (va t) (stride t), ord := t.unit.ordOf c }
      match t.vname t.unit 19 d with
      | .reg n => accReq s { q with dest := .vecs [n], base := [mergeBase t n] }
      | .queue k => accReq s { q with dest := .queue k [(t.maskOf t.unit).1], base := [0] }))

/-- A store of 512 bytes from field D (R156 to R158). -/
def vectorStore (i : Instr) (c : BitVec 4) (d : BitVec 6) (va stride : Strand → Dword) (s : State) : Result :=
  .next (issue i s (fun s =>
    let t := s.cs
    if vecMisaligned t (va t) (stride t) then .trap .misaligned (va t)
    else
      let (vs, _) := takeSources t.unit [(19, d)] t
      accReq s { kind := .store, write := true, elems := vecElems t (va t) (stride t), data := [vs.headD 0], ord := t.unit.ordOf c }
        false (fun s => s.onCs (fun t => (takeSources t.unit [(19, d)] t).2))))

def execLdV (c : BitVec 4) (d a i : BitVec 6) (s : State) : Result := vectorLoad (.ldV c d a i) c d (fun t => addrAM t a i 512) (fun _ => 64) s
def execStV (c : BitVec 4) (d a i : BitVec 6) (s : State) : Result := vectorStore (.stV c d a i) c d (fun t => addrAM t a i 512) (fun _ => 64) s
def execLdVs (c : BitVec 4) (d a b : BitVec 6) (s : State) : Result := vectorLoad (.ldVs c d a b) c d (fun t => t.sc a) (fun t => t.sc b) s
def execStVs (c : BitVec 4) (d a b : BitVec 6) (s : State) : Result := vectorStore (.stVs c d a b) c d (fun t => t.sc a) (fun t => t.sc b) s

/-! Masks (R159) and descriptors (R163). -/

def blockLoad (i : Instr) (c : BitVec 4) (a imm : BitVec 6) (size : Nat) (kind : AccKind) (dest : Dest) (s : State) : Result :=
  .next (issue i s (fun s =>
    let va := addrAM s.cs a imm size
    alignedReq s va size (fun s => accReq s {
      kind := kind, elems := [⟨0, va, size⟩], dest := dest, base := [0], ord := s.cs.unit.ordOf c })))

def blockStore (i : Instr) (c : BitVec 4) (a imm : BitVec 6) (size : Nat) (kind : AccKind) (data : Strand → Vec) (s : State) : Result :=
  .next (issue i s (fun s =>
    let va := addrAM s.cs a imm size
    alignedReq s va size (fun s => accReq s {
      kind := kind, write := true, elems := [⟨0, va, size⟩], data := [data s.cs], ord := s.cs.unit.ordOf c })))

def execLdM (c d : BitVec 4) (a i : BitVec 6) (s : State) : Result := blockLoad (.ldM c d a i) c a i 128 .load (.mask d.toNat) s
def execStM (c d : BitVec 4) (a i : BitVec 6) (s : State) : Result :=
  blockStore (.stM c d a i) c a i 128 .store (fun t => (t.mr d.toNat).setWidth 4096) s
def execDld (c d : BitVec 4) (a i : BitVec 6) (s : State) : Result := blockLoad (.dld c d a i) c a i 64 .desc (.desc d.toNat) s
def execDst (c d : BitVec 4) (a i : BitVec 6) (s : State) : Result :=
  blockStore (.dst c d a i) c a i 64 .desc (fun t => (t.dr d.toNat).setWidth 4096) s

/-- `dset` (R163). -/
def execDset (d : BitVec 4) (a : BitVec 6) (k : BitVec 3) (s : State) : Result :=
  .next (issue (.dset d a k) s (fun s => .ok (s.onCs (fun t =>
    let m : Desc := (BitVec.ofNat 512 (2 ^ 64 - 1)) <<< (64 * k.toNat)
    t.setDr d.toNat ((t.dr d.toNat &&& ~~~m) ||| (((t.sc a).setWidth 512) <<< (64 * k.toNat)))))))

/-- `pref` has no effect on visible state and never faults (R165). -/
def execPref (l : BitVec 1) (a i : BitVec 6) (s : State) : Result := .next (issue (.pref l a i) s (fun s => .ok s))

end Sys2Proof.Machine
end

