-- ==== Sys2Proof/Machine/Stream.lean ====
section
/-! DEFINITION. Stream descriptors, stream fetches, gathers and scatters (10_access_instructions.md R160 to R167). -/

namespace Sys2Proof.Machine

/-! Descriptor fields (R160, R161). -/

def dBASE (x : Desc) : Nat := recField x 0x00 8
def dSCALEB (x : Desc) : Nat := recField x 0x08 8
def dSUPERB (x : Desc) : Nat := recField x 0x10 8
def dMETAB (x : Desc) : Nat := recField x 0x18 8
def dRSTRIDE (x : Desc) : Int := (BitVec.ofNat 64 (recField x 0x20 8)).toInt
def dROWS (x : Desc) : Nat := recField x 0x28 4
def dCOLS (x : Desc) : Nat := recField x 0x2C 4
def dSSTRIDE (x : Desc) : Nat := recField x 0x30 4
def dTROWS (x : Desc) : Nat := recField x 0x34 1
def dFMT (x : Desc) : Nat := recField x 0x35 1 % 16
def dMODE (x : Desc) : Nat := recField x 0x35 1 / 16
def dSPN (x : Desc) : Nat := recField x 0x36 1 % 4
def dORDER (x : Desc) : Nat := recField x 0x37 1 % 2
def dPOS (x : Desc) : Nat := recField x 0x38 4
def dTCOLS (x : Desc) : Nat := recField x 0x3C 2

/-- Bits of an element of a format code (R161). -/
def fmtBits (f : Nat) : Nat :=
  match f with
  | 0 => 4 | 1 => 6 | 2 => 6 | 3 => 8 | 4 => 8 | 5 => 16 | 6 => 16 | 7 => 32 | 8 => 4 | 9 => 4 | 10 => 8 | 11 => 8 | 12 => 16
  | 13 => 16 | 14 => 32 | _ => 4

def dBits (x : Desc) : Nat := fmtBits (dFMT x)

/-- Elements of a chunk (R161). -/
def dChunk (x : Desc) : Nat := if dBits x = 6 then 512 else 4096 / dBits x

/-- NQ4 (R58, R161). -/
def dNQ4 (x : Desc) : Bool := dFMT x == 15

/-- The format carries scales: SC24 or NQ4. -/
def dScaled (x : Desc) : Bool := dMODE x != 0 || dNQ4 x

/-- Elements of a scale block: 16 or 32 for SC24, 64 for NQ4. -/
def dBlock (x : Desc) : Nat := if dNQ4 x then 64 else if dMODE x = 1 then 16 else 32

/-- The scale mode is valid for the format (R161). -/
def dModeOk (x : Desc) : Bool :=
  match dMODE x with
  | 0 => true
  | 1 | 2 => dFMT x ≤ 4 || dFMT x == 10
  | _ => false

/-- The checks of R162. -/
def descOk (x : Desc) : Bool :=
  recField x 0x36 1 / 4 == 0 && recField x 0x37 1 / 2 == 0 && recField x 0x3E 2 == 0 &&
  dBASE x % 64 == 0 && recField x 0x20 8 % 64 == 0 &&
  1 ≤ dTROWS x && dTROWS x ≤ 128 && dTROWS x * dTCOLS x == dChunk x && dModeOk x &&
  (!dScaled x || (dTCOLS x % dBlock x == 0 && dCOLS x % dBlock x == 0 && dSCALEB x != 0)) &&
  (!dNQ4 x || dSUPERB x != 0) && (dSPN x == 0 || dMETAB x != 0)

/-- Ceiling of a quotient; 0 for a divisor of 0. -/
def ceilDiv (a b : Nat) : Nat := if b = 0 then 0 else (a + b - 1) / b

/-- An address as 64 bits. -/
def vaOf (i : Int) : Dword := BitVec.ofInt 64 i

/-- Byte address of the row start plus the bits of column `col` (R54, R161). -/
def elemAddr (x : Desc) (r col : Nat) : Dword := vaOf (dBASE x + r * dRSTRIDE x + (col * dBits x / 8 : Nat))

/-- Address of the scale, or scale code, of row r and block k (R161). -/
def scaleAddr (x : Desc) (r k : Nat) : Dword := vaOf (dSCALEB x + r * dSSTRIDE x + (if dNQ4 x then k else 3 * k) : Nat)

/-- Address of the NQ4 super-scale of row r and block k (R161). -/
def superAddr (x : Desc) (r k : Nat) : Dword := vaOf (dSUPERB x + 4 * ((r * ceilDiv (dCOLS x) 64 + k) / 256) : Nat)

/-- Byte of the metadata nibble of stored element e of row r (R208). -/
def metaAddr (x : Desc) (r e : Nat) : Dword := vaOf (dMETAB x + r * dCOLS x / 2 + e / 2 : Nat)

/-- One chunk row: the stream row, its first column, and its first element's index in the chunk. -/
structure CRow where
  r : Nat
  col : Nat
  i : Nat
  deriving DecidableEq, Repr

/-- Columns of a chunk row that lie within COLS. -/
def CRow.cols (x : Desc) (c : CRow) : Nat := min (dTCOLS x) (dCOLS x - c.col)

/-- Blocks of a chunk row that lie within COLS: a block lies wholly inside or outside (R162, R164). -/
def CRow.blocks (x : Desc) (c : CRow) : Nat := if dScaled x then c.cols x / dBlock x else 0

/-- Blocks of a full chunk row. -/
def rowBlocks (x : Desc) : Nat := if dScaled x then dTCOLS x / dBlock x else 0

/-- The raw images of a chunk: 0 the elements, 1 the scales, 2 and 3 one byte for each metadata nibble. -/
def chunkElems (x : Desc) (c : CRow) : List Elem :=
  let n := c.cols x
  let el := if n = 0 then [] else [(⟨c.i * dBits x / 8, elemAddr x c.r c.col, (n * dBits x + 7) / 8⟩ : Elem)]
  let sc := ((List.range (c.blocks x)).map (fun k =>
    let j := c.i / dTCOLS x * rowBlocks x + k
    let b := c.col / dBlock x + k
    if dNQ4 x then [(⟨512 + j, scaleAddr x c.r b, 1⟩ : Elem), ⟨512 + 64 + 4 * j, superAddr x c.r b, 4⟩]
    else [(⟨512 + 3 * j, scaleAddr x c.r b, 3⟩ : Elem)])).flatten
  let mt := if dSPN x = 0 then [] else (List.range n).map (fun t => (⟨1024 + c.i + t, metaAddr x c.r (c.col + t), 1⟩ : Elem))
  el ++ sc ++ mt

/-- The moves from the raw images to the entries: elements, then scales, then metadata. -/
def chunkPick (x : Desc) (c : CRow) : List (Nat × Nat × Nat) :=
  let b := dBits x
  let n := c.cols x
  let el := (List.range n).map (fun t => ((c.i + t) * b, (c.i + t) * b, b))
  let sc := ((List.range (c.blocks x)).map (fun k =>
    let j := c.i / dTCOLS x * rowBlocks x + k
    if dNQ4 x then [(4096 + 8 * j, 4096 + 8 * j, 8), (4096 + 8 * (64 + 4 * j), 4096 + 8 * (64 + 4 * j), 32)]
    else [(4096 + 24 * j, 4096 + 24 * j, 24)])).flatten
  let mbase := if dScaled x then 8192 else 4096
  let mt := if dSPN x = 0 then [] else (List.range n).map (fun t =>
    (mbase + 4 * (c.i + t), 8192 + 8 * (c.i + t) + (if (c.col + t) % 2 = 1 then 4 else 0), 4))
  el ++ sc ++ mt

/-- Bits i, i + 1, …, n of them. -/
def bitRun (i n : Nat) : Mask := (BitVec.ofNat 1024 (2 ^ n - 1)) <<< i

/-- The element masks of a chunk's entries (R164, R208). -/
def chunkMasks (x : Desc) (rows : List CRow) : List Mask :=
  let el := rows.foldl (fun m c => m ||| bitRun c.i (c.cols x)) 0
  let sc := rows.foldl (fun m c => m ||| bitRun (c.i / dTCOLS x * rowBlocks x) (c.blocks x)) 0
  [el] ++ (if dScaled x then [sc] else []) ++ (if dSPN x = 0 then [] else [el])

/-- Entries that a chunk makes: one, and one each for scales and metadata (R164). -/
def chunkEntries (x : Desc) : Nat := 1 + (if dScaled x then 1 else 0) + (if dSPN x = 0 then 0 else 1)

/-- The request that reads the rows of a chunk. -/
def chunkReq (x : Desc) (rows : List CRow) (kind : AccKind) : Req :=
  { kind := kind, elems := (rows.map (chunkElems x)).flatten, pick := (0, 0, 0) :: (rows.map (chunkPick x)).flatten,
    part := [0, 0, 0, 0], base := List.replicate (chunkEntries x) 0 }

/-- Chunks of a stream (R164). -/
def chunkTotal (x : Desc) : Nat := ceilDiv (dCOLS x) (dTCOLS x) * ceilDiv (dROWS x) (dTROWS x)

/-- The rows of chunk `c` that lie within ROWS (R164). -/
def chunkRows (x : Desc) (c : Nat) : List CRow :=
  let cpr := ceilDiv (dCOLS x) (dTCOLS x)
  let nb := ceilDiv (dROWS x) (dTROWS x)
  let (br, bc) := if dORDER x = 0 then (c / cpr, c % cpr) else (c % nb, c / nb)
  (List.range (dTROWS x)).filterMap (fun j =>
    let r := br * dTROWS x + j
    if r < dROWS x then some ⟨r, bc * dTCOLS x, j * dTCOLS x⟩ else none)

/-- `sfetch` (R164). -/
def execSfetch (c : BitVec 4) (d : BitVec 6) (a : BitVec 4) (b : BitVec 6) (s : State) : Result :=
  .next (issue (.sfetch c d a b) s (fun s =>
    let t := s.cs
    let x := t.dr a.toNat
    if !descOk x then .trap .illegalField (a.setWidth 64)
    else
      let k := if b = 0 then dPOS x else (t.sc b).toNat
      if chunkTotal x ≤ k then .trap .bounds (BitVec.ofNat 64 k)
      else
        let q := d.toNat - 56
        if t.qfree q < chunkEntries x then .wait
        else
          let rows := chunkRows x k
          accReq s { chunkReq x rows .sfetch with dest := .queue q (chunkMasks x rows), ord := t.unit.ordOf c } false
            (fun s => if b = 0 then s.onCs (fun t => t.setDr a.toNat
              ((x &&& ~~~((BitVec.ofNat 512 (2 ^ 32 - 1)) <<< 448)) ||| ((BitVec.ofNat 512 ((k + 1) % 2 ^ 32)) <<< 448))) else s)))

/-! Gathers and scatters (R166). -/

/-- Index i of an index vector, as n32. -/
def indexOf (v : Vec) (i : Nat) : Nat := (v.extractLsb' (32 * i) 32).toNat

/-- The active elements of a gather or scatter with their addresses. -/
def gathElems (t : Strand) (base : Dword) (idx : Vec) (size : Nat) : List Elem :=
  let m := (t.maskOf t.unit).1
  ((List.range 128).filter (fun i => m.getLsbD i)).map (fun i => ⟨i * size, base + BitVec.ofNat 64 (indexOf idx i * size), size⟩)

/-- The elements before the first misaligned one are translated first: the first failing element in order is reported (R166). -/
def gathAct (s : State) (size : Nat) (q : Req) (setup : State → State) : Act :=
  match q.elems.find? (fun e => !aligned e.va size) with
  | none => accReq s q false setup
  | some e =>
    match (planElems (spaceOf s.cs s.csTeam) q.akind (q.elems.takeWhile (fun e => aligned e.va size)) (s, [])).2 with
    | .error (.fault c, va) => .trap c va
    | _ => .trap .misaligned e.va

/-- Zero in every byte at or above `n`, and in the inactive elements under zeroing (R92, R166). -/
def gathBase (t : Strand) (n size : Nat) : Vec :=
  if (t.unit.ext 4).isSome && !(t.maskOf t.unit).2 then (t.vr n) &&& (BitVec.ofNat 4096 (2 ^ (8 * 128 * size) - 1)) else 0

def gather (i : Instr) (c : BitVec 4) (d a b : BitVec 6) (size : Nat) (s : State) : Result :=
  .next (issue i s (fun s =>
    let t := s.cs
    let (vs, _) := takeSources t.unit [(17, b)] t
    let el := gathElems t (t.sc a) (vs.headD 0) size
    let pop : State → State := fun s => s.onCs (fun t => (takeSources t.unit [(17, b)] t).2)
    let q : Req := { kind := .gather, elems := el, ord := t.unit.ordOf c }
    match t.vname t.unit 19 d with
    | .reg n => gathAct s size { q with dest := .vecs [n], base := [gathBase t n size] } pop
    | .queue k => gathAct s size { q with dest := .queue k [(t.maskOf t.unit).1 &&& bitRun 0 128], base := [0] } pop))

def scatter (i : Instr) (c : BitVec 4) (d a b : BitVec 6) (size : Nat) (s : State) : Result :=
  .next (issue i s (fun s =>
    let t := s.cs
    let (vs, _) := takeSources t.unit [(19, d), (17, b)] t
    let el := gathElems t (t.sc a) ((vs[1]?).getD 0) size
    gathAct s size { kind := .scatter, write := true, elems := el, data := [vs.headD 0], ord := t.unit.ordOf c }
      (fun s => s.onCs (fun t => (takeSources t.unit [(19, d), (17, b)] t).2))))

def execGathB (c : BitVec 4) (d a b : BitVec 6) (s : State) : Result := gather (.gathB c d a b) c d a b 1 s
def execGathH (c : BitVec 4) (d a b : BitVec 6) (s : State) : Result := gather (.gathH c d a b) c d a b 2 s
def execGathW (c : BitVec 4) (d a b : BitVec 6) (s : State) : Result := gather (.gathW c d a b) c d a b 4 s
def execScatB (c : BitVec 4) (d a b : BitVec 6) (s : State) : Result := scatter (.scatB c d a b) c d a b 1 s
def execScatH (c : BitVec 4) (d a b : BitVec 6) (s : State) : Result := scatter (.scatH c d a b) c d a b 2 s
def execScatW (c : BitVec 4) (d a b : BitVec 6) (s : State) : Result := scatter (.scatW c d a b) c d a b 4 s

/-- What inactive rows of `gathb` leave in a register under merge: the old bits of their elements, scales and metadata (R92, R167). -/
def gathbKeep (x : Desc) (active : Nat → Bool) : List (Nat × Nat × Nat) :=
  let mbase := if dScaled x then 8192 else 4096
  ((List.range (dTROWS x)).map (fun j =>
    if active j then []
    else
      let i := j * dTCOLS x
      let el := [(i * dBits x, dTCOLS x * dBits x)]
      let sc := if !dScaled x then [] else if dNQ4 x then
          [(4096 + 8 * (j * rowBlocks x), 8 * rowBlocks x), (4096 + 8 * (64 + 4 * (j * rowBlocks x)), 32 * rowBlocks x)]
        else [(4096 + 24 * (j * rowBlocks x), 24 * rowBlocks x)]
      let mt := if dSPN x = 0 then [] else [(mbase + 4 * i, 4 * dTCOLS x)]
      (el ++ sc ++ mt).map (fun p => (p.1, p.1, p.2)))).flatten

/-- `gathb` (R167): the descriptor's checks come first, whatever rows are active. -/
def execGathb (c : BitVec 4) (d : BitVec 6) (tr : BitVec 1) (a : BitVec 4) (b : BitVec 6) (s : State) : Result :=
  .next (issue (.gathb c d tr a b) s (fun s =>
    let t := s.cs
    let x := t.dr a.toNat
    let (m, zeroing) := t.maskOf t.unit
    let act := (List.range (dTROWS x)).filter (fun j => m.getLsbD j)
    if !descOk x then .trap .illegalField (a.setWidth 64)
    else
      let (vs, _) := takeSources t.unit [(17, b)] t
      let idx := vs.headD 0
      let oob := act.filter (fun j => dROWS x ≤ indexOf idx j)
      match oob with
      | j :: _ =>
        if tr = 1 then .trap .bounds (BitVec.ofNat 64 (indexOf idx j)) else go s t x idx act oob zeroing
      | [] => go s t x idx act oob zeroing))
where
  /-- The gather itself, once no bounds trap is due. -/
  go (s : State) (t : Strand) (x : Desc) (idx : Vec) (act oob : List Nat) (zeroing : Bool) : Act :=
    let rows := (act.filter (fun j => !oob.contains j)).map (fun j => (⟨indexOf idx j, 0, j * dTCOLS x⟩ : CRow))
    let setup : State → State := fun s => s.onCs (fun t =>
      let t := (takeSources t.unit [(17, b)] t).2
      if oob.isEmpty then t else t.setStat statOOB)
    let q := { chunkReq x rows .gathb with ord := t.unit.ordOf c }
    match t.vname t.unit 19 d with
    | .queue k =>
      let popped := match t.vname t.unit 17 b with | .queue k' => if k' = k then 1 else 0 | .reg _ => 0
      if t.qfree k + popped < chunkEntries x then .wait
      else accReq s { q with dest := .queue k (chunkMasks x rows) } false setup
    | .reg n =>
      let regs := (List.range (chunkEntries x)).map (fun j => (n + j) % 256)
      if regs.any (fun r => s.csTeam.hdr.nv ≤ r) || (!t.unit.indirect 19 && 56 ≤ n + chunkEntries x - 1) then
        .trap .illegalField (t.unit.word.setWidth 64)
      else
        let old := regs.map t.vr
        let keep := if (t.unit.ext 4).isSome && !zeroing then gathbKeep x (fun j => act.contains j) else []
        let base := keep.foldl (fun imgs p => setImgBits imgs p.1 p.2.2 (imgBits old p.2.1 p.2.2)) q.base
        accReq s { q with dest := .vecs regs, base := base } false setup

end Sys2Proof.Machine
end

