-- ==== Sys2Proof/Machine/Ring.lean ====
section
/-! DEFINITION. Ring words and scratchpad windows (10_access_instructions.md R168 to R171). -/

namespace Sys2Proof.Machine

/-! The ring header (R168). -/

def hBASE (h : Desc) : Nat := recField h 0x00 4
def hSLOTSZ (h : Desc) : Nat := recField h 0x04 4
def hNSLOT (h : Desc) : Nat := recField h 0x08 2
def hFLAGS (h : Desc) : Nat := recField h 0x0A 2
def hEND (h : Desc) : Bool := hFLAGS h % 2 == 1
def hBOUND (h : Desc) : Bool := hFLAGS h / 2 % 2 == 1
def hPCLAIM (h : Desc) : Nat := recField h 0x10 8
def hTAIL (h : Desc) : Nat := recField h 0x18 8
def hCCLAIM (h : Desc) : Nat := recField h 0x20 8
def hHEAD (h : Desc) : Nat := recField h 0x28 8
def hPUBMAP (h : Desc) : Nat := recField h 0x30 8
def hRELMAP (h : Desc) : Nat := recField h 0x38 8

/-- A record with `n` bytes at byte offset `off` replaced. -/
def setField {w : Nat} (h : BitVec w) (off n x : Nat) : BitVec w :=
  (h &&& ~~~((BitVec.ofNat w (2 ^ (8 * n) - 1)) <<< (8 * off))) ||| ((BitVec.ofNat w (x % 2 ^ (8 * n))) <<< (8 * off))

/-- The limits of R168 that a ring word tests: NSLOT, SLOTSZ and the reserved fields. -/
def ringOk (h : Desc) : Bool :=
  [2, 4, 8, 16, 32, 64].contains (hNSLOT h) && hSLOTSZ h % 512 == 0 && 512 ≤ hSLOTSZ h && hSLOTSZ h ≤ 65536 &&
  hFLAGS h / 4 == 0 && recField h 0x0C 4 == 0

/-- The count moves over the consecutive slots that a map marks, clearing their bits (R169). -/
def advance : Nat → Nat → Nat → Nat × Nat
  | 0, c, m => (c, m)
  | n + 1, c, m => if m / 2 ^ (c % 64) % 2 = 1 then advance n (c + 1) (m - 2 ^ (c % 64)) else (c, m)

/-- Map bits of the slots from `c` on, `n` of them, cleared. -/
def clearSlots : Nat → Nat → Nat → Nat
  | 0, _, m => m
  | n + 1, c, m => clearSlots n (c + 1) (if m / 2 ^ (c % 64) % 2 = 1 then m - 2 ^ (c % 64) else m)

/-- `rpub` of slot `k`; none where it is out of range or already marked (R169). -/
def publish (h : Desc) (k : Nat) : Option Desc :=
  if hTAIL h ≤ k && k < hPCLAIM h && hPUBMAP h / 2 ^ (k % 64) % 2 = 0 then
    let (tail, map) := advance 64 (hTAIL h) (hPUBMAP h + 2 ^ (k % 64))
    some (setField (setField h 0x18 8 tail) 0x30 8 map)
  else none

/-- `rrel` of slot `k`. -/
def release (h : Desc) (k : Nat) : Option Desc :=
  if hHEAD h ≤ k && k < hTAIL h && hRELMAP h / 2 ^ (k % 64) % 2 = 0 then
    let (head, map) := advance 64 (hHEAD h) (hRELMAP h + 2 ^ (k % 64))
    some (setField (setField h 0x28 8 head) 0x38 8 map)
  else none

/-! Ring words. -/

/-- How the 64 bytes of a header are reached: with their plan and the header, or as a request ends that is not performed. -/
inductive HRes where
  | ok (s : State) (plan : List (Nat × Loc)) (h : Desc)
  | stop (out : ROut)
  deriving DecidableEq, Repr

/-- The header at an address: aligned, translated whole, readable and undamaged; its lines leave every L1 (R151, R169, R349, R356). A header
at another device raises FABRIC_ERROR: the manual does not name that case (assumption 66, DESIGN CHOICE). -/
def headerAt (s : State) (sp : Space) (va : Dword) (k : AKind) : HRes :=
  if !aligned va 64 then .stop (.trap .misaligned va)
  else
    match planElems sp k [⟨0, va, 64⟩] (s, []) with
    | (_, .error (r, x)) => .stop (match r with
      | .fault c => .trap c x
      | .moving obj => .held obj
      | .snoop .. | .busy | .ok _ => .again (askFor s r)
      | r => .park r x)
    | (s', .ok plan) =>
      match resolveFab s' (fld sp.ctx 16 6) k plan with
      | .error (o, .fault c) => .stop (.trap c (va + BitVec.ofNat 64 o))
      | .error (_, r) => .stop (.again (askFor s r))
      | .ok plan =>
        let lines := fun (l : L1Line) => l.meets (plan.map (·.2.key))
        if plan.any (fun p => p.2.isFab) then .stop (.trap .fabricError va)
        else match (plan.findSome? (fun p => devWait s' k.writes p.2.key)).orElse (fun _ => l1Waits s' lines) with
          | some r => .stop (.again (askFor s r))
          | none => match badByte s' false plan with
            | some o => .stop (.trap .uncorrectable (va + BitVec.ofNat 64 o))
            | none =>
              let s' := flushL1 s' false lines
              .ok s' plan (((readPlan s'.mem [0] plan).headD 0).setWidth 512)

/-- The memory key of a header. -/
def planKey (plan : List (Nat × Loc)) : Nat := match plan with | p :: _ => p.2.key | [] => 0

/-- Writing a header back. -/
def putHeader (s : State) (plan : List (Nat × Loc)) (h : Desc) : State := { s with mem := writePlan s.mem [h.setWidth 4096] plan }

/-- The die and tile of a tile SRAM key, as 16 die + tile. -/
def keyTile (key : Nat) : Nat := (key - 2 ^ 40) / 2 ^ 22

/-- The scope of a ring word's acquire or release (R169): tile for a header in the strand's own tile, die for any other. -/
def ringScope (t : Strand) (plan : List (Nat × Loc)) : BitVec 3 :=
  if isTile (planKey plan) && keyTile (planKey plan) == t.die.toNat * 16 + t.tile.toNat then 2 else 3

/-- `rwaite` and `rwaitf` only read the header. -/
def RingOp.akind : RingOp → AKind
  | .waitFree _ | .waitFull _ => .read
  | _ => .rw

/-- Bytes of a chunk image: the elements entry, and the scale entry where the format is scaled. -/
def imageSize (x : Desc) : Nat := if dScaled x then 1024 else 512

/-- A window whose stream still has chunks to deliver. -/
def Window.filling (w : Window) : Bool := w.next < chunkTotal w.desc

/-- How a ring word acts on the header it has reached: done, with the value of its destination and a bit of STAT; its condition does not
hold yet; or ILLEGAL_FIELD with the word. -/
inductive RingRes where
  | done (s : State) (v : Dword := 0) (stat : BitVec 6 := 0)
  | wait
  | illegal
  deriving DecidableEq, Repr

/-- `rpub` and `rrel`: out of range only STAT.OOB is set (R169). -/
def markSlot (s : State) (plan : List (Nat × Loc)) : Option Desc → RingRes
  | some h => .done (putHeader s plan h)
  | none => .done s 0 statOOB

/-- `wadv` of `n` slots (R171); `s` is the state after its release. -/
def advanceSlots (s : State) (rel : State) (plan : List (Nat × Loc)) (h : Desc) (n : Nat) : RingRes :=
  if hNSLOT h < n then .illegal
  else if hTAIL h < hHEAD h + n then .wait
  else if n = 0 then .done s
  else
    let head := hHEAD h + n
    let h := setField h 0x38 8 (clearSlots n (hHEAD h) (hRELMAP h))
    .done (putHeader rel plan (setField (setField h 0x28 8 head) 0x20 8 (max (hCCLAIM h) head)))

/-- `wmap` (R170). The issue of a `wmap` whose own fill fault was reported resumes its filling. A first chunk at or past the end of the
stream binds, and END is set at once; a header that does not lie in tile SRAM raises ILLEGAL_FIELD: the manual names neither case
(assumption 66, DESIGN CHOICE). -/
def mapWindow (s : State) (t : Strand) (u : EUnit) (priv : Bool) (plan : List (Nat × Loc)) (h : Desc) (x : Desc) (first : Nat) : RingRes :=
  let key := planKey plan
  let mine := s.windows.find? (fun w => w.ring == key)
  let resumes := match mine with
    | some w => w.stopped && w.team == t.team && w.sid == t.sid && w.unit.addr == u.addr
    | none => false
  if resumes then .done { s with windows := s.windows.map (fun w => if w.ring == key then { w with stopped := false } else w) }
  else if !isTile key || hSLOTSZ h % imageSize x ≠ 0 then .illegal
  else if (match mine with | some w => w.filling | none => false) then .wait
  else if mine.isNone && 16 ≤ (s.windows.filter (fun w => w.tile == keyTile key)).length then .wait
  else
    let n := s.nextId
    let w : Window := {
      id := n, ring := key, tile := keyTile key, team := t.team, sid := t.sid, ctx := t.ctx, priv := priv, unit := u, desc := x,
      next := first, start := first }
    let h := setField (setField h 0x0A 2 (if chunkTotal x ≤ first then 3 else 2)) 0x10 8 0
    let h := [0x18, 0x20, 0x28, 0x30, 0x38].foldl (fun h o => setField h o 8 0) h
    .done { putHeader s plan h with nextId := n + 1, windows := s.windows.filter (fun w => w.ring ≠ key) ++ [w] }

/-- The effect of a ring word of the unit `u` of a strand on its header (R169 to R171). `wmap.off` leaves END as it is: the manual says no
more than that the ring is unbound (assumption 66, DESIGN CHOICE). -/
def ringDo (s : State) (t : Strand) (u : EUnit) (priv : Bool) (plan : List (Nat × Loc)) (h : Desc) : RingOp → RingRes
  | .claim off => let n := recField h off 8; .done (putHeader s plan (setField h off 8 (n + 1))) (BitVec.ofNat 64 n)
  | .waitFree k => if k < hHEAD h + hNSLOT h then .done (acquireL1 s t.l1No (ringScope t plan)) else .wait
  | .waitFull k =>
    let acq := acquireL1 s t.l1No (ringScope t plan)
    if k < hTAIL h then .done acq 1 else if hEND h then .done acq 0 statEMPTY else .wait
  | .publish k => markSlot (releaseL1 s t.l1No (ringScope t plan)) plan (publish h k)
  | .release k => markSlot (releaseL1 s t.l1No (ringScope t plan)) plan (release h k)
  | .advance n => advanceSlots s (releaseL1 s t.l1No (ringScope t plan)) plan h n
  | .map x first => mapWindow s t u priv plan h x first
  | .unmap =>
    .done { putHeader s plan (setField h 0x0A 2 (if hEND h then 1 else 0)) with windows := s.windows.filter (fun w => w.ring ≠ planKey plan) }

/-- The request of a ring word. -/
def ringReq (cls : BitVec 4) (va : Dword) (d : Dest) (op : RingOp) : Req :=
  { kind := .ring, write := op.akind.writes, elems := [⟨0, va, 64⟩], dest := d, base := [0], ring := some op, ord := { cls := cls } }

/-- The L1 lines of the core that the order of a ring word writes back. -/
def ringWaits (s : State) (t : Strand) (plan : List (Nat × Loc)) : Option TRes :=
  if 3 ≤ (ringScope t plan).toNat then l1Waits s (·.core == t.l1No) else none

/-- A ring word on its header, once that is reached: a word whose condition does not hold is tried again. -/
def ringOut (s0 s : State) (t : Strand) (u : EUnit) (priv : Bool) (va : Dword) (plan : List (Nat × Loc)) (h : Desc) (op : RingOp) : ROut :=
  if !ringOk h then .trap .illegalField va
  else match ringWaits s t plan with
    | some r => .again (askFor s0 r)
    | none => match ringDo s t u priv plan h op with
      | .done s v stat => .done (s.onStrand t.team t.sid (fun t => t.setStat stat)) [v.setWidth 4096]
      | .wait => .again s0
      | .illegal => .trap .illegalField (u.word.setWidth 64)

/-- A ring word of class `cls`, once the record has room for its entry and after the earlier accesses of its class (R154, R311):
alignment, translation, a fill fault to report, the header's limits, and then its effect on the header (R168 to R170). A word whose
header a migration holds or a fault park waits for has its record entry from then on; one whose condition does not hold stays at the head
of the ACC queue and tests again (R169). Assumption 54, DEDUCED. -/
def ringAct (s : State) (cls : BitVec 4) (va : Dword) (d : Dest) (op : RingOp) : Act :=
  let q := ringReq cls va d op
  if recordBusy s q then .wait
  else match headerAt s (accSpace s.cs s.csTeam s.cs.p) va op.akind with
  | .stop out => actOf s q false id out
  | .ok s' plan h =>
    match s'.windows.find? (fun w => w.ring == planKey plan && w.team == s.cs.team && w.sid == s.cs.sid && w.fault.isSome) with
    | some w =>
      let (c, v) := w.fault.getD (.protection, 0)
      let s := { s' with windows := s'.windows.map (fun x => if x.id == w.id then { x with fault := none, stopped := true } else x) }
      .deferred s w.unit c v
    | none => match ringOut s s' s.cs s.cs.unit s.cs.p va plan h op with
      | .again t => if t = s then .wait else .waitWith t
      | out => actOf s q false id out

/-- A record entry of a strand is performed again. A ring word whose condition does not hold is tried again later. -/
def retryEntry (s : State) (t : Strand) (seq : Nat) : State :=
  match t.entry? seq with
  | none => s
  | some e => retried s t e (match e.req.ring with
    | none => runReq s (entrySpace s t e) e.req (e.here == 2)
    | some op => match headerAt s (entrySpace s t e) e.req.first op.akind with
      | .stop out => out
      | .ok s' plan h => ringOut s s' t e.unit e.priv e.req.first plan h op)

/-! The ring words. -/

/-- `rclaim.p` and `rclaim.c`. Assumption 54, DEDUCED. -/
def claimWord (i : Instr) (c : BitVec 4) (d a : BitVec 6) (off : Nat) (s : State) : Result :=
  .next (issue i s (fun s => ringAct s c (s.cs.sc a) (.scalar d 8 false) (.claim off)))

def execRclaimP (c : BitVec 4) (d a : BitVec 6) (s : State) : Result := claimWord (.rclaimP c d a) c d a 0x10 s
def execRclaimC (c : BitVec 4) (d a : BitVec 6) (s : State) : Result := claimWord (.rclaimC c d a) c d a 0x20 s

/-- `rwaite` (R169). -/
def execRwaite (c : BitVec 4) (a b : BitVec 6) (s : State) : Result :=
  .next (issue (.rwaite c a b) s (fun s => ringAct s c (s.cs.sc a) .none (.waitFree (s.cs.sc b).toNat)))

/-- `rwaitf` (R169). -/
def execRwaitf (c : BitVec 4) (d a b : BitVec 6) (s : State) : Result :=
  .next (issue (.rwaitf c d a b) s (fun s => ringAct s c (s.cs.sc a) (.scalar d 8 false) (.waitFull (s.cs.sc b).toNat)))

def execRpub (c : BitVec 4) (a b : BitVec 6) (s : State) : Result :=
  .next (issue (.rpub c a b) s (fun s => ringAct s c (s.cs.sc a) .none (.publish (s.cs.sc b).toNat)))
def execRrel (c : BitVec 4) (a b : BitVec 6) (s : State) : Result :=
  .next (issue (.rrel c a b) s (fun s => ringAct s c (s.cs.sc a) .none (.release (s.cs.sc b).toNat)))

/-- `wadv` (R171). -/
def execWadv (c : BitVec 4) (a b : BitVec 6) (s : State) : Result :=
  .next (issue (.wadv c a b) s (fun s => ringAct s c (s.cs.sc a) .none (.advance (s.cs.sc b).toNat)))

/-- `wmap` (R170). -/
def execWmap (c d : BitVec 4) (a b : BitVec 6) (s : State) : Result :=
  .next (issue (.wmap c d a b) s (fun s =>
    let x := s.cs.dr d.toNat
    if !descOk x then .trap .illegalField (d.setWidth 64)
    else ringAct s c (s.cs.sc a) .none (.map x (if b = 0 then 0 else (s.cs.sc b).toNat))))

/-- `wmap.off` (R170). -/
def execWmapOff (c : BitVec 4) (a : BitVec 6) (s : State) : Result :=
  .next (issue (.wmapOff c a) s (fun s => ringAct s c (s.cs.sc a) .none .unmap))

/-! Filling windows (R170). -/

/-- A place in tile SRAM as the copy engine of a window reaches it for a partition: an object page there may be migrating (R301), and a
line that is written whole needs no pull (R302). -/
def sramPlace (s : State) (part : BitVec 6) (full : Bool) (key : Nat) : State × TRes :=
  match s.pdes.find? (fun p => p.tier ≠ 2 && p.frame == key / 2 ^ 16 * 2 ^ 16 && BitVec.extractLsb' 42 6 p.obj == part) with
  | some p => pageByte s p full (key % 2 ^ 16)
  | none => (s, .ok (.dev key))

/-- The places of `n` lines of 64 bytes from a tile SRAM address on, for a write that covers them; else how the first fails. -/
def slotPlaces (part : BitVec 6) (a : Nat) : Nat → State → Except TRes (State × List Nat)
  | 0, s => .ok (s, [])
  | n + 1, s => match sramPlace s part true a with
    | (s, .ok l) => (slotPlaces part (a + 64) n s).map (fun r => (r.1, l.key :: r.2))
    | (_, r) => .error r

/-- Bytes put into lines of 64 at their places. -/
def putLines (s : State) (places : List Nat) (bytes : List Byte) : State :=
  { s with mem := places.zipIdx.foldl (fun m p => setBytes m p.1 ((bytes.drop (64 * p.2)).take 64)) s.mem }

/-- A slot lies in frames of the team, or in T0 frames of objects of its partition (R280). -/
def slotAllowed (s : State) (m : Team) (a n : Nat) : Bool :=
  (List.range ((a + n - 1) / 2 ^ 16 + 1 - a / 2 ^ 16)).all (fun k =>
    let f := (a / 2 ^ 16 + k) * 2 ^ 16
    (keyTile f == m.die.toNat * 16 + m.tile.toNat && m.frames.contains (f / 2 ^ 16 % 64)) ||
    s.pdes.any (fun p => p.tier = 0 && p.frame == f && BitVec.extractLsb' 42 6 p.obj == fld m.ctx 16 6))

/-- A change of one window. -/
def State.onWindow (s : State) (id : Nat) (f : Window → Window) : State :=
  { s with windows := s.windows.map (fun w => if w.id == id then f w else w) }

/-- The bytes of a window's header. -/
def windowHeader (s : State) (w : Window) : Desc := BitVec.ofNat 512 (memNat s.mem w.ring 64)

/-- The tile SRAM address of a slot of a window. -/
def slotAddr (w : Window) (h : Desc) (k : Nat) : Nat := tileBase (w.tile / 16) (w.tile % 16) + hBASE h + k % hNSLOT h * hSLOTSZ h

/-- A change of the header of a window whose place allows it now. -/
def putWindow (s : State) (w : Window) (h : Desc) : State := { s with mem := setBytes s.mem w.ring (leBytes 64 h.toNat) }

/-- Bytes of a chunk image for a request that has read it. -/
def imageBytes (w : Window) (imgs : List Vec) : List Byte := (List.range (imageSize w.desc)).map (fun k => imgByte imgs k)

/-- A chunk that came from another device is written to its place in the slot as it lies now, and the window moves on. While the slot
cannot be written, nothing changes. -/
def fillArrived (s : State) (t : Strand) (e : RecEntry) (imgs : List Vec) : State :=
  let drop := fun (s : State) => s.onStrand t.team t.sid (fun t => t.dropEntry e.seq)
  match s.windows.find? (fun w => w.id == e.key) with
  | none => drop s
  | some w =>
    let h := windowHeader s w
    let a := slotAddr w h (w.slot.getD 0) + (w.next - w.start) * imageSize w.desc
    if !t.live then s
    else if !slotAllowed s ((s.team? t.team).getD {}) a (imageSize w.desc) then
      drop (s.onWindow w.id (fun w => { w with fault := some (.protection, BitVec.ofNat 64 (t.dswbase.toNat + a % 2 ^ 26)) }))
    else match slotPlaces (fld t.ctx 16 6) a (imageSize w.desc / 64) s with
      | .ok (s, l) => (drop (putLines s l (imageBytes w (e.req.final imgs)))).onWindow w.id (fun w => { w with next := w.next + 1 })
      | .error r => askFor s r

/-- The descriptor without its metadata: a chunk image holds elements and scales alone (R170). -/
def imageDesc (x : Desc) : Desc := setField x 0x36 1 0

/-- A record entry of the window's strand (R154): the request of a chunk, or the address at which one waits. -/
def fillEntry_ (s : State) (t : Strand) (w : Window) (q : Req) (st : RecState) (key : Nat) : State × Nat :=
  let seq := s.nextId
  let e : RecEntry := { seq := seq, unit := w.unit, req := q, state := st, key := key, priv := w.priv }
  ({ s with nextId := seq + 1 }.onStrand t.team t.sid (fun t => { t with arec := t.arec ++ [e] }), seq)

/-- The chunks of a slot, `n` left, written as images from its place on; what is left over reads zero (R170). The second component is the
window afterwards, the third whether the slot is complete: a fault, a fault park or a migration stops it at its chunk. -/
def fillChunks (s : State) (t : Strand) (m : Team) (w : Window) : List Nat → Nat → State × Window × Bool
  | _, 0 => (s, w, true)
  | places, n + 1 =>
    let size := imageSize w.desc
    let here := places.take (size / 64)
    if !w.filling then (putLines s places (List.replicate (size * (n + 1)) 0), w, true)
    else
      let q := chunkReq (imageDesc w.desc) (chunkRows w.desc w.next) .fill
      let probe : Req := { kind := .fill, elems := [⟨0, q.first, 1⟩], base := [0] }
      match runReq s { spaceOf t m with priv := w.priv } q with
      | .done s' imgs =>
        fillChunks (putLines s' here (imageBytes w imgs)) t m { w with next := w.next + 1 } (places.drop (size / 64)) n
      | .trap c v => (s, { w with fault := some (c, v) }, false)
      | .again s' => (s', w, false)
      | .held obj =>
        let (s, seq) := fillEntry_ s t w probe .held 0
        let (s, st) := s.hold obj t.die seq
        (s.onStrand t.team t.sid (fun t => t.onEntry seq (fun e => { e with state := st, moved := s.movedFrom obj })), w, false)
      | .park r va =>
        match tryPark s t r va with
        | (s', .inl c) => (s', { w with fault := some (c, va) }, false)
        | (s', .inr key) => ((fillEntry_ s' t w { probe with elems := [⟨0, va, 1⟩] } .faulted key).1, w, false)
      | .remote s' plan imgs =>
        let (s'', seq) := fillEntry_ s' t w { q with part := imgs } .pending w.id
        (sendRuns s'' t q seq false (fabRuns plan), w, false)
      | _ => (s, w, false)

/-- The header of a window can be written now: it lies in no page that a migration holds, and its line has been pulled (R301, R302). -/
def headerPlace (s : State) (w : Window) : State × Bool :=
  match sramPlace s (fld w.ctx 16 6) false w.ring with
  | (s, .ok _) => (s, true)
  | (_, r) => (askFor s r, false)

/-- The copy engine can fill a slot of the window: its strand is on the tile, no fault stops it, no chunk of it is under way, and it has
claimed a slot or one is free (R170). -/
def Window.ready (s : State) (w : Window) : Bool :=
  match s.strand? w.team w.sid with
  | none => false
  | some t =>
    let h := windowHeader s w
    t.live && w.fault.isNone && !w.stopped && w.filling && ringOk h && decide (t.arec.length < 64) &&
    t.arec.all (fun e => e.unit.addr != w.unit.addr || e.req.kind != .fill) &&
    (w.slot.isSome || hPCLAIM h < hHEAD h + hNSLOT h)

/-- WINDOW_FILL: the copy engine claims the next slot, writes its chunk images and publishes it; after the last chunk it sets END
(R170). A slot whose filling has stopped stays claimed. -/
def windowFill (s : State) (id : Nat) : State :=
  match s.windows.find? (fun w => w.id == id) with
  | none => s
  | some w =>
    if !w.ready s then s
    else
      match s.strand? w.team w.sid, s.team? w.team, headerPlace s w with
      | some t, some m, (s, true) =>
        let h := windowHeader s w
        let k := w.slot.getD (hPCLAIM h)
        let s := if w.slot.isSome then s else putWindow s w (setField h 0x10 8 (k + 1))
        let w := if w.slot.isSome then w else { w with slot := some k, start := w.next }
        let slot := slotAddr w h k
        let done := w.next - w.start
        let n := hSLOTSZ h / imageSize w.desc - done
        if !slotAllowed s m slot (hSLOTSZ h) then
          s.onWindow id (fun _ => { w with fault := some (.protection, BitVec.ofNat 64 (t.dswbase.toNat + slot % 2 ^ 26)) })
        else match slotPlaces (fld m.ctx 16 6) (slot + done * imageSize w.desc) (n * (imageSize w.desc / 64)) s with
          | .error r => askFor (s.onWindow id (fun _ => w)) r
          | .ok (s, places) =>
            let (s, w, ok) := fillChunks s t m w places n
            if ok then
              let h := windowHeader s w
              let h := (publish h k).getD h
              putWindow (s.onWindow id (fun _ => { w with slot := none })) w (if w.filling then h else setField h 0x0A 2 3)
            else s.onWindow id (fun _ => w)
      | _, _, (s, _) => s

def execWindowFill (win : Nat) (s : State) : Result := .next (windowFill s win)

end Sys2Proof.Machine
end

