-- ==== Sys2Proof/Machine/Atomic.lean ====
section
/-! DEFINITION. Atomics, compare-and-swap, fences and fabric words (10_access_instructions.md R172 to R178; 18_consistency_model.md
R309, R311). -/

namespace Sys2Proof.Machine

/-! Memory atomics (R172). -/

/-- An atomic of `size` bytes at S[A]; the old value goes to `dest`. -/
def atomicAct (s : State) (kind : AccKind) (a : BitVec 6) (dest : Dest) (x : AtomOp) : Act :=
  let va := s.cs.sc a
  alignedReq s va x.size (fun s => accReq s {
    kind := kind, write := true, elems := [⟨0, va, x.size⟩], dest := dest, base := [0], atom := some x, ord := s.cs.unit.ordOf 0 }
    (kind == .fabric))

/-- The operation of an AOP value: bits 2:0, and the trap variant in bit 3. -/
def amoOp (kind : BitVec 2) (p : BitVec 4) (size : Nat) (b : Dword) : AtomOp :=
  { kind := kind, op := p.setWidth 3, trap := p.getLsbD 3, size := size, b := b.setWidth 128 }

def execAmoW (p : BitVec 4) (d a b : BitVec 6) (s : State) : Result :=
  .next (issue (.amoW p d a b) s (fun s => atomicAct s .atomic a (.scalar d 4 false) (amoOp 0 p 4 (s.cs.sc b))))
def execAmoD (p : BitVec 4) (d a b : BitVec 6) (s : State) : Result :=
  .next (issue (.amoD p d a b) s (fun s => atomicAct s .atomic a (.scalar d 8 false) (amoOp 0 p 8 (s.cs.sc b))))

/-- Operand size of `amo.f`: f32 for operations 0 to 2, f64 for 3 to 5. -/
def amoFSize (p : BitVec 4) : Nat := if p.toNat % 8 ≤ 2 then 4 else 8

def execAmoF (p : BitVec 4) (d a b : BitVec 6) (s : State) : Result :=
  .next (issue (.amoF p d a b) s (fun s => atomicAct s .atomic a (.scalar d (amoFSize p) false) (amoOp 1 p (amoFSize p) (s.cs.sc b))))

/-! Compare-and-swap (R173). -/

/-- The operation of a compare-and-swap. -/
def casOp (t : BitVec 1) (size : Nat) (expect b : BitVec 128) : AtomOp :=
  { kind := 2, op := 0, trap := t == 1, size := size, b := b, expect := expect }

def execCasW (t : BitVec 1) (d a b : BitVec 6) (s : State) : Result :=
  .next (issue (.casW t d a b) s (fun s =>
    atomicAct s .atomic a (.scalar d 4 false) (casOp t 4 ((s.cs.sc d).setWidth 128) ((s.cs.sc b).setWidth 128))))
def execCasD (t : BitVec 1) (d a b : BitVec 6) (s : State) : Result :=
  .next (issue (.casD t d a b) s (fun s =>
    atomicAct s .atomic a (.scalar d 8 false) (casOp t 8 ((s.cs.sc d).setWidth 128) ((s.cs.sc b).setWidth 128))))
def execCasQ (t : BitVec 1) (d a b : BitVec 6) (s : State) : Result :=
  .next (issue (.casQ t d a b) s (fun s =>
    atomicAct s .atomic a (.pair d) (casOp t 16 (s.cs.sc (d + 1) ++ s.cs.sc d) (s.cs.sc (b + 1) ++ s.cs.sc b))))

/-! Fences (R175 to R177, R311): they wait for the entries of the record that they order. -/

/-- `fence.cls`: earlier accesses of the two classes are performed first; one class needs no more than R152 gives. -/
def execFenceCls (c k : BitVec 4) (s : State) : Result :=
  .next (issue (.fenceCls c k) s (fun s =>
    if c ≠ k && s.cs.earlier.any (fun e => e.req.ord.cls == c || e.req.ord.cls == k) then .wait else .ok s))

/-- What a fence of an order waits for: loads and atomics for an acquire, everything for a release. Assumption 39, DEDUCED. -/
def fenceHolds (t : Strand) (order : BitVec 2) : Bool :=
  match order.toNat with
  | 0 => false
  | 1 => t.earlier.any (fun e => !e.req.write || e.req.atom.isSome)
  | _ => !t.earlier.isEmpty

/-- What a fence of an order does to the lines of the core's L1 that are not snooped: at die scope or wider a release writes back, and an
acquire also invalidates (R289, R318). -/
def fenceLines (s : State) (o : AccOrd) : State :=
  if o.isAcquire then acquireL1 s s.cs.l1No o.scope else if o.isRelease then releaseL1 s s.cs.l1No o.scope else s

/-- `fence`: order and scope come from EXT.ORD (R176). A dirty line is written back once the host's copy is back (R319, R374). -/
def execFence (s : State) : Result :=
  .next (issue .fence s (fun s =>
    let o := s.cs.unit.ordOf 0
    if fenceHolds s.cs o.order then .wait
    else match orderWait s s.cs.l1No o with
      | some r => .waitWith (askFor s r)
      | none => .ok (fenceLines s o)))

/-- `fence.view`: earlier writes are visible to later reads through the other views: the view lines of the core's L1 are written back and
invalidated (R177, R289). -/
def execFenceView (s : State) : Result :=
  .next (issue .fenceView s (fun s =>
    let o := s.cs.unit.ordOf 0
    let lines := fun (l : L1Line) => l.view && l.core == s.cs.l1No
    if s.cs.earlier.any (fun e => e.req.write) || fenceHolds s.cs o.order then .wait
    else match (orderWait s s.cs.l1No o).orElse (fun _ => l1Waits s lines) with
      | some r => .waitWith (askFor s r)
      | none => .ok (flushL1 (fenceLines s o) false lines)))

/-! Fabric words (R178). -/

def execFld (c : BitVec 4) (d a i : BitVec 6) (s : State) : Result :=
  .next (issue (.fld c d a i) s (fun s =>
    let va := addrAM s.cs a i 8
    alignedReq s va 8 (fun s => accReq s {
      kind := .fabric, elems := [⟨0, va, 8⟩], dest := .scalar d 8 false, base := [0], ord := s.cs.unit.ordOf c } true)))

def execFst (c : BitVec 4) (d a i : BitVec 6) (s : State) : Result :=
  .next (issue (.fst c d a i) s (fun s =>
    let va := addrAM s.cs a i 8
    alignedReq s va 8 (fun s => accReq s {
      kind := .fabric, write := true, elems := [⟨0, va, 8⟩], data := [(s.cs.sc d).setWidth 4096], ord := s.cs.unit.ordOf c } true)))

def execFamo (p : BitVec 4) (d a b : BitVec 6) (s : State) : Result :=
  .next (issue (.famo p d a b) s (fun s => atomicAct s .fabric a (.scalar d 8 false) (amoOp 0 p 8 (s.cs.sc b))))
def execFcas (t : BitVec 1) (d a b : BitVec 6) (s : State) : Result :=
  .next (issue (.fcas t d a b) s (fun s =>
    atomicAct s .fabric a (.scalar d 8 false) (casOp t 8 ((s.cs.sc d).setWidth 128) ((s.cs.sc b).setWidth 128))))

end Sys2Proof.Machine
end

