-- ==== Sys2Proof/Machine/Message.lean ====
section
/-! DEFINITION. The message unit and the group blocks: operations in progress, group packets, units of readiness, delivery, refusal,
parking and steering (14_transfer_instructions.md R230, R231, R243 to R248; 26_fabric.md R378 to R390, R392, R394). -/

namespace Sys2Proof.Machine

/-- The effect of what comes from outside, once the device is READY (R407). -/
def whenReady (s : State) (f : State → State) : Result := .next (if s.mstate = 3 then f s else s)

/-! Operations in progress (R227 to R231). -/

def State.op? (s : State) (id : Nat) : Option XOp := s.ops.find? (fun o => o.id == id)

def State.onOp (s : State) (id : Nat) (f : XOp → XOp) : State :=
  { s with ops := s.ops.map (fun o => if o.id == id then f o else o) }

def State.dropOp (s : State) (id : Nat) : State := { s with ops := s.ops.filter (fun o => o.id ≠ id) }.unhold id

/-- The strand of an operation, wherever it is. -/
def State.opStrand? (s : State) (o : XOp) : Option Strand := s.strand? o.team o.sid

/-- The operation has stopped on a deferred fault. -/
def XOp.faulted (o : XOp) : Bool := match o.stat with | .fault .. => true | _ => false

/-- The completion of an operation is an acquire of its strand at a scope (R229, R242, R248, R250). -/
def opAcquire (s : State) (o : XOp) (scope : BitVec 3) : State :=
  match s.opStrand? o with
  | some t => acquireL1 s t.l1No scope
  | none => s

/-- Completion of an operation (R42, R43, R231): its signals reach the strand's counters, saved ones too. -/
def State.opDone (s : State) (o : XOp) : State :=
  (s.dropOp o.id).onStrand o.team o.sid (fun t => (t.signal o.sig).signal (if o.en = 0 then none else some o.en))

/-- Status bits that a completion sets in the strand (R239, R244, R248). -/
def State.opStat (s : State) (o : XOp) (bits : BitVec 6) : State := s.onStrand o.team o.sid (fun t => t.setStat bits)

/-- `f` with the strand `sid` of team `id` as the stepping one. -/
def State.asStrand (s : State) (id sid : Nat) (f : State → State) : State :=
  if s.cs.team == id && s.cs.sid == sid then f s
  else
    match s.others.find? (fun t => t.team == id && t.sid == sid) with
    | none => s
    | some t =>
      let old := s.cs
      let r := f { s with cs := t, others := s.others.map (fun x => if x.team == id && x.sid == sid then old else x) }
      match r.others.find? (fun x => x.team == old.team && x.sid == old.sid) with
      | none => r
      | some o => { r with cs := o, others := r.others.map (fun x => if x.team == old.team && x.sid == old.sid then r.cs else x) }

/-- A deferred fault is marked (R230). Where the strand has executed the end form of `park`, it is raised at once, and once it is on its
tile again. Assumption 28, DEDUCED. -/
def raiseEnded (s : State) (id sid : Nat) : State :=
  match s.strand? id sid, s.ops.find? (fun o => o.team == id && o.sid == sid && (match o.stat with | .fault .. => true | _ => false)) with
  | some t, some o =>
    match o.stat with
    | .fault c v =>
      if t.live && t.parkEnded && t.frame.isNone then
        (s.dropOp o.id).asStrand id sid (fun s => s.enterTrap o.unit 5 c v o.unit.addr false (some o.id) [] [])
      else s
    | _ => s
  | _, _ => s

/-- An operation has stopped on a fault. One that serves no strand, number 64, raises no trap: damaged data is logged here (R356). -/
def State.opFail (s : State) (o : XOp) (c : Cause) (tval : Dword) : State :=
  let s := if c = .uncorrectable && o.sid = 64 then s.log (handleDie o.ctx).toNat logUncorrectable tval.toNat else s
  raiseEnded (s.onOp o.id (fun o => { o with stat := .fault c tval, asked := false, here := false })) o.team o.sid

/-! Accesses under way that an invalidation waits for (R269, R362, R370). -/

/-- The requests of a strand that other devices or the host have not answered yet. -/
def Strand.underWay (t : Strand) : List RecEntry :=
  (t.arec ++ (match t.frame with | some f => f.arec ++ f.mreq.toList | none => []) ++ t.mreq.toList ++ t.fetchReq.toList).filter
    (fun e => e.state == .pending && e.fail.isNone)

/-- What is under way for the contexts that `uses` selects, and the held guest requests of their dropped grants. -/
def State.inFlight (s : State) (uses : Word → Bool) : InFlight :=
  { accs := (((s.cs :: s.others).filter (fun t => uses t.ctx)).map (fun t => t.underWay.map (·.seq))).flatten
    ops := (s.ops.filter (fun o => o.asked && uses o.ctx)).map (·.id)
    reqs := (s.guest.reqs.filter (fun r => throughDropped r.2)).map (·.1) }
where
  /-- The request uses a dropped grant of a selected context. -/
  throughDropped (r : GuestReq) : Bool :=
    r.area == 0 && s.guest.grants.any (fun g => g.1 == r.grant.toNat && g.2.dropped && uses g.2.ctx)

/-- All of it has been performed. -/
def InFlight.over (l : InFlight) (s : State) : Bool :=
  l.accs.all (fun n => !(s.cs :: s.others).any (fun t => t.underWay.any (·.seq == n))) &&
  l.ops.all (fun n => !s.ops.any (fun o => o.id == n && o.asked)) && l.reqs.all (fun n => !s.guest.reqs.any (·.1 == n))

/-! Tile SRAM of a team that is off its tile (R231, R279): its operations read and write the saved image. -/

/-- Where the saved image of a team stands, as a memory key above all others, while an operation reaches it, and under which damage in
it is listed. -/
def imageKey (id : Nat) : Nat := 2 ^ 70 + id * 2 ^ 26

/-- The image of the team lies in memory. -/
def lendImage (s : State) (m : Team) : State := { s with mem := s.mem ++ m.image.map (fun c => (imageKey m.id + c.1, c.2)) }

/-- The image goes back to its team. -/
def takeImage (id : Nat) (s : State) : State :=
  ({ s with mem := s.mem.filter (fun c => c.1 < imageKey 0) } : State).onTeam id (fun m => { m with
    image := (s.mem.filter (fun c => imageKey 0 ≤ c.1)).map (fun c : Host.Cell => (c.1 - imageKey id, c.2)) })

/-- The state of an outcome changed. -/
def ROut.map (f : State → State) : ROut → ROut
  | .done s imgs => .done (f s) imgs
  | .again s => .again (f s)
  | .remote s plan imgs => .remote (f s) plan imgs
  | .atomicOp s g h => .atomicOp (f s) g h
  | r => r

/-- The tile SRAM windows of a strand, placed or not: off its tile, a team's addresses name the frames that it has left (R231). -/
def winOf (s : State) (team sid : Nat) : Option Windows :=
  match s.strand? team sid, s.team? team with
  | some t, some m => (spaceOf t m).win.map (fun w => if m.placed then w else { w with frames := m.left, image := some (imageKey m.id) })
  | _, _ => none

/-- A piece of a request meets the `n` bytes from `b` on. -/
def Elem.meets (e : Elem) (b : Dword) (n : Nat) : Bool := decide (e.va.toNat < b.toNat + n ∧ b.toNat < e.va.toNat + e.size)

/-- A request for a strand that may be off its tile; `here` as in `runReq`. -/
def runFor (s : State) (team : Nat) (sp : Space) (q : Req) (here : Bool := false) : ROut :=
  match s.team? team, sp.win with
  | some m, some w =>
    if !m.placed && q.elems.any (fun e => e.meets w.ts (2 ^ 22) || e.meets w.dsw (2 ^ 26)) then
      (runReq (lendImage s m) sp q here).map (takeImage team)
    else runReq s sp q here
  | _, _ => runReq s sp q here

/-- The address space of an operation: the context's, with the tile SRAM windows of its strand, on the die of its agent. -/
def opSpace (s : State) (o : XOp) : Space :=
  { ctx := o.ctx, priv := o.priv, win := winOf s o.team o.sid, die := BitVec.ofNat 2 (o.tile / 16) }

/-- How an access of an operation ends for now. -/
inductive OpRes where
  | data (s : State) (imgs : List Vec)
  | wait (s : State)
  | stop (s : State) (c : Cause) (tval : Dword)
  deriving DecidableEq, Repr

/-- A resolution that holds no team (R230, R331): the operation or completion of the context on a die waits for its key. -/
def resolveFree (s : State) (ctx : Word) (die : BitVec 2) (write : Bool) (r : TRes) (va : Dword) : State × Nat :=
  parkFault s 0 { ctx := ctx, die := die, write := write } r va

/-- The packets of an operation's request to another device. -/
def sendOpRuns (s : State) (o : XOp) (q : Req) (runs : List (Nat × Dword × Nat)) : State :=
  runs.foldl (fun s r =>
    let (off, a, n) := r
    let pkt := runPacket s (BitVec.ofNat 2 (o.tile / 16)) (fld o.ctx 16 6) q.ord.cls q.write a n ((List.range n).map (fun k => imgByte q.data (off + k)))
    sendReq s pkt { xid := 0, pkt := pkt, team := o.team, sid := o.sid, op := some o.id, off := off, n := n }) s

/-- An access of an operation (R228, R230): relaxed, without a record entry. A page that is being resolved makes it wait there. A write
with bytes at other devices and here makes those here once the others are written, as a store does (R151). -/
def opAccess (s : State) (o : XOp) (q : Req) : OpRes :=
  match o.stat with
  | .waiting key => if s.resolves.any (·.key == key) then .wait s else turn (s.onOp o.id (fun o => { o with stat := .active })) o q
  | _ => turn s o q
where
  /-- Its first part, the answers of other devices, or the rest that is left here. -/
  turn (s : State) (o : XOp) (q : Req) : OpRes :=
    if !o.asked then go s o q false
    else if s.pending.any (fun p => p.op == some o.id) then .wait s
    else if o.here then go s o q true
    else .data (s.onOp o.id (fun o => { o with asked := false, part := [] })) (q.final o.part)
  /-- The access itself; with `rest`, what is left of it at this device. -/
  go (s : State) (o : XOp) (q : Req) (rest : Bool) : OpRes :=
    if !s.holdTurn o.id then .wait s
    else
      match runFor s o.team (opSpace s o) q rest with
      | .done s' imgs => .data ((s'.unhold o.id).onOp o.id (fun o => { o with answered := [], asked := false, here := false, part := [] })) imgs
      | .again s' => .wait s'
      | .held obj => .wait (s.hold obj (opSpace s o).die o.id).1
      | .park r va =>
        let s := s.unhold o.id
        match r.number.bind (fun n => o.answered.find? (fun a => a.1 == n)) with
        | some (n, c) => .stop (s.onOp o.id (fun o => { o with answered := o.answered.filter (·.1 ≠ n) })) c va
        | none =>
          let (s, key) := resolveFree s o.ctx (opSpace s o).die q.write r va
          .wait (s.onOp o.id (fun o => { o with stat := .waiting key }))
      | .remote s' plan imgs =>
        .wait (sendOpRuns ((s'.unhold o.id).onOp o.id (fun o => { o with asked := true, part := imgs, here := spansHere q plan == 1 })) o q (fabRuns plan))
      | .atomicOp .. | .unsupported => .wait s
      | .trap c v => .stop (s.unhold o.id) c v

/-- A request for `n` bytes at an address, and one that stores bytes. -/
def readReq (va : Dword) (n : Nat) : Req := { kind := .load, elems := [⟨0, va, n⟩], base := List.replicate (ceilDiv n 512) 0 }
def bytesImg (l : List Byte) : List Vec :=
  (List.range (ceilDiv l.length 512)).map (fun i => BitVec.ofNat 4096 (leNat ((l.drop (512 * i)).take 512)))
def writeReq (va : Dword) (l : List Byte) : Req := { kind := .store, write := true, elems := [⟨0, va, l.length⟩], data := bytesImg l }

/-- The bytes of the images. -/
def imgBytes (imgs : List Vec) (n : Nat) : List Byte := (List.range n).map (imgByte imgs)

/-! Group packets (R379). -/

/-- A field of an argument. -/
def dfld (x : Dword) (lo n : Nat) : Nat := x.toNat / 2 ^ lo % 2 ^ n

end Sys2Proof.Machine

namespace Sys2Proof

open Machine

def Packet.group (p : Packet) : Nat := dfld p.arg 0 24
def Packet.key (p : Packet) : Nat := dfld p.arg 24 8
def Packet.ordered (p : Packet) : Bool := dfld p.arg 32 1 == 1
def Packet.targeted (p : Packet) : Bool := dfld p.arg 33 1 == 1
def Packet.parkedBit (p : Packet) : Bool := dfld p.arg 34 1 == 1
def Packet.unit (p : Packet) : Nat := dfld p.arg 35 16

/-- The argument of a group packet. -/
def gArg (group key : Nat) (ord targeted parked : Bool) (unit : Nat) : Dword :=
  BitVec.ofNat 64 (group % 2 ^ 24 + key % 256 * 2 ^ 24 + (if ord then 2 ^ 32 else 0) + (if targeted then 2 ^ 33 else 0) +
    (if parked then 2 ^ 34 else 0) + unit % 2 ^ 16 * 2 ^ 35)

/-- A message with the target of its argument changed. -/
def Packet.aim (p : Packet) (targeted parked : Bool) (unit : Nat) : Packet :=
  { p with arg := gArg p.group p.key p.ordered targeted parked unit }

end Sys2Proof

namespace Sys2Proof.Machine

/-- The home device of a group (R383). -/
def homeDev (group : Nat) : BitVec 10 := BitVec.ofNat 10 (group / 2 ^ 14)

/-- A packet of a type is sent to a device (R381, R408): memory packets to every device of the domain, those of collectives, and refusals, to a
Ginkopel G4 or a switch, all others to a G4. While no device number is assigned nothing is: a group word, whose home cannot then be this
device, meets FABRIC_ERROR, while `mbsend` and `coll` words that name the number 0x3FF, which DEVNUM shows, act on this device itself.
Assumption 13, DESIGN CHOICE. -/
def carries (s : State) (ty : BitVec 6) (dev : BitVec 10) : Bool :=
  let k := (s.bar (0x8000 + 8 * dev.toNat)).toNat / 64 % 4
  s.assigned && (dev == s.devNum || (
    if ty = ptREAD || ty = ptWRITE || ty = ptATOMIC || ty = ptRESP then k != 0
    else if ty = ptGREFUSE || ty = ptCRED || ty = ptCRES || ty = ptCCTL then k == 1 || k == 3
    else k == 1))

/-- A packet leaves; what this device sends to itself arrives as a step of its own (assumption 13, DESIGN CHOICE). One that its target
cannot take is not sent. -/
def sendPacket (s : State) (p : Packet) : State :=
  if p.ddev == s.devNum then { s with due := s.due ++ [.packet { p with since := s.time }] }
  else if carries s p.type p.ddev then s.emit p
  else s

/-- One more event in a counter of R394: `hi` selects bits 63:32. -/
def countEvent (s : State) (off : Nat) (hi : Bool) : State :=
  let x := s.bar off
  let lo := x.toNat % 2 ^ 32
  let up := x.toNat / 2 ^ 32
  s.setBar off (BitVec.ofNat 64 (if hi then (up + 1) % 2 ^ 32 * 2 ^ 32 + lo else up * 2 ^ 32 + (lo + 1) % 2 ^ 32))

/-- An answer to a request (R379): status 0 done, 1 NACK, 2 refused. -/
def respTo (s : State) (p : Packet) (status : Nat) (payload : List Byte) : State :=
  let s := if status = 1 then countEvent s (0x2408 + 16 * p.ddie.toNat) true else s
  sendPacket s (Packet.load {
    type := ptRESP, vc := 1, ddev := p.sdev, ddie := p.sdie, sdev := p.ddev, sdie := p.ddie, part := p.part
    arg := BitVec.ofNat 64 status, xid := p.xid } payload)

/-- A group packet leaves; where its target cannot take it, the sender of the message `m` gets FABRIC_ERROR (R408). -/
def sendOrFail (s : State) (p m : Packet) : State :=
  if p.ddev == s.devNum || carries s p.type p.ddev then sendPacket s p else respTo s { m with ddev := s.devNum, ddie := 0 } 2 []

/-! Units of readiness (R244, R385). -/

def State.unit? (s : State) (id : Nat) : Option GUnit := s.units.find? (fun u => u.id == id)

/-- The outstanding unit of a buffer of a context. -/
def State.bufUnit? (s : State) (ctx : Word) (buf : Dword) : Option GUnit := s.units.find? (fun u => u.ctx == ctx && u.buf == buf)

def State.onUnit (s : State) (id : Nat) (f : GUnit → GUnit) : State :=
  { s with units := s.units.map (fun u => if u.id == id then f u else u) }

def State.dropUnit (s : State) (id : Nat) : State := { s with units := s.units.filter (fun u => u.id ≠ id) }

/-- The lowest unit number not in use, from 1. -/
def freeUnit (s : State) : Nat :=
  let used := s.units.map (·.id) ++ (s.pending.filter (fun p => p.pkt.type == ptGADV)).map (fun p => p.pkt.unit)
  (firstFree used.contains id (used.length + 1) 1).getD 0

/-- A packet about a unit towards the home of its group. -/
def unitPacket (s : State) (u : GUnit) (ty : BitVec 6) (xid : Nat) : Packet :=
  { type := ty, vc := 2, ddev := homeDev u.group.toNat, sdev := s.devNum, part := fld u.ctx 16 6,
    arg := gArg u.group.toNat 0 false false false u.id, xid := xid }

/-- The space of a context in the user view. -/
def bufSpace (ctx : Word) : Space := { ctx := ctx }

/-- The space of a receive buffer (R243): its unit's context in the user view, with the tile SRAM windows of the strand that
advertised it. -/
def unitSpace (s : State) (u : GUnit) : Space := { bufSpace u.ctx with win := winOf s u.team u.sid }

/-- STATE of a unit's buffer is written. -/
def runState (s : State) (u : GUnit) (x : Nat) : ROut := runFor s u.team (unitSpace s u) (writeReq u.buf (leBytes 4 x))

/-- An operation that the device makes for a context and no strand waits for: it signals nothing and takes no entry of a tile. -/
def freeOp (s : State) (kind : XKind) (ctx : Word) : XOp :=
  { id := s.nextId, kind := kind, sid := 64, tile := 2 ^ 12 + 16 * (handleDie ctx).toNat, ctx := ctx }

def addFree (s : State) (o : XOp) : State := { s with nextId := s.nextId + 1, ops := s.ops ++ [o] }

/-- The operation serves no strand. -/
def XOp.isFree (o : XOp) : Bool := o.sid == 64

/-- A message is being written across the fabric into the buffer of a unit. -/
def farUnder (s : State) (u : GUnit) : Bool := s.ops.any (fun o => o.kind == .gready && o.isFree && o.flag && o.n == u.id)

/-- A message that a unit or device refuses goes back (R387, R390): a targeted one with a unit to the home, one that the sender chose to
the sender, a steered one to the switch it came through; the third bounce sends it to the home for parking. -/
def refuse (s : State) (p : Packet) : State :=
  let s := countEvent s 0x2400 true
  if p.targeted && p.unit ≠ 0 then
    sendOrFail s { p with type := ptGREFUSE, ddev := homeDev p.group, last := s.devNum.toNat } p
  else
    let p := { p with bnc := p.bnc + 1 }
    if p.bnc = 3 then sendOrFail s { p.aim false false 0 with type := ptGSEND, ddev := homeDev p.group, toPark := true } p
    else if p.targeted then sendOrFail s { p with type := ptGREFUSE, ddev := p.sdev, last := s.devNum.toNat } p
    else sendOrFail s { p with type := ptGREFUSE, ddev := BitVec.ofNat 10 p.last } p

/-- The header of a delivered message but for STATE (R243). -/
def msgHeader (p : Packet) (parked : Bool) : List Byte :=
  leBytes 4 p.data.length ++ leBytes 4 (p.group + p.key * 2 ^ 24) ++
  leBytes 1 ((if p.ordered then 1 else 0) + (if parked then 2 else 0)) ++ leBytes 1 p.bnc.toNat ++ leBytes 2 0 ++
  leBytes 4 p.sender.toNat ++ leBytes 2 p.sdev.toNat ++ leBytes 2 0 ++ leBytes 8 p.mseq.toNat ++ leBytes 32 0

/-- A deferred fault is marked on the strand that issued a `gready` (R247), under a number of its own that takes no entry of a message unit;
where its team has ended, it is logged. -/
def markUnitFault (s : State) (u : GUnit) (c : Cause) : State :=
  if (s.strand? u.team u.sid).isNone || (s.team? u.team).isNone then s.log (handleDie u.ctx).toNat logPacket u.buf.toNat
  else
    let id := s.nextId
    let o : XOp := { id := id, kind := .gready, team := u.team, sid := u.sid, unit := u.word, ctx := u.ctx, tile := 2 ^ 12 + 16 * (handleDie u.ctx).toNat }
    { s with nextId := id + 1, ops := s.ops ++ [o] }.opFail o c u.buf

/-- The write of a message into a buffer but for STATE (R243): payload, then header. -/
def messageReq (u : GUnit) (p : Packet) : Req :=
  let body := if p.payload.isEmpty then [] else [(⟨60, u.buf + 0x40, p.data.length⟩ : Elem)]
  { kind := .store, write := true, elems := body ++ [⟨0, u.buf + 4, 60⟩], data := bytesImg (msgHeader p p.parkedBit ++ p.data) }

/-- A message has been delivered: the unit is consumed, and the sender, the home and the member's context are told (R247). -/
def delivered (s : State) (u : GUnit) (p : Packet) : State :=
  let s := (s.dropUnit u.id).dueWake u.ctx 0
  let s := sendPacket s {
    type := ptGACCEPT, vc := 2, ddev := p.sdev, ddie := p.sdie, sdev := s.devNum, part := p.part, arg := p.arg, xid := p.xid }
  sendPacket s (unitPacket s u ptGCONS 0)

/-- A buffer that cannot be written ends the unit, and the message is refused (R247). -/
def undelivered (s : State) (u : GUnit) (p : Packet) (c : Cause) : State := refuse (markUnitFault (s.dropUnit u.id) u c) p

/-- A unit of readiness in a hold queue stands there under this number. -/
def unitHold (u : GUnit) : Nat := 2 ^ 80 + u.id

/-- DELIVERY (R243, R247): payload, header, then STATE FULL. A page that must be resolved keeps the message at the unit. A buffer at
another device is written by an operation of the message unit. -/
def deliver (s : State) (u : GUnit) (p : Packet) : State :=
  let keep := fun (s : State) (key : Nat) => s.onUnit u.id (fun u => { u with armed := false, waiting := some p, key := key })
  if farUnder s u || !s.holdTurn (unitHold u) then s
  else match u.fail with
  | some c => undelivered s u p c
  | none =>
    let open_ := s.unhold (unitHold u)
    match runFor s u.team (unitSpace s u) (messageReq u p) with
    | .done s' _ =>
      (match runState (s'.unhold (unitHold u)) u 2 with
       | .done s'' _ => delivered s'' u p
       | _ => delivered s' u p)
    | .park r va =>
      if u.waiting.isSome && s.resolves.any (·.key == u.key) then s
      else
        let (s, key) := resolveFree open_ u.ctx (handleDie u.ctx) true r va
        keep s key
    | .trap c _ => undelivered open_ u p c
    | .again s' => keep s' 0
    | .held obj => keep (s.hold obj (handleDie u.ctx) (unitHold u)).1 0
    | .remote .. => addFree (keep open_ 0) { freeOp open_ .gready u.ctx with y := u.buf, n := u.id, flag := true, progress := 2 }
    | _ => s

/-- A step of a delivery to another device: the message, then STATE FULL, each answered before the next (R243, R247). -/
def farStep (s : State) (o : XOp) : State :=
  match s.unit? o.n with
  | none => s.dropOp o.id
  | some u =>
    match u.waiting with
    | none => s.dropOp o.id
    | some p =>
      let failed := fun (s : State) (c : Cause) => undelivered (s.dropOp o.id) u p c
      match o.stat with
      | .fault c _ => failed s c
      | _ =>
        match opAccess s o (if o.progress = 2 then messageReq u p else writeReq u.buf (leBytes 4 2)) with
        | .wait s => s
        | .stop s c _ => failed s c
        | .data s _ => if o.progress = 2 then s.onOp o.id (fun o => { o with progress := 3 }) else delivered (s.dropOp o.id) u p

/-- The oldest armed unit of a group on this device. -/
def armedUnit (s : State) (group : Nat) (part : BitVec 6) : Option GUnit :=
  s.units.find? (fun u => u.group.toNat == group && fld u.ctx 16 6 == part && u.armed && u.waiting.isNone)

/-! Counts of the group-capable switch (R386). -/

/-- The key of a count: group and port. -/
def countKey (group : Nat) (port : BitVec 8) : Nat := group * 256 + port.toNat

def State.count (s : State) (group : Nat) (port : BitVec 8) : Nat := Sparse.get 0 s.switch (countKey group port)

/-- The groups that the switch has an entry for. -/
def State.countedGroups (s : State) : List Nat := (s.switch.map (fun c => c.1 / 256)).dedup

/-- A count of the switch: 12 bits, saturating. It holds counts for 65,536 groups; one more stays without an entry (R386). -/
def State.setCount (s : State) (group : Nat) (port : BitVec 8) (n : Nat) : State :=
  if 65536 ≤ s.switch.length && (let l := s.countedGroups; 65536 ≤ l.length && !l.contains group) then s
  else { s with switch := Sparse.set 0 s.switch (countKey group port) (min n 4095) }

/-- One fewer for the port towards a device (R385, R388). -/
def lowerPort (s : State) (group : Nat) (dev : BitVec 10) : State :=
  let d := Config.switchPort dev
  s.setCount group d (s.count group d - 1)

/-- A unit goes: the home is told, the switch on the way lowers its count of the port towards this device, and a message that waits at the
unit is refused (R245, R388). -/
def withdrawn (s : State) (u : GUnit) : State :=
  let home := homeDev u.group.toNat
  let s := sendPacket (s.dropUnit u.id) (unitPacket s u ptGWDRAW 0)
  let s := if home ≠ s.devNum && carries s ptGWDRAW home then lowerPort s u.group.toNat s.devNum else s
  match u.waiting with
  | some p => refuse s p
  | none => s

/-- Withdrawal of a unit as if by `gunready` (R231, R245): STATE becomes WITHDRAWN, at once, or by an operation of its own where the buffer
must be waited for or its registration is under way. A message that is being written to another device is delivered first. -/
def withdrawUnit (s : State) (u : GUnit) : State :=
  let later := addFree s { freeOp s .gunready u.ctx with y := u.buf, n := u.id }
  if farUnder s u || s.pending.any (fun p => p.op == some u.op && p.pkt.type == ptGADV) then later
  else
    match runState s u 3 with
    | .done s' _ => withdrawn s' u
    | .trap .. | .unsupported | .atomicOp .. => withdrawn s u
    | _ => later

/-! The home device (R384, R385, R387). -/

/-- The group of an ID for a partition in this device's table. -/
def State.group? (s : State) (group : Nat) (part : BitVec 6) : Option Group :=
  if homeDev group ≠ s.devNum || !s.assigned then none
  else (Sparse.get none (s.groups.map (fun c => (c.1, some c.2))) (group % 2 ^ 14)).bind
    (fun g => if g.part = part then some g else none)

def State.setGroup (s : State) (group : Nat) (g : Group) : State :=
  { s with groups := (s.groups.filter (fun c => c.1 < group % 2 ^ 14)) ++ [(group % 2 ^ 14, g)] ++
      (s.groups.filter (fun c => group % 2 ^ 14 < c.1)) }

/-- The first unit of the list to which no message has been matched. -/
def freeReg (g : Group) : Option Reg := g.regs.find? (fun r => !r.taken)

def Group.take (g : Group) (r : Reg) : Group :=
  { g with regs := g.regs.map (fun x => if x = r then { x with taken := true } else x) }

def Group.drop (g : Group) (dev : BitVec 10) (unit : Nat) : Group :=
  { g with regs := g.regs.filter (fun r => !(r.dev == dev && r.unit == unit)) }

/-- PARKED_MATCH (R387): parked messages, oldest first, go targeted to unconsumed units, oldest registration first. -/
def matchParked (group : Nat) : Nat → State → Group → State
  | 0, s, g => s.setGroup group g
  | n + 1, s, g =>
    match g.parked, freeReg g with
    | p :: l, some r =>
      matchParked group n (sendOrFail s { p.aim true true r.unit with type := ptGSEND, ddev := r.dev, toPark := false } p)
        { g.take r with parked := l }
    | _, _ => s.setGroup group g

def matchGroup (s : State) (group : Nat) (g : Group) : State := matchParked group (g.parked.length + 1) s g

/-- Messages in the parking store, of 4,096 (R384). -/
def parkedTotal (s : State) : Nat := (s.groups.map (fun c => c.2.parked.length)).foldl (· + ·) 0

/-- A message reaches its home to be parked (R384): an unknown group refuses it, a full store or limit answers NACK. -/
def parkAtHome (s : State) (p : Packet) : State :=
  match s.group? p.group p.part with
  | none => respTo s { p with ddev := s.devNum } 2 []
  | some g =>
    if 4096 ≤ parkedTotal s || g.plim ≤ g.parked.length then respTo s { p with ddev := s.devNum, ddie := 0 } 1 []
    else matchGroup (countEvent s 0x2408 false) p.group { g with parked := g.parked ++ [p] }

/-! The group-capable switch (R385 to R387). -/

/-- The switch sends a packet on a port. -/
def State.emitPort (s : State) (d : BitVec 8) (p : Packet) : State := s.send (.port d { p with since := s.time })

/-- One step of R387 at the switch for a message that arrived on a port. Assumption 47, DEDUCED. -/
def steer (s : State) (p : Packet) (port : BitVec 8) : State :=
  let g := p.group
  if p.targeted then
    let out := Config.switchPort p.ddev
    (s.setCount g out (s.count g out - 1)).emitPort out p
  else
    let best := (List.range 256).foldl (fun (b : Option (BitVec 8)) k =>
      let d : BitVec 8 := BitVec.ofNat 8 k
      if d = port || s.count g d = 0 then b
      else match b with
        | some x => if s.count g x < s.count g d then some d else b
        | none => some d) none
    match best with
    | some d => (s.setCount g d (s.count g d - 1)).emitPort d { p with type := ptGSEND, last := Config.switchNum.toNat }
    | none => s.emitPort (Config.switchPort (homeDev g)) { p with type := ptGSEND, ddev := homeDev g }

/-! Sending (R246, R387, R390). -/

/-- What the home holds of a group: devices with the units that no message has been matched to. -/
def registered (s : State) (group : Nat) (part : BitVec 6) : List (Nat × Nat) :=
  match s.group? group part with
  | none => []
  | some g =>
    let devs := (g.regs.filter (fun r => !r.taken)).map (·.dev.toNat)
    devs.dedup.map (fun d => (d, devs.count d))

/-- The readiness cache takes what was fetched for a group. -/
def setReadiness (s : State) (group : Nat) (l : List (Nat × Nat)) : State :=
  { s with cache := s.cache.filter (fun c => c.1 < group) ++ [(group, { time := s.time, entries := l })] ++ s.cache.filter (fun c => group < c.1) }

/-- Cached readiness that the sender may use: not older than 10 µs. -/
def cached (s : State) (group : Nat) : Option (List (Nat × Nat)) :=
  match s.cache.find? (fun c => c.1 == group) with
  | some c => if s.time ≤ c.2.time + 10000 then some c.2.entries else none
  | none => none

/-- The readiness that the sender uses, fetched where the cache has none (R390): at once from a home on this device, else `none`. -/
def readiness (s : State) (group : Nat) (part : BitVec 6) : State × Option (List (Nat × Nat)) :=
  match cached s group with
  | some l => (s, some l)
  | none =>
    if homeDev group = s.devNum then
      let l := registered s group part
      (setReadiness s group l, some l)
    else (s, none)

/-- The device with the largest count, then the lowest number (R390). -/
def bestMember (l : List (Nat × Nat)) : Option Nat :=
  (l.foldl (fun (b : Option (Nat × Nat)) x =>
    if x.2 = 0 then b
    else match b with
      | none => some x
      | some y => if y.2 < x.2 || (y.2 = x.2 && x.1 < y.1) then some x else b) none).map (·.1)

/-- A device's count lowered by one. -/
def lowerCount (s : State) (group dev : Nat) : State :=
  { s with cache := s.cache.map (fun c => if c.1 = group then
      (c.1, { c.2 with entries := c.2.entries.map (fun e => if e.1 = dev then (e.1, e.2 - 1) else e) }) else c) }

/-- STEER of a partition (R389). -/
def steers (s : State) (part : BitVec 6) : Bool := (s.bar (0x2200 + 8 * part.toNat)).getLsbD 16

/-- Whether a message has left its sender: it has, readiness must be fetched first, or its target cannot take it. -/
inductive Routed where
  | sent (s : State)
  | fetch
  | unreachable
  deriving DecidableEq, Repr

/-- A message leaves its sender: to a switch, also when the home is this device, or with STEER = 0 to the chosen member, or to the home. -/
def routeMsg (s : State) (p : Packet) : Routed :=
  let home := homeDev p.group
  let out := fun (s : State) (p : Packet) => if p.ddev == s.devNum || carries s ptGSEND p.ddev then .sent (sendPacket s p) else .unreachable
  if steers s p.part then (if carries s ptGSEND home then .sent (s.emit { p with ddev := home }) else .unreachable)
  else
    match readiness s p.group p.part with
    | (_, none) => .fetch
    | (s, some l) =>
      match bestMember l with
      | some d => out s { p.aim true false 0 with ddev := BitVec.ofNat 10 d }
      | none => out s { p with ddev := home }

end Sys2Proof.Machine
end

