-- ==== Sys2Proof/Machine/Guest.lean ====
section
/-! DEFINITION. The Mortise site: its states, guest queues, messages, grants, faults, memory requests and the fence
(29_mortise_socket.md R395 to R406; 14_transfer_instructions.md R249, R250). Deadlines are steps of their own. -/

namespace Sys2Proof.Machine

def State.onGuest (s : State) (f : Guest → Guest) : State := { s with guest := f s.guest }

/-- A message to the guest (R400). -/
def State.tell (s : State) (type : BitVec 8) (fields : List Nat) : State := s.send (.guest type fields)

def State.guestOn (s : State) : Bool := s.guest.state == .enabled

/-! Queue registers (R398). -/

def gqOff (q : Nat) : Nat := 0x3400 + 32 * q
def gqBase (s : State) (q : Nat) : Nat := (s.bar (gqOff q)).toNat / 2 ^ 12 * 2 ^ 12
def gqOrder (s : State) (q : Nat) : Nat := (s.bar (gqOff q)).toNat / 2 ^ 4 % 16
def gqSize (s : State) (q : Nat) : Nat := 2 ^ (gqOrder s q + 4)
def gqCkpt (s : State) (q : Nat) : Nat := (s.bar (gqOff q + 8)).toNat / 2 ^ 12 * 2 ^ 12
def gqPart (s : State) (q : Nat) : BitVec 6 := (s.bar (gqOff q + 0x10)).setWidth 6

/-- The queue is assigned. -/
def gqValid (s : State) (q : Nat) : Bool := q < 256 && (s.bar (gqOff q)).getLsbD 0

def gqHead (s : State) (q : Nat) : Word := Sparse.get 0 s.guest.head q
def gqTail (s : State) (q : Nat) : Word := Sparse.get 0 s.guest.tail q

/-- The slot of a sequence number. -/
def gqSlot (s : State) (q : Nat) (seq : Word) : Nat := gqBase s q + seq.toNat % gqSize s q * 64

/-! The fence (R405). -/

/-- A COMPL word is written through the context's translation, when it translates. A write that must wait for its page or line, or goes to
another device, is an operation of its own. -/
def writeCompl (s : State) (p : GPacket) (x : Nat) : State :=
  if p.compl = 0 then s
  else
    match runReq s (bufSpace p.ctx) (writeReq p.compl (leBytes 8 x)) with
    | .done s' _ => s'
    | .trap .. | .unsupported | .atomicOp .. => s
    | _ => addFree s { freeOp s .gqpush p.ctx with x := p.compl, payload := leBytes 8 x, progress := 2 }

/-- The guest queue that an outstanding `gqpush` or `gqwait` is on (R250). -/
def guestQueueOf (s : State) (o : XOp) : Option Nat :=
  if o.isFree then none
  else match o.kind with
  | .gqpush => some o.n
  | .gqwait =>
    ((s.guest.packets.filter (fun p => p.compl == o.x && p.ctx == o.ctx)).map (·.queue)).foldl (fun b q =>
      match b with
      | none => some q
      | some x => some (min x q)) none
  | _ => none

/-- A guest memory request is no longer held; GINV may now go out for its grant (R402). -/
def dropGuestReq (n : Nat) (s : State) : State :=
  if s.guest.reqs.any (·.1 == n) then ((s.unhold n).onGuest (fun g => { g with reqs := g.reqs.filter (·.1 ≠ n) })).tellGrants else s

/-- The FAULT wake of a reported fault of the guest: its team is the one that pushed the packet (R403, R405). -/
def wakeTag (s : State) (t : GTag) : State :=
  if (s.team? t.team).any (fun m => m.faults.contains t.key) then faultWake s t.team t.key else s

/-- The guest is fenced. A packet that was outstanding counts as cancelled from then on. -/
def fence (s : State) (cause : BitVec 8) : State :=
  let s := s.guest.reqs.foldl (fun s h => s.unhold h.1) s
  let s := s.onGuest (fun g => { g with state := .fenced, cause := cause, grants := [], reqs := [] })
  let s := (s.guest.tags.filter (·.reported)).foldl wakeTag s
  let hit := s.ops.filterMap (fun o => (guestQueueOf s o).map (fun q => (o.id, q)))
  let s := hit.foldl (fun s h =>
    match s.op? h.1 with
    | some o => (match o.stat with | .fault .. => s | _ => s.opFail o .guestFault (BitVec.ofNat 64 h.2))
    | none => s) s
  let s := s.guest.packets.foldl (fun s p => writeCompl s p (2 ^ 64 - 1)) s
  s.onGuest (fun g => { g with
    cancelled := g.cancelled ++ g.packets.map (fun p => (p.queue, p.seq))
    packets := [], tags := [], waitReqs := [], preempt := [], notify := [], stopped := [], head := g.tail, linksUp := false })

/-- A breach fences an enabled guest. -/
def breach (s : State) (cause : BitVec 8) : State := if s.guestOn then fence s cause else s

def causeINVAL : BitVec 8 := 1
def causeFAULTRPT : BitVec 8 := 2
def causePREEMPT : BitVec 8 := 3
def causePROTOCOL : BitVec 8 := 5
def causeRELEASE : BitVec 8 := 6
def causeLATE : BitVec 8 := 7
def causeHOST : BitVec 8 := 8
def causeLINK : BitVec 8 := 9

/-! States of the site (R396, R397). -/

/-- OFF with ARM = 1 and both links trained: MNONCE is sent. -/
def startMeasure (s : State) : State :=
  if s.guest.state == .off && s.guest.arm && s.guest.linksUp then
    let (n, s) := s.nextFree
    let x := Config.nonce n
    (s.onGuest (fun g => { g with state := .measuring, nonce := x })).tell 0x01 [x.toNat]
  else s

/-- GCTL_WRITE (R396). -/
def execGctlWrite (val : BitVec 64) (s : State) : Result :=
  let arm := val.getLsbD 0
  let s := s.onGuest (fun g => { g with arm := arm })
  .next (match s.guest.state with
    | .refused => startMeasure (s.onGuest (fun g => { g with state := .off }))
    | .measuring => if arm then s else s.onGuest (fun g => { g with state := .refused })
    | .enabled => if arm then s else fence s causeHOST
    | _ => startMeasure s)

/-- GUEST_LINKS_TRAINED (R396). -/
def execGuestLinksTrained (s : State) : Result :=
  whenReady s (fun s => startMeasure (s.onGuest (fun g => { g with linksUp := true, state := if g.state == .refused then .off else g.state })))

/-- GUEST_LINK_LOSS (R405). -/
def execGuestLinkLoss (s : State) : Result := .next ((breach s causeLINK).onGuest (fun g => { g with linksUp := false }))

/-- GUEST_RESET_COMPLETE (R396, R405): both links have trained again. -/
def execGuestResetComplete (s : State) : Result :=
  whenReady s (fun s => if s.guest.state == .fenced then startMeasure (s.onGuest (fun g => { g with state := .off, linksUp := true })) else s)

/-- Bytes of a record. -/
def bytesAt (l : List Byte) (off n : Nat) : List Byte := (l.drop off).take n

/-- The guest keys of the configuration record (R409). -/
def guestKeys (s : State) : List (List Byte) :=
  (List.range (min 4 (leNat (bytesAt s.cfg 0x28 1)))).map (fun k => bytesAt s.cfg (0x30 + 57 * k) 57)

/-- A measurement record is valid (R397). -/
def mrecOk (s : State) (r : List Byte) : Bool :=
  r.length == 320 && leNat (bytesAt r 0 4) == 0x4D4F5254 && leNat (bytesAt r 0x0C 4) == 0 && leNat (bytesAt r 0xA9 7) == 0 &&
  leNat (bytesAt r 0x122 30) == 0 && leNat (bytesAt r 0x50 32) == s.guest.nonce.toNat && (guestKeys s).contains (bytesAt r 0x70 57) &&
  Config.ed448Verify (bytesAt r 0x70 57) (bytesAt r 0xB0 114) (bytesAt r 0 0xB0)

/-- MREC (R396, R397). -/
def execMrec (record : List (BitVec 8)) (s : State) : Result :=
  .next (if s.guest.state != .measuring then s
    else if mrecOk s record then (s.onGuest (fun g => { g with state := .enabled, gmrec := record })).tell 0x03 []
    else s.onGuest (fun g => { g with state := .refused }))

/-- MREC_TIMEOUT: no MREC within 100 ms (R396). Assumption 32, DESIGN CHOICE. -/
def execMrecTimeout (s : State) : Result :=
  .next (if s.guest.state == .measuring then s.onGuest (fun g => { g with state := .refused }) else s)

/-- GUEST_MESSAGE_UNLISTED_TYPE (R400). -/
def execGuestMessageUnlistedType (s : State) : Result := .next (breach s causePROTOCOL)

/-! Writes to queue registers (R398, R404). -/

/-- The queue holds packets that the guest has not consumed. -/
def gqBusy (s : State) (q : Nat) : Bool := gqValid s q && gqHead s q ≠ gqTail s q

/-- The address lies outside the HBM of die 0 and die 1. -/
def badGuestBase (x : Nat) : Bool := 2 ^ 38 ≤ x

def State.gErr (s : State) : State := s.onGuest (fun g => { g with err := true })

/-- QRESUME: STOPPED := 0, and the QNOTIFY messages that were held go out, oldest first (R399, R404). -/
def resume (s : State) (q : Nat) : State :=
  let held := s.guest.notify.filter (·.1 == q)
  let s := (s.onGuest (fun g => { g with stopped := g.stopped.filter (· ≠ q), notify := g.notify.filter (·.1 ≠ q) })).tell 0x14 [q]
  held.foldl (fun s n => s.tell 0x10 [q, n.2.toNat]) s

/-- A write of GQCTL.STOP (R404). -/
def writeStop (s : State) (q : Nat) (stop : Bool) : State :=
  let was := s.guest.stop.contains q
  if stop && !was then
    let s := s.onGuest (fun g => { g with stop := g.stop ++ [q] })
    if s.guestOn then (s.onGuest (fun g => { g with preempt := g.preempt ++ [(q, none)] })).tell 0x12 [q] else s
  else if !stop then resume (s.onGuest (fun g => { g with stop := g.stop.filter (· ≠ q) })) q
  else s

def execGqctlStopWrite (q : BitVec 8) (stop : Bool) (s : State) : Result := .next (writeStop s q.toNat stop)

/-- GQ_REGISTER_WRITE (R398): GQBASE, GQCKPT or GQCTL. -/
def execGqRegisterWrite (q : BitVec 8) (reg : BitVec 5) (val : BitVec 64) (s : State) : Result :=
  let n := q.toNat
  let base := val.toNat / 2 ^ 12 * 2 ^ 12
  .next (match reg.toNat with
    | 0x00 =>
      if gqBusy s n || badGuestBase base then s.gErr
      else
        let order := if 9 ≤ val.toNat / 2 ^ 4 % 16 then gqOrder s n else val.toNat / 2 ^ 4 % 16
        s.setBar (gqOff n) (BitVec.ofNat 64 (base + order * 2 ^ 4 + val.toNat % 2))
    | 0x08 => if gqBusy s n || badGuestBase base then s.gErr else s.setBar (gqOff n + 8) (BitVec.ofNat 64 base)
    | 0x10 =>
      let part : BitVec 6 := val.setWidth 6
      let s := if part = gqPart s n then s
        else if gqBusy s n then s.gErr else s.setBar (gqOff n + 0x10) (part.setWidth 64)
      writeStop s n (val.getLsbD 7)
    | _ => s)

/-! Packets (R399). -/

/-- Packets of a queue whose COMPL is 0 are outstanding until HEAD passes them. -/
def passed (head seq : Word) : Bool := 0 < (head - seq).toNat && (head - seq).toNat < 2 ^ 31

/-- QNOTIFY is held while STOPPED is 1, and from STOP := 1 on, which a push may meet (R399, R406). Assumption 31, DEDUCED. -/
def notifyHeld (s : State) (q : Nat) : Bool := s.guest.stopped.contains q || s.guest.stop.contains q

/-- QUEUE_PACKET_WRITE (R399): the packet of an accepted `gqpush` enters its queue, and the guest is notified. -/
def execQueuePacketWrite (op : Nat) (s : State) : Result :=
  match s.op? op with
  | none => .next s
  | some o =>
    if o.kind ≠ .gqpush || o.isFree || o.progress = 0 || (match o.stat with | .fault .. => true | _ => false) then .next s
    else
      let q := o.n
      if !s.guestOn then .next (s.opFail o .guestFault (BitVec.ofNat 64 q))
      else if gqSize s q ≤ (gqTail s q - gqHead s q).toNat then .next s
      else
        let t := gqTail s q
        let bytes := leBytes 4 o.ctx.toNat ++ leBytes 4 t.toNat ++ o.payload.drop 8
        let p : GPacket := {
          queue := q, seq := t, ctx := o.ctx, team := o.team, sid := o.sid, op := o.id
          compl := BitVec.ofNat 64 (leNat ((o.payload.drop 8).take 8)) }
        let s := { s with mem := setBytes s.mem (gqSlot s q t) bytes }
        let s := s.onGuest (fun g => { g with
          tail := Sparse.set 0 g.tail q (t + 1), packets := g.packets ++ [p], cancelled := g.cancelled.filter (· ≠ (q, t)) })
        let s := if notifyHeld s q then s.onGuest (fun g => { g with notify := g.notify ++ [(q, t + 1)] })
          else s.tell 0x10 [q, (t + 1).toNat]
        .next (s.opDone o)

/-- QCONSUME (R399). -/
def execQconsume (q : BitVec 16) (head : BitVec 32) (s : State) : Result :=
  let n := q.toNat
  if !s.guestOn then .next s
  else if !gqValid s n || (gqTail s n - gqHead s n).toNat < (head - gqHead s n).toNat then .next (fence s causePROTOCOL)
  else .next (s.onGuest (fun g => { g with
    head := Sparse.set 0 g.head n head
    packets := g.packets.filter (fun p => !(p.queue == n && p.compl == 0 && passed head p.seq)) }))

/-- `kill` and `ctxfree` ask for the pre-emption of every queue that holds a packet of the context, and drop its grants (R402, R404). -/
def preemptContext (s : State) (ctx : Word) : State :=
  let s := s.dropGrants (fun g => g.ctx == ctx)
  if !s.guestOn then s
  else
    (((s.guest.packets.filter (fun p => p.ctx == ctx)).map (·.queue)).dedup).foldl (fun s q =>
      (s.onGuest (fun g => { g with preempt := g.preempt ++ [(q, some ctx)] })).tell 0x12 [q]) s

/-- An outstanding packet is cancelled (R404). -/
def cancelPacket (s : State) (p : GPacket) : State :=
  let s := { s with mem := setBytes s.mem (gqSlot s p.queue p.seq) (leBytes 4 0) }
  let s := writeCompl s p (2 ^ 64 - 3)
  s.onGuest (fun g => { g with
    cancelled := g.cancelled ++ [(p.queue, p.seq)]
    packets := g.packets.filter (fun x => !(x.queue == p.queue && x.seq == p.seq))
    tags := g.tags.filter (fun t => !(t.queue == p.queue && t.seq == p.seq && !t.reported)) })

/-- PREACK (R404). -/
def execPreack (q : BitVec 16) (s : State) : Result :=
  let n := q.toNat
  if !s.guestOn then .next s
  else if !gqValid s n then .next (fence s causePROTOCOL)
  else
    let ctxs := s.guest.preempt.filterMap (fun x => if x.1 = n then x.2 else none)
    let s := s.onGuest (fun g => { g with stopped := g.stopped.filter (· ≠ n) ++ [n], preempt := g.preempt.filter (fun x => x.1 ≠ n) })
    let s := (s.guest.packets.filter (fun p => p.queue == n && ctxs.contains p.ctx)).foldl cancelPacket s
    .next (if !ctxs.isEmpty && !s.guest.stop.contains n then resume s n else s)

/-- PREEMPT_DEADLINE: no PREACK within 20 µs (R404). -/
def execPreemptDeadline (q : BitVec 16) (s : State) : Result :=
  .next (if s.guest.preempt.any (fun x => x.1 == q.toNat) then breach s causePREEMPT else s)

/-! Grants (R401, R402). -/

def packet? (s : State) (q : Nat) (seq : Word) : Option GPacket := s.guest.packets.find? (fun p => p.queue == q && p.seq == seq)

/-- KIND of an XLREQ. -/
def xlKind (kind : BitVec 8) : AKind := if kind.getLsbD 1 then (if kind.getLsbD 0 then .rw else .write) else .read

/-- The cached leaf of an address in a context's tables, which the walk for it has left. -/
def grantEntry (s : State) (ctx : Word) (va : Dword) : Option TlbEntry :=
  let c := s.ctx ctx
  s.tlb.find? (fun e => e.die == handleDie ctx && e.kind == 0 && e.part == fld ctx 16 6 && e.covers va.toNat &&
    (e.root == c.root || (e.perm.getLsbD 4 && e.perm.toNat / 32 % 4 == c.profile.toNat)))

/-- The guest-physical address of the 4 KiB that hold an address, its object, and the table line of its leaf. -/
def grantOrigin (s : State) (ctx : Word) (va : Dword) : Nat × Option (BitVec 48) × Nat :=
  match grantEntry s ctx va with
  | none => (0, none, 0)
  | some e =>
    let g := e.target va.toNat / 2 ^ 12 * 2 ^ 12
    (g, if 0x0080000000000000 ≤ g && g < 0x0100000000000000 then some (objOf (fld ctx 16 6) g) else none, e.line)

/-- The permissions of the page at a guest-physical address (R401): those of the leaf, within those of what the GPA resolves to. -/
def grantPerm (s : State) (ctx : Word) (va : Dword) (gpa : Nat) : BitVec 2 :=
  let may := fun (k : AKind) => match (resolveGpa s (handleDie ctx) ctx k false gpa).2 with | .fault _ => false | _ => true
  let w := (grantEntry s ctx va).any (·.perm.getLsbD 0) && may .write
  (if may .read then 1 else 0) + (if w then 2 else 0)

/-- log2 of the page that holds an address in a context's translation (R401): 64 KiB for an object page, else the smaller of the host
table's page and the stage-2 page; a view of a region counts in 4 KiB pages. Assumption 31, DEDUCED. -/
def grantLog (s : State) (ctx : Word) (va : Dword) (gpa : Nat) (obj : Bool) : Nat :=
  let part := fld ctx 16 6
  let prof := s.walkProf (s.ctx ctx).profile.toNat
  let host := match walkFrom s (handleDie ctx) part prof va.toNat (prof.toNat / 2 ^ 60 % 8) ((s.ctx ctx).root.toNat / 2 ^ 12 * 2 ^ 12) with
    | .found l => l.size.log2
    | _ => 12
  let guest := fun (g : Nat) =>
    if (findView s part g).isSome then 12
    else match s2Root s false ((s.pcbReg part.toNat 0x018).toNat / 2 ^ 12 * 2 ^ 12) (g % 2 ^ 48) with
      | .found (_, size) => min host size.log2
      | _ => 12
  if obj then 16
  else if gpa < 0x0040000000000000 then
    match aliasOf s part gpa with
    | some g => guest g
    | none => host
  else guest gpa

/-- XLRSP (R400). -/
def xlrsp (s : State) (tag : BitVec 16) (status grant : Nat) (base : Dword) (log2 perm : Nat) : State :=
  s.tell 0x21 [tag.toNat, status, grant, base.toNat, log2, perm]

/-- The oldest grant that is not dropped yet is invalidated, so that a number becomes free (R401). -/
def dropOldest (s : State) : State :=
  let oldest := (s.guest.grants.filter (fun c => !c.2.dropped)).foldl (fun b c =>
    match b with
    | none => some c.2.order
    | some o => some (min o c.2.order)) none
  s.dropGrants (fun g => some g.order == oldest)

/-- The answer to an XLREQ (R401). One that finds no free grant, or a page that a migration holds or rebinds, waits; `again` says that it
has waited. -/
def answerXlreq (s : State) (again : Bool) (tag q : BitVec 16) (seq : Word) (va : Dword) (kind : BitVec 8) : State :=
  let hold := fun (s : State) => s.onGuest (fun g => { g with waitReqs := g.waitReqs ++ [(tag, q, seq, va, kind)] })
  match packet? s q.toNat seq with
  | none => xlrsp s tag 3 0 0 0 0
  | some p =>
    let grantIt := fun (s : State) =>
      let (gpa, obj, line) := grantOrigin s p.ctx va
      if obj.any (fun o => (s.pde? o).any (fun d => d.mig.any (·.rebinding))) then hold s
      else match firstFree (s.guest.grants.map (·.1)).contains id (min 4096 (s.guest.grants.length + 1)) 0 with
      | some n =>
        let perm := grantPerm s p.ctx va gpa
        let log2 := grantLog s p.ctx va gpa obj.isSome
        let base := va &&& ~~~(BitVec.ofNat 64 (2 ^ log2 - 1))
        let g : Grant := {
          ctx := p.ctx, base := base, log2 := log2, perm := perm, order := s.guest.grantNext
          gpa := gpa / 2 ^ log2 * 2 ^ log2, obj := obj, line := line }
        let s := s.onGuest (fun x => { x with
          grants := x.grants.filter (fun c => c.1 < n) ++ [(n, g)] ++ x.grants.filter (fun c => n < c.1), grantNext := x.grantNext + 1 })
        xlrsp s tag 0 n base log2 perm.toNat
      | none => hold (if again && s.guest.grants.any (·.2.dropped) then s else dropOldest s)
    match translate s (bufSpace p.ctx) (xlKind kind) false va with
    | (s, .ok (.fab _)) => xlrsp s tag 2 0 0 0 0
    | (s, .ok _) => grantIt s
    | (s, .snoop _ _) => grantIt s
    | (s, .moving _) => hold s
    | (s, .busy) => hold s
    | (s, .fault _) => xlrsp s tag 2 0 0 0 0
    | (s, r) =>
      let (s, key) := resolveFree s p.ctx (handleDie p.ctx) (kind.getLsbD 1) r va
      let t : GTag := { tag := tag, queue := q.toNat, seq := seq, va := va, key := key, team := p.team }
      xlrsp (s.onGuest (fun g => { g with tags := g.tags ++ [t] })) tag 1 0 0 0 0

/-- XLREQ (R401). Assumption 31, DEDUCED. -/
def execXlreq (tag : BitVec 16) (q : BitVec 16) (seq : BitVec 32) (va : BitVec 64) (kind : BitVec 8) (s : State) : Result :=
  .next (if s.guestOn then answerXlreq s false tag q seq va kind else s)

/-- The XLREQ that has waited longest is tried again. -/
def retryXlreq (s : State) : State :=
  match s.guest.waitReqs with
  | [] => s
  | (tag, q, seq, va, kind) :: l => answerXlreq (s.onGuest (fun g => { g with waitReqs := l })) true tag q seq va kind

/-- GINVACK (R402): the number is free again. -/
def execGinvack (grant : BitVec 16) (s : State) : Result :=
  .next (if s.guest.grants.any (fun c => c.1 == grant.toNat && c.2.told) then
      retryXlreq (s.onGuest (fun g => { g with grants := g.grants.filter (fun c => c.1 ≠ grant.toNat) }))
    else s)

/-- GINV_DEADLINE: no GINVACK within 10 µs (R402). -/
def execGinvDeadline (grant : BitVec 16) (s : State) : Result :=
  .next (if s.guest.grants.any (fun c => c.1 == grant.toNat && c.2.told) then breach s causeINVAL else s)

/-! Faults of the guest (R403). -/

/-- FAULT. -/
def execFault (tag : BitVec 16) (s : State) : Result :=
  if !s.guestOn then .next s
  else
    match s.guest.tags.find? (fun t => t.tag == tag && !t.reported) with
    | none => .next (fence s causePROTOCOL)
    | some t =>
      match t.res with
      | some st => .next ((s.onGuest (fun g => { g with tags := g.tags.erase t })).tell 0x25 [tag.toNat, st])
      | none =>
        let s := s.onGuest (fun g => { g with tags := g.tags.map (fun x => if x = t then { x with reported := true } else x) })
        .next (if (s.team? t.team).any (!·.ended) then holdTeam s t.team t.key else s)

/-- FAULT_REPORT_DEADLINE: neither FAULT nor COMPL within 5 µs of XLRSP FAULT (R403). -/
def execFaultReportDeadline (tag : BitVec 16) (s : State) : Result :=
  .next (if s.guest.tags.any (fun t => t.tag == tag && !t.reported) then breach s causeFAULTRPT else s)

/-! Guest memory requests (R395, R399, R401, R404). -/

/-- The device has cancelled the packet. -/
def wasCancelled (s : State) (q : Nat) (seq : Word) : Bool := s.guest.cancelled.contains (q, seq)

/-- The packet has been written to its queue. -/
def wasWritten (s : State) (q : Nat) (seq : Word) : Bool := passed (gqTail s q) seq

/-- A request that is refused: no effect, answered with an error. -/
def guestRefuse (s : State) : State := s.send (.guestData 1 [])

/-- A COMPL write has been performed: its packet is complete. -/
def completePacket (s : State) (p : GPacket) : State :=
  s.onGuest (fun g => { g with
    packets := g.packets.filter (fun x => !(x.queue == p.queue && x.seq == p.seq))
    tags := g.tags.filter (fun t => !(t.queue == p.queue && t.seq == p.seq && !t.reported)) })

/-- The grant of a request. -/
def State.grant? (s : State) (g : GuestReq) : Option Grant := Sparse.get none (s.guest.grants.map (fun c => (c.1, some c.2))) g.grant.toNat

/-- The bytes of two requests meet. -/
def reqsMeet (s : State) (g h : GuestReq) : Bool :=
  match s.grant? g, s.grant? h with
  | some x, some y =>
    let a := x.base + g.offset
    let b := y.base + h.offset
    g.area == 0 && h.area == 0 && x.ctx == y.ctx && decide ((b - a).toNat < g.size || (a - b).toNat < h.size)
  | _, _ => false

/-- A request waits for the earlier ones that are held and name its queue, or bytes of its own: the guest is one agent (R308), and a COMPL
write is performed after every earlier write of its queue (R324, R404). -/
def guestBehind (s : State) (n : Nat) (g : GuestReq) : Bool :=
  s.guest.reqs.any (fun h => h.1 < n && (h.2.queue == g.queue || reqsMeet s g h.2))

/-- Request number `n` waits. -/
def holdGuestReq (n : Nat) (g : GuestReq) (s : State) : State :=
  s.onGuest (fun y => { y with reqs := if y.reqs.any (·.1 == n) then y.reqs else y.reqs ++ [(n, g)] })

/-- A request in the queue's own areas: slots read-only, checkpoint read-write. -/
def queueArea (s : State) (n : Nat) (g : GuestReq) (p : Option GPacket) : State :=
  let q := g.queue.toNat
  let (base, len) := if g.area = 1 then (gqBase s q, gqSize s q * 64) else (gqCkpt s q, 2 ^ 16)
  let a := base + g.offset.toNat
  let s' := dropGuestReq n s
  if !gqValid s q || len < g.offset.toNat + g.size || (g.area = 1 && g.write) then guestRefuse s'
  else if !g.write then s'.send (.guestData 0 (memBytes s.mem a g.size))
  else if guestBehind s n g then holdGuestReq n g s
  else
    let s' := { s' with mem := setBytes s.mem a (g.data.take g.size) }.send (.guestData 0 [])
    match p with
    | some p => if g.compl then completePacket s' p else s'
    | none => s'

/-- Request number `n`, through a grant for an outstanding packet. One that has been accepted is performed though its grant has been
dropped since (R402); a page of it that has gone to T2 meanwhile is recalled (R365). -/
def grantAccess (s : State) (n : Nat) (g : GuestReq) (p : GPacket) : State :=
  match s.grant? g with
  | none => guestRefuse (dropGuestReq n s)
  | some x =>
    let accepted := s.guest.reqs.any (·.1 == n)
    if (x.dropped && !accepted) || x.ctx ≠ p.ctx || 2 ^ x.log2 < g.offset.toNat + g.size || (if g.write then !x.perm.getLsbD 1 else !x.perm.getLsbD 0) then
      guestRefuse (dropGuestReq n s)
    else
      let va := x.base + g.offset
      let q := if g.write then writeReq va (g.data.take g.size) else readReq va g.size
      let hold := holdGuestReq n g
      if guestBehind s n g || !s.holdTurn n then hold s
      else
        match runReq s (bufSpace x.ctx) q with
        | .done s' imgs =>
          let s' := (dropGuestReq n s').send (.guestData 0 (if g.write then [] else imgBytes imgs g.size))
          if g.write && g.compl then completePacket s' p else s'
        | .again s' => hold s'
        | .held obj => hold (s.hold obj (handleDie x.ctx) n).1
        | .park (.recall obj) va =>
          hold (if s.resolves.any (fun r => r.who.isNone && r.obj == obj && r.ctx == x.ctx) then s.unhold n
            else (resolveFree (s.unhold n) x.ctx (handleDie x.ctx) g.write (.recall obj) va).1)
        | _ => (dropGuestReq n s).send (.guestData 2 [])

/-- Request number `n` of the guest, new or held (R399, R404). A write that names a packet the device has cancelled is refused, also in the
checkpoint area; reads of the queue's areas name no packet. -/
def serveGuest (s : State) (n : Nat) (g : GuestReq) : State :=
  let q := g.queue.toNat
  let p := packet? s q g.seq
  if !s.guestOn then s
  else if g.write && g.compl && !g.rel then fence s causeRELEASE
  else if g.write && p.isNone && q < 256 && wasWritten s q g.seq && !wasCancelled s q g.seq then fence s causeLATE
  else if g.area ≠ 0 && !(g.write && wasCancelled s q g.seq) then queueArea s n g p
  else
    match p with
    | some p => grantAccess s n g p
    | none => guestRefuse (dropGuestReq n s)

/-- GUEST_MEMORY_REQUEST. -/
def execGuestMemoryRequest (g : GuestReq) (s : State) : Result :=
  .next (if s.guestOn then serveGuest { s with nextId := s.nextId + 1 } s.nextId g else s)

end Sys2Proof.Machine
end

