-- ==== Sys2Proof/Machine/Vector.lean ====
section
/-! DEFINITION. The VEC engine: the issue clock and the scoreboard, element-wise words, compares and masks, moves, reductions and scans
(06_instruction_encoding.md R92 to R95; 11_vector_instructions.md R180 to R192). -/

namespace Sys2Proof.Machine

/-! Elements of a register (R54). -/

/-- Element `i` of width `w`. -/
def elemAt (v : Vec) (w i : Nat) : Nat := v.toNat / 2 ^ (w * i) % 2 ^ w

/-- Elements packed from element 0 on; what is left over is 0. -/
def packNat (w : Nat) : List Nat → Nat
  | [] => 0
  | x :: l => x % 2 ^ w + 2 ^ w * packNat w l

def packVec (w : Nat) (l : List Nat) : Vec := BitVec.ofNat 4096 (packNat w l)

/-- A mask with bit `i` set where `f i` holds, i below n. -/
def maskWhere (n : Nat) (f : Nat → Bool) : Mask := BitVec.ofNat 1024 (packNat 1 ((List.range n).map (fun i => if f i then 1 else 0)))

/-! The scoreboard (R94, R95). -/

/-- Masks that a word reads: its EXT.MASK and its mask sources. -/
def maskReads (i : Instr) (u : EUnit) : List Nat := (rolesOf i).maskReads u

/-- Masks that a word writes. -/
def maskWrites (i : Instr) : List Nat := (rolesOf i).toMask.toList.map (·.toNat)

/-- Writes not complete at cycle `c` that the word reads. -/
def earlyReads (pend : List PendWrite) (c : Nat) (regs masks : List Nat) : List PendWrite :=
  pend.filter (fun p => c < p.ready && (if p.isMask then masks.contains p.idx else regs.contains p.idx))

/-- The registers as an early reader sees them under mode 0: the value before the first pending write stands.
Assumption 41, DEDUCED. -/
def beforeWrites (t : Strand) : List PendWrite → Strand
  | [] => t
  | p :: ps =>
    let t := beforeWrites t ps
    if p.isMask then t.setMr p.idx (p.old.setWidth 1024) else t.setVr p.idx p.old

/-- Pending writes of a word with latency `lat` that issues at cycle `c`; the last of them carries its signal and its flags. -/
def newWrites (t : Strand) (c lat : Nat) (regs masks : List Nat) (sig : Option (BitVec 4)) (flags : Flags) : List PendWrite :=
  let l := masks.map (fun m => (true, m, (t.mr m).setWidth 4096)) ++ regs.map (fun r => (false, r, t.vr r))
  l.zipIdx.map (fun x => ⟨x.1.1, x.1.2.1, x.1.2.2, c + lat, if x.2 + 1 = l.length then sig else none, if x.2 + 1 = l.length then flags else 0⟩)

/-- The effect of a VEC or SFU word with operands `r`: no earlier than the stall count of the word before allows, with early reads as SCBM
says; then `body view t`, where `view` has the registers as the word reads them (R94, R95). `mr` and `mw` are the masks it reads and
writes; `sfu` selects the queue. A word that writes registers or masks signals and raises its flags once they are written (R43, R64).
Assumption 10, DESIGN CHOICE. -/
def enginesAct (r : Roles) (mr mw : List Nat) (sfu : Bool) (lat stall : Nat) (body : Strand → Strand → Strand) (s : State) : Act :=
  let t := s.cs
  let u := t.unit
  let mode := t.scbm
  let (n, s) := s.nextFree
  let c0 := max (if sfu then t.sclk else t.vclk) t.cyc + Config.issueDelay n
  let early := earlyReads (if sfu then t.spend else t.pend) c0 (r.regs t u (·.src)) mr
  if mode = 1 && !early.isEmpty then .trap .stallCheck (u.word.setWidth 64)
  else
    let c := if mode = 2 then early.foldl (fun c p => max c p.ready) c0 else c0
    let t := t.settlePend sfu c
    let view := if mode = 0 then beforeWrites t early else t
    let t' := body view { t with flags := 0 }
    let new := newWrites t c lat (r.regs t u (·.dst)) mw u.sig t'.flags
    let t' := { t' with flags := if new.isEmpty then t.flags ||| t'.flags else t.flags }
    let s := s.onCs (fun _ =>
      if sfu then { t' with sclk := c + stall, spend := t.spend ++ new } else { t' with vclk := c + stall, pend := t.pend ++ new })
    if new.isEmpty then .ok s else .okNoSig s

/-- The issue of such a word. -/
def enginesWord (r : Roles) (fate : Option Cause) (mr mw : List Nat) (sfu : Bool) (lat stall : Nat) (body : Strand → Strand → Strand)
    (s : State) : Result :=
  .next (issueWith r fate s (undamaged r (enginesAct r mr mw sfu lat stall body)))

/-- Fixed latencies of the VEC words (R182). -/
def vecLatency : Instr → Nat
  | .mand .. | .mor .. | .mxor .. | .mnot .. | .msetLt .. | .msetGe .. | .msetQ .. | .mpopc .. | .mfirst .. => 1
  | .vext .. | .vins .. | .vperm .. | .vshuf .. | .vrot .. | .vlut .. => 3
  | .vmul .. | .vmulh .. | .vmad .. | .vfadd .. | .vfsub .. | .vfmul .. | .vfma .. | .vcvt .. | .vdequant .. | .vrbias .. => 4
  | .vredAdd .. | .vredMax .. | .vredMin .. | .vfredAdd .. | .vfredMax .. | .vfredMin .. | .vsmxFin .. => 6
  | .vscanAdd .. | .vquant .. => 8
  | .vsmxUpd .. => 12
  | _ => 2

/-- A VEC word: its stall count is EXT.STALL, else its latency if S = 1, else 0 (R94). -/
def vecWord (i : Instr) (sbit : BitVec 1) (body : Strand → Strand → Strand) (s : State) : Result :=
  let stall := match s.cs.unit.ext 3 with
    | some x => fldN x 0 4
    | none => if sbit = 1 then vecLatency i else 0
  enginesWord (rolesOf i) (fateOf s i) (maskReads i s.cs.unit) (maskWrites i) false (vecLatency i) stall body s

/-! Writing results (R181). -/

/-- The sources of a word: values as the word reads them, and the strand after its pops. -/
def sources (view t : Strand) (fs : List (Nat × BitVec 6)) : List Vec × Strand :=
  ((takeSources t.unit fs view).1, (takeSources t.unit fs t).2)

/-- One result per element into field D: `f i` for the active elements, merged or zeroed elsewhere (R92, R181). -/
def putLanes (view t : Strand) (d : BitVec 6) (w n : Nat) (f : Nat → Nat × Flags) : Strand :=
  let (m, z) := view.maskOf t.unit
  let rs := (List.range n).map (fun i => if m.getLsbD i then some (f i) else none)
  let t := t.raise (rs.foldl (fun b r => match r with | some x => b ||| x.2 | none => b) 0)
  match t.vname t.unit 19 d with
  | .queue q => t.pushq q {
      data := packVec w (rs.map (fun r => match r with | some x => x.1 | none => 0)), mask := maskWhere n (fun i => m.getLsbD i) }
  | .reg k =>
    let old := t.vr k
    t.setVr k (packVec w ((rs.zip (List.range n)).map (fun p => match p.1 with
      | some x => x.1
      | none => if z then 0 else elemAt old w p.2)))

/-- A whole value into a field: no merge; a queue entry with the given mask. `k` is the field's EXT.IND bit. -/
def putWhole (t : Strand) (k : Nat) (d : BitVec 6) (v : Vec) (mask : Mask) : Strand :=
  match t.vname t.unit k d with
  | .queue q => t.pushq q { data := v, mask := mask }
  | .reg r => t.setVr r v

/-- The value of D as a register source. -/
def dReg (view : Strand) (t : Strand) (d : BitVec 6) : Vec :=
  match t.vname t.unit 19 d with
  | .reg k => view.vr k
  | .queue _ => 0

/-! Integer words (R183 to R185). -/

/-- Signed integer codes are even (R82). -/
def signedTy (y : BitVec 3) : Bool := y.toNat % 2 = 0

/-- A number of `w` bits as an integer of the type. -/
def intVal (y : BitVec 3) (x : Nat) : Int := if signedTy y then signOf x (wInt y) else x

/-- An integer modulo 2^w. -/
def wrapTo (w : Nat) (i : Int) : Nat := (i % (2 ^ w : Nat)).toNat

/-- A two-source integer word. -/
def intWord2 (i : Instr) (y : BitVec 3) (d a b : BitVec 6) (sbit : BitVec 1) (f : Nat → Nat → Nat) (s : State) : Result :=
  vecWord i sbit (fun view t =>
    let (vs, t) := sources view t [(18, a), (17, b)]
    let va := vs.headD 0
    let vb := (vs[1]?).getD 0
    putLanes view t d (wInt y) (nInt y) (fun k => (f (elemAt va (wInt y) k) (elemAt vb (wInt y) k), 0))) s

/-- An integer word that also reads D. -/
def intWord3 (i : Instr) (y : BitVec 3) (d a b : BitVec 6) (sbit : BitVec 1) (f : Nat → Nat → Nat → Nat) (s : State) : Result :=
  vecWord i sbit (fun view t =>
    let vd := dReg view t d
    let (vs, t) := sources view t [(18, a), (17, b)]
    let va := vs.headD 0
    let vb := (vs[1]?).getD 0
    putLanes view t d (wInt y) (nInt y) (fun k =>
      (f (elemAt vd (wInt y) k) (elemAt va (wInt y) k) (elemAt vb (wInt y) k), 0))) s

/-- A one-source integer word. -/
def intWord1 (i : Instr) (y : BitVec 3) (d a : BitVec 6) (sbit : BitVec 1) (f : Nat → Nat) (s : State) : Result :=
  vecWord i sbit (fun view t =>
    let (vs, t) := sources view t [(18, a)]
    let va := vs.headD 0
    putLanes view t d (wInt y) (nInt y) (fun k => (f (elemAt va (wInt y) k), 0))) s

/-- Left shift of a `w`-bit element: 0 when the amount is w or more (R183). -/
def shlElem (w a n : Nat) : Nat := if w ≤ n then 0 else a * 2 ^ n % 2 ^ w

/-- Right shift by the type's signedness (R183). -/
def shrElem (y : BitVec 3) (a n : Nat) : Nat :=
  let w := wInt y
  if signedTy y then wrapTo w (signOf a w / (2 ^ (min n w) : Nat)) else if w ≤ n then 0 else a / 2 ^ n

def minElem (y : BitVec 3) (a b : Nat) : Nat := if intVal y a ≤ intVal y b then a else b
def maxElem (y : BitVec 3) (a b : Nat) : Nat := if intVal y a ≤ intVal y b then b else a

def execVadd (y : BitVec 3) (d a b : BitVec 6) (s1 : BitVec 1) (s : State) : Result :=
  intWord2 (.vadd y d a b s1) y d a b s1 (fun a b => (a + b) % 2 ^ wInt y) s
def execVsub (y : BitVec 3) (d a b : BitVec 6) (s1 : BitVec 1) (s : State) : Result :=
  intWord2 (.vsub y d a b s1) y d a b s1 (fun a b => (a + 2 ^ wInt y - b) % 2 ^ wInt y) s
def execVmul (y : BitVec 3) (d a b : BitVec 6) (s1 : BitVec 1) (s : State) : Result :=
  intWord2 (.vmul y d a b s1) y d a b s1 (fun a b => a * b % 2 ^ wInt y) s
def execVmulh (y : BitVec 3) (d a b : BitVec 6) (s1 : BitVec 1) (s : State) : Result :=
  intWord2 (.vmulh y d a b s1) y d a b s1 (fun a b => wrapTo (wInt y) (intVal y a * intVal y b / (2 ^ wInt y : Nat))) s
def execVmad (y : BitVec 3) (d a b : BitVec 6) (s1 : BitVec 1) (s : State) : Result :=
  intWord3 (.vmad y d a b s1) y d a b s1 (fun d a b => (a * b + d) % 2 ^ wInt y) s
def execVabs (y : BitVec 3) (d a : BitVec 6) (s1 : BitVec 1) (s : State) : Result :=
  intWord1 (.vabs y d a s1) y d a s1 (fun a => wrapTo (wInt y) (intVal y a).natAbs) s
def execVneg (y : BitVec 3) (d a : BitVec 6) (s1 : BitVec 1) (s : State) : Result :=
  intWord1 (.vneg y d a s1) y d a s1 (fun a => (2 ^ wInt y - a) % 2 ^ wInt y) s
def execVmin (y : BitVec 3) (d a b : BitVec 6) (s1 : BitVec 1) (s : State) : Result :=
  intWord2 (.vmin y d a b s1) y d a b s1 (minElem y) s
def execVmax (y : BitVec 3) (d a b : BitVec 6) (s1 : BitVec 1) (s : State) : Result :=
  intWord2 (.vmax y d a b s1) y d a b s1 (maxElem y) s
def execVand (y : BitVec 3) (d a b : BitVec 6) (s1 : BitVec 1) (s : State) : Result :=
  intWord2 (.vand y d a b s1) y d a b s1 (fun a b => a &&& b) s
def execVor (y : BitVec 3) (d a b : BitVec 6) (s1 : BitVec 1) (s : State) : Result :=
  intWord2 (.vor y d a b s1) y d a b s1 (fun a b => a ||| b) s
def execVxor (y : BitVec 3) (d a b : BitVec 6) (s1 : BitVec 1) (s : State) : Result :=
  intWord2 (.vxor y d a b s1) y d a b s1 (fun a b => a ^^^ b) s
def execVnot (y : BitVec 3) (d a : BitVec 6) (s1 : BitVec 1) (s : State) : Result :=
  intWord1 (.vnot y d a s1) y d a s1 (fun a => 2 ^ wInt y - 1 - a) s
def execVshl (y : BitVec 3) (d a b : BitVec 6) (s1 : BitVec 1) (s : State) : Result :=
  intWord2 (.vshl y d a b s1) y d a b s1 (shlElem (wInt y)) s
def execVshr (y : BitVec 3) (d a b : BitVec 6) (s1 : BitVec 1) (s : State) : Result :=
  intWord2 (.vshr y d a b s1) y d a b s1 (shrElem y) s
def execVpopc (y : BitVec 3) (d a : BitVec 6) (s1 : BitVec 1) (s : State) : Result :=
  intWord1 (.vpopc y d a s1) y d a s1 (countOnes (wInt y)) s
def execVclz (y : BitVec 3) (d a : BitVec 6) (s1 : BitVec 1) (s : State) : Result :=
  intWord1 (.vclz y d a s1) y d a s1 (countLeading (wInt y)) s

/-! Immediate forms (R184). -/

def execVaddi (y : BitVec 3) (d a i : BitVec 6) (s1 : BitVec 1) (s : State) : Result :=
  let imm := wrapTo (wInt y) (s.cs.unit.immS i)
  intWord1 (.vaddi y d a i s1) y d a s1 (fun a => (a + imm) % 2 ^ wInt y) s
def execVshli (y : BitVec 3) (d a i : BitVec 6) (s1 : BitVec 1) (s : State) : Result :=
  let n := s.cs.unit.immN i
  intWord1 (.vshli y d a i s1) y d a s1 (fun a => shlElem (wInt y) a n) s
def execVshri (y : BitVec 3) (d a i : BitVec 6) (s1 : BitVec 1) (s : State) : Result :=
  let n := s.cs.unit.immN i
  intWord1 (.vshri y d a i s1) y d a s1 (fun a => shrElem y a n) s

/-! Bit fields and funnel shifts (R185, as R121 and R122 with 64 replaced by w). -/

/-- Offset and width of the field description of an element; a width beyond the top is cut as R121 cuts it. -/
def elemField (w desc : Nat) : Nat × Nat :=
  let lw := if w = 32 then 5 else 4
  let o := desc % 2 ^ lw
  let n := desc / 2 ^ lw % 2 ^ (lw + 1)
  (o, min n (w - o))

def bfxElem (y : BitVec 3) (a desc : Nat) : Nat :=
  let (o, n) := elemField (wInt y) desc
  let x := a / 2 ^ o % 2 ^ n
  if signedTy y then wrapTo (wInt y) (signOf x n) else x

def bfiElem (y : BitVec 3) (d a desc : Nat) : Nat :=
  let (o, n) := elemField (wInt y) desc
  let hi := d / 2 ^ (o + n) * 2 ^ (o + n)
  hi + a % 2 ^ n * 2 ^ o + d % 2 ^ o

def execVbfx (y : BitVec 3) (d a b : BitVec 6) (s1 : BitVec 1) (s : State) : Result :=
  intWord2 (.vbfx y d a b s1) y d a b s1 (bfxElem y) s
def execVbfi (y : BitVec 3) (d a b : BitVec 6) (s1 : BitVec 1) (s : State) : Result :=
  intWord3 (.vbfi y d a b s1) y d a b s1 (bfiElem y) s
def execVfshl (y : BitVec 3) (d a b : BitVec 6) (s1 : BitVec 1) (s : State) : Result :=
  let w := wInt y
  intWord3 (.vfshl y d a b s1) y d a b s1 (fun d a b => (d * 2 ^ w + a) * 2 ^ (b % w) / 2 ^ w % 2 ^ w) s
def execVfshr (y : BitVec 3) (d a b : BitVec 6) (s1 : BitVec 1) (s : State) : Result :=
  let w := wInt y
  intWord3 (.vfshr y d a b s1) y d a b s1 (fun d a b => (d * 2 ^ w + a) / 2 ^ (b % w) % 2 ^ w) s

/-! Floating-point words (R186). -/

def floatWord2 (i : Instr) (y : BitVec 3) (d a b : BitVec 6) (sbit : BitVec 1) (f : Fmt → RMode → Nat → Nat → Nat × Flags)
    (s : State) : Result :=
  vecWord i sbit (fun view t =>
    let w := wFloat y
    let (vs, t) := sources view t [(18, a), (17, b)]
    let va := vs.headD 0
    let vb := (vs[1]?).getD 0
    putLanes view t d w (nFloat y) (fun k => f (fmtOfCode y.toNat) t.amode (elemAt va w k) (elemAt vb w k))) s

def execVfadd (y : BitVec 3) (d a b : BitVec 6) (s1 : BitVec 1) (s : State) : Result :=
  floatWord2 (.vfadd y d a b s1) y d a b s1 fAdd s
def execVfsub (y : BitVec 3) (d a b : BitVec 6) (s1 : BitVec 1) (s : State) : Result :=
  floatWord2 (.vfsub y d a b s1) y d a b s1 fSub s
def execVfmul (y : BitVec 3) (d a b : BitVec 6) (s1 : BitVec 1) (s : State) : Result :=
  floatWord2 (.vfmul y d a b s1) y d a b s1 fMul s
def execVfmin (y : BitVec 3) (d a b : BitVec 6) (s1 : BitVec 1) (s : State) : Result :=
  floatWord2 (.vfmin y d a b s1) y d a b s1 (fun f _ a b => fMinMax f false a b) s
def execVfmax (y : BitVec 3) (d a b : BitVec 6) (s1 : BitVec 1) (s : State) : Result :=
  floatWord2 (.vfmax y d a b s1) y d a b s1 (fun f _ a b => fMinMax f true a b) s

/-- `vfma`: NaN choice D, a, b (R186). -/
def execVfma (y : BitVec 3) (d a b : BitVec 6) (s1 : BitVec 1) (s : State) : Result :=
  vecWord (.vfma y d a b s1) s1 (fun view t =>
    let w := wFloat y
    let vd := dReg view t d
    let (vs, t) := sources view t [(18, a), (17, b)]
    let va := vs.headD 0
    let vb := (vs[1]?).getD 0
    putLanes view t d w (nFloat y) (fun k =>
      fFma (fmtOfCode y.toNat) t.amode (elemAt va w k) (elemAt vb w k) (elemAt vd w k))) s

/-- `vfabs` and `vfneg` change the sign bit only. -/
def signWord (i : Instr) (y : BitVec 3) (d a : BitVec 6) (sbit : BitVec 1) (f : Nat → Nat → Nat) (s : State) : Result :=
  vecWord i sbit (fun view t =>
    let w := wFloat y
    let (vs, t) := sources view t [(18, a)]
    let va := vs.headD 0
    putLanes view t d w (nFloat y) (fun k => (f w (elemAt va w k), 0))) s

def execVfabs (y : BitVec 3) (d a : BitVec 6) (s1 : BitVec 1) (s : State) : Result :=
  signWord (.vfabs y d a s1) y d a s1 (fun w x => x % 2 ^ (w - 1)) s
def execVfneg (y : BitVec 3) (d a : BitVec 6) (s1 : BitVec 1) (s : State) : Result :=
  signWord (.vfneg y d a s1) y d a s1 (fun w x => x ^^^ 2 ^ (w - 1)) s

/-! Compares (R187) and mask words (R188, R189). -/

/-- Bits below `n` of a mask destination: results where active, merged or zeroed elsewhere; bits at `n` and above become 0. -/
def putMask (view t : Strand) (d : Nat) (n : Nat) (f : Nat → Bool × Flags) : Strand :=
  let (m, z) := view.maskOf t.unit
  let old := t.mr d
  let rs := (List.range n).map (fun i => if m.getLsbD i then some (f i) else none)
  let t := t.raise (rs.foldl (fun b r => match r with | some x => b ||| x.2 | none => b) 0)
  t.setMr d (BitVec.ofNat 1024 (packNat 1 ((rs.zip (List.range n)).map (fun p => match p.1 with
    | some x => if x.1 then 1 else 0
    | none => if !z && old.getLsbD p.2 then 1 else 0))))

def intCompare (i : Instr) (y : BitVec 3) (d : BitVec 4) (a b : BitVec 6) (sbit : BitVec 1) (f : Int → Int → Bool) (s : State) : Result :=
  vecWord i sbit (fun view t =>
    let (vs, t) := sources view t [(18, a), (17, b)]
    let va := vs.headD 0
    let vb := (vs[1]?).getD 0
    putMask view t d.toNat (nInt y) (fun k => (f (intVal y (elemAt va (wInt y) k)) (intVal y (elemAt vb (wInt y) k)), 0))) s

def execVcmpEq (y : BitVec 3) (d : BitVec 4) (a b : BitVec 6) (s1 : BitVec 1) (s : State) : Result :=
  intCompare (.vcmpEq y d a b s1) y d a b s1 (fun a b => a == b) s
def execVcmpNe (y : BitVec 3) (d : BitVec 4) (a b : BitVec 6) (s1 : BitVec 1) (s : State) : Result :=
  intCompare (.vcmpNe y d a b s1) y d a b s1 (fun a b => a != b) s
def execVcmpLt (y : BitVec 3) (d : BitVec 4) (a b : BitVec 6) (s1 : BitVec 1) (s : State) : Result :=
  intCompare (.vcmpLt y d a b s1) y d a b s1 (fun a b => decide (a < b)) s
def execVcmpGe (y : BitVec 3) (d : BitVec 4) (a b : BitVec 6) (s1 : BitVec 1) (s : State) : Result :=
  intCompare (.vcmpGe y d a b s1) y d a b s1 (fun a b => decide (b ≤ a)) s

/-- A float compare with condition number `c` of R125. -/
def floatCompare (i : Instr) (c : Nat) (y : BitVec 3) (d : BitVec 4) (a b : BitVec 6) (sbit : BitVec 1) (s : State) : Result :=
  vecWord i sbit (fun view t =>
    let w := wFloat y
    let (vs, t) := sources view t [(18, a), (17, b)]
    let va := vs.headD 0
    let vb := (vs[1]?).getD 0
    putMask view t d.toNat (nFloat y) (fun k => fCmp (fmtOfCode y.toNat) c (elemAt va w k) (elemAt vb w k))) s

def execVfcmpEq (y : BitVec 3) (d : BitVec 4) (a b : BitVec 6) (s1 : BitVec 1) (s : State) : Result :=
  floatCompare (.vfcmpEq y d a b s1) 0 y d a b s1 s
def execVfcmpLt (y : BitVec 3) (d : BitVec 4) (a b : BitVec 6) (s1 : BitVec 1) (s : State) : Result :=
  floatCompare (.vfcmpLt y d a b s1) 1 y d a b s1 s
def execVfcmpLe (y : BitVec 3) (d : BitVec 4) (a b : BitVec 6) (s1 : BitVec 1) (s : State) : Result :=
  floatCompare (.vfcmpLe y d a b s1) 2 y d a b s1 s
def execVfcmpUn (y : BitVec 3) (d : BitVec 4) (a b : BitVec 6) (s1 : BitVec 1) (s : State) : Result :=
  floatCompare (.vfcmpUn y d a b s1) 3 y d a b s1 s

/-- A bitwise mask word: EXT.MASK selects the bits written (R188). -/
def maskWord (i : Instr) (d : BitVec 4) (sbit : BitVec 1) (f : Strand → Mask) (s : State) : Result :=
  vecWord i sbit (fun view t =>
    let x := f view
    let (m, z) := view.maskOf t.unit
    t.setMr d.toNat ((x &&& m) ||| (if z then 0 else t.mr d.toNat &&& ~~~m))) s

def execMand (d a b : BitVec 4) (s1 : BitVec 1) (s : State) : Result :=
  maskWord (.mand d a b s1) d s1 (fun v => v.mr a.toNat &&& v.mr b.toNat) s
def execMor (d a b : BitVec 4) (s1 : BitVec 1) (s : State) : Result :=
  maskWord (.mor d a b s1) d s1 (fun v => v.mr a.toNat ||| v.mr b.toNat) s
def execMxor (d a b : BitVec 4) (s1 : BitVec 1) (s : State) : Result :=
  maskWord (.mxor d a b s1) d s1 (fun v => v.mr a.toNat ^^^ v.mr b.toNat) s
def execMnot (d a : BitVec 4) (s1 : BitVec 1) (s : State) : Result :=
  maskWord (.mnot d a s1) d s1 (fun v => ~~~ v.mr a.toNat) s

/-- `mpopc` and `mfirst`: element 0 only; a queue entry has mask bit 0 set (R188). -/
def maskCount (i : Instr) (d : BitVec 6) (sbit : BitVec 1) (f : Strand → Nat) (s : State) : Result :=
  vecWord i sbit (fun view t => putWhole t 19 d (BitVec.ofNat 4096 (f view)) 1) s

def execMpopc (d : BitVec 6) (a : BitVec 4) (s1 : BitVec 1) (s : State) : Result :=
  maskCount (.mpopc d a s1) d s1 (fun v => countOnes 1024 (v.mr a.toNat).toNat) s
def execMfirst (d : BitVec 6) (a : BitVec 4) (s1 : BitVec 1) (s : State) : Result :=
  maskCount (.mfirst d a s1) d s1 (fun v => countTrailing 1024 (v.mr a.toNat).toNat) s

/-- Bits below a scalar count, all of them for 1,024 or more (R189). -/
def maskBelow (x : Dword) : Mask := BitVec.ofNat 1024 (2 ^ (min x.toNat 1024) - 1)

def execMsetLt (d : BitVec 4) (a : BitVec 6) (s1 : BitVec 1) (s : State) : Result :=
  vecWord (.msetLt d a s1) s1 (fun _ t => t.setMr d.toNat (maskBelow (t.sc a))) s
def execMsetGe (d : BitVec 4) (a : BitVec 6) (s1 : BitVec 1) (s : State) : Result :=
  vecWord (.msetGe d a s1) s1 (fun _ t => t.setMr d.toNat (~~~ maskBelow (t.sc a))) s

/-- `mset.q`: the element mask of a popped entry (R189). -/
def execMsetQ (d : BitVec 4) (a : BitVec 6) (s1 : BitVec 1) (s : State) : Result :=
  vecWord (.msetQ d a s1) s1 (fun _ t =>
    match t.vname t.unit 18 a with
    | .queue q => let (e, t) := t.popq q; t.setMr d.toNat e.mask
    | .reg _ => t) s

/-! Moves and permutes (R190). -/

/-- `vsel`: inactive elements take B; a queue entry carries n elements. -/
def execVsel (y : BitVec 3) (d a b : BitVec 6) (s1 : BitVec 1) (s : State) : Result :=
  vecWord (.vsel y d a b s1) s1 (fun view t =>
    let w := wInt y
    let n := nInt y
    let (vs, t) := sources view t [(18, a), (17, b)]
    let va := vs.headD 0
    let vb := (vs[1]?).getD 0
    let (m, _) := view.maskOf t.unit
    putWhole t 19 d (packVec w ((List.range n).map (fun k => if m.getLsbD k then elemAt va w k else elemAt vb w k))) (bitRun' n)) s
where
  /-- Bits 0 to n − 1. -/
  bitRun' (n : Nat) : Mask := BitVec.ofNat 1024 (2 ^ n - 1)

def execVmov (y : BitVec 3) (d a : BitVec 6) (s1 : BitVec 1) (s : State) : Result :=
  intWord1 (.vmov y d a s1) y d a s1 id s
def execVbcast (y : BitVec 3) (d a : BitVec 6) (s1 : BitVec 1) (s : State) : Result :=
  vecWord (.vbcast y d a s1) s1 (fun view t =>
    putLanes view t d (wInt y) (nInt y) (fun _ => ((t.sc a).toNat % 2 ^ wInt y, 0))) s
def execVext (y : BitVec 3) (d a b : BitVec 6) (s1 : BitVec 1) (s : State) : Result :=
  vecWord (.vext y d a b s1) s1 (fun view t =>
    let (vs, t) := sources view t [(18, a)]
    putWhole t 19 d (BitVec.ofNat 4096 (elemAt (vs.headD 0) (wInt y) ((t.sc b).toNat % nInt y))) 1) s
def execVins (y : BitVec 3) (d a b : BitVec 6) (s1 : BitVec 1) (s : State) : Result :=
  vecWord (.vins y d a b s1) s1 (fun view t =>
    let w := wInt y
    let old := dReg view t d
    let (vs, t) := sources view t [(18, a)]
    let j := (t.sc b).toNat % nInt y
    putWhole t 19 d (packVec w ((List.range (nInt y)).map (fun k => if k = j then elemAt (vs.headD 0) w 0 else elemAt old w k))) 0) s
def execVperm (y : BitVec 3) (d a b : BitVec 6) (s1 : BitVec 1) (s : State) : Result :=
  vecWord (.vperm y d a b s1) s1 (fun view t =>
    let w := wInt y
    let n := nInt y
    let (vs, t) := sources view t [(18, a), (17, b)]
    let va := vs.headD 0
    let vb := (vs[1]?).getD 0
    putLanes view t d w n (fun k => (elemAt va w (elemAt vb w k % n), 0))) s
def execVshuf (y : BitVec 3) (d a b : BitVec 6) (s1 : BitVec 1) (s : State) : Result :=
  vecWord (.vshuf y d a b s1) s1 (fun view t =>
    let w := wInt y
    let n := nInt y
    let vd := dReg view t d
    let (vs, t) := sources view t [(18, a), (17, b)]
    let va := vs.headD 0
    let vb := (vs[1]?).getD 0
    putLanes view t d w n (fun k =>
      let j := elemAt vd w k % (2 * n)
      (if j < n then elemAt va w j else elemAt vb w (j - n), 0))) s
def execVrot (y : BitVec 3) (d a b : BitVec 6) (s1 : BitVec 1) (s : State) : Result :=
  vecWord (.vrot y d a b s1) s1 (fun view t =>
    let w := wInt y
    let n := nInt y
    let (vs, t) := sources view t [(18, a)]
    putLanes view t d w n (fun k => (elemAt (vs.headD 0) w ((k + (t.sc b).toNat) % n), 0))) s
def execVidx (y : BitVec 3) (d a : BitVec 6) (s1 : BitVec 1) (s : State) : Result :=
  vecWord (.vidx y d a s1) s1 (fun view t =>
    putLanes view t d (wInt y) (nInt y) (fun k => (((t.sc a).toNat + k) % 2 ^ wInt y, 0))) s
def execVlut (y : BitVec 3) (d a b : BitVec 6) (s1 : BitVec 1) (s : State) : Result :=
  vecWord (.vlut y d a b s1) s1 (fun view t =>
    let w := wInt y
    let (vs, t) := sources view t [(18, a), (17, b)]
    let va := vs.headD 0
    let vb := (vs[1]?).getD 0
    putLanes view t d w (nInt y) (fun k => (elemAt vb w (elemAt va 4 k), 0))) s

/-! Reductions and scans (R73, R74, R191, R192). -/

/-- One level of the tree: pairs combined, absent elements passed over; flags gathered. -/
def treeLevel (f : Nat → Nat → Nat × Flags) : List (Option Nat) → List (Option Nat) × Flags
  | a :: b :: l =>
    let (r, fl) := treeLevel f l
    match a, b with
    | some x, some y => let (z, g) := f x y; (some z :: r, g ||| fl)
    | some x, none => (some x :: r, fl)
    | none, y => (y :: r, fl)
  | l => (l, 0)

/-- The fixed pairwise tree of R73 over 2^k elements. -/
def tree (f : Nat → Nat → Nat × Flags) : Nat → List (Option Nat) → Option Nat × Flags
  | 0, l => (l.headD none, 0)
  | k + 1, l =>
    let (l', fl) := treeLevel f l
    let (r, g) := tree f k l'
    (r, fl ||| g)

/-- The active elements of a source, the others absent. -/
def activeElems (view t : Strand) (v : Vec) (w n : Nat) : List (Option Nat) :=
  let (m, _) := view.maskOf t.unit
  (List.range n).map (fun k => if m.getLsbD k then some (elemAt v w k) else none)

def intReduce (i : Instr) (y : BitVec 3) (d a : BitVec 6) (sbit : BitVec 1) (f : Nat → Nat → Nat) (none' : Nat) (s : State) : Result :=
  vecWord i sbit (fun view t =>
    let (vs, t) := sources view t [(18, a)]
    let r := tree (fun p q => (f p q, 0)) 10 (activeElems view t (vs.headD 0) (wInt y) (nInt y))
    putWhole t 19 d (BitVec.ofNat 4096 (r.1.getD none')) 1) s

/-- Smallest and largest value of an integer type, as bits. -/
def intLow (y : BitVec 3) : Nat := if signedTy y then 2 ^ (wInt y - 1) else 0
def intHigh (y : BitVec 3) : Nat := if signedTy y then 2 ^ (wInt y - 1) - 1 else 2 ^ wInt y - 1

def execVredAdd (y : BitVec 3) (d a : BitVec 6) (s1 : BitVec 1) (s : State) : Result :=
  intReduce (.vredAdd y d a s1) y d a s1 (fun p q => (p + q) % 2 ^ wInt y) 0 s
def execVredMax (y : BitVec 3) (d a : BitVec 6) (s1 : BitVec 1) (s : State) : Result :=
  intReduce (.vredMax y d a s1) y d a s1 (maxElem y) (intLow y) s
def execVredMin (y : BitVec 3) (d a : BitVec 6) (s1 : BitVec 1) (s : State) : Result :=
  intReduce (.vredMin y d a s1) y d a s1 (minElem y) (intHigh y) s

/-- A value widened exactly to FP32 (R73); a NaN is quieted, and a signalling one raises NV (R65, R67). -/
def widenF32 (f : Fmt) (x : Nat) : Nat × Flags := fCvt f fmtF32 0 false x

def floatReduce (i : Instr) (y : BitVec 3) (d a : BitVec 6) (sbit : BitVec 1) (f : RMode → Nat → Nat → Nat × Flags) (none' : Nat)
    (s : State) : Result :=
  vecWord i sbit (fun view t =>
    let (vs, t) := sources view t [(18, a)]
    let l := (activeElems view t (vs.headD 0) (wFloat y) (nFloat y)).map (Option.map (widenF32 (fmtOfCode y.toNat)))
    let fl : Flags := l.foldl (fun b x => match x with | some x => b ||| x.2 | none => b) 0
    let r := tree (f t.amode) 8 (l.map (Option.map (·.1)) ++ List.replicate (256 - l.length) none)
    putWhole (t.raise (fl ||| r.2)) 19 d (BitVec.ofNat 4096 (r.1.getD none')) 1) s

def execVfredAdd (y : BitVec 3) (d a : BitVec 6) (s1 : BitVec 1) (s : State) : Result :=
  floatReduce (.vfredAdd y d a s1) y d a s1 (fAdd fmtF32) 0 s
def execVfredMax (y : BitVec 3) (d a : BitVec 6) (s1 : BitVec 1) (s : State) : Result :=
  floatReduce (.vfredMax y d a s1) y d a s1 (fun _ => fMinMax fmtF32 true) (fmtF32.infEnc true) s
def execVfredMin (y : BitVec 3) (d a : BitVec 6) (s1 : BitVec 1) (s : State) : Result :=
  floatReduce (.vfredMin y d a s1) y d a s1 (fun _ => fMinMax fmtF32 false) (fmtF32.infEnc false) s

/-- Prefix results over the active elements: the first is `first x`, each later one `f previous x` (R74). -/
def scanList (first : Nat → Nat × Flags) (f : Nat → Nat → Nat × Flags) : Option Nat → List (Option Nat) → List (Nat × Flags)
  | _, [] => []
  | acc, none :: l => (0, 0) :: scanList first f acc l
  | acc, some x :: l =>
    let r := match acc with
      | none => first x
      | some p => f p x
    r :: scanList first f (some r.1) l

/-- A NaN quieted, NV if it signals; other values as they are (R66, R74). -/
def quietFirst (f : Fmt) (x : Nat) : Nat × Flags :=
  match firstNan f [x] with
  | some r => r
  | none => (x, 0)

/-- `vscan.add` (R192): F = 1 is the float form. -/
def execVscanAdd (y : BitVec 3) (d a : BitVec 6) (f s1 : BitVec 1) (s : State) : Result :=
  vecWord (.vscanAdd y d a f s1) s1 (fun view t =>
    let (vs, t) := sources view t [(18, a)]
    let w := if f = 1 then wFloat y else wInt y
    let n := if f = 1 then nFloat y else nInt y
    let l := activeElems view t (vs.headD 0) w n
    let fmt := fmtOfCode y.toNat
    let rs := if f = 1 then scanList (quietFirst fmt) (fAdd fmt t.amode) none l
      else scanList (fun x => (x, 0)) (fun p x => ((p + x) % 2 ^ w, 0)) none l
    putLanes view t d w n (fun k => (rs[k]?).getD (0, 0))) s

end Sys2Proof.Machine
end

