-- ==== Sys2Proof/Machine/VecSpecial.lean ====
section
/-! DEFINITION. Conversions, quantisation and the attention helpers of the VEC engine (04_number_formats.md R55, R56, R61;
11_vector_instructions.md R193 to R199). -/

namespace Sys2Proof.Machine

/-! `vcvt` (R193). -/

/-- An integer clamped to the type (R53). -/
def clampTo (y : BitVec 3) (i : Int) : Int :=
  if signedTy y then max (-((2 ^ (wInt y - 1) : Nat) : Int)) (min i (intHigh y : Int)) else max 0 (min i (intHigh y : Int))

/-- One element converted. `q` and `r` are the classes of destination and source: 0 float, 1 integer. A change of signedness at one
width clamps under SAT as a narrowing does (assumption 16). Mode 5 rounds every inexact conversion (R193), also one whose destination is
not narrower than its source, though R60 says "narrower". Assumption 63, DEDUCED. -/
def convert (y : BitVec 3) (q r sat : BitVec 1) (t : BitVec 3) (mode : RMode) (x sr : Nat) : Nat × Flags :=
  let src := fmtOfCode t.toNat
  let dst := fmtOfCode y.toNat
  if r = 0 then
    if q = 0 then fCvt src dst mode (sat == 1) x sr
    else
      let lo : Int := if signedTy y then -(2 ^ (wInt y - 1) : Nat) else 0
      let (i, fl) := toInt mode lo (intHigh y : Nat) (decodeF src x) sr
      (wrapTo (wInt y) i, fl)
  else if q = 0 then ofInt dst mode (sat == 1) (intVal t x) sr
  else if sat = 1 && wInt y ≤ wInt t then (wrapTo (wInt y) (clampTo y (intVal t x)), 0)
  else (wrapTo (wInt y) (intVal t x), 0)

/-- Element width of a code of either class. -/
def wOf (cls : BitVec 1) (y : BitVec 3) : Nat := if cls = 1 then wInt y else wFloat y

/-- `vcvt`: bits 5, 4 and 3 of the B field are SAT, the destination class and the source class. Element i goes to slot i div k of register D + (i mod k); slots past the last converted element become 0.
Assumption 41, DEDUCED. -/
def execVcvt (y : BitVec 3) (d a : BitVec 6) (sat q r : BitVec 1) (ty : BitVec 3) (s1 : BitVec 1) (s : State) : Result :=
  vecWord (.vcvt y d a sat q r ty s1) s1 (fun view t =>
    let ns := nOf r ty
    let nd := nOf q y
    let n := cvtN ns nd
    let k := cvtK ns nd
    let wd := wOf q y
    let (m, z) := view.maskOf t.unit
    let (vs, t) := sources view t [(18, a)]
    let va := vs.headD 0
    let res := (List.range n).map (fun i =>
      if m.getLsbD i then
        some (convert y q r sat ty t.rmode (elemAt va (wOf r ty) i) (if t.rmode = 5 then t.mixAt 0 (BitVec.ofNat 32 i) else 0))
      else none)
    let t := t.raise (res.foldl (fun b x => match x with | some x => b ||| x.2 | none => b) 0)
    let slot := fun (j p : Nat) => if p * k + j < n then (res[p * k + j]?).getD none else some (0, 0)
    (List.range k).foldl (fun t j =>
      match t.vname t.unit 19 d with
      | .queue qn => t.pushq qn {
          data := packVec wd ((List.range nd).map (fun p => match slot j p with | some x => x.1 | none => 0))
          mask := maskWhere nd (fun p => p * k + j < n && m.getLsbD (p * k + j)) }
      | .reg g =>
        let g := (g + j) % 256
        let old := t.vr g
        t.setVr g (packVec wd ((List.range nd).map (fun p => match slot j p with
          | some x => x.1
          | none => if z then 0 else elemAt old wd p)))) t) s

/-! SC24 scales (R55, R56). -/

/-- A scale: zero, NaN, or m × 2^e. -/
inductive Scale where
  | zero
  | nan
  | fin (m : Nat) (e : Int)
  deriving DecidableEq, Repr

/-- The value of a three-byte scale. -/
def sc24 (x : Nat) : Scale :=
  let ex : Nat := x / 65536 % 256
  if ex = 0 then .zero else if ex = 255 then .nan else .fin (65536 + x % 65536) ((ex : Int) - 143)

/-- The smallest SC24 value not below n/d × 2^e and not below 2^-126, as its encoding, for n ≠ 0 (R194). -/
def sc24Ceil (n d : Nat) (e : Int) : Nat :=
  -- a mantissa of 17 bits: n/d × 2^k in [2^16, 2^17)
  let k0 : Int := 17 + (bitLen d : Int) - (bitLen n : Int)
  let up := fun (k : Int) => if 0 ≤ k then (n * 2 ^ k.toNat, d) else (n, d * 2 ^ (-k).toNat)
  let k : Int := if (up k0).1 < (up k0).2 * 2 ^ 17 then k0 else k0 - 1
  let (a, b) := up k
  let m := (a + b - 1) / b
  let (m, k) := if m = 2 ^ 17 then (2 ^ 16, k - 1) else (m, k)
  let ex : Int := e - k + 16 + 127
  if ex < 1 then 2 ^ 16 else ex.toNat * 2 ^ 16 + (m - 2 ^ 16)

/-- A finite value as a signed dyadic number. -/
def FVal.dyadic : FVal → Int × Int
  | .fin n m e => (sgn n m, e)
  | _ => (0, 0)

/-! `vquant` (R194). -/

/-- What one element leaves: code, residual and flags. -/
structure QRes where
  q : Nat
  r : Nat
  fl : Flags
  deriving DecidableEq, Repr

/-- A block's scale and, for each of its elements, the result; `none` for an inactive element. An exact zero A + B is −0 only where both
are negative, and its code and residual take that sign: the manual gives none. Assumption 64, DESIGN CHOICE. -/
def quantBlock (f : Fmt) (mode : RMode) (sr : Nat → Nat) (k : Nat) (xs : List (Option (Nat × Nat))) : Nat × List (Option QRes) :=
  let bad := xs.any (fun x => match x with
    | some (a, b) => (decodeF fmtF32 a).isNan || (decodeF fmtF32 a).isInf || (decodeF fmtF32 b).isNan || (decodeF fmtF32 b).isInf
    | none => false)
  if bad then (255 * 2 ^ 16, xs.map (Option.map (fun _ => ⟨0, 0x7FC00000, flagNV⟩)))
  else
    let vals := xs.map (Option.map (fun p =>
      let va := decodeF fmtF32 p.1
      let vb := decodeF fmtF32 p.2
      (dyAdd va.dyadic vb.dyadic, va.neg && vb.neg)))
    let amax := vals.foldl (fun (b : Nat × Int) v => match v with
      | some ((i, e), _) => if dyLe i.natAbs e b.1 b.2 then b else (i.natAbs, e)
      | none => b) (0, 0)
    if amax.1 = 0 then
      (0, vals.map (Option.map (fun v => ⟨0, fmtF32.signBit v.2, 0⟩)))
    else
      let (lm, le) := f.largest
      let sc := sc24Ceil amax.1 lm (amax.2 - le)
      match sc24 sc with
      | .fin m e =>
        (sc, ((vals.zip (List.range 32)).map (fun p => p.1.map (fun v =>
          let ((i, xe), neg) := v
          let (q, fl) := if i = 0 then (f.signBit neg, 0)
            else roundRat f mode false (decide (i < 0)) i.natAbs m (xe - e) (sr (32 * k + p.2))
          let (qi, qe) := (decodeF f q).dyadic
          let (ri, re) := dyAdd (i, xe) (-(qi * m), qe + e)
          (⟨q, (roundI fmtF32 0 false false ri re).1, fl⟩ : QRes)))))
      | _ => (sc, vals.map (Option.map (fun _ => ⟨0, 0, 0⟩)))

def execVquant (y : BitVec 3) (d a b : BitVec 6) (s1 : BitVec 1) (s : State) : Result :=
  vecWord (.vquant y d a b s1) s1 (fun view t =>
    let f := fmtOfCode y.toNat
    let (m, z) := view.maskOf t.unit
    let (vs, t) := sources view t [(18, a), (17, b)]
    let va := vs.headD 0
    let vb := (vs[1]?).getD 0
    let sr := fun (i : Nat) => if t.rmode = 5 then t.mixAt 0 (BitVec.ofNat 32 i) else 0
    let blocks := (List.range 4).map (fun k => quantBlock f t.rmode sr k ((List.range 32).map (fun j =>
      if m.getLsbD (32 * k + j) then some (elemAt va 32 (32 * k + j), elemAt vb 32 (32 * k + j)) else none)))
    let rs := (blocks.map (·.2)).flatten
    let t := t.raise (rs.foldl (fun fl r => match r with | some x => fl ||| x.fl | none => fl) 0)
    let codes := packNat f.width (rs.map (fun r => match r with | some x => x.q | none => 0))
    let scales := packNat 24 (blocks.map (·.1))
    let t := putWhole t 19 d (BitVec.ofNat 4096 (codes + scales * 2 ^ 3840)) (maskWhere 128 (fun i => m.getLsbD i))
    match t.vname t.unit 17 b with
    | .reg g =>
      let old := t.vr g
      t.setVr g (packVec 32 ((rs.zip (List.range 128)).map (fun p => match p.1 with
        | some x => x.r
        | none => if z then 0 else elemAt old 32 p.2)))
    | .queue _ => t) s

/-! `vdequant` (R195). -/

/-- X × q rounded once to FP32 (R56); a signalling NaN raises NV (R65). -/
def dequant (f : Fmt) (mode : RMode) (sc : Scale) (q : Nat) : Nat × Flags :=
  let v := decodeF f q
  match sc with
  | .nan => (0x7FC00000, 0)
  | .zero => (fmtF32.signBit v.neg, 0)
  | .fin m e =>
    match v with
    | .nan _ _ _ quiet => (0x7FC00000, if quiet then 0 else flagNV)
    | .inf n => (fmtF32.infEnc n, 0)
    | .fin n k x => if k = 0 then (fmtF32.signBit n, 0) else roundF fmtF32 mode false n (k * m) (x + e)

def execVdequant (y : BitVec 3) (d a : BitVec 6) (s1 : BitVec 1) (s : State) : Result :=
  vecWord (.vdequant y d a s1) s1 (fun view t =>
    let f := fmtOfCode y.toNat
    let (vs, t) := sources view t [(18, a)]
    let va := vs.headD 0
    putLanes view t d 32 128 (fun i => dequant f 0 (sc24 (elemAt va 24 (160 + i / 32))) (elemAt va f.width i))) s

/-! Attention helpers (R196 to R199). -/

/-- Exp2 of an FP32 value under RNE. -/
def exp2Of (x : Nat) : Nat × Flags := unaryNan fmtF32 x (fExp2 fmtF32 0)

/-- Minus infinity in FP32. -/
def negInf : Nat := 0xFF800000

/-- One online-softmax step over scores, absent where inactive: state (m, l, α), probabilities and flags (R196). The word rounds under
RNE throughout (assumption 17). -/
def smxStep (mo lo : Nat) (xs : List (Option Nat)) : Nat × Nat × Nat × List Nat × Flags :=
  let depth := bitLen (xs.length - 1)
  let (mb, f1) := tree (fMinMax fmtF32 true) depth xs
  let (mn, f2) := fMinMax fmtF32 true mo (mb.getD negInf)
  let (al, f3) := if mn = negInf then (0x3F800000, 0) else
    let (x, g) := fSub fmtF32 0 mo mn
    let (r, h) := exp2Of x
    (r, g ||| h)
  let ps := xs.map (Option.map (fun x =>
    let (y, g) := fSub fmtF32 0 x mn
    let (r, h) := exp2Of y
    (r, g ||| h)))
  let f4 := ps.foldl (fun fl p => match p with | some x => fl ||| x.2 | none => fl) 0
  let (sum, f5) := tree (fAdd fmtF32 0) depth (ps.map (Option.map (·.1)))
  let (ln, f6) := fFma fmtF32 0 al lo (sum.getD 0)
  (mn, ln, al, ps.map (fun p => match p with | some x => x.1 | none => 0), f1 ||| f2 ||| f3 ||| f4 ||| f5 ||| f6)

def execVsmxUpd (d a b : BitVec 6) (s1 : BitVec 1) (s : State) : Result :=
  vecWord (.vsmxUpd d a b s1) s1 (fun view t =>
    let vd := dReg view t d
    let (m, _) := view.maskOf t.unit
    let (vs, t) := sources view t [(18, a)]
    let (mn, ln, al, ps, fl) := smxStep (elemAt vd 32 0) (elemAt vd 32 1) (activeElems view t (vs.headD 0) 32 128)
    let t := putWhole (t.raise fl) 19 d (packVec 32 [mn, ln, al]) 0
    putWhole t 17 b (packVec 32 ps) (maskWhere 128 (fun i => m.getLsbD i))) s

/-- `vsmx.fin` (R197). Assumption 17, DEDUCED. -/
def execVsmxFin (d a b : BitVec 6) (s1 : BitVec 1) (s : State) : Result :=
  vecWord (.vsmxFin d a b s1) s1 (fun view t =>
    let (m, _) := view.maskOf t.unit
    let (vs, t) := sources view t [(18, a), (17, b)]
    let l := elemAt ((vs[1]?).getD 0) 32 1
    if l % 2 ^ 31 = 0 then (putWhole t 19 d 0 (maskWhere 128 (fun i => m.getLsbD i))).setStat statEMPTY
    else putLanes view t d 32 128 (fun i => fDiv fmtF32 0 (elemAt (vs.headD 0) 32 i) l)) s

/-- The bucket of a distance (R199). -/
def bucket (rb : BitVec 9) (x : Nat) : Nat :=
  let bidir := rb.getLsbD 8
  let k := rb.toNat / 16 % 4
  let p := rb.toNat % 8
  let side := if bidir then 16 else 32
  let neg := 2 ^ 31 ≤ x
  let d := if neg then 2 ^ 32 - x else x
  let b := if d < 2 ^ p then d
    else
      let e := bitLen d - 1
      let f := if k ≤ e then d / 2 ^ (e - k) % 2 ^ k else d * 2 ^ (k - e) % 2 ^ k
      min (side - 1) (2 ^ p + (e - p) * 2 ^ k + f)
  if bidir && neg then b + 16 else b

def execVrbias (d a b : BitVec 6) (s1 : BitVec 1) (s : State) : Result :=
  vecWord (.vrbias d a b s1) s1 (fun view t =>
    let vd := dReg view t d
    let (vs, t) := sources view t [(18, a), (17, b)]
    let va := vs.headD 0
    let vb := (vs[1]?).getD 0
    putLanes view t d 32 128 (fun i => fAdd fmtF32 t.amode (elemAt vd 32 i) (elemAt vb 32 (bucket t.rbtab (elemAt va 32 i))))) s

end Sys2Proof.Machine
end

