-- ==== Sys2Proof/Machine/Sfu.lean ====
section
/-! DEFINITION. The SFU engine: transcendental words, interpolation tables and the top-k sorter (11_vector_instructions.md R200 to
R204). -/

namespace Sys2Proof.Machine

/-- An SFU word with operands `r`, field limits `ok` and fixed latency `lat` (R182): its stall count is EXT.STALL, else its STALL field
(R94). -/
def sfuWord (r : Roles) (ok : Bool) (lat : Nat) (k : BitVec 3) (body : Strand → Strand → Strand) (s : State) : Result :=
  let stall := match s.cs.unit.ext 3 with
    | some x => fldN x 0 4
    | none => k.toNat
  enginesWord r (fateWith s false ok r true) (r.maskReads s.cs.unit) [] true lat stall body s

/-- A transcendental word (R200): the function value rounded once, NaN inputs under R66. Assumption 14, DEDUCED. -/
def transWord (y : BitVec 3) (d a : BitVec 6) (k : BitVec 3) (f : Fmt → RMode → FVal → Nat × Flags) (s : State) : Result :=
  sfuWord (rolesF k (vdst d) (vsrc a)) (ty567 y) 8 k (fun view t =>
    let fm := fmtOfCode y.toNat
    let (vs, t) := sources view t [(18, a)]
    putLanes view t d (wFloat y) (nFloat y) (fun j => unaryNan fm (elemAt (vs.headD 0) (wFloat y) j) (f fm t.amode))) s

def execSfuExp2 (y : BitVec 3) (d a : BitVec 6) (k : BitVec 3) (s : State) : Result := transWord y d a k fExp2 s
def execSfuLog2 (y : BitVec 3) (d a : BitVec 6) (k : BitVec 3) (s : State) : Result := transWord y d a k fLog2 s
def execSfuRcp (y : BitVec 3) (d a : BitVec 6) (k : BitVec 3) (s : State) : Result := transWord y d a k fRcp s
def execSfuRsqrt (y : BitVec 3) (d a : BitVec 6) (k : BitVec 3) (s : State) : Result := transWord y d a k fRsqrt s
def execSfuSqrt (y : BitVec 3) (d a : BitVec 6) (k : BitVec 3) (s : State) : Result :=
  sfuWord (rolesF k (vdst d) (vsrc a)) (ty567 y) 8 k (fun view t =>
    let (vs, t) := sources view t [(18, a)]
    putLanes view t d (wFloat y) (nFloat y) (fun j => fSqrt (fmtOfCode y.toNat) t.amode (elemAt (vs.headD 0) (wFloat y) j))) s
def execSfuSin (y : BitVec 3) (d a : BitVec 6) (k : BitVec 3) (s : State) : Result :=
  transWord y d a k (fun f m v => fSinTurn f m false v) s
def execSfuCos (y : BitVec 3) (d a : BitVec 6) (k : BitVec 3) (s : State) : Result :=
  transWord y d a k (fun f m v => fSinTurn f m true v) s

/-! Tables (R201, R202). -/

def Strand.table (t : Strand) (n : Nat) : SfuTable := Sparse.get {} t.tables n
def Strand.setTable (t : Strand) (n : Nat) (x : SfuTable) : Strand := { t with tables := Sparse.set {} t.tables n x }

/-- One element of `tload` part `c`. -/
def SfuTable.load (x : SfuTable) (c i : Nat) (v : Word) : SfuTable :=
  match c with
  | 0 => { x with knots := Sparse.set 0 x.knots i v }
  | 1 => { x with knots := Sparse.set 0 x.knots (128 + i) v }
  | _ =>
    match i with
    | 0 => { x with knots := Sparse.set 0 x.knots 256 v }
    | 1 => { x with lo := v }
    | 2 => { x with sc := v }
    | 3 => { x with mode := v.setWidth 2 }
    | _ => x

def execTload (d a : BitVec 6) (f k : BitVec 3) (s : State) : Result :=
  sfuWord (rolesF k none (vsrc a)) (d.toNat ≤ 2) 2 k (fun view t =>
    let (m, _) := view.maskOf t.unit
    let (vs, t) := sources view t [(18, a)]
    let x := (List.range 128).foldl (fun x i =>
      if m.getLsbD i then x.load d.toNat i (BitVec.ofNat 32 (elemAt (vs.headD 0) 32 i)) else x) (t.table f.toNat)
    let t := (List.range 128).foldl (fun t i => if m.getLsbD i then t.repaired (.table f.toNat (128 * d.toNat + i)) else t) t
    t.setTable f.toNat x) s

/-- An extended real: exact, infinite, or without a value. -/
inductive XReal where
  | fin (i e : Int)
  | inf (neg : Bool)
  | undef
  deriving DecidableEq, Repr

def XReal.ofF (v : FVal) : XReal :=
  match v with
  | .nan .. => .undef
  | .inf n => .inf n
  | .fin n m e => .fin (sgn n m) e

def XReal.neg : XReal → XReal
  | .fin i e => .fin (-i) e
  | .inf n => .inf (!n)
  | .undef => .undef

def XReal.add : XReal → XReal → XReal
  | .fin i e, .fin j k => let r := dyAdd (i, e) (j, k); .fin r.1 r.2
  | .inf n, .inf m => if n = m then .inf n else .undef
  | .inf n, .fin _ _ => .inf n
  | .fin _ _, .inf m => .inf m
  | _, _ => .undef

def XReal.mul : XReal → XReal → XReal
  | .fin i e, .fin j k => .fin (i * j) (e + k)
  | .inf n, .inf m => .inf (n != m)
  | .inf n, .fin j _ => if j = 0 then .undef else .inf (n != decide (j < 0))
  | .fin i _, .inf m => if i = 0 then .undef else .inf (m != decide (i < 0))
  | _, _ => .undef

/-- The value rounded once; ∞ − ∞ and 0 × ∞ give the canonical NaN and NV (R202). An exact zero is +0 in every mode: the manual gives it no
sign. Assumption 64, DESIGN CHOICE. -/
def XReal.round (f : Fmt) (mode : RMode) : XReal → Nat × Flags
  | .fin i e => roundI f mode false false i e
  | .inf n => (f.infEnc n, 0)
  | .undef => (f.qnan, flagNV)

/-- Floor of a dyadic number. -/
def dyFloor (i e : Int) : Int := if 0 ≤ e then i * 2 ^ e.toNat else i / (2 ^ (-e).toNat : Nat)

/-- A knot's encoding. -/
def SfuTable.knot (x : SfuTable) (n : Nat) : Nat := (Sparse.get 0 x.knots n).toNat

/-- The interpolation of one element (R202). -/
def interpolate (f : Fmt) (mode : RMode) (x : SfuTable) (enc : Nat) : Nat × Flags :=
  unaryNan f enc (fun v =>
    let sc := decodeF fmtF32 x.sc.toNat
    let lo := decodeF fmtF32 x.lo.toNat
    let bad : Nat × Flags := (f.qnan, flagNV)
    let isNan := fun n => (decodeF fmtF32 (x.knot n)).isNan
    let kv := fun n => XReal.ofF (decodeF fmtF32 (x.knot n))
    let end_ := fun n => if isNan n then bad else valTo f mode false (decodeF fmtF32 (x.knot n))
    -- knot a plus t times the rise from knot b to knot c
    let line := fun (a b c : Nat) (t : XReal) =>
      if isNan b || isNan c then bad
      else
        let rise := (kv c).add (kv b).neg
        match t, rise with
        | .fin 0 _, _ => end_ a
        | .inf _, .fin 0 _ => end_ a
        | _, _ => ((kv a).add (t.mul rise)).round f mode
    if sc.neg || sc.isZero || sc.isNan || sc.isInf || lo.isNan || lo.isInf then bad
    else
      let u := ((XReal.ofF v).add (XReal.ofF lo).neg).mul (XReal.ofF sc)
      match u with
      | .undef => bad
      | .inf true => if x.mode.getLsbD 0 then line 0 0 1 u else end_ 0
      | .inf false => if x.mode.getLsbD 1 then line 256 255 256 u else end_ 256
      | .fin i e =>
        if i < 0 then (if x.mode.getLsbD 0 then line 0 0 1 u else end_ 0)
        else if 256 ≤ dyFloor i e then (if x.mode.getLsbD 1 then line 256 255 256 (u.add (.fin (-256) 0)) else end_ 256)
        else
          let k := (dyFloor i e).toNat
          line k k (k + 1) (u.add (.fin (-(k : Int)) 0)))

def execTint (y : BitVec 3) (d a : BitVec 6) (f k : BitVec 3) (s : State) : Result :=
  sfuWord (rolesTint f k d a) (ty567 y) 6 k (fun view t =>
    let (vs, t) := sources view t [(18, a)]
    let x := t.table f.toNat
    putLanes view t d (wFloat y) (nFloat y) (fun j =>
      interpolate (fmtOfCode y.toNat) t.amode x (elemAt (vs.headD 0) (wFloat y) j))) s

/-! The top-k sorter (R203, R204). -/

/-- Rank order of two pairs of FP32 key and index. -/
def ranksBefore (a b : Word × Word) : Bool :=
  fLtNum fmtF32 b.1.toNat a.1.toNat || (fEqNum fmtF32 a.1.toNat b.1.toNat && decide (a.2.toNat < b.2.toNat))

/-- A pair joins the held ones. One that equals a held pair in key and index is held beside it: the manual does not say (R203).
Assumption 70, DESIGN CHOICE. -/
def insertRank (p : Word × Word) : List (Word × Word) → List (Word × Word)
  | [] => [p]
  | q :: l => if ranksBefore p q then p :: q :: l else q :: insertRank p l

/-- One key offered. -/
def TopK.feed (k : TopK) (f : Fmt) (key index : Nat) : TopK :=
  let k := { k with fed := k.fed + 1 }
  if (decodeF f key).isNan then k
  else
    let p : Word × Word := (BitVec.ofNat 32 (valTo fmtF32 0 false (decodeF f key)).1, BitVec.ofNat 32 index)
    { k with held := (insertRank p k.held).take k.kc }

def execTopkInit (y : BitVec 3) (a : BitVec 6) (k : BitVec 3) (s : State) : Result :=
  sfuWord (rolesInit k a) (3 ≤ y.toNat) 2 k (fun _ t =>
    { t.repaired .sorter with topk := { kc := min (t.sc a).toNat 1024, ty := some y } }) s

def execTopkFeed (y : BitVec 3) (d a : BitVec 6) (k : BitVec 3) (s : State) : Result :=
  sfuWord (rolesFeed k d a) (s.cs.topk.ty == some y) 4 k (fun view t =>
    let (m, _) := view.maskOf t.unit
    let (vs, t) := sources view t [(18, a)]
    let w := wFloat y
    { t with topk := (List.range (nFloat y)).foldl (fun x i =>
        if m.getLsbD i then x.feed (fmtOfCode y.toNat) (elemAt (vs.headD 0) w i) ((t.sc d).toNat + i) else x) t.topk }) s

/-- Held indices in increasing order. -/
def insertIndex (x : Nat) : List Nat → List Nat
  | [] => [x]
  | y :: l => if x ≤ y then x :: y :: l else y :: insertIndex x l

/-- The entries that `topk.emit` lists under FN. -/
def TopK.listing (k : TopK) (f : BitVec 3) : List Nat :=
  match f.toNat with
  | 0 => k.held.map (·.2.toNat)
  | 1 => k.held.map (·.1.toNat)
  | _ => (k.held.map (·.2.toNat)).foldl (fun l x => insertIndex x l) []

def execTopkEmit (d a : BitVec 6) (f k : BitVec 3) (s : State) : Result :=
  sfuWord (rolesEmit k d a) (f.toNat ≤ 2) 6 k (fun view t =>
    let l := t.topk.listing f
    let c := (t.sc a).toNat
    let at_ := fun (i : Nat) => l[128 * c + i]?
    let none' := if f = 1 then negInf else 0xFFFFFFFF
    match t.vname t.unit 19 d with
    | .reg _ => putLanes view t d 32 128 (fun i => ((at_ i).getD none', 0))
    | .queue q =>
      let (m, _) := view.maskOf t.unit
      t.pushq q {
        data := packVec 32 ((List.range 128).map (fun i => if m.getLsbD i then (at_ i).getD none' else 0))
        mask := maskWhere 128 (fun i => m.getLsbD i && (at_ i).isSome) }) s

/-- The threshold key (R204). -/
def TopK.threshold (k : TopK) : Nat :=
  if k.kc = 0 then fmtF32.infEnc false
  else if k.held.length < k.kc then negInf
  else match k.held.getLast? with
    | some p => p.1.toNat
    | none => negInf

def execTopkQ (d : BitVec 6) (k : BitVec 3) (s : State) : Result :=
  sfuWord (rolesQ k d) true 2 k (fun _ t =>
    putWhole t 19 d (packVec 32 [t.topk.held.length, t.topk.fed.toNat, t.topk.threshold, t.topk.kc]) (maskBelow 128)) s

end Sys2Proof.Machine
end

