-- ==== Sys2Proof/Machine/Matrix.lean ====
section
/-! DEFINITION. The matrix array: operands, tiles, weight buffers, Cam steps and the attention macro (13_matrix_instructions.md R205 to
R226, R414; 04_number_formats.md R57, R58, R71, R72; 02_execution_model.md R48, R49). A word that runs in Cam steps leaves its command in
the Cam sequencer when it issues; CAM_STEP carries it out. -/

namespace Sys2Proof.Machine

/-! The array as a strand sees it (R48, R209). -/

/-- The strand's core is the odd one of its pair. -/
def Strand.odd (t : Strand) : Bool := t.core.toNat % 2 == 1

/-- The strand's team holds a share of the array under MODE. -/
def State.hasShare (s : State) (t : Strand) : Bool :=
  let a := s.array t.arrayNo
  match a.amode.toNat with
  | 0 => !t.odd && a.grant0 == some t.team
  | 1 => t.odd && a.grant1 == some t.team
  | _ => if t.odd then a.grant1 == some t.team else a.grant0 == some t.team

/-- The physical tile or weight buffer that a number names: the upper half for the odd core in alternate mode. -/
def State.tileNo (s : State) (t : Strand) (acc : Nat) : Nat := if (s.array t.arrayNo).amode = 2 && t.odd then acc + 4 else acc
def State.wbNo (s : State) (t : Strand) (wb : Nat) : Nat := if (s.array t.arrayNo).amode = 2 && t.odd then wb + 2 else wb

def ArrayState.tile (a : ArrayState) (n : Nat) : Tile := Sparse.get [] a.tiles n
def ArrayState.shadow (a : ArrayState) (n : Nat) : Tile := Sparse.get [] a.shadows n
def ArrayState.setTile (a : ArrayState) (n : Nat) (x : Tile) : ArrayState := { a with tiles := Sparse.set [] a.tiles n x }
def ArrayState.setShadow (a : ArrayState) (n : Nat) (x : Tile) : ArrayState := { a with shadows := Sparse.set [] a.shadows n x }
def ArrayState.wbuf (a : ArrayState) (n : Nat) : WBuf := Sparse.get {} a.wb n

/-- Part `k` of an array is written whole; as a copy of a damaged part, it is damaged too (R356). -/
def ArrayState.replaced (a : ArrayState) (k : Nat) (bad : Bool := false) : ArrayState :=
  let l := a.bad.filter (· ≠ k)
  { a with bad := if bad then k :: l else l }

/-- EnterSpec (R216): on a CLEAN tile the shadow becomes a copy and the tile SPEC. -/
def ArrayState.enterSpec (a : ArrayState) (n : Nat) : ArrayState :=
  if a.spec.getLsbD n then a
  else { (a.setShadow n (a.tile n)).replaced (12 + n) (a.bad.contains n) with spec := a.spec ||| BitVec.ofNat 8 (2 ^ n) }

/-- The number of the stored tile that a word reads, and of the one that it writes: the shadow under SPEC. -/
def ArrayState.readNo (a : ArrayState) (n : Nat) (spec : Bool) : Nat := if spec && a.spec.getLsbD n then 12 + n else n
def viewNo (n : Nat) (spec : Bool) : Nat := if spec then 12 + n else n

/-- The tile that a word acts on: the shadow under SPEC (R216). -/
def ArrayState.view (a : ArrayState) (n : Nat) (spec : Bool) : Tile := if spec then a.shadow n else a.tile n
def ArrayState.setView (a : ArrayState) (n : Nat) (spec : Bool) (x : Tile) : ArrayState := if spec then a.setShadow n x else a.setTile n x

def Tile.get (t : Tile) (i j : Nat) : Nat := (Sparse.get (0 : Word) t (128 * i + j)).toNat
def Tile.set (t : Tile) (i j x : Nat) : Tile := Sparse.set (0 : Word) t (128 * i + j) (BitVec.ofNat 32 x)

/-- A damaged part is among those that a word of strand `t` reads (R356). -/
def State.arrayBad (s : State) (t : Strand) (parts : List Nat) : Bool := parts.any (s.array t.arrayNo).bad.contains

/-- A change of the array of strand `t`. -/
def State.onArray (s : State) (t : Strand) (f : ArrayState → ArrayState) : State := s.setArray t.arrayNo (f (s.array t.arrayNo))

/-- Tiles (0 to 7) and weight buffers (8 to 11) that a command uses. -/
def MtxCmd.uses (s : State) (t : Strand) (c : MtxCmd) : List Nat :=
  let acc := s.tileNo t c.acc
  (if c.opcode = 8 then [] else if c.opcode = 9 then [acc, acc + 1] else [acc]) ++
  (match c.wb with | some w => [8 + s.wbNo t w] | none => [])

/-- The commands of a strand that have issued and not completed: the one in the Cam sequencer, and one that its own fault has stopped. -/
def Strand.commands (t : Strand) : List MtxCmd := t.mtx.toList ++ (t.frame.bind (·.mtx)).toList

/-- The tiles of a word of the strand that has read its tile and waits for bytes at another device, in the MTX queue or in a trap frame. -/
def Strand.waitUses (t : Strand) : List (Nat × List Nat) :=
  (t.mdesc.toList ++ (t.frame.bind (·.mdesc)).toList).map (fun w => (w.seq, w.uses))

/-- A command that holds back a word: any of the strand's own in the Cam sequencer, and one of this or another strand, stopped by a fault or
not, that uses the same tile or buffer of the array: the effects of two commands never interleave on one tile (R211). -/
def State.mtxHolds (s : State) (t : Strand) (uses : List Nat) : Bool :=
  t.mtx.isSome || (t :: s.others).any (fun o => o.arrayNo == t.arrayNo && o.live &&
    (o.commands.any (fun c => (c.uses s o).any uses.contains) ||
     o.waitUses.any (fun w => w.1 != t.unit.seq && w.2.any uses.contains)))

/-! Memory accesses of MTX words (R212, R223). They hold no access-record entry; a read from another device is kept in `mreq`. -/

/-- How an access of the stepping strand's MTX word ends: the images read, a wait, or a trap. -/
inductive MRead where
  | data (s : State) (imgs : List Vec)
  | wait (s : State)
  | trap (s : State) (c : Cause) (va : Dword)
  deriving DecidableEq, Repr

/-- A request of the unit `u` is performed in its view, or, with `here`, what is left of it at this device once the bytes at other
devices are written. -/
def mtxRun (s : State) (u : EUnit) (priv : Bool) (q : Req) (here : Bool) : MRead :=
  let free := fun (s : State) => s.onCs (fun t => { t with mreq := none })
  match runReq s { spaceOf s.cs s.csTeam with priv := priv } q here with
  | .done s' imgs => .data ((free s').onCs Strand.clearAnswered) imgs
  | .again s' => .wait s'
  | .held _ => .wait s
  | .park r va =>
    match tryPark s s.cs r va with
    | (s', .inr _) => .wait s'
    | (s', .inl c) => .trap (free s') c va
  | .remote s' plan imgs =>
    let seq := s'.nextId
    let e : RecEntry := { seq := seq, unit := u, req := { q with part := imgs }, state := .pending, priv := priv, here := spansHere q plan }
    let s' := { s' with nextId := seq + 1 }.onCs (fun t => { t with mreq := some e })
    .wait (sendRuns s' s'.cs q seq false (fabRuns plan))
  | .atomicOp .. | .unsupported => .wait s
  | .trap c v => .trap (free s) c v

def mtxAccess (s : State) (u : EUnit) (priv : Bool) (q : Req) : MRead :=
  match s.cs.mreq with
  | some e =>
    if e.unit.seq ≠ u.seq then .wait s
    else
      let s' := s.onCs (fun t => { t with mreq := none })
      match e.fail with
      | some (c, v) => .trap s' c v
      | none =>
        if e.state ≠ .done then .wait s
        else if e.here = 1 then mtxRun s u priv e.req true
        else .data s' (e.req.final e.req.part)
  | none =>
    match q.elems.findSome? (fun e => refusedAt s.cs.answered e.va e.size) with
    | some (n, c, va) => .trap (s.onCs (fun t => t.useAnswer n)) c va
    | none => mtxRun s u priv q false

/-! Operand elements (R206 to R208). -/

/-- Stored elements of a group of 16: 8, 4 or 2 for SPN 1, 2, 3; 16 for a dense operand. -/
def nStored (spn : Nat) : Nat := match spn with | 0 => 16 | 1 => 8 | 2 => 4 | _ => 2

/-- Depth of an A operand; 0 where COLS is no whole number of groups. -/
def depthOf (x : Desc) : Nat :=
  let n := nStored (dSPN x)
  if dCOLS x % n = 0 then dCOLS x / n * 16 else if dSPN x = 0 then dCOLS x else 1

/-- Formats of the float class, scaled s8 among them; and of the integer class (R207). -/
def isFloatOp (fmt mode : Nat) : Bool := fmt ≤ 6 || (fmt == 10 && mode != 0)
def isIntOp (fmt mode : Nat) : Bool := 8 ≤ fmt && fmt ≤ 11 && mode == 0

/-- The formats pair (R207): A's and B's FMT and scale mode. -/
def pairOk (fa ma fb mb : Nat) : Bool :=
  if fb = 15 then mb == 0 && ((fa == 5 && ma == 0) || fa == 3 || fa == 0)
  else (isFloatOp fa ma && isFloatOp fb mb) || (isIntOp fa ma && isIntOp fb mb)

/-- An unscaled element as an exact value: float codes 0 to 7, integers 8 to 14. -/
def elemValue (fmt x : Nat) : XReal :=
  if fmt ≤ 7 then XReal.ofF (decodeF (fmtOfCode fmt) x)
  else
    let w := fmtBits fmt
    .fin (if fmt % 2 = 0 then signOf x w else x) 0

/-- A scaled element: X × element, exact (R56). -/
def scaledValue (sc : Nat) (fmt x : Nat) : XReal :=
  match sc24 sc with
  | .nan => .undef
  | .zero => .fin 0 0
  | .fin m e => (elemValue fmt x).mul (.fin m e)

/-- NQ4 levels (R57), as multiples of 1/1,024 × 2^-k: their FP32 encodings. -/
def nq4Level (c : Nat) : Nat :=
  ([0xBF800000, 0xBF324000, 0xBF068000, 0xBEC88000, 0xBE8D8000, 0xBE2F0000, 0xBDAA0000, 0,
    0x3DA20000, 0x3E240000, 0x3E7C0000, 0x3EAD8000, 0x3EE30000, 0x3F11C000, 0x3F3B0000, 0x3F800000][c]?).getD 0

/-- What the decompressor delivers for code `c`, block code `b` and super-scale `sup` (R58); `fa` is A's format. -/
def nq4Value (fa c b sup : Nat) : XReal :=
  match decodeF fmtF32 sup with
  | .nan .. => .undef
  | .inf n =>
    let lv := XReal.ofF (decodeF fmtF32 (nq4Level c))
    if c = 7 then .undef
    else
      let neg := n != (match lv with | .fin i _ => decide (i < 0) | _ => false)
      if fa = 3 then .fin (if neg then -448 else 448) 0 else .inf neg
  | .fin n m e =>
    let (blk, _) := if m = 0 then (0, 0) else roundF fmtF32 0 false n (m * (b + 1)) (e - 8)
    let prod := (XReal.ofF (decodeF fmtF32 (nq4Level c))).mul (XReal.ofF (decodeF fmtF32 blk))
    match prod with
    | .fin i x =>
      if fa = 0 then prod
      else
        let f := if fa = 3 then fmtE4M3 else fmtBF16
        XReal.ofF (decodeF f (roundI f 0 (fa == 3) false i x).1)
    | other => other

/-! Accumulation (R71, R72). -/

/-- A chunk added to an FP32 accumulator: one rounding, NaNs under R66 with the accumulator first. -/
def addChunk (acc : Nat) (chunk : XReal) : Nat :=
  match firstNan fmtF32 [acc] with
  | some r => r.1
  | none => (((XReal.ofF (decodeF fmtF32 acc)).add chunk).round fmtF32 0).1

/-- A chunk added to an INT32 accumulator. -/
def addChunkInt (acc : Nat) (chunk : XReal) : Nat :=
  match chunk with
  | .fin i e => wrapTo 32 ((acc : Int) + dyFloor i e)
  | _ => acc

/-- The exact sum of products: NaN, or opposite infinities, give no value. -/
def exactSum (l : List XReal) : XReal := l.foldl XReal.add (.fin 0 0)

/-! The operand bytes of a step (R414). Images: A rows at 64 i, B rows at 8192 + 256 r, A metadata at 16384 + 16 i, A scales at 18432 +
16 i, B scales or scale codes at 20480 + 32 r, super-scales at 21504 + 8 r. -/

/-- A run of elements from column `c` on, `n` of them, of stream row `r`, put at image offset `off`. -/
def rowElems (x : Desc) (off r c n : Nat) : List Elem :=
  if n = 0 then [] else [⟨off, elemAddr x r c, (n * dBits x + 7) / 8⟩]

/-- Scales of the blocks `k0`, …, `n` of them. -/
def scaleElems (x : Desc) (off r k0 n : Nat) : List Elem :=
  let w := if dNQ4 x then 1 else 3
  (List.range n).map (fun k => ⟨off + w * k, scaleAddr x r (k0 + k), w⟩)

/-- Scale bytes and super-scales that A needs in a step with stored columns `c` to `c + n - 1`. -/
def aScaleElems (x : Desc) (i c n : Nat) : List Elem :=
  if dScaled x && n ≠ 0 then scaleElems x (18432 + 16 * i) i (c / dBlock x) ((c + n - 1) / dBlock x + 1 - c / dBlock x) else []

def bScaleElems (x : Desc) (s r n : Nat) : List Elem :=
  if !dScaled x then []
  else
    let nb := ceilDiv n (dBlock x)
    scaleElems x (20480 + 32 * r) (32 * s + r) 0 nb ++
    (if dNQ4 x then (List.range nb).map (fun k => ⟨21504 + 8 * r + 4 * k, superAddr x (32 * s + r) k, 4⟩) else [])

/-- Columns of A stored for one step, and the first of them in step `s`. -/
def aStep (x : Desc) : Nat := 2 * nStored (dSPN x)

/-- Whole-row reads of step `s`. -/
def stepElems (a : Desc) (b : Option Desc) (s : Nat) : List Elem :=
  let n := aStep a
  let c := s * n
  ((List.range (dROWS a)).map (fun i =>
    rowElems a (64 * i) i c n ++
    (if dSPN a = 0 then [] else
      let first := metaAddr a i c
      let last := metaAddr a i (c + n - 1)
      [(⟨16384 + 16 * i, first, (last - first).toNat + 1⟩ : Elem)]))).flatten ++
  (match b with
  | some x => ((List.range 32).map (fun r => rowElems x (8192 + 256 * r) (32 * s + r) 0 (dCOLS x))).flatten
  | none => [])

/-- Scales and super-scales of step `s`. -/
def stepScales (a : Desc) (b : Option Desc) (s : Nat) : List Elem :=
  let n := aStep a
  ((List.range (dROWS a)).map (fun i => aScaleElems a i (s * n) n)).flatten ++
  (match b with
  | some x => ((List.range 32).map (fun r => bScaleElems x s r (dCOLS x))).flatten
  | none => [])

/-- Every read of step `s`. -/
def stepReads (a : Desc) (b : Option Desc) (s : Nat) : List Elem := stepElems a b s ++ stepScales a b s

/-- A byte that an earlier step has read, by the address of byte `k` of an element. -/
def keptByte (kept : List (Nat × Byte)) (e : Elem) (k : Nat) : Option Byte :=
  (kept.find? (fun c => c.1 == (e.va + BitVec.ofNat 64 k).toNat)).map (·.2)

/-- Images with bytes that an earlier step has read put in place. -/
def keptBytes (kept : List (Nat × Byte)) (imgs : List Vec) (es : List Elem) : List Vec :=
  es.foldl (fun imgs e => (List.range e.size).foldl (fun imgs k =>
    match keptByte kept e k with
    | some b => setImg imgs (e.off + k) b
    | none => imgs) imgs) imgs

/-- What is left to read of an element: all of it, or its bytes that no earlier step has read. -/
def unread (kept : List (Nat × Byte)) (e : Elem) : List Elem :=
  let new := (List.range e.size).filter (fun k => (keptByte kept e k).isNone)
  if new.length = e.size then [e] else new.map (fun k => ⟨e.off + k, e.va + BitVec.ofNat 64 k, 1⟩)

/-- The read of a step of `n` images: a byte that several steps need belongs to the first of them, and is not read again (R414). -/
def keptReq (c : MtxCmd) (es : List Elem) (n : Nat) : Req :=
  { kind := .load, elems := (es.map (unread c.kept)).flatten, base := keptBytes c.kept (List.replicate n 0) es }

/-- The operand bytes that the command has read after a step. -/
def keepAfter (c : MtxCmd) (es : List Elem) (imgs : List Vec) : List (Nat × Byte) :=
  es.foldl (fun kept e => (List.range e.size).foldl (fun kept k =>
    if (keptByte kept e k).isSome then kept else ((e.va + BitVec.ofNat 64 k).toNat, imgByte imgs (e.off + k)) :: kept) kept) c.kept

/-- `n` bytes of the images as a number. -/
def imgNat (imgs : List Vec) (off n : Nat) : Nat := leNat ((List.range n).map (fun k => imgByte imgs (off + k)))

/-- The stored elements of A row `i` in the step: K position within the chunk, and value. -/
def aRow (imgs : List Vec) (x : Desc) (s i : Nat) : List (Nat × XReal) :=
  let n := aStep x
  let b := dBits x
  let raw := imgNat imgs (64 * i) ((n * b + 7) / 8 + 1)
  let sh := s * n * b % 8
  let ns := nStored (dSPN x)
  let meta' := imgNat imgs (16384 + 16 * i) 9
  let mo := (s * n + i * dCOLS x) % 2
  (List.range n).map (fun c =>
    let e := raw / 2 ^ (sh + c * b) % 2 ^ b
    let pos := if dSPN x = 0 then c else 16 * (c / ns) + meta' / 2 ^ (4 * (c + mo)) % 16
    let v := if dScaled x then
        let k := (s * n + c) / dBlock x - s * n / dBlock x
        scaledValue (imgNat imgs (18432 + 16 * i + 3 * k) 3) (dFMT x) e
      else elemValue (dFMT x) e
    (pos, v))

/-- B row `r` of the step, `n` columns, read from memory. -/
def bRow (imgs : List Vec) (x : Desc) (fa r n : Nat) : List XReal :=
  let b := dBits x
  let raw := imgNat imgs (8192 + 256 * r) 256
  (List.range n).map (fun j =>
    let e := raw / 2 ^ (j * b) % 2 ^ b
    if dNQ4 x then nq4Value fa e (imgNat imgs (20480 + 32 * r + j / 64) 1) (imgNat imgs (21504 + 8 * r + 4 * (j / 64)) 4)
    else if dScaled x then scaledValue (imgNat imgs (20480 + 32 * r + 3 * (j / dBlock x)) 3) (dFMT x) e
    else elemValue (dFMT x) e)

/-! Weight buffers (R215): row r's elements at 256 r, its scales at 32 r, super-scales at 4 × their index. -/

def WBuf.bits (w : WBuf) : Nat := fmtBits (w.fmt.toNat % 16)
def WBuf.mode (w : WBuf) : Nat := w.fmt.toNat / 16

def wbBytes (m : Sparse Byte) (a n : Nat) : Nat := leNat ((List.range n).map (fun k => Sparse.get 0 m (a + k)))

/-- Row `r` of the buffer. -/
def WBuf.row (w : WBuf) (fa r : Nat) : List XReal :=
  let f := w.fmt.toNat % 16
  let b := w.bits
  let raw := wbBytes w.elems (256 * r) ((w.n * b + 7) / 8)
  (List.range w.n).map (fun j =>
    let e := raw / 2 ^ (j * b) % 2 ^ b
    if f = 15 then
      nq4Value fa e (wbBytes w.scales (32 * r + j / 64) 1) (wbBytes w.supers (4 * ((r * ceilDiv w.n 64 + j / 64) / 256)) 4)
    else if w.mode ≠ 0 then scaledValue (wbBytes w.scales (32 * r + 3 * (j / (if w.mode = 1 then 16 else 32))) 3) f e
    else elemValue f e)

/-! Tile multiply (R214). -/

/-- One Cam step's chunks added into a tile: `z` starts the region from zero. -/
def addStep (int z : Bool) (rows : List (List (Nat × XReal))) (bs : Array (Array XReal)) (n : Nat) (t : Tile) : Tile :=
  ((rows.zip (List.range rows.length)).foldl (fun t ra =>
    (List.range n).foldl (fun t j =>
      let chunk := exactSum (ra.1.map (fun p => p.2.mul (((bs[p.1]?).getD #[])[j]?.getD (.fin 0 0))))
      let v := if z then 0 else t.get ra.2 j
      t.set ra.2 j (if int then addChunkInt v chunk else addChunk v chunk)) t) t)

/-- The region zeroed, for K = 0 with Z. -/
def zeroRegion (m n : Nat) (t : Tile) : Tile :=
  (List.range m).foldl (fun t i => (List.range n).foldl (fun t j => t.set i j 0) t) t

/-- Completion of an MTX command of the stepping strand: its eN and its EXT.TOK signal (R43, R211). -/
def State.mtxDone (s : State) (c : MtxCmd) : State :=
  s.onCs (fun t => ({ t with mtx := none }.signal c.sig).signal (if c.en = 0 then none else some c.en))

/-- A command of the stepping strand traps; it keeps the steps that it has made (R223). -/
def State.cmdTrap (s : State) (c : MtxCmd) (cz : Cause) (v : Dword) : State := s.enterTrap c.unit 3 cz v c.unit.addr false none [] []

/-- The parts of the array that the next step of a command reads: the tile it adds to, with St in `attb`, and the weight buffer. -/
def MtxCmd.partsRead (s : State) (t : Strand) (c : MtxCmd) : List Nat :=
  let tn := s.tileNo t c.acc
  (if c.z && c.step = 0 then [] else [(s.array t.arrayNo).readNo tn c.spec]) ++ (if c.opcode = 9 then [tn + 1] else []) ++
  c.wb.toList.map (fun w => 8 + s.wbNo t w)

/-- A region that covers its tile replaces what was damaged in it. -/
def ArrayState.covered (a : ArrayState) (n rows cols : Nat) (spec : Bool) : ArrayState :=
  if rows = 128 && cols = 128 then a.replaced (viewNo n spec) else a

/-- The columns N of a multiply. -/
def MtxCmd.cols (s : State) (t : Strand) (c : MtxCmd) : Nat :=
  match c.wb with
  | some w => ((s.array t.arrayNo).wbuf (s.wbNo t w)).n
  | none => dCOLS c.b

/-- One Cam step of `mmt` or `mmt.wb` (R222, R414). -/
def mmtStep (s : State) (c : MtxCmd) : State :=
  let t := s.cs
  let b := if c.wb.isSome then none else some c.b
  let es := stepReads c.a b c.step
  if s.arrayBad t (c.partsRead s t) then s.cmdTrap c .uncorrectable (BitVec.allOnes 64) else
  match mtxAccess s c.unit c.priv (keptReq c es 44) with
  | .wait s => s
  | .trap s cz v => s.cmdTrap c cz v
  | .data s imgs =>
    let a := s.array t.arrayNo
    let n := c.cols s t
    let rows := (List.range (dROWS c.a)).map (aRow imgs c.a c.step)
    let bs := ((List.range 32).map (fun r => ((match c.wb with
      | some w => (a.wbuf (s.wbNo t w)).row (dFMT c.a) (32 * c.step + r)
      | none => bRow imgs c.b (dFMT c.a) r n) : List XReal).toArray)).toArray
    let tn := s.tileNo t c.acc
    let a := if c.spec && c.step = 0 then a.enterSpec tn else a
    let a := if c.z && c.step = 0 then a.covered tn (dROWS c.a) n c.spec else a
    let x := addStep (isIntOp (dFMT c.a) (dMODE c.a)) (c.z && c.step == 0) rows bs n (a.view tn c.spec)
    let s := s.setArray t.arrayNo (a.setView tn c.spec x)
    let c' := { c with step := c.step + 1, kept := keepAfter c es imgs }
    if c'.step * 32 = depthOf c.a then s.mtxDone c' else s.onCs (fun t => { t with mtx := some c' })

/-! The attention macro (R225, R226). -/

/-- Keys of a block that a row uses: S ≤ g < L. -/
def rowUses (st : Tile) (nk b r j : Nat) : Bool :=
  let key := 128 * b + j
  let g := (st.get r 5 + key) % 2 ^ 32
  key < nk && st.get r 3 ≤ g && g < st.get r 4

/-- The state tile with the initial values under Z. -/
def attbInit (r : Nat) (st : Tile) : Tile :=
  (List.range r).foldl (fun st i => (((st.set i 0 0xFF800000).set i 1 0).set i 2 0x3F800000).set i 5 0) st

/-- A product of encoded values summed over 32 places at a time into an FP32 value (R71). -/
def accumulate (acc : Nat) : List (List XReal) → Nat
  | [] => acc
  | ch :: l => accumulate (addChunk acc (exactSum ch)) l

/-- Chunks of 32 of a list. -/
def chunks32 {α : Type} : Nat → List α → List (List α)
  | 0, _ => []
  | n + 1, l => l.take 32 :: chunks32 n (l.drop 32)

/-- The reads of block `b`: Q at step 0 at 256 i, K columns at 32768 + 256 d + 2 j, V rows at 65536 + 256 j, for the keys some row uses. -/
def attbElems (c : MtxCmd) (st : Tile) : List Elem :=
  let r := dROWS c.a
  let nk := dCOLS c.b
  let keys := (List.range 128).filter (fun j => (List.range r).any (fun i => rowUses st nk c.step i j))
  (if c.step = 0 then ((List.range r).map (fun i => rowElems c.a (256 * i) i 0 (dCOLS c.a))).flatten else []) ++
  ((List.range (dCOLS c.a)).map (fun d => keys.map (fun j =>
    (⟨32768 + 256 * d + 2 * j, elemAddr c.b d (128 * c.step + j), dBits c.b / 8⟩ : Elem)))).flatten ++
  (keys.map (fun j => rowElems c.c (65536 + 256 * j) (128 * c.step + j) 0 (dCOLS c.c))).flatten

/-- One row of one block: the new O row and state row. -/
def attbRow (c : MtxCmd) (q k v : Nat → Nat → XReal) (st o : Tile) (r : Nat) : Tile × Tile :=
  let nk := dCOLS c.b
  let d := dCOLS c.a
  let dv := dCOLS c.c
  let act := fun j => rowUses st nk c.step r j
  let scores := (List.range 128).map (fun j =>
    if act j then
      some (accumulate 0 (chunks32 (d / 32) ((List.range d).map (fun x => (q r x).mul (k x j)))))
    else none)
  let (m, l, al, p, _) := smxStep (st.get r 0) (st.get r 1) scores
  let fv := fmtOfCode (dFMT c.c)
  let pv := p.map (fun x => XReal.ofF (decodeF fv (valTo fv 0 false (decodeF fmtF32 x)).1))
  let o := (List.range dv).foldl (fun o cc =>
    let o0 := if al ≠ 0x3F800000 then (fMul fmtF32 0 al (o.get r cc)).1 else o.get r cc
    let prods := (pv.zip (List.range 128)).map (fun x => if act x.2 then x.1.mul (v x.2 cc) else .fin 0 0)
    o.set r cc (accumulate o0 (chunks32 4 prods))) o
  (((st.set r 0 m).set r 1 l).set r 2 al, o)

/-- The end of `attb`: keys consumed, and with FIN the division by the sum; whether some row was empty. -/
def attbEnd (c : MtxCmd) (st o : Tile) : Tile × Tile × Bool :=
  (List.range (dROWS c.a)).foldl (fun x r =>
    let (st, o, e) := x
    let st := st.set r 5 ((st.get r 5 + dCOLS c.b) % 2 ^ 32)
    if !c.fin then (st, o, e)
    else
      let l := st.get r 1
      let z := l % 2 ^ 31 == 0
      let o := (List.range (dCOLS c.c)).foldl (fun o j => o.set r j (if z then 0 else (fDiv fmtF32 0 (o.get r j) l).1)) o
      (st, o, e || z)) (st, o, false)

/-- Writing O and St back, with the end of the command after its last block. -/
def attbPut (s : State) (c : MtxCmd) (st o : Tile) : State :=
  let t := s.cs
  let tn := s.tileNo t c.acc
  if ceilDiv (dCOLS c.b) 128 ≤ c.step then
    let (st, o, e) := attbEnd c st o
    let s := s.onArray t (fun a => (a.setTile tn o).setTile (tn + 1) st)
    (if e then s.onCs (fun t => t.setStat statEMPTY) else s).mtxDone c
  else (s.onArray t (fun a => (a.setTile tn o).setTile (tn + 1) st)).onCs (fun t => { t with mtx := some c })

/-- The start state of O and St in a step: under Z the first step zeroes them. -/
def attbStart (s : State) (c : MtxCmd) : Tile × Tile :=
  let t := s.cs
  let tn := s.tileNo t c.acc
  let a := s.array t.arrayNo
  if c.z && c.step = 0 then (attbInit (dROWS c.a) (a.tile (tn + 1)), zeroRegion (dROWS c.a) (dCOLS c.c) (a.tile tn))
  else (a.tile (tn + 1), a.tile tn)

/-- One Cam step of `attb`: a block of 128 keys. -/
def attbStep (s : State) (c : MtxCmd) : State :=
  let (st, o) := attbStart s c
  let es := attbElems c st
  if s.arrayBad s.cs (c.partsRead s s.cs) then s.cmdTrap c .uncorrectable (BitVec.allOnes 64) else
  match mtxAccess s c.unit c.priv (keptReq c es 192) with
  | .wait s => s
  | .trap s cz v => s.cmdTrap c cz v
  | .data s imgs =>
    let qi := if c.step = 0 then imgs.take 64 else c.q
    let val := fun (x : Desc) (imgs : List Vec) (off : Nat) => elemValue (dFMT x) (imgNat imgs off (dBits x / 8))
    let q := fun r d => val c.a qi (256 * r + d * (dBits c.a / 8))
    let k := fun d j => val c.b imgs (32768 + 256 * d + 2 * j)
    let v := fun j cc => val c.c imgs (65536 + 256 * j + cc * (dBits c.c / 8))
    let (st, o) := (List.range (dROWS c.a)).foldl (fun x r => attbRow c q k v x.1 x.2 r) (st, o)
    let s := if c.z && c.step = 0 then s.onArray s.cs (fun a => a.covered (s.tileNo s.cs c.acc) (dROWS c.a) (dCOLS c.c) false) else s
    attbPut s { c with step := c.step + 1, q := qi, kept := keepAfter c es imgs } st o

/-! Issue of the stepping words. -/

/-- A command as its word issues it. -/
def cmdOf (t : Strand) (opcode : Nat) (acc : Nat) (n : BitVec 4) : MtxCmd :=
  { unit := t.unit, opcode := opcode, acc := acc, en := n, sig := t.unit.sig, priv := t.p }

/-- The checks of R206 and R207 on A against the depth, width and format of B. -/
def mmtOk (a : Desc) (k n fb mb : Nat) (spnB : Nat) : Bool :=
  dROWS a ≤ 128 && depthOf a % 32 == 0 && depthOf a == k && n ≤ 128 && pairOk (dFMT a) (dMODE a) fb mb && spnB == 0

/-- A multiply whose operands are in order: without steps it completes at once, else it stands in the Cam sequencer. -/
def startMmt (s : State) (c : MtxCmd) (n : Nat) : State :=
  let t := s.cs
  let tn := s.tileNo t c.acc
  if dROWS c.a = 0 || n = 0 || depthOf c.a = 0 then
    let s := s.onArray t (fun a =>
      let a := if c.spec then a.enterSpec tn else a
      if c.z then (a.setView tn c.spec (zeroRegion (dROWS c.a) n (a.view tn c.spec))).covered tn (dROWS c.a) n c.spec else a)
    s.mtxDone c
  else s.onCs (fun t => { t with mtx := some c })

/-- The issue of a word that uses the array: it waits for the words of R211, needs a share (R48), and then has its effect. -/
def arrayAct (s : State) (uses : List Nat) (f : State → Act) : Act :=
  if !s.hasShare s.cs then .trap .protection (s.cs.unit.word.setWidth 64)
  else if s.mtxHolds s.cs uses then .wait
  else f s

/-- `mmt` checked and started; shared with the follow-on of `copy.mmt` (R235). Where several checks fail, those of R206 and R207 name dA
before an SP that is not A's SPN names the word: the manual gives no order. Assumption 70, DESIGN CHOICE. -/
def mmtAct (s : State) (c a b : Nat) (n : BitVec 4) (p : BitVec 3) (sp r z : BitVec 1) : Act :=
  let t := s.cs
  arrayAct s [s.tileNo t c] (fun s =>
    let x := t.dr a
    let y := t.dr b
    if !descOk x then .trap .illegalField (BitVec.ofNat 64 a)
    else if !descOk y then .trap .illegalField (BitVec.ofNat 64 b)
    else if !mmtOk x (dROWS y) (dCOLS y) (dFMT y) (dMODE y) (dSPN y) then .trap .illegalField (BitVec.ofNat 64 a)
    else if p.toNat ≠ dSPN x then .trap .illegalField (t.unit.word.setWidth 64)
    else .okNoSig (startMmt s { cmdOf t 0 c n with a := x, b := y, spec := sp == 1, rel := r == 1, z := z == 1 } (dCOLS y)))

def execMmt (c : BitVec 3) (a b n : BitVec 4) (p : BitVec 3) (sp r z : BitVec 1) (s : State) : Result :=
  .next (issue (.mmt c a b n p sp r z) s (fun s => mmtAct s c.toNat a.toNat b.toNat n p sp r z))

/-- `mmt.wb`: K, N and format come from the buffer's record, whose K is not 0 (R214); an empty buffer has K = N = 0 (R210). -/
def mmtWbAct (s : State) (c a : Nat) (w : BitVec 2) (n : BitVec 4) (p : BitVec 3) (sp z : BitVec 1) : Act :=
  let t := s.cs
  arrayAct s [s.tileNo t c, 8 + s.wbNo t w.toNat] (fun s =>
    let x := t.dr a
    let buf := (s.array t.arrayNo).wbuf (s.wbNo t w.toNat)
    if !descOk x then .trap .illegalField (BitVec.ofNat 64 a)
    else if buf.k = 0 || !mmtOk x buf.k buf.n (buf.fmt.toNat % 16) buf.mode 0 then
      .trap .illegalField (BitVec.ofNat 64 a)
    else if p.toNat ≠ dSPN x then .trap .illegalField (t.unit.word.setWidth 64)
    else .okNoSig (startMmt s { cmdOf t 1 c n with a := x, wb := some w.toNat, spec := sp == 1, z := z == 1 } buf.n))

def execMmtWb (c : BitVec 3) (a : BitVec 4) (w : BitVec 2) (n : BitVec 4) (p : BitVec 3) (sp z : BitVec 1) (s : State) : Result :=
  .next (issue (.mmtWb c a w n p sp z) s (fun s => mmtWbAct s c.toNat a.toNat w n p sp z))

/-- A stream of `attb`: e4m3, e5m2, bf16 or f16, unscaled and dense. -/
def attbFmt (x : Desc) : Bool := 3 ≤ dFMT x && dFMT x ≤ 6 && dMODE x == 0 && dSPN x == 0

/-- `attb` (R225). "As Q" for K is read as the list of formats that Q may have, not as Q's own format. Assumption 70, DESIGN CHOICE. -/
def attbAct (s : State) (c a b : Nat) (n : BitVec 4) (f z : BitVec 1) : Act :=
  let t := s.cs
  let tn := s.tileNo t c
  arrayAct s [tn, tn + 1] (fun s =>
    let q := t.dr a
    let k := t.dr b
    let v := t.dr (b + 1)
    if !descOk q then .trap .illegalField (BitVec.ofNat 64 a)
    else if !descOk k then .trap .illegalField (BitVec.ofNat 64 b)
    else if !descOk v then .trap .illegalField (BitVec.ofNat 64 (b + 1))
    else if !(attbFmt q && attbFmt k && attbFmt v && dROWS q ≤ 128 && dCOLS q % 32 == 0 && 1 ≤ dCOLS q && dCOLS q ≤ 128 &&
        dROWS k == dCOLS q && dROWS v == dCOLS k && 1 ≤ dCOLS v && dCOLS v ≤ 128) then .trap .illegalField (BitVec.ofNat 64 a)
    else
      let cmd := { cmdOf t 9 c n with a := q, b := k, c := v, fin := f == 1, z := z == 1 }
      if dCOLS k = 0 then
        let (st, o) := attbStart s cmd
        .okNoSig (attbPut s cmd st o)
      else .okNoSig (s.onCs (fun t => { t with mtx := some cmd })))

/-- The word `attb` with its SPEC or REL bit set, which it has not: the instruction without them (R213, R225). -/
def attbModes (w : Word) : Option Instr :=
  if engineOf w = 3 && opcodeOf w = 9 && fldN w 2 2 ≠ 0 then (decodeMtx (w &&& ~~~12)).toOption else none

def execAttb (c : BitVec 2) (a b n : BitVec 4) (f z : BitVec 1) (s : State) : Result :=
  .next (issue (.attb c a b n f z) s (fun s => attbAct s (2 * c.toNat) a.toNat b.toNat n f z))

/-- A command of the Cam sequencer may step: in alternate mode only in its core's window (R49). -/
def State.camReady (s : State) (t : Strand) : Bool :=
  let a := s.array t.arrayNo
  t.mtx.isSome && t.live && (a.amode ≠ 2 || a.window == t.odd)

/-- CAM_STEP: one K chunk or key block of the stepping strand's command (R222). Assumption 27, DEDUCED. -/
def execCamStep (s : State) : Result :=
  match s.cs.mtx with
  | none => .next s
  | some c =>
    if !s.camReady s.cs then .next s
    else .next (if c.opcode = 9 then attbStep s c else mmtStep s c)

/-- ARRAY_WINDOW_SWITCH (R49): the array passes to the other core's window. -/
def execArrayWindowSwitch (arr : BitVec 8) (s : State) : Result :=
  let a := s.array arr.toNat
  .next (if a.amode = 2 then s.setArray arr.toNat { a with window := !a.window } else s)

/-- Every operand byte of a relocatable command lies in tile SRAM of the issuing tile (R224). -/
def operandsInTile (s : State) (c : MtxCmd) : Bool :=
  let t := s.cs
  let base := tileBase t.die.toNat t.tile.toNat
  (List.range (depthOf c.a / 32)).all (fun k =>
    let c := { c with step := k }
    match (planElems (spaceOf t s.csTeam) .read (stepReads c.a (some c.b) k) (s, [])).2 with
    | .ok plan => plan.all (fun p => match p.2 with | .dev a => base ≤ a && a < base + 2 ^ 22 | _ => false)
    | .error _ => false)

/-- Cam steps until the command is done or stops, at most `n`. -/
def runSteps : Nat → State → State
  | 0, s => s
  | n + 1, s =>
    match s.cs.mtx with
    | none => s
    | some c => runSteps n (mmtStep s c)

/-- An array with no command, and none waiting in an MTX queue that feeds it (R224). -/
def State.arrayIdle (s : State) (n : Nat) : Bool :=
  s.strands.all (fun t => !(t.live && t.arrayNo == n) || (t.mtx.isNone && !t.q.nonempty .mtx))

/-- An array that is ungranted, or granted only to teams of a partition (R342). -/
def State.arrayOpen (s : State) (part : BitVec 6) (n : Nat) : Bool :=
  let a := s.array n
  (a.grant0.toList ++ a.grant1.toList).all (fun id => ((s.team? id).map (fun m => fld m.ctx 16 6)) == some part)

/-- The array that takes a relocatable `mmt` of the stepping strand which its own array has not started: the lowest-numbered idle one of
the tile that is open to the partition (R224, R342). -/
def takerOf (s : State) : Option Nat :=
  match s.cs.mtx with
  | none => none
  | some c =>
    if c.opcode = 0 && c.rel && c.z && !c.spec && c.step = 0 && s.cs.live && s.cs.mreq.isNone && operandsInTile s c then
      ((List.range 4).map (s.cs.arrayNo / 4 * 4 + ·)).find? (fun n => n ≠ s.cs.arrayNo && s.arrayIdle n && s.arrayOpen s.cs.part n)
    else none

/-- RELOCATION_TAKE (R224): the taking array runs the command whole; the result goes to the home tile. -/
def execRelocationTake (arr : BitVec 8) (s : State) : Result :=
  match s.cs.mtx with
  | none => .next s
  | some c => .next (if takerOf s = some arr.toNat then runSteps (depthOf c.a / 32) s else s)

/-! Speculation and whole tiles (R217, R218). -/

/-- A word that acts on a tile at once and signals eN. -/
def tileWord (i : Instr) (c n : Nat) (f : ArrayState → Nat → ArrayState) (s : State) : Result :=
  .next (issue i s (fun s =>
    let tn := s.tileNo s.cs c
    arrayAct s [tn] (fun s =>
      .ok ((s.onArray s.cs (fun a => f a tn)).onCs (fun t => t.signal (if n = 0 then none else some (BitVec.ofNat 4 n)))))))

def ArrayState.clean (a : ArrayState) (n : Nat) : ArrayState :=
  { (a.setShadow n []).replaced (12 + n) with spec := a.spec &&& ~~~(BitVec.ofNat 8 (2 ^ n)) }

def execScommit (c : BitVec 3) (n : BitVec 4) (s : State) : Result :=
  tileWord (.scommit c n) c.toNat n.toNat (fun a t => if a.spec.getLsbD t then ((a.setTile t (a.shadow t)).replaced t (a.bad.contains (12 + t))).clean t else a) s
def execSdrop (c : BitVec 3) (n : BitVec 4) (s : State) : Result :=
  tileWord (.sdrop c n) c.toNat n.toNat (fun a t => if a.spec.getLsbD t then a.clean t else a) s
def execAccz (c : BitVec 3) (n : BitVec 4) (sp : BitVec 1) (s : State) : Result :=
  tileWord (.accz c n sp) c.toNat n.toNat (fun a t =>
    ((if sp = 1 then a.enterSpec t else a).setView t (sp == 1) []).replaced (viewNo t (sp == 1))) s

/-! Moving accumulators and loading weight buffers (R215, R219 to R221). -/

/-- The rows of a region as elements: row i at image offset 512 i. -/
def regionElems (x : Desc) : List Elem :=
  ((List.range (dROWS x)).map (fun i => rowElems x (512 * i) i 0 (dCOLS x))).flatten

/-- Element (i, j) of the images of a region. -/
def regionElem (x : Desc) (imgs : List Vec) (i j : Nat) : Nat :=
  imgNat imgs (512 * i + j * (dBits x / 8)) (dBits x / 8)

/-- A memory element as accumulator bits (R219). -/
def accOf (fmt x : Nat) : Nat :=
  match fmt with
  | 5 => (fCvt fmtBF16 fmtF32 0 false x).1
  | 6 => (fCvt fmtF16 fmtF32 0 false x).1
  | 10 => wrapTo 32 (signOf x 8)
  | 12 => wrapTo 32 (signOf x 16)
  | _ => x

/-- The descriptor that an MTX word took when it issued: one that waits for its access does not read it again (R205). -/
def Strand.issuedDesc (t : Strand) (n : Nat) : Desc :=
  match t.mdesc with
  | some w => if w.seq = t.unit.seq then w.desc else t.dr n
  | none => t.dr n

/-- How an MTX word whose whole access is made at its issue goes on; `x` is its descriptor, kept while it waits, and `uses` the tiles that
no other word changes once bytes have gone to another device. Another word of the strand that waits so goes first. -/
def mtxAct (s : State) (x : Desc) (uses : List Nat) (q : Req) (f : State → List Vec → Act) : Act :=
  if s.cs.mdesc.any (·.seq ≠ s.cs.unit.seq) then .wait
  else
    let keep := fun (d : Option MtxWait) (s : State) => s.onCs (fun t => { t with mdesc := d })
    match mtxAccess s s.cs.unit s.cs.p q with
    | .wait s => .waitWith (keep (some ⟨s.cs.unit.seq, x, if s.cs.mreq.isSome then uses else []⟩) s)
    | .trap s c v => .trapWith (keep none s) c v
    | .data s imgs => f (keep none s) imgs

def signalEn (s : State) (n : BitVec 4) : State := s.onCs (fun t => t.signal (if n = 0 then none else some n))

def accldAct (s : State) (c a : Nat) (n : BitVec 4) (sp : BitVec 1) : Act :=
  let tn := s.tileNo s.cs c
  arrayAct s [tn] (fun s =>
    let x := s.cs.issuedDesc a
    if !descOk x || !([7, 5, 6, 14, 12, 10].contains (dFMT x)) || dMODE x ≠ 0 || dSPN x ≠ 0 then
      .trap .illegalField (BitVec.ofNat 64 a)
    else if 128 < dROWS x || 128 < dCOLS x then .trap .illegalField (s.cs.unit.word.setWidth 64)
    else mtxAct s x [] { kind := .load, elems := regionElems x, base := List.replicate 128 0 } (fun s imgs =>
      .ok (signalEn (s.onArray s.cs (fun ar =>
        let ar := if sp = 1 then ar.enterSpec tn else ar
        (ar.setView tn (sp == 1) ((List.range (dROWS x)).foldl (fun t i => (List.range (dCOLS x)).foldl (fun t j =>
          t.set i j (accOf (dFMT x) (regionElem x imgs i j))) t) (ar.view tn (sp == 1)))).covered tn (dROWS x) (dCOLS x) (sp == 1))) n)))

def execAccld (c : BitVec 3) (a n : BitVec 4) (sp : BitVec 1) (s : State) : Result :=
  .next (issue (.accld c a n sp) s (fun s => accldAct s c.toNat a.toNat n sp))

/-- An accumulator element converted for `accst` (R220). -/
def accstElem (t : Strand) (fmt : Nat) (sat : Bool) (i j x : Nat) : Nat × Flags :=
  let sr := if t.rmode = 5 then t.mixAt (BitVec.ofNat 32 i) (BitVec.ofNat 32 j) else 0
  match fmt with
  | 3 | 4 | 5 | 6 => fCvt fmtF32 (fmtOfCode fmt) t.rmode sat x sr
  | 10 => (if sat then wrapTo 8 (clampTo 2 (signOf x 32)) else x % 2 ^ 8, 0)
  | 12 => (if sat then wrapTo 16 (clampTo 4 (signOf x 32)) else x % 2 ^ 16, 0)
  | _ => (x, 0)

def execAccst (c : BitVec 3) (a n : BitVec 4) (sp sat : BitVec 1) (s : State) : Result :=
  .next (issue (.accst c a n sp sat) s (fun s =>
    let tn := s.tileNo s.cs c.toNat
    arrayAct s [tn] (fun s =>
      let t := s.cs
      let x := t.issuedDesc a.toNat
      if !descOk x then .trap .illegalField (BitVec.ofNat 64 a.toNat)
      else if !([7, 3, 4, 5, 6, 14, 12, 10].contains (dFMT x)) || dMODE x ≠ 0 || dSPN x ≠ 0 || 128 < dROWS x ||
          128 < dCOLS x || (sat = 1 && (dFMT x = 7 || dFMT x = 14)) then .trap .illegalField (t.unit.word.setWidth 64)
      else if s.arrayBad t [(s.array t.arrayNo).readNo tn (sp == 1)] then damageTrap
      else
        let ar := s.array t.arrayNo
        let ar := if sp = 1 then ar.enterSpec tn else ar
        let tile := ar.view tn (sp == 1)
        let rows := (List.range (dROWS x)).map (fun i => (List.range (dCOLS x)).map (fun j =>
          accstElem t (dFMT x) (sat == 1) i j (tile.get i j)))
        let fl := rows.flatten.foldl (fun b r => b ||| r.2) 0
        let data := rows.map (fun r => packVec (dBits x) (r.map (·.1)))
        mtxAct s x [tn] { kind := .store, write := true, elems := regionElems x, data := data } (fun s _ =>
          .ok (signalEn ((s.setArray t.arrayNo ar).onCs (fun t => t.raise fl)) n)))))

/-- `accmv` (R221). -/
def execAccmv (c : BitVec 3) (d a : BitVec 6) (sp l : BitVec 1) (s : State) : Result :=
  .next (issue (.accmv c d a sp l) s (fun s =>
    let tn := s.tileNo s.cs c.toNat
    arrayAct s [tn] (fun s =>
      let t := s.cs
      let ar := s.array t.arrayNo
      if s.arrayBad t [ar.readNo tn (sp == 1)] then damageTrap else
      let ar := if sp = 1 then ar.enterSpec tn else ar
      let i := (t.sc a).toNat % 128
      let tile := ar.view tn (sp == 1)
      let v := packVec 32 ((List.range 128).map (fun j => tile.get i j))
      let tile' := if l = 1 then (List.range 128).foldl (fun x j => x.set i j 0) tile else tile
      .ok ((s.setArray t.arrayNo (ar.setView tn (sp == 1) tile')).onCs (fun t => putWhole t 19 d v (maskBelow 128))))))

/-- Encoded bytes of a stream (R215). -/
def wbSize (x : Desc) : Nat :=
  let rows := dROWS x
  let blocks := if dScaled x then rows * ceilDiv (dCOLS x) (dBlock x) else 0
  ceilDiv (rows * dCOLS x * dBits x) 8 + (if dNQ4 x then blocks + 4 * ceilDiv blocks 256 else 3 * blocks)

/-- A stream as a weight buffer takes it: row r's elements at image offset 256 r, then all scales at 32 r and super-scales. -/
def wbElems (x : Desc) : List Elem :=
  let rows := dROWS x
  let nb := ceilDiv (dCOLS x) (dBlock x)
  ((List.range rows).map (fun r =>
    rowElems x (256 * r) r 0 (dCOLS x) ++
    (if dScaled x then scaleElems x (256 * rows + 32 * r) r 0 nb else []))).flatten ++
  (if dNQ4 x then (List.range (ceilDiv (rows * nb) 256)).map (fun g =>
    (⟨288 * rows + 4 * g, vaOf (dSUPERB x + 4 * g : Nat), 4⟩ : Elem)) else [])

/-- Bytes `off`, …, `n` of them, of the images, as a table from key 0 on. -/
def imgTable (imgs : List Vec) (off n : Nat) : Sparse Byte :=
  (List.range n).filterMap (fun k => let b := imgByte imgs (off + k); if b = 0 then none else some (k, b))

/-- A weight buffer with its record (R215). -/
def wbOf (x : Desc) (imgs : List Vec) : WBuf :=
  let rows := dROWS x
  { k := rows, n := dCOLS x, fmt := BitVec.ofNat 8 (recField x 0x35 1), elems := imgTable imgs 0 (256 * rows),
    scales := imgTable imgs (256 * rows) (32 * rows),
    supers := imgTable imgs (288 * rows) (4 * ceilDiv (rows * ceilDiv (dCOLS x) (dBlock x)) 256) }

def wbloadAct (s : State) (w : BitVec 2) (a : Nat) (n : BitVec 4) : Act :=
  let wn := s.wbNo s.cs w.toNat
  arrayAct s [8 + wn] (fun s =>
    let x := s.cs.issuedDesc a
    if !descOk x || dROWS x = 0 || dROWS x % 32 ≠ 0 || dCOLS x = 0 || 128 < dCOLS x || dSPN x ≠ 0 ||
        !(isFloatOp (dFMT x) (dMODE x) || isIntOp (dFMT x) (dMODE x) || (dNQ4 x && dMODE x == 0)) || 131072 < wbSize x then
      .trap .illegalField (BitVec.ofNat 64 a)
    else mtxAct s x [] { kind := .load, elems := wbElems x, base := List.replicate (ceilDiv (292 * dROWS x) 512 + 1) 0 } (fun s imgs =>
      .ok (signalEn (s.onArray s.cs (fun ar => { ar.replaced (8 + wn) with wb := Sparse.set {} ar.wb wn (wbOf x imgs) })) n)))

def execWbload (w : BitVec 2) (a n : BitVec 4) (s : State) : Result :=
  .next (issue (.wbload w a n) s (fun s => wbloadAct s w a.toNat n))

end Sys2Proof.Machine
end

