-- ==== Sys2Proof/Machine/Returns.lean ====
section
/-! DEFINITION. Steps that complete an access of the record (95_what_each_step_holds.md; 02_execution_model.md R39, R43;
10_access_instructions.md R172 to R174; 22_faults_and_translation.md R301, R350 to R352). Accesses to this device's memory and to host
memory complete when they issue; those that were held, or went to another device or as an AtomicOp to the host, complete here. -/

namespace Sys2Proof.Machine

/-- The strand that holds an entry, in its record, its frame or as its matrix or fetch read. -/
def State.holder? (s : State) (seq : Nat) : Option Strand :=
  s.strands.find? (fun t => (t.entry? seq).isSome || t.mreq.any (·.seq == seq) || t.fetchReq.any (·.seq == seq) ||
    t.frame.any (fun f => f.mreq.any (·.seq == seq)))

/-- Every packet that the entry sent has been answered. -/
def State.allAnswered (s : State) (seq : Nat) : Bool := s.pending.all (fun p => p.acc ≠ some seq)

/-- The matrix or fetch read with the number changed, in the strand or its frame. -/
def Strand.onMreq (t : Strand) (seq : Nat) (f : RecEntry → RecEntry) : Strand :=
  let g := Option.map (fun e : RecEntry => if e.seq == seq then f e else e)
  { t with mreq := g t.mreq, fetchReq := g t.fetchReq, frame := t.frame.map (fun x => { x with mreq := g x.mreq }) }

/-- An acquire that completes invalidates its core's L1 (R289, R318). -/
def acquired (s : State) (t : Strand) (o : AccOrd) : State := if o.isAcquire then acquireL1 s t.l1No o.scope else s

/-- An entry whose packets are all answered completes: a chunk of a window goes to its slot, a matrix read waits for its step, a store with
bytes here writes them now (R151), and everything else is delivered. -/
def completeEntry (s : State) (t : Strand) (seq : Nat) : State :=
  match t.entry? seq with
  | some e =>
    if e.state ≠ .pending || e.fail.isSome then s
    else if e.req.kind == .fill then fillArrived s t e e.req.part
    else if e.here = 1 then
      let f := fun (e : RecEntry) => { e with here := 2, state := .held }
      retryEntry (s.onStrand t.team t.sid (fun t => t.onEntry seq f)) (t.onEntry seq f) seq
    else
      let imgs := if e.req.write && e.req.atom.isNone then [] else e.req.final e.req.part
      (acquired s t e.req.ord).onStrand t.team t.sid (fun t => t.finish seq imgs)
  | none => s.onStrand t.team t.sid (fun t => t.onMreq seq (fun e => if e.fail.isSome then e else { e with state := .done }))

/-- A step that completes an entry of the kind that `p` selects. -/
def completion (p : Req → Bool) (seq : Nat) (s : State) : Result :=
  match s.holder? seq with
  | none => .next s
  | some t =>
    let ok := match t.entry? seq with
      | some e => p e.req && e.state == .pending
      | none => true
    .next (if ok && s.allAnswered seq then completeEntry s t seq else s)

/-- LOAD_DATA_RETURN (R39, R43). -/
def execLoadDataReturn (seq : Nat) (s : State) : Result := completion (fun q => !q.write) seq s

/-- STORE_PERFORMED (R43). -/
def execStorePerformed (seq : Nat) (s : State) : Result := completion (fun q => q.write && q.atom.isNone) seq s

/-- The entry is an atomic that went to the host. -/
def isHostAtomic (s : State) (seq : Nat) : Bool := s.out.any (fun o => match o with | .atomicOp n _ _ => n == seq | _ => false)

/-- ATOMIC_PERFORMED at another device (R174). -/
def execAtomicPerformed (seq : Nat) (s : State) : Result :=
  if isHostAtomic s seq then .next s else completion (fun q => q.atom.isSome) seq s

/-- ATOMICOP_COMPLETION (R174, R372): the host answers with the old value; its memory then holds what the operation makes of it. -/
def execAtomicopCompletion (seq : Nat) (old : BitVec 128) (s : State) : Result :=
  match s.holder? seq with
  | none => .next s
  | some t =>
    match t.entry? seq with
    | none => .next s
    | some e =>
      match e.req.atom with
      | none => .next s
      | some a =>
        if !isHostAtomic s seq || e.state ≠ .pending then .next s
        else
          let m := old.toNat % 2 ^ (8 * a.size)
          let new := if atomWrites a m then atomNew a m else m
          let s := { s with
            mem := setBytes s.mem (hostKey e.key) (leBytes a.size new)
            out := s.out.filter (fun o => match o with | .atomicOp n _ _ => n ≠ seq | _ => true) }
          .next ((acquired s t e.req.ord).onStrand t.team t.sid (fun t => t.finish seq [BitVec.ofNat 4096 m]))

/-- HOLD_QUEUE_NACK_RETRY (R301, R365): a HELD access is tried again, in the order of its hold queue, or one that a full queue NACKed. -/
def execHoldQueueNackRetry (seq : Nat) (s : State) : Result :=
  match s.holder? seq with
  | none => .next s
  | some t =>
    match t.entry? seq with
    | some e => .next (if (e.state = .held || e.state = .nacked) && s.holdTurn seq then retryEntry s t seq else s)
    | none => .next s

end Sys2Proof.Machine
end

