-- ==== Sys2Proof/Machine/Fetch.lean ====
section
/-! DEFINITION. Fetch, the splitter, prefixes and JOIN, trap entry as a step of its own, and hang detection (02_execution_model.md R34,
R45; 06_instruction_encoding.md R86, R96, R97, R99; 09_control_instructions.md R127, R131; 15_system_instructions.md R270;
22_faults_and_translation.md R343, R344, R355, R356). -/

namespace Sys2Proof.Machine

/-! Patched immediates (R96, R110). -/

/-- The immediate field that a patch entry overlays: its lowest bit and width, whether it is signed, and whether the immediate that a
prefix extends is signed. -/
structure PatchField where
  lo : Nat
  width : Nat
  signed : Bool
  extSigned : Bool
  deriving DecidableEq, Repr

/-- ACC opcodes of format AM (R97). -/
def isAM (op : Nat) : Bool := op ≤ 0x0C || op = 0x0F || op = 0x10 || (0x19 ≤ op && op ≤ 0x1B) || op = 0x2D || op = 0x2E

/-- The table of R96. Assumption 26, DEDUCED. -/
def patchField (w : Word) : Option PatchField :=
  let op := opcodeOf w
  match engineOf w with
  | 0 =>
    if 0x1B ≤ op && op ≤ 0x21 then some ⟨0, 10, true, true⟩
    else if op = 0x22 then some ⟨0, 16, true, true⟩
    else if op = 0x4C then some ⟨0, 16, false, false⟩
    else if 0x32 ≤ op && op ≤ 0x37 then some ⟨0, 10, true, true⟩
    else if op = 0x38 || op = 0x39 then some ⟨0, 22, true, true⟩
    else if op = 0x3B then some ⟨0, 16, true, true⟩
    else if op = 0x3C then some ⟨12, 10, false, true⟩
    else none
  | 1 => if isAM op then some ⟨0, 6, true, true⟩ else none
  | 2 => if op = 0x15 then some ⟨1, 6, true, true⟩ else if op = 0x16 || op = 0x17 then some ⟨1, 6, false, false⟩ else none
  | _ => none

/-- The value of SIZE bytes extended, shifted and cut to WIDTH bits (R96). -/
def patchValue (raw : Dword) (width flags : Byte) (signed : Bool) : Nat :=
  let bits : Nat := 8 * 2 ^ (width.toNat / 32 % 4)
  let x : Nat := raw.toNat % 2 ^ bits
  let v : Int := if signed && 2 ^ (bits - 1) ≤ x then (x : Int) - ((2 ^ bits : Nat) : Int) else (x : Int)
  let w : Int := v / ((2 ^ (flags.toNat % 64) : Nat) : Int)
  (BitVec.ofInt 64 w).toNat % 2 ^ (width.toNat % 32)

/-- `n` bits put at bit `lo` of a word. -/
def overlay (w : Word) (lo n x : Nat) : Word :=
  BitVec.ofNat 32 (w.toNat - fldN w lo n * 2 ^ lo + x % 2 ^ n * 2 ^ lo)

/-- One patch entry on a unit: on its word, or on its EXT.IMM (R96). Assumption 26, DEDUCED. -/
def applyPatch (u : EUnit) (width flags : Byte) (raw : Dword) : EUnit :=
  match patchField u.word with
  | none => { u with patchBad := true }
  | some f =>
    let n := width.toNat % 32
    if flags.getLsbD 7 then
      if (u.ext 0).isNone then { u with patchBad := true }
      else { u with pfx := u.pfx.map (fun w => if extKind w = 0 then overlay w 0 n (patchValue raw width flags f.extSigned) else w) }
    else { u with word := overlay u.word f.lo (min n f.width) (patchValue raw width flags f.signed) }

/-- The entries that name the unit's word; one that names a prefix of it names a word with no immediate field.
Assumption 26, DEDUCED. -/
def patchUnit (m : Team) (u : EUnit) : EUnit :=
  (m.hdr.patches.zip m.patchVals).foldl (fun u x =>
    let (a, _, width, flags) := x.1
    if a = u.taddr then applyPatch u width flags x.2
    else if u.addr.toNat ≤ a.toNat && a.toNat < u.taddr.toNat then { u with patchBad := true }
    else u) u

/-! Reading a word (R343). -/

/-- What fetch finds at the fetch address: the word, a state in which it must wait, or a fetch fault. -/
inductive FetchRes where
  | word (s : State) (w : Word)
  | wait (s : State)
  | fault (s : State) (c : Cause)
  deriving DecidableEq, Repr

/-- The four bytes at the fetch address, through the translation for instruction fetch. -/
def fetchRead (s : State) : FetchRes :=
  let t := s.cs
  match t.fetchReq with
  | some e =>
    if e.req.first ≠ t.pc then .wait (s.onCs (fun t => { t with fetchReq := none }))
    else
      match e.fail with
      | some (c, _) => .fault (s.onCs (fun t => { t with fetchReq := none })) c
      | none =>
        if e.state = .done then
          .word (s.onCs (fun t => { t with fetchReq := none })) (((e.req.part.headD 0).setWidth 32))
        else .wait s
  | none =>
    match refusedAt t.answered t.pc 4 with
    | some (n, c, _) => .fault (s.onCs (fun t => t.useAnswer n)) c
    | none =>
    match planBytes (spaceOf t s.csTeam) .exec (fun _ => false) 4 0 t.pc (s, []) with
    | (s, .error (r, va)) =>
      match r with
      | .fault c => .fault s c
      | .moving _ => .wait s
      | .snoop .. | .busy => .wait (askFor s r)
      | .ok _ => .wait s
      | r =>
        match tryPark s s.cs r va with
        | (s, .inr _) => .wait s
        | (s, .inl c) => .fault s c
    | (s, .ok plan0) =>
      match resolveFab s t.part .exec plan0.reverse with
      | .error (_, .fault c) => .fault s c
      | .error (_, r) => .wait (askFor s r)
      | .ok plan =>
        if plan.any (fun p => p.2.isFab) then
          let seq := s.nextId
          let q : Req := { readReqOf t.pc with part := [0] }
          let e : RecEntry := { seq := seq, unit := {}, req := q, state := .pending }
          let s := { s with nextId := seq + 1 }.onCs (fun t => { t with fetchReq := some e })
          .wait (sendRuns s s.cs q seq false (fabRuns plan))
        else match plan.findSome? (fun p => devWait s false p.2.key) with
        | some r => .wait (askFor s r)
        | none =>
        if plan.any (fun p => s.bad p.2.key) then .fault s .uncorrectable
        else .word ((s.touchRows (plan.map (·.2.key))).onCs Strand.clearAnswered) ((readPlan s.mem [0] plan).headD 0 |>.setWidth 32)
where
  /-- A read of the word at the address. -/
  readReqOf (pc : Dword) : Req := { kind := .load, elems := [⟨0, pc, 4⟩], base := [0] }

/-! Appending (R34, R45, R86, R97, R127, R131). -/

/-- Units of a queue: EXT words and JOIN markers take no slot (R34). -/
def queueLength (q : List QItem) : Nat := (q.filter (fun i => i.unit?.isSome)).length

/-- Progress resets the hang timer (R355). -/
def Strand.progress (t : Strand) : Strand := { t with hangTimer := 0 }

/-- An EXT word waits for its target (R86). One at the end address of a loop spoils the unit (R131). Assumption 42, DEDUCED. -/
def latchExt (w : Word) (s : State) : State :=
  s.onCs (fun t =>
    let p : Partial := if t.pfx.words.isEmpty then { addr := t.pc } else t.pfx
    let bad := match t.loops with
      | l :: _ => l.stop == t.pc
      | [] => false
    { t.progress with
      pfx := { p with words := p.words ++ [w], loopBad := p.loopBad || bad }
      pc := t.pc + 4 })

/-- A control word that may not end a loop body: a branch, a jump, `jr`, `loop` or `loopi` (R131). -/
def barredEnd (w : Word) : Bool := engineOf w == 0 && 0x32 ≤ opcodeOf w && opcodeOf w ≤ 0x3C

/-- The unit that the word `w` at the fetch address completes. -/
def buildUnit (s : State) (w : Word) : EUnit :=
  let t := s.cs
  let addr := if t.pfx.words.isEmpty then t.pc else t.pfx.addr
  let atEnd := match t.loops with
    | l :: _ => l.stop == t.pc
    | [] => false
  patchUnit s.csTeam { addr := addr, taddr := t.pc, word := w, pfx := t.pfx.words, seq := s.nextSeq
                       loopBad := t.pfx.loopBad || (atEnd && barredEnd w) }

/-- Fetch moves past the unit: the back-edge test at its word (R131), the prefixes are used up, and a control-flow word stops fetch
(R127). Assumption 57, DEDUCED. -/
def passUnit (s : State) (u : EUnit) : State :=
  let s := { s with nextSeq := s.nextSeq + 1 }
  s.onCs (fun t =>
    let (loops, pc) := backEdge u.taddr t.loops
    { t.progress with pfx := {}, loops := loops, pc := pc, fetchHold := stopsFetch u.word })

/-- A `copy.mmt` of the XFER queue that still awaits its follow-on (R97). -/
def awaitsFollow (u : EUnit) : Bool := engineOf u.word == 5 && opcodeOf u.word == 1 && u.follow.isNone

/-- The follow-on goes to the latest unit of the list that awaits one. -/
def giveFollow (u : EUnit) (l : List QItem) : List QItem :=
  (l.foldr (fun i (r : List QItem × Bool) =>
    match i with
    | .unit x => if !r.2 && awaitsFollow x then
        (.unit { x with follow := some (u.taddr, u.word, u.pfx), followPatchBad := u.patchBad, followLoopBad := u.loopBad } :: r.1, true)
      else (i :: r.1, r.2)
    | .joinMark _ => (i :: r.1, r.2)) ([], false)).1

/-- The latest `copy.mmt` of the queue awaits its follow-on. -/
def needsFollow (l : List QItem) : Bool :=
  match (l.filterMap QItem.unit?).reverse.find? (fun u => engineOf u.word == 5 && opcodeOf u.word == 1) with
  | some u => u.follow.isNone
  | none => false

/-- The queues that a JOIN word names (R45), as engine numbers. -/
def joinNames (w : Word) : List Eng := Eng.all.filter (fun e => w.getLsbD (21 - e.num))

/-- The fate of a JOIN unit (R45, R98): its opcode, its mask and reserved bits, and its prefixes. -/
def joinFate (s : State) (w : Word) : Option Cause :=
  if s.cs.unit.badKind || opcodeOf w ≠ 0 then some .illegalOpcode
  else fateWith s false (decide (fldN w 0 16 = 0) && !(joinNames w).isEmpty) {} false

/-- The issue of the JOIN unit `w` of the stepping strand: its wait, then a marker in every queue it names (R45). -/
def joinUnit (w : Word) (s : State) : State :=
  issueWith {} (joinFate s w) s (fun s =>
    let u := s.cs.unit
    .okNoSig (s.onCs (fun t => { t with q := (joinNames w).foldl (fun q e => q.set e (q.get e ++ [.joinMark u])) t.q })))

/-- `join` (R45). -/
def execJoin (c a v m k x : BitVec 1) (s : State) : Result :=
  .next (joinUnit (BitVec.ofNat 32 (3221225472 + 2097152 * c.toNat + 1048576 * a.toNat + 524288 * v.toNat + 262144 * m.toNat +
    131072 * k.toNat + 65536 * x.toNat)) s)

/-! The prefix words as fetch takes them (R86 to R93). -/

def execExtImm (i : BitVec 26) (s : State) : Result := .next (latchExt (BitVec.ofNat 32 (3758096384 + i.toNat)) s)
def execExtOrd (k : BitVec 3) (o : BitVec 2) (c : BitVec 4) (s : State) : Result :=
  .next (latchExt (BitVec.ofNat 32 (3825205248 + 8388608 * k.toNat + 2097152 * o.toNat + 131072 * c.toNat)) s)
def execExtTok (w : BitVec 1) (e : BitVec 4) (t : BitVec 8) (g : BitVec 1) (f : BitVec 4) (s : State) : Result :=
  .next (latchExt (BitVec.ofNat 32 (3892314112 + 33554432 * w.toNat + 2097152 * e.toNat + 8192 * t.toNat + 4096 * g.toNat + 256 * f.toNat)) s)
def execExtStall (c : BitVec 4) (s : State) : Result := .next (latchExt (BitVec.ofNat 32 (3959422976 + c.toNat)) s)
def execExtMask (z : BitVec 1) (m : BitVec 4) (s : State) : Result :=
  .next (latchExt (BitVec.ofNat 32 (4026531840 + 16 * z.toNat + m.toNat)) s)
def execExtInd (b : BitVec 6) (x y z : BitVec 1) (s : State) : Result :=
  .next (latchExt (BitVec.ofNat 32 (4093640704 + 1048576 * b.toNat + 524288 * x.toNat + 262144 * y.toNat + 131072 * z.toNat)) s)

/-- The word `w` at the fetch address: an EXT word is latched; a JOIN without a fate, or one that does not name CTRL, acts where it stands,
after its wait; a follow-on joins its `copy.mmt`; every other unit goes to the queue of its engine, if that has a slot. -/
def splitWord (s : State) (w : Word) : State :=
  if engineOf w = 7 then latchExt w s
  else
    let u := buildUnit s w
    let e := engOf u.word
    if engineOf w = 6 then
      let s1 := s.onCs (fun t => { t with unit := u })
      if (joinFate s1 u.word).isSome && u.word.getLsbD 21 then
        passUnit (s.onCs (fun t => { t with q := { t.q with ctrl := t.q.ctrl ++ [.unit u] } })) u
      else if s.cs.tokHolds u then s
      else joinUnit u.word (passUnit s1 u)
    else if engineOf w = 3 && needsFollow s.cs.q.xfer then
      passUnit (s.onCs (fun t => { t with q := { t.q with xfer := giveFollow u t.q.xfer } })) u
    else if 16 ≤ queueLength (s.cs.q.get e) then s
    else passUnit (s.onCs (fun t => { t with q := t.q.set e (t.q.get e ++ [.unit u]) })) u

/-- Fetch goes on for the strand. -/
def Strand.fetches (t : Strand) : Bool := t.live && !t.parkEnded && !t.fetchHold

/-- FETCH_WORD (R34, R343): one word of the stepping strand is fetched and appended. Assumption 57, DEDUCED. -/
def execFetchWord (s : State) : Result :=
  if !s.cs.fetches then .next s
  else
    match fetchRead s with
    | .word s w => .next (splitWord s w)
    | .wait s => .next s
    | .fault s c => .next (s.trapFetch c)

/-! JOIN release (R45). -/

/-- Every word of a queue that is ahead of the JOIN with number `seq` has completed; an XFER word once it is accepted. -/
def aheadDone (t : Strand) (seq : Nat) (e : Eng) : Bool :=
  (match t.q.get e with
   | .joinMark u :: _ => u.seq == seq
   | _ => false) &&
  (match e with
   | .acc => t.arec.all (fun r => r.req.kind == .fill || seq ≤ r.unit.seq)
   | .mtx => t.mtx.all (fun c => seq ≤ c.unit.seq)
   | .xfer => t.xpend.isNone
   | _ => true)

/-- The JOIN whose markers have all reached their heads. -/
def joinReady (t : Strand) : Option EUnit :=
  (Eng.all.filterMap (fun e => match t.q.get e with | .joinMark u :: _ => some u | _ => none)).find? (fun u =>
    (joinNames u.word).all (aheadDone t u.seq))

/-- The latest completion of the pending writes. -/
def lastReady (l : List PendWrite) (c : Nat) : Nat := l.foldl (fun c p => max c p.ready) c

/-- The writes of VEC and SFU words ahead of the marker are in place. -/
def Strand.settleWrites (t : Strand) (names : List Eng) : Strand :=
  let t := if names.contains .vec then settlePend false (lastReady t.pend t.vclk) { t with vclk := lastReady t.pend t.vclk } else t
  if names.contains .sfu then settlePend true (lastReady t.spend t.sclk) { t with sclk := lastReady t.spend t.sclk } else t

/-- JOIN_RELEASE: the markers leave all named queues together, and the JOIN signals. A deferred fault of an accepted operation is
reported at the release of a JOIN that names XFER (R230). -/
def execJoinRelease (s : State) : Result :=
  match joinReady s.cs with
  | none => .next s
  | some u =>
    let names := joinNames u.word
    let s := s.onCs (fun t => (({ t.progress with q := t.q.dropMarks u.seq }).settleWrites names).signal u.sig)
    match (if names.contains .xfer then s.ops.find? (fun o => o.team == s.cs.team && o.sid == s.cs.sid &&
        (match o.stat with | .fault .. => true | _ => false)) else none) with
    | none => .next s
    | some o =>
      match o.stat with
      | .fault c v => .next ((s.dropOp o.id).enterTrap o.unit 5 c v o.unit.addr false (some o.id) [] [])
      | _ => .next s

/-! Trap entry as a step (R344). -/

/-- The failed entries of a unit are raised as its trap now, and no second time (R352). -/
def Strand.raised (t : Strand) (seq : Nat) : Strand :=
  { t with arec := t.arec.map (fun e => if e.unit.seq == seq && e.fail.isSome && e.req.kind != .fill then
      { e with fail := none, trapped := true } else e) }

/-- TRAP_ENTRY: the unit of the stepping strand traps with a cause, an engine and a TVAL. -/
def execTrapEntry (cause : BitVec 8) (eng : BitVec 3) (tval : BitVec 64) (s : State) : Result :=
  .next ((s.onCs (fun t => t.raised t.unit.seq)).enterTrap s.cs.unit (eng.toNat % 6) (Cause.ofCode cause) tval s.cs.unit.addr false none [] [])

/-! Hang detection (R270, R355). -/

/-- The vector fields of an SFU word by its opcode: field D and field A. -/
def sfuRoles (w : Word) : Roles :=
  let d : BitVec 6 := fld w 13 6
  let a : BitVec 6 := fld w 7 6
  let op := opcodeOf w
  if op ≤ 7 then { d := vdst d, a := vsrc a }
  else if op = 8 || op = 10 then { a := vsrc a }
  else if op = 11 || op = 12 then { d := vdst d }
  else {}

/-- The operands of a queued unit, from its word; none for a word that is no instruction. -/
def wordRoles (w : Word) : Roles :=
  let of := fun (r : Except DecErr Instr) => match r with | .ok i => rolesOf i | .error _ => {}
  match engineOf w with
  | 0 => of (decodeCtrl w)
  | 1 => of (decodeAcc w)
  | 2 => of (decodeVec w)
  | 3 => of (decodeMtx w)
  | 4 => sfuRoles w
  | _ => {}

/-- The item's unit, or its JOIN. -/
def QItem.any (i : QItem) : EUnit := match i with | .unit u => u | .joinMark u => u

/-- The head unit of each queue. An XFER word that awaits its acceptance stands at the head of its queue (R227). -/
def Strand.heads (t : Strand) : List (Eng × EUnit) :=
  Eng.all.filterMap (fun e => match e, t.xpend with
    | .xfer, some o => some (e, o.unit)
    | _, _ => (t.q.get e).head?.map (fun i => (e, i.any)))

/-- Data queues that some queued unit pushes. -/
def queuedPushes (t : Strand) : List Nat :=
  ((Eng.all.map (fun e => (t.q.get e).filterMap QItem.unit?)).flatten.map (fun u => (wordRoles u.word).pushes t u)).flatten

/-- Byte `e` of word 14 (R270). -/
def hangPops (t : Strand) (e : Eng) : Nat :=
  match (t.q.get e).head? with
  | some (.unit u) =>
    let pops := (wordRoles u.word).pops t u
    let push := queuedPushes t
    (List.range 8).foldl (fun b j => if pops.contains j && !push.contains j then b + 2 ^ j else b) 0
  | _ => 0

/-- A word of the hang record (R270). -/
def hangWord (s : State) (n : Nat) : Dword :=
  let t := s.cs
  let head := fun (k : Nat) => (t.heads.find? (fun h => h.1.num == k)).map (·.2)
  if n < 6 then
    match head n with
    | some u => BitVec.ofNat 64 (2 ^ 32 + u.word.toNat)
    | none => 0
  else if n < 12 then
    match head (n - 6) with
    | some u => u.addr
    | none => 0
  else if n = 12 then BitVec.ofNat 64 (leNat ((List.range 8).map (fun k => t.ev (BitVec.ofNat 4 k))))
  else if n = 13 then BitVec.ofNat 64 (leNat ((List.range 8).map (fun k => t.ev (BitVec.ofNat 4 (8 + k)))))
  else if n = 14 then BitVec.ofNat 64 (Eng.all.foldl (fun x e => x + hangPops t e * 2 ^ (8 * e.num)) 0)
  else BitVec.ofNat 64 s.time

/-- The key of a word of the hang record of a strand slot. -/
def hangKey (t : Strand) (slot : BitVec 2) (n : Nat) : Nat :=
  (((t.die.toNat * 16 + t.tile.toNat) * 8 + t.core.toNat) * 4 + slot.toNat) * 16 + n

/-- The strand counts towards a hang (R355). -/
def Strand.hangCounts (t : Strand) : Bool := t.live && (t.xpend.isSome || Eng.all.any (fun e => !(t.q.get e).isEmpty))

/-- The oldest head unit in fetch order. -/
def oldestHead (t : Strand) : Option (Eng × EUnit) :=
  t.heads.foldl (fun b h =>
    match b with
    | none => some h
    | some x => if h.2.seq < x.2.seq then some h else b) none

/-- The hang timer, kept in ns, has reached HANGCTL.TIMEOUT µs; 0 disables it. -/
def hangDue (s : State) : Bool := s.hangctl ≠ 0 && s.cs.hangCounts && s.hangctl.toNat * 1000 ≤ s.cs.hangTimer

/-- HANG_TIMEOUT: the record is captured and HANG is raised on the oldest head unit. -/
def execHangTimeout (s : State) : Result :=
  if !hangDue s then .next s
  else
    match oldestHead s.cs with
    | none => .next s
    | some (e, u) =>
      let rec_ := (List.range 16).foldl (fun m n => Sparse.set 0 m (hangKey s.cs s.cs.slot n) (hangWord s n)) s.hangRec
      let tval := hangWord s 14
      let r := wordRoles u.word
      let pops := r.pops s.cs u
      let pushes := r.pushes s.cs u
      let s := { s with hangRec := rec_ }
      let s := s.onCs (fun t => { t.progress with
        unit := u
        xpend := t.xpend.filter (fun o => o.unit.seq != u.seq)
        q := match (t.q.get e).head? with
          | some (.unit x) => if x.seq = u.seq then t.q.set e ((t.q.get e).drop 1) else t.q
          | _ => t.q })
      .next (s.enterTrap u e.num .hang tval u.addr false none pops pushes)

end Sys2Proof.Machine
end

