-- ==== Sys2Proof/Machine/Collective.lean ====
section
/-! DEFINITION. Collectives: the descriptor, the slots that hold a reduction, rounds, and what the copy engine does for a rank
(14_transfer_instructions.md R236 to R242; 26_fabric.md R391). Slots 0 to 63 are those of this device's message unit; slot n of
switch d is kept under 2^18 + 256 d + n. -/

namespace Sys2Proof.Machine

/-! The descriptor (R236). -/

def cKEY (d : Desc) : Nat := recField d 0x00 4
def cNPART (d : Desc) : Nat := recField d 0x04 2
def cRANK (d : Desc) : Nat := recField d 0x06 2
def cBUF (d : Desc) : Nat := recField d 0x08 8
def cRESID (d : Desc) : Nat := recField d 0x10 8
def cCOUNT (d : Desc) : Nat := recField d 0x18 4
def cOP (d : Desc) : Nat := recField d 0x1C 1
def cTYPE (d : Desc) : Nat := recField d 0x1D 1
def cWIRE (d : Desc) : Nat := recField d 0x1E 1
def cFLAGS (d : Desc) : Nat := recField d 0x1F 1
def cTIMEOUT (d : Desc) : Nat := let x := recField d 0x20 4; if x = 0 then 2000 else x
def cABMP (d : Desc) : Nat := recField d 0x28 8
def cHANDLE (d : Desc) : Nat := recField d 0x38 8
def cLOCAL (d : Desc) : Bool := cFLAGS d / 2 % 2 == 1

/-- The limits of R236; reserved fields follow R4. -/
def collOk (d : Desc) : Bool :=
  1 ≤ cNPART d && cNPART d ≤ 1024 && cRANK d < cNPART d && cBUF d % 64 == 0 && cRESID d % 64 == 0 && 1 ≤ cCOUNT d && cCOUNT d ≤ 4096 &&
  cOP d ≤ 3 && cTYPE d ≤ 2 && cWIRE d ≤ 1 && (cWIRE d == 0 || cTYPE d == 0) && recField d 0x20 4 ≤ 1000000 && cABMP d % 64 == 0

/-- The agreed fields alone: KEY, NPART, COUNT, OP, TYPE, WIRE, the two bits of FLAGS and TIMEOUT. -/
def agreedOf (d : Desc) : BitVec 512 :=
  [(0x06, 2), (0x08, 8), (0x10, 8), (0x24, 4), (0x28, 8), (0x30, 4), (0x34, 4), (0x38, 8)].foldl (fun d f =>
    d &&& ~~~((BitVec.ofNat 512 (2 ^ (8 * f.2) - 1)) <<< (8 * f.1))) (d &&& ~~~((BitVec.ofNat 512 0xFC) <<< (8 * 0x1F)))

/-- Bytes of an element on the wire, and of BUF (R236). -/
def wireBytes (d : Desc) : Nat := if cTYPE d = 1 || cWIRE d = 1 then 2 else 4
def bufBytes (d : Desc) : Nat := if cTYPE d = 1 then 2 else 4
def wireFmt (d : Desc) : Fmt := if wireBytes d = 2 then fmtBF16 else fmtF32

/-- Segments of up to 4,096 bytes (R391). -/
def segments (d : Desc) : Nat := ceilDiv (cCOUNT d * wireBytes d) 4096

/-- HANDLE (R236). -/
def collHandle (rank slot : Nat) (dev : BitVec 10) (gen : BitVec 16) : Nat :=
  rank + slot * 2 ^ 10 + dev.toNat * 2 ^ 18 + gen.toNat * 2 ^ 28

/-- Statuses. -/
def cDONE : Nat := 0
def cINCOMPLETE : Nat := 1
def cCLOSED : Nat := 2
def cREFUSED : Nat := 3
def cSTALE : Nat := 4
def cUNAVAILABLE : Nat := 5

/-! The reduction (R238). -/

/-- One element: the values counted, the result and whether a NaN was seen. -/
def reduceElem (d : Desc) (v : List Nat) : Nat × Bool :=
  let f := wireFmt d
  let w := 8 * wireBytes d
  if cTYPE d = 2 then
    (match cOP d with
     | 0 => v.foldl (fun a x => (a + x) % 2 ^ 32) 0
     | 1 => v.foldl (fun a x => if signOf a 32 < signOf x 32 then x else a) (v.headD 0)
     | 2 => v.foldl (fun a x => if signOf x 32 < signOf a 32 then x else a) (v.headD 0)
     | _ => v.foldl (fun a x => max a (signOf x 32).natAbs) 0, false)
  else
    let nan := fun x => (decodeF f x).isNan
    let seen := v.any nan
    if seen && (cFLAGS d % 2 = 0 || v.all nan) then (f.qnan, true)
    else
      let v := v.filter (fun x => !nan x)
      (match cOP d with
       | 0 => ((v.foldl (fun a x => XReal.add a (XReal.ofF (decodeF f x))) (.fin 0 0)).round f 0).1
       | 1 => v.foldl (fun a x => (fMinMax f true a x).1) (v.headD 0)
       | 2 => v.foldl (fun a x => (fMinMax f false a x).1) (v.headD 0)
       | _ => v.foldl (fun a x => max a (x % 2 ^ (w - 1))) 0, seen)

/-- The elements of a contribution: its segments in order. -/
def Contrib.elems (c : Contrib) (d : Desc) : List Nat :=
  let bytes := (c.segs.map (·.2)).flatten
  (List.range (bytes.length / wireBytes d)).map (fun i => leNat ((bytes.drop (i * wireBytes d)).take (wireBytes d)))

/-- The result of a round: its bytes and NANSEEN. A round of `coll.bar` has none (R240). -/
def reduceRound (d : Desc) (cs : List Contrib) : List Byte × Bool :=
  let els := (cs.map (fun c => c.elems d)).filter (fun l => !l.isEmpty)
  if els.isEmpty then ([], false)
  else
    let r := (List.range (cCOUNT d)).map (fun i => reduceElem d (els.map (fun l => (l[i]?).getD 0)))
    ((r.map (fun x => leBytes (wireBytes d) x.1)).flatten, r.any (·.2))

/-! Slots (R237, R239, R241). -/

def State.slot (s : State) (k : Nat) : Slot := Sparse.get {} s.slots k
def State.setSlot (s : State) (k : Nat) (x : Slot) : State := { s with slots := Sparse.set {} s.slots k x }

/-- The keys of the slots that a host device holds. -/
def slotBase (s : State) (dev : BitVec 10) : Nat := if dev = s.devNum then 0 else 2 ^ 18 + 256 * dev.toNat
def slotCount (s : State) (dev : BitVec 10) : Nat := if dev = s.devNum then 64 else 256

/-- An answer to an open or a close: STATUS and, for an open, HANDLE. -/
def collAnswer (s : State) (p : Packet) (status handle : Nat) : State := respTo s p 0 (leBytes 1 status ++ leBytes 8 handle)

/-- The descriptor that an open carries. -/
def Contrib.ofPacket (p : Packet) (rank round : Nat) : Contrib :=
  { rank := rank, round := round, sdev := p.sdev, sdie := p.sdie, xid := p.xid }

/-- CCTL open at the slot's host (R237). An open that finds no free slot waits. -/
def slotOpen (s : State) (p : Packet) : State :=
  let d : Desc := BitVec.ofNat 512 (leNat p.payload)
  let base := slotBase s p.ddev
  let keys := (List.range (slotCount s p.ddev)).map (base + ·)
  match keys.find? (fun k => let x := s.slot k; x.inUse && x.part == p.part && cKEY x.agreed == cKEY d) with
  | some k =>
    let x := s.slot k
    if x.agreed ≠ agreedOf d || x.ranks.contains (cRANK d) then collAnswer s p cREFUSED 0
    else collAnswer (s.setSlot k { x with ranks := x.ranks ++ [cRANK d] }) p cDONE (collHandle (cRANK d) (k - base) p.ddev x.gen)
  | none =>
    match keys.find? (fun k => !(s.slot k).inUse) with
    | some k =>
      let x : Slot := { inUse := true, part := p.part, agreed := agreedOf d, gen := (s.slot k).gen, ranks := [cRANK d] }
      collAnswer (s.setSlot k x) p cDONE (collHandle (cRANK d) (k - base) p.ddev x.gen)
    | none => { s with opens := s.opens ++ [p] }

/-- The next generation; 0 is left out, so that no HANDLE of an open slot is 0. -/
def nextGen (g : BitVec 16) : BitVec 16 := if g = BitVec.allOnes 16 then 1 else g + 1

/-- A slot is freed; the waiting opens of its host are tried again, oldest first: the first of them takes it, and those of the same key then
attach to it (R237, R241). Assumption 6, DESIGN CHOICE. -/
def freeSlot (s : State) (dev : BitVec 10) (k : Nat) : State :=
  let s := s.setSlot k { gen := nextGen (s.slot k).gen }
  (s.opens.filter (·.ddev == dev)).foldl slotOpen { s with opens := s.opens.filter (·.ddev != dev) }

/-- CCTL close at the slot's host (R241). -/
def slotClose (s : State) (p : Packet) : State :=
  let rank := dfld p.arg 0 10
  let k := slotBase s p.ddev + dfld p.arg 10 8
  let x := s.slot k
  if !x.inUse || x.part ≠ p.part || x.gen.toNat ≠ p.mseq.toNat || !x.ranks.contains rank then collAnswer s p cSTALE 0
  else
    let rest := x.ranks.erase rank
    let s := collAnswer (s.setSlot k { x with ranks := rest }) p cDONE 0
    if rest.isEmpty then freeSlot s p.ddev k else s

/-- The segment number of the CRES packet that carries STATUS, INFO and the bitmap: no contribution has so many segments. Assumption 68,
DESIGN CHOICE. -/
def headSegment : Nat := 4095

/-- The result packets of a contribution (R391): STATUS, INFO and the bitmap in one packet, the result in segments of up to 4,096 bytes. -/
def sendResult (s : State) (dev : BitVec 10) (slot : Nat) (part : BitVec 6) (c : Contrib) (status info : Nat) (bmp : List Byte) (res : List Byte) :
    State :=
  let packet := fun (j : Nat) (body : List Byte) => (Packet.load {
    type := ptCRES, vc := 2, ddev := c.sdev, ddie := c.sdie, sdev := dev, part := part, xid := c.xid
    arg := BitVec.ofNat 64 (c.rank + slot * 2 ^ 10 + c.round % 2 ^ 16 * 2 ^ 18 + j * 2 ^ 34) } body)
  (List.range (ceilDiv res.length 4096)).foldl (fun s j => sendPacket s (packet j ((res.drop (4096 * j)).take 4096)))
    (sendPacket s (packet headSegment (leBytes 1 status ++ leBytes 4 info ++ bmp)))

/-- ROUND_CLOSE (R239): every counted participant gets the result, the round advances, and held contributions of the new round count. A
new round that is complete closes in turn. -/
def closeRound (dev : BitVec 10) (k : Nat) : Nat → State → Nat → State
  | 0, s, _ => s
  | n + 1, s, status =>
    let x := s.slot k
    let (res, nan) := reduceRound x.agreed x.counted
    let info := (if nan then 1 else 0) + x.counted.length * 2 ^ 16
    let bmp := leBytes 128 (x.counted.foldl (fun b c => b ||| 2 ^ c.rank) 0)
    let s := x.counted.foldl (fun s c => sendResult s dev (k - slotBase s dev) x.part c status info bmp res) s
    let round := (x.round + 1) % 2 ^ 16
    let now := x.held.filter (fun c => c.round == round)
    let s := s.setSlot k { x with
      round := round, counted := now, held := x.held.filter (fun c => c.round ≠ round)
      deadline := if now.isEmpty then none else some (s.time + cTIMEOUT x.agreed * 1000) }
    if now.length = cNPART x.agreed then closeRound dev k n s cDONE else s

/-- A round is earlier than another, modulo 2^16. -/
def roundBefore (a b : Nat) : Bool := a ≠ b && 2 ^ 15 ≤ (a + 2 ^ 16 - b) % 2 ^ 16

/-- A contribution whose segments are all there is counted, or held for a later round (R239). -/
def countContrib (s : State) (dev : BitVec 10) (k : Nat) (c : Contrib) : State :=
  let x := s.slot k
  if c.round ≠ x.round then s.setSlot k { x with held := x.held ++ [c] }
  else
    let x := { x with counted := x.counted ++ [c], deadline := some (x.deadline.getD (s.time + cTIMEOUT x.agreed * 1000)) }
    let s := s.setSlot k x
    if x.counted.length = cNPART x.agreed then closeRound dev k 1025 s cDONE else s

/-- CRED at the slot's host (R238, R239, R391). -/
def slotContribute (s : State) (p : Packet) : State :=
  let rank := dfld p.arg 0 10
  let slot := dfld p.arg 10 8
  let k := slotBase s p.ddev + slot
  let round := dfld p.arg 18 16
  let x := s.slot k
  if !x.inUse || x.part ≠ p.part || x.gen.toNat ≠ p.mseq.toNat || !x.ranks.contains rank then collAnswer s p cSTALE 0
  else if roundBefore round x.round then
    sendResult (s.setSlot k { x with partials := x.partials.filter (fun c => !(c.rank == rank && c.round == round)) })
      p.ddev slot x.part (Contrib.ofPacket p rank round) cCLOSED 0 (leBytes 128 0) []
  else
    let c := (x.partials.find? (fun c => c.rank == rank && c.round == round)).getD (Contrib.ofPacket p rank round)
    let c := { c with segs := Sparse.set [] c.segs (dfld p.arg 34 12) p.data }
    let rest := x.partials.filter (fun c => !(c.rank == rank && c.round == round))
    if p.payload.isEmpty || c.segs.length = segments x.agreed then countContrib (s.setSlot k { x with partials := rest }) p.ddev k c
    else s.setSlot k { x with partials := rest ++ [c] }

/-- The device that hosts a slot key. -/
def slotHost (s : State) (k : Nat) : BitVec 10 := if k < 2 ^ 18 then s.devNum else BitVec.ofNat 10 ((k - 2 ^ 18) / 256)

/-- SLOT_TIMEOUT (R239): the round closes INCOMPLETE. -/
def slotTimeout (s : State) (k : Nat) : State :=
  match (s.slot k).deadline with
  | some d => if d ≤ s.time then closeRound (slotHost s k) k 1025 s cINCOMPLETE else s
  | none => s

/-- The switch that is assigned to a partition (R389). -/
def partSwitch (s : State) (part : BitVec 6) : Option (BitVec 10) :=
  let r := s.bar (0x2200 + 8 * part.toNat)
  if r.getLsbD 15 then some (r.setWidth 10) else none

/-- Every slot of a partition that this device or its assigned switch hosts is freed (R383, R391). -/
def clearPartSlots (s : State) (part : BitVec 6) : State :=
  let here := fun (dev : BitVec 10) => dev == s.devNum || partSwitch s part == some dev
  let keys := (s.slots.filter (fun c => c.2.inUse && c.2.part == part && here (slotHost s c.1))).map (·.1)
  let s := { s with opens := s.opens.filter (fun p => !(p.part == part && here p.ddev)) }
  keys.foldl (fun s k => freeSlot s (slotHost s k) k) s

/-! The copy engine's side (R237 to R241). `progress` counts the phases of an operation: 0 the descriptor is to be read, 1 the
contribution is to be formed, 9 the operation is ready to be sent and waits for the earlier ones of its rank, 2 an answer is awaited, then
3 BUF, 4 RESID, 5 ABMP, 6 INFO, 7 HANDLE, 8 STATUS are to be written. -/

/-- The descriptor as the operation read it. -/
def XOp.desc (o : XOp) : Desc := BitVec.ofNat 512 (leNat (o.payload.take 64))

/-- An operation moves to a phase. -/
def State.phase (s : State) (o : XOp) (n : Nat) : State := s.onOp o.id (fun o => { o with progress := n })

/-- Only STATUS is to be written: a refusal, a stale handle, no slot. -/
def collFinish (s : State) (o : XOp) (status : Nat) : State := s.onOp o.id (fun o => { o with progress := 8, status := status })

/-- A packet of a rank towards the host of its slot, kept until its answer. -/
def sendColl (s : State) (o : XOp) (p : Packet) : State :=
  let id := s.nextId
  let p := { p with xid := id }
  sendPacket { s with nextId := id + 1, pending := s.pending ++ [{ xid := id, pkt := p, team := o.team, sid := o.sid, op := some o.id }] } p

/-- The host of the slots (R237, R391): this device under LOCAL, else the switch of the partition; `none` where there is none to reach: it
is no switch of the domain with the group extension, or every port of this device is down. -/
def collHost (s : State) (d : Desc) (part : BitVec 6) : Option (BitVec 10) :=
  if cLOCAL d then some s.devNum
  else (partSwitch s part).filter (fun sw =>
    let m := (s.bar (0x8000 + 8 * sw.toNat)).toNat
    s.assigned && m / 64 % 4 == 3 && m / 32 % 2 == 1 && (leavePort s { type := ptCCTL, ddev := sw }).isSome)

/-- An earlier round of the rank on the handle is not complete, or an earlier one of the context has not read its descriptor yet, so that
it may be one (R239, R241). -/
def collBusy (s : State) (o : XOp) (handle : Nat) : Bool :=
  s.ops.any (fun q => q.id < o.id && (q.kind == .collRed || q.kind == .collBar) && !q.faulted &&
    (if q.progress = 0 then q.ctx == o.ctx else q.y.toNat == handle))

/-- The element `x` of a contribution (R238): what is sent, and the residual. A NaN among its operands is sent as the first of them, quieted
(R66). -/
def narrowElem (d : Desc) (x r : Nat) : Nat × Nat :=
  if cWIRE d ≠ 1 then (x, 0)
  else if cRESID d = 0 then ((fCvt fmtF32 fmtBF16 0 false x).1, 0)
  else match firstNan fmtF32 [x, r] with
  | some (n, _) => ((fCvt fmtF32 fmtBF16 0 false n).1, 0)
  | none =>
    let vx := decodeF fmtF32 x
    let vr := decodeF fmtF32 r
    let sum := (XReal.ofF vx).add (XReal.ofF vr)
    let w := if vx.isZero && vr.isZero then (fCvt fmtF32 fmtBF16 0 false (fAdd fmtF32 0 x r).1).1 else (sum.round fmtBF16 0).1
    let vw := decodeF fmtBF16 w
    (w, if vw.isNan || vw.isInf then 0 else ((sum.add (XReal.ofF vw).neg).round fmtF32 0).1)

/-- The contribution: the wire bytes and the residuals, from the bytes of BUF and RESID. -/
def contribution (d : Desc) (buf resid : List Byte) : List Byte × List Word :=
  let n := bufBytes d
  let els := (List.range (cCOUNT d)).map (fun i =>
    narrowElem d (leNat ((buf.drop (n * i)).take n)) (leNat ((resid.drop (4 * i)).take 4)))
  ((els.map (fun x => leBytes (wireBytes d) x.1)).flatten, els.map (fun x => BitVec.ofNat 32 x.2))

/-- The operation has read its descriptor. -/
def collStart (s : State) (o : XOp) (d : Desc) : State :=
  let part := fld o.ctx 16 6
  let h := cHANDLE d
  let att : Attached := Sparse.get {} s.attached h
  if !collOk d then collFinish s o cREFUSED
  else
    match o.kind with
    | .collOpen =>
      match collHost s d part with
      | none => collFinish s o cUNAVAILABLE
      | some dev =>
        let s := s.onOp o.id (fun o => { o with payload := leBytes 64 d.toNat, progress := 2 })
        sendColl s o (Packet.load {
          type := ptCCTL, vc := 2, ddev := dev, sdev := s.devNum, sdie := BitVec.ofNat 2 (o.tile / 16), part := part } (leBytes 64 d.toNat))
    | kind =>
      if h = 0 then collFinish s o cSTALE
      else if BitVec.ofNat 10 (h / 2 ^ 18) ≠ s.devNum && !carries s ptCRED (BitVec.ofNat 10 (h / 2 ^ 18)) then s.opFail o .fabricError o.x
      else if att.agreed ≠ 0 && att.agreed ≠ agreedOf d then collFinish s o cREFUSED
      else s.onOp o.id (fun o => { o with
        payload := leBytes 64 d.toNat, y := BitVec.ofNat 64 h, progress := if kind == .collRed then 1 else 9 })

/-- A `coll.bar`, a `coll.close` or a formed contribution leaves once the earlier operations of its rank are complete: the round is counted
and the packets go out, a contribution in segments (R239 to R241, R391). -/
def collSend (s : State) (o : XOp) : State :=
  let h := o.y.toNat
  let att : Attached := Sparse.get {} s.attached h
  if collBusy s o h then s
  else
    let d := o.desc
    let bytes := o.payload.drop 64
    let s := s.onOp o.id (fun o => { o with progress := 2, payload := o.payload.take 64, z := BitVec.ofNat 64 att.round, since := s.time })
    let packet := fun (ty : BitVec 6) (j : Nat) (body : List Byte) => (Packet.load {
      type := ty, vc := 2, ddev := BitVec.ofNat 10 (h / 2 ^ 18), sdev := s.devNum, sdie := BitVec.ofNat 2 (o.tile / 16)
      part := fld o.ctx 16 6, mseq := BitVec.ofNat 64 (h / 2 ^ 28 % 2 ^ 16)
      arg := BitVec.ofNat 64 (h % 2 ^ 18 + att.round % 2 ^ 16 * 2 ^ 18 + j * 2 ^ 34) } body)
    if o.kind == .collClose then sendColl s o (packet ptCCTL 0 [])
    else
      let s := { s with attached := Sparse.set {} s.attached h { att with round := att.round + 1 } }
      (List.range (if o.kind == .collRed then segments d else 1)).foldl (fun s j =>
        sendColl s o (packet ptCRED j ((bytes.drop (4096 * j)).take 4096))) s

/-- The contribution of a `coll.red` is formed at issue, and leaves in its turn (R238, R239). -/
def collContribute (s : State) (o : XOp) : State :=
  let d := o.desc
  let nb := cCOUNT d * bufBytes d
  let two := cWIRE d = 1 && cRESID d ≠ 0
  let q : Req := {
    kind := .load, base := List.replicate 64 0
    elems := (⟨0, BitVec.ofNat 64 (cBUF d), nb⟩ : Elem) :: (if two then [⟨16384, BitVec.ofNat 64 (cRESID d), 4 * cCOUNT d⟩] else []) }
  match opAccess s o q with
  | .wait s => s
  | .stop s c v => s.opFail o c v
  | .data s imgs =>
    let (bytes, resid) := contribution d (imgBytes imgs nb) (imgBytes (imgs.drop 32) (4 * cCOUNT d))
    let o := { o with progress := 9, payload := o.payload.take 64 ++ bytes, resid := resid }
    collSend (s.onOp o.id (fun _ => o)) o

/-- One write of the result phases, then the next phase. -/
def collWrite (s : State) (o : XOp) (va : Nat) (bytes : List Byte) (next : Nat) : State :=
  match opAccess s o (writeReq (BitVec.ofNat 64 va) bytes) with
  | .wait s => s
  | .stop s c v => s.opFail o c v
  | .data s _ => s.phase o next

/-- The result converted exactly to TYPE (R239). -/
def resultBytes (d : Desc) (res : List Byte) : List Byte :=
  if cWIRE d = 1 then
    ((List.range (cCOUNT d)).map (fun i => leBytes 4 ((leNat ((res.drop (2 * i)).take 2)) * 2 ^ 16))).flatten
  else res

/-- A step of a collective operation; the completion of a counted `coll.red` is an acquire of its strand (R242). `payload` holds the descriptor, the bitmap and the result bytes. -/
def collStep (s : State) (o : XOp) : State :=
  let d := o.desc
  let at_ := fun (off : Nat) => o.x.toNat + off
  match o.progress with
  | 0 =>
    match opAccess s o (readReq o.x 64) with
    | .wait s => s
    | .stop s c v => s.opFail o c v
    | .data s imgs =>
      let s := collStart s o (BitVec.ofNat 512 (leNat (imgBytes imgs 64)))
      match s.op? o.id with
      | some o => if o.progress = 9 then collSend s o else s
      | none => s
  | 1 => collContribute s o
  | 2 => s
  | 9 => collSend s o
  | 3 =>
    if o.kind == .collRed then collWrite s o (cBUF d) (resultBytes d (o.payload.drop 192)) 4 else s.phase o 5
  | 4 =>
    if cWIRE d = 1 && cRESID d ≠ 0 then collWrite s o (cRESID d) ((o.resid.map (fun w => leBytes 4 w.toNat)).flatten) 5 else s.phase o 5
  | 5 => if cABMP d ≠ 0 then collWrite s o (cABMP d) ((o.payload.drop 64).take 128) 6 else s.phase o 6
  | 6 => collWrite s o (at_ 0x34) (leBytes 4 o.info) 8
  | 7 => collWrite s o (at_ 0x38) (leBytes 8 o.y.toNat) 8
  | _ =>
    match opAccess s o (writeReq (BitVec.ofNat 64 (at_ 0x30)) (leBytes 4 o.status)) with
    | .wait s => s
    | .stop s c v => s.opFail o c v
    | .data s _ =>
      let s := if o.status = cINCOMPLETE then s.opStat o statINCOMPLETE else s
      let s := if o.info % 2 = 1 then s.opStat o statNANSEEN else s
      let s := if o.kind == .collRed && o.status ≤ cINCOMPLETE then opAcquire s o 5 else s
      s.opDone o

/-- Counts of the same slot under other generations are of no use any more: they are zero again at the next allocation (R237). -/
def forgetRounds (s : State) (handle : Nat) : State :=
  { s with attached := s.attached.filter (fun c => c.1 == handle || c.1 / 2 ^ 10 % 2 ^ 18 ≠ handle / 2 ^ 10 % 2 ^ 18) }

/-- The answer to an open, a close or a stale contribution (R237, R238, R241). A rank that closes keeps its count of rounds as long as
the slot is allocated (R239). -/
def collAnswered (s : State) (o : XOp) (payload : List Byte) : State :=
  let status := leNat (payload.take 1)
  let handle := leNat ((payload.drop 1).take 8)
  let s := { s with pending := s.pending.filter (fun p => p.op ≠ some o.id) }
  if status ≠ cDONE then collFinish s o status
  else
    match o.kind with
    | .collOpen =>
      let s := forgetRounds s handle
      let att : Attached := Sparse.get {} s.attached handle
      let s := { s with attached := Sparse.set {} s.attached handle { att with agreed := agreedOf o.desc } }
      s.onOp o.id (fun o => { o with progress := 7, y := BitVec.ofNat 64 handle, status := cDONE })
    | _ =>
      let att : Attached := Sparse.get {} s.attached o.y.toNat
      { s with attached := Sparse.set {} s.attached o.y.toNat { att with agreed := 0 } }.onOp o.id (fun o => { o with progress := 7, y := 0, status := cDONE })

/-- CRES: result segments reach the rank's copy engine (R239, R391). -/
def collResult (s : State) (p : Packet) : State :=
  let round := dfld p.arg 18 16
  match s.ops.find? (fun o => (o.kind == .collRed || o.kind == .collBar) && o.progress == 2 && o.y.toNat % 2 ^ 18 == dfld p.arg 0 18 &&
      o.y.toNat / 2 ^ 18 % 2 ^ 10 == p.sdev.toNat && o.z.toNat % 2 ^ 16 == round) with
  | none => s
  | some o =>
    let seg := dfld p.arg 34 12
    let head := seg = headSegment
    let status := if head then leNat (p.data.take 1) else o.status
    let info := if head then leNat ((p.data.drop 1).take 4) else o.info
    let clear := fun (s : State) => { s with pending := s.pending.filter (fun x => x.op ≠ some o.id) }
    if head && status = cCLOSED then (clear s).onOp o.id (fun o => { o with progress := 6, status := cCLOSED, info := 0 })
    else
      let total := if o.kind == .collRed then cCOUNT o.desc * wireBytes o.desc else 0
      let old := if o.got = 0 then List.replicate (128 + total) 0 else o.payload.drop 64
      let (at_, body) := if head then (0, (p.data.drop 5).take 128) else (128 + 4096 * seg, p.data)
      let res := old.take at_ ++ body ++ old.drop (at_ + body.length)
      let got := o.got ||| 2 ^ (if head then 4 else seg % 4)
      let all := got = 2 ^ 4 + (2 ^ ceilDiv total 4096 - 1)
      let s := s.onOp o.id (fun o => { o with
        payload := o.payload.take 64 ++ res, got := got, status := status, info := info, progress := if all then 3 else 2 })
      if all then clear s else s

/-- A contribution has had no result for TIMEOUT + 10 ms since it left (R391). -/
def XOp.lost (o : XOp) (time : Nat) : Bool :=
  (o.kind == .collRed || o.kind == .collBar) && o.progress == 2 && o.since + cTIMEOUT o.desc * 1000 + 10000000 ≤ time

/-- COLL_LOST_CONTACT (R391). -/
def collLost (s : State) (id : Nat) : State :=
  match s.op? id with
  | some o =>
    if o.lost s.time then
      collFinish { s with pending := s.pending.filter (fun x => x.op ≠ some id) } o cUNAVAILABLE
    else s
  | none => s

end Sys2Proof.Machine
end

