-- ==== Sys2Proof/Machine/Xfer.lean ====
section
/-! DEFINITION. The XFER words, their acceptance, and the steps of the copy engine and the message unit (14_transfer_instructions.md
R227 to R252; 06_instruction_encoding.md R97, R99; 20_scheduling.md R341). -/

namespace Sys2Proof.Machine

/-! Issue (R228 to R230). -/

/-- The oldest operation of the stepping strand with a deferred fault that is not raised yet (R230). -/
def faultedOp (s : State) : Option XOp := s.ops.find? (fun o => o.team == s.cs.team && o.sid == s.cs.sid && o.faulted)

/-- A release waits for the earlier accesses of its class (R229); `none` is every class. -/
def releaseWaits (t : Strand) (cls : Option (BitVec 4)) : Bool :=
  t.earlier.any (fun e => match cls with | some c => e.req.ord.cls == c | none => true)

/-- The scope of a release: that of EXT.ORD, or dev for the words that release every class (R229, R249, R251). -/
def EUnit.releaseScope (u : EUnit) : Option (BitVec 4) → BitVec 3
  | some _ => (u.ordOf 0).scope
  | none => 4

/-- The class of a word that EXT.ORD makes a release, in the form of `releaseWaits`. -/
def EUnit.releases (u : EUnit) : Option (Option (BitVec 4)) :=
  let o := u.ordOf 0
  if o.order.getLsbD 1 then some (some o.cls) else none

/-- The issue of an XFER word: a deferred fault of an earlier word is raised first; the word waits while an earlier one awaits acceptance
or accesses that its release covers are not performed; then its own checks and effect. Assumption 37, DEDUCED. -/
def xferWith (r : Roles) (fate : Option Cause) (rel : Option (Option (BitVec 4))) (s : State) (f : State → Act) : State :=
  let early := s.cs.xpend.isSome || (faultedOp s).isSome
  issueWith r (if early then none else fate) s (fun s =>
    match faultedOp s with
    | some o =>
      match o.stat with
      | .fault c v => .deferred (s.dropOp o.id) o.unit c v
      | _ => .wait
    | none =>
      if s.cs.xpend.isSome then .wait
      else match rel with
        | none => undamaged r f s
        | some c => if releaseWaits s.cs c then .wait else undamaged r f (releaseL1 s s.cs.l1No (s.cs.unit.releaseScope c)))

/-- The issue of an XFER word with the operands `r`; `cls` as in `extsOk`. -/
def xferWord (r : Roles) (cls : Bool) (rel : Option (Option (BitVec 4))) (s : State) (f : State → Act) : Result :=
  .next (xferWith r (fateWith s false true r cls) rel s f)

/-- An operation of the stepping strand as its word issues. -/
def newOp (s : State) (kind : XKind) (e : BitVec 4) : XOp :=
  let t := s.cs
  { kind := kind, team := t.team, sid := t.sid, tile := 16 * t.die.toNat + t.tile.toNat, unit := t.unit, en := e, sig := t.unit.sig
    ord := t.unit.ordOf 0, ctx := t.ctx, priv := t.p }

/-- The word has issued and waits at the head of its queue for its agent (R227). -/
def awaitAccept (s : State) (o : XOp) : Act := .okNoSig (s.onCs (fun t => { t with xpend := some o }))

/-- An operand address that is not aligned (R230). -/
def xAligned (a : Dword) (n : Nat) (act : Act) : Act := if a.toNat % n ≠ 0 then .trap .misaligned a else act

/-! Copies (R233). -/

/-- Source and destination ranges share a byte. -/
def rangesOverlap (x y : Dword) (n : Nat) : Bool := decide ((y - x).toNat < n || (x - y).toNat < n)

/-- The checks of a copy at issue. -/
def copyAct (s : State) (kind : XKind) (x y z : BitVec 6) (e : BitVec 4) : Act :=
  let t := s.cs
  let n := t.sc z
  if 2 ^ 32 < n.toNat then .trap .illegalField n
  else if rangesOverlap (t.sc x) (t.sc y) n.toNat then .trap .illegalField (t.sc x)
  else awaitAccept s { newOp s kind e with x := t.sc x, y := t.sc y, z := n }

def execCopy (x y z : BitVec 6) (e : BitVec 4) (s : State) : Result :=
  xferWord (rolesCopy x y z) false s.cs.unit.releases s (fun s => copyAct s .copy x y z e)

/-! The follow-on of `copy.mmt` (R97, R235). -/

/-- The follow-on as a unit of its own; its prefix words stand before its target. -/
def EUnit.followUnit (u : EUnit) : Option EUnit :=
  u.follow.map (fun f => {
    addr := f.1 - BitVec.ofNat 64 (4 * f.2.2.length), taddr := f.1, word := f.2.1, pfx := f.2.2, seq := u.seq
    patchBad := u.followPatchBad, loopBad := u.followLoopBad })

/-- The word may be a follow-on. -/
def followKind : Instr → Bool
  | .mmt .. | .mmtWb .. | .wbload .. | .accld .. | .attb .. => true
  | _ => false

/-- The fate of the follow-on of the stepping strand's unit (R97, R235). Assumption 36, DEDUCED. -/
def followFate (s : State) (fu : EUnit) : Option Cause :=
  match decodeMtx fu.word with
  | .error .illegalOpcode => some .illegalOpcode
  | .error .illegalField => some (if fu.badKind then .illegalOpcode else .illegalField)
  | .ok i =>
    match fateOf (s.onCs (fun t => { t with unit := fu })) i with
    | some c => some c
    | none => if followKind i then none else some .illegalField

/-- No later unit of the strand can bring the follow-on: another `copy.mmt` stands behind, or the strand has ended (R97). -/
def followMissing (s : State) : Bool :=
  s.cs.parkEnded || s.cs.q.xfer.any (fun i => match i.unit? with
    | some u => engineOf u.word == 5 && opcodeOf u.word == 1 && s.cs.unit.seq < u.seq
    | none => false)

/-- Fetch stands at a control word, or at a full queue, that a marked unit may hold (R99): for a `copy.mmt` with a fate of its own no follow-on
is waited for then. -/
def fetchStuck (t : Strand) : Bool :=
  t.fetchHold || Eng.all.any (fun e => decide (16 ≤ ((t.q.get e).filter (fun i => i.unit?.isSome)).length))

/-- The issue of `copy.mmt`: the fates of word and follow-on in the order of R99, the share of the array, then the copy. -/
def copyMmtAct (s : State) (x y z : BitVec 6) (e : BitVec 4) : Act :=
  if !s.hasShare s.cs then
    .trap .protection (((s.cs.unit.followUnit.map (·.word)).getD s.cs.unit.word).setWidth 64)
  else copyAct s .copyMmt x y z e

/-- `copy.mmt` (R97, R235): word and follow-on are one unit, which waits for its follow-on to be fetched. -/
def execCopyMmt (x y z : BitVec 6) (e : BitVec 4) (s : State) : Result :=
  let r := rolesCopy x y z
  let u := s.cs.unit
  let own := fateWith s false true r false
  match u.followUnit with
  | none =>
    if own ≠ some .illegalOpcode && !followMissing s && !(own.isSome && fetchStuck s.cs) then .next (s.onCs (fun t => t.setHeld true))
    else .next (xferWith r (some (own.getD .illegalField)) u.releases s (fun _ => .wait))
  | some fu =>
    let theirs := followFate s fu
    if own = some .illegalOpcode || (own.isSome && theirs ≠ some .illegalOpcode) || theirs.isNone then
      .next (xferWith r own u.releases s (fun s => copyMmtAct s x y z e))
    else
      .next (xferWith r none none s (fun _ => .trap (theirs.getD .illegalField) (fu.word.setWidth 64)))

/-! Collectives (R236). -/

/-- The issue of a collective word. -/
def collWord (kind : XKind) (x : BitVec 6) (e : BitVec 4) (s : State) : Result :=
  xferWord (rolesX [x]) true none s (fun s =>
    xAligned (s.cs.sc x) 64 (awaitAccept s { newOp s kind e with x := s.cs.sc x }))

def execCollOpen (x : BitVec 6) (e : BitVec 4) (s : State) : Result := collWord .collOpen x e s
def execCollRed (x : BitVec 6) (e : BitVec 4) (s : State) : Result := collWord .collRed x e s
def execCollBar (x : BitVec 6) (e : BitVec 4) (s : State) : Result := collWord .collBar x e s
def execCollClose (x : BitVec 6) (e : BitVec 4) (s : State) : Result := collWord .collClose x e s

/-! Group messages (R243 to R248). -/

/-- The issue of a word about a receive buffer: `x` the group word, `y` the buffer. -/
def bufferWord (kind : XKind) (x y : BitVec 6) (e : BitVec 4) (s : State) : Result :=
  xferWord (rolesX [x, y]) true none s (fun s =>
    xAligned (s.cs.sc y) 64 (awaitAccept s { newOp s kind e with x := s.cs.sc x, y := s.cs.sc y }))

def execGready (x y : BitVec 6) (e : BitVec 4) (s : State) : Result := bufferWord .gready x y e s
def execGunready (x y : BitVec 6) (e : BitVec 4) (s : State) : Result := bufferWord .gunready x y e s

/-- LEN of a group word. -/
def groupLen (w : Dword) : Nat := dfld w 32 16

def execGsend (x y : BitVec 6) (o : BitVec 1) (e : BitVec 4) (s : State) : Result :=
  xferWord (rolesSend x y) false s.cs.unit.releases s (fun s =>
    let w := s.cs.sc x
    let n := groupLen w
    if n % 32 ≠ 0 || 4096 < n then .trap .illegalField (BitVec.ofNat 64 n)
    else xAligned (s.cs.sc y) 32 (awaitAccept s { newOp s .gsend e with x := w, y := s.cs.sc y, n := n, flag := o == 1 }))

def execGrecv (x : BitVec 6) (e : BitVec 4) (s : State) : Result :=
  xferWord (rolesX [x]) true none s (fun s =>
    xAligned (s.cs.sc x) 64 (awaitAccept s { newOp s .grecv e with y := s.cs.sc x }))

/-! Guest queues (R249, R250). -/

def execGqpush (x y : BitVec 6) (e : BitVec 4) (s : State) : Result :=
  xferWord (rolesX [x, y]) true (some none) s (fun s =>
    let q := dfld (s.cs.sc x) 0 16
    xAligned (s.cs.sc y) 64 (
      if !gqValid s q || gqPart s q ≠ s.cs.part then .trap .protection (BitVec.ofNat 64 q)
      else awaitAccept s { newOp s .gqpush e with x := s.cs.sc x, y := s.cs.sc y, n := q }))

def execGqwait (x : BitVec 6) (e : BitVec 4) (s : State) : Result :=
  xferWord (rolesX [x]) true none s (fun s =>
    xAligned (s.cs.sc x) 8 (awaitAccept s { newOp s .gqwait e with x := s.cs.sc x }))

/-! Launch and mailbox send (R251, R252). -/

def execLaunch (x : BitVec 6) (e : BitVec 4) (s : State) : Result :=
  xferWord (rolesX [x]) true (some none) s (fun s =>
    let va := s.cs.sc x
    xAligned va 64 (
      match mtxAccess s s.cs.unit s.cs.p (readReq va 64) with
      | .wait s => .waitWith s
      | .trap s c _ => .trapWith s c va
      | .data s imgs =>
        let bytes := imgBytes imgs 64
        let h : Word := BitVec.ofNat 32 (leNat ((bytes.drop 0x1C).take 4))
        match handleFault s h with
        | some c => .trapWith s c (h.setWidth 64)
        | none => awaitAccept s { newOp s .launch e with x := va, payload := bytes, progress := 1 }))

/-- The device that `mbsend` names, and the handle. -/
def mbDevice (w : Dword) : BitVec 10 := w.extractLsb' 32 10
def mbHandle (w : Dword) : Word := w.setWidth 32

/-- The arguments of an MBOX packet (R379): handle, mailbox, OR, the view of the sender, and whether it asks for the check alone.
Assumption 35, DESIGN CHOICE. -/
def mboxArg (h : Word) (k : BitVec 3) (or_ priv check : Bool) : Dword :=
  BitVec.ofNat 64 (h.toNat + k.toNat * 2 ^ 32 + (if or_ then 2 ^ 35 else 0) + (if priv then 2 ^ 36 else 0) + (if check then 2 ^ 37 else 0))

/-- A mailbox write, whole or by OR (R252). -/
def writeMailbox (s : State) (h : Word) (k : BitVec 3) (or_ : Bool) (v : Dword) : State :=
  s.onMailbox h k.toNat (fun x => if or_ then x ||| v else v)

/-- The MBOX packet of an `mbsend`: the check, or the write. -/
def mboxPacket (s : State) (o : XOp) (check : Bool) : Packet :=
  Packet.load {
    type := ptMBOX, ddev := mbDevice o.x, ddie := handleDie (mbHandle o.x), sdev := s.devNum, sdie := BitVec.ofNat 2 (o.tile / 16)
    part := fld o.ctx 16 6, arg := mboxArg (mbHandle o.x) (BitVec.ofNat 3 o.n) o.flag o.priv check } (leBytes 8 o.z.toNat)

/-- The packet is sent for the operation. -/
def askMbox (s : State) (o : XOp) (check : Bool) : State :=
  let p := mboxPacket s o check
  sendReq (s.onOp o.id (fun o => { o with asked := true })) p { xid := 0, pkt := p, team := o.team, sid := o.sid, op := some o.id }

/-- A check of a handle at another device, which takes no entry of the message unit: its word has not issued (R252). -/
def XOp.isCheck (o : XOp) : Bool := o.kind == .mbsend && 2 ^ 12 ≤ o.tile

/-- `mbsend` to a context of another device: the word does not issue until the owning die has answered the check. The request stands
among the operations under the word's number; its status says what the answer was. -/
def mbsendFar (s : State) (o : XOp) : Act :=
  let t := s.cs
  match s.ops.find? (fun p => p.isCheck && p.team == t.team && p.sid == t.sid && p.unit.seq == t.unit.seq) with
  | some p =>
    match p.answered with
    | (0, _) :: _ => awaitAccept (s.dropOp p.id) o
    | (_, c) :: _ => .trapWith (s.dropOp p.id) c (if c = .fabricError then o.x else (mbHandle o.x).setWidth 64)
    | [] => .wait
  | none =>
    if !carries s ptMBOX (mbDevice o.x) then .trap .fabricError o.x
    else
      let c := { o with id := s.nextId, tile := 2 ^ 12 + o.tile }
      .waitWith (askMbox (addFree s c) c true)

def execMbsend (x : BitVec 6) (o : BitVec 1) (k : BitVec 3) (z : BitVec 6) (e : BitVec 4) (s : State) : Result :=
  xferWord (rolesSend x z) false s.cs.unit.releases s (fun s =>
    let w := s.cs.sc x
    let h := mbHandle w
    let op := { newOp s .mbsend e with x := w, z := s.cs.sc z, n := k.toNat, flag := o == 1 }
    if mbDevice w ≠ s.devNum then mbsendFar s op
    else
      match handleFault s h with
      | some c => .trap c (h.setWidth 64)
      | none => awaitAccept s op)

/-! Steps of the engines. -/

/-- An access of an operation: wait, stop on a deferred fault, or go on with the bytes read. -/
def opThen (s : State) (o : XOp) (q : Req) (f : State → List Vec → State) : State :=
  match opAccess s o q with
  | .wait s => s
  | .stop s c v => s.opFail o c v
  | .data s imgs => f s imgs

/-- The operation is a copy whose bytes are not all written. -/
def XOp.copying (o : XOp) : Bool := o.kind == .copy || (o.kind == .copyMmt && !o.flag)

/-- Bytes of the next piece that is read: up to 4 KiB and a page of the source, so that no granule of 32 bytes of it is read twice
(R234, R341). -/
def readLen (o : XOp) : Nat :=
  let r := o.progress + o.payload.length
  min (o.z.toNat - r) (4096 - (o.y + BitVec.ofNat 64 r).toNat % 4096)

/-- Bytes of the next piece that is written, of those read: whole granules of 32 bytes of the destination, up to a page of it, and the
rest at the end (R234, R341). -/
def writeLen (o : XOp) : Nat :=
  let a := (o.x + BitVec.ofNat 64 o.progress).toNat
  let all := o.payload.length
  let whole := if o.z.toNat ≤ o.progress + all then all else (a + all) / 32 * 32 - a
  min whole (4096 - a % 4096)

/-- A copy is done: `copy.mmt` signals its own eN and keeps its follow-on (R235). -/
def copyEnds (s : State) (o : XOp) : State :=
  let s := if o.ord.isAcquire then opAcquire s o o.ord.scope else s
  if o.kind == .copy then s.opDone o
  else
    (s.onOp o.id (fun o => { o with flag := true, payload := [] })).onStrand o.team o.sid
      (fun t => (t.signal o.sig).signal (if o.en = 0 then none else some o.en))

/-- Bytes that were read are written; those of a granule that is not whole yet stay. -/
def copyWrite (s : State) (id : Nat) : State :=
  match s.op? id with
  | none => s
  | some o =>
    let k := writeLen o
    if k = 0 then s
    else opThen s o (writeReq (o.x + BitVec.ofNat 64 o.progress) (o.payload.take k)) (fun s _ =>
      let n := o.progress + k
      let s := s.onOp id (fun o => { o with progress := n, payload := o.payload.drop k })
      if o.z.toNat ≤ n then copyEnds s { o with payload := [] } else s)

/-- A step of a copy (R233, R234): copies of one strand proceed in the order of its queue. -/
def copyStep (s : State) (o : XOp) : State :=
  if s.ops.any (fun p => p.id < o.id && p.team == o.team && p.sid == o.sid && p.copying && !p.faulted) then s
  else if o.z.toNat ≤ o.progress then copyEnds s o
  else if writeLen o = 0 then
    opThen s o (readReq (o.y + BitVec.ofNat 64 (o.progress + o.payload.length)) (readLen o)) (fun s imgs =>
      copyWrite (s.onOp o.id (fun p => { p with payload := p.payload ++ imgBytes imgs (readLen o) })) o.id)
  else copyWrite s o.id

/-- Group and key of a group word. -/
def groupOf (o : XOp) : Nat := dfld o.x 0 24
def keyOf (o : XOp) : Nat := dfld o.x 24 8

/-- A step of `gready` (R244): the header is written, then the unit is advertised at the home. -/
def greadyStep (s : State) (o : XOp) : State :=
  if o.progress ≠ 0 then s
  else if (s.bufUnit? o.ctx o.y).isSome then (s.opStat o statOOB).opDone o
  else opThen s o (writeReq o.y (leBytes 64 1)) (fun s _ =>
    if !carries s ptGADV (homeDev (groupOf o)) then s.opFail o .fabricError (BitVec.ofNat 64 (groupOf o))
    else
      let u : GUnit := {
        id := freeUnit s, ctx := o.ctx, group := BitVec.ofNat 24 (groupOf o), buf := o.y, team := o.team, sid := o.sid, op := o.id, word := o.unit }
      let id := s.nextId
      let p := unitPacket s u ptGADV id
      let s : State := {
        s with
        nextId := id + 1, units := s.units ++ [u]
        pending := s.pending ++ [{ xid := id, pkt := p, team := o.team, sid := o.sid, op := some o.id }] }
      sendPacket (s.phase o 1) p)

/-- A step of `gunready` (R245): STATE becomes WITHDRAWN, the home is told, and a message that waits at the unit is refused. A unit whose
registration is still under way is withdrawn after it. Assumption 47, DEDUCED. -/
def gunreadyStep (s : State) (o : XOp) : State :=
  match s.bufUnit? o.ctx o.y with
  | none => (s.opStat o statOOB).opDone o
  | some u =>
    if farUnder s u || s.pending.any (fun p => p.op == some u.op && p.pkt.type == ptGADV) then s
    else opThen s o (writeReq o.y (leBytes 4 3)) (fun s _ =>
      let home := homeDev u.group.toNat
      let s' := withdrawn s u
      if home ≠ s.devNum && !carries s ptGWDRAW home then s'.opFail o .fabricError (u.group.setWidth 64) else s'.opDone o)

/-- The message of a `gsend`. -/
def sendOf (s : State) (o : XOp) (xid : Nat) : Packet :=
  Packet.load {
    type := ptGSEND, vc := 2, ddev := homeDev (groupOf o), sdev := s.devNum, sdie := BitVec.ofNat 2 (o.tile / 16), part := fld o.ctx 16 6
    arg := gArg (groupOf o) (keyOf o) o.flag false false 0, xid := xid, sender := o.ctx, mseq := o.z } o.payload

/-- An earlier ordered send of the context and key is not accepted (R246). Assumption 47, DEDUCED. -/
def orderedHold (s : State) (o : XOp) : Bool :=
  o.flag && s.ops.any (fun p => p.kind == .gsend && p.flag && p.id < o.id && p.ctx == o.ctx && keyOf p == keyOf o && !p.faulted)

/-- A message leaves its message unit: an armed unit of this device takes it, else it goes to a switch, a member or the home. -/
def sendMessage (s : State) (o : XOp) : State :=
  let group := groupOf o
  if !carries s ptGSEND (homeDev group) then s.opFail o .fabricError (BitVec.ofNat 64 group)
  else
    let id := s.nextId
    let p := sendOf s o id
    let s1 : State := {
      s with
      nextId := id + 1, pending := s.pending ++ [{ xid := id, pkt := p, team := o.team, sid := o.sid, op := some o.id }] }
    let s' := s1.phase o 2
    match armedUnit s group p.part with
    | some u => deliver s' u { p.aim true false 0 with ddev := s.devNum }
    | none =>
      match routeMsg s' p with
      | .sent s'' => s''
      | .unreachable => s.opFail o .fabricError (BitVec.ofNat 64 group)
      | .fetch => if s.out.contains (.readiness group) then s else s.send (.readiness group)

/-- A step of `gsend` (R246): the payload is read once, an ordered send waits for the earlier ones, and the message leaves. -/
def gsendStep (s : State) (o : XOp) : State :=
  match o.progress with
  | 0 =>
    if o.n = 0 then s.phase o 1
    else opThen s o (readReq o.y o.n) (fun s imgs => s.onOp o.id (fun p => { p with payload := imgBytes imgs o.n, progress := 1 }))
  | 1 => if orderedHold s o then s else sendMessage s o
  | _ => s

/-- A unit is outstanding on a buffer, or an earlier `gready` is about to make one (R244). -/
def outstandingAt (s : State) (o : XOp) : Bool :=
  (s.bufUnit? o.ctx o.y).isSome ||
  s.ops.any (fun p => p.kind == .gready && p.id < o.id && p.ctx == o.ctx && p.y == o.y && p.progress == 0 && !p.faulted)

/-- A step of `grecv` (R248). -/
def grecvStep (s : State) (o : XOp) : State :=
  if outstandingAt s o then s
  else opThen s o (readReq o.y 4) (fun s imgs =>
    let x := leNat (imgBytes imgs 4)
    (if x = 2 then opAcquire s o 5 else if x = 3 then s else s.opStat o statOOB).opDone o)

/-- A step of `gqpush` (R249): the packet is read once; QUEUE_PACKET_WRITE does the rest. -/
def gqpushStep (s : State) (o : XOp) : State :=
  if o.progress ≠ 0 then s
  else if !s.guestOn then s.opFail o .guestFault (BitVec.ofNat 64 o.n)
  else
    match opAccess s o (readReq o.y 64) with
    | .wait s => s
    | .stop s c _ => s.opFail o c o.y
    | .data s imgs => s.onOp o.id (fun p => { p with payload := imgBytes imgs 64, progress := 1 })

/-- A step of `gqwait` (R250). -/
def gqwaitStep (s : State) (o : XOp) : State :=
  opThen s o (readReq o.x 8) (fun s' imgs => if leNat (imgBytes imgs 8) = 0 then s' else (opAcquire s' o 4).opDone o)

/-- A step of an accepted `mbsend`: the mailbox is written, here or at its device (R252). A handle that has become stale since the word issued
has none. Assumption 35, DESIGN CHOICE. -/
def mbsendStep (s : State) (o : XOp) : State :=
  if o.asked then s
  else if mbDevice o.x ≠ s.devNum then
    if carries s ptMBOX (mbDevice o.x) then askMbox s o false else s.opFail o .fabricError o.x
  else (if s.handleOk (mbHandle o.x) then writeMailbox s (mbHandle o.x) (BitVec.ofNat 3 o.n) o.flag o.z else s).opDone o

/-- A step of a launch's access to another device: a read, whose bytes the launch keeps, or a write of its completion record, which is
skipped and logged where it cannot be made (R329, R331, R334). -/
def launchStep (s : State) (o : XOp) : State :=
  if o.n = 0 then
    if o.faulted then (s.dropOp o.id).log (handleDie o.ctx).toNat logLaunch o.x.toNat
    else opThen s o (writeReq o.x o.payload) (fun s _ => s.dropOp o.id)
  else
    let keep := fun (s : State) (b : List Byte) => (s.dropOp o.id).onLaunch o.z.toNat (fun l => { l with got := l.got ++ [(o.x.toNat, b)] })
    if o.faulted then keep s [] else opThen s o (readReq o.x o.n) (fun s imgs => keep s (imgBytes imgs o.n))

/-- A step of an operation that no strand waits for: a delivery to another device, a withdrawal, an access of a launch, or a COMPL word
(R245, R247, R331, R405). One that cannot be made ends: the unit goes, and the word is not written. -/
def freeStep (s : State) (o : XOp) : State :=
  match o.kind with
  | .gready => farStep s o
  | .gunready =>
    if !o.faulted then gunreadyStep s o
    else match s.bufUnit? o.ctx o.y with
      | some u => withdrawn (s.dropOp o.id) u
      | none => s.dropOp o.id
  | .launch => launchStep s o
  | _ => if o.faulted then s.dropOp o.id else opThen s o (writeReq o.x o.payload) (fun s _ => s.dropOp o.id)

/-- COPY_ENGINE_STEP and its like at the message unit: one step of an accepted operation (R227, R341). -/
def opStep (s : State) (id : Nat) : State :=
  match s.op? id with
  | none => s
  | some o =>
    if o.isFree then freeStep s o
    else if o.faulted then s
    else
      match o.kind with
      | .copy | .copyMmt => if o.flag then s else copyStep s o
      | .collOpen | .collRed | .collBar | .collClose => collStep s o
      | .gready => greadyStep s o
      | .gunready => gunreadyStep s o
      | .gsend => gsendStep s o
      | .grecv => grecvStep s o
      | .gqpush => gqpushStep s o
      | .gqwait => gqwaitStep s o
      | .launch => s
      | .mbsend => mbsendStep s o

def execCopyEngineStep (op : Nat) (s : State) : Result := .next (opStep s op)

/-! Acceptance (R227). -/

/-- The message unit takes the word; else the copy engine does. -/
def toMessageUnit (k : XKind) : Bool := k == .gready || k == .gunready || k == .gsend || k == .grecv || k == .mbsend

/-- The agent of the tile has a free entry, and the limits of R244 and R246 hold. -/
def acceptable (s : State) (o : XOp) : Bool :=
  (s.ops.filter (fun p => p.tile == o.tile && toMessageUnit p.kind == toMessageUnit o.kind)).length < 64 &&
  (o.kind != .gready || (s.units.filter (fun u => u.ctx == o.ctx)).length +
    (s.ops.filter (fun p => p.kind == .gready && p.ctx == o.ctx && p.progress == 0 && !p.faulted && !p.isFree)).length < 256) &&
  (o.kind != .gsend || !o.flag || (s.ops.filter (fun p => p.kind == .gsend && p.team == o.team && p.sid == o.sid && p.progress != 2 &&
    !p.faulted && orderedHold s p)).length < 16)

/-- The key of the count of ordered sends of a context and key (R243). -/
def sentKey (o : XOp) : Nat := handleIndex o.ctx * 256 + keyOf o

/-- XFER_ACCEPT: the agent takes the stepping strand's word, and reads what it reads at acceptance. -/
def execXferAccept (s : State) : Result :=
  match s.cs.xpend with
  | none => .next s
  | some o =>
    if !s.cs.live || !acceptable s o then .next s
    else
      let id := s.nextId
      let count : Dword := Sparse.get 0 s.sent (sentKey o) + 1
      let ord := o.kind == .gsend && o.flag
      let o := { o with id := id, z := if ord then count else o.z }
      let s := { s with
        nextId := id + 1, ops := s.ops ++ [o], sent := if ord then Sparse.set 0 s.sent (sentKey o) count else s.sent }.onCs
          (fun t => { t with xpend := none })
      .next (if o.kind == .copy || o.kind == .copyMmt then s else if o.kind == .collRed then opStep (opStep s id) id else opStep s id)

/-! The follow-on (R235). -/

/-- The effect of a follow-on word on the stepping strand, whose unit it is. -/
def followAct (s : State) : Act :=
  match decodeMtx s.cs.unit.word with
  | .ok i => undamaged (rolesOf i) (act i) s
  | .error _ => .wait
where
  /-- The effect of the word. -/
  act (i : Instr) (s : State) : Act :=
    match i with
    | .mmt c a b n p sp r z => mmtAct s c.toNat a.toNat b.toNat n p sp r z
    | .mmtWb c a w n p sp z => mmtWbAct s c.toNat a.toNat w n p sp z
    | .wbload w a n => wbloadAct s w a.toNat n
    | .accld c a n sp => accldAct s c.toNat a.toNat n sp
    | .attb c a b n f z => attbAct s (2 * c.toNat) a.toNat b.toNat n f z
    | _ => .wait

/-- The stepping strand's copy engine issues the follow-on `fu` of operation `id`: it waits for its counter and for the words of R211; a
fault is that of the follow-on itself (R223). Assumption 36, DEDUCED. -/
def followIssue (s : State) (id : Nat) (fu : EUnit) : State :=
  let t := s.cs
  if !t.live || t.frame.isSome || t.tokHolds fu then s
  else
    let s0 := s.onCs (fun t => { t with unit := fu })
    let back := fun (s : State) => s.onCs (fun x => { x with unit := t.unit })
    match followAct s0 with
    | .ok s' => (back (s'.onCs (fun c => c.signal fu.sig))).dropOp id
    | .okNoSig s' => (back s').dropOp id
    | .waitWith s' => back s'
    | .trap c v => (s0.dropOp id).trap c v
    | .trapWith s' c v => (s'.dropOp id).trap c v
    | _ => s

/-- FOLLOW_ON_ISSUE (R235). -/
def execFollowOnIssue (op : Nat) (s : State) : Result :=
  match s.op? op with
  | none => .next s
  | some o =>
    match o.unit.followUnit with
    | none => .next s
    | some fu =>
      if o.kind ≠ .copyMmt || !o.flag then .next s
      else .next (s.asStrand o.team o.sid (fun s => followIssue s op fu))

end Sys2Proof.Machine
end

