-- ==== Sys2Proof/Machine/Schedule.lean ====
section
/-! DEFINITION. Keyring: placing teams, taking them off, their ends, launches and their completion (02_execution_model.md R29 to R32, R48;
07_assembly_language.md R108, R109; 16_memory_hierarchy.md R279; 20_scheduling.md R326 to R340; 22_faults_and_translation.md R354). -/

namespace Sys2Proof.Machine

/-! Launch records (R328). -/

def lKERNEL (r : BitVec 512) : Nat := recField r 0x00 8
def lLPB (r : BitVec 512) : Nat := recField r 0x08 8
def lSTACK (r : BitVec 512) : Nat := recField r 0x10 8
def lSTACKSZ (r : BitVec 512) : Nat := recField r 0x18 4
def lCTX (r : BitVec 512) : Word := BitVec.ofNat 32 (recField r 0x1C 4)
def lTEAMS (r : BitVec 512) : Nat := recField r 0x20 4
def lC (r : BitVec 512) : Nat := recField r 0x24 1
def lP (r : BitVec 512) : Nat := recField r 0x25 1
def lARRAY (r : BitVec 512) : Nat := recField r 0x26 1
def lKIND (r : BitVec 512) : Nat := recField r 0x27 1 / 64
def lINDEX (r : BitVec 512) : Nat := recField r 0x27 1 % 16
def lDMAP (r : BitVec 512) : Nat := recField r 0x28 8
def lCREC (r : BitVec 512) : Nat := recField r 0x30 8
def lCCTX (r : BitVec 512) : Word := BitVec.ofNat 32 (recField r 0x38 4)

/-- Step 1 of R329. -/
def recordOk (r : BitVec 512) (host : Bool) : Bool :=
  lKERNEL r % 64 == 0 && lLPB r % 8 == 0 && lSTACK r % 16 == 0 && lSTACKSZ r % 16 == 0 && 1 ≤ lTEAMS r && lTEAMS r < 2 ^ 16 &&
  1 ≤ lC r && lC r ≤ 8 && 1 ≤ lP r && lP r ≤ 4 && lARRAY r ≤ 2 && recField r 0x27 1 / 16 % 4 == 0 && lKIND r ≤ 2 &&
  !(lKIND r == 1 && 8 ≤ lINDEX r) && !(lKIND r == 2 && host) && lDMAP r % 8 == 0 && lCREC r % 32 == 0 && recField r 0x3C 4 == 0

/-! Strand slots and the modes of arrays (R30, R336). -/

/-- Free strand slots of a core. -/
def freeSlots (s : State) (die : BitVec 2) (tile : BitVec 4) (core : Nat) : List Nat :=
  (List.range 4).filter (fun k => !s.strands.any (fun t =>
    t.live && t.die == die && t.tile == tile && t.core.toNat == core && t.slot.toNat == k))

/-- The pair of a core admits the team's ARRAY mode (R336). Assumption 24, DEDUCED. -/
def pairAdmits (s : State) (m : Team) (die : BitVec 2) (tile : BitVec 4) (core : Nat) : Bool :=
  let n := arrayIndex die tile core
  let a := s.array n
  match m.array.toNat with
  | 0 => true
  | 1 => a.grant0.isNone && a.grant1.isNone && !s.pairBusy n
  | _ =>
    (a.amode == 2 || (a.grant0.isNone && a.grant1.isNone && !s.pairBusy n)) &&
    (if core % 2 = 1 then a.grant1.isNone else a.grant0.isNone)

/-- The cores of a tile that qualify for a team (R335). -/
def goodCores (s : State) (m : Team) (die : BitVec 2) (tile : BitVec 4) : List Nat :=
  (List.range 8).filter (fun c => m.p ≤ (freeSlots s die tile c).length && pairAdmits s m die tile c)

/-- Tile SRAM frames that a team needs (R278). -/
def Team.need (m : Team) : Nat := ceilDiv m.hdr.tsram (2 ^ 16)

/-- The tile has the cores, and with `frames` the free frames too (R30, R279). Assumption 24, DEDUCED. -/
def tileFits (s : State) (m : Team) (frames : Bool) (die : BitVec 2) (tile : BitVec 4) : Bool :=
  decide (m.c ≤ (goodCores s m die tile).length) && (!frames || decide (m.need ≤ (freeT0 s die.toNat tile.toNat).length))

/-! Where a team goes (R335). -/

/-- Object pages of a team's declared inputs that lie in T0 or T1: the frames. -/
def inputFrames (s : State) (m : Team) : List (BitVec 2 × Nat) :=
  (((teamInputs m).map (fun r => (rangePages r.1 r.2.1).filterMap (fun va =>
    match gpaOf s m.ctx va with
    | some g => if 0x0080000000000000 ≤ g && g < 0x0100000000000000 then some (objOf (fld m.ctx 16 6) g) else none
    | none => none))).flatten).dedup.filterMap (fun o => match s.pde? o with
      | some p => if p.tier = 2 then none else some (p.tier, p.frame)
      | none => none)

/-- The first of the better candidates: `better x y` says that x goes before y. -/
def bestOf {α : Type} (better : α → α → Bool) (l : List α) : Option α :=
  l.foldl (fun b x => match b with
    | none => some x
    | some y => if better x y then some x else b) none

/-- Insertion behind everything that is not worse. -/
def insertBy {α : Type} (better : α → α → Bool) (x : α) : List α → List α
  | [] => [x]
  | y :: l => if better x y then x :: y :: l else y :: insertBy better x l

/-- A stable order. -/
def orderBy {α : Type} (better : α → α → Bool) (l : List α) : List α := l.foldl (fun o x => insertBy better x o) []

/-- Dies in the order of R335: score, then the context's own die, then the number. -/
def dieOrder (s : State) (m : Team) : List Nat :=
  let fr := inputFrames s m
  let score := fun d => (fr.filter (fun f => dieOf f.2 == d)).length
  let own := (handleDie m.ctx).toNat
  let allowed := (List.range 4).filter (fun d => m.dies = 0 || m.dies.getLsbD d)
  orderBy (fun a b => score b < score a || (score a = score b && a = own && b ≠ own)) allowed

/-- Tiles of a die in the order of R335: T0 input bytes, then free strand slots, then the number. -/
def tileOrder (s : State) (m : Team) (d : Nat) : List Nat :=
  let fr := inputFrames s m
  let die : BitVec 2 := BitVec.ofNat 2 d
  let bytes := fun t => (fr.filter (fun f => f.1 == 0 && dieOf f.2 == d && (tileOf f.2).1 == t)).length
  let free := fun t => ((List.range 8).map (fun c => (freeSlots s die (BitVec.ofNat 4 t) c).length)).foldl (· + ·) 0
  orderBy (fun a b => bytes b < bytes a || (bytes a = bytes b && free b < free a)) (List.range 16)

/-- The place of a team: die and tile. Without `frames` the tile SRAM it needs is not counted. Assumption 24, DEDUCED. -/
def choosePlace (s : State) (m : Team) (frames : Bool) : Option (BitVec 2 × BitVec 4) :=
  (dieOrder s m).findSome? (fun d =>
    ((tileOrder s m d).find? (fun t => tileFits s m frames (BitVec.ofNat 2 d) (BitVec.ofNat 4 t))).map
      (fun t => (BitVec.ofNat 2 d, BitVec.ofNat 4 t)))

/-! Saved arrays (R210, R354). -/

/-- Entries from key `base` on, `n` of them, renumbered from 0. -/
def sliceFrom {α : Type} (m : Sparse α) (base n : Nat) : Sparse α :=
  (m.filter (fun c => base ≤ c.1 && c.1 < base + n)).map (fun c => (c.1 - base, c.2))

/-- Entries from key `base` on, `n` of them, replaced. -/
def putSlice {α : Type} (m x : Sparse α) (base n : Nat) : Sparse α :=
  m.filter (fun c => c.1 < base) ++ x.map (fun c => (c.1 + base, c.2)) ++ m.filter (fun c => base + n ≤ c.1)

/-- The share of a side in alternate mode, or the whole array. -/
def ArrayState.share (a : ArrayState) (alt odd : Bool) : ArrayState :=
  if !alt then { a with grant0 := none, grant1 := none }
  else
    let h := if odd then 1 else 0
    { tiles := sliceFrom a.tiles (4 * h) 4, shadows := sliceFrom a.shadows (4 * h) 4, wb := sliceFrom a.wb (2 * h) 2
      spec := (a.spec >>> (4 * h)) &&& 15, bad := (a.bad.filter (fun n => sideOf n == h)).map (fun n => if n / 4 = 2 then n - 2 * h else n - 4 * h) }
where
  /-- The side of a tile, or of a weight buffer under 8 + number. -/
  sideOf (n : Nat) : Nat := if n / 4 = 2 then n % 4 / 2 else if n < 8 then n / 4 else n / 4 - 3

/-- A share put back. -/
def ArrayState.putShare (a x : ArrayState) (alt odd : Bool) : ArrayState :=
  if !alt then { a with tiles := x.tiles, shadows := x.shadows, wb := x.wb, spec := x.spec, bad := x.bad }
  else
    let h := if odd then 1 else 0
    { a with
      tiles := putSlice a.tiles x.tiles (4 * h) 4, shadows := putSlice a.shadows x.shadows (4 * h) 4, wb := putSlice a.wb x.wb (2 * h) 2
      spec := (a.spec &&& ~~~((15 : BitVec 8) <<< (4 * h))) ||| ((x.spec &&& 15) <<< (4 * h))
      bad := a.bad.filter (fun n => ArrayState.share.sideOf n ≠ h) ++ x.bad.map (fun n => if n / 4 = 2 then n + 2 * h else n + 4 * h) }

/-- The shares that a placed team holds: array and side, in core order. -/
def sharesOf (s : State) (m : Team) : List (Nat × Bool) :=
  (m.cores.map (fun c => (arrayIndex m.die m.tile c, c % 2 == 1))).filter (fun x =>
    let a := s.array x.1
    if x.2 then a.grant1 == some m.id else a.grant0 == some m.id)

/-- The grants of a placement (R336): arrays and sides, with the AMODE they take. -/
def grantsFor (s : State) (m : Team) (die : BitVec 2) (tile : BitVec 4) (cores : List Nat) : List (Nat × Bool × BitVec 2) :=
  match m.array.toNat with
  | 0 => []
  | 1 => (cores.filter (fun c => !(c % 2 = 1 && cores.contains (c - 1)))).map (fun c =>
      (arrayIndex die tile c, c % 2 == 1, if c % 2 = 1 then 1 else 0))
  | _ => let _ := s; cores.map (fun c => (arrayIndex die tile c, c % 2 == 1, 2))

/-- Grants made, with the saved shares, or with empty ones at the first placement. -/
def grantAll (s : State) (m : Team) (gs : List (Nat × Bool × BitVec 2)) : State :=
  (gs.zip ((List.range gs.length).map (fun k => ((m.arrays[k]?).map (·.2)).getD {}))).foldl (fun s x =>
    let (n, odd, mode) := x.1
    let a := s.array n
    let a := if a.amode = mode then a else { a with amode := mode, window := false }
    let a := a.putShare x.2 (mode == 2) odd
    s.setArray n (if odd then { a with grant1 := some m.id } else { a with grant0 := some m.id })) s

/-- Shares and grants taken back; their contents are the team's (R210). -/
def ungrant (s : State) (m : Team) : State :=
  (sharesOf s m).foldl (fun s x =>
    let a := s.array x.1
    let a := a.putShare {} (a.amode == 2) x.2
    s.setArray x.1 (if x.2 then { a with grant1 := none } else { a with grant0 := none })) s

/-! Tile SRAM allocations (R278, R279). -/

/-- The address of frame `f` of a tile. -/
def frameAddr (die : BitVec 2) (tile : BitVec 4) (f : Nat) : Nat := tileBase die.toNat tile.toNat + f * 2 ^ 16

/-- The image of an allocation: the bytes of its frames in order. Assumption 33, DESIGN CHOICE. -/
def saveFrames (s : State) (m : Team) : List Host.Cell :=
  ((m.frames.zip (List.range m.frames.length)).map (fun x =>
    let a := frameAddr m.die m.tile x.1
    (s.mem.filter (fun c => a ≤ c.1 && c.1 < a + 2 ^ 16)).map (fun c => (c.1 - a + x.2 * 2 ^ 16, c.2)))).flatten

/-- Damaged granules of a frame go where its contents go. -/
def State.moveDamage (s : State) (src dst : Nat) : State :=
  if s.poison.isEmpty then s else { s with poison := s.poison.map (fun g => if g / 2048 = src / 2 ^ 16 then dst / 32 + g % 2048 else g) }

/-- The frames of an allocation with the places that the saved image of team `id` gives them. -/
def imagePlaces (id : Nat) (die : BitVec 2) (tile : BitVec 4) (frames : List Nat) : List (Nat × Nat) :=
  (frames.zip (List.range frames.length)).map (fun x => (frameAddr die tile x.1, imageKey id + x.2 * 2 ^ 16))

/-- Frames zeroed, and then filled from the image of team `id`, damage included. -/
def loadFrames (s : State) (id : Nat) (die : BitVec 2) (tile : BitVec 4) (frames : List Nat) (image : List Host.Cell) : State :=
  let mem := frames.foldl (fun mem f => zeroFrame mem (frameAddr die tile f)) s.mem
  let s := (imagePlaces id die tile frames).foldl (fun s x => s.moveDamage x.2 x.1) (s.heal (frames.map (frameAddr die tile)))
  { s with mem := image.foldl (fun mem c => setByte mem (frameAddr die tile ((frames[c.1 / 2 ^ 16]?).getD 0) + c.1 % 2 ^ 16) c.2) mem }

/-- Frames of 64 KiB that the save image of a placed team takes (R354). -/
def saveSize (s : State) (m : Team) : Nat :=
  let shares := (sharesOf s m).map (fun x => if (s.array x.1).amode = 2 then 3 * 2 ^ 18 else 3 * 2 ^ 19)
  ceilDiv (m.c * m.p * (2 ^ 16 + m.hdr.nv * 512) + 256 + m.need * 2 ^ 16 + shares.foldl (· + ·) 0) (2 ^ 16)

/-- Hinge allocates the save area of a team in frames of T1, and of T2 where T1 has none (R354). Assumption 33, DESIGN CHOICE. -/
def allocSave (s : State) (m : Team) (n : Nat) : State :=
  (List.range n).foldl (fun s _ => (takeSave (fun s => saveFrame s m.ctx) m.id 1 s).getD s) s

/-- The lines of the team's cores leave their L1s: every completed access of the team is performed at dev scope before its image is
restored (R256, R354). -/
def flushTeam (s : State) (m : Team) : State := flushL1 s false (fun l => (m.cores.map (coreNo m.die m.tile)).contains l.core)

/-- Windows whose ring lies in the team's allocation move with it (R170, R279): off the tile they are kept by offset above 2^66. -/
def liftWindows (s : State) (m : Team) : State :=
  { s with windows := s.windows.map (fun w =>
      if w.team ≠ m.id then w
      else match (m.frames.zip (List.range m.frames.length)).find? (fun x => frameAddr m.die m.tile x.1 == w.ring / 2 ^ 16 * 2 ^ 16) with
        | some x => { w with ring := 2 ^ 66 + x.2 * 2 ^ 16 + w.ring % 2 ^ 16 }
        | none => w) }

def dropWindows (s : State) (id : Nat) (die : BitVec 2) (tile : BitVec 4) (frames : List Nat) : State :=
  { s with windows := s.windows.map (fun w =>
      if w.team = id && 2 ^ 66 ≤ w.ring then
        let o := w.ring - 2 ^ 66
        { w with ring := frameAddr die tile ((frames[o / 2 ^ 16]?).getD 0) + o % 2 ^ 16, tile := die.toNat * 16 + tile.toNat }
      else w) }

/-! Deficits (R337). -/

def deficitKey (die p : Nat) : Nat := die * 64 + p
def State.deficit (s : State) (die p : Nat) : Int := Sparse.get 0 s.deficits (deficitKey die p)
def State.setDeficit (s : State) (die p : Nat) (x : Int) : State := { s with deficits := Sparse.set 0 s.deficits (deficitKey die p) x }

/-- The quantum of a die in µs: 10 to 100,000, else 200 (R338, R409). -/
def quantum (s : State) (die : Nat) : Nat := s.cfgField (0x18 + 4 * die) 4 200

/-- The eligible teams of a partition on a die. -/
def eligibleOn (s : State) (die p : Nat) : List Team :=
  s.teams.filter (fun m => (handleDie m.ctx).toNat == die && (handlePart m.ctx).toNat == p && eligible s m)

/-- The refund for the unused part of a quantum. -/
def refund (s : State) (m : Team) : State :=
  let die := (handleDie m.ctx).toNat
  let p := (handlePart m.ctx).toNat
  s.setDeficit die p (s.deficit die p + ((m.c * m.p * ((m.quantumEnd - s.time) / 1000) : Nat) : Int))

/-! Taking a team off (R33, R354). -/

/-- A team leaves its tile: strands, allocation and shares are saved, its slots are free, and its context takes its new state. -/
def vacate (s : State) (id : Nat) : State :=
  match s.team? id with
  | none => s
  | some m =>
    if !m.placed then s
    else
      let shares := (sharesOf s m).map (fun x => let a := s.array x.1; (x.1, a.share (a.amode == 2) x.2))
      let image := saveFrames s m
      let n := saveSize s m
      let s := liftWindows (refund (ungrant (flushTeam s m) m) m) m
      let s := (imagePlaces id m.die m.tile m.frames).foldl (fun s x => s.moveDamage x.1 x.2) s
      let s := { s with mem := m.frames.foldl (fun mem f => zeroFrame mem (frameAddr m.die m.tile f)) s.mem }
      let s := s.onStrands (fun t => t.team == id) (fun t => { t.settleWrites [.vec, .sfu] with live := false })
      let s := s.onTeam id (fun m => { m with placed := false, image := image, arrays := shares, left := m.frames, frames := [], cores := [], slots := [] })
      settleCtx (allocSave s m n) (handleIndex m.ctx)

/-- The team is off its tile, and what waits for a frame goes on. -/
def takeOff (s : State) (id : Nat) : State := frameFreed (vacate s id)

/-! Placing a team (R30, R31, R96, R279, R335). -/

/-- What a read for Keyring finds: bytes, a wait, or bytes that cannot be read. It is made through the context's translation, in the
user view. -/
inductive KRead where
  | data (s : State) (bytes : List Byte)
  | wait (s : State)
  | refused (s : State)
  deriving DecidableEq, Repr

/-- A read at another device for a launch: an operation of its own makes it, and the launch keeps the bytes. -/
def farRead (s : State) (id : Nat) (ctx : Word) (va : Dword) (n : Nat) : KRead :=
  match (s.launches.find? (fun l => l.id == id)).bind (fun l =>
      l.got.find? (fun g => g.1 == va.toNat && (g.2.isEmpty || g.2.length == n))) with
  | some (_, b) => if b.isEmpty then .refused s else .data s b
  | none =>
    if s.ops.any (fun o => o.kind == .launch && o.isFree && o.z.toNat == id && o.x == va && o.n == n) then .wait s
    else .wait (addFree s { freeOp s .launch ctx with x := va, n := n, z := BitVec.ofNat 64 id })

/-- A parameter of the launch parameter block, read when the team is placed. A page that must be resolved holds the team (R349).
Assumption 19, DESIGN CHOICE. -/
def readParam (s : State) (m : Team) (va : Dword) (n : Nat) : KRead :=
  match s.strand? m.id 0 with
  | none => .refused s
  | some t =>
    match runReq s { ctx := m.ctx } (readReq va n) with
    | .done s' imgs => .data s' (imgBytes imgs n)
    | .again s' => .wait s'
    | .held _ => .wait s
    | .park r va =>
      match tryPark s t r va with
      | (s', .inr _) => .wait s'
      | (s', .inl _) => .refused s'
    | .remote .. => farRead s m.launch m.ctx va n
    | _ => .refused s

/-- Every value of a list of parameters (offset, size); one that cannot be read is a free value (assumption 19). `none` while one must
wait. -/
def readParams (lpb : Dword) (m : Team) : List (Nat × Nat) → State → State × Option (List Dword)
  | [], s => (s, some [])
  | (off, n) :: l, s =>
    if n = 0 then
      let (s, r) := readParams lpb m l s
      (s, r.map (0 :: ·))
    else
      match readParam s m (lpb + BitVec.ofNat 64 off) n with
      | .wait s => (s, none)
      | .data s b =>
        let (s, r) := readParams lpb m l s
        (s, r.map (BitVec.ofNat 64 (leNat b) :: ·))
      | .refused s =>
        let (k, s) := s.nextFree
        let (s, r) := readParams lpb m l s
        (s, r.map (BitVec.ofNat 64 ((Config.unreadable k).toNat % 2 ^ (8 * n)) :: ·))

/-- The parameters of a kernel: SRSEED, SRSTREAM, RBTAB, and then those of its patch entries. The header gives no widths for the first
three: they are read at those of the registers, 8, 4 and 2 bytes. Assumption 19, DESIGN CHOICE. -/
def paramsOf (h : Header) : List (Nat × Nat) :=
  let opt := fun (off n : Nat) => if off = 0xFFFF then (0, 0) else (off, n)
  [opt h.seedp 8, opt h.streamp 4, opt h.rbtabp 2] ++ h.patches.map (fun p => (p.2.1, 2 ^ (p.2.2.1.toNat / 32 % 4)))

/-- A strand at its start (R31). -/
def newStrand (s : State) (m : Team) (l : Launch) (k : Nat) : Strand :=
  let r := l.record
  let stack : Dword := if lSTACK r = 0 then 0 else BitVec.ofNat 64 (lSTACK r + (k + 1) * lSTACKSZ r)
  { team := m.id, sid := k, ctx := m.ctx, pc := m.hdr.entry, s := Sparse.set 0 [] 2 stack, scbm := m.hdr.scbm
    teamid := BitVec.ofNat 64 m.number, teamsize := BitVec.ofNat 64 (m.c * m.p), lpb := BitVec.ofNat 64 (lLPB r)
    tvec := s.pcbReg (handlePart m.ctx).toNat 0x008 &&& ~~~3 }

/-- The strands of a team that has never been placed exist from its first placement on. -/
def ensureStrands (s : State) (m : Team) : State :=
  if (s.strand? m.id 0).isSome then s
  else
    match s.launches.find? (fun l => l.id == m.launch) with
    | none => s
    | some l => { s with others := s.others ++ (List.range (m.c * m.p)).map (newStrand s m l) }

/-- All strands of the team take their slots (R30), each with the trap vector of the partition (R344). -/
def seatStrands (s : State) (m : Team) (die : BitVec 2) (tile : BitVec 4) (cores : List Nat) : State :=
  let seats := ((List.range m.c).map (fun j =>
    let core := (cores[j]?).getD 0
    (((freeSlots s die tile core).take m.p).map (fun k => (core, k))))).flatten
  s.onStrands (fun t => t.team == m.id) (fun t =>
    let (core, slot) := (seats[t.sid]?).getD (0, 0)
    { t with
      live := true, die := die, tile := tile, core := BitVec.ofNat 3 core, slot := BitVec.ofNat 2 slot,
      tvec := s.pcbReg (handlePart m.ctx).toNat 0x008 &&& ~~~3 })

/-- Faulted entries of the access records are issued again (R352), oldest first. -/
def replayEntries (s : State) (id : Nat) : State :=
  (s.strands.filter (fun t => t.team == id)).foldl (fun s t =>
    ((t.arec.filter (fun e => e.state == .faulted && e.fail.isNone)).map (·.seq)).foldl (fun s seq =>
      match s.strand? id t.sid with
      | some t => retryEntry s t seq
      | none => s) s) s

/-- The team goes to a tile with its parameters read: strands, allocation, shares, quantum, context state. -/
def seat (s : State) (m : Team) (die : BitVec 2) (tile : BitVec 4) : State :=
  let cores := (goodCores s m die tile).take m.c
  let frames := ((freeT0 s die.toNat tile.toNat).take m.need).map (fun a => a / 2 ^ 16 % 64)
  let s := seatStrands (grantAll s m (grantsFor s m die tile cores)) m die tile cores
  let s := dropWindows (loadFrames (flushTeam s { m with die := die, tile := tile, cores := cores }) m.id die tile frames m.image) m.id die tile frames
  let q := quantum s (handleDie m.ctx).toNat * 1000
  let s := s.onTeam m.id (fun m => { m with
    placed := true, started := true, die := die, tile := tile, cores := cores, frames := frames, image := [], arrays := [], save := [], left := []
    quantumEnd := s.time + q, placedAt := s.time
    barriers := if m.started then m.barriers else (List.range 16).map (fun k => (k, { e := m.c * m.p }))
    slots := (s.strands.filter (fun t => t.team == m.id)).map (·.slot.toNat) })
  let i := handleIndex m.ctx
  let s := settleCtx (s.setEntry i { s.entry i with lastTile := some (die.toNat * 16 + tile.toNat) }) i
  let s := replayEntries s m.id
  let s := (s.strands.filter (fun t => t.team == m.id)).foldl (fun s t => raiseEnded s m.id t.sid) s
  if m.save.isEmpty then s else frameFreed s

/-- Before its first placement the parameters of a team are read (R31, R96). `none` while it must wait. -/
def readyTeam (s : State) (m : Team) : State × Option Team :=
  if m.started then (s, some m)
  else
    let s := ensureStrands s m
    let lpb := match s.strand? m.id 0 with | some t => t.lpb | none => 0
    match readParams lpb m (paramsOf m.hdr) s with
    | (s, none) => (s, none)
    | (s, some vals) =>
      let s := s.onStrands (fun t => t.team == m.id) (fun t => { t with
        srseed := vals.headD 0, srstream := ((vals[1]?).getD 0).setWidth 32, rbtab := rbtabWrite 0 ((vals[2]?).getD 0), answered := [] })
      let s := (s.onTeam m.id (fun m => { m with patchVals := vals.drop 3 })).onLaunch m.launch (fun l => { l with got := [] })
      (s, some { m with patchVals := vals.drop 3 })

/-- A team is placed (R335); `false` where it must wait for its parameters. -/
def placeTeam (s : State) (m : Team) (die : BitVec 2) (tile : BitVec 4) : State × Bool :=
  match readyTeam s m with
  | (s, none) => (s, false)
  | (s, some m) => (seat s m die tile, true)

/-! Selection (R337). -/

/-- The context priority of a team. -/
def prioOf (s : State) (m : Team) : Nat := (s.entry (handleIndex m.ctx)).prio.toNat

/-- The eligible team of a partition that fits and goes first: priority, then candidate order. -/
def firstFit (s : State) (die p : Nat) (excl : List Nat) : Option (Team × (BitVec 2 × BitVec 4)) :=
  let l := (eligibleOn s die p).filterMap (fun m =>
    if excl.contains m.id then none else (choosePlace s m true).map (fun x => (m, x)))
  bestOf (fun a b => prioOf s b.1 < prioOf s a.1) l

/-- One run of the selection of a die, up to its next placement: the team and its place. -/
def selectLoop (die : Nat) (excl : List Nat) : Nat → State → State × Option (Team × (BitVec 2 × BitVec 4))
  | 0, s => (s, none)
  | n + 1, s =>
    let ptr := Sparse.get 63 s.ptrs die
    match (List.range 64).findSome? (fun k => let p := (ptr + 1 + k) % 64; (firstFit s die p excl).map (fun x => (p, x))) with
    | none => (s, none)
    | some (p, m, pl) =>
      let q := quantum s die
      let cost : Int := ((m.c * m.p * q : Nat) : Int)
      if cost ≤ s.deficit die p then (s.setDeficit die p (s.deficit die p - cost), some (m, pl))
      else
        let w := (s.pcbReg p 0x118).toNat % 256
        selectLoop die excl n ({ s with ptrs := Sparse.set 63 s.ptrs die p }.setDeficit die p (s.deficit die p + ((w * 32 * q : Nat) : Int)))

/-- D[p] is 0 while p has no eligible team on the die. -/
def clearDeficits (s : State) (die : Nat) : State :=
  (List.range 64).foldl (fun s p => if (eligibleOn s die p).isEmpty then s.setDeficit die p 0 else s) s

/-- KEYRING_SELECTION on a die: one placement, if some team fits, without the teams `excl`; `n` bounds the teams tried. A team whose
parameters must be resolved first is passed over, and its cost is not charged. -/
def selection (die : Nat) : Nat → List Nat → State → State × Bool
  | 0, _, s => (s, false)
  | n + 1, excl, s =>
    let s0 := clearDeficits s die
    match selectLoop die excl 130 s0 with
    | (s1, none) => (s1, false)
    | (s1, some (m, d, t)) =>
      match placeTeam s1 m d t with
      | (s2, true) => (s2, true)
      | (s2, false) => selection die n (m.id :: excl) { s2 with deficits := s0.deficits, ptrs := s0.ptrs }

/-- Every placement that the selection of a die makes without the teams `excl`. -/
def selectDie (excl : List Nat) (die : Nat) : Nat → State → State
  | 0, s => s
  | n + 1, s => match selection die (s.teams.length + 1) excl s with
    | (s', true) => selectDie excl die n s'
    | (s', false) => s'

/-- The whole selection that follows a take-off, on every die, with the team that left excluded from it (R145, R338). -/
def selectOthers (s : State) (id : Nat) : State := (List.range 4).foldl (fun s d => selectDie [id] d (s.teams.length + 1) s) s

/-- Every place that has the cores for a team, best first. -/
def placesFor (s : State) (m : Team) : List (Nat × Nat) :=
  ((dieOrder s m).map (fun d => ((tileOrder s m d).filter (fun t =>
    tileFits s m false (BitVec.ofNat 2 d) (BitVec.ofNat 4 t))).map (fun t => (d, t)))).flatten

/-- A page of T0 on a tile. -/
def onTile (d t : Nat) (p : Pde) : Bool := p.tier == 0 && dieOf p.frame == d && (tileOf p.frame).1 == t

/-- Frames of a tile that pages on their way down are about to free. -/
def leaving (s : State) (d t : Nat) : Nat := (s.pdes.filter (fun p => onTile d t p && p.mig.any (fun m => m.tier ≠ 0))).length

/-- Some eligible team lacks nothing but tile SRAM frames: Hinge demotes a page of a parked context from a tile that has the cores, the
best one that holds such a page, unless enough of its frames are about to be free (R279, R300). -/
def demoteForPlace (s : State) (die : Nat) : State :=
  ((s.teams.filter (fun m => (handleDie m.ctx).toNat == die && eligible s m && (choosePlace s m true).isNone)).findSome? (fun m =>
    let l := placesFor s m
    if l.any (fun x => m.need ≤ (freeT0 s x.1 x.2).length + leaving s x.1 x.2) then none
    else l.findSome? (fun x =>
      let s' := capacityDemote s 0 (onTile x.1 x.2)
      if s'.pdes = s.pdes then none else some s'))).getD s

/-- Some team of the die can be placed. -/
def canPlace (s : State) (die : Nat) : Bool := s.teams.any (fun m => (handleDie m.ctx).toNat == die && eligible s m && (choosePlace s m true).isSome)

/-- TEAM_PLACE (R335, R337). -/
def execTeamPlace (die : BitVec 2) (s : State) : Result :=
  .next (if canPlace s die.toNat then (selection die.toNat (s.teams.length + 1) [] s).1 else demoteForPlace s die.toNat)

/-- TEAM_TAKE_OFF (R349): a placed team held by a fault park leaves its tile. -/
def execTeamTakeOff (team : Nat) (s : State) : Result :=
  match s.team? team with
  | some m => .next (if m.placed && !m.faults.isEmpty then takeOff s team else s)
  | none => .next s

/-- The state with the team off its tile, as the tests of R257 and R338 see it. -/
def vacated (s : State) (m : Team) : State :=
  let s := ungrant s m
  let s := s.onStrands (fun t => t.team == m.id) (fun t => { t with live := false })
  s.onTeam m.id (fun m => { m with placed := false })

/-- Another eligible team that `p` admits fits the slots of the team together with the free slots of its tile (R145, R338). -/
def rival (s : State) (m : Team) (p : Team → Bool) : Bool :=
  let v := vacated s m
  s.teams.any (fun x => x.id ≠ m.id && p x && eligible s x && (x.dies = 0 || x.dies.getLsbD m.die.toNat) && tileFits v x true m.die m.tile)

/-- QUANTUM_EXPIRY (R338). -/
def execQuantumExpiry (team : Nat) (s : State) : Result :=
  match s.team? team with
  | none => .next s
  | some m =>
    if !m.placed || s.time < m.quantumEnd then .next s
    else if rival s m (fun _ => true) then
      .next (selectOthers (takeOff s team) team)
    else .next (s.onTeam team (fun m => { m with quantumEnd := s.time + quantum s (handleDie m.ctx).toNat * 1000 }))

/-! Completion of launches (R330, R331). -/

/-- A write of the completion record: over, or waiting for a resolution or another device. One that is refused, or whose resolution has
failed, is skipped and logged. -/
def crecWrite (s : State) (l : Launch) (va : Nat) (bytes : List Byte) : State × Bool :=
  let ctx := lCTX l.record
  let skip := (s.log (handleDie ctx).toNat logLaunch va, true)
  match l.xid with
  | some id => if (s.op? id).isSome then (s, false) else (s.onLaunch l.id (fun l => { l with xid := none }), true)
  | none =>
    if l.refused || !s.handleOk ctx then skip
    else
      match runReq s { ctx := ctx } (writeReq (BitVec.ofNat 64 va) bytes) with
      | .done s' _ => (s', true)
      | .again s' => (s', false)
      | .held _ => (s, false)
      | .park r va' =>
        let (s, key) := resolveFree s ctx (handleDie ctx) true r va'
        (s.onLaunch l.id (fun l => { l with wait := some key }), false)
      | .remote .. =>
        let o := { freeOp s .launch ctx with x := BitVec.ofNat 64 va, payload := bytes, z := BitVec.ofNat 64 l.id }
        ((addFree s o).onLaunch l.id (fun l => { l with xid := some o.id }), false)
      | _ => skip

/-- The CSIG signal (R331). -/
def csig (s : State) (l : Launch) : State :=
  let r := l.record
  match lKIND r with
  | 1 => if s.handleOk (lCCTX r) then s.onMailbox (lCCTX r) (lINDEX r % 8) (· + 1) else s
  | 2 => match l.issuer with
    | some (team, sid) => s.onStrand team sid (fun t => t.bump (BitVec.ofNat 4 (lINDEX r)))
    | none => s
  | _ => s

/-- Step `n` of the completion record: the fields but STATUS, then STATUS (R330, R331). -/
def crecStep (s : State) (l : Launch) (n : Nat) : State × Bool :=
  let crec := lCREC l.record
  if n = 0 then
    crecWrite s l (crec + 4) (leBytes 4 l.done ++ leBytes 8 l.code.toNat ++ leBytes 8 (s.time % 2 ^ 64) ++ leBytes 8 0)
  else crecWrite s l crec (leBytes 4 (if l.status = 0 then statusDone else l.status).toNat)

/-- The completion steps that are left: `n` writes of the completion record, and then the CSIG signal. -/
def completeFrom (id : Nat) : Nat → State → State
  | n, s =>
    match s.launches.find? (fun l => l.id == id) with
    | none => s
    | some l =>
      if !l.ready || (match l.wait with | some k => s.resolves.any (·.key == k) | none => false) then s
      else if lCREC l.record = 0 || 2 ≤ l.written then csig { s with launches := s.launches.filter (fun x => x.id ≠ id) } l
      else match n, crecStep s l l.written with
        | n + 1, (s, true) => completeFrom id n (s.onLaunch id (fun l => { l with written := l.written + 1, refused := false }))
        | _, (s, _) => s

/-- LAUNCH_COMPLETE: the completion steps of a launch whose teams have all ended, or whose record failed a check.
Assumption 23, DEDUCED. -/
def completeLaunch (s : State) (id : Nat) : State := completeFrom id 2 s

/-- A launch without teams left completes (R331). -/
def launchTeamEnded (s : State) (id : Nat) : State :=
  if s.teams.any (fun m => m.launch == id) then s
  else completeLaunch (s.onLaunch id (fun l => { l with ready := true })) id

/-! The end of a team (R32, R231). -/

/-- Operations that do not go on after their team (R231): `gready` that are not resolved, `grecv` and `gqwait`. -/
def endsWithTeam (o : XOp) : Bool := o.kind == .gready || o.kind == .grecv || o.kind == .gqwait

/-- Every strand has ended and drained, and every accepted operation has completed but for those of R231 (R32, R264). Faults of a team
that ended early are not reported. -/
def teamDone (s : State) (m : Team) : Bool :=
  (s.strands.filter (fun t => t.team == m.id)).all (fun t =>
    t.parkEnded && t.frame.isNone && t.mtx.isNone && t.xpend.isNone && Eng.all.all (fun e => (t.q.get e).isEmpty) && t.arec.isEmpty) &&
  s.ops.all (fun o => o.team ≠ m.id || endsWithTeam o || o.isCheck || (m.halted && (match o.stat with | .fault .. => true | _ => false)))

/-- The units of a team whose `gready` is outstanding are withdrawn, and its operations that `drop` selects go (R231). A registration
that is under way is answered first, and its unit is withdrawn after it. -/
def endOps (s : State) (id : Nat) (drop : XOp → Bool) : State :=
  let gone := (s.ops.filter (fun o => o.team == id && drop o)).map (·.id)
  let s := (s.units.filter (fun u => u.team == id && (s.op? u.op).isSome)).foldl (fun s u => withdrawUnit s u) s
  { s with
    ops := s.ops.filter (fun o => !gone.contains o.id)
    holds := s.holds.filter (fun h => !gone.contains h.id)
    pending := s.pending.filter (fun p => p.pkt.type == ptGADV || !p.op.any gone.contains) }

/-- The records of a team and its strands go; its slots and frames are free. -/
def removeTeam (s : State) (m : Team) : State :=
  let s := if m.placed then
      let s := refund (ungrant (flushTeam s m) m) m
      { s.heal (m.frames.map (frameAddr m.die m.tile)) with
        mem := m.frames.foldl (fun mem f => zeroFrame mem (frameAddr m.die m.tile f)) s.mem }
    else s.heal ((List.range m.need).map (fun k => imageKey m.id + k * 2 ^ 16))
  let rest := s.strands.filter (fun t => t.team ≠ m.id)
  let seqs := ((s.strands.filter (fun t => t.team == m.id)).map (fun t =>
    (t.arec ++ (match t.frame with | some f => f.arec | none => [])).map (·.seq))).flatten
  let s := { s with
    cs := rest.headD {}, others := rest.drop 1, teams := s.teams.filter (fun x => x.id ≠ m.id)
    windows := s.windows.filter (fun w => w.team ≠ m.id), holds := s.holds.filter (fun h => !seqs.contains h.id) }
  frameFreed (settleCtx s (handleIndex m.ctx))

/-- A team that has ended: its launch counts it, and records the status that it ended with, unless one is recorded (R264, R330, R346). -/
def Launch.ended (m : Team) (l : Launch) : Launch :=
  let l := { l with done := l.done + 1 }
  match m.endWith with
  | some (status, code) => l.recordStatus status code
  | none => l

/-- TEAM_END (R32). -/
def execTeamEnd (team : Nat) (s : State) : Result :=
  match s.team? team with
  | none => .next s
  | some m =>
    if !m.started || !teamDone s m then .next s
    else
      let s := removeTeam (endOps s team (fun _ => true)) m
      .next (launchTeamEnded (s.onLaunch m.launch (Launch.ended m)) m.launch)

/-- The messages that a team has sent and the message unit has not read yet are read, while the team's tile SRAM is there. -/
def readSends (s : State) (id : Nat) : State :=
  (s.ops.filter (fun o => o.team == id && o.kind == .gsend && o.progress = 0 && !o.faulted)).foldl (fun s o =>
    match s.op? o.id with
    | some o => gsendStep s o
    | none => s) s

/-- A team is discarded (R262, R263): its launch records KILLED, copies and collectives stop, accepted messages are still delivered. Its
other operations, of which R263 says nothing, end with it: `launch`, `gqpush`, `mbsend` and `gunready`. Assumption 72, DESIGN CHOICE. -/
def discardTeam (s : State) (m : Team) : State :=
  let s := removeTeam (endOps (readSends s m.id) m.id (fun o => o.kind != .gsend)) m
  launchTeamEnded (s.onLaunch m.launch (fun l => { l with status := statusKilled, code := 0 })) m.launch

/-! Accepting a launch (R29, R109, R329, R333, R334). -/

/-- A read that Keyring makes for launch `id` as it accepts it: a page that Hinge must bring makes it wait, and so does another device;
any other failure refuses it. Assumption 21, DEDUCED. -/
def acceptRead (s : State) (id : Nat) (ctx : Word) (va n : Nat) : KRead :=
  if n = 0 then .data s []
  else
    match runReq s { ctx := ctx } (readReq (BitVec.ofNat 64 va) n) with
    | .done s' imgs => .data s' (imgBytes imgs n)
    | .again s' => .wait s'
    | .held _ => .wait s
    | .park (.recall obj) va' =>
      if s.resolves.any (fun r => r.kind == 0 && r.obj == obj) then .wait s else .wait (resolveFree s ctx (handleDie ctx) false (.recall obj) va').1
    | .park (.frame obj) va' =>
      if s.resolves.any (fun r => r.kind == 1 && r.obj == obj) then .wait s else .wait (resolveFree s ctx (handleDie ctx) false (.frame obj) va').1
    | .remote .. => farRead s id ctx (BitVec.ofNat 64 va) n
    | _ => .refused s

/-- The fixed fields of a header (R108, R109). Reserved ones are ignored (R4). A SHAPE above the limits that R29 sets a team is bad here, not
a shape that does not match (assumption 21). -/
def headerOk (h : BitVec 512) : Bool :=
  recField h 0x00 4 == 0x474B4E31 && recField h 0x04 2 == 0x0100 && recField h 0x06 1 ≤ 8 && recField h 0x07 1 ≤ 4 &&
  recField h 0x08 4 % 4 == 0 && 1 ≤ recField h 0x0C 2 && recField h 0x0C 2 ≤ 256 && (recField h 0x0E 1 ≤ 2 || recField h 0x0E 1 == 0xFF) &&
  recField h 0x0F 1 ≤ 16 && recField h 0x10 4 % 512 == 0 && recField h 0x10 4 ≤ 2 ^ 22

/-- An input entry and a patch entry within their limits: TIER, WIDTH, SHIFT (R108). Assumption 22, DEDUCED. -/
def inputOk (e : List Byte) : Bool := leNat ((e.drop 4).take 1) ≤ 1
def patchOk (e : List Byte) : Bool :=
  let w := leNat ((e.drop 6).take 1)
  1 ≤ w % 32 && w % 32 ≤ 26 && leNat ((e.drop 7).take 1) % 128 < 64

/-- Eight-byte entries of a table. -/
def entriesOf (l : List Byte) (n : Nat) : List (List Byte) := (List.range n).map (fun k => (l.drop (8 * k)).take 8)

/-- Values of the inputs: address and length from the parameter block; an input whose parameters cannot be read has length 0.
Assumption 22, DEDUCED. -/
def readInputs (id : Nat) (ctx : Word) (lpb : Nat) : List (List Byte) → State → State × Option (List (Nat × Nat × Nat))
  | [], s => (s, some [])
  | e :: l, s =>
    match acceptRead s id ctx (lpb + leNat (e.take 2)) 8 with
    | .wait s => (s, none)
    | .refused s => let (s, r) := readInputs id ctx lpb l s; (s, r.map ((0, 0, 0) :: ·))
    | .data s a =>
      match acceptRead s id ctx (lpb + leNat ((e.drop 2).take 2)) 8 with
      | .wait s => (s, none)
      | .refused s => let (s, r) := readInputs id ctx lpb l s; (s, r.map ((0, 0, 0) :: ·))
      | .data s b => let (s, r) := readInputs id ctx lpb l s; (s, r.map ((leNat a, leNat b, leNat ((e.drop 4).take 1)) :: ·))

/-- The map entries `l` of a launch, as far as they can be read now: DIES and OFF of each team, and whether all were read (R334). -/
def readMap (id : Nat) (ctx : Word) (dmap : Nat) : List Nat → State → State × List (BitVec 4 × Dword) × Bool
  | [], s => (s, [], true)
  | k :: l, s =>
    let next := fun (s : State) (x : BitVec 4 × Dword) => let (s, r, all) := readMap id ctx dmap l s; (s, x :: r, all)
    if dmap = 0 then next s (0, 0)
    else
      match acceptRead s id ctx (dmap + 8 * k) 8 with
      | .wait s => (s, [], false)
      | .refused s => next (s.log (handleDie ctx).toNat logLaunch (dmap + 8 * k)) (0, 0)
      | .data s b =>
        let x : Dword := BitVec.ofNat 64 (leNat b)
        if x.toNat / 2 ^ 60 ≠ 0 then next s (0, 0)
        else next s (x.extractLsb' 56 4, (x.extractLsb' 0 56).signExtend 64)

/-- The map of a launch is read once, as the launch is accepted (R334): entries that must wait for a page or another device are read when
that is there, and no entry is read twice. The map, once it is whole. -/
def launchMap (s : State) (l : Launch) : State × Option (List (BitVec 4 × Dword)) :=
  let r := l.record
  let have_ := l.map.getD []
  let (s, new, all) := readMap l.id (lCTX r) (lDMAP r) ((List.range (lTEAMS r)).drop have_.length) s
  (s.onLaunch l.id (fun l => { l with map := some (have_ ++ new) }), if all then some (have_ ++ new) else none)

/-- What becomes of an accepted launch (R329): it waits, it fails with a status, or it has its header. -/
inductive LaunchRes where
  | wait (s : State)
  | fail (s : State) (status : BitVec 32)
  | ok (s : State) (h : Header)
  deriving DecidableEq, Repr

/-- Step 3 of R329 for launch `id` and the reads of R333. Assumption 21, DEDUCED. -/
def checkKernel (s : State) (id : Nat) (r : BitVec 512) : LaunchRes :=
  let ctx := lCTX r
  let base := lKERNEL r
  match acceptRead s id ctx base 64 with
  | .wait s => .wait s
  | .refused s => .fail s statusBadKernel
  | .data s hb =>
    let h : BitVec 512 := BitVec.ofNat 512 (leNat hb)
    if !headerOk h then .fail s statusBadKernel
    else
      match acceptRead s id ctx (base + recField h 0x20 4) (8 * recField h 0x14 2) with
      | .wait s => .wait s
      | .refused s => .fail s statusBadKernel
      | .data s pb =>
        match acceptRead s id ctx (base + recField h 0x24 4) (8 * recField h 0x0F 1) with
        | .wait s => .wait s
        | .refused s => .fail s statusBadKernel
        | .data s ib =>
          let pe := entriesOf pb (recField h 0x14 2)
          let ie := entriesOf ib (recField h 0x0F 1)
          if !(pe.all patchOk && ie.all inputOk) then .fail s statusBadKernel
          else if (recField h 0x06 1 ≠ 0 && recField h 0x06 1 ≠ lC r) || (recField h 0x07 1 ≠ 0 && recField h 0x07 1 ≠ lP r) then
            .fail s statusBadShape
          else
            match readInputs id ctx (lLPB r) ie s with
            | (s, none) => .wait s
            | (s, some inputs) =>
              .ok s {
                entry := BitVec.ofNat 64 (base + recField h 0x08 4), nv := recField h 0x0C 2
                scbm := if recField h 0x0E 1 = 0xFF then 2 else BitVec.ofNat 2 (recField h 0x0E 1)
                tsram := recField h 0x10 4, seedp := recField h 0x16 2, streamp := recField h 0x18 2, rbtabp := recField h 0x1A 2
                patches := pe.map (fun e => (BitVec.ofNat 64 (base + leNat (e.take 4)), leNat ((e.drop 4).take 2),
                  BitVec.ofNat 8 (leNat ((e.drop 6).take 1)), BitVec.ofNat 8 (leNat ((e.drop 7).take 1))))
                inputs := inputs, shapeC := recField h 0x06 1, shapeP := recField h 0x07 1 }

/-- The handle of a record is good for its issuer (R24, R329 step 2). -/
def ctxOk (s : State) (r : BitVec 512) (part : BitVec 6) (priv : Bool) : Bool :=
  s.handleOk (lCTX r) && (handlePart (lCTX r) == part || priv)

/-- Steps 1 and 2 of R329: the status of the first that fails. Assumption 21, DEDUCED. -/
def recordFails (s : State) (r : BitVec 512) (host : Bool) (part : BitVec 6) (priv : Bool) : Option (BitVec 32) :=
  if !recordOk r host then some statusBadRecord else if !ctxOk s r part priv then some statusStale else none

/-- A die holds at most 4,096 launches that are accepted and not complete (R329). -/
def launchRoom (s : State) (r : BitVec 512) : Bool :=
  decide ((s.launches.filter (fun l => handleDie (lCTX l.record) == handleDie (lCTX r) &&
    l.status ≠ statusBadRecord && l.status ≠ statusStale)).length < 4096)

/-- The recall of a page starts, unless moves under way and queued bring it to the tier. -/
def recallTo (s : State) (obj : BitVec 48) (tier : BitVec 2) : State :=
  match s.pde? obj with
  | some p => if tier.toNat < p.goal.toNat then startMove s obj tier else s
  | none => s

/-- A launch with its kernel read: its teams, behind those of launches accepted earlier, the wake of its context and the recall of its
inputs (R299, R333). -/
def acceptTeams (s : State) (l : Launch) (h : Header) (map : List (BitVec 4 × Dword)) : State :=
  let r := l.record
  let n := map.length
  let teams := (map.zip (List.range n)).map (fun x => ({
    id := s.nextId + x.2, ctx := lCTX r, launch := l.id, number := x.2, c := lC r, p := lP r, array := BitVec.ofNat 2 (lARRAY r)
    hdr := h, dies := x.1.1, off := x.1.2 } : Team))
  let s := { s with
    nextId := s.nextId + n
    teams := s.teams.filter (fun m => m.launch < l.id) ++ teams ++ s.teams.filter (fun m => l.id ≤ m.launch) }
  let i := handleIndex (lCTX r)
  let s := wakeMoves (wakeEntry s i srcLaunch) i
  teams.foldl (fun s m =>
    (teamInputs m).foldl (fun s x =>
      (rangePages x.1 x.2.1).foldl (fun s va =>
        if pageResident s m.ctx x.2.2 va then s
        else
          match gpaOf s m.ctx va with
          | some g => recallTo s (objOf (fld m.ctx 16 6) g) (BitVec.ofNat 2 x.2.2)
          | none => s) s) s) s

/-- Step 3 of R329 for an accepted launch, tried again while it waits. A launch that passes it has arrived (R27, R256): its teams are
candidates. Assumption 21, DEDUCED. -/
def launchKernel (s : State) (id : Nat) : State :=
  match s.launches.find? (fun l => l.id == id) with
  | none => s
  | some l =>
    if !l.kernel then s
    else
      let passed := fun (s : State) => s.onLaunch id (fun l => { l with kernel := false, got := [] })
      match launchMap s l with
      | (s, none) => s
      | (s, some map) =>
        match checkKernel s id l.record with
        | .wait s => s
        | .fail s status => completeLaunch ((passed s).onLaunch id (fun l => { l with status := status, ready := true })) id
        | .ok s h => acceptTeams (passed s) l h map

/-- LAUNCH_RECORD_ACCEPT (R251, R329, R332): the record of a launch queue at its HEAD, or that of the oldest `launch` operation that has
read it. One that passes steps 1 and 2 of R329 is accepted where its die has room; step 3 is made at once if it can be.
Assumption 23, DEDUCED. -/
def execLaunchRecordAccept (record : BitVec 512) (host : Bool) (part : BitVec 6) (s : State) : Result :=
  let op := s.ops.find? (fun o => o.kind == .launch && o.stat == .active && o.progress ≠ 0 && leNat o.payload == record.toNat &&
    fld o.ctx 16 6 == part)
  let head := s.pcbReg part.toNat 0x108
  let tail := s.pcbReg part.toNat 0x110
  if host && head = tail then .next s
  else if !host && op.isNone then .next s
  else
    let issuer := if host then none else op.map (fun o => (o.team, o.sid))
    let priv := !host && (op.map (·.priv)).getD false
    let pass := fun (s : State) =>
      if host then s.setPcb part.toNat 0x108 (BitVec.ofNat 64 ((head.toNat + 1) % 2 ^ 32))
      else match op with
        | some o => s.opDone o
        | none => s
    let id := s.nextId
    let l : Launch := { id := id, record := record, host := host, issuer := issuer }
    let add := fun (l : Launch) => pass { s with nextId := id + 1, launches := s.launches ++ [l] }
    match recordFails s record host part priv with
    | some status => .next (completeLaunch (add { l with status := status, ready := true }) id)
    | none => if launchRoom s record then .next (launchKernel (add { l with kernel := true }) id) else .next s

/-! Wakes as steps of their own (R256, R327, R349). -/

/-- WAKE_REQUEST (R327): source number `src` at an entry. A wake brings pages that are on their way down back (R299). -/
def execWakeRequest (ctx : BitVec 16) (src : BitVec 3) (s : State) : Result :=
  .next (wakeMoves (wakeEntry s ctx.toNat (srcBit src.toNat)) ctx.toNat)

/-- PARK_TIMER_EXPIRY: the TIMER and EVENT conditions of a held park are tested (R256, R327). A wake brings pages that are on their way
down back (R299). -/
def execParkTimerExpiry (ctx : BitVec 16) (s : State) : Result :=
  let t := testCond s ctx.toNat
  .next (if (t.entry ctx.toNat).cond = (s.entry ctx.toNat).cond then t else wakeMoves t ctx.toNat)

/-- FAULT_WAKE (R349): a resolution of a team is over. A wake that comes before the take-off cancels it, and the record is replayed. -/
def execFaultWake (team key : Nat) (s : State) : Result :=
  let s := faultWake s team key
  match s.team? team with
  | some m =>
    let s := if m.faults.isEmpty then wakeMoves s (handleIndex m.ctx) else s
    .next (if m.placed && m.faults.isEmpty then replayEntries s team else s)
  | none => .next s

/-- DEMOTION_THRESHOLD (R297). -/
def execDemotionThreshold (ctx : BitVec 16) (s : State) : Result := .next (demoteContext s ctx.toNat)

/-- RECALL_START (R297, R299). -/
def execRecallStart (ctx : BitVec 16) (s : State) : Result := .next (recallContext s ctx.toNat)

end Sys2Proof.Machine
end

