-- ==== Sys2Proof/Machine/System.lean ====
section
/-! DEFINITION. Context, residency and privileged words (09_control_instructions.md R145; 15_system_instructions.md R253 to R270). -/

namespace Sys2Proof.Machine

/-- The trap of a word whose field is outside its limits: TVAL is the word (R343). -/
def badField (s : State) : Act := .trap .illegalField (s.cs.unit.word.setWidth 64)

/-- A word that names a context by S[sA] (R254): the checks of R24, then its effect. -/
def contextWord (i : Instr) (a : BitVec 6) (f : State → Word → Act) (s : State) : Result :=
  .next (issue i s (fun s =>
    let h : Word := (s.cs.sc a).setWidth 32
    match handleFault s h with
    | some c => .trap c (h.setWidth 64)
    | none => f s h))

/-- One scalar result. -/
def State.result (s : State) (d : BitVec 6) (x : Dword) : State := s.onCs (fun t => t.setSc d x)

/-! Parking and switching (R145, R255 to R257). -/

/-- `yield` (R145). -/
def execYield (s : State) : Result :=
  .next (issue .yield s (fun s =>
    let m := s.csTeam
    let p := fun (x : Team) => handlePart x.ctx ≠ handlePart m.ctx || prioOf s m ≤ prioOf s x
    if m.placed && rival s m p then .ok (selectOthers (takeOff s m.id) m.id) else .ok s))

/-- The sources that a `park` word names, as bits of R256. -/
def parkNames (m e t l r : BitVec 1) : BitVec 6 :=
  (if m = 1 then srcMsg else 0) ||| (if e = 1 then srcEvent else 0) ||| (if t = 1 then srcTimer else 0) |||
  (if l = 1 then srcLaunch else 0) ||| (if r = 1 then srcRecall else 0)

/-- The condition of a strand's `park`. -/
def parkCond (t : Strand) (w : BitVec 4) (named : BitVec 6) (deadline thr : Dword) : ParkCond :=
  { named := named, deadline := if named &&& srcTimer = 0 then none else some deadline
    events := if named &&& srcEvent = 0 then [] else [(t.team, t.sid, w, thr.setWidth 8)] }

/-- Conditions combine (R256). -/
def ParkCond.union (a b : ParkCond) : ParkCond :=
  { named := a.named ||| b.named
    deadline := match a.deadline, b.deadline with
      | some x, some y => some (if x.toNat ≤ y.toNat then x else y)
      | some x, none => some x
      | none, y => y
    events := a.events ++ b.events }

/-- `park` with an enable set (R256). -/
def execPark (w : BitVec 4) (m e t l r : BitVec 1) (a b : BitVec 6) (s : State) : Result :=
  .next (issue (.park w m e t l r a b) s (fun s =>
    let i := handleIndex s.cs.ctx
    let c := s.entry i
    let k := parkCond s.cs w (parkNames m e t l r) (s.cs.sc a) (s.cs.sc b)
    let h := condHolds s k c.latch
    if h ≠ 0 then .ok (s.setEntry i { c with latch := c.latch &&& ~~~k.named, lastWake := h })
    else
      let id := s.cs.team
      let k := match c.cond with | some x => x.union k | none => k
      let s := s.setEntry i { c with cond := some k }
      .ok (takeOff (s.onTeam id (fun m => { m with parkHeld := true })) id)))

/-- Items of a queue that come before a unit in fetch order. -/
def itemsBefore (seq : Nat) (l : List QItem) : List QItem := l.filter (fun i => decide (i.any.seq < seq))

/-- `park end` (R32, R137, R230): the strand ends; nothing behind the word is executed; a trap frame goes with it.
Assumption 28, DEDUCED. -/
def execParkEnd (s : State) : Result :=
  .next (issue .parkEnd s (fun s =>
    let seq := s.cs.unit.seq
    let s := s.leaveBarriers
    let s := s.onCs (fun t => { t with
      parkEnded := true, pfx := {}, fetchReq := none, loops := []
      q := Eng.all.foldl (fun q e => q.set e (itemsBefore seq (q.get e))) t.q
      arec := t.arec ++ (match t.frame with | some f => f.arec.filter (fun e => e.state != .faulted) | none => [])
      frame := none })
    .ok (raiseEnded s s.cs.team s.cs.sid)))

/-- The oldest eligible team of an entry that fits where the issuing team leaves (R257). One that only waits for its parameters counts. -/
def switchTarget (s : State) (i : Nat) : Option Team :=
  let m := s.csTeam
  let v := vacated s m
  s.teams.find? (fun x => x.id ≠ m.id && handleIndex x.ctx == i && eligible s { x with faults := if x.started then x.faults else [] } &&
    tileFits v x true m.die m.tile)

/-- `cswitch` (R257). It waits while the parameters of a team that has never been placed must be resolved. Assumption 24, DEDUCED. -/
def execCswitch (d a : BitVec 6) (s : State) : Result :=
  contextWord (.cswitch d a) a (fun s h =>
    let m := s.csTeam
    if handleDie h ≠ s.cs.die then .ok (s.result d 2)
    else
      match switchTarget s (handleIndex h) with
      | none => .ok (s.result d 1)
      | some x =>
        if !x.faults.isEmpty then .wait
        else match readyTeam s x with
        | (s, none) => .waitWith s
        | (s, some x) =>
          let s' := frameFreed (seat (vacate (s.result d 0) m.id) x m.die m.tile)
          let die := (handleDie x.ctx).toNat
          let p := (handlePart x.ctx).toNat
          .ok (s'.setDeficit die p (s'.deficit die p - ((x.c * x.p * quantum s die : Nat) : Int)))) s

/-! Hints and queries (R258, R259). -/

/-- A wake hint (R258): a parked context takes the new wake time at once; a hint earlier than TIME starts its recall. -/
def setHint (s : State) (i : Nat) (w : Dword) : State :=
  let c := s.entry i
  let hint := if w = 0 then none else some w
  let parked := c.state == .parked || c.state == .swapped
  let wake := if !parked then c.wake else match hint with
    | some x => some x.toNat
    | none => c.est.map (fun e => c.parkStart + e)
  let s := s.setEntry i { c with hint := hint, wake := wake }
  if w ≠ 0 && parked && w.toNat < s.time then recallContext (wakeMoves s i) i else if parked then wakeMoves s i else s

/-- `wakehint` (R258). Assumption 29, DEDUCED. -/
def execWakehint (a b : BitVec 6) (s : State) : Result :=
  contextWord (.wakehint a b) a (fun s h => .ok (setHint s (handleIndex h) (s.cs.sc b))) s

/-- State codes of R26. -/
def CtxState.code : CtxState → Nat
  | .free => 0 | .ready => 1 | .running => 2 | .parked => 3 | .swapped => 4

/-- The status word of R259. -/
def ctxStatus (s : State) (i : Nat) : Dword :=
  let c := s.entry i
  let teams := ((teamsOf s i).filter (·.placed)).length
  BitVec.ofNat 64 (c.state.code + c.prio.toNat * 2 ^ 3 + (if c.hint.isSome then 2 ^ 6 else 0) + c.latch.toNat * 2 ^ 16 +
    c.lastWake.toNat * 2 ^ 24 + min teams 255 * 2 ^ 32)

def execCtxqSt (d a : BitVec 6) (s : State) : Result :=
  contextWord (.ctxqSt d a) a (fun s h => .ok (s.result d (ctxStatus s (handleIndex h)))) s

def execCtxqWake (d a : BitVec 6) (s : State) : Result :=
  contextWord (.ctxqWake d a) a (fun s h =>
    let c := s.entry (handleIndex h)
    let w : Nat := if c.state == .parked || c.state == .swapped then c.wake.getD 0 else (c.hint.getD 0).toNat
    .ok (s.result d (BitVec.ofNat 64 w))) s

/-- Pages of a context in a tier, saturating (R259). -/
def tierCount (s : State) (i : Nat) (tier : BitVec 2) : Nat :=
  min (s.pdes.filter (fun p => handleIndex p.owner == i && p.tier == tier)).length (2 ^ 21 - 1)

def execCtxqTiers (d a : BitVec 6) (s : State) : Result :=
  contextWord (.ctxqTiers d a) a (fun s h =>
    let i := handleIndex h
    .ok (s.result d (BitVec.ofNat 64 (tierCount s i 0 + tierCount s i 1 * 2 ^ 21 + tierCount s i 2 * 2 ^ 42)))) s

/-! Managing contexts (R260 to R263). -/

/-- The record of `ctxnew` is within its limits. Reserved fields are ignored (R4). -/
def ctxRecordOk (r : BitVec 256) : Bool :=
  recField r 0 8 % 4096 == 0 && recField r 8 1 ≤ 3 && recField r 9 1 ≤ 7 && recField r 0xA 1 ≤ 3

/-- The FREE entry of a die that `ctxnew` takes: the lowest-numbered one (assumption 6). -/
def freeEntry (s : State) (die : Nat) : Option Nat :=
  let used := (s.ctxs.filter (fun c => c.2.state != .free)).map (·.1)
  firstFree used.contains (fun k => die * 2 ^ 14 + k) (min (2 ^ 14) (used.length + 1)) 0

/-- A context made from a record (R27, R260). Its ordered sends are counted from 1 (R243). -/
def newContext (s : State) (r : BitVec 256) (part : BitVec 6) (i : Nat) : State :=
  let e := recField r 0x10 8
  let c : Ctx := {
    gen := (s.entry i).gen, part := part, root := BitVec.ofNat 64 (recField r 0 8), profile := BitVec.ofNat 2 (recField r 8 1)
    prio := BitVec.ofNat 3 (recField r 9 1), est := if e = 0 then none else some e }
  { s with sent := s.sent.filter (fun c => c.1 / 256 ≠ i) }.setEntry i (c.enterPark s.time)

def execCtxnew (d a : BitVec 6) (s : State) : Result :=
  .next (issue (.ctxnew d a) s (fun s =>
    let va := s.cs.sc a
    if !aligned va 32 then .trap .misaligned va
    else
      match mtxAccess s s.cs.unit s.cs.p (readReq va 32) with
      | .wait s => .waitWith s
      | .trap s c v => .trapWith s c v
      | .data s imgs =>
        let r : BitVec 256 := (imgs.headD 0).setWidth 256
        if !ctxRecordOk r then .trapWith s .illegalField va
        else
          match freeEntry s (recField r 0xA 1) with
          | none => .ok (s.result d 0)
          | some i =>
            let s := newContext s r s.cs.part i
            .ok (s.result d (((s.entry i).handle i).setWidth 64))))

/-- The next generation of an entry; 0 is never issued (R24). -/
def nextCtxGen (g : BitVec 10) : BitVec 10 := if g = BitVec.allOnes 10 then 1 else g + 1

/-- Teams of an entry are discarded, oldest first, and so are launches whose kernel is still being read. -/
def discardAll (s : State) (i : Nat) : State :=
  let s := (s.teams.filter (fun m => handleIndex m.ctx == i)).foldl (fun s m =>
    match s.team? m.id with
    | some m => discardTeam s m
    | none => s) s
  (s.launches.filter (fun l => l.kernel && handleIndex (lCTX l.record) == i)).foldl (fun s l =>
    completeLaunch (s.onLaunch l.id (fun l => { l with kernel := false, status := statusKilled, ready := true })) l.id) s

/-- The pages of a context and its pins go; freed frames are zero-filled (R262). -/
def releasePages (s : State) (i : Nat) : State :=
  let mine := s.pdes.filter (fun p => handleIndex p.owner == i)
  let frames := (mine.map (fun p => [p.frame] ++ (if p.oldFrame = 0 then [] else [p.oldFrame]) ++
    (match p.mig with | some m => [m.frame] | none => []))).flatten
  let s := frames.foldl flushFrame s
  frameFreed { s.heal frames with
    pdes := (s.pdes.filter (fun p => handleIndex p.owner ≠ i)).map (fun p => { p with pins := p.pins.filter (fun x => handleIndex x.1 ≠ i) })
    mem := frames.foldl zeroFrame s.mem }

/-- `ctxfree` on a PARKED or SWAPPED context (R262). -/
def freeContext (s : State) (i : Nat) : State :=
  let s := discardAll (preemptContext s ((s.entry i).handle i)) i
  let s := (s.units.filter (fun u => handleIndex u.ctx == i)).foldl (fun s u => withdrawUnit s u) s
  let s := releasePages s i
  s.setEntry i { gen := nextCtxGen (s.entry i).gen, part := (s.entry i).part, root := (s.entry i).root, profile := (s.entry i).profile }

/-- `ctxfree` is not possible while the context is READY or RUNNING (R262). -/
def Ctx.busy (c : Ctx) : Bool := c.state == .ready || c.state == .running

def execCtxfree (d a : BitVec 6) (s : State) : Result :=
  contextWord (.ctxfree d a) a (fun s h =>
    let i := handleIndex h
    if (s.entry i).busy then .ok (s.result d 1) else .ok ((freeContext s i).result d 0)) s

/-- A new priority (R260). -/
def setPrio (s : State) (i : Nat) (x : Dword) : State := s.setEntry i { s.entry i with prio := x.setWidth 3 }

def execCtxsetPrio (d a b : BitVec 6) (s : State) : Result :=
  contextWord (.ctxsetPrio d a b) a (fun s h =>
    let x := s.cs.sc b
    if 8 ≤ x.toNat then .trap .illegalField x
    else .ok ((setPrio s (handleIndex h) x).result d 0)) s

/-- A new table root and profile for a parked context, whose cached translations and grants go. -/
def setBind (s : State) (h : Word) (x : Dword) : State :=
  let i := handleIndex h
  let c := s.entry i
  let s := { s with tlb := s.tlb.filter (fun e => !(e.kind == 0 && e.part == c.part && e.root == c.root)) }.dropGrants (fun g => g.ctx == h)
  s.setEntry i { c with root := x &&& ~~~0xFFF, profile := x.setWidth 2 }

/-- Reserved bits of a BIND value. -/
def bindOk (x : Dword) : Bool := x.toNat / 4 % 2 ^ 10 == 0

def execCtxsetBind (d a b : BitVec 6) (s : State) : Result :=
  contextWord (.ctxsetBind d a b) a (fun s h =>
    let x := s.cs.sc b
    if !bindOk x then .trap .illegalField x
    else if (s.entry (handleIndex h)).busy then .ok (s.result d 1)
    else .ok ((setBind s h x).result d 0)) s

/-- `kill` (R27, R263): every team is discarded, and the context is PARKED without condition or latches. -/
def killContext (s : State) (i : Nat) : State :=
  let s := discardAll (preemptContext s ((s.entry i).handle i)) i
  let c := s.entry i
  let c := { c with cond := none, latch := 0, recalling := false, due := 0 }
  match c.state with
  | .parked => s.setEntry i c
  | .swapped => s.setEntry i { c with state := .parked }
  | _ => parkCtx (s.setEntry i c) i

def execKill (d a : BitVec 6) (s : State) : Result :=
  contextWord (.kill d a) a (fun s h =>
    let own := handleIndex s.cs.ctx = handleIndex h
    let s' := killContext s (handleIndex h)
    if own then .okNoSig s' else .ok (s'.result d 0)) s

/-- `halt` (R264). -/
def execHalt (a : BitVec 6) (s : State) : Result :=
  .next (issue (.halt a) s (fun s => .okNoSig (s.haltTeam statusHalted (s.cs.sc a))))

/-! Returning from a trap (R265, R348, R352). -/

/-- The record's FAULTED entries of the stepping strand are issued again. An entry that has trapped keeps that mark: it traps no second
time (R352). -/
def replayCs (s : State) : State :=
  let team := s.cs.team
  let sid := s.cs.sid
  let s := s.onCs (fun t => { t with arec := t.arec.map (fun e => { e with fail := none }) })
  ((s.cs.arec.filter (fun e => e.state == .faulted)).map (·.seq)).foldl (fun s seq =>
    match s.strand? team sid with
    | some t => retryEntry s t seq
    | none => s) s

/-- Both forms: without a trap frame the word is illegal. What the handler has begun is over first. Assumption 62, DESIGN CHOICE. -/
def returnWord (i : Instr) (f : Strand → Frame → Strand) (s : State) : Result :=
  .next (issue i s (fun s =>
    match s.cs.frame with
    | none => badField s
    | some fr => if s.cs.rttWaits fr then .wait else .ok (replayCs (s.onCs (fun t => f t fr)))))

def execRtt (s : State) : Result := returnWord .rtt Strand.rtt s
def execRttNext (s : State) : Result := returnWord .rttNext Strand.rttNext s

/-! Residency words (R266 to R268). -/

/-- The object of S[sA] where it is known: of the running context in the U view, of the partition in the P view. -/
def knownObj (s : State) (x : Dword) : Option Pde :=
  match s.pde? (x.setWidth 48) with
  | none => none
  | some p => if (if s.cs.priv then p.obj.extractLsb' 42 6 == s.cs.part else p.owner == s.cs.ctx) then some p else none

/-- Pins that a context has made, on any object. -/
def pinsMade (s : State) (ctx : Word) : Nat := (s.pdes.map (fun p => (p.pins.filter (fun x => x.1 == ctx)).length)).foldl (· + ·) 0

/-- Pages pinned to T0 that count against a die. -/
def pinnedT0 (s : State) (die : BitVec 2) : Nat := (s.pdes.filter (fun p => p.ceiling == some 0 && handleDie p.owner == die)).length

/-- A limit of R266 stands against a pin. -/
def pinRefused (s : State) (p : Pde) (ceil : BitVec 1) : Bool :=
  255 ≤ p.pins.length || 4096 ≤ pinsMade s s.cs.ctx || (ceil == 0 && p.ceiling != some 0 && 512 ≤ pinnedT0 s (handleDie p.owner))

def execHingePin (d a b : BitVec 6) (s : State) : Result :=
  .next (issue (.hingePin d a b) s (fun s =>
    let x := s.cs.sc b
    if 2 ≤ x.toNat then badField s
    else
      match knownObj s (s.cs.sc a) with
      | none => .ok (s.result d 2)
      | some p =>
        let ceil : BitVec 1 := x.setWidth 1
        if pinRefused s p ceil then .ok (s.result d 1)
        else
          let ctx := s.cs.ctx
          let s := s.onPde p.obj (fun p => { p with pins := p.pins ++ [(ctx, ceil)] })
          let s := if ceil.toNat < p.tier.toNat then recallPinned s p ceil else s
          .ok (s.result d 0)))

/-- The list without its last entry that `p` selects. -/
def dropLast {α : Type} (p : α → Bool) (l : List α) : List α := (l.reverse.eraseP p).reverse

def execHingeUnpin (d a : BitVec 6) (s : State) : Result :=
  .next (issue (.hingeUnpin d a) s (fun s =>
    match knownObj s (s.cs.sc a) with
    | none => .ok (s.result d 2)
    | some p =>
      let ctx := s.cs.ctx
      if p.pins.any (fun x => x.1 == ctx) then
        .ok ((s.onPde p.obj (fun p => { p with pins := dropLast (fun x => x.1 == ctx) p.pins })).result d 0)
      else .ok (s.result d 3)))

/-- The word of R267. -/
def pdeWord (p : Pde) : Dword :=
  BitVec.ofNat 64 (p.tier.toNat + (if p.moving then 4 else 0) + (if p.shared then 8 else 0) + p.pins.length % 256 * 2 ^ 8 +
    p.version.toNat * 2 ^ 32)

def execHingeQ (d a : BitVec 6) (s : State) : Result :=
  .next (issue (.hingeQ d a) s (fun s =>
    .ok (s.result d (match knownObj s (s.cs.sc a) with | some p => pdeWord p | none => BitVec.allOnes 64))))

def execHingeMove (d a b : BitVec 6) (s : State) : Result :=
  .next (issue (.hingeMove d a b) s (fun s =>
    let x := s.cs.sc b
    if 3 ≤ x.toNat then badField s
    else
      match knownObj s (s.cs.sc a) with
      | none => .ok (s.result d 2)
      | some p =>
        let tier : BitVec 2 := x.setWidth 2
        if p.pinBars tier || (p.shared && tier == 2) then .ok (s.result d 1)
        else if p.tier = tier then .ok (s.result d 0)
        else .ok ((startMove s p.obj tier true).result d 0)))

/-! Translations and the hang record (R269, R270). -/

/-- A word that removes cached translations by `drop` and completes once the accesses of the contexts that `uses` selects, which were under
way then, have been performed (R269). Assumption 30, DEDUCED. -/
def invalidateWord (i : Instr) (drop : State → State) (uses : State → Word → Bool) (s : State) : Result :=
  .next (issue i s (fun s =>
    let wait := fun (s : State) (l : InFlight) =>
      if l.over s then Act.ok (s.onCs (fun t => { t with inval := none }))
      else .waitWith (s.onCs (fun t => { t with inval := some (t.unit.seq, l) }))
    match s.cs.inval.filter (·.1 == s.cs.unit.seq) with
    | some (_, l) => wait s l
    | none => let s := drop s; wait s (s.inFlight (uses s))))

/-- The cached translations that `p` selects go, and the guest's grants that `g` selects (R402). -/
def dropEntries (p : State → TlbEntry → Bool) (g : State → Grant → Bool) (s : State) : State :=
  { s with tlb := s.tlb.filter (fun e => !p s e) }.dropGrants (g s)

/-- The contexts of a partition. -/
def ofPart (part : BitVec 6) (ctx : Word) : Bool := handlePart ctx == part

/-- A grant whose page is reached through stage 2 or host memory, for a partition. -/
def Grant.ofPart (g : Grant) (part : BitVec 6) : Bool := fld g.ctx 16 6 == part

/-- The stage-2 address of a grant's page, through an alias window too (R358, R363); none for host memory and object pages. -/
def Grant.stage2? (s : State) (part : BitVec 6) (g : Grant) : Option Nat :=
  if g.gpa < 0x0040000000000000 then aliasOf s part g.gpa else if g.gpa < 0x0041000000000000 then some g.gpa else none

/-- The grant's translation uses the stage-2 entry that covers an address (R269, R402). -/
def Grant.uses (s : State) (part : BitVec 6) (addr : Nat) (g : Grant) : Bool :=
  g.ofPart part && (match g.stage2? s part with
    | some b => (b ≤ addr && addr < b + 2 ^ g.log2) || s.tlb.any (fun e => e.kind == 1 && e.part == part && e.covers addr && e.covers b)
    | none => false)

/-- The region entries of a partition's tables come into effect (R286): entry `i` of the 64-byte entries at 0x1_0000 of its block.
Assumption 43, DEDUCED. -/
def loadRegions (s : State) (part : BitVec 6) : State :=
  let base := part.toNat * 0x20000 + 0x10000
  let mine := s.pcb.filter (fun c => base ≤ c.1 && c.1 < base + 0x10000)
  { s with
    regions := mine.foldl (fun r c =>
        let k := part.toNat * 1024 + (c.1 - base) / 64
        Sparse.set 0 r k (Sparse.get 0 r k ||| ((BitVec.ofNat 512 c.2.toNat) <<< (8 * ((c.1 - base) % 64)))))
      (s.regions.filter (fun r => r.1 / 1024 ≠ part.toNat)) }

/-- `tlbinv.part`: the entries of a partition go, and what its region tables hold takes effect (R269, R286). -/
def execTlbinvPart (a : BitVec 6) (s : State) : Result :=
  let part := fun (s : State) => ((s.cs.sc a).setWidth 6 : BitVec 6)
  invalidateWord (.tlbinvPart a) (fun s => loadRegions (dropEntries (fun s e => e.kind != 0 && e.part == part s)
    (fun s g => g.ofPart (part s) && (g.stage2? s (part s)).isSome) s) (part s)) (fun s => ofPart (part s)) s

def execTlbinvS2 (a : BitVec 6) (s : State) : Result :=
  invalidateWord (.tlbinvS2 a) (dropEntries (fun s e => e.kind == 1 && e.part == s.cs.part && e.covers (s.cs.sc a).toNat)
    (fun s g => g.uses s s.cs.part (s.cs.sc a).toNat)) (fun s => ofPart s.cs.part) s

/-- A fabric-MMU entry serves packets of other devices, which are performed in one step: the word has no access to wait for (R269). -/
def execTlbinvFab (a : BitVec 6) (s : State) : Result :=
  invalidateWord (.tlbinvFab a) (dropEntries (fun s e => e.kind == 2 && e.part == s.cs.part && e.covers ((s.cs.sc a).toNat % 2 ^ 54))
    (fun _ _ => false)) (fun _ _ => false) s
def execTlbinvAll (s : State) : Result :=
  invalidateWord .tlbinvAll (dropEntries (fun _ e => e.kind != 0) (fun s g => (g.stage2? s (fld g.ctx 16 6)).isSome)) (fun _ _ => true) s

/-- Entries of a partition that came from a host process table with a root, or from every root for root 0 (R269). -/
def hostEntries (part : BitVec 6) (root : Dword) (e : TlbEntry) : Bool :=
  e.kind == 0 && e.part == part && (root == 0 || e.root &&& ~~~0xFFF == root &&& ~~~0xFFF)

/-- The contexts of a partition whose table has a root, or all for root 0. -/
def rootedAt (s : State) (part : BitVec 6) (root : Dword) (ctx : Word) : Bool :=
  ofPart part ctx && (root == 0 || (s.ctx ctx).root &&& ~~~0xFFF == root &&& ~~~0xFFF)

/-- The cached translations from a partition's host tables with a root go, the walker lines held for them, and the grants (R269, R402). -/
def dropRoot (s : State) (part : BitVec 6) (root : Dword) : State :=
  dropEntries (fun _ e => hostEntries part root e) (fun s g => rootedAt s part root g.ctx)
    { s with walker := s.walker.filter (fun w => !(w.part == part && (root == 0 || w.root &&& ~~~0xFFF == root &&& ~~~0xFFF))) }

def execTlbinvHost (a : BitVec 6) (s : State) : Result :=
  invalidateWord (.tlbinvHost a) (fun s => dropRoot s s.cs.part (s.cs.sc a)) (fun s => rootedAt s s.cs.part (s.cs.sc a)) s

def execHangRd (d a b : BitVec 6) (s : State) : Result :=
  .next (issue (.hangRd d a b) s (fun s =>
    let slot := s.cs.sc a
    let n := s.cs.sc b
    if 4 ≤ slot.toNat || 16 ≤ n.toNat then badField s
    else .ok (s.result d (Sparse.get 0 s.hangRec (hangKey s.cs (slot.setWidth 2) n.toNat)))))

end Sys2Proof.Machine
end

