-- ==== Sys2Proof/Machine/Fabric.lean ====
section
/-! DEFINITION. Packets that arrive from the fabric, and the commands about groups and the fabric (26_fabric.md R378 to R394;
14_transfer_instructions.md R237 to R252; 15_system_instructions.md R254; 22_faults_and_translation.md R364). -/

namespace Sys2Proof.Machine

/-! Packets (R379). -/

/-- The bits of ARG that R379 calls zero; those of DIRINV, CTXOP and MBOX are the model's own layout.
Assumption 35, DESIGN CHOICE. -/
def argOk (p : Packet) : Bool :=
  let hi := fun (n : Nat) => p.arg.toNat / 2 ^ n == 0
  if p.type = ptREAD || p.type = ptWRITE then hi 58
  else if p.type = ptATOMIC then hi 63
  else if p.type = ptRESP then hi 8
  else if p.type = ptMBOX then hi 38
  else if p.type = ptCTXOP then hi 35
  else if p.type = ptDIRINV then hi 0
  else if 0x10 ≤ p.type.toNat && p.type.toNat ≤ 0x16 then hi 51
  else if 0x18 ≤ p.type.toNat && p.type.toNat ≤ 0x1A then hi 46
  else true

/-- The payload is LEN beats of 32 bytes, 128 at most; a READ, whose LEN is the length that it asks for, has none (R378). -/
def lenOk (p : Packet) : Bool :=
  decide (p.len.toNat ≤ 128) && (if p.type = ptREAD then p.payload.isEmpty else p.payload.length == 32 * p.len.toNat)

/-- A packet is a request: one of VC 0, or one of a request's type that has moved to VC 3. -/
def isRequest (p : Packet) : Bool :=
  p.type != ptRESP && (p.vc == 0 || (p.vc == 3 && [ptREAD, ptWRITE, ptATOMIC, ptDIRINV, ptCTXOP, ptMBOX].contains p.type))

/-- A packet that is not listed is dropped and logged; a request is answered with status 2. -/
def dropPacket (s : State) (p : Packet) : State :=
  let s := s.log p.ddie.toNat logPacket p.arg.toNat
  if isRequest p then respTo s p 2 [] else s

/-- A packet of the types `ty` that is in order has the effect `f`, once the device is READY (R407). -/
def packetOf (ty : List (BitVec 6)) (p : Packet) (s : State) (f : State → State) : Result :=
  whenReady s (fun s => if ty.contains p.type && argOk p && lenOk p then f s else dropPacket s p)

/-! Requests of other devices (R364, R381, R382, R392). -/

/-- The window offset of a request. -/
def reqOff (p : Packet) : Nat := dfld p.arg 0 54

/-- The stream of a request: source device, die and class. -/
def reqStream (p : Packet) : Nat := p.sdev.toNat * 64 + p.sdie.toNat * 16 + dfld p.arg 54 4

/-- `n` bytes of the window through the fabric MMU, with their data offsets, or the wait or refusal that the first of them meets. -/
def fabBytes (part : BitVec 6) (k : AKind) (off : Nat) : Nat → Nat → State → State × Except TRes (List (Nat × Loc))
  | 0, _, s => (s, .ok [])
  | n + 1, o, s =>
    match fabricMmu s part (off + o) k with
    | (s, .ok l) =>
      let (s, r) := fabBytes part k off n (o + 1) s
      (s, r.map ((o, l) :: ·))
    | (s, r) => (s, .error r)

/-- The atomic of an ATOMIC packet (R174, R379): operation and CAS stand in ARG; the payload holds the operand and the value to expect, of
16 bytes each, then kind and size. Assumption 68, DESIGN CHOICE. -/
def packetAtom (p : Packet) : AtomOp :=
  let size := leNat ((p.payload.drop 33).take 1)
  { kind := if p.arg.getLsbD 62 then 2 else if leNat ((p.payload.drop 32).take 1) = 1 then 1 else 0
    op := p.arg.extractLsb' 58 3, trap := p.arg.getLsbD 61, size := if size = 4 || size = 16 then size else 8
    b := BitVec.ofNat 128 (leNat (p.payload.take 16)), expect := BitVec.ofNat 128 (leNat ((p.payload.drop 16).take 16)) }

/-- The bytes that a WRITE stores: its beats from the byte of its offset on, as many as count (assumption 68). -/
def writeData (p : Packet) : List Byte :=
  let l := p.payload.drop (reqOff p % 32)
  if p.bytes = 0 then l else l.take p.bytes

/-- Where the bytes begin that a request touches, and their number: a READ takes whole beats. -/
def reqBase (p : Packet) : Nat := if p.type = ptREAD then reqOff p / 32 * 32 else reqOff p
def reqLen (p : Packet) : Nat :=
  if p.type = ptATOMIC then (packetAtom p).size else if p.type = ptWRITE then (writeData p).length else 32 * p.len.toNat

/-- What a request asks of memory; its addresses are window offsets. -/
def packetReq (p : Packet) : Req :=
  { kind := if p.type = ptATOMIC then .atomic else if p.type = ptWRITE then .store else .load
    write := p.type ≠ ptREAD, atom := if p.type = ptATOMIC then some (packetAtom p) else none
    elems := [⟨0, BitVec.ofNat 64 (reqBase p), reqLen p⟩]
    base := List.replicate (ceilDiv (reqLen p) 512) 0, data := bytesImg (writeData p) }

/-- The request is performed and answered, or refused; `false` while the host holds a copy of a line (R374) or a channel changes its rate
(R284), with what the device asks the host for. Assumption 44, DEDUCED. -/
def performRequest (s : State) (p : Packet) : State × Bool :=
  let q := packetReq p
  let n := reqLen p
  if 4096 < n || (p.type = ptATOMIC && reqOff p % n ≠ 0) then (respTo s p 2 [], true)
  else
    match fabBytes p.part q.akind (reqBase p) n 0 s with
    | (s', .error (.fault _)) => (respTo s' p 2 [], true)
    | (_, .error r) => (askFor s r, false)
    | (s', .ok plan) =>
      match performPlan s s' { ctx := 0, die := p.ddie } q false plan with
      | .done s imgs => (respTo s p 0 (if p.type = ptWRITE then [] else imgBytes imgs n), true)
      | .again s => (s, false)
      | .trap .uncorrectable v => (respTo (s'.log p.ddie.toNat logUncorrectable v.toNat) p 2 [], true)
      | _ => (respTo s' p 2 [], true)

/-- The turn of a request in its stream has come. -/
def inTurn (s : State) (p : Packet) : Bool := p.seq = 0x7FFF || p.seq.toNat = Sparse.get 0 s.fabNext (reqStream p)

/-- A request waits at the target; a full queue of 512 answers NACK (R392). -/
def holdRequest (s : State) (p : Packet) : State :=
  if s.fabHeld.contains p then s
  else if 512 ≤ (s.fabHeld.filter (fun x => x.ddie == p.ddie)).length then respTo s p 1 []
  else { s with fabHeld := s.fabHeld ++ [p] }

/-- A request in its turn is performed, and its stream goes on. -/
def serveRequest (s : State) (p : Packet) : State :=
  if !inTurn s p then holdRequest s p
  else
    match performRequest s p with
    | (s', false) => holdRequest s' p
    | (s', true) =>
      { s' with
        fabHeld := s'.fabHeld.erase p
        fabNext := if p.seq = 0x7FFF then s'.fabNext else Sparse.set 0 s'.fabNext (reqStream p) (nextStreamSeq p.seq.toNat) }

/-- Held requests of the stream whose turn has come follow. -/
def drainStream (key : Nat) : Nat → State → State
  | 0, s => s
  | n + 1, s =>
    match s.fabHeld.find? (fun p => p.seq ≠ 0x7FFF && reqStream p == key && inTurn s p) with
    | none => s
    | some p => drainStream key n (serveRequest s p)

/-- FABRIC_REQUEST_ARRIVAL (R382). -/
def execFabricRequestArrival (p : Packet) (s : State) : Result :=
  packetOf [ptREAD, ptWRITE, ptATOMIC] p s (fun s => drainStream (reqStream p) s.fabHeld.length (serveRequest s p))

/-! Answers (R379, R392). -/

def State.dropPending (s : State) (xid : Nat) : State := { s with pending := s.pending.filter (fun x => x.xid ≠ xid) }

/-- Bytes of an answer into images: the answer to a READ holds whole beats. -/
def answerBytes (x : Pending) (p : Packet) (imgs : List Vec) : List Vec :=
  let skip := if x.pkt.type = ptREAD then reqOff x.pkt % 32 else 0
  ((p.payload.drop skip).take x.n).zipIdx.foldl (fun imgs b => setImg imgs (x.off + b.2) b.1) imgs

/-- A record entry fails: the others of its packets no longer matter. One that has trapped traps no second time (R352). -/
def failEntry (s : State) (x : Pending) (seq : Nat) : State :=
  let s := { s with pending := s.pending.filter (fun y => y.acc ≠ some seq) }
  let f := fun (e : RecEntry) => { e with state := .faulted, key := 0, fail := if e.trapped then none else some (.fabricError, e.req.vaOf x.off) }
  s.onStrand x.team x.sid (fun t => (t.onEntry seq f).onMreq seq f)

/-- The address at which an operation's request to another device failed. -/
def opVa (o : XOp) (read : Bool) (off : Nat) : Dword :=
  match o.kind with
  | .copy | .copyMmt =>
    if read then o.y + BitVec.ofNat 64 (o.progress + o.payload.length + off) else o.x + BitVec.ofNat 64 (o.progress + off)
  | .gsend | .gqpush | .grecv | .gready | .gunready => o.y + BitVec.ofNat 64 off
  | _ => o.x + BitVec.ofNat 64 off

/-- The answer to a memory request. -/
def memoryAnswer (s : State) (x : Pending) (p : Packet) (ok : Bool) : State :=
  match x.acc with
  | some seq =>
    if ok then
      let f := fun (e : RecEntry) => { e with req := { e.req with part := answerBytes x p e.req.part } }
      s.onStrand x.team x.sid (fun t => (t.onEntry seq f).onMreq seq f)
    else failEntry s x seq
  | none =>
    match x.op.bind s.op? with
    | none => s
    | some o =>
      if ok then s.onOp o.id (fun o => { o with part := answerBytes x p o.part })
      else ({ s with pending := s.pending.filter (fun y => y.op ≠ some o.id) }).opFail o .fabricError (opVa o (x.pkt.type == ptREAD) x.off)

/-- The answer to an MBOX (R252): a check keeps it for its word; a write is done, also where its context has gone since the check, or it
has met a device that cannot be reached. Assumption 35, DESIGN CHOICE. -/
def mailAnswer (s : State) (o : XOp) (p : Packet) (status : Nat) : State :=
  let c : Cause := if p.payload.isEmpty then .fabricError else Cause.ofCode (BitVec.ofNat 8 (leNat (p.data.take 1)))
  if o.isCheck then s.onOp o.id (fun o => { o with answered := [(status, c)] })
  else if status ≠ 0 && p.payload.isEmpty then s.opFail o .fabricError o.x
  else s.opDone o

/-- The answer to a group packet, an MBOX or a collective packet. -/
def messageAnswer (s : State) (x : Pending) (p : Packet) (status : Nat) : State :=
  let s := if x.pkt.type = ptGADV && status = 2 then s.dropUnit x.pkt.unit else s
  match x.op.bind s.op? with
  | none => s
  | some o =>
    if x.pkt.type = ptMBOX then mailAnswer s o p status
    else if x.pkt.type = ptCCTL || x.pkt.type = ptCRED then
      if status = 0 then collAnswered s o p.data else collFinish { s with pending := s.pending.filter (fun y => y.op ≠ some o.id) } o cUNAVAILABLE
    else if status = 2 then s.opFail o .fabricError (BitVec.ofNat 64 x.pkt.group)
    else s

/-- RESP_ARRIVAL (R379): a request completes or is refused; one that is NACKed is kept to be sent again. -/
def execRespArrival (p : Packet) (s : State) : Result :=
  packetOf [ptRESP] p s (fun s =>
    match s.pending.find? (fun x => x.xid == p.xid) with
    | none => s
    | some x =>
      let status := dfld p.arg 0 8
      if status = 1 then { s with pending := s.pending.map (fun y => if y.xid == x.xid then { y with nacked := true } else y) }
      else
        let s := s.dropPending x.xid
        if x.pkt.type = ptREAD || x.pkt.type = ptWRITE || x.pkt.type = ptATOMIC then memoryAnswer s x p (status = 0)
        else messageAnswer s x p status)

/-! Messages that are sent again (R384, R390, R392). -/

/-- A packet that waits to be sent again meets a target that cannot take it: its word has FABRIC_ERROR (R381, R408). -/
def unreachable (s : State) (x : Pending) : State :=
  let s := s.dropPending x.xid
  if x.pkt.type = ptREAD || x.pkt.type = ptWRITE || x.pkt.type = ptATOMIC then memoryAnswer s x x.pkt false
  else messageAnswer s x { x.pkt with payload := [] } 2

/-- A group message of this device leaves again; it stays where no readiness is known. -/
def resendMessage (s : State) (x : Pending) : State :=
  let clear := fun (s : State) => { s with pending := s.pending.map (fun y => if y.xid == x.xid then { y with nacked := false } else y) }
  match armedUnit s x.pkt.group x.pkt.part with
  | some u => deliver (clear s) u { x.pkt.aim true false 0 with ddev := s.devNum }
  | none =>
    match routeMsg (clear s) x.pkt with
    | .sent s' => s'
    | .fetch => if s.out.contains (.readiness x.pkt.group) then s else s.send (.readiness x.pkt.group)
    | .unreachable => unreachable s x

/-- A request may leave again: towards a device that is not a G4, once no earlier one of its stream is unanswered (R382). -/
def mayLeave (s : State) (x : Pending) : Bool :=
  match streamOf x.pkt with
  | some key => !(oneAtATime s x.pkt.ddev && streamBusy s key x.xid)
  | none => true

/-- FABRIC_NACK_RESEND (R382, R392). -/
def execFabricNackResend (xid : Nat) (s : State) : Result :=
  match s.pending.find? (fun x => x.xid == xid && x.nacked && x.pkt.type ≠ ptGSEND && mayLeave s x) with
  | none => .next s
  | some x =>
    .next (if carries s x.pkt.type x.pkt.ddev then
        sendPacket { s with pending := s.pending.map (fun y => if y.xid == xid then { y with nacked := false } else y) } x.pkt
      else unreachable s x)

/-- PARKING_NACK_RETRY (R384). -/
def execParkingNackRetry (xid : Nat) (s : State) : Result :=
  match s.pending.find? (fun x => x.xid == xid && x.nacked && x.pkt.type == ptGSEND) with
  | none => .next s
  | some x => .next (resendMessage s x)

/-- A packet has waited at the head of its queue for the time of the deadlock-recovery timer, 200 µs or what the configuration record says,
and may move to VC 3: its route leads over the escape port, unless it stays in this package (R393, R409). -/
def stuck (s : State) (p : Packet) : Bool :=
  p.vc != 3 && !p.esc && (p.ddev == s.devNum || escapes s p.ddev) && decide (p.since + s.cfgField 0x14 4 200 * 1000 ≤ s.time)

/-- The packet in VC 3. -/
def escaped (s : State) (p : Packet) : Packet :=
  let p := { p with vc := 3, esc := true }
  { p with port := leavePort s p }

/-- The die at whose head a packet waits: that of its source, or die 0 for what the group block of this device passes on (R383, R394). -/
def headDie (s : State) (p : Packet) : Nat :=
  if p.sdev = s.devNum && p.type ≠ ptGREFUSE && p.type ≠ ptGREG && !p.toPark && !p.parkedBit then p.sdie.toNat else 0

/-- DEADLOCK_RECOVERY_TIMER (R393): the packet of number `xid`, at the head of a queue to another device, between dies, or in the switch,
moves to VC 3. The dies count the moves at their own heads (R394). -/
def execDeadlockRecoveryTimer (xid : Nat) (s : State) : Result :=
  let hit := fun (p : Packet) => p.xid == xid && stuck s p
  let gone := fun (s : State) => { s with pending := s.pending.map (fun x => if x.xid == xid then { x with escaped := true } else x) }
  let counted := fun (s : State) (p : Packet) => countEvent s (0x2400 + 16 * headDie s p) false
  match s.out.find? (fun o => match o with | .packet p => hit p | _ => false),
      s.due.find? (fun d => match d with | .packet p => hit p | _ => false),
      s.out.find? (fun o => match o with | .port _ p => hit p | _ => false) with
  | some (.packet p), _, _ =>
    .next (gone (counted { s with out := s.out.map (fun o => if o = .packet p then .packet (escaped s p) else o) } p))
  | _, some (.packet p), _ =>
    .next (gone (counted { s with due := s.due.map (fun d => if d = .packet p then .packet (escaped s p) else d) } p))
  | _, _, some (.port d p) => .next { s with out := s.out.map (fun o => if o = .port d p then .port d { p with vc := 3, esc := true } else o) }
  | _, _, _ => .next s

/-! Context operations and mailboxes of other dies and devices (R252, R254). -/

/-- CTXOP_ARRIVAL (R254): an operation on an entry of this Keyring. `op`: 0 priority, 1 table root and profile, 2 free, 3 kill, 4 wake
hint, 5 wake by source `val`. Assumption 35, DESIGN CHOICE. -/
def execCtxopArrival (op : BitVec 3) (handle : BitVec 32) (val : BitVec 64) (s : State) : Result :=
  let i := handleIndex handle
  .next (if !s.handleOk handle then s
    else match op.toNat with
      | 0 => if val.toNat < 8 then setPrio s i val else s
      | 1 => if (s.entry i).busy || !bindOk val then s else setBind s handle val
      | 2 => if (s.entry i).busy then s else freeContext s i
      | 3 => killContext s i
      | 4 => setHint s i val
      | 5 => if val.toNat < 6 then wakeMoves (wakeEntry s i (srcBit val.toNat)) i else s
      | _ => s)

/-- MBOX_ARRIVAL (R252): the owning die checks the handle, and writes the mailbox unless the check alone is asked for.
Assumption 35, DESIGN CHOICE. -/
def execMboxArrival (p : Packet) (s : State) : Result :=
  packetOf [ptMBOX] p s (fun s =>
    let h : Word := p.arg.setWidth 32
    let no := fun (c : Cause) => respTo s p 2 (leBytes 1 c.code.toNat)
    if !s.handleOk h then no .staleHandle
    else if handlePart h ≠ p.part && !p.arg.getLsbD 36 then no .protection
    else if p.arg.getLsbD 37 then respTo s p 0 []
    else respTo (writeMailbox s h (p.arg.extractLsb' 32 3) (p.arg.getLsbD 35) (BitVec.ofNat 64 (leNat (p.data.take 8)))) p 0 [])

/-! Readiness (R385 to R388). -/

/-- GADV_AT_SWITCH: one more for the port of arrival. -/
def execGadvAtSwitch (p : Packet) (port : BitVec 8) (s : State) : Result :=
  packetOf [ptGADV] p s (fun s => (s.setCount p.group port (s.count p.group port + 1)).emitPort (Config.switchPort p.ddev) p)

/-- GADV_AT_HOME (R385): the unit is appended to the list, and the oldest parked message rides on the answer. Where the device cannot be
answered, the sender of that message has FABRIC_ERROR (R408). -/
def execGadvAtHome (p : Packet) (s : State) : Result :=
  packetOf [ptGADV] p s (fun s =>
    match s.group? p.group p.part with
    | none => respTo s { p with ddev := s.devNum } 2 []
    | some g =>
      let r : Reg := { dev := p.sdev, unit := p.unit }
      let g := { g with regs := g.regs ++ [r] }
      match g.parked with
      | [] =>
        sendPacket (s.setGroup p.group g) { p with type := ptGREG, ddev := p.sdev, ddie := p.sdie, sdev := s.devNum, sdie := 0 }
      | m :: l =>
        let s := s.setGroup p.group { g.take r with parked := l }
        let s := if p.sdev = s.devNum then s else lowerPort s p.group p.sdev
        sendOrFail s { m.aim true true p.unit with
          type := ptGREG, ddev := p.sdev, ddie := p.sdie, xid := p.xid, last := m.xid, toPark := false } m)

/-- GREG_ARRIVAL (R385): the `gready` completes, and the unit is armed or takes the message that the answer carries. -/
def execGregArrival (p : Packet) (s : State) : Result :=
  packetOf [ptGREG] p s (fun s =>
    let s := match s.pending.find? (fun x => x.xid == p.xid && x.pkt.type == ptGADV) with
      | some x =>
        let s := s.dropPending x.xid
        match x.op.bind s.op? with
        | some o => s.opDone o
        | none => s
      | none => s
    if p.parkedBit then
      let m : Packet := { p with type := ptGSEND, xid := p.last, last := 0 }
      let s := if homeDev p.group = s.devNum then s else lowerPort s p.group s.devNum
      match s.unit? p.unit with
      | some u => if u.group.toNat == p.group && u.waiting.isNone then deliver (s.onUnit u.id (fun u => { u with armed := true })) u m else refuse s m
      | none => refuse s m
    else s.onUnit p.unit (fun u => if u.group.toNat == p.group then { u with armed := true } else u))

/-! Group messages (R387). -/

/-- GSEND_AT_SWITCH. -/
def execGsendAtSwitch (p : Packet) (port : BitVec 8) (s : State) : Result := packetOf [ptGSEND] p s (fun s => steer s p port)

/-- GREFUSE_AT_SWITCH: the switch step again; a refusal that is under way to a device only passes. -/
def execGrefuseAtSwitch (p : Packet) (port : BitVec 8) (s : State) : Result :=
  packetOf [ptGREFUSE] p s (fun s =>
    if p.targeted then s.emitPort (Config.switchPort p.ddev) p else steer s { p with type := ptGSEND } port)

/-- GSEND_AT_DEVICE: a targeted message takes its unit, another one the oldest armed unit. -/
def execGsendAtDevice (p : Packet) (s : State) : Result :=
  packetOf [ptGSEND] p s (fun s =>
    let u := if p.targeted && p.unit ≠ 0 then
        s.units.find? (fun u => u.id == p.unit && u.group.toNat == p.group && fld u.ctx 16 6 == p.part && u.waiting.isNone)
      else armedUnit s p.group p.part
    match u with
    | some u => deliver s u p
    | none => refuse s p)

/-- GSEND_AT_HOME. -/
def execGsendAtHome (p : Packet) (s : State) : Result := packetOf [ptGSEND] p s (fun s => parkAtHome s { p.aim false false 0 with toPark := false })

/-- GREFUSE_AT_SENDER (R390): the count of the device that refused is lowered, and the message leaves again. -/
def execGrefuseAtSender (p : Packet) (s : State) : Result :=
  packetOf [ptGREFUSE] p s (fun s =>
    match s.pending.find? (fun x => x.xid == p.xid && x.pkt.type == ptGSEND) with
    | none => s
    | some x =>
      let m := { p.aim false false 0 with type := ptGSEND, ddev := homeDev p.group, last := 0 }
      let s := lowerCount s p.group p.last
      let s := { s with pending := s.pending.map (fun y => if y.xid == x.xid then { y with pkt := m, nacked := true, bounces := y.bounces + 1 } else y) }
      resendMessage s { x with pkt := m })

/-- TARGETED_REFUSAL_AT_HOME (R387): the unit leaves the list, and the message is matched again ahead of the others. -/
def execTargetedRefusalAtHome (p : Packet) (s : State) : Result :=
  packetOf [ptGREFUSE] p s (fun s =>
    match s.group? p.group p.part with
    | none => respTo s { p with ddev := s.devNum } 2 []
    | some g =>
      let g := g.drop (BitVec.ofNat 10 p.last) p.unit
      matchGroup s p.group { g with parked := { p.aim false false 0 with type := ptGSEND, last := 0 } :: g.parked })

/-- GACCEPT_ARRIVAL (R247): the `gsend` completes; a later ordered send of its key may then leave. -/
def execGacceptArrival (p : Packet) (s : State) : Result :=
  packetOf [ptGACCEPT] p s (fun s =>
    match s.pending.find? (fun x => x.xid == p.xid && x.pkt.type == ptGSEND) with
    | none => s
    | some x =>
      let s := s.dropPending x.xid
      match x.op.bind s.op? with
      | some o => s.opDone o
      | none => s)

/-- GCONS_ARRIVAL (R387). -/
def execGconsArrival (p : Packet) (s : State) : Result :=
  packetOf [ptGCONS] p s (fun s =>
    match s.group? p.group p.part with
    | none => s
    | some g => s.setGroup p.group (g.drop p.sdev p.unit))

/-- GWDRAW_ARRIVAL (R388): at the home the unit leaves the list. From the home of a group that was destroyed it withdraws the member's
unit (R383). -/
def execGwdrawArrival (p : Packet) (s : State) : Result :=
  packetOf [ptGWDRAW] p s (fun s =>
    if homeDev p.group = s.devNum then
      let s := if p.sdev = s.devNum then s else lowerPort s p.group p.sdev
      match s.group? p.group p.part with
      | none => s
      | some g => s.setGroup p.group (g.drop p.sdev p.unit)
    else
      match s.units.find? (fun u => u.id == p.unit && u.group.toNat == p.group && fld u.ctx 16 6 == p.part) with
      | some u => withdrawUnit s u
      | none => s)

/-- READINESS_CACHE_REFRESH (R390). -/
def execReadinessCacheRefresh (group : BitVec 24) (entries : List (Nat × Nat)) (s : State) : Result :=
  let g := group.toNat
  whenReady s (fun s => { setReadiness s g entries with out := s.out.filter (· ≠ .readiness g) })

/-! Reduction slots (R237 to R241, R391). -/

def execCctlOpenArrival (p : Packet) (s : State) : Result := packetOf [ptCCTL] p s (fun s => slotOpen s p)
def execCctlCloseArrival (p : Packet) (s : State) : Result := packetOf [ptCCTL] p s (fun s => slotClose s p)
def execCredArrival (p : Packet) (s : State) : Result := packetOf [ptCRED] p s (fun s => slotContribute s p)
def execCresArrival (p : Packet) (s : State) : Result := packetOf [ptCRES] p s (fun s => collResult s p)
def execSlotTimeout (slot : Nat) (s : State) : Result := .next (slotTimeout s slot)
def execCollLostContact (op : Nat) (s : State) : Result := .next (collLost s op)

/-! Group commands (R383). -/

/-- RESULT of GRPSTAT. -/
def State.groupResult (s : State) (r : Nat) : State := s.setBar 0x2008 (BitVec.ofNat 64 r)

/-- GROUP_CREATE. -/
def execGroupCreate (part : BitVec 6) (plim : BitVec 16) (index : BitVec 14) (s : State) : Result :=
  .next (if 4096 < plim.toNat then s.groupResult 3
    else if s.groups.any (fun c => c.1 == index.toNat) then s.groupResult 1
    else (s.setGroup index.toNat { part := part, plim := if plim = 0 then 64 else plim.toNat }).groupResult 0)

/-- A group goes: its units are withdrawn, here or by GWDRAW at their devices, and the senders of its parked messages get FABRIC_ERROR.
Assumption 47, DEDUCED. -/
def destroyGroup (s : State) (index : Nat) (g : Group) : State :=
  let group := s.devNum.toNat * 2 ^ 14 + index
  let s := { s with groups := s.groups.filter (fun c => c.1 ≠ index) }
  let s := g.parked.foldl (fun s p => respTo s { p with ddev := s.devNum, ddie := 0 } 2 []) s
  let s := (s.units.filter (fun u => u.group.toNat == group && fld u.ctx 16 6 == g.part)).foldl (fun s u => withdrawUnit s u) s
  (g.regs.filter (fun r => r.dev ≠ s.devNum)).foldl (fun s r => sendPacket s {
    type := ptGWDRAW, vc := 2, ddev := r.dev, sdev := s.devNum, part := g.part, arg := gArg group 0 false false false r.unit }) s

/-- GROUP_DESTROY. -/
def execGroupDestroy (index : BitVec 14) (s : State) : Result :=
  match s.groups.find? (fun c => c.1 == index.toNat) with
  | none => .next (s.groupResult 2)
  | some c => .next ((destroyGroup s index.toNat c.2).groupResult 0)

/-- CLEAR_PARTITION. -/
def execClearPartition (part : BitVec 6) (s : State) : Result :=
  let s := (s.groups.filter (fun c => c.2.part == part)).foldl (fun s c => destroyGroup s c.1 c.2) s
  .next ((clearPartSlots s part).groupResult 0)

/-! Fabric registers (R389, R408). -/

/-- A team of the partition is placed. -/
def partPlaced (s : State) (part : BitVec 6) : Bool := s.teams.any (fun m => m.placed && fld m.ctx 16 6 == part)

/-- FABPART_WRITE. -/
def execFabpartWrite (part : BitVec 6) (val : BitVec 64) (s : State) : Result :=
  .next (if partPlaced s part then s else s.setBar (0x2200 + 8 * part.toNat) (val &&& 0x183FF))

/-- FABID_WRITE: the number is assigned once. -/
def execFabidWrite (val : BitVec 64) (s : State) : Result :=
  .next (if s.assigned || !val.getLsbD 63 then s else s.setBar 0x2100 (val &&& 0x80000000000003FF))

/-- DOMMAP_WRITE. -/
def execDommapWrite (dev : BitVec 10) (val : BitVec 64) (s : State) : Result := .next (s.setBar (0x8000 + 8 * dev.toNat) (val &&& 0xFFE0))

end Sys2Proof.Machine
end

