-- ==== Sys2Proof/Machine/Host.lean ====
section
/-! DEFINITION. The host: answers to page requests, snoops, accesses to device memory, and writes to registers
(22_faults_and_translation.md R349, R361, R362; 24_host_coherence.md R366 to R377; 20_scheduling.md R332; 16_memory_hierarchy.md
R294). -/

namespace Sys2Proof.Machine

/-! Answers to resolutions (R349, R401, R403). -/

/-- The walk of what waits for a resolution, by the agent that met it and for what that does, still fails. -/
def walkFails (s : State) (r : Resolve) : Bool :=
  match (translate s { bufSpace r.ctx with die := r.die } (if r.write then .write else .read) false r.va).2 with
  | .pri _ | .fault _ => true
  | _ => false

/-- A resolution has been answered. What waits for it walks again, and traps with `c` if that still fails; `failed` says that it has
failed for certain: then a unit's delivery, a completion record and the guest are told at once, and an access that the host has refused
traps without another walk (R349). -/
def resolved (s : State) (r : Resolve) (c : Cause) (failed : Bool) : State :=
  let n := if r.kind = 2 then r.va.toNat else 2 ^ 64 + r.obj.toNat
  let refused := failed && r.kind == 2
  let mark := fun (n : Nat) (l : List (Nat × Cause)) => if l.contains (n, c) then l else l ++ [(n, c)]
  let mine := fun (e : RecEntry) => refused && e.state == .faulted && e.key == r.key && e.req.kind != .fill
  let fail := fun (l : List RecEntry) => l.map (fun e => if mine e then { e with fail := if e.trapped then none else some (c, r.at_) } else e)
  let held := fun (t : Strand) => t.arec.any mine || t.frame.any (fun f => f.arec.any mine)
  let bad := failed || (r.kind = 2 && walkFails s r)
  let s := s.onStrands (fun t => r.who == some (t.team, t.sid)) (fun t =>
    if held t then { t with arec := fail t.arec, frame := t.frame.map (fun f : Frame => { f with arec := fail f.arec }) }
    else { t with answered := mark (if refused then n + 2 ^ 65 else n) t.answered })
  let s : State := {
    s with
    ops := s.ops.map (fun o : XOp =>
      if o.stat == .waiting r.key then (if refused then { o with stat := .fault c r.at_, asked := false } else { o with answered := mark n o.answered })
      else o)
    units := if failed then s.units.map (fun u : GUnit => if u.key == r.key && u.waiting.isSome then { u with fail := some c } else u) else s.units
    launches := if bad then s.launches.map (fun l : Launch => if l.wait == some r.key then { l with refused := true } else l) else s.launches }
  (if bad then s.answerTags [r.key] 1 else s).wakesFor (fun x => x.key == r.key)

/-- PRI_RESPONSE (R349, R366): code 0 Success, 1 Invalid Request, else Response Failure. Assumption 46, DEDUCED. -/
def execPriResponse (key : Nat) (code : BitVec 2) (s : State) : Result :=
  match s.resolves.find? (fun r => r.key == key && r.kind == 2) with
  | none => .next s
  | some r =>
    let s := { s with out := s.out.filter (fun o => match o with | .pri k _ _ => k ≠ key | _ => true) }
    .next (sendPris (resolved s r (if code.toNat ≤ 1 then .pageFault else .protection) (code ≠ 0)))

/-! Table lines (R361, R362). -/

/-- Cached host-table translations that depend on a table line: those whose leaf lies in it, and those of the roots whose walks on that die
have read it (R361). -/
def dependsOn (s : State) (line : Nat) (e : TlbEntry) : Bool :=
  e.kind == 0 && (e.line == line ||
    s.walker.any (fun w => w.die == e.die && w.line == line && !w.leaf && w.part == e.part && w.root == e.root))

/-- A context may have used one of the entries: they are of its root, or global in its partition. -/
def usedBy (s : State) (l : List TlbEntry) (ctx : Word) : Bool :=
  l.any (fun e => e.part == fld ctx 16 6 && (e.root == (s.ctx ctx).root || e.perm.getLsbD 4))

/-- A table line is of no use any more: the entries that depend on it go on every die, and the grants that came from it. -/
def dropLine (s : State) (line : Nat) : State := (List.range 4).foldl (fun s d => s.dropWalk (BitVec.ofNat 2 d) line) s

/-! Answers that wait for accesses (R269, R362, R370). They stand in `State.tableSnoops` under the line of a snoop, 2^64 + page of an ATS
invalidation, or 2^65 + partition of OP 3 of PCMD. -/

/-- RESULT of PCMDST; BUSY clears. -/
def pcmdDone (s : State) (part : BitVec 6) (r : Nat) : State :=
  (s.setPcb part.toNat 0x020 0).setPcb part.toNat 0x028 (BitVec.ofNat 64 r)

/-- An answer is given once all that it waits for has been performed. -/
def answerSnoop (s : State) (x : TableSnoop) : State :=
  if !x.left.over s then s
  else
    let s := { s with tableSnoops := s.tableSnoops.erase x }
    if x.line < 2 ^ 64 then s.send (.snoopAnswer x.line)
    else if x.line < 2 ^ 65 then s.send (.snoopAnswer ((x.line - 2 ^ 64) * 2 ^ 12))
    else pcmdDone s (BitVec.ofNat 6 x.line) 0

/-- The answer `n` waits for what is under way for the contexts that `uses` selects. -/
def answerOnce (s : State) (n : Nat) (uses : Word → Bool) : State :=
  let x : TableSnoop := { line := n, left := s.inFlight uses }
  answerSnoop { s with tableSnoops := s.tableSnoops ++ [x] } x

/-- HOST_TABLE_SNOOP: the host's write stands and the entries are gone on all dies; the snoop is answered once the accesses translated with
them have been performed (R362). Where no port runs CXL the device does not snoop (R367). -/
def execHostTableSnoop (line : BitVec 64) (data : List (BitVec 8)) (s : State) : Result :=
  let a := line.toNat / 64 * 64
  let write := fun (s : State) => { s with mem := setBytes s.mem (hostKey a) (data.take 64) }
  let used := s.tlb.filter (dependsOn s a)
  .next (if !s.cxlUp || s.mstate ≠ 3 then write s else answerOnce (write (dropLine s a)) a (usedBy s used))

/-- WALKER_LINE_EVICTION: the entries that depend on the line go, on the die whose walker evicts it (R361). -/
def execWalkerLineEviction (die : BitVec 2) (line : BitVec 64) (s : State) : Result := .next (s.dropWalk die (line.toNat / 64 * 64))

/-- ATS_INVALIDATION (R370): the host's map of a page changes, the ports' cached translations of it go, and the device answers once the
requests of their partitions have been performed. Lines of host memory stand in no L1 of the model. Assumption 60, DESIGN CHOICE. -/
def execAtsInvalidation (page : AtsPage) (s : State) : Result :=
  let g := hostPage page.page.toNat
  let hit := fun (e : AtsEntry) => e.page == g && pasidOf s e.part == page.pasid.toNat
  let parts := (s.atc.filter hit).map (·.part)
  let t := { s with
    iommu := Sparse.set 0 s.iommu (page.pasid.toNat * 2 ^ 42 + g) ((page.host.toNat / 2 ^ 12) ^^^ g), atc := s.atc.filter (fun e => !hit e) }
  .next (if s.mstate ≠ 3 then t else answerOnce t (2 ^ 64 + page.page.toNat / 2 ^ 12) (fun ctx => parts.contains (fld ctx 16 6)))

/-! Host lines in the device and device lines in the host (R371, R373 to R375). -/

/-- HOST_SNOOP: the cache agent returns the line with what the device has written; what the host then writes stands. Without a CXL port the
device holds no host line and is not snooped (R367). -/
def execHostSnoop (line : BitVec 64) (data : List (BitVec 8)) (s : State) : Result :=
  let a := line.toNat / 64 * 64
  let answer := fun (s : State) => (s.send (.snoopAnswer a)).send (.hostData false (memBytes s.mem (hostKey a) 64))
  let s := if s.cxlUp && s.mstate = 3 then answer s else s
  .next { s with mem := setBytes s.mem (hostKey a) (data.take 64) }

/-- The lines of a byte range. -/
def linesOf (a n : Nat) : List Nat := if n = 0 then [] else (List.range ((a + n - 1) / 64 + 1 - a / 64)).map (a / 64 + ·)

/-- Lines of a die in its back-invalidate directory, oldest first. -/
def recorded (s : State) (die : Nat) : List Nat := s.bidir.filter (fun x => dieOf (x * 64) == die)

/-- Lines that the host has read are recorded, and it may hold them modified (R374). Assumption 51, DEDUCED. -/
def recordLines (s : State) (l : List Nat) : State :=
  { s with bidir := s.bidir ++ l.filter (fun x => !s.bidir.contains x), biShared := s.biShared.filter (fun x => !l.contains x) }

/-- The oldest lines of a full directory, which must leave it before the lines `l` of the die fit (R374). -/
def mustLeave (s : State) (die : Nat) (l : List Nat) : List Nat :=
  let mine := recorded s die
  mine.take (mine.length + (l.filter (fun x => !s.bidir.contains x)).length - 65536)

/-- Why a CXL.mem access cannot be served now: a channel changes its rate (R284), the directory is full (R374), or an L1 line that it must
write back waits. -/
def hostWait (s : State) (write : Bool) (a n : Nat) : Option TRes :=
  let keys := (List.range n).map (a + ·)
  let full := if write then none else (mustLeave s (dieOf a) (linesOf a n)).head?.map (TRes.snoop true)
  (if keys.any (chanStopped s) then some .busy else none).orElse (fun _ => full.orElse (fun _ =>
    l1Waits s (fun l => l.core / 128 == dieOf a && l.meets keys)))

/-- A CXL.mem access of the host to HBM (R373, R375), or its place among those that wait. A reserved frame reads as zeros and takes no
write. Assumption 50, DESIGN CHOICE. -/
def hostAccess (s : State) (r : HostReq) : State :=
  let a := r.addr
  let n := if r.write then r.data.length else r.size
  let keys := (List.range n).map (a + ·)
  if keys.any (isReserved s) then
    let s := s.log (dieOf a) logReserved a
    if r.write then s else s.send (.hostData false (List.replicate n 0))
  else match hostWait s r.write a n with
  | some w => { askFor s w with hostReqs := s.hostReqs ++ [r] }
  | none =>
    let s := flushL1 (s.touchRows keys) (!r.write) (fun l => l.core / 128 == dieOf a && l.meets keys)
    if r.write then repairGranules { s with mem := setBytes s.mem a r.data } ((List.range n).map (fun k => (k, Loc.dev (a + k))))
    else match keys.find? s.bad with
      | some k => (recordLines (s.log (dieOf a) logUncorrectable k) (linesOf a n)).send (.hostData true (memBytes s.mem a n))
      | none => (recordLines s (linesOf a n)).send (.hostData false (memBytes s.mem a n))

/-- The host accesses that wait are tried again, in their order. -/
def serveHostReqs (s : State) : State := s.hostReqs.foldl hostAccess { s with hostReqs := [] }

/-- HOST_CXL_MEM_ACCESS (R373): HBM only, and only while a port runs CXL (R367) and the module is READY (R407). The address is
device-physical: the HDM decoders have decoded it (R366). Assumption 50, DESIGN CHOICE. -/
def execHostCxlMemAccess (write : Bool) (addr : BitVec 64) (size : Nat) (data : List (BitVec 8)) (s : State) : Result :=
  let a := addr.toNat
  let n := if write then data.length else size
  if !s.cxlUp || s.mstate ≠ 3 then .next s
  else if !isHbm a || 2 ^ 39 < a + n then .next (s.log (a / 2 ^ 37) logReserved a)
  else .next (hostAccess s { write := write, addr := a, size := size, data := data })

/-- BACK_INVALIDATE_RESPONSE (R374, R375): the returned data is written, and the line leaves the directory, or stays in it as shared after
BISnpData. Assumption 51, DEDUCED. -/
def execBackInvalidateResponse (line : BitVec 64) (data : List (BitVec 8)) (s : State) : Result :=
  let l := line.toNat / 64
  let inv := s.out.contains (.biSnp true l)
  let data := data.take 64
  if !inv && !s.out.contains (.biSnp false l) then .next s
  else
    .next (serveHostReqs (repairGranules { s with
      mem := setBytes s.mem (l * 64) data
      bidir := if inv then s.bidir.filter (· ≠ l) else s.bidir
      biShared := s.biShared.filter (· ≠ l) ++ (if inv then [] else [l])
      out := s.out.filter (fun o => o ≠ .biSnp true l && o ≠ .biSnp false l) }
      ((List.range data.length).map (fun k => (k, Loc.dev (l * 64 + k))))))

/-! The partition control block (R368, R369, R332, R377). -/

/-- PCTL.ERR and LQSCHED.ERR. -/
def pctlErr (s : State) (part : BitVec 6) : State := s.setPcb part.toNat 0 (s.pcbReg part.toNat 0 ||| 0x100000)
def lqErr (s : State) (part : BitVec 6) : State := s.setPcb part.toNat 0x118 (s.pcbReg part.toNat 0x118 ||| 0x100)

/-- LQBASE_WRITE (R332). -/
def writeLqbase (s : State) (part : BitVec 6) (val : Dword) : State :=
  let p := part.toNat
  if s.pcbReg p 0x108 ≠ s.pcbReg p 0x110 then lqErr s part
  else
    let order := if 14 ≤ val.toNat % 16 then s.pcbReg p 0x100 &&& 0xF else val &&& 0xF
    s.setPcb p 0x100 ((val &&& ~~~0xFFF) ||| order)

def execLqbaseWrite (part : BitVec 6) (val : BitVec 64) (s : State) : Result := whenReady s (fun s => writeLqbase s part val)

/-- DOORBELL (R332, R377): a stale value is ignored, and one that overruns the queue refused. -/
def writeTail (s : State) (part : BitVec 6) (val : Word) : State :=
  let p := part.toNat
  let tail : Word := (s.pcbReg p 0x110).setWidth 32
  let head : Word := (s.pcbReg p 0x108).setWidth 32
  if 2 ^ 31 ≤ (val - tail).toNat then s
  else if 2 ^ ((s.pcbReg p 0x100).toNat % 16 + 3) < (val - head).toNat then lqErr s part
  else s.setPcb p 0x110 (val.setWidth 64)

def execDoorbell (part : BitVec 6) (val : BitVec 32) (s : State) : Result := whenReady s (fun s => writeTail s part val)

/-! PCMD (R369). PCMD reads as zero; while BUSY, the block keeps the command there. -/

/-- The command is in progress; RESULT stays until it is over. -/
def pcmdBusy (s : State) (part : BitVec 6) (op : Nat) (obj : BitVec 48) : State :=
  (s.setPcb part.toNat 0x020 (BitVec.ofNat 64 (op * 2 ^ 61 + obj.toNat))).setPcb part.toNat 0x028
    (s.pcbReg part.toNat 0x028 ||| 0x8000000000000000)

/-- Set SHARED goes on: a migration in flight first, then a recall from T2, for which Hinge demotes another page where no T1 frame is free,
then the bit, which ends moves to T2 that wait (R297). -/
def advanceShared (s : State) (part : BitVec 6) (obj : BitVec 48) : State :=
  match s.pde? obj with
  | none => pcmdDone s part 1
  | some p =>
    if obj.extractLsb' 42 6 ≠ part then pcmdDone s part 2
    else if p.shared then pcmdDone s part 0
    else if p.mig.isSome then pcmdBusy s part 1 obj
    else if p.tier = 2 then
      match chooseFrame s p.owner 1 with
      | some f => if 4096 ≤ sharedOn s (dieOf f) then pcmdDone s part 3 else pcmdBusy (startMove s obj 1) part 1 obj
      | none =>
        let s' := capacityDemote s 1 (fun _ => true)
        if s'.pdes.any (fun q => q.mig.any (fun m => m.tier == 2)) then pcmdBusy s' part 1 obj else pcmdDone s part 4
    else if 4096 ≤ sharedOn s (dieOf p.frame) then pcmdDone s part 3
    else pcmdDone (s.onPde obj (fun p => { p with shared := true, queued := p.queued.filter (·.1 ≠ 2) })) part 0

/-- Clear SHARED goes on: a line-valid migration first. -/
def advanceClear (s : State) (part : BitVec 6) (obj : BitVec 48) : State :=
  match s.pde? obj with
  | none => pcmdDone s part 1
  | some p =>
    if obj.extractLsb' 42 6 ≠ part then pcmdDone s part 2
    else if p.mig.any (·.line) then pcmdBusy s part 2 obj
    else pcmdDone (s.onPde obj (fun p => { p with shared := false })) part 0

/-- The command of a partition that is in progress goes on. -/
def advancePcmd (s : State) (part : BitVec 6) : State :=
  let c := s.pcbReg part.toNat 0x020
  if !(s.pcbReg part.toNat 0x028).getLsbD 63 then s
  else match c.toNat / 2 ^ 61 with
    | 1 => advanceShared s part (c.setWidth 48)
    | 2 => advanceClear s part (c.setWidth 48)
    | _ => s

/-- A command while another is in progress has no effect and sets ERR. -/
def startPcmd (s : State) (part : BitVec 6) (f : State → State) : State :=
  if (s.pcbReg part.toNat 0x028).getLsbD 63 then pctlErr s part else f s

/-- OP 3 acts as `tlbinv.host`: the translations from a partition's host tables with a root, or all of them, go, and the command is over once
the accesses of their contexts have been performed (R269). -/
def dropHostRoot (s : State) (part : BitVec 6) (root : BitVec 48) : State :=
  let r : Dword := root.setWidth 64 <<< 12
  let s := dropRoot s part r
  answerOnce (pcmdBusy s part 3 root) (2 ^ 65 + part.toNat) (rootedAt s part r)

def execSetShared (part : BitVec 6) (obj : BitVec 48) (s : State) : Result :=
  whenReady s (fun s => startPcmd s part (fun s => advanceShared s part obj))
def execClearShared (part : BitVec 6) (obj : BitVec 48) (s : State) : Result :=
  whenReady s (fun s => startPcmd s part (fun s => advanceClear s part obj))
def execInvalidateHostTranslations (part : BitVec 6) (root : BitVec 48) (s : State) : Result :=
  whenReady s (fun s => startPcmd s part (fun s => dropHostRoot s part root))

/-- A host range entry stands within the limits of R368. -/
def rangeOk (base lim : Dword) : Bool :=
  !base.getLsbD 0 || ((base.toNat / 2 ^ 12 ≤ lim.toNat / 2 ^ 12) && (lim.getLsbD 3 || lim.toNat % 8 == 7))

/-- An alias window stays within the stage-2 GPA range. -/
def aliasOk (host s2 : Dword) : Bool :=
  let n := host.toNat % 256 * 2 ^ 30
  let b := s2.toNat / 2 ^ 30 * 2 ^ 30
  n == 0 || (0x0040000000000000 ≤ b && b + n ≤ 0x0041000000000000)

/-- A write to a register of the block but for the launch queue's and PCMD. -/
def writePart (s : State) (part : BitVec 6) (off : Nat) (val : Dword) : State :=
  let p := part.toNat
  let put := fun (ok : Bool) (x : Dword) => if ok then s.setPcb p off x else pctlErr s part
  if off = 0x000 then
    let err := s.pcbReg p 0 &&& 0x100000 &&& ~~~val
    s.setPcb p 0 (err ||| (val &&& 0xFFFFF))
  else if off = 0x008 then s.setPcb p off (val &&& ~~~3)
  else if off = 0x010 || off = 0x018 then s.setPcb p off (val &&& ~~~0xFFF)
  else if 0x200 ≤ off && off < 0x300 then
    if off % 16 = 0 then let x := val &&& ~~~0xFFE; put (rangeOk x (s.pcbReg p (off + 8))) x
    else let x := val &&& ~~~0xFF0; put (rangeOk (s.pcbReg p (off - 8)) x) x
  else if 0x300 ≤ off && off < 0x340 then
    if off % 16 = 0 then let x := val &&& ~~~0x3FFFFF00; put (aliasOk x (s.pcbReg p (off + 8))) x
    else let x := val &&& ~~~0x3FFFFFFF; put (aliasOk (s.pcbReg p (off - 8)) x) x
  else s

/-- LQSCHED: ERR by writing 1, WEIGHT but for 0. -/
def writeSched (s : State) (part : BitVec 6) (val : Dword) : State :=
  let old := s.pcbReg part.toNat 0x118
  let w := if val.toNat % 256 = 0 then old &&& 0xFF else val &&& 0xFF
  s.setPcb part.toNat 0x118 ((old &&& 0x100 &&& ~~~val) ||| w)

/-- PARTITION_REGISTER_WRITE (R286, R332, R368): eight bytes at an offset of the block. -/
def execPartitionRegisterWrite (part : BitVec 6) (off : BitVec 17) (val : BitVec 64) (s : State) : Result :=
  let o := off.toNat / 8 * 8
  whenReady s (fun s =>
    if 0x10000 ≤ o then s.setPcb part.toNat o val
    else if o = 0x020 then
      (match val.toNat / 2 ^ 61 with
       | 1 => startPcmd s part (fun s => advanceShared s part (val.setWidth 48))
       | 2 => startPcmd s part (fun s => advanceClear s part (val.setWidth 48))
       | 3 => startPcmd s part (fun s => dropHostRoot s part (val.setWidth 48))
       | _ => startPcmd s part (fun s => s))
    else if o = 0x100 then writeLqbase s part val
    else if o = 0x110 then writeTail s part (val.setWidth 32)
    else if o = 0x118 then writeSched s part val
    else if o = 0x108 then s
    else if partPlaced s part then pctlErr s part
    else writePart s part o val)

/-- What a host read of the block gives (R8): write-only registers read as zero. -/
def partRead (s : State) (part : BitVec 6) (off : Nat) : Dword :=
  let o := off / 8 * 8
  if o = 0x020 || o = 0x110 then 0 else s.pcbReg part.toNat o

/-! Other registers of the host (R8, R376, R396, R411). -/

/-- 512 bytes of MDATA. -/
def mdataBytes (s : State) : List Byte := (s.mdata ++ List.replicate 512 0).take 512

/-- State codes of R396. -/
def GState.code : GState → Nat
  | .off => 0 | .measuring => 1 | .enabled => 2 | .fenced => 3 | .refused => 4

/-- Eight bytes of a list. -/
def readDword (l : List Byte) (off : Nat) : Dword := BitVec.ofNat 64 (leNat ((l.drop off).take 8))

/-- A guest queue register (R398). -/
def gqRead (s : State) (o : Nat) : Dword :=
  let q := (o - 0x3400) / 32
  match o % 32 / 8 with
  | 2 => BitVec.ofNat 64 ((gqPart s q).toNat + (if s.guest.stopped.contains q then 2 ^ 6 else 0) + (if s.guest.stop.contains q then 2 ^ 7 else 0))
  | 3 => BitVec.ofNat 64 ((gqTail s q).toNat + (gqHead s q).toNat * 2 ^ 32)
  | _ => s.bar o

/-- What a host read of a register at BAR 0 of function 0 gives (R8): write-only registers, GRPCMD and MCMD, read as zero, and those that
report state what it is (R376, R383, R389, R394, R396, R398, R408, R411). -/
def barRead (s : State) (off : Nat) : Dword :=
  let o := off / 8 * 8
  if o = 0x2000 || o = 0x6000 then 0
  else if o = 0x3000 then BitVec.ofNat 64 (s.guest.state.code + (if s.guest.err then 8 else 0) + s.guest.cause.toNat * 2 ^ 8)
  else if o = 0x3008 then BitVec.ofNat 64 (if s.guest.arm then 1 else 0)
  else if 0x3100 ≤ o && o < 0x3240 then readDword s.guest.gmrec (o - 0x3100)
  else if 0x3400 ≤ o && o < 0x5400 then gqRead s o
  else if o = 0x6008 then
    BitVec.ofNat 64 (s.mstate.toNat + s.mresult.toNat * 2 ^ 8 + (if s.mbusy then 2 ^ 10 else 0) + (if s.cfgdef then 2 ^ 11 else 0) +
      s.throttle.toNat * 2 ^ 12)
  else if 0x6100 ≤ o && o < 0x6300 then readDword (mdataBytes s) (o - 0x6100)
  else s.bar o

/-- A write of MCMD (R411): OP 1 to 3 start a command, which makes the mailbox busy; any other code, and a write while it is busy, by either
port, is refused. -/
def writeMcmd (s : State) (op : Nat) : State :=
  if s.mbusy || op = 0 || 4 ≤ op then { s with mresult := 1 } else { s with mbusy := true, due := s.due ++ [.command op] }

/-- REGISTER_WRITE: GSTAT.ERR, MCMD and MDATA; the other registers without a row of their own are read-only. -/
def execRegisterWrite (off : BitVec 32) (val : BitVec 64) (s : State) : Result :=
  let o := off.toNat / 8 * 8
  .next (if o = 0x3000 then (if val.getLsbD 3 then s.onGuest (fun g => { g with err := false }) else s)
    else if o = 0x6000 then writeMcmd s (val.toNat / 2 ^ 56)
    else if 0x6100 ≤ o && o < 0x6300 then
      let m := mdataBytes s
      let k := o - 0x6100
      { s with mdata := m.take k ++ leBytes 8 val.toNat ++ m.drop (k + 8) }
    else s)

/-- POOL_REGISTER_WRITE (R376): none while Hinge holds frames in the range; frames set aside there may be used again. -/
def execPoolRegisterWrite (off : BitVec 32) (val : BitVec 64) (s : State) : Result :=
  let o := off.toNat / 8 * 8
  if o < 0x1000 || 0x1080 ≤ o then .next s
  else
    let n := (o - 0x1000) / 16
    let b := (s.bar (0x1000 + 16 * n)).toNat
    let base := b / 2 ^ 30 * 2 ^ 30
    let size := (s.bar (0x1008 + 16 * n)).toNat % 2 ^ 16 * 2 ^ 30
    let inside := fun (f : Nat) => poolKey base ≤ f && f < poolKey (base + size)
    if b % 2 = 1 && (framesUsed s).any inside then .next s
    else
      let s := { s with badT2 := s.badT2.filter (fun f => !inside f) }
      .next (s.setBar o (if o % 16 = 0 then val &&& ~~~0x3FFFFFFE else val &&& 0xFFFF))

/-- HOST_MAILBOX_WRITE (R143): a current handle's mailbox. -/
def execHostMailboxWrite (handle : BitVec 32) (mb : BitVec 3) (val : BitVec 64) (s : State) : Result :=
  .next (if s.handleOk handle then s.onMailbox handle mb.toNat (fun _ => val) else s)

/-- HOST_PORT_DOWN (R12). -/
def execHostPortDown (port : BitVec 1) (up : Bool) (s : State) : Result :=
  let b : BitVec 2 := BitVec.ofNat 2 (2 ^ port.toNat)
  .next { s with portsDown := if up then s.portsDown &&& ~~~b else s.portsDown ||| b }

/-- UALINK_PORT_DOWN (R381). -/
def execUalinkPortDown (port : BitVec 6) (up : Bool) (s : State) : Result :=
  let b : BitVec 36 := BitVec.ofNat 36 (2 ^ port.toNat)
  .next { s with ualDown := if up then s.ualDown &&& ~~~b else s.ualDown ||| b }

end Sys2Proof.Machine
end

