-- ==== Sys2Proof/Machine/Memory.lean ====
section
/-! DEFINITION. Steps of Hinge and of the HBM stacks (16_memory_hierarchy.md R281 to R284, R295 to R302; 24_host_coherence.md R376). -/

namespace Sys2Proof.Machine

/-! Migrations (R295, R301, R302, R376). -/

def execBusyCountZero (obj : BitVec 48) (s : State) : Result := .next (busyCountZero s obj)
def execPageCopyComplete (obj : BitVec 48) (s : State) : Result := .next (pageCopyComplete s obj)
def execDirectoryRebind (obj : BitVec 48) (s : State) : Result := .next (directoryRebind s obj)
def execDirinvArrival (die : BitVec 2) (obj : BitVec 48) (ver : BitVec 32) (s : State) : Result := .next (dirinvArrival s die obj ver)
def execBackgroundLinePull (obj : BitVec 48) (s : State) : Result := .next (backgroundPull s obj)

/-- POOL_TRANSFER_COMPLETION (R376): after a failed recall the accesses that wait for the page raise UNCORRECTABLE_DATA.
Assumption 32, DESIGN CHOICE. -/
def execPoolTransferCompletion (obj : BitVec 48) (ok : Bool) (s : State) : Result :=
  let (s, keys) := poolTransfer s obj ok
  .next ((s.resolves.filter (fun r => keys.contains r.key)).foldl (fun s r => resolved s r .uncorrectable true) s)

/-! Rows (R275, R282, R283), numbered as `rowOf` numbers them. -/

/-- The event of a row in its die's error log. -/
def logRow (s : State) (row : Nat) : State := s.log (rowDie row) logParity row

/-- Rows of a channel. -/
def rowsPerChannel : Nat := 2 ^ 21

/-- The place of a row in its channel. -/
def rowPlace (row : Nat) : Nat := row / 64 % rowsPerChannel

/-- The neighbours of a row in its channel are refreshed. -/
def refreshNeighbours (s : State) (row : Nat) : State :=
  let clear := fun (c : Bool) (r : Nat) (m : Sparse Nat) => if c then Sparse.set 0 m r 0 else m
  { s with rows := clear (rowPlace row + 1 < rowsPerChannel) (row + 64) (clear (0 < rowPlace row) (row - 64) s.rows) }

/-- The captured row of a die with the fewest accesses since its capture (R283); of equals the one captured first (assumption 69, DESIGN
CHOICE). -/
def coldestRow (s : State) (die : Nat) : Option Nat :=
  bestOf (fun a b => Sparse.get 0 s.hits a < Sparse.get 0 s.hits b) (s.captured.filter (fun r => rowDie r == die))

/-- A row leaves the capture part of its die's memory-side cache, and its counter is cleared (R282, R283). -/
def releaseRow (s : State) (row : Nat) : State :=
  { s with captured := s.captured.filter (· ≠ row), rows := Sparse.set 0 s.rows row 0, hits := Sparse.set 0 s.hits row 0 }

/-- ROW_CAPTURE: a die captures 8,192 rows at most; one is released for another (R281, R283). -/
def captureRow (s : State) (row : Nat) : State :=
  let s := if (s.captured.filter (fun r => rowDie r == rowDie row)).length < 8192 then s
    else match coldestRow s (rowDie row) with
      | some r => releaseRow s r
      | none => s
  { s with captured := s.captured ++ [row] }

/-- ROW_PRECHARGE: the activation that ends is counted, the counter is read, and the row is captured at the threshold. A counter that fails
its parity check counts as saturated, and both neighbouring rows are refreshed. Assumption 49, DEDUCED. -/
def execRowPrecharge (row : Nat) (parityOk : Bool) (s : State) : Result :=
  if s.captured.contains row || 2 ^ 29 ≤ row then .next s
  else
    let n := if parityOk then min 4095 (Sparse.get 0 s.rows row + 1) else 4095
    let s := { s with rows := Sparse.set 0 s.rows row n }
    let s := if parityOk then s else logRow (refreshNeighbours s row) row
    .next (if s.cfgField 0x08 2 1024 ≤ n || n = 4095 then captureRow s row else s)

/-- REFRESH_WINDOW: a refresh clears the row's counter. -/
def execRefreshWindow (row : Nat) (s : State) : Result := .next { s with rows := Sparse.set 0 s.rows row 0 }

/-! Channel rates (R284): 0 12.0, 1 9.6, 2 6.4 Gb/s per pin. -/

/-- CHANNEL_RATE_CHANGE: one channel at a time, by 64 die + channel (R275). Its requests wait until it is over: `chanStopped`.
Assumption 49, DEDUCED. -/
def execChannelRateChange (ch : BitVec 8) (rate : BitVec 2) (s : State) : Result :=
  .next (if rate = 3 || !s.changing.isEmpty then s else { s with changing := [(ch.toNat, rate)] })

/-- RATE_CHANGE_COMPLETE; host accesses that have waited for the channel are served. -/
def execRateChangeComplete (ch : BitVec 8) (s : State) : Result :=
  match s.changing.find? (fun c => c.1 == ch.toNat) with
  | some c => .next (serveHostReqs { s with changing := [], rates := Sparse.set 0 s.rates c.1 c.2 })
  | none => .next s

end Sys2Proof.Machine
end

