-- ==== Sys2Proof/Machine/Power.lean ====
section
/-! DEFINITION. Bring-up, power and the management mailbox (30_bring_up.md R407 to R412). -/

namespace Sys2Proof.Machine

/-! The configuration record (R409). -/

/-- A field of the record lies within its limits, or is 0. -/
def cfgIn (r : List Byte) (off n lo hi : Nat) : Bool :=
  let x := leNat (bytesAt r off n)
  x == 0 || (lo ≤ x && x ≤ hi)

/-- A valid record: MAGIC and SIG, reserved bytes, limits. -/
def cfgOk (r : List Byte) : Bool :=
  r.length == 402 && leNat (bytesAt r 0 4) == 0x47434647 && leNat (bytesAt r 0x0A 2) == 0 && leNat (bytesAt r 0x29 7) == 0 &&
  leNat (bytesAt r 0x114 12) == 0 && cfgIn r 0x08 2 256 4095 && cfgIn r 0x0C 4 100 100000 && cfgIn r 0x10 4 10 10000 &&
  cfgIn r 0x14 4 20 10000 && (List.range 4).all (fun k => cfgIn r (0x18 + 4 * k) 4 10 100000) && leNat (bytesAt r 0x28 1) ≤ 4 &&
  Config.ed448Verify Config.dornovKey (bytesAt r 0x120 114) (bytesAt r 0 0x120)

/-! The reset sequence (R407). -/

/-- The sequence from step 1: host and pool memory, what has been sent, and what is about to arrive stay; the model's counters go on.
STATE is 7 where step 1 or 4 fails and 2 where the firmware does not verify. The configuration record is that in module flash. Assumption 52,
DESIGN CHOICE. -/
def bringUp (s : State) (pufOk fwOk trainOk : Bool) : State :=
  let r : State := { State.reset with
    mem := s.mem.filter (fun c => 2 ^ 64 ≤ c.1), inputs := s.inputs, out := s.out, free := s.free, nextId := s.nextId, nextSeq := s.nextSeq
    portsDown := s.portsDown, portsPcie := s.portsPcie, ualDown := s.ualDown, priOff := s.priOff
    iommu := s.iommu, flash := s.flash }
  if !pufOk then { r with mstate := 7 }
  else if !fwOk then { r with mstate := 2 }
  else
    let r := if cfgOk s.flash then { r with cfg := s.flash } else { r with cfgdef := true }
    if trainOk then { r with mstate := 3 } else { r with mstate := 7 }

/-- POWER_ON_RESET: how steps 1, 2 and 4 end, and the record that module flash holds. -/
def execPowerOnReset (pufOk fwOk trainOk : Bool) (cfg : List (BitVec 8)) (s : State) : Result :=
  .next (bringUp { s with flash := cfg } pufOk fwOk trainOk)

/-- A management reset: the sequence from step 1, whose steps may fail like those of any other; how they end is a free value. Assumption 52,
DESIGN CHOICE. -/
def managementReset (s : State) : State :=
  let (k, s) := s.nextFree
  let ok := Config.resetSteps k
  bringUp s (ok.getLsbD 0) (ok.getLsbD 1) (ok.getLsbD 2)

/-! Power (R410). -/

/-- The power manager saves power by one step: the rate of the lowest-numbered channel that is above 6.4 Gb/s goes down, one channel at a
time; once all are there, the arithmetic clock goes down by 100 MHz, to 1.2 GHz at least (R284, R410). -/
def powerDown (s : State) : State :=
  if !s.changing.isEmpty then s
  else match (List.range 256).find? (fun c => Sparse.get 0 s.rates c < 2) with
    | some c => { s with changing := [(c, Sparse.get 0 s.rates c + 1)] }
    | none => { s with clock := max 1200 (s.clock - 100) }

/-- The steps in the opposite order: the clock first, then the channel that was lowered last. -/
def powerUp (s : State) : State :=
  if s.clock < 2500 then { s with clock := min 2500 (s.clock + 100) }
  else if !s.changing.isEmpty then s
  else match (List.range 256).reverse.find? (fun c => Sparse.get 0 s.rates c ≠ 0) with
    | some c => { s with changing := [(c, Sparse.get 0 s.rates c - 1)] }
    | none => s

/-- POWER_LIMIT: MSTAT.THROTTLE reports the level, and the power manager makes one step. Assumption 52, DESIGN CHOICE. -/
def execPowerLimit (level : BitVec 4) (s : State) : Result :=
  let t := if s.throttle < level then powerDown s else if level < s.throttle then powerUp s else s
  .next { t with throttle := level }

/-- CRITICAL_TEMPERATURE. Assumption 52, DESIGN CHOICE. -/
def execCriticalTemperature (s : State) : Result := .next (managementReset s)

/-! Soft errors (R356). -/

/-- An element joins a list that does not hold it. -/
def addOnce {α : Type} [DecidableEq α] (x : α) (l : List α) : List α := if l.contains x then l else x :: l

/-- The part of the stepping strand that a soft error damages. s0 holds no data. -/
def struckPart : Config.SoftError → Option CorePart
  | .scalar n => if n = 0 then none else some (.scalar n.toNat)
  | .vector n => some (.vector n.toNat)
  | .mask n => some (.mask n.toNat)
  | .desc n => some (.desc n.toNat)
  | .table n k => some (.table n.toNat (k % 260))
  | .sorter => some .sorter
  | _ => none

/-- A data queue after a soft error: a filled entry may be damaged. -/
def struckQueues (dq : Sparse (List QEntry)) : Config.SoftError → Sparse (List QEntry)
  | .queue q k => Sparse.set [] dq q.toNat ((Sparse.get [] dq q.toNat).zipIdx.map (fun x =>
      if x.2 = k && x.1.filled then { x.1 with bad := true } else x.1))
  | _ => dq

/-- Arrays after a soft error. -/
def struckArrays (l : Sparse ArrayState) : Config.SoftError → Sparse ArrayState
  | .array n k => Sparse.set {} l (n % 256) ((Sparse.get {} l (n % 256)).replaced (k % 20) true)
  | _ => l

/-- The soft errors of a step (R356): those that are corrected are counted; the others leave damaged data in memory, in the stepping strand or
in an array. Assumption 56, DESIGN CHOICE. -/
def softErrors (s : State) : State :=
  let l := Config.softErrors s.free
  { s with
    corrected := l.foldl (fun m e => match e with
      | .corrected die => Sparse.set 0 m die.toNat (Sparse.get 0 m die.toNat + 1)
      | _ => m) s.corrected
    poison := l.foldl (fun m e => match e with | .memory g => addOnce g m | _ => m) s.poison
    arrays := l.foldl struckArrays s.arrays
    cs := { s.cs with
      damage := l.foldl (fun m e => match struckPart e with | some p => addOnce p m | none => m) s.cs.damage
      dq := l.foldl struckQueues s.cs.dq } }

/-! The management mailbox (R411, R412). -/

/-- ATTEST. -/
def execAttest (s : State) : Result :=
  let body := bytesAt (mdataBytes s) 0 32 ++ leBytes 64 (Config.shake256 Config.firmware).toNat ++ leBytes 64 (Config.shake256 s.cfg).toNat ++
    leBytes 4 (leNat (bytesAt s.cfg 4 4)) ++ leBytes 64 (leNat (bytesAt s.guest.gmrec 0x10 64)) ++ leBytes 57 Config.identityKey.toNat
  .next { s with mdata := body ++ leBytes 114 (Config.ed448Sign body).toNat, mresult := 0, mbusy := false }

/-- RESET: the sequence from step 1; every context is discarded. RESULT is 2 where it does not end in READY. Assumption 52, DESIGN CHOICE. -/
def execReset (s : State) : Result :=
  let t := managementReset s
  .next { t with mresult := if t.mstate = 3 then 0 else 2 }

/-- READLOG: the error logs in MDATA, with the counts of corrected errors (R356). Assumption 38, DESIGN CHOICE. -/
def execReadlog (s : State) : Result :=
  .next { s with
    mdata := (Config.logImage (s.errLog.map (fun e => (e.die.toNat, e.code, e.addr)) ++ s.corrected.map (fun c => (c.1, logCorrected, c.2)))).take 512
    mresult := 0, mbusy := false }

/-- MCMD_REFUSED: `writeMcmd` says when. -/
def execMcmdRefused (s : State) : Result := .next { s with mresult := 1 }

end Sys2Proof.Machine
end

