-- ==== Sys2Proof/Machine/Dispatch.lean ====
section
/-! DEFINITION. What each instruction does: one arm per constructor of `Instr`, each one call of its meaning. -/

namespace Sys2Proof.Machine

def exec (i : Instr) (s : State) : Host.Outcome State Fault Refusal :=
  match i with
  | .nop => Sys2Proof.Machine.execNop s
  | .add d a b => Sys2Proof.Machine.execAdd d a b s
  | .sub d a b => Sys2Proof.Machine.execSub d a b s
  | .mul d a b => Sys2Proof.Machine.execMul d a b s
  | .mulhS d a b => Sys2Proof.Machine.execMulhS d a b s
  | .mulhN d a b => Sys2Proof.Machine.execMulhN d a b s
  | .divS d a b t => Sys2Proof.Machine.execDivS d a b t s
  | .divN d a b t => Sys2Proof.Machine.execDivN d a b t s
  | .remS d a b t => Sys2Proof.Machine.execRemS d a b t s
  | .remN d a b t => Sys2Proof.Machine.execRemN d a b t s
  | .and d a b => Sys2Proof.Machine.execAnd d a b s
  | .or d a b => Sys2Proof.Machine.execOr d a b s
  | .xor d a b => Sys2Proof.Machine.execXor d a b s
  | .andn d a b => Sys2Proof.Machine.execAndn d a b s
  | .shl d a b => Sys2Proof.Machine.execShl d a b s
  | .shrN d a b => Sys2Proof.Machine.execShrN d a b s
  | .shrS d a b => Sys2Proof.Machine.execShrS d a b s
  | .rot d a b => Sys2Proof.Machine.execRot d a b s
  | .minS d a b => Sys2Proof.Machine.execMinS d a b s
  | .minN d a b => Sys2Proof.Machine.execMinN d a b s
  | .maxS d a b => Sys2Proof.Machine.execMaxS d a b s
  | .maxN d a b => Sys2Proof.Machine.execMaxN d a b s
  | .clz d a => Sys2Proof.Machine.execClz d a s
  | .ctz d a => Sys2Proof.Machine.execCtz d a s
  | .popc d a => Sys2Proof.Machine.execPopc d a s
  | .sel d a b f => Sys2Proof.Machine.execSel d a b f s
  | .cmp d a b c => Sys2Proof.Machine.execCmp d a b c s
  | .addi d a i1 => Sys2Proof.Machine.execAddi d a i1 s
  | .andi d a i1 => Sys2Proof.Machine.execAndi d a i1 s
  | .ori d a i1 => Sys2Proof.Machine.execOri d a i1 s
  | .xori d a i1 => Sys2Proof.Machine.execXori d a i1 s
  | .shli d a i1 => Sys2Proof.Machine.execShli d a i1 s
  | .shriN d a i1 => Sys2Proof.Machine.execShriN d a i1 s
  | .shriS d a i1 => Sys2Proof.Machine.execShriS d a i1 s
  | .li d i1 => Sys2Proof.Machine.execLi d i1 s
  | .bfxS d a b => Sys2Proof.Machine.execBfxS d a b s
  | .bfxN d a b => Sys2Proof.Machine.execBfxN d a b s
  | .bfi d a b => Sys2Proof.Machine.execBfi d a b s
  | .fshl d a b => Sys2Proof.Machine.execFshl d a b s
  | .fshr d a b => Sys2Proof.Machine.execFshr d a b s
  | .fadd d a b p => Sys2Proof.Machine.execFadd d a b p s
  | .fsub d a b p => Sys2Proof.Machine.execFsub d a b p s
  | .fmul d a b p => Sys2Proof.Machine.execFmul d a b p s
  | .ffma d a b p => Sys2Proof.Machine.execFfma d a b p s
  | .fdiv d a b p => Sys2Proof.Machine.execFdiv d a b p s
  | .fsqrt d a p => Sys2Proof.Machine.execFsqrt d a p s
  | .fmin d a b p => Sys2Proof.Machine.execFmin d a b p s
  | .fmax d a b p => Sys2Proof.Machine.execFmax d a b p s
  | .fcmp d a b c p => Sys2Proof.Machine.execFcmp d a b c p s
  | .fcvt d a b f => Sys2Proof.Machine.execFcvt d a b f s
  | .beq a b o => Sys2Proof.Machine.execBeq a b o s
  | .bne a b o => Sys2Proof.Machine.execBne a b o s
  | .bltS a b o => Sys2Proof.Machine.execBltS a b o s
  | .bltN a b o => Sys2Proof.Machine.execBltN a b o s
  | .bgeS a b o => Sys2Proof.Machine.execBgeS a b o s
  | .bgeN a b o => Sys2Proof.Machine.execBgeN a b o s
  | .jmp o => Sys2Proof.Machine.execJmp o s
  | .jal o => Sys2Proof.Machine.execJal o s
  | .jr d a => Sys2Proof.Machine.execJr d a s
  | .loop a o => Sys2Proof.Machine.execLoop a o s
  | .loopi c o => Sys2Proof.Machine.execLoopi c o s
  | .lbrk l z a => Sys2Proof.Machine.execLbrk l z a s
  | .barSync b m => Sys2Proof.Machine.execBarSync b m s
  | .barArr b m => Sys2Proof.Machine.execBarArr b m s
  | .barWait b m => Sys2Proof.Machine.execBarWait b m s
  | .barWaitt b m d a => Sys2Proof.Machine.execBarWaitt b m d a s
  | .barDrop b m => Sys2Proof.Machine.execBarDrop b m s
  | .evSig e => Sys2Proof.Machine.execEvSig e s
  | .evWait e t => Sys2Proof.Machine.execEvWait e t s
  | .evWaitt e d a => Sys2Proof.Machine.execEvWaitt e d a s
  | .csrr d c => Sys2Proof.Machine.execCsrr d c s
  | .csrw a c => Sys2Proof.Machine.execCsrw a c s
  | .mbrd d c n => Sys2Proof.Machine.execMbrd d c n s
  | .mbwr a n => Sys2Proof.Machine.execMbwr a n s
  | .time d => Sys2Proof.Machine.execTime d s
  | .timeCyc d => Sys2Proof.Machine.execTimeCyc d s
  | .yield => Sys2Proof.Machine.execYield s
  | .yieldPause => Sys2Proof.Machine.execYieldPause s
  | .trap a i1 => Sys2Proof.Machine.execTrap a i1 s
  | .cswitch d a => Sys2Proof.Machine.execCswitch d a s
  | .park w m e t l r a b => Sys2Proof.Machine.execPark w m e t l r a b s
  | .parkEnd => Sys2Proof.Machine.execParkEnd s
  | .wakehint a b => Sys2Proof.Machine.execWakehint a b s
  | .ctxqSt d a => Sys2Proof.Machine.execCtxqSt d a s
  | .ctxqWake d a => Sys2Proof.Machine.execCtxqWake d a s
  | .ctxqTiers d a => Sys2Proof.Machine.execCtxqTiers d a s
  | .ctxnew d a => Sys2Proof.Machine.execCtxnew d a s
  | .ctxfree d a => Sys2Proof.Machine.execCtxfree d a s
  | .ctxsetPrio d a b => Sys2Proof.Machine.execCtxsetPrio d a b s
  | .ctxsetBind d a b => Sys2Proof.Machine.execCtxsetBind d a b s
  | .rtt => Sys2Proof.Machine.execRtt s
  | .rttNext => Sys2Proof.Machine.execRttNext s
  | .halt a => Sys2Proof.Machine.execHalt a s
  | .kill d a => Sys2Proof.Machine.execKill d a s
  | .hingePin d a b => Sys2Proof.Machine.execHingePin d a b s
  | .hingeUnpin d a => Sys2Proof.Machine.execHingeUnpin d a s
  | .hingeQ d a => Sys2Proof.Machine.execHingeQ d a s
  | .hingeMove d a b => Sys2Proof.Machine.execHingeMove d a b s
  | .tlbinvPart a => Sys2Proof.Machine.execTlbinvPart a s
  | .tlbinvS2 a => Sys2Proof.Machine.execTlbinvS2 a s
  | .tlbinvFab a => Sys2Proof.Machine.execTlbinvFab a s
  | .tlbinvAll => Sys2Proof.Machine.execTlbinvAll s
  | .tlbinvHost a => Sys2Proof.Machine.execTlbinvHost a s
  | .hangRd d a b => Sys2Proof.Machine.execHangRd d a b s
  | .ldBS c d a i1 => Sys2Proof.Machine.execLdBS c d a i1 s
  | .ldBN c d a i1 => Sys2Proof.Machine.execLdBN c d a i1 s
  | .ldHS c d a i1 => Sys2Proof.Machine.execLdHS c d a i1 s
  | .ldHN c d a i1 => Sys2Proof.Machine.execLdHN c d a i1 s
  | .ldWS c d a i1 => Sys2Proof.Machine.execLdWS c d a i1 s
  | .ldWN c d a i1 => Sys2Proof.Machine.execLdWN c d a i1 s
  | .ldD c d a i1 => Sys2Proof.Machine.execLdD c d a i1 s
  | .stB c d a i1 => Sys2Proof.Machine.execStB c d a i1 s
  | .stH c d a i1 => Sys2Proof.Machine.execStH c d a i1 s
  | .stW c d a i1 => Sys2Proof.Machine.execStW c d a i1 s
  | .stD c d a i1 => Sys2Proof.Machine.execStD c d a i1 s
  | .ldV c d a i1 => Sys2Proof.Machine.execLdV c d a i1 s
  | .stV c d a i1 => Sys2Proof.Machine.execStV c d a i1 s
  | .ldVs c d a b => Sys2Proof.Machine.execLdVs c d a b s
  | .stVs c d a b => Sys2Proof.Machine.execStVs c d a b s
  | .ldM c d a i1 => Sys2Proof.Machine.execLdM c d a i1 s
  | .stM c d a i1 => Sys2Proof.Machine.execStM c d a i1 s
  | .sfetch c d a b => Sys2Proof.Machine.execSfetch c d a b s
  | .gathB c d a b => Sys2Proof.Machine.execGathB c d a b s
  | .gathH c d a b => Sys2Proof.Machine.execGathH c d a b s
  | .gathW c d a b => Sys2Proof.Machine.execGathW c d a b s
  | .scatB c d a b => Sys2Proof.Machine.execScatB c d a b s
  | .scatH c d a b => Sys2Proof.Machine.execScatH c d a b s
  | .scatW c d a b => Sys2Proof.Machine.execScatW c d a b s
  | .gathb c d t a b => Sys2Proof.Machine.execGathb c d t a b s
  | .pref l a i1 => Sys2Proof.Machine.execPref l a i1 s
  | .dld c d a i1 => Sys2Proof.Machine.execDld c d a i1 s
  | .dst c d a i1 => Sys2Proof.Machine.execDst c d a i1 s
  | .dset d a k => Sys2Proof.Machine.execDset d a k s
  | .rwaitf c d a b => Sys2Proof.Machine.execRwaitf c d a b s
  | .rwaite c a b => Sys2Proof.Machine.execRwaite c a b s
  | .rpub c a b => Sys2Proof.Machine.execRpub c a b s
  | .rrel c a b => Sys2Proof.Machine.execRrel c a b s
  | .rclaimP c d a => Sys2Proof.Machine.execRclaimP c d a s
  | .rclaimC c d a => Sys2Proof.Machine.execRclaimC c d a s
  | .wmap c d a b => Sys2Proof.Machine.execWmap c d a b s
  | .wmapOff c a => Sys2Proof.Machine.execWmapOff c a s
  | .wadv c a b => Sys2Proof.Machine.execWadv c a b s
  | .amoW p d a b => Sys2Proof.Machine.execAmoW p d a b s
  | .amoD p d a b => Sys2Proof.Machine.execAmoD p d a b s
  | .amoF p d a b => Sys2Proof.Machine.execAmoF p d a b s
  | .casW t d a b => Sys2Proof.Machine.execCasW t d a b s
  | .casD t d a b => Sys2Proof.Machine.execCasD t d a b s
  | .casQ t d a b => Sys2Proof.Machine.execCasQ t d a b s
  | .fenceCls c k => Sys2Proof.Machine.execFenceCls c k s
  | .fence => Sys2Proof.Machine.execFence s
  | .fenceView => Sys2Proof.Machine.execFenceView s
  | .fld c d a i1 => Sys2Proof.Machine.execFld c d a i1 s
  | .fst c d a i1 => Sys2Proof.Machine.execFst c d a i1 s
  | .famo p d a b => Sys2Proof.Machine.execFamo p d a b s
  | .fcas t d a b => Sys2Proof.Machine.execFcas t d a b s
  | .vadd y d a b s1 => Sys2Proof.Machine.execVadd y d a b s1 s
  | .vsub y d a b s1 => Sys2Proof.Machine.execVsub y d a b s1 s
  | .vmul y d a b s1 => Sys2Proof.Machine.execVmul y d a b s1 s
  | .vmulh y d a b s1 => Sys2Proof.Machine.execVmulh y d a b s1 s
  | .vmad y d a b s1 => Sys2Proof.Machine.execVmad y d a b s1 s
  | .vabs y d a s1 => Sys2Proof.Machine.execVabs y d a s1 s
  | .vneg y d a s1 => Sys2Proof.Machine.execVneg y d a s1 s
  | .vmin y d a b s1 => Sys2Proof.Machine.execVmin y d a b s1 s
  | .vmax y d a b s1 => Sys2Proof.Machine.execVmax y d a b s1 s
  | .vand y d a b s1 => Sys2Proof.Machine.execVand y d a b s1 s
  | .vor y d a b s1 => Sys2Proof.Machine.execVor y d a b s1 s
  | .vxor y d a b s1 => Sys2Proof.Machine.execVxor y d a b s1 s
  | .vnot y d a s1 => Sys2Proof.Machine.execVnot y d a s1 s
  | .vshl y d a b s1 => Sys2Proof.Machine.execVshl y d a b s1 s
  | .vshr y d a b s1 => Sys2Proof.Machine.execVshr y d a b s1 s
  | .vbfx y d a b s1 => Sys2Proof.Machine.execVbfx y d a b s1 s
  | .vbfi y d a b s1 => Sys2Proof.Machine.execVbfi y d a b s1 s
  | .vfshl y d a b s1 => Sys2Proof.Machine.execVfshl y d a b s1 s
  | .vfshr y d a b s1 => Sys2Proof.Machine.execVfshr y d a b s1 s
  | .vpopc y d a s1 => Sys2Proof.Machine.execVpopc y d a s1 s
  | .vclz y d a s1 => Sys2Proof.Machine.execVclz y d a s1 s
  | .vaddi y d a i1 s1 => Sys2Proof.Machine.execVaddi y d a i1 s1 s
  | .vshli y d a i1 s1 => Sys2Proof.Machine.execVshli y d a i1 s1 s
  | .vshri y d a i1 s1 => Sys2Proof.Machine.execVshri y d a i1 s1 s
  | .vfadd y d a b s1 => Sys2Proof.Machine.execVfadd y d a b s1 s
  | .vfsub y d a b s1 => Sys2Proof.Machine.execVfsub y d a b s1 s
  | .vfmul y d a b s1 => Sys2Proof.Machine.execVfmul y d a b s1 s
  | .vfma y d a b s1 => Sys2Proof.Machine.execVfma y d a b s1 s
  | .vfmin y d a b s1 => Sys2Proof.Machine.execVfmin y d a b s1 s
  | .vfmax y d a b s1 => Sys2Proof.Machine.execVfmax y d a b s1 s
  | .vfabs y d a s1 => Sys2Proof.Machine.execVfabs y d a s1 s
  | .vfneg y d a s1 => Sys2Proof.Machine.execVfneg y d a s1 s
  | .vcmpEq y d a b s1 => Sys2Proof.Machine.execVcmpEq y d a b s1 s
  | .vcmpNe y d a b s1 => Sys2Proof.Machine.execVcmpNe y d a b s1 s
  | .vcmpLt y d a b s1 => Sys2Proof.Machine.execVcmpLt y d a b s1 s
  | .vcmpGe y d a b s1 => Sys2Proof.Machine.execVcmpGe y d a b s1 s
  | .vfcmpEq y d a b s1 => Sys2Proof.Machine.execVfcmpEq y d a b s1 s
  | .vfcmpLt y d a b s1 => Sys2Proof.Machine.execVfcmpLt y d a b s1 s
  | .vfcmpLe y d a b s1 => Sys2Proof.Machine.execVfcmpLe y d a b s1 s
  | .vfcmpUn y d a b s1 => Sys2Proof.Machine.execVfcmpUn y d a b s1 s
  | .mand d a b s1 => Sys2Proof.Machine.execMand d a b s1 s
  | .mor d a b s1 => Sys2Proof.Machine.execMor d a b s1 s
  | .mxor d a b s1 => Sys2Proof.Machine.execMxor d a b s1 s
  | .mnot d a s1 => Sys2Proof.Machine.execMnot d a s1 s
  | .mpopc d a s1 => Sys2Proof.Machine.execMpopc d a s1 s
  | .mfirst d a s1 => Sys2Proof.Machine.execMfirst d a s1 s
  | .msetLt d a s1 => Sys2Proof.Machine.execMsetLt d a s1 s
  | .msetGe d a s1 => Sys2Proof.Machine.execMsetGe d a s1 s
  | .msetQ d a s1 => Sys2Proof.Machine.execMsetQ d a s1 s
  | .vsel y d a b s1 => Sys2Proof.Machine.execVsel y d a b s1 s
  | .vmov y d a s1 => Sys2Proof.Machine.execVmov y d a s1 s
  | .vbcast y d a s1 => Sys2Proof.Machine.execVbcast y d a s1 s
  | .vext y d a b s1 => Sys2Proof.Machine.execVext y d a b s1 s
  | .vins y d a b s1 => Sys2Proof.Machine.execVins y d a b s1 s
  | .vperm y d a b s1 => Sys2Proof.Machine.execVperm y d a b s1 s
  | .vshuf y d a b s1 => Sys2Proof.Machine.execVshuf y d a b s1 s
  | .vrot y d a b s1 => Sys2Proof.Machine.execVrot y d a b s1 s
  | .vredAdd y d a s1 => Sys2Proof.Machine.execVredAdd y d a s1 s
  | .vredMax y d a s1 => Sys2Proof.Machine.execVredMax y d a s1 s
  | .vredMin y d a s1 => Sys2Proof.Machine.execVredMin y d a s1 s
  | .vfredAdd y d a s1 => Sys2Proof.Machine.execVfredAdd y d a s1 s
  | .vfredMax y d a s1 => Sys2Proof.Machine.execVfredMax y d a s1 s
  | .vfredMin y d a s1 => Sys2Proof.Machine.execVfredMin y d a s1 s
  | .vscanAdd y d a f s1 => Sys2Proof.Machine.execVscanAdd y d a f s1 s
  | .vcvt y d a q r w t s1 => Sys2Proof.Machine.execVcvt y d a q r w t s1 s
  | .vquant y d a b s1 => Sys2Proof.Machine.execVquant y d a b s1 s
  | .vdequant y d a s1 => Sys2Proof.Machine.execVdequant y d a s1 s
  | .vsmxUpd d a b s1 => Sys2Proof.Machine.execVsmxUpd d a b s1 s
  | .vsmxFin d a b s1 => Sys2Proof.Machine.execVsmxFin d a b s1 s
  | .vrbias d a b s1 => Sys2Proof.Machine.execVrbias d a b s1 s
  | .vidx y d a s1 => Sys2Proof.Machine.execVidx y d a s1 s
  | .vlut y d a b s1 => Sys2Proof.Machine.execVlut y d a b s1 s
  | .mmt c a b n p s1 r z => Sys2Proof.Machine.execMmt c a b n p s1 r z s
  | .mmtWb c a w n p s1 z => Sys2Proof.Machine.execMmtWb c a w n p s1 z s
  | .scommit c n => Sys2Proof.Machine.execScommit c n s
  | .sdrop c n => Sys2Proof.Machine.execSdrop c n s
  | .accz c n s1 => Sys2Proof.Machine.execAccz c n s1 s
  | .accld c a n s1 => Sys2Proof.Machine.execAccld c a n s1 s
  | .accst c a n s1 t => Sys2Proof.Machine.execAccst c a n s1 t s
  | .accmv c d a s1 l => Sys2Proof.Machine.execAccmv c d a s1 l s
  | .wbload w a n => Sys2Proof.Machine.execWbload w a n s
  | .attb c a b n f z => Sys2Proof.Machine.execAttb c a b n f z s
  | .sfuExp2 y d a k => Sys2Proof.Machine.execSfuExp2 y d a k s
  | .sfuLog2 y d a k => Sys2Proof.Machine.execSfuLog2 y d a k s
  | .sfuRcp y d a k => Sys2Proof.Machine.execSfuRcp y d a k s
  | .sfuRsqrt y d a k => Sys2Proof.Machine.execSfuRsqrt y d a k s
  | .sfuSqrt y d a k => Sys2Proof.Machine.execSfuSqrt y d a k s
  | .sfuSin y d a k => Sys2Proof.Machine.execSfuSin y d a k s
  | .sfuCos y d a k => Sys2Proof.Machine.execSfuCos y d a k s
  | .tint y d a f k => Sys2Proof.Machine.execTint y d a f k s
  | .tload d a f k => Sys2Proof.Machine.execTload d a f k s
  | .topkInit y a k => Sys2Proof.Machine.execTopkInit y a k s
  | .topkFeed y d a k => Sys2Proof.Machine.execTopkFeed y d a k s
  | .topkEmit d a f k => Sys2Proof.Machine.execTopkEmit d a f k s
  | .topkQ d k => Sys2Proof.Machine.execTopkQ d k s
  | .copy x y z e => Sys2Proof.Machine.execCopy x y z e s
  | .copyMmt x y z e => Sys2Proof.Machine.execCopyMmt x y z e s
  | .collOpen x e => Sys2Proof.Machine.execCollOpen x e s
  | .collRed x e => Sys2Proof.Machine.execCollRed x e s
  | .collBar x e => Sys2Proof.Machine.execCollBar x e s
  | .collClose x e => Sys2Proof.Machine.execCollClose x e s
  | .gready x y e => Sys2Proof.Machine.execGready x y e s
  | .gunready x y e => Sys2Proof.Machine.execGunready x y e s
  | .gsend x y o e => Sys2Proof.Machine.execGsend x y o e s
  | .grecv x e => Sys2Proof.Machine.execGrecv x e s
  | .gqpush x y e => Sys2Proof.Machine.execGqpush x y e s
  | .gqwait x e => Sys2Proof.Machine.execGqwait x e s
  | .launch x e => Sys2Proof.Machine.execLaunch x e s
  | .mbsend x o k z e => Sys2Proof.Machine.execMbsend x o k z e s
  | .join c a v m s1 x => Sys2Proof.Machine.execJoin c a v m s1 x s
  | .extImm i1 => Sys2Proof.Machine.execExtImm i1 s
  | .extOrd s1 o c => Sys2Proof.Machine.execExtOrd s1 o c s
  | .extTok w e t g f => Sys2Proof.Machine.execExtTok w e t g f s
  | .extStall c => Sys2Proof.Machine.execExtStall c s
  | .extMask z m => Sys2Proof.Machine.execExtMask z m s
  | .extInd b x y z => Sys2Proof.Machine.execExtInd b x y z s
  | .fetchWord => Sys2Proof.Machine.execFetchWord s
  | .joinRelease => Sys2Proof.Machine.execJoinRelease s
  | .trapEntry cause eng tval => Sys2Proof.Machine.execTrapEntry cause eng tval s
  | .hangTimeout => Sys2Proof.Machine.execHangTimeout s
  | .loadDataReturn seq => Sys2Proof.Machine.execLoadDataReturn seq s
  | .storePerformed seq => Sys2Proof.Machine.execStorePerformed seq s
  | .atomicPerformed seq => Sys2Proof.Machine.execAtomicPerformed seq s
  | .atomicopCompletion seq old => Sys2Proof.Machine.execAtomicopCompletion seq old s
  | .holdQueueNackRetry seq => Sys2Proof.Machine.execHoldQueueNackRetry seq s
  | .camStep => Sys2Proof.Machine.execCamStep s
  | .arrayWindowSwitch arr => Sys2Proof.Machine.execArrayWindowSwitch arr s
  | .relocationTake arr => Sys2Proof.Machine.execRelocationTake arr s
  | .xferAccept => Sys2Proof.Machine.execXferAccept s
  | .copyEngineStep op => Sys2Proof.Machine.execCopyEngineStep op s
  | .followOnIssue op => Sys2Proof.Machine.execFollowOnIssue op s
  | .windowFill win => Sys2Proof.Machine.execWindowFill win s
  | .waitDeadline => Sys2Proof.Machine.execWaitDeadline s
  | .yieldPauseExpiry => Sys2Proof.Machine.execYieldPauseExpiry s
  | .teamEnd team => Sys2Proof.Machine.execTeamEnd team s
  | .wakeRequest ctx src => Sys2Proof.Machine.execWakeRequest ctx src s
  | .parkTimerExpiry ctx => Sys2Proof.Machine.execParkTimerExpiry ctx s
  | .faultWake team key => Sys2Proof.Machine.execFaultWake team key s
  | .quantumExpiry team => Sys2Proof.Machine.execQuantumExpiry team s
  | .teamTakeOff team => Sys2Proof.Machine.execTeamTakeOff team s
  | .teamPlace die => Sys2Proof.Machine.execTeamPlace die s
  | .launchRecordAccept record host part => Sys2Proof.Machine.execLaunchRecordAccept record host part s
  | .demotionThreshold ctx => Sys2Proof.Machine.execDemotionThreshold ctx s
  | .recallStart ctx => Sys2Proof.Machine.execRecallStart ctx s
  | .busyCountZero obj => Sys2Proof.Machine.execBusyCountZero obj s
  | .pageCopyComplete obj => Sys2Proof.Machine.execPageCopyComplete obj s
  | .directoryRebind obj => Sys2Proof.Machine.execDirectoryRebind obj s
  | .dirinvArrival die obj ver => Sys2Proof.Machine.execDirinvArrival die obj ver s
  | .backgroundLinePull obj => Sys2Proof.Machine.execBackgroundLinePull obj s
  | .rowPrecharge row parityOk => Sys2Proof.Machine.execRowPrecharge row parityOk s
  | .refreshWindow row => Sys2Proof.Machine.execRefreshWindow row s
  | .channelRateChange ch rate => Sys2Proof.Machine.execChannelRateChange ch rate s
  | .rateChangeComplete ch => Sys2Proof.Machine.execRateChangeComplete ch s
  | .priResponse key code => Sys2Proof.Machine.execPriResponse key code s
  | .hostTableSnoop line data => Sys2Proof.Machine.execHostTableSnoop line data s
  | .walkerLineEviction die line => Sys2Proof.Machine.execWalkerLineEviction die line s
  | .atsInvalidation page => Sys2Proof.Machine.execAtsInvalidation page s
  | .hostSnoop line data => Sys2Proof.Machine.execHostSnoop line data s
  | .backInvalidateResponse line data => Sys2Proof.Machine.execBackInvalidateResponse line data s
  | .hostCxlMemAccess write addr size data => Sys2Proof.Machine.execHostCxlMemAccess write addr size data s
  | .poolTransferCompletion obj ok => Sys2Proof.Machine.execPoolTransferCompletion obj ok s
  | .registerWrite off val => Sys2Proof.Machine.execRegisterWrite off val s
  | .partitionRegisterWrite part off val => Sys2Proof.Machine.execPartitionRegisterWrite part off val s
  | .lqbaseWrite part val => Sys2Proof.Machine.execLqbaseWrite part val s
  | .doorbell part val => Sys2Proof.Machine.execDoorbell part val s
  | .setShared part obj => Sys2Proof.Machine.execSetShared part obj s
  | .clearShared part obj => Sys2Proof.Machine.execClearShared part obj s
  | .invalidateHostTranslations part root => Sys2Proof.Machine.execInvalidateHostTranslations part root s
  | .poolRegisterWrite off val => Sys2Proof.Machine.execPoolRegisterWrite off val s
  | .groupCreate part plim index => Sys2Proof.Machine.execGroupCreate part plim index s
  | .groupDestroy index => Sys2Proof.Machine.execGroupDestroy index s
  | .clearPartition part => Sys2Proof.Machine.execClearPartition part s
  | .fabpartWrite part val => Sys2Proof.Machine.execFabpartWrite part val s
  | .fabidWrite val => Sys2Proof.Machine.execFabidWrite val s
  | .dommapWrite dev val => Sys2Proof.Machine.execDommapWrite dev val s
  | .attest => Sys2Proof.Machine.execAttest s
  | .reset => Sys2Proof.Machine.execReset s
  | .readlog => Sys2Proof.Machine.execReadlog s
  | .mcmdRefused => Sys2Proof.Machine.execMcmdRefused s
  | .gctlWrite val => Sys2Proof.Machine.execGctlWrite val s
  | .gqRegisterWrite q reg val => Sys2Proof.Machine.execGqRegisterWrite q reg val s
  | .gqctlStopWrite q stop => Sys2Proof.Machine.execGqctlStopWrite q stop s
  | .fabricRequestArrival p => Sys2Proof.Machine.execFabricRequestArrival p s
  | .respArrival p => Sys2Proof.Machine.execRespArrival p s
  | .ctxopArrival op handle val => Sys2Proof.Machine.execCtxopArrival op handle val s
  | .mboxArrival p => Sys2Proof.Machine.execMboxArrival p s
  | .fabricNackResend xid => Sys2Proof.Machine.execFabricNackResend xid s
  | .deadlockRecoveryTimer xid => Sys2Proof.Machine.execDeadlockRecoveryTimer xid s
  | .gadvAtSwitch p port => Sys2Proof.Machine.execGadvAtSwitch p port s
  | .gadvAtHome p => Sys2Proof.Machine.execGadvAtHome p s
  | .gregArrival p => Sys2Proof.Machine.execGregArrival p s
  | .gsendAtSwitch p port => Sys2Proof.Machine.execGsendAtSwitch p port s
  | .gsendAtDevice p => Sys2Proof.Machine.execGsendAtDevice p s
  | .gsendAtHome p => Sys2Proof.Machine.execGsendAtHome p s
  | .grefuseAtSwitch p port => Sys2Proof.Machine.execGrefuseAtSwitch p port s
  | .grefuseAtSender p => Sys2Proof.Machine.execGrefuseAtSender p s
  | .targetedRefusalAtHome p => Sys2Proof.Machine.execTargetedRefusalAtHome p s
  | .gacceptArrival p => Sys2Proof.Machine.execGacceptArrival p s
  | .gconsArrival p => Sys2Proof.Machine.execGconsArrival p s
  | .gwdrawArrival p => Sys2Proof.Machine.execGwdrawArrival p s
  | .parkingNackRetry xid => Sys2Proof.Machine.execParkingNackRetry xid s
  | .readinessCacheRefresh group entries => Sys2Proof.Machine.execReadinessCacheRefresh group entries s
  | .cctlOpenArrival p => Sys2Proof.Machine.execCctlOpenArrival p s
  | .credArrival p => Sys2Proof.Machine.execCredArrival p s
  | .slotTimeout slot => Sys2Proof.Machine.execSlotTimeout slot s
  | .cresArrival p => Sys2Proof.Machine.execCresArrival p s
  | .collLostContact op => Sys2Proof.Machine.execCollLostContact op s
  | .cctlCloseArrival p => Sys2Proof.Machine.execCctlCloseArrival p s
  | .powerOnReset pufOk fwOk trainOk cfg => Sys2Proof.Machine.execPowerOnReset pufOk fwOk trainOk cfg s
  | .powerLimit level => Sys2Proof.Machine.execPowerLimit level s
  | .criticalTemperature => Sys2Proof.Machine.execCriticalTemperature s
  | .guestLinksTrained => Sys2Proof.Machine.execGuestLinksTrained s
  | .mrec record => Sys2Proof.Machine.execMrec record s
  | .mrecTimeout => Sys2Proof.Machine.execMrecTimeout s
  | .queuePacketWrite op => Sys2Proof.Machine.execQueuePacketWrite op s
  | .qconsume q head => Sys2Proof.Machine.execQconsume q head s
  | .preack q => Sys2Proof.Machine.execPreack q s
  | .xlreq tag q seq va kind => Sys2Proof.Machine.execXlreq tag q seq va kind s
  | .ginvack grant => Sys2Proof.Machine.execGinvack grant s
  | .ginvDeadline grant => Sys2Proof.Machine.execGinvDeadline grant s
  | .fault tag => Sys2Proof.Machine.execFault tag s
  | .faultReportDeadline tag => Sys2Proof.Machine.execFaultReportDeadline tag s
  | .preemptDeadline q => Sys2Proof.Machine.execPreemptDeadline q s
  | .guestMemoryRequest g => Sys2Proof.Machine.execGuestMemoryRequest g s
  | .guestLinkLoss => Sys2Proof.Machine.execGuestLinkLoss s
  | .guestResetComplete => Sys2Proof.Machine.execGuestResetComplete s
  | .hostPortDown port up => Sys2Proof.Machine.execHostPortDown port up s
  | .ualinkPortDown port up => Sys2Proof.Machine.execUalinkPortDown port up s
  | .hostMailboxWrite handle mb val => Sys2Proof.Machine.execHostMailboxWrite handle mb val s
  | .guestMessageUnlistedType => Sys2Proof.Machine.execGuestMessageUnlistedType s

end Sys2Proof.Machine
end

