-- ==== Sys2Proof/Machine/Issue.lean ====
section
/-! DEFINITION. Which unit of the stepping strand issues, and how a fetched word reaches its issue (02_execution_model.md R33 to R36,
R39, R47; 06_instruction_encoding.md R94, R99; 22_faults_and_translation.md R350, R355). -/

namespace Sys2Proof.Machine

/-! What holds a head unit (R36, R47, R94, R99). -/

/-- The operands of a unit; none for one that only makes its queue traffic (R348). A word that is no instruction waits for the operands that
its opcode names (R35). -/
noncomputable def unitRoles (u : EUnit) : Roles :=
  if u.skip.isSome then {} else match decode u.word with | .ok i => rolesOf i | .error _ => laxRoles u.word

/-- Units of a queue that wait to issue. -/
def waitingUnits (q : List QItem) : List EUnit := q.filterMap QItem.unit?

/-- Every waiting unit of the strand. -/
def Strand.waiting (t : Strand) : List EUnit := (Eng.all.map (fun e => waitingUnits (t.q.get e))).flatten

/-- Two lists of scalars share one that is not s0. -/
def sharesScalar (a b : List (BitVec 6)) : Bool := a.any (fun x => x ≠ 0 && b.contains x)

/-- Scalars that the access record is still to write. A trap handler's s1 to s10 are its own (R344), and a frozen faulted access does
not hold it. Assumption 40, DEDUCED. -/
def recordWrites (t : Strand) : List (BitVec 6) :=
  let of := fun (e : RecEntry) => match e.req.dest with
    | .scalar d _ _ => [d]
    | .pair d => [d, d + 1]
    | _ => []
  (t.arec.map of).flatten ++ (match t.frame with
    | some f => ((f.arec.filter (·.state != .faulted)).map of).flatten.filter (fun d => 10 < d.toNat)
    | none => [])

/-- Scalars are used in fetch order (R36): a unit waits for earlier units that write what it reads or writes, or read what it writes,
and for loads that are still to deliver. Assumption 40, DEDUCED. -/
noncomputable def scalarHolds (t : Strand) (u : EUnit) : Bool :=
  let r := unitRoles u
  let reads := r.scalarReads u
  let uses := reads ++ r.writes
  sharesScalar uses (recordWrites t) ||
  t.waiting.any (fun e => e.seq < u.seq &&
    (let q := unitRoles e
     sharesScalar uses q.writes || sharesScalar r.writes (q.scalarReads e)))

/-- Masks that an ACC word reads or writes, and descriptors. -/
def accMasks (i : Instr) (u : EUnit) : List Nat :=
  (match u.ext 4 with | some w => [fldN w 0 4] | none => []) ++
  (match i with
   | .ldM _ d _ _ | .stM _ d _ _ => [d.toNat]
   | _ => [])
def accDescs : Instr → List Nat
  | .sfetch _ _ a _ => [a.toNat]
  | .gathb _ _ _ a _ => [a.toNat]
  | .dld _ d _ _ | .dst _ d _ _ => [d.toNat]
  | .dset d _ _ => [d.toNat]
  | .wmap _ d _ _ => [d.toNat]
  | _ => []

/-- A barrier wait whose return is an acquire (R138). -/
noncomputable def barrierAcquires (u : EUnit) : Bool :=
  match decode u.word with
  | .ok (.barSync _ m) | .ok (.barWait _ m) | .ok (.barWaitt _ m _ _) => m == 1
  | _ => false

/-- The vector registers that an ACC word uses: `gathb` writes as many from D on as its descriptor says (R167). -/
def accRegs (i : Instr) (t : Strand) (u : EUnit) : List Nat :=
  match i with
  | .gathb _ d tr a b => (rolesOf (.gathb 0 d tr a b)).regs t u (·.src) ++ (match t.vname u 19 d with
    | .reg n => (List.range (chunkEntries (t.dr a.toNat))).map (fun j => (n + j) % 256)
    | .queue _ => [])
  | i => (rolesOf i).regs t u (fun _ => true)

/-- The head of the ACC queue is held: an earlier barrier wait with M = 1 has not returned (R138), a faulted access halts the access unit
(R47), a ring word is not performed yet (R169), or an earlier load of the queue is still to deliver a vector, mask or descriptor that the word uses (R94).
Assumption 39, DEDUCED. -/
noncomputable def accHolds (t : Strand) (u : EUnit) : Bool :=
  let i := if u.skip.isSome then .nop else (decode u.word).toOption.getD .nop
  let regs := accRegs i t u
  (waitingUnits t.q.ctrl).any (fun e => e.seq < u.seq && barrierAcquires e) ||
  t.arec.any (fun e => e.req.kind != .fill && (e.state == .faulted || e.req.ring.isSome)) ||
  t.earlier.any (fun e => match e.req.dest with
     | .vecs l => l.any regs.contains
     | .mask n => (accMasks i u).contains n
     | .desc n => (accDescs i).contains n
     | _ => false)

/-- The unit carries an encoding fate that the splitter sees (R99): one that neither a scalar nor a CSR written by the strand decides. -/
noncomputable def marked (s : State) (u : EUnit) : Bool :=
  let s := s.onCs (fun t => { t with unit := u })
  let t := s.cs
  if u.skip.isSome then false else
  match decode u.word with
  | .error _ => true
  | .ok i =>
    let r := rolesOf i
    let fixed : Roles := { r with
      d := if u.indirect 19 then none else r.d, a := if u.indirect 18 then none else r.a, b := if u.indirect 17 then none else r.b }
    let ok := match i with
      | .topkFeed .. | .vrbias .. => i.fieldsOk
      | _ => i.fieldsOk && dynamicOk i t u (s.array t.arrayNo).amode
    u.badKind || (isPrivileged i && !t.priv) || u.loopBad || u.patchBad || !ok || !extsOk r (clsInWord i) u ||
    !fixed.fieldsOk t u s.csTeam.hdr.nv || (t.frame.isSome && !(r.pops t u ++ r.pushes t u).isEmpty) ||
    (match u.followUnit with
     | some fu => engineOf u.word == 5 && (followFate s fu).isSome
     | none => false)

/-- The hold marker of R99: a marked unit of another queue, earlier in fetch order, has not trapped yet. -/
noncomputable def markerHolds (s : State) (u : EUnit) : Bool :=
  ((Eng.all.filter (· ≠ .ctrl)).map (fun e => waitingUnits (s.cs.q.get e))).flatten.any (fun e => e.seq < u.seq && marked s e)

/-- A marked unit traps once every earlier CTRL word has completed (R99). -/
noncomputable def markWaits (s : State) (u : EUnit) : Bool := (waitingUnits s.cs.q.ctrl).any (·.seq < u.seq) && marked s u

/-- The head unit `u` of queue `e` is not held by anything outside the word itself. -/
noncomputable def mayIssue (s : State) (e : Eng) (u : EUnit) : Bool :=
  !scalarHolds s.cs u && (e != .acc || !accHolds s.cs u) && (if e == .ctrl then !markerHolds s u else !markWaits s u)

/-! Issue. -/

/-- The fate of a word that is no instruction, in the order of R99 (R98). -/
def badFate (c : DecErr) (s : State) : Cause :=
  let u := s.cs.unit
  if u.badKind then .illegalOpcode
  else match c with
    | .illegalOpcode => .illegalOpcode
    | .illegalField => if !s.cs.priv && opcodePrivileged u.word then .privilege else .illegalField

/-- The issue of a word that is no instruction: its waits, then its trap (R35, R99). An `attb` whose SPEC or REL bit is set names its
descriptor dQ (R225). -/
noncomputable def badWord (c : DecErr) (s : State) : State :=
  let u := s.cs.unit
  match attbModes u.word with
  | some i => issue i s (fun _ => .trap .illegalField (BitVec.ofNat 64 (fldN u.word 15 4)))
  | none =>
    if engineOf u.word = 5 then xferWith {} (some (badFate c s)) none s (fun _ => .wait)
    else issueWith (laxRoles u.word) (some (badFate c s)) s (fun _ => .wait)

/-- Queue traffic that `rtt.next` has left to make: it waits for its entries, and the unit's signals follow (R348, R351). -/
def skipUnit (pops pushes : List Nat) (s : State) : State :=
  let t := s.cs
  if (List.range 8).all (fun q => t.qready q (pops.count q) && pushes.count q ≤ t.qfree q + pops.count q) then
    s.onCs (fun t => ((t.emptyTraffic pops pushes).signalUnit t.unit).setHeld false)
  else s.onCs (fun t => t.setHeld true)

/-- The unit `u` runs: it is the issuing unit of the stepping strand. -/
noncomputable def runUnit (u : EUnit) (s : State) : Result :=
  let s := s.onCs (fun t => { t with unit := u })
  match u.skip with
  | some (pops, pushes) => .next (skipUnit pops pushes s)
  | none =>
    match decode u.word with
    | .ok i => exec i s
    | .error c => .next (badWord c s)

/-- RESUME of the record (R350): the first unit of the ACC queue that has not issued, else the fetch address. -/
def Strand.resumeAddr (t : Strand) : Dword :=
  match waitingUnits t.q.acc with
  | u :: _ => u.addr
  | [] => t.pc

/-- The key of an engine of the strand's core in `State.served`. -/
def Strand.engineNo (t : Strand) (e : Eng) : Nat := 8 * t.l1No + e.num

/-- The head unit `u` of the stepping strand is about to issue: it leaves queue `e`, and the engine serves its strand (R33). -/
def State.serves (s : State) (e : Eng) : State :=
  ({ s with served := Sparse.set 0 s.served (s.cs.engineNo e) (s.cs.slot.toNat + 1) } : State).onCs (fun t =>
    let t := { t.progress with q := t.q.set e ((t.q.get e).drop 1), held := false }
    if e = .acc then { t with resume := t.resumeAddr } else t)

/-- The head unit `u` leaves queue `e` and issues; one that must wait goes back. The answer says whether it issued. -/
noncomputable def issueUnit (s : State) (e : Eng) (u : EUnit) : Result × Bool :=
  let old := s.cs
  match runUnit u (s.serves e) with
  | .next s' =>
    if s'.cs.held then
      (.next (({ s' with served := s.served } : State).onCs (fun t => { t with
        q := t.q.set e (.unit u :: t.q.get e), unit := old.unit, held := false, resume := old.resume, hangTimer := old.hangTimer })), false)
    else (.next s', true)
  | r => (r, true)

/-- A head of the strand's queue `e` is ready: it would issue now. -/
noncomputable def headReady (s : State) (e : Eng) (t : Strand) : Bool :=
  match t.q.get e with
  | .unit u :: _ =>
    let s := { s with cs := t }
    mayIssue s e u && (issueUnit s e u).2
  | _ => false

/-- The turns that an engine takes before it comes to slot `n`, when slot `last` − 1 was served last (R33). -/
def slotTurn (last n : Nat) : Nat := (n + 4 - last % 4) % 4

/-- Another strand of the core with a ready head comes before the stepping strand in the engine's round (R33). -/
noncomputable def engineTaken (s : State) (e : Eng) : Bool :=
  let last := Sparse.get 0 s.served (s.cs.engineNo e)
  s.others.any (fun t => t.live && t.l1No == s.cs.l1No && slotTurn last t.slot.toNat < slotTurn last s.cs.slot.toNat && headReady s e t)

/-- The head units in fetch order: markers wait for their JOIN. -/
def Strand.headUnits (t : Strand) : List (Eng × EUnit) :=
  let l := Eng.all.filterMap (fun e => match t.q.get e with | .unit u :: _ => some (e, u) | _ => none)
  l.foldl (fun o x => ins x o) []
where
  /-- Insertion by place in fetch order. -/
  ins (x : Eng × EUnit) : List (Eng × EUnit) → List (Eng × EUnit)
    | [] => [x]
    | y :: l => if x.2.seq < y.2.seq then x :: y :: l else y :: ins x l

/-- The first of the head units that can issue does (assumption 9). -/
noncomputable def issueHeads : List (Eng × EUnit) → State → Result × Bool
  | [], s => (.next s, false)
  | (e, u) :: l, s =>
    if mayIssue s e u && !engineTaken s e then
      match issueUnit s e u with
      | (.next s', false) => issueHeads l s'
      | r => r
    else issueHeads l s

/-! Fetch up to the issue. -/

/-- A word that fetch has found goes to its queue; it issues in the same step where nothing holds it. The answer says whether the word was
taken. -/
noncomputable def takeWord (s : State) (w : Word) : Result × Bool :=
  if engineOf w = 7 then
    (match decode w with
     | .ok i => exec i s
     | .error _ => .next (latchExt w s), true)
  else
    let s1 := splitWord s w
    let e := engOf w
    (match s1.cs.q.get e with
     | [.unit u] => if u.seq = s.nextSeq && mayIssue s1 e u && !engineTaken s1 e then (issueUnit s1 e u).1 else .next s1
     | _ => .next s1, s1.nextSeq != s.nextSeq)

/-- One word of the stepping strand is fetched; the answer says whether fetch went on. -/
noncomputable def fetchStep (s : State) : Result × Bool :=
  if !s.cs.fetches then (.next s, false)
  else
    match fetchRead s with
    | .word s w => takeWord s w
    | .wait s => (.next s, false)
    | .fault s c => (.next (s.trapFetch c), true)

/-- Time passes until the earliest pending write of each queue is complete. -/
def Strand.settleNext (t : Strand) : Strand :=
  let first := fun (l : List PendWrite) (c : Nat) => l.foldl (fun c p => min c p.ready) ((l.head?.map (·.ready)).getD c)
  let v := first t.pend t.vclk
  let t := ({ t with vclk := max t.vclk v } : Strand).settlePend false v
  let x := first t.spend t.sclk
  ({ t with sclk := max t.sclk x } : Strand).settlePend true x

/-- A step of the stepping strand: one unit issues, or one word is fetched. Where neither is possible, the next pending writes complete,
for whose signals it may be waiting (R43). Assumption 9, DEDUCED. -/
noncomputable def strandStep (s : State) : Result :=
  if !s.cs.live then .next s
  else
    match issueHeads s.cs.headUnits s with
    | (.next s1, false) =>
      match fetchStep s1 with
      | (.next s2, false) => .next (s2.onCs Strand.settleNext)
      | (r, _) => r
    | (r, _) => r

end Sys2Proof.Machine
end

