-- ==== Sys2Proof/Machine/Events.lean ====
section
/-! DEFINITION. The steps that the device takes besides issue: those of the outside world (`inputs`), those that are due because of an
earlier step (`due`), and those whose condition now holds (R33, R45, R222, R227, R230, R251, R256, R284, R297, R301, R332, R335, R338,
R340 to R342, R349, R355, R382). Each is offered as one function of the state, and taken where it changes the state. -/

namespace Sys2Proof.Machine

/-- A step that may be due. -/
abbrev Offer := State → Result

/-! What arrives (R327, R349, R379). -/

/-- The step of a packet that has arrived at this device. A group message goes to its unit, to the home's parking store or to a member
of this device; a refusal goes to the home of a targeted message or back to its sender. -/
noncomputable def packetEvent (s : State) (p : Packet) : Instr :=
  let home := homeDev p.group == s.devNum
  if p.type = ptRESP then .respArrival p
  else if p.type = ptGSEND then
    if p.targeted then .gsendAtDevice p else if home || p.toPark then .gsendAtHome p else .gsendAtDevice p
  else if p.type = ptGREFUSE then (if p.targeted && p.unit ≠ 0 then .targetedRefusalAtHome p else .grefuseAtSender p)
  else if p.type = ptGACCEPT then .gacceptArrival p
  else if p.type = ptGADV then .gadvAtHome p
  else if p.type = ptGREG then .gregArrival p
  else if p.type = ptGCONS then .gconsArrival p
  else if p.type = ptGWDRAW then .gwdrawArrival p
  else if p.type = ptMBOX then .mboxArrival p
  else if p.type = ptCRED then .credArrival p
  else if p.type = ptCRES then .cresArrival p
  else if p.type = ptCCTL then (if p.payload.isEmpty then .cctlCloseArrival p else .cctlOpenArrival p)
  else if p.type = ptDIRINV && argOk p && lenOk p then
    .dirinvArrival p.ddie (BitVec.ofNat 48 (leNat (p.data.take 8))) (BitVec.ofNat 32 (leNat ((p.data.drop 8).take 4)))
  else if p.type = ptCTXOP && argOk p && lenOk p then
    .ctxopArrival (p.arg.extractLsb' 32 3) (p.arg.setWidth 32) (BitVec.ofNat 64 (leNat (p.data.take 8)))
  else .fabricRequestArrival p

/-- The step of something due. -/
noncomputable def dueEvent (s : State) : Due → Instr
  | .faultWake team key => .faultWake team key
  | .wake ctx src => .wakeRequest ctx src
  | .packet p => packetEvent s p
  | .command op => if op = 1 then .attest else if op = 2 then .reset else .readlog

/-- The next step of the outside world, or the next that is due. An instruction word is no step of the outside world. -/
noncomputable def arrival (s : State) : Option Result :=
  match s.inputs, s.due with
  | i :: l, _ => some (if i.isWord then .next { s with inputs := l } else exec i { s with inputs := l })
  | [], d :: l => some (exec (dueEvent s d) { s with due := l })
  | [], [] => none

/-! Steps of the stepping strand. -/

/-- Entries of the record whose failure is due as a trap (R347, R349); a window's chunks are reported by the ring words (R170). -/
def failedEntry (t : Strand) : Option (RecEntry × Cause × Dword) :=
  t.arec.findSome? (fun e => if e.req.kind == .fill then none else e.fail.map (fun f => (e, f.1, f.2)))

/-- Trap entry for a failed entry, JOIN release, the Cam sequencer or another array for it (R342), acceptance of an XFER word, hang
detection. -/
noncomputable def strandOffers (s : State) : List Offer :=
  let t := s.cs
  if !t.live then []
  else
    (match failedEntry t with
     | some (e, c, v) => [fun s => exec (.trapEntry c.code (BitVec.ofNat 3 (engineOf e.unit.word)) v) (s.onCs (fun t => { t with unit := e.unit }))]
     | none => []) ++
    (if (joinReady t).isSome then [exec .joinRelease] else []) ++
    (match takerOf s with
     | some n => [exec (.relocationTake (BitVec.ofNat 8 n))]
     | none => []) ++
    (if t.mtx.isSome then
      if s.camReady t then [exec .camStep]
      else if (s.array t.arrayNo).amode = 2 then [exec (.arrayWindowSwitch (BitVec.ofNat 8 t.arrayNo))] else []
     else []) ++
    (if t.xpend.isSome then [exec .xferAccept] else []) ++
    (if hangDue s then [exec .hangTimeout] else [])

/-! Accesses, operations and windows. -/

/-- The step that completes or retries an entry of a strand's record. -/
noncomputable def entryOffers (s : State) (t : Strand) : List Offer :=
  let ready := fun (e : RecEntry) => e.state == .pending && e.fail.isNone && s.allAnswered e.seq
  let one := fun (e : RecEntry) => if e.state == .held || e.state == .nacked then
      (if s.holdTurn e.seq then [exec (.holdQueueNackRetry e.seq)] else [])
    else if !ready e || isHostAtomic s e.seq then []
    else if e.req.atom.isSome then [exec (.atomicPerformed e.seq)]
    else if e.req.write then [exec (.storePerformed e.seq)] else [exec (.loadDataReturn e.seq)]
  let frame := match t.frame with
    | some f => f.arec ++ f.mreq.toList
    | none => []
  ((t.arec ++ t.mreq.toList ++ t.fetchReq.toList ++ frame).map one).flatten

/-- The unit's TOK wait is for the counter, and holds (R44). -/
def tokWaits (t : Strand) (u : EUnit) (e : BitVec 4) : Bool :=
  match u.ext 2 with
  | some x => t.tokHolds u && fld x 21 4 == e
  | none => false

/-- A head unit of the strand waits for the counter, or a JOIN at which fetch stands does (R44, R45, R230). -/
noncomputable def waitsOn (s : State) (t : Strand) (e : BitVec 4) : Bool :=
  t.headUnits.any (fun h => h.2.skip.isNone && (tokWaits t h.2 e ||
    (match decode h.2.word with
     | .ok (.evWait n c) => n == e && !satisfied (t.ev n) c
     | _ => false))) ||
  (t.fetches && tokWaits t { pfx := t.pfx.words } e && (match fetchRead { s with cs := t } with
    | .word _ w => engineOf w == 6
    | _ => false))

/-- An operation at a page that is being resolved, for whose counter its strand waits, parks the team (R230).
Assumption 48, DEDUCED. -/
noncomputable def opPark (o : XOp) (s : State) : State :=
  match o.stat, s.strand? o.team o.sid, s.team? o.team with
  | .waiting key, some t, some m =>
    if s.resolves.any (fun r => r.key == key) && !m.faults.contains key &&
        ((o.en ≠ 0 && waitsOn s t o.en) || o.sig.any (waitsOn s t)) then holdTeam s o.team key
    else s
  | _, _, _ => s

/-- The step of an accepted operation, or of one that no strand waits for. -/
noncomputable def opOffers (o : XOp) : List Offer :=
  if o.isFree then [exec (.copyEngineStep o.id)] else
  (match o.kind with
   | .gqpush => if o.progress = 0 then [exec (.copyEngineStep o.id)] else [exec (.queuePacketWrite o.id)]
   | .copyMmt => if o.flag then [exec (.followOnIssue o.id)] else [exec (.copyEngineStep o.id)]
   | .launch => if o.progress ≠ 0 then [exec (.launchRecordAccept (BitVec.ofNat 512 (leNat o.payload)) false (fld o.ctx 16 6))] else []
   | .collRed | .collBar => [exec (.copyEngineStep o.id), exec (.collLostContact o.id)]
   | _ => [exec (.copyEngineStep o.id)]) ++ [fun s => .next (opPark o s), fun s => .next (raiseEnded s o.team o.sid)]

/-- The number of an operation's strand. -/
def XOp.strandNo (o : XOp) : Nat := 64 * o.team + o.sid

/-- The operations of the copy engines, or of the message units, in the order in which they are served: the strands in turn, those after the
strand served last first, and each strand's in the order of their acceptance (R341). -/
def opsInTurn (s : State) (send : Bool) : List XOp :=
  let last := if send then s.sendTurn else s.copyTurn
  let l := orderBy (fun a b => decide (a.strandNo < b.strandNo)) (s.ops.filter (fun o => toMessageUnit o.kind == send))
  l.filter (fun o => last < o.strandNo) ++ l.filter (fun o => o.strandNo ≤ last)

/-- A step of an operation that changes anything is its strand's turn, and the other kind of agent comes next. -/
def tookTurn (o : XOp) (f : Offer) (s : State) : Result :=
  match f s with
  | .next s' => .next (if s' = s then s
    else if toMessageUnit o.kind then { s' with sendTurn := o.strandNo, sendsNext := false }
    else { s' with copyTurn := o.strandNo, sendsNext := true })
  | r => r

/-- The steps of the copy engines or of the message units. -/
noncomputable def agentOffers (s : State) (send : Bool) : List Offer :=
  ((opsInTurn s send).map (fun o => (opOffers o).map (tookTurn o))).flatten

/-- A message that waits at a unit is delivered once its page is there, or its failure known (R247). -/
def unitOffers (s : State) (u : GUnit) : List Offer :=
  match u.waiting with
  | some p => if u.fail.isSome || s.resolves.all (·.key ≠ u.key) then [fun s => .next (deliver s u p)] else []
  | none => []

/-- A NACKed packet is sent again (R384, R392). -/
noncomputable def nackOffers (x : Pending) : List Offer :=
  if !x.nacked then [] else if x.pkt.type = ptGSEND then [exec (.parkingNackRetry x.xid)] else [exec (.fabricNackResend x.xid)]

/-! Pages and contexts (R297, R301, R302). -/

/-- The next step of a page's migration. Transfers with the pool complete as the pool says (POOL_TRANSFER_COMPLETION). -/
noncomputable def pageOffers (p : Pde) : List Offer :=
  match p.mig with
  | none => []
  | some m =>
    if m.line then [exec (.backgroundLinePull p.obj)]
    else if !m.drained then [exec (.busyCountZero p.obj)]
    else if !m.copied then [exec (.pageCopyComplete p.obj)]
    else if !m.rebinding then [exec (.directoryRebind p.obj)] else []

/-- The mean duration of a tier step in whole ns, the rest dropped, `start` before the first (R297). The manual gives no rounding.
Assumption 73, DESIGN CHOICE. -/
def stepMean (s : State) (pair start : Nat) : Nat :=
  let l := Sparse.get [] s.moves pair
  if l.isEmpty then start else l.foldl (· + ·) 0 / l.length

/-- Frames of T2 that the save images of a context take (R354). -/
def savesInPool (s : State) (i : Nat) : Nat := (teamsOf s i).foldl (fun n m => n + (m.save.filter inPool).length) 0

/-- The estimated time in ns of a context's recall (R297). Assumption 33, DESIGN CHOICE. -/
def recallTime (s : State) (i : Nat) : Nat :=
  let up := stepMean s 9 8000
  let top := stepMean s 4 500
  let page := fun (p : Pde) => if p.recallTier.toNat < p.tier.toNat then
    (if p.tier = 2 then up else 0) + (if p.recallTier = 0 then top else 0) else 0
  (s.pdes.filter (fun p => handleIndex p.owner == i)).foldl (fun n p => n + page p) 0 +
    up * savesInPool s i

/-- TIME has reached W − lead, lead = 1.25 T + 100 µs (R297). -/
def recallDue (s : State) (i : Nat) : Bool :=
  match (s.entry i).wake with
  | some w => w ≤ s.time + recallTime s i * 5 / 4 + 100000
  | none => false

/-- A context's own timers: demotion, recall, the conditions of its park (R256, R297, R299). -/
noncomputable def ctxOffers (s : State) (i : Nat) : List Offer :=
  let c := s.entry i
  let id := BitVec.ofNat 16 i
  let away := c.state == .parked || c.state == .swapped
  let back := (c.state == .swapped && c.recalling) ||
    (away && recallDue s i && (c.state == .swapped || s.pdes.any (fun p => handleIndex p.owner == i && p.needsRecall)))
  (if back then [exec (.recallStart id)]
   else if away && c.wake.isSome && !recallDue s i then [exec (.demotionThreshold id)] else []) ++
  (match c.cond with
   | some k => if condHolds s k c.latch ≠ 0 then [exec (.parkTimerExpiry id)] else []
   | none => [])

/-! Teams, launches and queues (R32, R331, R332, R337, R338, R349). -/

/-- The end and the take-off of a team. -/
noncomputable def teamOffers (s : State) (m : Team) : List Offer :=
  (if m.started && teamDone s m then [exec (.teamEnd m.id)] else []) ++
  (if m.placed && !m.faults.isEmpty then [exec (.teamTakeOff m.id)] else [])

/-- A strand of the team has a `park` or `halt` that is ready to issue: the team leaves by its own word (R340). -/
noncomputable def leavesItself (s : State) (m : Team) : Bool :=
  s.strands.any (fun t => t.live && t.team == m.id && headReady s .ctrl t && (match t.q.ctrl with
    | .unit u :: _ => match decode u.word with
      | .ok (.park ..) | .ok .parkEnd | .ok (.halt ..) => true
      | _ => false
    | _ => false))

/-- The teams whose quantum is over: the lowest priority first, then the one placed longest (R338). -/
noncomputable def expired (s : State) : List Team :=
  orderBy (fun a b => prioOf s a < prioOf s b || (prioOf s a == prioOf s b && decide (a.placedAt < b.placedAt)))
    (s.teams.filter (fun m => m.placed && m.quantumEnd ≤ s.time && !leavesItself s m))

/-- The record at HEAD of a partition's launch queue (R332). -/
def queueRecord (s : State) (part : Nat) : BitVec 512 :=
  let base := s.pcbReg part 0x100
  let head := (s.pcbReg part 0x108).toNat
  let a := base.toNat / 2 ^ 12 * 2 ^ 12 + head % 2 ^ (base.toNat % 16 + 3) * 64
  BitVec.ofNat 512 (memNat s.mem (hostKey (ioAddr s (BitVec.ofNat 6 part) a)) 64)

/-- A partition's launch queue and its command in progress (R332, R369). -/
noncomputable def partOffers (s : State) (part : Nat) : List Offer :=
  (if s.pcbReg part 0x108 ≠ s.pcbReg part 0x110 then
    [exec (.launchRecordAccept (queueRecord s part) true (BitVec.ofNat 6 part))] else []) ++
  (if (s.pcbReg part 0x028).getLsbD 63 then [fun s => .next (advancePcmd s (BitVec.ofNat 6 part))] else [])

/-- The partitions whose control block differs from reset. -/
def partsInUse (s : State) : List Nat := (s.pcb.map (fun c => c.1 / 0x20000)).dedup

/-- Dies whose contexts have a team that is not placed. -/
def diesWaiting (s : State) : List Nat :=
  ((s.teams.filter (fun m => !m.placed && !m.ended)).map (fun m => (handleDie m.ctx).toNat)).dedup

/-! The offers of a state, in order. -/

noncomputable def offers (s : State) : List Offer :=
  strandOffers s ++
  agentOffers s s.sendsNext ++ agentOffers s (!s.sendsNext) ++
  ((s.strands.map (entryOffers s)).flatten) ++
  (s.windows.map (fun w => exec (.windowFill w.id))) ++
  ((s.units.map (unitOffers s)).flatten) ++
  ((s.pending.map nackOffers).flatten) ++
  (((pagesInOrder s (s.pdes.filter (·.mig.isSome))).map pageOffers).flatten) ++
  ((s.ctxs.map (fun c => ctxOffers s c.1)).flatten) ++
  ((s.teams.map (teamOffers s)).flatten) ++
  ((expired s).map (fun m => exec (.quantumExpiry m.id))) ++
  ((s.launches.filter (·.kernel)).map (fun l => fun s => .next (launchKernel s l.id))) ++
  ((s.launches.filter (·.ready)).map (fun l => fun s => .next (completeLaunch s l.id))) ++
  ((partsInUse s).map (partOffers s)).flatten ++
  (s.tableSnoops.map (fun x => fun s => .next (answerSnoop s x))) ++
  ((s.slots.filter (fun c => c.2.deadline.any (fun d => d ≤ s.time))).map (fun c => exec (.slotTimeout c.1))) ++
  (s.fabHeld.map (fun p => exec (.fabricRequestArrival p))) ++
  (s.guest.reqs.map (fun g => fun s => .next (serveGuest s g.1 g.2))) ++
  (if s.guest.waitReqs.isEmpty then [] else [fun s => .next (retryXlreq s)]) ++
  ((diesWaiting s).map (fun d => exec (.teamPlace (BitVec.ofNat 2 d)))) ++
  (s.changing.map (fun c => exec (.rateChangeComplete (BitVec.ofNat 8 c.1))))

/-- The first offer that changes the state. -/
def firstChange (s : State) : List Offer → Option Result
  | [] => none
  | f :: l =>
    match f s with
    | .next s' => if s' = s then firstChange s l else some (.next s')
    | r => some r

/-- The next step besides issue, if there is one. Assumption 1, DESIGN CHOICE; 32, DESIGN CHOICE. -/
noncomputable def nextEvent (s : State) : Option Result :=
  match arrival s with
  | some r => some r
  | none => firstChange s (offers s)

end Sys2Proof.Machine
end

