-- ==== Sys2Proof/Machine/Step.lean ====
section
/-! DEFINITION. The step of the machine (02_execution_model.md R33; 09_control_instructions.md R139, R144; 20_scheduling.md R337;
22_faults_and_translation.md R355;
30_bring_up.md R407): one step of the device or of the outside world, or one unit of the stepping strand. -/

namespace Sys2Proof.Machine

/-- The clocks of a strand move on: pending writes that are complete by then stand (R43), and the hang timer counts while the strand has
a unit and makes no progress (R355). -/
def Strand.elapse (dt dc : Nat) (t : Strand) : Strand :=
  if t.live then
    let c := t.cyc + dc
    let t := (t.settlePend false c).settlePend true c
    { t with cyc := c, hangTimer := if t.hangCounts then t.hangTimer + dt else t.hangTimer }
  else t

/-- D[p] is 0 for the partitions that have no eligible team on their die (R337). -/
def clearIdle (s : State) : State :=
  s.deficits.foldl (fun s c => if (eligibleOn s (c.1 / 64) (c.1 % 64)).isEmpty then s.setDeficit (c.1 / 64) (c.1 % 64) 0 else s) s

/-- A strand's timed wait is looked at once nothing else of the strand holds it (R36, R99). -/
noncomputable def latchTimed (s : State) (t : Strand) : Strand :=
  t.latchWait s (fun u => scalarHolds t u || markerHolds { s with cs := t } u)

/-- Soft errors strike, and TIME and the clocks move on, by amounts that the manual leaves open (assumptions 11 and 56); timed waits whose
deadline has passed are timeouts from then on (R139). -/
noncomputable def advanceClocks (s : State) : State :=
  let f := Strand.elapse (Config.tick s.free) (Config.cycles s.free)
  let s := softErrors s
  let s := { s with time := s.time + Config.tick s.free, free := s.free + 1, cs := f s.cs, others := s.others.map f }
  clearIdle { s with cs := latchTimed s s.cs, others := s.others.map (latchTimed s) }

/-- The strand that steps changes: the next live one, the strands ahead of it and the old one behind (R33).
Assumption 9, DEDUCED. -/
def rotate (s : State) : State :=
  match s.others.dropWhile (fun t => !t.live) with
  | [] => s
  | t :: l => { s with cs := t, others := l ++ s.others.takeWhile (fun t => !t.live) ++ [s.cs] }

/-- Turns of eight: at turn 3 the next strand comes, at turn 7 the strand steps whatever else is due, and at any other turn a step that
is due goes first. A strand that is not on a tile gives way to one that is. Assumption 9, DEDUCED. -/
noncomputable def pickStep (s : State) (turn : Nat) : Result :=
  if turn = 3 || (!s.cs.live && s.others.any (·.live)) then .next (rotate s)
  else if turn = 7 then strandStep s
  else
    match nextEvent s with
    | some r => r
    | none => strandStep s

/-- One step. After a failed bring-up nothing happens until power is applied again (R407). Assumption 53, DEDUCED. -/
noncomputable def step (s : State) : Host.Outcome State Fault Refusal :=
  if s.mstate = 7 then
    match s.inputs with
    | .powerOnReset puf fw train cfg :: l => exec (.powerOnReset puf fw train cfg) { s with inputs := l }
    | _ => .fault .bringUpFailed
  else
    match pickStep { s with turn := (s.turn + 1) % 8 } (s.turn % 8) with
    | .next s' => .next (advanceClocks s')
    | r => r

/-! A program from outside (assumption 25). -/

/-- Where the stepping strand reads its next word, byte by byte; none where it cannot, or has words in its queues.
Assumption 25, DESIGN CHOICE. -/
def fetchPlace (s : State) : Option (List (Nat × Loc)) :=
  if s.cs.fetches && s.cs.fetchReq.isNone && s.cs.pfx.words.isEmpty && s.cs.headUnits.isEmpty && (joinReady s.cs).isNone then
    match (planBytes (spaceOf s.cs s.csTeam) .exec (fun _ => false) 4 0 s.cs.pc (s, [])).2 with
    | .ok plan => if plan.any (fun p => p.2.isFab || s.bad p.2.key) then none else some plan
    | .error _ => none
  else none

/-- A strand of a team of its own, on core 0 of tile 0 of die 0 with one frame of tile SRAM, that fetches at TSBASE.
Assumption 25, DESIGN CHOICE. -/
def withStrand (s : State) : State :=
  let id := s.nextId
  let ctx : Word := 0x400000
  let f := ((freeT0 s 0 0).map (fun a => a / 2 ^ 16 % 64)).headD 0
  let m : Team := {
    id := id, ctx := ctx, hdr := { tsram := 2 ^ 16 }, started := true, placed := true, cores := [0], slots := [0], frames := [f],
    barriers := (List.range 16).map (fun k => (k, { e := 1 })) }
  let t : Strand := {
    live := true, team := id, ctx := ctx, pc := 0x6A0000000000, teamsize := 1 }
  { s with
    nextId := id + 1, teams := s.teams ++ [m], cs := t, others := s.others ++ [s.cs]
    ctxs := Sparse.set {} s.ctxs 0 { s.entry 0 with gen := 1, state := .running } }

/-- The state with the word stored where the stepping strand fetches next, and the strand's turn to step.
Assumption 25, DESIGN CHOICE. -/
def State.withFetchWord (s : State) (nbits w : Nat) : State :=
  let word := BitVec.ofNat 32 (w % 2 ^ nbits)
  let s : State := { s with turn := 7, mstate := if s.mstate = 7 then 3 else s.mstate }
  let put := fun (s : State) (plan : List (Nat × Loc)) => { s with mem := writePlan s.mem [word.setWidth 4096] plan }
  match fetchPlace s with
  | some plan => put s plan
  | none =>
    let s := withStrand s
    put s ((fetchPlace s).getD [])

end Sys2Proof.Machine
end

