-- ==== Sys2Proof/Safety.lean ====
section
/-! DEFINITION. The terms in which claims are stated: a word that issues, the state in which its effect stands complete, a run without
a stop, and the invariant of memory (02_execution_model.md R35, R42; 06_instruction_encoding.md R98, R99). -/

namespace Sys2Proof.Machine

/-- Nothing keeps the issuing word from its effect: it carries no fate (R98, R99), its TOK wait is satisfied, its data queues hold
what it pops and have room for what it pushes (R35), and what it reads of the core is undamaged (R356). -/
abbrev Issues (i : Instr) (s : State) : Prop :=
  fateOf s i = none ∧ s.cs.tokHolds s.cs.unit = false ∧ queuesReady (rolesOf i) s.cs = true ∧ (rolesOf i).readsDamage s.cs = false

/-- The state in which the effect of a word begins. -/
def State.begun (s : State) : State := s.onCs (fun t => t.setHeld false)

/-- The word of `s` is complete in `t`: its signal is given (R42). -/
def State.completes (s t : State) : State := t.onCs (fun c => c.signal s.cs.unit.sig)

/-- The word of `s` completes, and of the strand only what `f` changes has changed. -/
def State.did (s : State) (f : Strand → Strand) : State := s.completes (s.begun.onCs f)

/-- The word of `s` completes with `x` in scalar `d`, and nothing else has changed. -/
def State.wrote (s : State) (d : BitVec 6) (x : Dword) : State := s.did (fun t => t.setSc d x)

/-- The word of `s` completes with a result in scalar `d` and the flags it raises, and nothing else has changed. -/
def State.wroteFlags (s : State) (d : BitVec 6) (r : Nat × Flags) : State :=
  s.did (fun t => (t.setSc d (BitVec.ofNat 64 r.1)).raise r.2)

/-- The word of `s` is complete and has changed nothing. -/
def State.passed (s : State) : State := s.completes s.begun

/-- The word of `s` waits: it stays at the head of its queue and has changed nothing. -/
def State.waits (s : State) : State := s.onCs (fun t => t.setHeld true)

/-- The word `i` of `s` traps (R343, R344), with its queue traffic kept for `rtt.next` (R348). -/
def State.trapped (s : State) (i : Instr) (c : Cause) (v : Dword) : State :=
  s.begun.trap c v ((rolesOf i).pops s.cs s.cs.unit) ((rolesOf i).pushes s.cs s.cs.unit)

/-! Accesses that complete at once (R46, R151). -/

/-- The space of the word's ACC accesses: the view of its strand, with the L1 of its core (R276, R345). -/
abbrev State.acc (s : State) : Space := accSpace s.cs s.csTeam s.cs.p

/-- Every byte of the elements is translated in the space `sp`, in the state `u`, to a place of this device or of its host that is
undamaged, of which the host holds no copy in the way, and whose channel works; and the same holds of the dirty bytes of the L1s. -/
def ReachIn (sp : Space) (s : State) (k : AKind) (es : List Elem) (u : State) (plan : List (Nat × Loc)) : Prop :=
  planElems sp k es (s, []) = (u, .ok plan) ∧ l1Waits u (fun _ => true) = none ∧
  ∀ p ∈ plan, p.2.isFab = false ∧ u.bad p.2.key = false ∧ devWait u k.writes p.2.key = none

/-- `ReachIn` for the stepping strand's ACC accesses. -/
abbrev Reach (s : State) := ReachIn s.acc s

/-- The state `u` of an access of order `o` that is about to be performed: its accesses to captured rows are counted (R283), a release has
written back the core's lines, and its L1 has taken in the lines of the plan that it does not snoop (R276, R318). -/
def State.ready (s u : State) (o : AccOrd) (plan : List (Nat × Loc)) : State :=
  let u := u.touchRows (plan.map (·.2.key))
  plan.foldl (fun v p => fillL1 v s.cs.l1No s.cs.part p.2) (if o.isRelease then releaseL1 u s.cs.l1No o.scope else u)

/-- The bytes of the plan as the core reads them in `u`, put into images. -/
def State.reads (s u : State) (imgs : List Vec) (plan : List (Nat × Loc)) : List Vec := readHere u s.acc imgs plan

/-- The bytes of the plan, as the core reads them in `u`, as a little-endian number. -/
def State.readsNat (s u : State) (plan : List (Nat × Loc)) : Nat := leNat (plan.map (fun p => hereByte u s.acc p.2))

/-- The state `u` of an access by an engine without an L1: its accesses to captured rows are counted (R283), and it is coherent with the L1s
of its die, whose lines of the plan's bytes are written back, and invalidated by a write (R276). -/
def State.snooped (s u : State) (write : Bool) (plan : List (Nat × Loc)) : State :=
  flushL1 (u.touchRows (plan.map (·.2.key))) (!write) (fun l => l.core / 128 == s.cs.die.toNat && l.meets (plan.map (·.2.key)))

/-- No page of the elements has a fault answer that the strand is still to report (R349). -/
def NoAnswer (s : State) (es : List Elem) : Prop := ∀ e ∈ es, refusedAt s.cs.answered e.va e.size = none

/-- Every byte of the plan has its one copy in memory: no place of another die's HBM or of a view. -/
def plain (plan : List (Nat × Loc)) : Prop := ∀ p ∈ plan, p.2.tag? = none

/-- The access record has room, and no earlier access of the class, or to a common byte, is under way (R46, R152, R311). -/
def RecordFree (s : State) (cls : BitVec 4) (es : List Elem) : Prop := s.cs.arec.length < 64 ∧ recordHolds s.cs cls es = false

/-- The word of `s`, of order `o`, completes in `u` with a change of its strand; an acquire invalidates the core's L1 lines, a release
writes them back. -/
def State.loaded (s u : State) (o : AccOrd) (f : Strand → Strand) : State :=
  s.completes ((orderDone u s.acc o).onCs (fun t => f t.clearAnswered))

/-- The word of `s` completes in `u` with the bytes of `data` written to the places of `plan`, to the core's L1 where that holds them. -/
def State.stored (s u : State) (o : AccOrd) (data : List Vec) (plan : List (Nat × Loc)) (f : Strand → Strand := id) : State :=
  s.loaded (writeHere u s.acc data plan) o f

/-- What a store changes of memory: every byte at another place reads as in `u`, unless a full L1 gives up a line or the order writes lines
back; a plan whose bytes have their one copy in memory leaves there exactly the bytes of `data`. -/
def StoresOnly (u t : State) (o : AccOrd) (data : List Vec) (plan : List (Nat × Loc)) : Prop :=
  o.order = 0 →
    (u.l1.length + plan.length ≤ 8192 → ∀ b, (∀ p ∈ plan, p.2.key ≠ b) → memByte t.mem b = memByte u.mem b) ∧
    (plain plan → t.mem = writePlan u.mem data plan ∧ ∀ b, (∀ p ∈ plan, p.2.key ≠ b) → memByte t.mem b = memByte u.mem b)

/-- What a load changes of memory: nothing, unless a full L1 gives up a line or the order writes lines back. -/
def LoadsOnly (u t : State) (o : AccOrd) (plan : List (Nat × Loc)) : Prop :=
  o.order = 0 → u.l1.length + plan.length ≤ 8192 ∨ plain plan → t.mem = u.mem

/-- The bytes that a plan reads, in order, as a little-endian number. -/
def planNat (m : List Host.Cell) (plan : List (Nat × Loc)) : Nat := leNat (plan.map (fun p => memByte m p.2.key))

/-- A ring word of class `cls` on the header at `va` reaches it, in the state `u` at the places `plan`, and the header `h` is within its
limits; the record has room, no dirty L1 line has to wait for the host, and no fill fault of a window of the strand is to be reported (R154,
R168 to R170). -/
def RingAt (s : State) (cls : BitVec 4) (va : Dword) (k : AKind) (u : State) (plan : List (Nat × Loc)) (h : Desc) : Prop :=
  s.cs.arec.length < 64 ∧ recordHolds s.cs cls [⟨0, va, 64⟩] = false ∧ headerAt s.begun s.acc va k = .ok u plan h ∧ ringOk h = true ∧
  l1Waits u (fun _ => true) = none ∧
  ∀ w ∈ u.windows, ¬ (w.ring = planKey plan ∧ w.team = s.cs.team ∧ w.sid = s.cs.sid ∧ w.fault.isSome = true)

/-- A ring word of `s` completes in `u`, with bits of STAT and a change of its strand (R169). -/
def State.ringDid (s u : State) (stat : BitVec 6 := 0) (f : Strand → Strand := id) : State :=
  s.completes ((u.onStrand s.cs.team s.cs.sid (fun t => t.setStat stat)).onCs (fun t => f t.clearAnswered))

/-! Vector words (R38, R92, R94, R181). -/

/-- The values of vector source fields, each with its EXT.IND enable bit: registers as they stand, entries as they pop. -/
def State.srcs (s : State) (fs : List (Nat × BitVec 6)) : List Vec := (takeSources s.cs.unit fs s.cs).1

/-- Element `j` of the word is active. -/
def State.active (s : State) (j : Nat) : Bool := (s.cs.maskOf s.cs.unit).1.getLsbD j

/-- The word zeroes its inactive elements. -/
def State.zeroing (s : State) : Bool := (s.cs.maskOf s.cs.unit).2

/-- The word reads no register that a word of its queue is still to write, or the scoreboard waits for such writes: SCBM is 2. -/
abbrev Settled (i : Instr) (sfu : Bool) (s : State) : Prop :=
  s.cs.scbm = 2 ∨ earlyReads (if sfu then s.cs.spend else s.cs.pend) 0 ((rolesOf i).regs s.cs s.cs.unit (·.src)) (maskReads i s.cs.unit) = []

/-- The strand of the word of `s` as its effect begins, at cycle `k`: earlier writes of its queue that are complete by then have signalled
and raised their flags, the sources `fs` are taken, and no flag of its own is raised yet. -/
def State.vecStart (s : State) (sfu : Bool) (fs : List (Nat × BitVec 6)) (k : Nat) : Strand :=
  let b := s.begun.cs.settlePend sfu k
  (takeSources b.unit fs { b with flags := 0 }).2

/-- The word of `s` issues at cycle `k`, takes its sources `fs` and makes the pending writes `p`, and its queue's clock becomes `c`; of the
strand only that and what `f` changes has changed. A word without pending writes is complete and has raised its flags; the flags of another
word are raised once it is complete (R64). -/
def State.vecDid (s : State) (sfu : Bool) (fs : List (Nat × BitVec 6)) (k c : Nat) (p : List PendWrite) (f : Strand → Strand) : State :=
  let b := s.begun.cs.settlePend sfu k
  let u := s.begun.nextFree.2.onCs (fun _ =>
    let t := f (s.vecStart sfu fs k)
    let t := { t with flags := if p.isEmpty then b.flags ||| t.flags else b.flags }
    if sfu then { t with sclk := c, spend := b.spend ++ p } else { t with vclk := c, pend := b.pend ++ p })
  if p.isEmpty then s.completes u else u

/-- The pending writes of the word of `s`, if it has any, carry its signal and the flags `fl` (R43, R64). -/
def State.signalled (s : State) (p : List PendWrite) (fl : Flags) : Prop :=
  p ≠ [] → p.filterMap (·.sig) = s.cs.unit.sig.toList ∧ p.foldl (fun b x => b ||| x.flags) 0 = fl

/-- Flags of the active elements below `n`. -/
def State.laneFlags (s : State) (n : Nat) (g : Nat → Nat × Flags) : Flags :=
  (List.range n).foldl (fun fl j => if s.active j then fl ||| (g j).2 else fl) 0

/-- The old element `j` of field D: of its register, or 0 where D names a queue or the word zeroes. -/
def State.oldLane (s : State) (d : BitVec 6) (w j : Nat) : Nat :=
  match s.cs.vname s.cs.unit 19 d with
  | .reg k => if s.zeroing then 0 else elemAt (s.cs.vr k) w j
  | .queue _ => 0

/-- The word `i` completes with one value for each of `n` elements of width `w` in field D: element `j` is `g j` where active and the old
element elsewhere; the flags of the active elements are raised, and a pushed entry has their mask. -/
def LanesTo (sfu : Bool) (i : Instr) (s : State) (fs : List (Nat × BitVec 6)) (d : BitVec 6) (w n : Nat) (g : Nat → Nat × Flags) : Prop :=
  ∃ (k c : Nat) (p : List PendWrite) (v : Vec),
    exec i s = .next (s.vecDid sfu fs k c p (fun t => putWhole (t.raise (s.laneFlags n g)) 19 d v (maskWhere n s.active))) ∧
    s.signalled p (s.laneFlags n g) ∧
    (∀ j < n, elemAt v w j = (if s.active j then (g j).1 else s.oldLane d w j) % 2 ^ w) ∧ v.toNat < 2 ^ (w * n)

/-- `LanesTo` for a word of the vector engine. -/
abbrev Lanes := LanesTo false

/-- The word `i` completes with `f` of its strand, its sources taken. -/
def EngineDone (sfu : Bool) (i : Instr) (s : State) (fs : List (Nat × BitVec 6)) (f : Strand → Strand) : Prop :=
  ∃ (k c : Nat) (p : List PendWrite), exec i s = .next (s.vecDid sfu fs k c p f) ∧
    s.signalled p (f (s.vecStart sfu fs k)).flags

/-- `EngineDone` for a word of the vector engine. -/
abbrev VecDone := EngineDone false

/-! Words of the matrix engine (R48, R211, R212). -/

/-- The strand's team holds a share of the array, and no command in the Cam sequencer holds back a word that uses `uses`. -/
abbrev ArrayFree (s : State) (uses : List Nat) : Prop := s.hasShare s.cs = true ∧ s.mtxHolds s.cs uses = false

/-- The word of `s` completes in `u` with a change of its array and of its strand, and signals `n`. -/
def State.arrayDid (s u : State) (n : BitVec 4) (f : ArrayState → ArrayState) (g : Strand → Strand := id) : State :=
  s.completes ((u.onArray s.cs f).onCs (fun t => (g t).signal (if n = 0 then none else some n)))

/-- The word `i` completes with one bit for each of `n` elements in mask `d`: `g j` where active, the old bit or 0 elsewhere, and 0 from
`n` on. -/
def MaskLanes (i : Instr) (s : State) (fs : List (Nat × BitVec 6)) (d : BitVec 4) (n : Nat) (g : Nat → Bool × Flags) : Prop :=
  ∃ (k c : Nat) (p : List PendWrite) (m : Mask),
    exec i s = .next (s.vecDid false fs k c p (fun t =>
      (t.raise (s.laneFlags n (fun j => (0, (g j).2)))).setMr d.toNat m)) ∧ s.signalled p (s.laneFlags n (fun j => (0, (g j).2))) ∧
    ∀ j < 1024, m.getLsbD j = (decide (j < n) && if s.active j then (g j).1 else !s.zeroing && (s.cs.mr d.toNat).getLsbD j)

/-- Memory is in its canonical form: equal memories are equal data. -/
def State.Inv (s : State) : Prop := Memory.wf s.mem = true

/-- A run of `n` steps is safe: none of them ends in a fault or a refusal. -/
def RunsSafely (n : Nat) (s : State) : Prop := ∃ t, Host.Core.run core n s = .next t

end Sys2Proof.Machine
end

