-- ==== Sys2Proof/Certificates/Slice0/Obligations.lean ====
section
/-! DEFINITION. The statements for the provers: what the words and the steps of the machine do, from the numbered rules of spec/. A
word completes where `Issues` holds and the conditions of its clause do; the clause then gives the whole next state. -/

open Sys2Proof Sys2Proof.Machine

/-- A word of R116 that issues completes in one step. The next state holds the result of its row in sD (s0 discards it), has given the
completion signal, and differs in nothing else: no flag, no other register and no byte of memory changes. The high products are
bits 127:64 of the exact product, shift amounts are bits 5:0, clz and ctz give 64 for zero, popc counts the one bits, and sel of
s0 takes b. (R116) -/
def Obligations.IntegerWordsComplete : Prop :=
  ∀ (s : State) (d a b : BitVec 6) (f : BitVec 4),
    let x := s.cs.sc a
    let y := s.cs.sc b
    let n := y.toNat % 64
    (Issues (.add d a b) s → exec (.add d a b) s = .next (s.wrote d (x + y))) ∧
    (Issues (.sub d a b) s → exec (.sub d a b) s = .next (s.wrote d (x - y))) ∧
    (Issues (.mul d a b) s → exec (.mul d a b) s = .next (s.wrote d (x * y))) ∧
    (Issues (.mulhS d a b) s →
      exec (.mulhS d a b) s = .next (s.wrote d ((BitVec.ofInt 128 (x.toInt * y.toInt)).extractLsb' 64 64))) ∧
    (Issues (.mulhN d a b) s →
      exec (.mulhN d a b) s = .next (s.wrote d ((BitVec.ofNat 128 (x.toNat * y.toNat)).extractLsb' 64 64))) ∧
    (Issues (.and d a b) s → exec (.and d a b) s = .next (s.wrote d (x &&& y))) ∧
    (Issues (.or d a b) s → exec (.or d a b) s = .next (s.wrote d (x ||| y))) ∧
    (Issues (.xor d a b) s → exec (.xor d a b) s = .next (s.wrote d (x ^^^ y))) ∧
    (Issues (.andn d a b) s → exec (.andn d a b) s = .next (s.wrote d (x &&& ~~~y))) ∧
    (Issues (.shl d a b) s → exec (.shl d a b) s = .next (s.wrote d (x <<< n))) ∧
    (Issues (.shrN d a b) s → exec (.shrN d a b) s = .next (s.wrote d (x >>> n))) ∧
    (Issues (.shrS d a b) s → exec (.shrS d a b) s = .next (s.wrote d (BitVec.ofInt 64 (x.toInt / 2 ^ n)))) ∧
    (Issues (.rot d a b) s → exec (.rot d a b) s = .next (s.wrote d (x <<< n ||| x >>> (64 - n)))) ∧
    (Issues (.minS d a b) s → exec (.minS d a b) s = .next (s.wrote d (if x.toInt < y.toInt then x else y))) ∧
    (Issues (.minN d a b) s → exec (.minN d a b) s = .next (s.wrote d (if x.toNat < y.toNat then x else y))) ∧
    (Issues (.maxS d a b) s → exec (.maxS d a b) s = .next (s.wrote d (if x.toInt < y.toInt then y else x))) ∧
    (Issues (.maxN d a b) s → exec (.maxN d a b) s = .next (s.wrote d (if x.toNat < y.toNat then y else x))) ∧
    (Issues (.clz d a) s → ∃ r : Nat, exec (.clz d a) s = .next (s.wrote d (BitVec.ofNat 64 r)) ∧
      r ≤ 64 ∧ x.toNat < 2 ^ (64 - r) ∧ (r < 64 → x.getLsbD (63 - r) = true)) ∧
    (Issues (.ctz d a) s → ∃ r : Nat, exec (.ctz d a) s = .next (s.wrote d (BitVec.ofNat 64 r)) ∧
      r ≤ 64 ∧ x.toNat % 2 ^ r = 0 ∧ (r < 64 → x.getLsbD r = true)) ∧
    (Issues (.popc d a) s →
      exec (.popc d a) s = .next (s.wrote d (BitVec.ofNat 64 ((List.range 64).countP (fun k => x.getLsbD k))))) ∧
    (Issues (.sel d a b f) s →
      exec (.sel d a b f) s = .next (s.wrote d (if f ≠ 0 ∧ s.cs.sc (f.setWidth 6) ≠ 0 then x else y)))

/-- A division word that issues writes sD and nothing else: for a divisor that is not 0 and no signed overflow the truncated quotient,
or the remainder with the sign of the dividend, so that a = q x b + rem; for a divisor of 0 all ones, or the dividend for a
remainder; for -2^63 over -1 the quotient -2^63 and the remainder 0. With F[0] = 1 a divisor of 0 traps ARITH with TVAL 0 and the
signed overflow with TVAL 1; the remaining cases are as without it. (R117) -/
def Obligations.DivisionWordsComplete : Prop :=
  ∀ (s : State) (d a b : BitVec 6) (t : BitVec 1),
    let x := s.cs.sc a
    let y := s.cs.sc b
    let ovf := x = 0x8000000000000000 ∧ y = BitVec.allOnes 64
    (Issues (.divS d a b t) s → y ≠ 0 → ¬ ovf → ∃ q, exec (.divS d a b t) s = .next (s.wrote d q) ∧ q.toInt = x.toInt.tdiv y.toInt) ∧
    (Issues (.remS d a b t) s → y ≠ 0 → ¬ ovf → ∃ r, exec (.remS d a b t) s = .next (s.wrote d r) ∧
      x.toInt = x.toInt.tdiv y.toInt * y.toInt + r.toInt) ∧
    (Issues (.divN d a b t) s → y ≠ 0 → exec (.divN d a b t) s = .next (s.wrote d (x / y))) ∧
    (Issues (.remN d a b t) s → y ≠ 0 → exec (.remN d a b t) s = .next (s.wrote d (x % y))) ∧
    (t = 0 →
      (Issues (.divS d a b t) s → y = 0 → exec (.divS d a b t) s = .next (s.wrote d (BitVec.allOnes 64))) ∧
      (Issues (.divN d a b t) s → y = 0 → exec (.divN d a b t) s = .next (s.wrote d (BitVec.allOnes 64))) ∧
      (Issues (.remS d a b t) s → y = 0 → exec (.remS d a b t) s = .next (s.wrote d x)) ∧
      (Issues (.remN d a b t) s → y = 0 → exec (.remN d a b t) s = .next (s.wrote d x)) ∧
      (Issues (.divS d a b t) s → ovf → exec (.divS d a b t) s = .next (s.wrote d x)) ∧
      (Issues (.remS d a b t) s → ovf → exec (.remS d a b t) s = .next (s.wrote d 0))) ∧
    (t = 1 →
      (Issues (.divS d a b t) s → y = 0 → exec (.divS d a b t) s = .next (s.trapped (.divS d a b t) .arith 0)) ∧
      (Issues (.divN d a b t) s → y = 0 → exec (.divN d a b t) s = .next (s.trapped (.divN d a b t) .arith 0)) ∧
      (Issues (.remS d a b t) s → y = 0 → exec (.remS d a b t) s = .next (s.trapped (.remS d a b t) .arith 0)) ∧
      (Issues (.remN d a b t) s → y = 0 → exec (.remN d a b t) s = .next (s.trapped (.remN d a b t) .arith 0)) ∧
      (Issues (.divS d a b t) s → ovf → exec (.divS d a b t) s = .next (s.trapped (.divS d a b t) .arith 1)) ∧
      (Issues (.remS d a b t) s → ovf → exec (.remS d a b t) s = .next (s.trapped (.remS d a b t) .arith 1)))

/-- cmp writes 1 or 0 by the condition that F selects and has the fate ILLEGAL_FIELD for F of 6 and above. The immediate is the field,
or the 26 bits of EXT.IMM followed by the field, sign-extended to 64 bits. addi, andi, ori, xori and the shifts form their result
with it, and a shift issues only with an amount from 0 to 63, in the user view or out of it. li writes the immediate. Nothing else
changes. The field of bfx and bfi lies at bits 5:0 of S[sB] and has the width of bits 14:8, at most 64 and never past bit 63.
bfx.n extends it with zeros and bfx.s with its top bit; width 0 gives 0. bfi replaces exactly the bits of the field of the old
S[sD] and leaves the others. fshl and fshr shift S[sD]:S[sA] by bits 5:0 of S[sB] and take the high and the low half. sD is
written and nothing else changes. (R118, R119, R120, R121, R122) -/
def Obligations.CompareImmediateAndFieldWordsComplete : Prop :=
  (∀ (s : State) (d a b : BitVec 6) (c : BitVec 4) (i : BitVec 10) (k : BitVec 16),
      let x := s.cs.sc a
      let y := s.cs.sc b
      let imm := s.cs.unit.immS i
      let v := BitVec.ofInt 64 imm
      (Issues (.cmp d a b c) s → exec (.cmp d a b c) s = .next (s.wrote d (
        if (c = 0 ∧ x = y) ∨ (c = 1 ∧ x ≠ y) ∨ (c = 2 ∧ x.toInt < y.toInt) ∨ (c = 3 ∧ x.toNat < y.toNat) ∨
          (c = 4 ∧ y.toInt ≤ x.toInt) ∨ (c = 5 ∧ y.toNat ≤ x.toNat) then 1 else 0))) ∧
      (6 ≤ c.toNat → s.cs.unit.badKind = false → fateOf s (.cmp d a b c) = some .illegalField) ∧
      (s.cs.unit.ext 0 = none → imm = i.toInt ∧ s.cs.unit.immS k = k.toInt) ∧
      (∀ w, s.cs.unit.ext 0 = some w → imm = ((w.setWidth 26 : BitVec 26) ++ i).toInt ∧
        s.cs.unit.immS k = ((w.setWidth 26 : BitVec 26) ++ k).toInt) ∧
      (Issues (.addi d a i) s → exec (.addi d a i) s = .next (s.wrote d (x + v))) ∧
      (Issues (.andi d a i) s → exec (.andi d a i) s = .next (s.wrote d (x &&& v))) ∧
      (Issues (.ori d a i) s → exec (.ori d a i) s = .next (s.wrote d (x ||| v))) ∧
      (Issues (.xori d a i) s → exec (.xori d a i) s = .next (s.wrote d (x ^^^ v))) ∧
      (Issues (.shli d a i) s → exec (.shli d a i) s = .next (s.wrote d (x <<< imm.toNat)) ∧ 0 ≤ imm ∧ imm ≤ 63) ∧
      (Issues (.shriN d a i) s → exec (.shriN d a i) s = .next (s.wrote d (x >>> imm.toNat)) ∧ 0 ≤ imm ∧ imm ≤ 63) ∧
      (Issues (.shriS d a i) s → exec (.shriS d a i) s = .next (s.wrote d (BitVec.ofInt 64 (x.toInt / 2 ^ imm.toNat))) ∧
        0 ≤ imm ∧ imm ≤ 63) ∧
      (¬ (0 ≤ imm ∧ imm ≤ 63) → s.cs.unit.badKind = false →
        fateOf s (.shli d a i) = some .illegalField ∧ fateOf s (.shriN d a i) = some .illegalField ∧
        fateOf s (.shriS d a i) = some .illegalField) ∧
      (Issues (.li d k) s → exec (.li d k) s = .next (s.wrote d (BitVec.ofInt 64 (s.cs.unit.immS k))))) ∧
  (∀ (s : State) (d a b : BitVec 6),
      let x := s.cs.sc a
      let y := s.cs.sc b
      let old := s.cs.sc d
      let o := y.toNat % 64
      let w := min (min (y.toNat / 256 % 128) 64) (64 - o)
      let n := y.toNat % 64
      (Issues (.bfxN d a b) s → exec (.bfxN d a b) s = .next (s.wrote d (((x >>> o).setWidth w).setWidth 64))) ∧
      (Issues (.bfxS d a b) s → exec (.bfxS d a b) s = .next (s.wrote d (((x >>> o).setWidth w).signExtend 64))) ∧
      (Issues (.bfi d a b) s → ∃ r : Dword, exec (.bfi d a b) s = .next (s.wrote d r) ∧
        ∀ k, k < 64 → r.getLsbD k = if o ≤ k ∧ k < o + w then x.getLsbD (k - o) else old.getLsbD k) ∧
      (Issues (.fshl d a b) s → exec (.fshl d a b) s = .next (s.wrote d (((old ++ x) <<< n).extractLsb' 64 64)) ∧
        (n = 0 → exec (.fshl d a b) s = .next (s.wrote d old))) ∧
      (Issues (.fshr d a b) s → exec (.fshr d a b) s = .next (s.wrote d (((old ++ x) >>> n).extractLsb' 0 64)) ∧
        (n = 0 → exec (.fshr d a b) s = .next (s.wrote d x))))

/-- A scalar floating-point word that issues completes with the result in sD, zero-extended, its flags raised by OR, and nothing else
changed, also where sD is s0. F[0] selects f32 (bits 31:0 of the scalars) or f64. The arithmetic words round in the mode of RNDM,
mode 5 as RNE; fcvt honours mode 5 with row bits 63:32 and column bits 31:0 of S[sB]. A NaN operand gives the quieted first NaN: a
then b, and for ffma the addend first, with NV also where it multiplies 0 by infinity. fmin and fmax round nothing, and of one NaN
give the other operand. (R123, R124, R125, R126, R60, R64, R66, R68) -/
def Obligations.FloatWordsComplete : Prop :=
  ∀ (s : State) (d a b : BitVec 6) (p : BitVec 1) (c : BitVec 3) (f : BitVec 4),
    let fm := if p = 1 then fmtF64 else fmtF32
    let x := (s.cs.sc a).toNat % (if p = 1 then 2 ^ 64 else 2 ^ 32)
    let y := (s.cs.sc b).toNat % (if p = 1 then 2 ^ 64 else 2 ^ 32)
    let z := (s.cs.sc d).toNat % (if p = 1 then 2 ^ 64 else 2 ^ 32)
    let md := if s.cs.rndm = 5 then 0 else s.cs.rndm.toNat
    let nan := fun v => (decodeF fm v).isNan = true
    let zero := fun v => (decodeF fm v).isZero = true
    let inf := fun v => (decodeF fm v).isInf = true
    let one := fun v => if (decodeF fm v).isSnan then flagNV else 0
    let nans := fun (w : Instr) =>
      (∀ r, nan x → nan y → firstNan fm [x, y] = some r → exec w s = .next (s.wroteFlags d r)) ∧
      (nan x → ¬ nan y → exec w s = .next (s.wroteFlags d (y, one x))) ∧ (¬ nan x → nan y → exec w s = .next (s.wroteFlags d (x, one y)))
    (Issues (.fadd d a b p) s → exec (.fadd d a b p) s = .next (s.wroteFlags d (fAdd fm md x y)) ∧
      ∀ r, firstNan fm [x, y] = some r → exec (.fadd d a b p) s = .next (s.wroteFlags d r)) ∧
    (Issues (.fsub d a b p) s → exec (.fsub d a b p) s = .next (s.wroteFlags d (fSub fm md x y)) ∧
      ∀ r, firstNan fm [x, y] = some r → exec (.fsub d a b p) s = .next (s.wroteFlags d r)) ∧
    (Issues (.fmul d a b p) s → exec (.fmul d a b p) s = .next (s.wroteFlags d (fMul fm md x y)) ∧
      ∀ r, firstNan fm [x, y] = some r → exec (.fmul d a b p) s = .next (s.wroteFlags d r)) ∧
    (Issues (.fdiv d a b p) s → exec (.fdiv d a b p) s = .next (s.wroteFlags d (fDiv fm md x y)) ∧
      ∀ r, firstNan fm [x, y] = some r → exec (.fdiv d a b p) s = .next (s.wroteFlags d r)) ∧
    (Issues (.ffma d a b p) s → exec (.ffma d a b p) s = .next (s.wroteFlags d (fFma fm md x y z)) ∧
      ∀ r, firstNan fm [z, x, y] = some r → exec (.ffma d a b p) s = .next (s.wroteFlags d (r.1,
        if zero x ∧ inf y ∨ inf x ∧ zero y then r.2 ||| flagNV else r.2))) ∧
    (Issues (.fsqrt d a p) s → exec (.fsqrt d a p) s = .next (s.wroteFlags d (fSqrt fm md x)) ∧
      ∀ r, firstNan fm [x] = some r → exec (.fsqrt d a p) s = .next (s.wroteFlags d r)) ∧
    (Issues (.fmin d a b p) s → exec (.fmin d a b p) s = .next (s.wroteFlags d (fMinMax fm false x y)) ∧ nans (.fmin d a b p)) ∧
    (Issues (.fmax d a b p) s → exec (.fmax d a b p) s = .next (s.wroteFlags d (fMinMax fm true x y)) ∧ nans (.fmax d a b p)) ∧
    (Issues (.fcmp d a b c p) s →
      exec (.fcmp d a b c p) s = .next (s.wroteFlags d (if (fCmp fm c.toNat x y).1 then 1 else 0, (fCmp fm c.toNat x y).2))) ∧
    (Issues (.fcvt d a b f) s → exec (.fcvt d a b f) s = .next (s.wroteFlags d (fcvtOp f s.cs.rndm.toNat (s.cs.sc a)
      (mix s.cs.srseed s.cs.srstream ((s.cs.sc b).extractLsb' 32 32) ((s.cs.sc b).setWidth 32)).toNat)))

/-- A branch that issues lets fetch go on at the address of its word plus 4 times its offset when its comparison holds, and at the
word after it otherwise. jmp and jal go on at their target, and jal writes the address after its word to s1. jr goes on at S[sA]
as it was before the word, with bits 1:0 cleared, and writes the address after its word to sD. No other register, no flag and no
byte of memory changes. (R128, R129, R80) -/
def Obligations.BranchAndJumpWordsComplete : Prop :=
  ∀ (s : State) (d a b : BitVec 6) (o : BitVec 10) (j : BitVec 22),
    let x := s.cs.sc a
    let y := s.cs.sc b
    let here := s.cs.unit.taddr
    let br := fun (c : Prop) [Decidable c] => s.did (fun t =>
      t.fetchAt (if c then here + BitVec.ofInt 64 (4 * s.cs.unit.immS o) else here + 4))
    let far := here + BitVec.ofInt 64 (4 * s.cs.unit.immS j)
    (Issues (.beq a b o) s → exec (.beq a b o) s = .next (br (x = y))) ∧
    (Issues (.bne a b o) s → exec (.bne a b o) s = .next (br (x ≠ y))) ∧
    (Issues (.bltS a b o) s → exec (.bltS a b o) s = .next (br (x.toInt < y.toInt))) ∧
    (Issues (.bltN a b o) s → exec (.bltN a b o) s = .next (br (x.toNat < y.toNat))) ∧
    (Issues (.bgeS a b o) s → exec (.bgeS a b o) s = .next (br (¬ x.toInt < y.toInt))) ∧
    (Issues (.bgeN a b o) s → exec (.bgeN a b o) s = .next (br (¬ x.toNat < y.toNat))) ∧
    (Issues (.jmp j) s → exec (.jmp j) s = .next (s.did (fun t => t.fetchAt far))) ∧
    (Issues (.jal j) s → exec (.jal j) s = .next (s.did (fun t => (t.setSc 1 (here + 4)).fetchAt far))) ∧
    (Issues (.jr d a) s → ∃ pc : Dword, exec (.jr d a) s = .next (s.did (fun t => (t.setSc d (here + 4)).fetchAt pc)) ∧
      ∀ k, k < 64 → pc.getLsbD k = (decide (2 ≤ k) && x.getLsbD k))

/-- loop and loopi trap ILLEGAL_FIELD with four levels on the stack, or where their end lies beyond the end of the top level, whatever
the count. Else a count of 0 goes on after the end word and pushes nothing, and any other count pushes start, end and count and
goes on after the loop word. lbrk traps where it names more levels than there are; where its condition holds it pops L + 1 levels
and goes on after the end of the outermost of them; else it pops none and leaves the fetch address as the back-edge test left it,
which is not the word after it where lbrk is itself an end word (log 42). At the fetch of an end word the top level with one
iteration left is popped and the next is tested, and one with more goes back to its start with one fewer. (R130, R131, R133) -/
def Obligations.LoopWordsComplete : Prop :=
  ∀ (s : State) (a : BitVec 6) (o : BitVec 16) (n : BitVec 10) (p : BitVec 12) (l : BitVec 4) (z : BitVec 1) (pc : Dword)
    (lv : LoopLevel) (ls : List LoopLevel),
    let here := s.cs.unit.taddr
    let stop := fun (off : Int) => here + BitVec.ofInt 64 (4 * off)
    let legal := fun (off : Int) => s.cs.loops.length < 4 ∧ ∀ top ∈ s.cs.loops.head?, (stop off).toNat ≤ top.stop.toNat
    let after := fun (off : Int) (count : Dword) => s.did (fun t =>
      if count = 0 then t.fetchAt (stop off + 4)
      else { t.fetchAt (here + 4) with loops := ⟨here + 4, stop off, count⟩ :: s.cs.loops })
    let word := s.cs.unit.word.setWidth 64
    (Issues (.loop a o) s → legal (s.cs.unit.immS o) → exec (.loop a o) s = .next (after (s.cs.unit.immS o) (s.cs.sc a))) ∧
    (Issues (.loop a o) s → ¬ legal (s.cs.unit.immS o) → exec (.loop a o) s = .next (s.trapped (.loop a o) .illegalField word)) ∧
    (Issues (.loopi n p) s → legal (s.cs.unit.immS p) →
      exec (.loopi n p) s = .next (after (s.cs.unit.immS p) (BitVec.ofNat 64 n.toNat))) ∧
    (Issues (.loopi n p) s → ¬ legal (s.cs.unit.immS p) → exec (.loopi n p) s = .next (s.trapped (.loopi n p) .illegalField word)) ∧
    (Issues (.lbrk l z a) s → s.cs.loops.length ≤ l.toNat → exec (.lbrk l z a) s = .next (s.trapped (.lbrk l z a) .illegalField word)) ∧
    (Issues (.lbrk l z a) s → ∀ out, s.cs.loops[l.toNat]? = some out → (s.cs.sc a ≠ 0 ↔ z = 0) →
      exec (.lbrk l z a) s = .next (s.did (fun t => { t.fetchAt (out.stop + 4) with loops := s.cs.loops.drop (l.toNat + 1) }))) ∧
    (Issues (.lbrk l z a) s → l.toNat < s.cs.loops.length → ¬ (s.cs.sc a ≠ 0 ↔ z = 0) →
      exec (.lbrk l z a) s = .next (s.did (fun t => t.fetchAt s.cs.pc))) ∧
    (lv.stop ≠ pc → backEdge pc (lv :: ls) = (lv :: ls, pc + 4)) ∧
    (lv.stop = pc → 2 ≤ lv.remaining.toNat → backEdge pc (lv :: ls) = ({ lv with remaining := lv.remaining - 1 } :: ls, lv.start)) ∧
    (lv.stop = pc → lv.remaining = 1 → backEdge pc (lv :: ls) = backEdge pc ls) ∧
    backEdge pc [] = ([], pc + 4)

/-- bar.arr and bar.drop arrive once in a phase: the strand keeps the phase, A rises by one, and a drop adds one to P and marks the
strand; where A then equals E the phase number rises by one, A is 0, and E falls by P, which is 0 again. A strand that has dropped
traps ILLEGAL_FIELD. An arrival waits while the strand's earlier arrival stands in the running phase, and with M = 1 while an
earlier ACC word of the strand is not complete. bar.wait is done once the awaited phase has completed or none is awaited. bar.sync
arrives and, where its own arrival completes the phase, is done; else it holds with its arrival made, and is done later when the
phase completes. bar.waitt writes 1 when satisfied, else 0 with STAT.TIMEOUT once TIME has reached S[sA], also where it is
satisfied only after that, and waits before. (R134, R135, R137, R138, R139) -/
def Obligations.BarrierWordsComplete : Prop :=
  ∀ (s : State) (b : BitVec 4) (m : BitVec 1) (d a : BitVec 6),
    let team := s.begun.csTeam
    let x := team.barrier b
    let here := s.cs.phaseOf b
    let freed := here = none ∨ ∃ p, here = some p ∧ p < x.phase
    let quiet := m = 0 ∨ earlierAcc s.cs = false
    let dropped := s.cs.barDropped.getLsbD b.toNat
    let word := s.cs.unit.word.setWidth 64
    let late := (s.cs.sc a).toNat ≤ s.time % 2 ^ 64
    let timedOut := s.did (fun t => (({ t with timeUp := false } : Strand).setSc d 0).setStat statTIMEOUT)
    (Issues (.barArr b m) s → dropped = false → freed → quiet → exec (.barArr b m) s = .next (s.completes (s.begun.arrive b false))) ∧
    (Issues (.barDrop b m) s → dropped = false → freed → quiet → exec (.barDrop b m) s = .next (s.completes (s.begun.arrive b true))) ∧
    (Issues (.barArr b m) s → dropped = false → ¬ (freed ∧ quiet) → exec (.barArr b m) s = .next s.waits) ∧
    (Issues (.barDrop b m) s → dropped = false → ¬ (freed ∧ quiet) → exec (.barDrop b m) s = .next s.waits) ∧
    (Issues (.barArr b m) s → dropped = true → exec (.barArr b m) s = .next (s.trapped (.barArr b m) .illegalField word)) ∧
    (Issues (.barDrop b m) s → dropped = true → exec (.barDrop b m) s = .next (s.trapped (.barDrop b m) .illegalField word)) ∧
    (x.a + 1 ≠ x.e → x.arrive false = { x with a := x.a + 1 } ∧ x.arrive true = { x with a := x.a + 1, p := x.p + 1 }) ∧
    (x.a + 1 = x.e → x.arrive false = { e := x.e - x.p, a := 0, p := 0, phase := x.phase + 1 } ∧
      x.arrive true = { e := x.e - (x.p + 1), a := 0, p := 0, phase := x.phase + 1 }) ∧
    (∀ drop, (s.begun.arrive b drop).cs.phaseOf b = some x.phase ∧
      (s.begun.arrive b drop).mem = s.mem ∧ (s.begun.arrive b drop).cs.s = s.cs.s) ∧
    (Issues (.barWait b m) s → freed → exec (.barWait b m) s = .next s.passed) ∧
    (Issues (.barWait b m) s → ¬ freed → exec (.barWait b m) s = .next s.waits) ∧
    (Issues (.barSync b m) s → s.cs.syncArrived = true → freed →
      exec (.barSync b m) s = .next (s.did (fun t => { t with syncArrived := false }))) ∧
    (Issues (.barSync b m) s → s.cs.syncArrived = true → ¬ freed →
      exec (.barSync b m) s = .next (s.begun.onCs (fun t => { t with syncArrived := true, held := true }))) ∧
    (Issues (.barSync b m) s → s.cs.syncArrived = false → dropped = false → freed → quiet →
      phaseDone (s.begun.arrive b false).cs (s.begun.arrive b false).csTeam b = true →
      exec (.barSync b m) s = .next (s.completes ((s.begun.arrive b false).onCs (fun t => { t with syncArrived := false })))) ∧
    (Issues (.barSync b m) s → s.cs.syncArrived = false → dropped = false → freed → quiet →
      phaseDone (s.begun.arrive b false).cs (s.begun.arrive b false).csTeam b = false →
      exec (.barSync b m) s = .next ((s.begun.arrive b false).onCs (fun t => { t with syncArrived := true, held := true }))) ∧
    (Issues (.barSync b m) s → s.cs.syncArrived = false → dropped = false → ¬ (freed ∧ quiet) → exec (.barSync b m) s = .next s.waits) ∧
    (Issues (.barSync b m) s → s.cs.syncArrived = false → dropped = true →
      exec (.barSync b m) s = .next (s.trapped (.barSync b m) .illegalField word)) ∧
    (Issues (.barWaitt b m d a) s → s.cs.timeUp = false → freed → exec (.barWaitt b m d a) s = .next (s.wrote d 1)) ∧
    (Issues (.barWaitt b m d a) s → (s.cs.timeUp = true ∨ ¬ freed ∧ late) → exec (.barWaitt b m d a) s = .next timedOut) ∧
    (Issues (.barWaitt b m d a) s → s.cs.timeUp = false → ¬ freed → ¬ late → exec (.barWaitt b m d a) s = .next s.waits)

/-- ev.sig adds one to its counter modulo 256. ev.wait is done when (counter - t) mod 256 is below 128 and waits otherwise; ev.waitt
takes threshold and deadline from S[sD] and S[sA] and writes 1, or 0 with STAT.TIMEOUT once the deadline has passed unsatisfied.
csrr writes the value of the CSR, csrw writes it, and both trap ILLEGAL_FIELD at an unassigned address. mbrd reads a mailbox of
the running context, mbrd.clr leaves 0 in it, mbwr writes it. time gives TIME, time.cyc the cycles placed. yield.pause holds the
queue for 64 cycles, counted while the team is on its tile (log 67). nop changes nothing. Otherwise nothing changes. (R140, R142,
R143, R144, R145, R147, R42, R44) -/
def Obligations.EventCsrAndMailboxWordsComplete : Prop :=
  ∀ (s : State) (e : BitVec 4) (t : BitVec 8) (d a : BitVec 6) (c : BitVec 12) (k : BitVec 1) (n : BitVec 3),
    let sat := fun (th : BitVec 8) => (s.cs.ev e - th).toNat < 128
    let late := (s.cs.sc a).toNat ≤ s.time % 2 ^ 64
    let timedOut := s.did (fun t => (({ t with timeUp := false } : Strand).setSc d 0).setStat statTIMEOUT)
    let word := s.cs.unit.word.setWidth 64
    let mb := (s.ctx s.cs.ctx).mailbox n.toNat
    (Issues .nop s → exec .nop s = .next s.passed) ∧
    (Issues (.evSig e) s → exec (.evSig e) s = .next (s.did (fun t => t.bump e))) ∧
    (Issues (.evWait e t) s → sat t → exec (.evWait e t) s = .next s.passed) ∧
    (Issues (.evWait e t) s → ¬ sat t → exec (.evWait e t) s = .next s.waits) ∧
    (Issues (.evWaitt e d a) s → s.cs.timeUp = false → sat ((s.cs.sc d).setWidth 8) → exec (.evWaitt e d a) s = .next (s.wrote d 1)) ∧
    (Issues (.evWaitt e d a) s → (s.cs.timeUp = true ∨ ¬ sat ((s.cs.sc d).setWidth 8) ∧ late) → exec (.evWaitt e d a) s = .next timedOut) ∧
    (Issues (.evWaitt e d a) s → s.cs.timeUp = false → ¬ sat ((s.cs.sc d).setWidth 8) → ¬ late → exec (.evWaitt e d a) s = .next s.waits) ∧
    (Issues (.csrr d c) s → ∀ x, csrRead s.begun c = some x → exec (.csrr d c) s = .next (s.wrote d x)) ∧
    (Issues (.csrr d c) s → csrRead s.begun c = none → exec (.csrr d c) s = .next (s.trapped (.csrr d c) .illegalField word)) ∧
    (Issues (.csrw a c) s → ∀ t, csrWrite s.begun c (s.cs.sc a) = some t → exec (.csrw a c) s = .next (s.completes t)) ∧
    (Issues (.csrw a c) s → csrWrite s.begun c (s.cs.sc a) = none →
      exec (.csrw a c) s = .next (s.trapped (.csrw a c) .illegalField word)) ∧
    (Issues (.mbrd d k n) s → k = 0 → exec (.mbrd d k n) s = .next (s.wrote d mb)) ∧
    (Issues (.mbrd d k n) s → k = 1 → exec (.mbrd d k n) s =
      .next (s.completes ((s.begun.onMailbox s.cs.ctx n.toNat (fun _ => 0)).onCs (fun t => t.setSc d mb)))) ∧
    (Issues (.mbwr a n) s → exec (.mbwr a n) s = .next (s.completes (s.begun.onMailbox s.cs.ctx n.toNat (fun _ => s.cs.sc a)))) ∧
    (Issues (.time d) s → exec (.time d) s = .next (s.wrote d (BitVec.ofNat 64 s.time))) ∧
    (Issues (.timeCyc d) s → exec (.timeCyc d) s = .next (s.wrote d (BitVec.ofNat 64 s.cs.cyc))) ∧
    (Issues .yieldPause s → s.cs.pauseEnd = none →
      exec .yieldPause s = .next (s.begun.onCs (fun t => { t with pauseEnd := some (s.cs.cyc + 64), held := true }))) ∧
    (Issues .yieldPause s → ∀ z, s.cs.pauseEnd = some z → z ≤ s.cs.cyc →
      exec .yieldPause s = .next (s.did (fun t => { t with pauseEnd := none }))) ∧
    (Issues .yieldPause s → ∀ z, s.cs.pauseEnd = some z → s.cs.cyc < z → exec .yieldPause s = .next s.waits)

/-- FLAGS, SRSEED and SRSTREAM read back the bits written, within their widths. A write of 6 or 7 to RNDM.MODE and of 3 to SCBM
changes nothing. STAT bits are cleared by writing 1. RBTAB keeps bits 8, 5:4 and 2:0, and a P of 5 to 7 leaves P unchanged. TIME,
STRANDID, CTXH and DEVID cannot be written. TVEC and TEPC drop bits 1:0, and PSTAT.P reads the view and is not written. (R8, R142,
R271, R272, R273, R198, R59, R95) -/
def Obligations.CsrFieldsFollowTheirAccessCodes : Prop :=
  ∀ (s t : State) (x : Dword),
    (csrWrite s 0x001 x = some t → csrRead t 0x001 = some (x &&& 0x1F)) ∧
    (csrWrite s 0x031 x = some t → csrRead t 0x031 = some x) ∧
    (csrWrite s 0x032 x = some t → csrRead t 0x032 = some (x &&& 0xFFFFFFFF)) ∧
    (csrWrite s 0x002 x = some t → csrRead t 0x002 = if x.toNat % 8 < 6 then some (x &&& 7) else csrRead s 0x002) ∧
    (csrWrite s 0x003 x = some t → csrRead t 0x003 = if x.toNat % 4 < 3 then some (x &&& 3) else csrRead s 0x003) ∧
    (csrWrite s 0x060 x = some t → ∀ old, csrRead s 0x060 = some old → csrRead t 0x060 = some (old &&& ~~~x)) ∧
    (csrWrite s 0x030 x = some t → ∀ old, csrRead s 0x030 = some old →
      csrRead t 0x030 = some ((x &&& 0x130) ||| (if x.toNat % 8 < 5 then x &&& 7 else old &&& 7))) ∧
    (csrWrite s 0x801 x = some t → csrRead t 0x801 = some (x &&& ~~~3)) ∧
    (csrWrite s 0x804 x = some t → csrRead t 0x804 = some (x &&& ~~~3)) ∧
    (csrWrite s 0x800 x = some t → t.cs.p = s.cs.p ∧ t.cs.pp = x.getLsbD 1) ∧
    csrWrite s 0x010 x = none ∧ csrWrite s 0x011 x = none ∧ csrWrite s 0x012 x = none ∧ csrWrite s 0x013 x = none ∧
    csrWrite s 0x014 x = none ∧ csrWrite s 0x015 x = none ∧ csrWrite s 0x016 x = none ∧ csrWrite s 0x020 x = none ∧
    csrWrite s 0x021 x = none ∧ csrWrite s 0x040 x = none ∧ csrWrite s 0x050 x = none ∧
    (∀ c, c ∈ ([0x001, 0x002, 0x003, 0x030, 0x031, 0x032, 0x060, 0x800, 0x801, 0x802, 0x803, 0x804, 0x805, 0x810, 0x820] : List (BitVec 12)) →
      csrWrite s c x = some t → t.mem = s.mem ∧ t.cs.s = s.cs.s ∧ t.cs.v = s.cs.v ∧ t.ctxs = s.ctxs)

/-- With no trap frame and a TVEC that is not 0, a trap moves the six queues, the access record, the data queues, the loop stack, the
fetch address and s1 to s10 into the frame and leaves them empty, with s1 to s10 reading zero; TCAUSE, TVAL and TEPC are written,
TQSTATE names the halted and the non-empty queues (the halted one only where the trapped unit has not issued), PP takes P, P is 1,
and fetch goes on at TVEC. Other strands, memory, s11 to s63, vectors, masks, descriptors, event counters and FLAGS are unchanged.
With a frame held, or TVEC 0, the team is halted and is to end with status ABORTED and code 0 unless an end is already on it, and
memory is unchanged. (R344, R346, R273) -/
def Obligations.TrapEntrySavesAndRedirects : Prop :=
  ∀ (s : State) (u : EUnit) (eng : Nat) (c : Cause) (tval tepc : Dword) (fetch : Bool) (def' : Option Nat) (pops pushes : List Nat),
    let t := s.enterTrap u eng c tval tepc fetch def' pops pushes
    (s.cs.frame = none → s.cs.tvec ≠ 0 → eng < 6 →
      (∃ f, t.cs.frame = some f ∧ f.unit = u ∧ f.eng = eng ∧ f.q = s.cs.q ∧ f.arec = s.cs.arec ∧ f.dq = s.cs.dq ∧ f.loops = s.cs.loops ∧
        f.pc = s.cs.pc ∧ ∀ n, 1 ≤ n → n ≤ 10 → Sparse.get 0 f.sregs n = Sparse.get 0 s.cs.s n) ∧
      t.cs.q = {} ∧ t.cs.arec = [] ∧ t.cs.dq = [] ∧ t.cs.loops = [] ∧
      (∀ n : BitVec 6, 1 ≤ n.toNat → n.toNat ≤ 10 → t.cs.sc n = 0) ∧ (∀ n : BitVec 6, 10 < n.toNat → t.cs.sc n = s.cs.sc n) ∧
      t.cs.tcause.toNat = c.code.toNat + 256 * eng ∧ t.cs.tval = tval ∧ t.cs.tepc = tepc &&& ~~~3 ∧
      t.cs.tqHalted.toNat = 2 ^ eng ∧ t.cs.tqNonempty = (if fetch = true ∨ def'.isSome ∨ (s.cs.frameOf u eng fetch def' pops pushes).issued = true
        then s.cs.q.bits else s.cs.q.bits ||| BitVec.ofNat 6 (2 ^ eng)) ∧
      t.cs.pp = s.cs.p ∧ t.cs.p = true ∧ t.cs.pc = s.cs.tvec ∧ t.others = s.others ∧ t.mem = s.mem ∧ t.teams = s.teams ∧
      t.launches = s.launches ∧ t.cs.v = s.cs.v ∧ t.cs.m = s.cs.m ∧ t.cs.d = s.cs.d ∧ t.cs.e = s.cs.e ∧ t.cs.flags = s.cs.flags) ∧
    (s.cs.frame.isSome ∨ s.cs.tvec = 0 →
      t.mem = s.mem ∧ t.cs.parkEnded = true ∧ t.cs.q = {} ∧
      (∀ m ∈ t.teams, m.id = s.cs.team → m.halted = true ∧ ∃ x ∈ s.teams, x.id = m.id ∧ m.endWith = some (x.endWith.getD (statusAborted, 0))) ∧
      t.launches = s.launches)

/-- trap that issues enters the handler with USER_TRAP and TVAL S[sA] plus its zero-extended immediate; with no frame held and a TVEC
it goes on at TVEC in the P view, its own address in TEPC. rtt and rtt.next are privileged: in the user view their fate is
PRIVILEGE. In the P view without a frame they trap ILLEGAL_FIELD; with one, and nothing that the handler began under way (log 62),
they complete: they restore the frame as the strand's return operation says, P takes PP, the frame is gone, and the faulted
entries of the record are issued again; before that they wait. rtt whose TEPC was not moved puts the trapped unit at the head of
its queue, and rtt.next does not. halt, in the P view, completes: it halts the team, which is to end with status HALTED and code
S[sA] unless an end is already on it. (R146, R264, R265, R344, R348, R352) -/
def Obligations.TrapWordsComplete : Prop :=
  ∀ (s : State) (a : BitVec 6) (i : BitVec 16) (fr : Frame),
    let word := s.cs.unit.word.setWidth 64
    let tval := s.cs.sc a + BitVec.ofNat 64 (s.cs.unit.immN i)
    let free := s.cs.q = {} ∧ s.cs.arec = [] ∧ (s.cs.mtx = none ∨ fr.mtx = none)
    (Issues (.trap a i) s → exec (.trap a i) s = .next (s.trapped (.trap a i) .userTrap tval)) ∧
    (Issues (.trap a i) s → s.cs.frame = none → s.cs.tvec ≠ 0 → ∃ t : State, exec (.trap a i) s = .next t ∧ t.cs.pc = s.cs.tvec ∧
      t.cs.tcause.toNat = 0x10 + 256 * (engineOf s.cs.unit.word % 6) ∧ t.cs.tval = tval ∧ t.cs.tepc = s.cs.unit.addr &&& ~~~3 ∧
      t.cs.p = true ∧ t.cs.pp = s.cs.p ∧ t.cs.frame.isSome ∧ t.mem = s.mem ∧ t.cs.v = s.cs.v ∧ t.cs.e = s.cs.e) ∧
    (s.cs.p = false → s.cs.unit.badKind = false →
      fateOf s .rtt = some .privilege ∧ fateOf s .rttNext = some .privilege ∧ fateOf s (.halt a) = some .privilege) ∧
    (Issues .rtt s → s.cs.frame = none → exec .rtt s = .next (s.trapped .rtt .illegalField word)) ∧
    (Issues .rttNext s → s.cs.frame = none → exec .rttNext s = .next (s.trapped .rttNext .illegalField word)) ∧
    (Issues .rtt s → s.cs.frame = some fr → free →
      exec .rtt s = .next (s.completes (replayCs (s.begun.onCs (fun t => t.rtt fr))))) ∧
    (Issues .rttNext s → s.cs.frame = some fr → free →
      exec .rttNext s = .next (s.completes (replayCs (s.begun.onCs (fun t => t.rttNext fr))))) ∧
    (Issues .rtt s → s.cs.frame = some fr → ¬ free → exec .rtt s = .next s.waits) ∧
    (Issues .rttNext s → s.cs.frame = some fr → ¬ free → exec .rttNext s = .next s.waits) ∧
    ((s.cs.rtt fr).p = s.cs.pp ∧ (s.cs.rtt fr).frame = none ∧ (s.cs.rtt fr).loops = fr.loops ∧ (s.cs.rtt fr).dq = fr.dq ∧
      (s.cs.rtt fr).v = s.cs.v ∧ (s.cs.rtt fr).e = s.cs.e ∧
      (s.cs.tepc = fr.unit.addr &&& ~~~3 → fr.fetchFault = false → fr.issued = false →
        (s.cs.rtt fr).q.get (engOf fr.unit.word) = .unit fr.unit :: fr.q.get (engOf fr.unit.word) ∧ (s.cs.rtt fr).pc = fr.pc)) ∧
    ((s.cs.rttNext fr).p = s.cs.pp ∧ (s.cs.rttNext fr).frame = none ∧ (s.cs.rttNext fr).loops = fr.loops ∧
      (fr.fetchFault = true → (s.cs.rttNext fr).pc = fr.unit.next)) ∧
    (Issues (.halt a) s → exec (.halt a) s = .next (s.begun.haltTeam statusHalted (s.cs.sc a)) ∧
      (s.begun.haltTeam statusHalted (s.cs.sc a)).mem = s.mem ∧ (s.begun.haltTeam statusHalted (s.cs.sc a)).cs.parkEnded = true ∧
      ∀ m ∈ (s.begun.haltTeam statusHalted (s.cs.sc a)).teams, m.id = s.cs.team →
        m.halted = true ∧ ∃ x ∈ s.teams, x.id = m.id ∧ m.endWith = some (x.endWith.getD (statusHalted, s.cs.sc a)))

/-- yield takes the team off where an eligible rival fits and has no effect otherwise. park whose condition already holds records the
sources as the last wake and goes on; else its condition joins the context's and the team is taken off, held. park end, with no
failed operation of the strand, leaves the barriers from which the strand has not dropped and ends the strand with no frame (log
28) and no loops. cswitch, whatever the DIES of the team that is seated (log 24), writes 2 where S[sA] names a context of another
die, 1 where no eligible team of it fits, waits while that team's parameters are being resolved (log 19), and otherwise takes the
team off with 0 in sD and seats that team in its place; a handle that fails its checks traps with the handle as TVAL. (R145, R254,
R255, R256, R257, R32, R137) -/
def Obligations.SwitchAndParkWordsComplete : Prop :=
  ∀ (s : State) (w : BitVec 4) (m e t l r : BitVec 1) (a b d : BitVec 6),
    let i := handleIndex s.cs.ctx
    let c := s.begun.entry i
    let k := parkCond s.begun.cs w (parkNames m e t l r) (s.cs.sc a) (s.cs.sc b)
    let met := condHolds s.begun k c.latch
    let h : Word := (s.cs.sc a).setWidth 32
    let rivals := fun (x : Team) => handlePart x.ctx ≠ handlePart s.csTeam.ctx || prioOf s.begun s.csTeam ≤ prioOf s.begun x
    (Issues .yield s → s.csTeam.placed = true → rival s.begun s.csTeam rivals = true → exec .yield s = .next (s.completes
      (selectOthers (takeOff s.begun s.csTeam.id) s.csTeam.id))) ∧
    (Issues .yield s → s.csTeam.placed = false ∨ rival s.begun s.csTeam rivals = false → exec .yield s = .next s.passed) ∧
    (Issues (.park w m e t l r a b) s → met ≠ 0 → exec (.park w m e t l r a b) s =
      .next (s.completes (s.begun.setEntry i { c with latch := c.latch &&& ~~~k.named, lastWake := met }))) ∧
    (Issues (.park w m e t l r a b) s → met = 0 → exec (.park w m e t l r a b) s = .next (s.completes (takeOff
      ((s.begun.setEntry i { c with cond := some (match c.cond with | some x => x.union k | none => k) }).onTeam s.cs.team
        (fun m => { m with parkHeld := true })) s.cs.team))) ∧
    (Issues .parkEnd s → (∀ o ∈ s.ops, o.team = s.cs.team → o.sid = s.cs.sid → ∀ f v, o.stat ≠ .fault f v) → ∃ t : State, exec .parkEnd s = .next t ∧ t.mem = s.mem ∧ t.cs.parkEnded = true ∧ t.cs.frame = none ∧ t.cs.loops = [] ∧
      t.cs.s = s.cs.s ∧ t.cs.v = s.cs.v ∧ ∀ x, s.team? s.cs.team = some x → ∃ y, t.team? s.cs.team = some y ∧ ∀ z : BitVec 4, y.barrier z =
        if s.cs.barDropped.getLsbD z.toNat then x.barrier z else (x.barrier z).leave (s.cs.phaseOf z == some (x.barrier z).phase)) ∧
    (∀ x : Barrier, (x.a ≠ x.e → x.leave true = { x with p := x.p + 1 }) ∧ (x.a ≠ x.e - 1 → x.leave false = { x with e := x.e - 1 }) ∧
      (x.a = x.e - 1 → x.leave false = { e := x.e - 1 - x.p, a := 0, p := 0, phase := x.phase + 1 })) ∧
    (Issues (.cswitch d a) s → ∀ f, handleFault s.begun h = some f →
      exec (.cswitch d a) s = .next (s.trapped (.cswitch d a) f (h.setWidth 64))) ∧
    (Issues (.cswitch d a) s → handleFault s.begun h = none → handleDie h ≠ s.cs.die → exec (.cswitch d a) s = .next (s.wrote d 2)) ∧
    (Issues (.cswitch d a) s → handleFault s.begun h = none → handleDie h = s.cs.die → switchTarget s.begun (handleIndex h) = none →
      exec (.cswitch d a) s = .next (s.wrote d 1)) ∧
    (Issues (.cswitch d a) s → handleFault s.begun h = none → handleDie h = s.cs.die →
      ∀ x, switchTarget s.begun (handleIndex h) = some x →
        (x.faults ≠ [] → exec (.cswitch d a) s = .next s.waits) ∧
        (x.faults = [] → ∀ v, readyTeam s.begun x = (v, none) → exec (.cswitch d a) s = .next (v.onCs (fun t => t.setHeld true))) ∧
        (x.faults = [] → ∀ v y, readyTeam s.begun x = (v, some y) →
          let p := frameFreed (seat (vacate (v.result d 0) s.csTeam.id) y s.csTeam.die s.csTeam.tile)
          ∃ z, exec (.cswitch d a) s = .next (s.completes (p.setDeficit (handleDie y.ctx).toNat (handlePart y.ctx).toNat z))))

/-- A word that names a context by S[sA] traps with the handle as TVAL where the handle fails its checks, and otherwise has its
effect: wakehint sets the hint, ctxq.st, ctxq.wake and ctxq.tiers write their word, ctxfree, ctxset.prio, ctxset.bind write 0 with
their change made, or 1 while the context is READY or RUNNING for ctxfree and ctxset.bind, and trap ILLEGAL_FIELD for a value
outside the limits. ctxnew reads its 32-byte record, makes a context of the running partition in the lowest free entry of the die
(log 6) and writes its handle, or 0 with none free. kill discards the teams of a context and writes 0, unless it kills its own
context. ctxnew, ctxfree, ctxset and kill are PRIVILEGE in the user view. (R24, R254, R258, R259, R260, R261, R262, R263) -/
def Obligations.ContextWordsComplete : Prop :=
  ∀ (s : State) (d a b : BitVec 6),
    let h : Word := (s.cs.sc a).setWidth 32
    let ok := handleFault s.begun h = none
    let i := handleIndex h
    let x := s.cs.sc b
    let c := s.begun.entry i
    let away := c.state = .parked ∨ c.state = .swapped
    (s.cs.p = false → s.cs.unit.badKind = false → fateOf s (.ctxnew d a) = some .privilege ∧ fateOf s (.ctxfree d a) = some .privilege ∧
      fateOf s (.ctxsetPrio d a b) = some .privilege ∧ fateOf s (.ctxsetBind d a b) = some .privilege ∧
      fateOf s (.kill d a) = some .privilege) ∧
    (∀ f, handleFault s.begun h = some f →
      (Issues (.wakehint a b) s → exec (.wakehint a b) s = .next (s.trapped (.wakehint a b) f (h.setWidth 64))) ∧
      (Issues (.ctxqSt d a) s → exec (.ctxqSt d a) s = .next (s.trapped (.ctxqSt d a) f (h.setWidth 64))) ∧
      (Issues (.ctxqWake d a) s → exec (.ctxqWake d a) s = .next (s.trapped (.ctxqWake d a) f (h.setWidth 64))) ∧
      (Issues (.ctxqTiers d a) s → exec (.ctxqTiers d a) s = .next (s.trapped (.ctxqTiers d a) f (h.setWidth 64))) ∧
      (Issues (.ctxsetPrio d a b) s → exec (.ctxsetPrio d a b) s = .next (s.trapped (.ctxsetPrio d a b) f (h.setWidth 64))) ∧
      (Issues (.ctxsetBind d a b) s → exec (.ctxsetBind d a b) s = .next (s.trapped (.ctxsetBind d a b) f (h.setWidth 64))) ∧
      (Issues (.ctxfree d a) s → exec (.ctxfree d a) s = .next (s.trapped (.ctxfree d a) f (h.setWidth 64))) ∧
      (Issues (.kill d a) s → exec (.kill d a) s = .next (s.trapped (.kill d a) f (h.setWidth 64)))) ∧
    (Issues (.wakehint a b) s → ok → exec (.wakehint a b) s = .next (s.completes (setHint s.begun i x))) ∧
    (Issues (.ctxqSt d a) s → ok → exec (.ctxqSt d a) s = .next (s.wrote d (ctxStatus s.begun i))) ∧
    (Issues (.ctxqWake d a) s → ok → away → exec (.ctxqWake d a) s = .next (s.wrote d (BitVec.ofNat 64 (c.wake.getD 0)))) ∧
    (Issues (.ctxqWake d a) s → ok → ¬ away → exec (.ctxqWake d a) s = .next (s.wrote d (c.hint.getD 0))) ∧
    (Issues (.ctxqTiers d a) s → ok → exec (.ctxqTiers d a) s = .next (s.wrote d (BitVec.ofNat 64
      (tierCount s.begun i 0 + tierCount s.begun i 1 * 2 ^ 21 + tierCount s.begun i 2 * 2 ^ 42)))) ∧
    (Issues (.ctxfree d a) s → ok → ¬ (c.state = .ready ∨ c.state = .running) →
      exec (.ctxfree d a) s = .next (s.completes ((freeContext s.begun i).result d 0))) ∧
    (Issues (.ctxfree d a) s → ok → c.state = .ready ∨ c.state = .running → exec (.ctxfree d a) s = .next (s.wrote d 1)) ∧
    (Issues (.ctxsetPrio d a b) s → ok → x.toNat < 8 → exec (.ctxsetPrio d a b) s =
      .next (s.completes ((s.begun.setEntry i { c with prio := x.setWidth 3 }).result d 0))) ∧
    (Issues (.ctxsetPrio d a b) s → ok → 8 ≤ x.toNat → exec (.ctxsetPrio d a b) s = .next (s.trapped (.ctxsetPrio d a b) .illegalField x)) ∧
    (Issues (.ctxsetBind d a b) s → ok → x.toNat / 4 % 1024 = 0 → away →
      exec (.ctxsetBind d a b) s = .next (s.completes ((setBind s.begun h x).result d 0))) ∧
    (Issues (.ctxsetBind d a b) s → ok → x.toNat / 4 % 1024 = 0 → c.state = .ready ∨ c.state = .running →
      exec (.ctxsetBind d a b) s = .next (s.wrote d 1)) ∧
    (Issues (.ctxsetBind d a b) s → ok → x.toNat / 4 % 1024 ≠ 0 →
      exec (.ctxsetBind d a b) s = .next (s.trapped (.ctxsetBind d a b) .illegalField x)) ∧
    (Issues (.ctxnew d a) s → (s.cs.sc a).toNat % 32 ≠ 0 → exec (.ctxnew d a) s = .next (s.trapped (.ctxnew d a) .misaligned (s.cs.sc a))) ∧
    (Issues (.ctxnew d a) s → (s.cs.sc a).toNat % 32 = 0 → ∀ t imgs,
      mtxAccess s.begun s.cs.unit s.cs.p (readReq (s.cs.sc a) 32) = .data t imgs → ctxRecordOk ((imgs.headD 0).setWidth 256) = true →
      (∀ e, freeEntry t (recField ((imgs.headD 0).setWidth 256) 0xA 1) = some e →
        let n := newContext t ((imgs.headD 0).setWidth 256) t.cs.part e
        exec (.ctxnew d a) s = .next (s.completes (n.result d (((n.entry e).handle e).setWidth 64)))) ∧
      (freeEntry t (recField ((imgs.headD 0).setWidth 256) 0xA 1) = none → exec (.ctxnew d a) s = .next (s.completes (t.result d 0)))) ∧
    (Issues (.ctxnew d a) s → (s.cs.sc a).toNat % 32 = 0 → ∀ t imgs,
      mtxAccess s.begun s.cs.unit s.cs.p (readReq (s.cs.sc a) 32) = .data t imgs → ctxRecordOk ((imgs.headD 0).setWidth 256) = false →
      exec (.ctxnew d a) s = .next (t.trap .illegalField (s.cs.sc a) [] [])) ∧
    (Issues (.kill d a) s → ok → handleIndex s.cs.ctx ≠ i → exec (.kill d a) s = .next (s.completes ((killContext s.begun i).result d 0))) ∧
    (Issues (.kill d a) s → ok → handleIndex s.cs.ctx = i → exec (.kill d a) s = .next (killContext s.begun i))

/-- A residency word writes 2, or all ones for hinge.q, for an object that is not known to the running context (to its partition in
the P view). hinge.pin adds a pin of the context, starts the recall where the page lies below the ceiling, and writes 0; it writes
1 where a limit stands against it, and traps for a ceiling of 2 or more. hinge.unpin takes the context's latest pin away and
writes 0, or 3 with none. hinge.q writes tier, MOVING, SHARED, pins and version. hinge.move, in the P view, writes 1 where a pin
bars the tier or a shared page is to go to T2, 0 otherwise with the move started unless the page's tier is that one, even while it
migrates (log 29). tlbinv removes exactly the cached translations it names, by the addresses and roots that its operands give (log
30), then waits while accesses of the contexts it names are under way, and completes once they are performed. hang.rd writes the
word of the hang record. (R266, R267, R268, R269, R270, R286, R402) -/
def Obligations.ResidencyWordsComplete : Prop :=
  ∀ (s : State) (d a b : BitVec 6) (p : Pde),
    let obj := knownObj s.begun (s.cs.sc a)
    let x := s.cs.sc b
    let word := s.cs.unit.word.setWidth 64
    let pinned := s.begun.onPde p.obj (fun q => { q with pins := q.pins ++ [(s.cs.ctx, x.setWidth 1)] })
    let ends := fun (i : Instr) (u : State) (uses : Word → Bool) (left : TlbEntry → Bool) =>
      u.mem = s.mem ∧ u.tlb = s.tlb.filter left ∧
      (Issues i s → (∀ v ∈ s.cs.inval, v.1 ≠ s.cs.unit.seq) →
        ((u.inFlight uses).over u = true → exec i s = .next (s.completes (u.onCs (fun t => { t with inval := none })))) ∧
        ((u.inFlight uses).over u = false →
          exec i s = .next (u.onCs (fun t => { t with inval := some (s.cs.unit.seq, u.inFlight uses), held := true })))) ∧
      (Issues i s → ∀ l, s.cs.inval = some (s.cs.unit.seq, l) → l.over s.begun = true →
        exec i s = .next (s.did (fun t => { t with inval := none })))
    (Issues (.hingePin d a b) s → 2 ≤ x.toNat → exec (.hingePin d a b) s = .next (s.trapped (.hingePin d a b) .illegalField word)) ∧
    (Issues (.hingePin d a b) s → x.toNat < 2 → obj = none → exec (.hingePin d a b) s = .next (s.wrote d 2)) ∧
    (Issues (.hingePin d a b) s → x.toNat < 2 → obj = some p → pinRefused s.begun p (x.setWidth 1) = true →
      exec (.hingePin d a b) s = .next (s.wrote d 1)) ∧
    (Issues (.hingePin d a b) s → x.toNat < 2 → obj = some p → pinRefused s.begun p (x.setWidth 1) = false →
      exec (.hingePin d a b) s = .next (s.completes ((if x.toNat < p.tier.toNat then
        recallPinned pinned p (x.setWidth 1) else pinned).result d 0))) ∧
    (Issues (.hingeUnpin d a) s → obj = none → exec (.hingeUnpin d a) s = .next (s.wrote d 2)) ∧
    (Issues (.hingeUnpin d a) s → obj = some p → (∃ y ∈ p.pins, y.1 = s.cs.ctx) → exec (.hingeUnpin d a) s = .next (s.completes
      ((s.begun.onPde p.obj (fun q => { q with pins := dropLast (fun y => y.1 == s.cs.ctx) q.pins })).result d 0))) ∧
    (Issues (.hingeUnpin d a) s → obj = some p → (∀ y ∈ p.pins, y.1 ≠ s.cs.ctx) → exec (.hingeUnpin d a) s = .next (s.wrote d 3)) ∧
    (Issues (.hingeQ d a) s → obj = none → exec (.hingeQ d a) s = .next (s.wrote d (BitVec.allOnes 64))) ∧
    (Issues (.hingeQ d a) s → obj = some p → exec (.hingeQ d a) s = .next (s.wrote d (BitVec.ofNat 64 (p.tier.toNat +
      (if p.moving then 4 else 0) + (if p.shared then 8 else 0) + p.pins.length % 256 * 256 + p.version.toNat * 2 ^ 32)))) ∧
    (Issues (.hingeMove d a b) s → 3 ≤ x.toNat → exec (.hingeMove d a b) s = .next (s.trapped (.hingeMove d a b) .illegalField word)) ∧
    (Issues (.hingeMove d a b) s → x.toNat < 3 → obj = none → exec (.hingeMove d a b) s = .next (s.wrote d 2)) ∧
    (Issues (.hingeMove d a b) s → x.toNat < 3 → obj = some p → p.pinBars (x.setWidth 2) = true ∨ (p.shared = true ∧ x = 2) →
      exec (.hingeMove d a b) s = .next (s.wrote d 1)) ∧
    (Issues (.hingeMove d a b) s → x.toNat < 3 → obj = some p → p.pinBars (x.setWidth 2) = false → ¬ (p.shared = true ∧ x = 2) →
      p.tier = x.setWidth 2 → exec (.hingeMove d a b) s = .next (s.wrote d 0)) ∧
    (Issues (.hingeMove d a b) s → x.toNat < 3 → obj = some p → p.pinBars (x.setWidth 2) = false → ¬ (p.shared = true ∧ x = 2) →
      p.tier ≠ x.setWidth 2 → exec (.hingeMove d a b) s =
        .next (s.completes ((startMove s.begun p.obj (x.setWidth 2) true).result d 0))) ∧
    ends (.tlbinvPart a) (loadRegions (dropEntries (fun u e => e.kind != 0 && e.part == (u.cs.sc a).setWidth 6)
      (fun u g => g.ofPart ((u.cs.sc a).setWidth 6) && (g.stage2? u ((u.cs.sc a).setWidth 6)).isSome) s.begun) ((s.cs.sc a).setWidth 6))
      (ofPart ((s.cs.sc a).setWidth 6)) (fun e => e.kind == 0 || e.part != (s.cs.sc a).setWidth 6) ∧
    ends (.tlbinvS2 a) (dropEntries (fun u e => e.kind == 1 && e.part == u.cs.part && e.covers (u.cs.sc a).toNat)
      (fun u g => g.uses u u.cs.part (u.cs.sc a).toNat) s.begun) (ofPart s.cs.part)
      (fun e => e.kind != 1 || e.part != s.cs.part || !e.covers (s.cs.sc a).toNat) ∧
    ends (.tlbinvFab a) (dropEntries (fun u e => e.kind == 2 && e.part == u.cs.part && e.covers ((u.cs.sc a).toNat % 2 ^ 54))
      (fun _ _ => false) s.begun) (fun _ => false) (fun e => e.kind != 2 || e.part != s.cs.part || !e.covers ((s.cs.sc a).toNat % 2 ^ 54)) ∧
    ends .tlbinvAll (dropEntries (fun _ e => e.kind != 0) (fun u g => (g.stage2? u (fld g.ctx 16 6)).isSome) s.begun)
      (fun _ => true) (fun e => e.kind == 0) ∧
    ends (.tlbinvHost a) (dropRoot s.begun s.cs.part (s.cs.sc a)) (rootedAt s s.cs.part (s.cs.sc a)) (fun e =>
      e.kind != 0 || e.part != s.cs.part || (s.cs.sc a != 0 && e.root &&& ~~~0xFFF != s.cs.sc a &&& ~~~0xFFF)) ∧
    (Issues (.hangRd d a b) s → 4 ≤ (s.cs.sc a).toNat ∨ 16 ≤ x.toNat →
      exec (.hangRd d a b) s = .next (s.trapped (.hangRd d a b) .illegalField word)) ∧
    (Issues (.hangRd d a b) s → (s.cs.sc a).toNat < 4 → x.toNat < 16 → exec (.hangRd d a b) s =
      .next (s.wrote d (Sparse.get 0 s.hangRec (hangKey s.cs ((s.cs.sc a).setWidth 2) x.toNat))))

/-- A scalar load or store of n bytes at S[sA] plus its immediate times n traps MISALIGNED with that address where it is no multiple
of n. Where the address is aligned, the record lets the access go and every byte is reached, it completes. A load gives sD the
bytes, as the core reads them (from its L1 where that holds a line of another die or of a view, else from memory), as a little-
endian number, sign-extended for the .s forms and zero-extended for the others, and changes nothing else of the strand (s0
discards the value); an acquire or release acts on the core's L1 lines, and without one memory is that of the translation unless a
full L1 gives up a line. A store puts byte k of S[sD] at the place of the k-th byte of the address; for places with one copy
memory is then exactly that, every byte of memory at another place reads as it did after translation, and of the strand nothing
changes. A store of s0 stores zeros. (R148, R150, R151, R152, R155) -/
def Obligations.ScalarLoadAndStoreWordsComplete : Prop :=
  (∀ (s : State) (c : BitVec 4) (d a i : BitVec 6),
      let o := s.cs.unit.ordOf c
      let load := fun (w : Instr) (n : Nat) (f : Nat → Dword) =>
        let va := s.cs.sc a + BitVec.ofInt 64 (s.cs.unit.immS i * n)
        (Issues w s → va.toNat % n ≠ 0 → exec w s = .next (s.trapped w .misaligned va)) ∧
        (Issues w s → va.toNat % n = 0 → RecordFree s o.cls [⟨0, va, n⟩] → ∀ u plan, Reach s.begun .read [⟨0, va, n⟩] u plan →
          let v := s.ready u o plan
          let t := s.loaded v o (fun t => t.setSc d (f (s.readsNat v plan)))
          exec w s = .next t ∧ LoadsOnly u t o plan ∧ (plain plan → s.readsNat v plan = planNat v.mem plan))
      load (.ldBS c d a i) 1 (fun x => (BitVec.ofNat 8 x).signExtend 64) ∧ load (.ldBN c d a i) 1 (fun x => BitVec.ofNat 64 x) ∧
      load (.ldHS c d a i) 2 (fun x => (BitVec.ofNat 16 x).signExtend 64) ∧ load (.ldHN c d a i) 2 (fun x => BitVec.ofNat 64 x) ∧
      load (.ldWS c d a i) 4 (fun x => (BitVec.ofNat 32 x).signExtend 64) ∧ load (.ldWN c d a i) 4 (fun x => BitVec.ofNat 64 x) ∧
      load (.ldD c d a i) 8 (fun x => BitVec.ofNat 64 x)) ∧
  (∀ (s : State) (c : BitVec 4) (d a i : BitVec 6),
      let o := s.cs.unit.ordOf c
      let store := fun (w : Instr) (n : Nat) =>
        let va := s.cs.sc a + BitVec.ofInt 64 (s.cs.unit.immS i * n)
        (Issues w s → va.toNat % n ≠ 0 → exec w s = .next (s.trapped w .misaligned va)) ∧
        (Issues w s → va.toNat % n = 0 → RecordFree s o.cls [⟨0, va, n⟩] → ∀ u plan, Reach s.begun .write [⟨0, va, n⟩] u plan →
          let t := s.stored (s.ready u o plan) o [(s.cs.sc d).setWidth 4096] plan
          exec w s = .next t ∧ StoresOnly u t o [(s.cs.sc d).setWidth 4096] plan ∧
            (o.order = 0 → plain plan → t.mem = plan.foldl (fun m p => setByte m p.2.key (byteOf (s.cs.sc d) p.1)) u.mem))
      store (.stB c d a i) 1 ∧ store (.stH c d a i) 2 ∧ store (.stW c d a i) 4 ∧ store (.stD c d a i) 8)

/-- ld.v and st.v move 512 bytes at S[sA] plus the immediate times 512, ld.vs and st.vs eight lines of 64 bytes at S[sA] plus
multiples of S[sB]; an address or stride that is no multiple of 64 traps MISALIGNED with the address, unless no byte is active,
when nothing is accessed. A load into a register merges the read bytes over what R158 leaves in it, one into a queue pushes them
with the mask; a store takes a register or pops a queue. ld.m, st.m, dld and dst move 128 and 64 bytes at a multiple of that. dset
writes 64 bits of a descriptor and leaves the others. pref changes nothing. (R156, R157, R158, R159, R163, R165, R150) -/
def Obligations.VectorMaskAndDescriptorMovesComplete : Prop :=
  ∀ (s : State) (c : BitVec 4) (d a i b : BitVec 6) (m : BitVec 4) (k : BitVec 3) (l : BitVec 1) (u : State) (plan : List (Nat × Loc)),
    let o := s.cs.unit.ordOf c
    let v := s.ready u o plan
    let free := fun es => es = [] ∨ RecordFree s o.cls es
    let stores := fun (w : Instr) (data : Vec) (f : Strand → Strand) =>
      exec w s = .next (s.stored v o [data] plan f) ∧ StoresOnly u (s.stored v o [data] plan f) o [data] plan
    let loads := fun (w : Instr) (f : Strand → Strand) => exec w s = .next (s.loaded v o f) ∧ LoadsOnly u (s.loaded v o f) o plan
    let vload := fun (w : Instr) (va stride : Dword) =>
      let es := vecElems s.cs va stride
      (Issues w s → ¬ (va.toNat % 64 = 0 ∧ stride.toNat % 64 = 0) → es ≠ [] → exec w s = .next (s.trapped w .misaligned va)) ∧
      (Issues w s → (va.toNat % 64 = 0 ∧ stride.toNat % 64 = 0 ∨ es = []) → free es → Reach s.begun .read es u plan →
        (∀ r, s.cs.vname s.cs.unit 19 d = .reg r → loads w (fun t => t.setVr r ((s.reads v [mergeBase s.cs r] plan).headD 0))) ∧
        (∀ q, s.cs.vname s.cs.unit 19 d = .queue q →
          loads w (fun t => t.pushq q { data := (s.reads v [0] plan).headD 0, mask := (s.cs.maskOf s.cs.unit).1 })))
    let vstore := fun (w : Instr) (va stride : Dword) =>
      let es := vecElems s.cs va stride
      (Issues w s → ¬ (va.toNat % 64 = 0 ∧ stride.toNat % 64 = 0) → es ≠ [] → exec w s = .next (s.trapped w .misaligned va)) ∧
      (Issues w s → (va.toNat % 64 = 0 ∧ stride.toNat % 64 = 0 ∨ es = []) → free es → Reach s.begun .write es u plan →
        (∀ r, s.cs.vname s.cs.unit 19 d = .reg r → stores w (s.cs.vr r) id) ∧
        (∀ q, s.cs.vname s.cs.unit 19 d = .queue q → stores w (s.cs.popq q).1.data (fun t => (t.popq q).2)))
    let at' := fun (n : Nat) => s.cs.sc a + BitVec.ofInt 64 (s.cs.unit.immS i * n)
    vload (.ldV c d a i) (at' 512) 64 ∧ vload (.ldVs c d a b) (s.cs.sc a) (s.cs.sc b) ∧
    vstore (.stV c d a i) (at' 512) 64 ∧ vstore (.stVs c d a b) (s.cs.sc a) (s.cs.sc b) ∧
    (Issues (.ldM c m a i) s → (at' 128).toNat % 128 ≠ 0 → exec (.ldM c m a i) s = .next (s.trapped (.ldM c m a i) .misaligned (at' 128))) ∧
    (Issues (.ldM c m a i) s → (at' 128).toNat % 128 = 0 → free [⟨0, at' 128, 128⟩] → Reach s.begun .read [⟨0, at' 128, 128⟩] u plan →
      loads (.ldM c m a i) (fun t => t.setMr m.toNat (((s.reads v [0] plan).headD 0).setWidth 1024))) ∧
    (Issues (.stM c m a i) s → (at' 128).toNat % 128 ≠ 0 → exec (.stM c m a i) s = .next (s.trapped (.stM c m a i) .misaligned (at' 128))) ∧
    (Issues (.stM c m a i) s → (at' 128).toNat % 128 = 0 → free [⟨0, at' 128, 128⟩] → Reach s.begun .write [⟨0, at' 128, 128⟩] u plan →
      stores (.stM c m a i) ((s.cs.mr m.toNat).setWidth 4096) id) ∧
    (Issues (.dld c m a i) s → (at' 64).toNat % 64 ≠ 0 → exec (.dld c m a i) s = .next (s.trapped (.dld c m a i) .misaligned (at' 64))) ∧
    (Issues (.dld c m a i) s → (at' 64).toNat % 64 = 0 → free [⟨0, at' 64, 64⟩] → Reach s.begun .read [⟨0, at' 64, 64⟩] u plan →
      loads (.dld c m a i) (fun t => t.setDr m.toNat (((s.reads v [0] plan).headD 0).setWidth 512))) ∧
    (Issues (.dst c m a i) s → (at' 64).toNat % 64 ≠ 0 → exec (.dst c m a i) s = .next (s.trapped (.dst c m a i) .misaligned (at' 64))) ∧
    (Issues (.dst c m a i) s → (at' 64).toNat % 64 = 0 → free [⟨0, at' 64, 64⟩] → Reach s.begun .write [⟨0, at' 64, 64⟩] u plan →
      stores (.dst c m a i) ((s.cs.dr m.toNat).setWidth 4096) id) ∧
    (Issues (.dset m a k) s → ∃ x : Desc, exec (.dset m a k) s = .next (s.did (fun t => t.setDr m.toNat x)) ∧
      ∀ n, n < 512 → x.getLsbD n = if 64 * k.toNat ≤ n ∧ n < 64 * k.toNat + 64 then (s.cs.sc a).getLsbD (n - 64 * k.toNat)
        else (s.cs.dr m.toNat).getLsbD n) ∧
    (Issues (.pref l a i) s → exec (.pref l a i) s = .next s.passed)

/-- A gather or scatter takes S[sA] plus the index times the element size for each active element; where all are aligned and reached,
a gather into a register or queue and a scatter from one complete with the bytes of those places as the core reads them, and a
scatter writes no other byte. A misaligned first element traps MISALIGNED with its address. sfetch and gathb with an invalid
descriptor trap ILLEGAL_FIELD with its number, whatever rows are active. sfetch of a chunk number at or past the last traps
BOUNDS; else it pushes the chunk's entries, and with sB = s0 the descriptor's POS is one more. gathb with TRAP and a row out of
bounds traps BOUNDS. (R160, R161, R162, R164, R166, R167) -/
def Obligations.GatherScatterAndStreamWordsComplete : Prop :=
  ∀ (s : State) (c : BitVec 4) (d a b : BitVec 6) (n : BitVec 4) (tr : BitVec 1) (u : State) (plan : List (Nat × Loc)),
    let x := s.cs.dr n.toNat
    let idx := (takeSources s.cs.unit [(17, b)] s.cs).1.headD 0
    let pop := fun (t : Strand) => (takeSources s.cs.unit [(17, b)] t).2
    let o := s.cs.unit.ordOf c
    let v := s.ready u o plan
    let free := fun es => es = [] ∨ RecordFree s o.cls es
    let loads := fun (w : Instr) (f : Strand → Strand) => exec w s = .next (s.loaded v o f) ∧ LoadsOnly u (s.loaded v o f) o plan
    let gath := fun (w : Instr) (size : Nat) =>
      let es := gathElems s.cs (s.cs.sc a) idx size
      (Issues w s → (∀ e ∈ es, e.va.toNat % size = 0) → free es → Reach s.begun .read es u plan →
        (∀ r, s.cs.vname s.cs.unit 19 d = .reg r → loads w (fun t => t.setVr r ((s.reads v [gathBase s.cs r size] plan).headD 0) |> pop)) ∧
        (∀ q, s.cs.vname s.cs.unit 19 d = .queue q → loads w (fun t => t.pushq q
          { data := (s.reads v [0] plan).headD 0, mask := (s.cs.maskOf s.cs.unit).1 &&& bitRun 0 128 } |> pop))) ∧
      (Issues w s → ∀ e l, es = e :: l → e.va.toNat % size ≠ 0 → exec w s = .next (s.trapped w .misaligned e.va))
    let scat := fun (w : Instr) (size : Nat) =>
      let src := (takeSources s.cs.unit [(19, d), (17, b)] s.cs).1
      let es := gathElems s.cs (s.cs.sc a) ((src[1]?).getD 0) size
      (Issues w s → (∀ e ∈ es, e.va.toNat % size = 0) → free es → Reach s.begun .write es u plan →
        let t := s.stored v o [src.headD 0] plan (fun t => (takeSources s.cs.unit [(19, d), (17, b)] t).2)
        exec w s = .next t ∧ StoresOnly u t o [src.headD 0] plan) ∧
      (Issues w s → ∀ e l, es = e :: l → e.va.toNat % size ≠ 0 → exec w s = .next (s.trapped w .misaligned e.va))
    gath (.gathB c d a b) 1 ∧ gath (.gathH c d a b) 2 ∧ gath (.gathW c d a b) 4 ∧
    scat (.scatB c d a b) 1 ∧ scat (.scatH c d a b) 2 ∧ scat (.scatW c d a b) 4 ∧
    (Issues (.sfetch c d n b) s → descOk x = false → exec (.sfetch c d n b) s = .next (s.trapped (.sfetch c d n b) .illegalField (n.setWidth 64))) ∧
    (Issues (.sfetch c d n b) s → descOk x = true →
      let k := if b = 0 then dPOS x else (s.cs.sc b).toNat
      let q := chunkReq x (chunkRows x k) .sfetch
      (chunkTotal x ≤ k → exec (.sfetch c d n b) s = .next (s.trapped (.sfetch c d n b) .bounds (BitVec.ofNat 64 k))) ∧
      (k < chunkTotal x → chunkEntries x ≤ s.cs.qfree (d.toNat - 56) → free q.elems → Reach s.begun .read q.elems u plan →
        ∃ t : State, exec (.sfetch c d n b) s = .next t ∧
          t.cs.dataq (d.toNat - 56) = u.cs.dataq (d.toNat - 56) ++ ((chunkMasks x (chunkRows x k)).zip (q.final (s.reads v q.start plan))).map
            (fun e => { data := e.2, mask := e.1 }) ∧
          LoadsOnly u t o plan ∧ (b ≠ 0 → t.cs.d = u.cs.d) ∧ (b = 0 → dPOS (t.cs.dr n.toNat) = (k + 1) % 2 ^ 32 ∧
            dBASE (t.cs.dr n.toNat) = dBASE x ∧ dCOLS (t.cs.dr n.toNat) = dCOLS x))) ∧
    (let act := (List.range (dTROWS x)).filter (fun j => (s.cs.maskOf s.cs.unit).1.getLsbD j)
     (Issues (.gathb c d tr n b) s → descOk x = false → exec (.gathb c d tr n b) s =
      .next (s.trapped (.gathb c d tr n b) .illegalField (n.setWidth 64))) ∧
     (Issues (.gathb c d tr n b) s → descOk x = true →
      let q := chunkReq x (act.map (fun j => (⟨indexOf idx j, 0, j * dTCOLS x⟩ : CRow))) .gathb
      (∀ j l, act.filter (fun j => dROWS x ≤ indexOf idx j) = j :: l → tr = 1 → exec (.gathb c d tr n b) s =
        .next (s.trapped (.gathb c d tr n b) .bounds (BitVec.ofNat 64 (indexOf idx j)))) ∧
      ((∀ j ∈ act, indexOf idx j < dROWS x) → free q.elems → Reach s.begun .read q.elems u plan →
        ∀ r, s.cs.vname s.cs.unit 19 d = .reg r → s.cs.unit.ext 4 = none → s.cs.unit.ext 5 = none → r + chunkEntries x ≤ 56 →
          56 ≤ s.csTeam.hdr.nv → loads (.gathb c d tr n b) (fun t =>
            (((List.range (chunkEntries x)).map (fun j => (r + j) % 256)).zip (q.final (s.reads v q.start plan))).foldl
              (fun t e => t.setVr (e.1 % 256) e.2) t |> pop))))

/-- On a header reached and within its limits: rclaim.p and rclaim.c return PCLAIM or CCLAIM and store one more; rwaitf writes 1 once
its slot is below TAIL, 0 with STAT.EMPTY at the END flag, and waits else; rwaite is done once its slot is below HEAD plus NSLOT,
and waits else; both then act as acquires on the L1 lines of the core, at tile scope for the own tile and die scope else. rpub
marks a slot from TAIL to PCLAIM and moves TAIL over the published ones, rrel likewise for HEAD; a slot out of range or marked
already only sets STAT.OOB; both are releases. wadv by n waits until n slots are published, traps for n above NSLOT and moves HEAD
by n; by 0 it moves nothing. wmap of a valid descriptor to a ring in tile SRAM that no window has, whose slots hold whole chunk
images, while the tile has fewer than 16 windows, empties the ring, sets BOUND, and END where the first chunk is at or past the
last (log 66), and makes the window; an invalid descriptor traps with its number. wmap.off clears BOUND, keeps END (log 66) and
removes the window. A header outside its limits traps ILLEGAL_FIELD with its address, and one at no multiple of 64 MISALIGNED. A
word that waits for its condition keeps nothing of the translation (log 54), one whose header is held by a migration has its
record entry. (R168, R169, R170, R171, R6) -/
def Obligations.RingWordsComplete : Prop :=
  ∀ (s : State) (c : BitVec 4) (d a b : BitVec 6) (n : BitVec 4) (u : State) (plan : List (Nat × Loc)) (h : Desc),
    let va := s.cs.sc a
    let k := (s.cs.sc b).toNat
    let rw := RingAt s c va .rw u plan h
    let rd := RingAt s c va .read u plan h
    let scope : BitVec 3 := if isTile (planKey plan) && keyTile (planKey plan) == s.cs.die.toNat * 16 + s.cs.tile.toNat then 2 else 3
    let acq := acquireL1 u s.cs.l1No scope
    let rel := releaseL1 u s.cs.l1No scope
    let put := fun (v : State) (h : Desc) => { v with mem := writePlan v.mem [h.setWidth 4096] plan }
    (Issues (.rclaimP c d a) s → rw → exec (.rclaimP c d a) s = .next (s.ringDid (put u (setField h 0x10 8 (hPCLAIM h + 1))) 0
      (fun t => t.setSc d (BitVec.ofNat 64 (hPCLAIM h))))) ∧
    (Issues (.rclaimC c d a) s → rw → exec (.rclaimC c d a) s = .next (s.ringDid (put u (setField h 0x20 8 (hCCLAIM h + 1))) 0
      (fun t => t.setSc d (BitVec.ofNat 64 (hCCLAIM h))))) ∧
    (Issues (.rwaitf c d a b) s → rd → k < hTAIL h → exec (.rwaitf c d a b) s = .next (s.ringDid acq 0 (fun t => t.setSc d 1))) ∧
    (Issues (.rwaitf c d a b) s → rd → hTAIL h ≤ k → hEND h = true → exec (.rwaitf c d a b) s =
      .next (s.ringDid acq statEMPTY (fun t => t.setSc d 0))) ∧
    (Issues (.rwaitf c d a b) s → rd → hTAIL h ≤ k → hEND h = false → exec (.rwaitf c d a b) s = .next s.waits) ∧
    (Issues (.rwaite c a b) s → rd → k < hHEAD h + hNSLOT h → exec (.rwaite c a b) s = .next (s.ringDid acq)) ∧
    (Issues (.rwaite c a b) s → rd → hHEAD h + hNSLOT h ≤ k → exec (.rwaite c a b) s = .next s.waits) ∧
    (Issues (.rpub c a b) s → rw → ∀ h', publish h k = some h' → exec (.rpub c a b) s = .next (s.ringDid (put rel h')) ∧
      hTAIL h ≤ k ∧ k < hPCLAIM h ∧ (k = hTAIL h → k < 2 ^ 64 - 64 → k < hTAIL h') ∧
      (k % 64 ≠ hTAIL h % 64 → hPUBMAP h / 2 ^ (hTAIL h % 64) % 2 = 0 → hTAIL h' = hTAIL h)) ∧
    (Issues (.rrel c a b) s → rw → ∀ h', release h k = some h' → exec (.rrel c a b) s = .next (s.ringDid (put rel h')) ∧
      hHEAD h ≤ k ∧ k < hTAIL h) ∧
    (Issues (.rpub c a b) s → rw → ¬ (hTAIL h ≤ k ∧ k < hPCLAIM h) ∨ hPUBMAP h / 2 ^ (k % 64) % 2 = 1 → exec (.rpub c a b) s =
      .next (s.ringDid rel statOOB)) ∧
    (Issues (.rrel c a b) s → rw → ¬ (hHEAD h ≤ k ∧ k < hTAIL h) ∨ hRELMAP h / 2 ^ (k % 64) % 2 = 1 → exec (.rrel c a b) s =
      .next (s.ringDid rel statOOB)) ∧
    (Issues (.wadv c a b) s → rw → hNSLOT h < k → exec (.wadv c a b) s =
      .next (s.trapped (.wadv c a b) .illegalField (s.cs.unit.word.setWidth 64))) ∧
    (Issues (.wadv c a b) s → rw → k ≤ hNSLOT h → hTAIL h < hHEAD h + k → exec (.wadv c a b) s = .next s.waits) ∧
    (Issues (.wadv c a b) s → rw → k ≤ hNSLOT h → hHEAD h + k ≤ hTAIL h → k ≠ 0 → ∃ h', exec (.wadv c a b) s = .next (s.ringDid (put rel h')) ∧
      hHEAD h' = hHEAD h + k ∧ hCCLAIM h' = max (hCCLAIM h) (hHEAD h + k) ∧ hTAIL h' = hTAIL h ∧ hBASE h' = hBASE h) ∧
    (Issues (.wadv c a b) s → rw → k = 0 → hHEAD h ≤ hTAIL h → exec (.wadv c a b) s = .next (s.ringDid u)) ∧
    (Issues (.wmapOff c a) s → rw → exec (.wmapOff c a) s = .next (s.ringDid
      { put u (setField h 0x0A 2 (if hEND h then 1 else 0)) with windows := u.windows.filter (fun w => w.ring ≠ planKey plan) })) ∧
    (Issues (.wmap c n a b) s → descOk (s.cs.dr n.toNat) = false → exec (.wmap c n a b) s =
      .next (s.trapped (.wmap c n a b) .illegalField (n.setWidth 64))) ∧
    (Issues (.wmap c n a b) s → descOk (s.cs.dr n.toNat) = true → rw →
      (∀ w ∈ u.windows, w.ring ≠ planKey plan) → isTile (planKey plan) = true → hSLOTSZ h % imageSize (s.cs.dr n.toNat) = 0 →
      (u.windows.filter (fun w => w.tile == keyTile (planKey plan))).length < 16 →
      ∃ h' w, exec (.wmap c n a b) s = .next (s.ringDid { put u h' with nextId := u.nextId + 1, windows := u.windows ++ [w] }) ∧
        hBOUND h' = true ∧ hEND h' = decide (chunkTotal (s.cs.dr n.toNat) ≤ w.next) ∧ hHEAD h' = 0 ∧ hTAIL h' = 0 ∧ hNSLOT h' = hNSLOT h ∧ w.ring = planKey plan ∧ w.desc = s.cs.dr n.toNat ∧
        w.next = (if b = 0 then 0 else k)) ∧
    (Issues (.rclaimP c d a) s → s.cs.arec.length < 64 → recordHolds s.cs c [⟨0, va, 64⟩] = false → va.toNat % 64 ≠ 0 →
      exec (.rclaimP c d a) s = .next (s.trapped (.rclaimP c d a) .misaligned va)) ∧
    (Issues (.rclaimP c d a) s → s.cs.arec.length < 64 → recordHolds s.cs c [⟨0, va, 64⟩] = false → headerAt s.begun s.acc va .rw = .ok u plan h → u.windows = [] →
      ringOk h = false → exec (.rclaimP c d a) s = .next (s.trapped (.rclaimP c d a) .illegalField va)) ∧
    (Issues (.rclaimP c d a) s → s.cs.arec.length < 64 → recordHolds s.cs c [⟨0, va, 64⟩] = false → ∀ o, headerAt s.begun s.acc va .rw = .stop (.held o) →
      ∃ t, exec (.rclaimP c d a) s = .next t ∧ t.mem = s.mem ∧ t.cs.s = s.cs.s ∧ t.cs.arec.length = s.cs.arec.length + 1)

/-- An atomic on aligned, reached memory of this device, through the row view, completes in one step, its lines written back from and
dropped by every L1: sD takes the old value, zero-extended, and memory the new one (swap, sum, and, or, signed and unsigned
minimum and maximum at the width; the six float operations; for cas the new value where the old equals the expected, else no
write). A misaligned one traps MISALIGNED. fence.cls, fence and fence.view are done once no entry of the record that they order is
left and wait before (log 39); a fence of die scope or wider writes back, and as acquire invalidates, the L1 lines of the core,
fence.view those of views. fld and fst to the device's own DEVID access the places its fabric MMU gives, coherent with the L1s of
the die. fld, fst, famo and fcas to another device of the domain leave one record entry and one packet or more, or wait while
their stream has 8,192 unanswered; to a device that cannot be reached they leave a FAULTED entry whose trap is FABRIC_ERROR with
the address. (R172, R173, R174, R175, R176, R177, R178, R309, R382) -/
def Obligations.AtomicsFencesAndFabricWordsComplete : Prop :=
  ∀ (s : State) (p : BitVec 4) (t : BitVec 1) (c k : BitVec 4) (d a b i : BitVec 6) (u : State) (plan : List (Nat × Loc)),
    let va := s.cs.sc a
    let o := s.cs.unit.ordOf 0
    let amo := fun (w : Instr) (n : Nat) (dest : Strand → Nat → Strand) (new : Nat → Option Nat) =>
      let es : List Elem := [⟨0, va, n⟩]
      let r := u.touchRows (plan.map (·.2.key))
      let v := flushL1 (if o.isRelease then releaseL1 r s.cs.l1No o.scope else r) false (·.meets (plan.map (·.2.key)))
      let old := (planNat v.mem plan)
      (Issues w s → va.toNat % n ≠ 0 → exec w s = .next (s.trapped w .misaligned va)) ∧
      (Issues w s → va.toNat % n = 0 → RecordFree s o.cls es → Reach s.begun .rw es u plan →
        (∀ q ∈ plan, q.2.otherView = false) → hostOf plan = none → exec w s = .next (s.loaded (match new old with
          | some x => { v with mem := writePlan v.mem [BitVec.ofNat 4096 x] plan }
          | none => v) o (fun t => dest t old)))
    let sInt := fun (x w : Nat) => (BitVec.ofNat w x).toInt
    let intOp := fun (w : Nat) (m y : Nat) =>
      if p.toNat % 8 = 0 then y else if p.toNat % 8 = 1 then (m + y) % 2 ^ w else if p.toNat % 8 = 2 then m &&& y
      else if p.toNat % 8 = 3 then m ||| y else if p.toNat % 8 = 4 then (if sInt m w ≤ sInt y w then m else y)
      else if p.toNat % 8 = 5 then (if sInt m w ≤ sInt y w then y else m) else if p.toNat % 8 = 6 then min m y else max m y
    let one := fun (t : Strand) (x : Nat) => t.setSc d (BitVec.ofNat 64 x)
    let fabric := fun (w : Instr) (n : Nat) (at' : Dword) (ord : AccOrd) =>
      (Issues w s → at'.toNat % 8 ≠ 0 → exec w s = .next (s.trapped w .misaligned at')) ∧
      (Issues w s → at'.toNat % 8 = 0 → RecordFree s ord.cls [⟨0, at', 8⟩] → mayReach s (fabDev at') = false → fabDev at' ≠ s.devNum →
        ∃ x e, exec w s = .next x ∧ x.mem = s.mem ∧ x.cs.s = s.cs.s ∧ x.pending = s.pending ∧ x.cs.arec = s.cs.arec ++ [e] ∧
          e.state = .faulted ∧ e.fail = some (.fabricError, at')) ∧
      (Issues w s → at'.toNat % 8 = 0 → RecordFree s ord.cls [⟨0, at', 8⟩] → mayReach s (fabDev at') = true → fabDev at' ≠ s.devNum →
        l1Waits s (fun _ => true) = none →
        (streamFull s s.cs.die ord.cls [(0, at', 8)] = true → exec w s = .next s.waits) ∧
        (streamFull s s.cs.die ord.cls [(0, at', 8)] = false →
        ∃ x, exec w s = .next x ∧ (ord.isRelease = false → x.mem = s.mem) ∧ x.cs.s = s.cs.s ∧ x.cs.arec.length = s.cs.arec.length + 1 ∧
          x.pending.length = s.pending.length + n))
    amo (.amoW p d a b) 4 one (fun m => some (intOp 32 m ((s.cs.sc b).toNat % 2 ^ 32))) ∧
    amo (.amoD p d a b) 8 one (fun m => some (intOp 64 m (s.cs.sc b).toNat)) ∧
    amo (.amoF p d a b) (if p.toNat % 8 ≤ 2 then 4 else 8) one (fun m => some (
      let y := (s.cs.sc b).toNat % 2 ^ (if p.toNat % 8 ≤ 2 then 32 else 64)
      if p.toNat % 8 = 0 then (fAdd fmtF32 0 m y).1 else if p.toNat % 8 = 1 then (fMinMax fmtF32 false m y).1
      else if p.toNat % 8 = 2 then (fMinMax fmtF32 true m y).1 else if p.toNat % 8 = 3 then (fAdd fmtF64 0 m y).1
      else if p.toNat % 8 = 4 then (fMinMax fmtF64 false m y).1 else (fMinMax fmtF64 true m y).1)) ∧
    amo (.casW t d a b) 4 one (fun m => if m = (s.cs.sc d).toNat % 2 ^ 32 then some ((s.cs.sc b).toNat % 2 ^ 32) else none) ∧
    amo (.casD t d a b) 8 one (fun m => if m = (s.cs.sc d).toNat then some (s.cs.sc b).toNat else none) ∧
    amo (.casQ t d a b) 16 (fun t x => (t.setSc d (BitVec.ofNat 64 x)).setSc (d + 1) (BitVec.ofNat 64 (x / 2 ^ 64)))
      (fun m => if m = (s.cs.sc d).toNat + 2 ^ 64 * (s.cs.sc (d + 1)).toNat
        then some ((s.cs.sc b).toNat + 2 ^ 64 * (s.cs.sc (b + 1)).toNat) else none) ∧
    (let lines := if o.order.getLsbD 0 then acquireL1 s.begun s.cs.l1No o.scope
        else if o.order.getLsbD 1 then releaseL1 s.begun s.cs.l1No o.scope else s.begun
     (Issues (.fenceCls c k) s → (c = k ∨ ∀ e ∈ s.cs.earlier, e.req.ord.cls ≠ c ∧ e.req.ord.cls ≠ k) →
      exec (.fenceCls c k) s = .next s.passed) ∧
     (Issues (.fenceCls c k) s → c ≠ k → (∃ e ∈ s.cs.earlier, e.req.ord.cls = c ∨ e.req.ord.cls = k) →
      exec (.fenceCls c k) s = .next s.waits) ∧
     (Issues .fence s → s.cs.earlier = [] → l1Waits s (fun _ => true) = none → exec .fence s = .next (s.completes lines)) ∧
     (Issues .fence s → s.cs.earlier ≠ [] → o.order = 2 → exec .fence s = .next s.waits) ∧
     (Issues .fenceView s → s.cs.earlier = [] → l1Waits s (fun _ => true) = none → exec .fenceView s =
      .next (s.completes (flushL1 lines false (fun l => l.view && l.core == s.cs.l1No)))) ∧
     (Issues .fenceView s → (∃ e ∈ s.cs.earlier, e.req.write = true) → exec .fenceView s = .next s.waits)) ∧
    (let at' := s.cs.sc a + BitVec.ofInt 64 (s.cs.unit.immS i * 8)
     let own := fun (w : Instr) (k : AKind) (f : State → State) (g : State → Strand → Strand) =>
       let ord := s.cs.unit.ordOf c
       let at0 := (List.range 8).map (fun j => (j, Loc.fab (at' + BitVec.ofNat 64 j)))
       let r := s.begun.touchRows (plan.map (·.2.key))
       let v := flushL1 (if ord.isRelease then releaseL1 r s.cs.l1No ord.scope else r) (k == .read)
         (fun l => l.core / 128 == s.cs.die.toNat && l.meets (plan.map (·.2.key)))
       Issues w s → at'.toNat % 8 = 0 → RecordFree s ord.cls [⟨0, at', 8⟩] → fabDev at' = s.devNum → s.assigned = true →
         resolveFab s.begun (fld s.cs.ctx 16 6) k at0 = .ok plan → l1Waits s (fun _ => true) = none →
         (∀ p ∈ plan, p.2.isFab = false ∧ s.bad p.2.key = false ∧ devWait s (k == .write) p.2.key = none) →
         exec w s = .next (s.loaded (f v) ord (g v))
     own (.fld c d a i) .read id (fun v t => t.setSc d (((readHere v s.acc [0] plan).headD 0).setWidth 64)) ∧
     own (.fst c d a i) .write (fun v => writeHere v s.acc [(s.cs.sc d).setWidth 4096] plan) (fun _ => id) ∧
     fabric (.fld c d a i) 1 at' (s.cs.unit.ordOf c) ∧ fabric (.fst c d a i) 1 at' (s.cs.unit.ordOf c)) ∧
    fabric (.famo p d a b) 1 va o ∧ fabric (.fcas t d a b) 1 va o

/-- An integer word of the vector engine that issues, with no early read in the way, completes: element j of D holds the result of its
row modulo 2^w where j is active, and the old element or 0 under merge or zeroing elsewhere; queue sources pop and a queue
destination takes an entry whose mask is the active elements. Signed codes are the even ones. Shifts by w or more give 0 or all
sign bits. Nothing else of the machine changes, flags and memory included, but the issue clock and the list of pending writes.
(R183, R184, R181) -/
def Obligations.VectorIntegerWordsComplete : Prop :=
  ∀ (s : State) (y : BitVec 3) (d a b i : BitVec 6) (f : BitVec 1),
    let w := wInt y
    let n := nInt y
    let ab : List (Nat × BitVec 6) := [(18, a), (17, b)]
    let x := fun j => elemAt ((s.srcs ab).headD 0) w j
    let z := fun j => elemAt ((s.srcs ab)[1]?.getD 0) w j
    let u := fun j => elemAt ((s.srcs [(18, a)]).headD 0) w j
    let q := fun j => elemAt (dReg s.cs s.cs d) w j
    let val : Nat → Int := fun e => if y.toNat % 2 = 0 ∧ 2 ^ (w - 1) ≤ e then (e : Int) - 2 ^ w else e
    let two := fun (i : Instr) (g : Nat → Nat) => Issues i s → Settled i false s → Lanes i s ab d w n (fun j => (g j, 0))
    let one := fun (i : Instr) (g : Nat → Nat) => Issues i s → Settled i false s → Lanes i s [(18, a)] d w n (fun j => (g j, 0))
    two (.vadd y d a b f) (fun j => x j + z j) ∧
    two (.vsub y d a b f) (fun j => x j + 2 ^ w - z j) ∧
    two (.vmul y d a b f) (fun j => x j * z j) ∧
    two (.vmulh y d a b f) (fun j => ((val (x j) * val (z j) / 2 ^ w) % 2 ^ w).toNat) ∧
    two (.vmad y d a b f) (fun j => x j * z j + q j) ∧
    one (.vabs y d a f) (fun j => (val (u j)).natAbs) ∧
    one (.vneg y d a f) (fun j => 2 ^ w - u j) ∧
    two (.vmin y d a b f) (fun j => if val (x j) ≤ val (z j) then x j else z j) ∧
    two (.vmax y d a b f) (fun j => if val (x j) ≤ val (z j) then z j else x j) ∧
    two (.vand y d a b f) (fun j => x j &&& z j) ∧
    two (.vor y d a b f) (fun j => x j ||| z j) ∧
    two (.vxor y d a b f) (fun j => x j ^^^ z j) ∧
    one (.vnot y d a f) (fun j => 2 ^ w - 1 - u j) ∧
    two (.vshl y d a b f) (fun j => if w ≤ z j then 0 else x j * 2 ^ z j) ∧
    two (.vshr y d a b f) (fun j => ((val (x j) / 2 ^ min (z j) w) % 2 ^ w).toNat) ∧
    one (.vpopc y d a f) (fun j => (List.range w).countP (fun k => (u j).testBit k)) ∧
    one (.vclz y d a f) (fun j => if u j = 0 then w else w - 1 - (u j).log2) ∧
    one (.vaddi y d a i f) (fun j => (((u j : Int) + s.cs.unit.immS i) % 2 ^ w).toNat) ∧
    one (.vshli y d a i f) (fun j => u j * 2 ^ s.cs.unit.immN i) ∧
    one (.vshri y d a i f) (fun j => ((val (u j) / 2 ^ s.cs.unit.immN i) % 2 ^ w).toNat)

/-- The bit-field and funnel words take offset and width from bits 4:0 and 10:5 of the element of B (3:0 and 8:4 at 16 bits), the
width cut at the top of the element, or a shift amount modulo w over D:A. vmov, vbcast, vperm, vshuf, vrot, vidx and vlut put into
each active element the element, the scalar or the index that their row names. vsel takes B where inactive and pushes an entry
with every element below n in its mask; vext writes element 0 and zeros, and its entry has mask bit 0; vins replaces one element
of D. Nothing else changes but the issue clock and the pending writes. (R185, R190, R181) -/
def Obligations.VectorFieldAndMoveWordsComplete : Prop :=
  ∀ (s : State) (y : BitVec 3) (d a b : BitVec 6) (f : BitVec 1),
    let w := wInt y
    let n := nInt y
    let ab : List (Nat × BitVec 6) := [(18, a), (17, b)]
    let va := (s.srcs ab).headD 0
    let x := fun j => elemAt va w j
    let z := fun j => elemAt ((s.srcs ab)[1]?.getD 0) w j
    let u := fun j => elemAt ((s.srcs [(18, a)]).headD 0) w j
    let q := fun j => elemAt (dReg s.cs s.cs d) w j
    let sa := (s.cs.sc a).toNat
    let sb := (s.cs.sc b).toNat
    let lw := if w = 32 then 5 else 4
    let o := fun j => z j % 2 ^ lw
    let k := fun j => min (z j / 2 ^ lw % 2 ^ (lw + 1)) (w - o j)
    let run := fun (i : Instr) (fs : List (Nat × BitVec 6)) (g : Nat → Nat) =>
      Issues i s → Settled i false s → Lanes i s fs d w n (fun j => (g j, 0))
    run (.vbfx y d a b f) ab (fun j =>
      let r := x j / 2 ^ o j % 2 ^ k j
      if y.toNat % 2 = 0 ∧ 0 < k j ∧ 2 ^ (k j - 1) ≤ r then 2 ^ w - 2 ^ k j + r else r) ∧
    run (.vbfi y d a b f) ab (fun j =>
      q j / 2 ^ (o j + k j) * 2 ^ (o j + k j) + x j % 2 ^ k j * 2 ^ o j + q j % 2 ^ o j) ∧
    run (.vfshl y d a b f) ab (fun j => (q j * 2 ^ w + x j) * 2 ^ (z j % w) / 2 ^ w) ∧
    run (.vfshr y d a b f) ab (fun j => (q j * 2 ^ w + x j) / 2 ^ (z j % w)) ∧
    run (.vmov y d a f) [(18, a)] u ∧
    run (.vbcast y d a f) [] (fun _ => sa) ∧
    run (.vperm y d a b f) ab (fun j => x (z j % n)) ∧
    run (.vshuf y d a b f) ab (fun j => if q j % (2 * n) < n then x (q j % (2 * n)) else z (q j % (2 * n) - n)) ∧
    run (.vrot y d a b f) [(18, a)] (fun j => u ((j + sb) % n)) ∧
    run (.vidx y d a f) [] (fun j => sa + j) ∧
    run (.vlut y d a b f) ab (fun j => z (elemAt va 4 j)) ∧
    (Issues (.vsel y d a b f) s → Settled (.vsel y d a b f) false s → ∃ v : Vec,
      VecDone (.vsel y d a b f) s ab (fun t => putWhole t 19 d v (BitVec.ofNat 1024 (2 ^ n - 1))) ∧
      ∀ j < n, elemAt v w j = if s.active j then x j else z j) ∧
    (Issues (.vext y d a b f) s → Settled (.vext y d a b f) false s →
      VecDone (.vext y d a b f) s [(18, a)] (fun t => putWhole t 19 d (BitVec.ofNat 4096 (u (sb % n))) 1)) ∧
    (Issues (.vins y d a b f) s → Settled (.vins y d a b f) false s → ∃ (v : Vec) (m : Mask),
      VecDone (.vins y d a b f) s [(18, a)] (fun t => putWhole t 19 d v m) ∧
      ∀ j < n, elemAt v w j = if j = sb % n then u 0 else q j)

/-- vfadd, vfsub, vfmul, vfma, vfmin and vfmax complete with the scalar operation of the format of TY on each active element, in the
mode of RNDM with 5 taken as RNE; vfabs and vfneg clear or invert the sign bit alone and raise no flag. vcvt converts the first N
= min(ns, 4 nd) elements of A in the mode of RNDM, mode 5 with row 0 and column i, into k = max(1, N / nd) registers from D on
(modulo 256) or as many entries: element i goes to slot i div k of register D + (i mod k), slots past the last are 0, inactive
ones merge or are zeroed. The flags of the active elements are raised and nothing else changes but the issue clock and the pending
writes. (R186, R193, R181) -/
def Obligations.VectorFloatWordsComplete : Prop :=
  ∀ (s : State) (y : BitVec 3) (d a b : BitVec 6) (f sat qc rc : BitVec 1) (ty : BitVec 3),
    let fm := fmtOfCode y.toNat
    let w := wFloat y
    let n := nFloat y
    let md := if s.cs.rndm = 5 then 0 else s.cs.rndm.toNat
    let ab : List (Nat × BitVec 6) := [(18, a), (17, b)]
    let x := fun j => elemAt ((s.srcs ab).headD 0) w j
    let z := fun j => elemAt ((s.srcs ab)[1]?.getD 0) w j
    let u := fun j => elemAt ((s.srcs [(18, a)]).headD 0) w j
    let q := fun j => elemAt (dReg s.cs s.cs d) w j
    let run := fun (i : Instr) (fs : List (Nat × BitVec 6)) (g : Nat → Nat × Flags) =>
      Issues i s → Settled i false s → Lanes i s fs d w n g
    run (.vfadd y d a b f) ab (fun j => fAdd fm md (x j) (z j)) ∧
    run (.vfsub y d a b f) ab (fun j => fSub fm md (x j) (z j)) ∧
    run (.vfmul y d a b f) ab (fun j => fMul fm md (x j) (z j)) ∧
    run (.vfma y d a b f) ab (fun j => fFma fm md (x j) (z j) (q j)) ∧
    run (.vfmin y d a b f) ab (fun j => fMinMax fm false (x j) (z j)) ∧
    run (.vfmax y d a b f) ab (fun j => fMinMax fm true (x j) (z j)) ∧
    run (.vfabs y d a f) [(18, a)] (fun j => (u j % 2 ^ (w - 1), 0)) ∧
    run (.vfneg y d a f) [(18, a)] (fun j => ((u j + 2 ^ (w - 1)) % 2 ^ w, 0)) ∧
    (let i := Instr.vcvt y d a sat qc rc ty f
     let nd := nOf qc y
     let m := min (nOf rc ty) (4 * nd)
     let k := max 1 (m / nd)
     let wd := wOf qc y
     let res := fun j => convert y qc rc sat ty s.cs.rndm.toNat (elemAt ((s.srcs [(18, a)]).headD 0) (wOf rc ty) j)
       (if s.cs.rndm = 5 then s.cs.mixAt 0 (BitVec.ofNat 32 j) else 0)
     Issues i s → Settled i false s → ∃ v : Nat → Vec,
      VecDone i s [(18, a)] (fun t => (List.range k).foldl (fun t j =>
        match s.cs.vname s.cs.unit 19 d with
        | .reg g => t.setVr ((g + j) % 256) (v j)
        | .queue g => t.pushq g { data := v j, mask := maskWhere nd (fun p => decide (p * k + j < m) && s.active (p * k + j)) })
        (t.raise (s.laneFlags m res))) ∧
      ∀ j < k, ∀ p < nd, elemAt (v j) wd p =
        if m ≤ p * k + j then 0
        else if s.active (p * k + j) then (res (p * k + j)).1 % 2 ^ wd
        else match s.cs.vname s.cs.unit 19 d with
          | .reg g => if s.zeroing then 0 else elemAt (s.cs.vr ((g + j) % 256)) wd p
          | .queue _ => 0)

/-- The compares write to mask D the condition of each active element (signed for even type codes; float conditions as R125, with
their flags), the old bit or 0 where inactive, and 0 from bit n on. mand, mor, mxor and mnot write the bits that EXT.MASK selects
of 1,024. mpopc and mfirst write the number of one bits, or the index of the lowest one bit and 1,024 if none, to element 0 of D
with zeros above, and push an entry with mask bit 0. mset.lt and mset.ge compare each bit index with a scalar; mset.q pops an
entry and copies its element mask. Nothing else changes but the issue clock and the pending writes. (R187, R188, R189) -/
def Obligations.CompareAndMaskWordsComplete : Prop :=
  ∀ (s : State) (y : BitVec 3) (d ma mb : BitVec 4) (a b x' : BitVec 6) (f : BitVec 1),
    let ab : List (Nat × BitVec 6) := [(18, a), (17, b)]
    let x := fun w j => elemAt ((s.srcs ab).headD 0) w j
    let z := fun w j => elemAt ((s.srcs ab)[1]?.getD 0) w j
    let val : Nat → Int := fun e => if y.toNat % 2 = 0 ∧ 2 ^ (wInt y - 1) ≤ e then (e : Int) - 2 ^ wInt y else e
    let int := fun (i : Instr) (c : Int → Int → Bool) => Issues i s → Settled i false s →
      MaskLanes i s ab d (nInt y) (fun j => (c (val (x (wInt y) j)) (val (z (wInt y) j)), 0))
    let flt := fun (i : Instr) (c : Nat) => Issues i s → Settled i false s →
      MaskLanes i s ab d (nFloat y) (fun j => fCmp (fmtOfCode y.toNat) c (x (wFloat y) j) (z (wFloat y) j))
    let bits := fun (i : Instr) (c : Bool → Bool → Bool) => Issues i s → Settled i false s →
      MaskLanes i s [] d 1024 (fun j => (c ((s.cs.mr ma.toNat).getLsbD j) ((s.cs.mr mb.toNat).getLsbD j), 0))
    int (.vcmpEq y d a b f) (fun p q => decide (p = q)) ∧
    int (.vcmpNe y d a b f) (fun p q => decide (p ≠ q)) ∧
    int (.vcmpLt y d a b f) (fun p q => decide (p < q)) ∧
    int (.vcmpGe y d a b f) (fun p q => decide (q ≤ p)) ∧
    flt (.vfcmpEq y d a b f) 0 ∧ flt (.vfcmpLt y d a b f) 1 ∧ flt (.vfcmpLe y d a b f) 2 ∧ flt (.vfcmpUn y d a b f) 3 ∧
    bits (.mand d ma mb f) (fun p q => p && q) ∧ bits (.mor d ma mb f) (fun p q => p || q) ∧
    bits (.mxor d ma mb f) (fun p q => p != q) ∧ bits (.mnot d ma f) (fun p _ => !p) ∧
    (Issues (.mpopc x' ma f) s → Settled (.mpopc x' ma f) false s →
      VecDone (.mpopc x' ma f) s [] (fun t => putWhole t 19 x'
        (BitVec.ofNat 4096 ((List.range 1024).countP (fun k => (s.cs.mr ma.toNat).getLsbD k))) 1)) ∧
    (Issues (.mfirst x' ma f) s → Settled (.mfirst x' ma f) false s → ∃ r : Nat,
      VecDone (.mfirst x' ma f) s [] (fun t => putWhole t 19 x' (BitVec.ofNat 4096 r) 1) ∧ r ≤ 1024 ∧
      (∀ j < r, (s.cs.mr ma.toNat).getLsbD j = false) ∧ (r < 1024 → (s.cs.mr ma.toNat).getLsbD r = true)) ∧
    (Issues (.msetLt d a f) s → Settled (.msetLt d a f) false s → ∃ m : Mask,
      VecDone (.msetLt d a f) s [] (fun t => t.setMr d.toNat m) ∧ ∀ j < 1024, m.getLsbD j = decide (j < (s.cs.sc a).toNat)) ∧
    (Issues (.msetGe d a f) s → Settled (.msetGe d a f) false s → ∃ m : Mask,
      VecDone (.msetGe d a f) s [] (fun t => t.setMr d.toNat m) ∧ ∀ j < 1024, m.getLsbD j = decide ((s.cs.sc a).toNat ≤ j)) ∧
    (Issues (.msetQ d a f) s → Settled (.msetQ d a f) false s → ∀ q e l,
      s.cs.vname s.cs.unit 18 a = .queue q → s.cs.dataq q = e :: l →
      VecDone (.msetQ d a f) s [(18, a)] (fun t => t.setMr d.toNat e.mask))

/-- vred.add gives the sum of the active elements modulo 2^w; vred.max and vred.min give an active element that no active element
exceeds or undercuts, and the smallest or largest value of the type when none is active. The float reductions widen the active
elements exactly to FP32 (a signalling NaN quieted, with NV) and combine them by the fixed pairwise tree; with none active they
give +0, -infinity or +infinity. The result is element 0 of D with zeros above, an entry has mask bit 0. vscan.add gives each
active element the running sum: of integers modulo 2^w; of floats beginning with the first active element (quieted) and rounding
every later sum. (R191, R192, R73, R74) -/
def Obligations.ReductionAndScanWordsComplete : Prop :=
  ∀ (s : State) (y : BitVec 3) (d a : BitVec 6) (f : BitVec 1),
    let fs : List (Nat × BitVec 6) := [(18, a)]
    let x := fun w j => elemAt ((s.srcs fs).headD 0) w j
    let w := wInt y
    let n := nInt y
    let md := if s.cs.rndm = 5 then 0 else s.cs.rndm.toNat
    let fm := fmtOfCode y.toNat
    let val : Nat → Int := fun e => if y.toNat % 2 = 0 ∧ 2 ^ (w - 1) ≤ e then (e : Int) - 2 ^ w else e
    let low := if y.toNat % 2 = 0 then 2 ^ (w - 1) else 0
    let high := if y.toNat % 2 = 0 then 2 ^ (w - 1) - 1 else 2 ^ w - 1
    let act := (List.range n).filter s.active
    let put := fun (i : Instr) (fl : Flags) (r : Nat) => VecDone i s fs (fun t => putWhole (t.raise fl) 19 d (BitVec.ofNat 4096 r) 1)
    let flt := fun (i : Instr) (g : Nat → Nat → Nat × Flags) (e : Nat) =>
      let l := (List.range 256).map (fun j => if j < nFloat y ∧ s.active j = true then some (widenF32 fm (x (wFloat y) j)) else none)
      let r := tree g 8 (l.map (Option.map (·.1)))
      let fl := s.laneFlags (nFloat y) (fun j => widenF32 fm (x (wFloat y) j))
      Issues i s → Settled i false s → put i (fl ||| r.2) (r.1.getD e) ∧ ((∀ j < nFloat y, s.active j = false) → put i 0 e)
    (Issues (.vredAdd y d a f) s → Settled (.vredAdd y d a f) false s →
      put (.vredAdd y d a f) 0 ((act.map (x w)).sum % 2 ^ w)) ∧
    (Issues (.vredMax y d a f) s → Settled (.vredMax y d a f) false s → ∃ r, put (.vredMax y d a f) 0 r ∧
      (act = [] → r = low) ∧ (act ≠ [] → (∃ j ∈ act, r = x w j) ∧ ∀ j ∈ act, val (x w j) ≤ val r)) ∧
    (Issues (.vredMin y d a f) s → Settled (.vredMin y d a f) false s → ∃ r, put (.vredMin y d a f) 0 r ∧
      (act = [] → r = high) ∧ (act ≠ [] → (∃ j ∈ act, r = x w j) ∧ ∀ j ∈ act, val r ≤ val (x w j))) ∧
    flt (.vfredAdd y d a f) (fAdd fmtF32 md) 0 ∧
    flt (.vfredMax y d a f) (fMinMax fmtF32 true) 0xFF800000 ∧
    flt (.vfredMin y d a f) (fMinMax fmtF32 false) 0x7F800000 ∧
    (Issues (.vscanAdd y d a 0 f) s → Settled (.vscanAdd y d a 0 f) false s →
      Lanes (.vscanAdd y d a 0 f) s fs d w n (fun j => ((((List.range (j + 1)).filter s.active).map (x w)).sum % 2 ^ w, 0))) ∧
    (Issues (.vscanAdd y d a 1 f) s → Settled (.vscanAdd y d a 1 f) false s → ∃ r : Nat → Nat × Flags,
      Lanes (.vscanAdd y d a 1 f) s fs d (wFloat y) (nFloat y) r ∧
      ∀ j < nFloat y, s.active j = true →
        ((∀ i < j, s.active i = false) → r j = (firstNan fm [x (wFloat y) j]).getD (x (wFloat y) j, 0)) ∧
        ∀ i < j, s.active i = true → (∀ k, i < k → k < j → s.active k = false) → r j = fAdd fm md (r i).1 (x (wFloat y) j))

/-- vquant writes the codes of 128 sums from byte 0 of D, the four block scales from byte 480 and then the residuals to B; a block
with a NaN or infinite active sum has the NaN scale, codes +0 and residuals 0x7FC0_0000, a block whose active A and B are all zero
has the zero scale, codes +0 and zero residuals (their sign: log 64). vdequant multiplies by the scale of the block and rounds
once. vsmx.upd forms the new maximum, the rescale factor and the sum as R196 lists them, under RNE whatever RNDM holds, as
vsmx.fin divides (log 17), and gives the probabilities to B, +0 where inactive. vsmx.fin divides by l, or writes +0 and sets
STAT.EMPTY when l is a zero. vrbias adds the bias of the bucket of each distance. (R194, R195, R196, R197, R199) -/
def Obligations.QuantisationAndAttentionWordsComplete : Prop :=
  ∀ (s : State) (y : BitVec 3) (d a b : BitVec 6) (f : BitVec 1),
    let ab : List (Nat × BitVec 6) := [(18, a), (17, b)]
    let va := (s.srcs ab).headD 0
    let vb := (s.srcs ab)[1]?.getD 0
    let v1 := (s.srcs [(18, a)]).headD 0
    let fm := fmtOfCode y.toNat
    let q := fun j => elemAt (dReg s.cs s.cs d) 32 j
    (Issues (.vquant y d a b f) s → Settled (.vquant y d a b f) false s →
      let blk := fun k => quantBlock fm s.cs.rndm.toNat (fun i => if s.cs.rndm = 5 then s.cs.mixAt 0 (BitVec.ofNat 32 i) else 0) k
        ((List.range 32).map (fun j => if s.active (32 * k + j) then some (elemAt va 32 (32 * k + j), elemAt vb 32 (32 * k + j)) else none))
      let bad := fun j => s.active j = true ∧ ((decodeF fmtF32 (elemAt va 32 j)).isNan ∨ (decodeF fmtF32 (elemAt va 32 j)).isInf ∨
        (decodeF fmtF32 (elemAt vb 32 j)).isNan ∨ (decodeF fmtF32 (elemAt vb 32 j)).isInf)
      ∃ (dv bv : Vec) (fl : Flags) (g : Nat), s.cs.vname s.cs.unit 17 b = .reg g ∧
        VecDone (.vquant y d a b f) s ab (fun t => (putWhole (t.raise fl) 19 d dv (maskWhere 128 s.active)).setVr g bv) ∧
        (∀ k < 4, elemAt dv 24 (160 + k) = (blk k).1 % 2 ^ 24) ∧
        (∀ k < 4, ∀ j < 32, ∀ r, (blk k).2[j]? = some (some r) →
          elemAt dv fm.width (32 * k + j) = r.q % 2 ^ fm.width ∧ elemAt bv 32 (32 * k + j) = r.r % 2 ^ 32) ∧
        (∀ j < 128, s.active j = false →
          elemAt dv fm.width j = 0 ∧ elemAt bv 32 j = if s.zeroing then 0 else
            elemAt (if s.cs.vname s.cs.unit 19 d = .reg g then dv else s.cs.vr g) 32 j) ∧
        (∀ k < 4, (∀ j < 32, s.active (32 * k + j) = true → elemAt va 32 (32 * k + j) % 2 ^ 31 = 0 ∧ elemAt vb 32 (32 * k + j) % 2 ^ 31 = 0) →
          elemAt dv 24 (160 + k) = 0 ∧ ∀ j < 32, s.active (32 * k + j) = true →
            elemAt dv fm.width (32 * k + j) = 0 ∧ elemAt bv 32 (32 * k + j) % 2 ^ 31 = 0) ∧
        ∀ k < 4, (∃ j < 32, bad (32 * k + j)) → elemAt dv 24 (160 + k) = 255 * 2 ^ 16 ∧
          ∀ j < 32, elemAt dv fm.width (32 * k + j) = 0 ∧ (s.active (32 * k + j) = true → elemAt bv 32 (32 * k + j) = 0x7FC00000)) ∧
    (Issues (.vdequant y d a f) s → Settled (.vdequant y d a f) false s →
      Lanes (.vdequant y d a f) s [(18, a)] d 32 128 (fun j => dequant fm 0 (sc24 (elemAt v1 24 (160 + j / 32))) (elemAt v1 fm.width j))) ∧
    (Issues (.vsmxUpd d a b f) s → Settled (.vsmxUpd d a b f) false s →
      let sc := (List.range 128).map (fun j => if s.active j then some (elemAt v1 32 j) else none)
      let mn := (fMinMax fmtF32 true (q 0) ((tree (fMinMax fmtF32 true) 7 sc).1.getD 0xFF800000)).1
      let al := if mn = 0xFF800000 then 0x3F800000 else (exp2Of (fSub fmtF32 0 (q 0) mn).1).1
      let p := fun x => (exp2Of (fSub fmtF32 0 x mn).1).1
      let ps := (tree (fAdd fmtF32 0) 7 (sc.map (Option.map p))).1.getD 0
      ∃ fl, VecDone (.vsmxUpd d a b f) s [(18, a)] (fun t =>
        putWhole (putWhole (t.raise fl) 19 d (packVec 32 [mn, (fFma fmtF32 0 al (q 1) ps).1, al]) 0) 17 b
          (packVec 32 (sc.map (fun x => (x.map p).getD 0))) (maskWhere 128 s.active))) ∧
    (Issues (.vsmxFin d a b f) s → Settled (.vsmxFin d a b f) false s →
      let l := elemAt vb 32 1
      (l % 2 ^ 31 = 0 → VecDone (.vsmxFin d a b f) s ab (fun t =>
        (putWhole t 19 d 0 (maskWhere 128 s.active)).setStat statEMPTY)) ∧
      (l % 2 ^ 31 ≠ 0 → Lanes (.vsmxFin d a b f) s ab d 32 128 (fun j => fDiv fmtF32 0 (elemAt va 32 j) l))) ∧
    (Issues (.vrbias d a b f) s → Settled (.vrbias d a b f) false s →
      let k := s.cs.rbtab.toNat / 16 % 4
      let p := s.cs.rbtab.toNat % 8
      let side := if s.cs.rbtab.getLsbD 8 then 16 else 32
      let dist := fun j => if 2 ^ 31 ≤ elemAt va 32 j then 2 ^ 32 - elemAt va 32 j else elemAt va 32 j
      let e := fun j => (dist j).log2
      let frac := fun j => if k ≤ e j then dist j / 2 ^ (e j - k) % 2 ^ k else dist j * 2 ^ (k - e j) % 2 ^ k
      let near := fun j => if dist j < 2 ^ p then dist j else min (side - 1) (2 ^ p + (e j - p) * 2 ^ k + frac j)
      let bk := fun j => if s.cs.rbtab.getLsbD 8 = true ∧ 2 ^ 31 ≤ elemAt va 32 j then near j + 16 else near j
      Lanes (.vrbias d a b f) s ab d 32 128 (fun j =>
        fAdd fmtF32 (if s.cs.rndm = 5 then 0 else s.cs.rndm.toNat) (q j) (elemAt vb 32 (bk j))))

/-- Let register k, a source of vadd, have one pending write that is ready only after the cycle at which the word would issue. With
SCBM 1 the word traps STALL_CHECK with its word in TVAL. With SCBM 0 it completes on the value that the register held before that
write. With SCBM 2 it issues at the cycle at which the write is ready and completes on the new value, and its queue's clock is
that cycle and the stall count. The cycle by which a word may issue later than the earliest cycle R94 allows is a free value
(assumption 10). (R94, R95) -/
def Obligations.ScoreboardModesOfEarlyReads : Prop :=
  ∀ (s : State) (y : BitVec 3) (d a b : BitVec 6) (f : BitVec 1) (k : Nat) (w : PendWrite) (kb : Nat),
    let i := Instr.vadd y d a b f
    let c := max s.cs.vclk s.cs.cyc + Config.issueDelay s.free
    let wd := wInt y
    Issues i s → s.cs.vname s.cs.unit 18 a = .reg k → s.cs.vname s.cs.unit 17 b = .reg kb → kb ≠ k →
    s.cs.pend = [w] → w.isMask = false → w.idx = k → c < w.ready → s.cs.unit.ext 4 = none →
    (s.cs.scbm = 1 → exec i s = .next (s.trapped i .stallCheck (s.cs.unit.word.setWidth 64))) ∧
    (s.cs.scbm = 0 → Lanes i s [(18, a), (17, b)] d wd (nInt y) (fun j => (elemAt w.old wd j + elemAt (s.cs.vr kb) wd j, 0))) ∧
    (s.cs.scbm = 2 → Lanes i s [(18, a), (17, b)] d wd (nInt y) (fun j => (elemAt (s.cs.vr k) wd j + elemAt (s.cs.vr kb) wd j, 0)) ∧
      ∃ t : State, exec i s = .next t ∧ t.cs.vclk = w.ready + (match s.cs.unit.ext 3 with
        | some x => fldN x 0 4
        | none => if f = 1 then 2 else 0))

/-- A transcendental word that issues, with no early read in the way, completes with the function of each active element, approximated
as log 14 says and rounded once in the mode of RNDM (5 as RNE), NaNs quieted, the others merged or zeroed. tload writes the active
elements of A into its part of table FN; tint interpolates in that table. topk.init empties the sorter with capacity min(S[A],
1024); topk.feed offers the active elements in increasing order with index S[D] + i; topk.emit lists 128 entries from 128 S[A] on,
filled up with the values R204 gives; topk.q writes count, fed, threshold and capacity, an entry with mask bits 0 to 127 (log 41).
Nothing else changes but the issue clock and the pending writes of the queue. (R200, R201, R202, R203, R204, R181) -/
def Obligations.SpecialFunctionWordsComplete : Prop :=
  ∀ (s : State) (y : BitVec 3) (d a : BitVec 6) (f k : BitVec 3),
    let fm := fmtOfCode y.toNat
    let w := wFloat y
    let n := nFloat y
    let md := if s.cs.rndm = 5 then 0 else s.cs.rndm.toNat
    let src := (s.srcs [(18, a)]).headD 0
    let ready := fun (i : Instr) => Issues i s ∧ Settled i true s
    let fn := fun (i : Instr) (g : FVal → Nat × Flags) => ready i → LanesTo true i s [(18, a)] d w n (fun j => unaryNan fm (elemAt src w j) g)
    fn (.sfuExp2 y d a k) (fExp2 fm md) ∧ fn (.sfuLog2 y d a k) (fLog2 fm md) ∧ fn (.sfuRcp y d a k) (fRcp fm md) ∧
    fn (.sfuRsqrt y d a k) (fRsqrt fm md) ∧ fn (.sfuSin y d a k) (fSinTurn fm md false) ∧ fn (.sfuCos y d a k) (fSinTurn fm md true) ∧
    (ready (.sfuSqrt y d a k) → LanesTo true (.sfuSqrt y d a k) s [(18, a)] d w n (fun j => fSqrt fm md (elemAt src w j))) ∧
    (ready (.tint y d a f k) →
      LanesTo true (.tint y d a f k) s [(18, a)] d w n (fun j => interpolate fm md (s.cs.table f.toNat) (elemAt src w j))) ∧
    (ready (.tload d a f k) → EngineDone true (.tload d a f k) s [(18, a)] (fun t =>
      (((List.range 128).filter s.active).foldl (fun t j => t.repaired (.table f.toNat (128 * d.toNat + j))) t).setTable f.toNat
      (((List.range 128).filter s.active).foldl (fun x j => x.load d.toNat j (BitVec.ofNat 32 (elemAt src 32 j))) (s.cs.table f.toNat)))) ∧
    (ready (.topkInit y a k) → EngineDone true (.topkInit y a k) s [] (fun t =>
      { t.repaired .sorter with topk := { kc := min (s.cs.sc a).toNat 1024, ty := some y, held := [], fed := 0 } })) ∧
    (ready (.topkFeed y d a k) → ∃ x : TopK, EngineDone true (.topkFeed y d a k) s [(18, a)] (fun t => { t with topk := x }) ∧
      x.kc = s.cs.topk.kc ∧ x.ty = s.cs.topk.ty ∧ x.fed = s.cs.topk.fed + BitVec.ofNat 32 ((List.range n).countP s.active) ∧
      x = ((List.range n).filter s.active).foldl (fun x j => x.feed fm (elemAt src w j) ((s.cs.sc d).toNat + j)) s.cs.topk) ∧
    (let at' := fun j => (s.cs.topk.listing f)[128 * (s.cs.sc a).toNat + j]?
     let fill := if f = 1 then 0xFF800000 else 0xFFFFFFFF
     ready (.topkEmit d a f k) →
      (∀ r, s.cs.vname s.cs.unit 19 d = .reg r →
        LanesTo true (.topkEmit d a f k) s [] d 32 128 (fun j => ((at' j).getD fill, 0))) ∧
      ∀ q, s.cs.vname s.cs.unit 19 d = .queue q → ∃ v : Vec, EngineDone true (.topkEmit d a f k) s [] (fun t =>
        t.pushq q { data := v, mask := maskWhere 128 (fun j => s.active j && (at' j).isSome) }) ∧
        ∀ j < 128, elemAt v 32 j = if s.active j then (at' j).getD fill % 2 ^ 32 else 0) ∧
    (ready (.topkQ d k) → EngineDone true (.topkQ d k) s [] (fun t => putWhole t 19 d
      (packVec 32 [s.cs.topk.held.length, s.cs.topk.fed.toNat, s.cs.topk.threshold, s.cs.topk.kc]) (maskBelow 128)))

/-- With a share of the array, no command that uses its tile or buffer in the sequencer, and operands that R206 to R208 allow, a
multiply becomes the strand's command, with copies of its descriptors, its tile, its flags and its signals; with no row, no column
or K = 0 it completes at once, and Z then zeroes the region in the tile or its shadow (while no part of the array is damaged).
attb likewise, with three streams, and with no key it completes at once. Without a share mmt traps PROTECTION with its word (log
36); with a command in the way it waits; with a descriptor out of limits it traps ILLEGAL_FIELD with its number. (R48, R206, R207,
R208, R211, R214, R215, R216, R225) -/
def Obligations.MatrixCommandsStart : Prop :=
  ∀ (s : State) (c p : BitVec 3) (c2 w : BitVec 2) (a b n : BitVec 4) (sp r z f : BitVec 1),
    let t := s.cs
    let x := t.dr a.toNat
    let y := t.dr b.toNat
    let v := t.dr (b.toNat + 1)
    let tn := s.tileNo t c.toNat
    let wn := s.wbNo t w.toNat
    let buf := (s.array t.arrayNo).wbuf wn
    let cmd : MtxCmd := { unit := t.unit, opcode := 0, acc := c.toNat, a := x, b := y, en := n, sig := t.unit.sig, priv := t.p,
                          spec := sp == 1, rel := r == 1, z := z == 1 }
    let cmdW : MtxCmd := { unit := t.unit, opcode := 1, acc := c.toNat, a := x, wb := some w.toNat, en := n, sig := t.unit.sig, priv := t.p,
                           spec := sp == 1, z := z == 1 }
    let cmdA : MtxCmd := { unit := t.unit, opcode := 9, acc := 2 * c2.toNat, a := x, b := y, c := v, en := n, sig := t.unit.sig, priv := t.p,
                           fin := f == 1, z := z == 1 }
    let fits := fun (k m fb mb : Nat) => dROWS x ≤ 128 ∧ depthOf x % 32 = 0 ∧ depthOf x = k ∧ m ≤ 128 ∧
      pairOk (dFMT x) (dMODE x) fb mb = true ∧ p.toNat = dSPN x
    let zeroed := fun (m : Nat) (ar : ArrayState) =>
      let ar := if sp = 1 then ar.enterSpec tn else ar
      if z = 1 then ar.setView tn (sp == 1) (zeroRegion (dROWS x) m (ar.view tn (sp == 1))) else ar
    let i := Instr.mmt c a b n p sp r z
    let iW := Instr.mmtWb c a w n p sp z
    let iA := Instr.attb c2 a b n f z
    (Issues i s → s.hasShare t = false → exec i s = .next (s.trapped i .protection (t.unit.word.setWidth 64))) ∧
    (Issues i s → s.hasShare t = true → s.mtxHolds t [tn] = true → exec i s = .next s.waits) ∧
    (Issues i s → ArrayFree s [tn] → descOk x = false → exec i s = .next (s.trapped i .illegalField (BitVec.ofNat 64 a.toNat))) ∧
    (Issues i s → ArrayFree s [tn] → descOk x = true → descOk y = true → dSPN y = 0 → fits (dROWS y) (dCOLS y) (dFMT y) (dMODE y) →
      (dROWS x ≠ 0 → dCOLS y ≠ 0 → depthOf x ≠ 0 → exec i s = .next (s.begun.onCs (fun t => { t with mtx := some cmd }))) ∧
      (dROWS x = 0 ∨ dCOLS y = 0 ∨ depthOf x = 0 → (s.array t.arrayNo).bad = [] → exec i s = .next ((s.begun.onArray t (zeroed (dCOLS y))).mtxDone cmd))) ∧
    (Issues iW s → ArrayFree s [tn, 8 + wn] → descOk x = true → buf.k ≠ 0 → fits buf.k buf.n (buf.fmt.toNat % 16) buf.mode →
      (dROWS x ≠ 0 → buf.n ≠ 0 → depthOf x ≠ 0 → exec iW s = .next (s.begun.onCs (fun t => { t with mtx := some cmdW }))) ∧
      (dROWS x = 0 ∨ buf.n = 0 ∨ depthOf x = 0 → (s.array t.arrayNo).bad = [] → exec iW s = .next ((s.begun.onArray t (zeroed buf.n)).mtxDone cmdW))) ∧
    (let tA := s.tileNo t (2 * c2.toNat)
     Issues iA s → ArrayFree s [tA, tA + 1] → descOk x = true → descOk y = true → descOk v = true →
      attbFmt x = true → attbFmt y = true → attbFmt v = true → dROWS x ≤ 128 → dCOLS x % 32 = 0 → 1 ≤ dCOLS x → dCOLS x ≤ 128 →
      dROWS y = dCOLS x → dROWS v = dCOLS y → 1 ≤ dCOLS v → dCOLS v ≤ 128 →
      (dCOLS y ≠ 0 → exec iA s = .next (s.begun.onCs (fun t => { t with mtx := some cmdA }))) ∧
      (dCOLS y = 0 → exec iA s = .next (attbPut s.begun cmdA (attbStart s.begun cmdA).1 (attbStart s.begun cmdA).2)))

/-- scommit makes the shadow of a SPEC tile the tile and sdrop discards it; both leave a CLEAN tile as it is. accz zeroes the tile, or
under SPEC its shadow, entering SPEC first. accmv gives row S[A] mod 128 to D and clears it under its clear flag. accld puts the
elements of a region of memory, widened to accumulator form, into the tile; accst writes the converted accumulators to it and
raises their flags; wbload puts a stream with its record into the buffer. Each completes with its signal once its whole access
reaches memory, coherent with the L1s of its die, and nothing else changes while no part of the array is damaged; accmv and accst
of a damaged tile trap UNCORRECTABLE_DATA with all ones. (R215, R216, R217, R218, R219, R220, R221, R212) -/
def Obligations.TileWordsComplete : Prop :=
  ∀ (s : State) (c : BitVec 3) (a n : BitVec 4) (d x' : BitVec 6) (w : BitVec 2) (sp l sat : BitVec 1) (u : State)
      (plan : List (Nat × Loc)),
    let t := s.cs
    let tn := s.tileNo t c.toNat
    let wn := s.wbNo t w.toNat
    let x := t.dr a.toNat
    let enter := fun (ar : ArrayState) => if sp = 1 then ar.enterSpec tn else ar
    let clean := fun (ar : ArrayState) =>
      { ar with shadows := Sparse.set [] ar.shadows tn [], spec := ar.spec &&& ~~~(BitVec.ofNat 8 (2 ^ tn)) }
    let es := regionElems x
    let vl := s.snooped u false plan
    let vs := s.snooped u true plan
    let sound := (s.array t.arrayNo).bad = []
    let after := fun (v : State) => v.onCs (fun t => { ({ t with mreq := none } : Strand).clearAnswered with mdesc := none })
    let sp' := spaceOf t s.csTeam
    let region := descOk x = true ∧ dMODE x = 0 ∧ dSPN x = 0 ∧ dROWS x ≤ 128 ∧ dCOLS x ≤ 128 ∧ t.mreq = none ∧ t.mdesc = none
    (Issues (.scommit c n) s → ArrayFree s [tn] → sound → exec (.scommit c n) s = .next (s.arrayDid s.begun n (fun ar =>
      if ar.spec.getLsbD tn then clean { ar with tiles := Sparse.set [] ar.tiles tn (ar.shadow tn) } else ar))) ∧
    (Issues (.sdrop c n) s → ArrayFree s [tn] → sound → exec (.sdrop c n) s = .next (s.arrayDid s.begun n (fun ar =>
      if ar.spec.getLsbD tn then clean ar else ar))) ∧
    (Issues (.accz c n sp) s → ArrayFree s [tn] → sound → exec (.accz c n sp) s = .next (s.arrayDid s.begun n (fun ar =>
      if sp = 1 then { enter ar with shadows := Sparse.set [] (enter ar).shadows tn [] }
      else { ar with tiles := Sparse.set [] ar.tiles tn [] }))) ∧
    (let ar := enter (s.array t.arrayNo)
     let row := (t.sc x').toNat % 128
     let tile := ar.view tn (sp == 1)
     Issues (.accmv c d x' sp l) s → ArrayFree s [tn] → sound → ∃ v : Vec,
      exec (.accmv c d x' sp l) s = .next (s.completes ((s.begun.setArray t.arrayNo (ar.setView tn (sp == 1)
        (if l = 1 then (List.range 128).foldl (fun y j => y.set row j 0) tile else tile))).onCs
        (fun t => putWhole t 19 d v (maskBelow 128)))) ∧ ∀ j < 128, elemAt v 32 j = tile.get row j) ∧
    (Issues (.accld c a n sp) s → ArrayFree s [tn] → sound → region → [7, 5, 6, 14, 12, 10].contains (dFMT x) = true →
      NoAnswer s es → ReachIn sp' s.begun .read es u plan →
      let imgs := readPlan vl.mem (List.replicate 128 0) plan
      exec (.accld c a n sp) s = .next (s.arrayDid (after vl) n (fun ar => (enter ar).setView tn (sp == 1)
        ((List.range (dROWS x)).foldl (fun y i => (List.range (dCOLS x)).foldl (fun y j =>
          y.set i j (accOf (dFMT x) (regionElem x imgs i j))) y) ((enter ar).view tn (sp == 1)))))) ∧
    (Issues (.accst c a n sp sat) s → ArrayFree s [tn] → sound → region → [7, 3, 4, 5, 6, 14, 12, 10].contains (dFMT x) = true →
      (sat = 1 → dFMT x ≠ 7 ∧ dFMT x ≠ 14) → NoAnswer s es → ReachIn sp' s.begun .write es u plan →
      let ar := enter (s.array t.arrayNo)
      let cell := fun i j => accstElem t (dFMT x) (sat == 1) i j ((ar.view tn (sp == 1)).get i j)
      let fl := ((List.range (dROWS x)).map (fun i => (List.range (dCOLS x)).map (fun j => (cell i j).2))).flatten.foldl (· ||| ·) 0
      let data := (List.range (dROWS x)).map (fun i => packVec (dBits x) ((List.range (dCOLS x)).map (fun j => (cell i j).1)))
      exec (.accst c a n sp sat) s = .next (s.arrayDid (after (writeHere vs sp' data plan)) n (fun _ => ar) (fun t => t.raise fl)) ∧
        (writeHere vs sp' data plan).mem = writePlan vs.mem data plan) ∧
    (let no := if sp = 1 ∧ (s.array t.arrayNo).spec.getLsbD tn = true then 12 + tn else tn
     ArrayFree s [tn] → no ∈ (s.array t.arrayNo).bad →
      (Issues (.accmv c d x' sp l) s → exec (.accmv c d x' sp l) s = .next (s.trapped (.accmv c d x' sp l) .uncorrectable (BitVec.allOnes 64))) ∧
      (Issues (.accst c a n sp sat) s → descOk x = true → region → [7, 3, 4, 5, 6, 14, 12, 10].contains (dFMT x) = true →
        (sat = 1 → dFMT x ≠ 7 ∧ dFMT x ≠ 14) →
        exec (.accst c a n sp sat) s = .next (s.trapped (.accst c a n sp sat) .uncorrectable (BitVec.allOnes 64)))) ∧
    (Issues (.wbload w a n) s → ArrayFree s [8 + wn] → sound → descOk x = true → t.mreq = none → t.mdesc = none → 1 ≤ dROWS x → dROWS x % 32 = 0 → 1 ≤ dCOLS x →
      dCOLS x ≤ 128 → dSPN x = 0 →
      (isFloatOp (dFMT x) (dMODE x) = true ∨ isIntOp (dFMT x) (dMODE x) = true ∨ (dNQ4 x = true ∧ dMODE x = 0)) → wbSize x ≤ 131072 →
      NoAnswer s (wbElems x) → ReachIn sp' s.begun .read (wbElems x) u plan →
      exec (.wbload w a n) s = .next (s.arrayDid (after vl) n (fun ar => { ar with
        wb := Sparse.set {} ar.wb wn (wbOf x (readPlan vl.mem (List.replicate (ceilDiv (292 * dROWS x) 512 + 1) 0) plan)) })))

/-- A Cam step of the strand's mmt reads the operand bytes of one chunk that no earlier step has read; each accumulator (i, j) below M
and N becomes its old value, or 0 in the first step under Z, plus the exact sum of the products of the chunk, rounded once
(wrapped for integers), and all others stay. The last step completes the command with its signals; a step that reads a damaged
tile traps UNCORRECTABLE_DATA with all ones. In alternate mode a command steps only in its core's window, and ARRAY_WINDOW_SWITCH
passes the array to the other window and does nothing in another mode. RELOCATION_TAKE runs the steps of a whole relocatable mmt
on the lowest-numbered idle array of the tile that is open to the partition, with the same result, and does nothing for an array
that is not idle or open or for any other command. (R49, R71, R72, R213, R214, R222, R414, R224, R342, R356) -/
def Obligations.CamStepsAddOneChunk : Prop :=
  (∀ (s : State) (c : MtxCmd) (u : State) (plan : List (Nat × Loc)), s.cs.mtx = some c → s.camReady s.cs = true → c.opcode = 0 →
    c.wb = none → s.cs.mreq = none → (s.array s.cs.arrayNo).bad = [] →
    let es := stepReads c.a (some c.b) c.step
    let q := keptReq c es 44
    NoAnswer s q.elems → ReachIn { spaceOf s.cs s.csTeam with priv := c.priv } s .read q.elems u plan →
    let v := s.snooped u false plan
    let imgs := readPlan v.mem q.base plan
    let u' := v.onCs (fun t => ({ t with mreq := none } : Strand).clearAnswered)
    let tn := s.tileNo s.cs c.acc
    let n := dCOLS c.b
    let rows := (List.range (dROWS c.a)).map (aRow imgs c.a c.step)
    let cols := ((List.range 32).map (fun r => (bRow imgs c.b (dFMT c.a) r n).toArray)).toArray
    let done := { c with step := c.step + 1, kept := keepAfter c es imgs }
    let next := u'.onArray s.cs (fun ar =>
      let ar := if c.spec = true ∧ c.step = 0 then ar.enterSpec tn else ar
      ar.setView tn c.spec (addStep (isIntOp (dFMT c.a) (dMODE c.a)) (c.z && c.step == 0) rows cols n (ar.view tn c.spec)))
    ((c.step + 1) * 32 = depthOf c.a → exec .camStep s = .next (next.mtxDone done)) ∧
    ((c.step + 1) * 32 ≠ depthOf c.a → exec .camStep s = .next (next.onCs (fun t => { t with mtx := some done })))) ∧
  (∀ (s : State) (c : MtxCmd), s.cs.mtx = some c → s.camReady s.cs = true → c.opcode = 0 → c.step ≠ 0 →
    (s.tileNo s.cs c.acc + if c.spec = true ∧ (s.array s.cs.arrayNo).spec.getLsbD (s.tileNo s.cs c.acc) = true then 12 else 0) ∈
      (s.array s.cs.arrayNo).bad →
    exec .camStep s = .next (s.enterTrap c.unit 3 .uncorrectable (BitVec.allOnes 64) c.unit.addr false none [] [])) ∧
  (∀ (int z : Bool) (rows : List (List (Nat × XReal))) (cols : Array (Array XReal)) (n i j : Nat) (x : Tile),
    Sparse.wf (0 : Word) x = true → rows.length ≤ 128 → n ≤ 128 → i < 128 → j < 128 →
    (addStep int z rows cols n x).get i j =
      if i < rows.length ∧ j < n then
        let sum := exactSum ((rows[i]?.getD []).map (fun p => p.2.mul (((cols[p.1]?).getD #[])[j]?.getD (.fin 0 0))))
        (if int then addChunkInt (if z then 0 else x.get i j) sum else addChunk (if z then 0 else x.get i j) sum) % 2 ^ 32
      else x.get i j) ∧
  (∀ s : State, (s.cs.mtx = none ∨ s.camReady s.cs = false) → exec .camStep s = .next s) ∧
  (∀ (s : State) (k : BitVec 8), exec (.arrayWindowSwitch k) s = .next (if (s.array k.toNat).amode = 2 then
    s.setArray k.toNat { s.array k.toNat with window := !(s.array k.toNat).window } else s)) ∧
  (∀ (s : State) (k : BitVec 8) (c : MtxCmd), s.cs.mtx = some c → c.opcode = 0 → c.rel = true → c.z = true → c.spec = false → c.step = 0 →
    s.cs.live = true → s.cs.mreq = none → operandsInTile s c = true →
    let open' := fun n => n ≠ s.cs.arrayNo ∧ s.arrayIdle n = true ∧ s.arrayOpen s.cs.part n = true
    (k.toNat / 4 = s.cs.arrayNo / 4 → open' k.toNat → (∀ n < k.toNat, n / 4 = s.cs.arrayNo / 4 → ¬ open' n) →
      exec (.relocationTake k) s = .next (runSteps (depthOf c.a / 32) s)) ∧
    (¬ open' k.toNat → exec (.relocationTake k) s = .next s)) ∧
  (∀ (s : State) (k : BitVec 8), (∀ c, s.cs.mtx = some c → c.rel = false) → exec (.relocationTake k) s = .next s)

/-- A transfer word that issues, with no earlier word of the strand awaiting acceptance, no deferred fault to report and every access
that its release covers performed, leaves its operation with the scalars it read at the head of the queue, to be accepted; a
release also writes back the L1 lines of the core. Misaligned addresses trap MISALIGNED, a copy of more than 2^32 bytes or of
overlapping ranges and a message length that is no multiple of 32 or above 4096 ILLEGAL_FIELD, a queue that is not the caller's
PROTECTION; launch reads its record at once and checks its handle; mbsend to another device asks that device for the check first,
waits for the answer, and traps as that says (log 35); copy.mmt needs its follow-on and a share of the array. A word behind one
that awaits acceptance waits, and an earlier deferred fault is raised before the head word acts (log 37). (R227, R228, R229, R230,
R233, R235, R244, R246, R248, R249, R251, R252) -/
def Obligations.TransferWordsIssue : Prop :=
  ∀ (s : State) (x y z : BitVec 6) (e : BitVec 4) (o : BitVec 1) (k : BitVec 3) (u : State) (plan : List (Nat × Loc)) (fu : EUnit),
    let t := s.cs
    let a := t.sc x
    let b := t.sc y
    let n := t.sc z
    let free := t.xpend = none ∧ faultedOp s = none
    let rel := ∀ cls, t.unit.releases = some cls → releaseWaits t cls = false
    let all := releaseWaits t none = false
    let rb := match t.unit.releases with | some _ => releaseL1 s.begun t.l1No (t.unit.ordOf 0).scope | none => s.begun
    let ra := releaseL1 s.begun t.l1No 4
    let offer := fun (b : State) (i : Instr) (p : XOp) => exec i s = .next (b.onCs (fun t => { t with xpend := some p }))
    let off := offer rb
    let at' := fun (b : State) (i : Instr) (va : Dword) (m : Nat) (p : XOp) => Issues i s → free →
      (va.toNat % m = 0 → offer b i p) ∧ (va.toNat % m ≠ 0 → exec i s = .next (s.trapped i .misaligned va))
    let apart := n.toNat ≤ 2 ^ 32 ∧ n.toNat ≤ (b - a).toNat ∧ n.toNat ≤ (a - b).toNat
    (Issues (.copy x y z e) s → free → rel →
      (apart → off (.copy x y z e) { newOp s .copy e with x := a, y := b, z := n }) ∧
      (2 ^ 32 < n.toNat → exec (.copy x y z e) s = .next (s.trapped (.copy x y z e) .illegalField n)) ∧
      (n.toNat ≤ 2 ^ 32 → ¬ apart → exec (.copy x y z e) s = .next (s.trapped (.copy x y z e) .illegalField a))) ∧
    (Issues (.copyMmt x y z e) s → free → rel → t.unit.followUnit = some fu → followFate s fu = none → s.hasShare t = true → apart →
      off (.copyMmt x y z e) { newOp s .copyMmt e with x := a, y := b, z := n }) ∧
    at' s.begun (.collOpen x e) a 64 { newOp s .collOpen e with x := a } ∧ at' s.begun (.collRed x e) a 64 { newOp s .collRed e with x := a } ∧
    at' s.begun (.collBar x e) a 64 { newOp s .collBar e with x := a } ∧ at' s.begun (.collClose x e) a 64 { newOp s .collClose e with x := a } ∧
    at' s.begun (.gready x y e) b 64 { newOp s .gready e with x := a, y := b } ∧
    at' s.begun (.gunready x y e) b 64 { newOp s .gunready e with x := a, y := b } ∧
    at' s.begun (.grecv x e) a 64 { newOp s .grecv e with y := a } ∧ at' s.begun (.gqwait x e) a 8 { newOp s .gqwait e with x := a } ∧
    (let len := a.toNat / 2 ^ 32 % 2 ^ 16
     rel → (len % 32 = 0 → len ≤ 4096 → at' rb (.gsend x y o e) b 32 { newOp s .gsend e with x := a, y := b, n := len, flag := o == 1 }) ∧
      (Issues (.gsend x y o e) s → free → (len % 32 ≠ 0 ∨ 4096 < len) →
        exec (.gsend x y o e) s = .next (s.trapped (.gsend x y o e) .illegalField (BitVec.ofNat 64 len)))) ∧
    (let q := a.toNat % 2 ^ 16
     all → (gqValid s q = true → gqPart s q = t.part → at' ra (.gqpush x y e) b 64 { newOp s .gqpush e with x := a, y := b, n := q }) ∧
      (Issues (.gqpush x y e) s → free → b.toNat % 64 = 0 → (gqValid s q = false ∨ gqPart s q ≠ t.part) →
        exec (.gqpush x y e) s = .next (s.trapped (.gqpush x y e) .protection (BitVec.ofNat 64 q)))) ∧
    (Issues (.launch x e) s → free → all → t.mreq = none → a.toNat % 64 = 0 → NoAnswer s [⟨0, a, 64⟩] →
      ReachIn (spaceOf t s.csTeam) ra .read [⟨0, a, 64⟩] u plan →
      let v := s.snooped u false plan
      let u' := v.onCs (fun t => ({ t with mreq := none } : Strand).clearAnswered)
      let bytes := imgBytes (readPlan v.mem [0] plan) 64
      handleFault u' (BitVec.ofNat 32 (leNat ((bytes.drop 0x1C).take 4))) = none →
      exec (.launch x e) s = .next (u'.onCs (fun t =>
        { t with xpend := some { newOp u' .launch e with x := a, payload := bytes, progress := 1 } }))) ∧
    (Issues (.mbsend x o k z e) s → free → rel →
      (a.extractLsb' 32 10 = s.devNum → handleFault s.begun (a.setWidth 32) = none →
        off (.mbsend x o k z e) { newOp s .mbsend e with x := a, z := n, n := k.toNat, flag := o == 1 }) ∧
      (∀ p c l, a.extractLsb' 32 10 ≠ s.devNum →
          s.ops.find? (fun q => q.isCheck && q.team == t.team && q.sid == t.sid && q.unit.seq == t.unit.seq) = some p →
        (p.answered = (0, c) :: l →
          offer (rb.dropOp p.id) (.mbsend x o k z e) { newOp s .mbsend e with x := a, z := n, n := k.toNat, flag := o == 1 }) ∧
        (∀ m, p.answered = (m, c) :: l → m ≠ 0 → exec (.mbsend x o k z e) s = .next ((rb.dropOp p.id).trap c
          (if c = .fabricError then a else (a.setWidth 32).setWidth 64) [] [])) ∧
        (p.answered = [] → exec (.mbsend x o k z e) s = .next s.waits)) ∧
      (a.extractLsb' 32 10 ≠ s.devNum →
          s.ops.find? (fun q => q.isCheck && q.team == t.team && q.sid == t.sid && q.unit.seq == t.unit.seq) = none →
        (carries s ptMBOX (a.extractLsb' 32 10) = false → exec (.mbsend x o k z e) s = .next (s.trapped (.mbsend x o k z e) .fabricError a)) ∧
        (carries s ptMBOX (a.extractLsb' 32 10) = true → ∃ v : State, exec (.mbsend x o k z e) s = .next v ∧ v.cs.held = true ∧
          v.pending.length = s.pending.length + 1 ∧ v.ops.length = s.ops.length + 1))) ∧
    (Issues (.gqwait x e) s → faultedOp s = none → t.xpend.isSome = true → exec (.gqwait x e) s = .next s.waits) ∧
    (∀ p c v, Issues (.gqwait x e) s → faultedOp s = some p → p.stat = .fault c v →
      exec (.gqwait x e) s = .next ((s.begun.dropOp p.id).trapDeferred p.unit c v))

/-- An agent with room takes the strand's word under the next number, and the next word of the queue may issue; without room, or with
nothing offered, acceptance changes nothing. A step of a copy whose rest lies in one page writes exactly the bytes it read to the
destination, ends the operation and gives its signals; a copy of nothing ends at once. While its team is placed an operation reads
and writes the places that translation gives, coherent with the L1s of its die. mbsend writes the mailbox here while its handle is
good (log 35), or sends the write to its device, or stops on FABRIC_ERROR. gqwait ends when the word it watches is not zero. An
operation stopped on a deferred fault does not step. The follow-on of copy.mmt waits for the end of its copy, and then enters the
Cam sequencer as the word itself would. (R227, R233, R234, R235, R250, R252, R341) -/
def Obligations.TransferOperationsProceed : Prop :=
  (∀ (s : State) (o : XOp), s.cs.xpend = some o →
    ((s.cs.live = false ∨ acceptable s o = false) → exec .xferAccept s = .next s) ∧
    (s.cs.live = true → acceptable s o = true → (o.kind = .copy ∨ o.kind = .copyMmt) →
      exec .xferAccept s = .next ({ s with nextId := s.nextId + 1, ops := s.ops ++ [{ o with id := s.nextId }] }.onCs
        (fun t => { t with xpend := none })))) ∧
  (∀ s : State, s.cs.xpend = none → exec .xferAccept s = .next s) ∧
  (∀ (s : State) (id : Nat) (o : XOp), s.op? id = some o →
    o.isFree = false →
    let done := fun (o : XOp) => { o with answered := [], asked := false, here := false, part := [] }
    (o.faulted = true → exec (.copyEngineStep id) s = .next s) ∧
    (o.faulted = false → o.kind = .mbsend → o.asked = false →
      (o.x.extractLsb' 32 10 = s.devNum → exec (.copyEngineStep id) s =
        .next ((if s.handleOk (o.x.setWidth 32) then s.onMailbox (o.x.setWidth 32) (o.n % 8) (fun v => if o.flag then v ||| o.z else o.z)
          else s).opDone o)) ∧
      (o.x.extractLsb' 32 10 ≠ s.devNum → carries s ptMBOX (o.x.extractLsb' 32 10) = true → ∃ v : State, exec (.copyEngineStep id) s = .next v ∧
        v.pending.length = s.pending.length + 1 ∧ v.mem = s.mem) ∧
      (o.x.extractLsb' 32 10 ≠ s.devNum → carries s ptMBOX (o.x.extractLsb' 32 10) = false →
        exec (.copyEngineStep id) s = .next (s.opFail o .fabricError o.x))) ∧
    (o.faulted = false → o.kind = .copy → o.flag = false →
      (∀ p ∈ s.ops, p.id < o.id → p.team = o.team → p.sid = o.sid → p.copying = true → p.faulted = true) →
      (o.z.toNat ≤ o.progress → exec (.copyEngineStep id) s =
        .next ((if o.ord.isAcquire then opAcquire s o o.ord.scope else s).opDone o)) ∧
      (∀ (u v : State) (imgs w : List Vec) (o1 : XOp), o.progress < o.z.toNat → o.payload = [] → o.asked = false → o.stat = .active →
        let src := o.y + BitVec.ofNat 64 o.progress
        let dst := o.x + BitVec.ofNat 64 o.progress
        let n := o.z.toNat - o.progress
        src.toNat % 4096 + n ≤ 4096 → dst.toNat % 4096 + n ≤ 4096 → s.holdTurn id = true →
        runFor s o.team (opSpace s o) (readReq src n) = .done u imgs →
        let bytes := imgBytes imgs n
        let s1 := ((u.unhold id).onOp id done).onOp id (fun o => { o with payload := o.payload ++ bytes })
        s1.op? id = some o1 → o1 = { done o with payload := bytes } → s1.holdTurn id = true →
        runFor s1 o1.team (opSpace s1 o1) (writeReq dst bytes) = .done v w →
        ∃ r, exec (.copyEngineStep id) s = .next r ∧ (o.ord.isAcquire = false → r.mem = v.mem) ∧ ∀ x ∈ r.ops, x.id ≠ id)) ∧
    (∀ (u : State) (imgs : List Vec), o.faulted = false → o.kind = .gqwait → o.asked = false → o.stat = .active →
      s.holdTurn id = true → runFor s o.team (opSpace s o) (readReq o.x 8) = .done u imgs →
      let u' := (u.unhold id).onOp id done
      exec (.copyEngineStep id) s = .next (if leNat (imgBytes imgs 8) = 0 then u' else (opAcquire u' o 4).opDone o))) ∧
  (∀ (s u : State) (o : XOp) (va : Dword) (n : Nat) (l : List Byte) (plan : List (Nat × Loc)),
    (∀ m, s.team? o.team = some m → m.placed = true) →
    let flushed := fun (w : Bool) => flushL1 (u.touchRows (plan.map (·.2.key))) (!w) (fun x => x.core / 128 == (opSpace s o).die.toNat && x.meets (plan.map (·.2.key)))
    (ReachIn (opSpace s o) s .read [⟨0, va, n⟩] u plan → runFor s o.team (opSpace s o) (readReq va n) =
      .done (flushed false) (readPlan (flushed false).mem (List.replicate (ceilDiv n 512) 0) plan)) ∧
    (ReachIn (opSpace s o) s .write [⟨0, va, l.length⟩] u plan → ∃ v w, runFor s o.team (opSpace s o) (writeReq va l) = .done v w ∧
      v.mem = writePlan (flushed true).mem (bytesImg l) plan)) ∧
  (∀ (s : State) (id : Nat), s.op? id = none → exec (.copyEngineStep id) s = .next s ∧ exec (.followOnIssue id) s = .next s) ∧
  (∀ (s : State) (id : Nat) (o : XOp) (fu : EUnit), s.op? id = some o → o.kind = .copyMmt → o.unit.followUnit = some fu →
    (o.flag = false → exec (.followOnIssue id) s = .next s) ∧
    (∀ t, o.flag = true → s.cs.team = o.team → s.cs.sid = o.sid → s.cs.live = true → s.cs.frame = none → s.cs.tokHolds fu = false →
      followAct (s.onCs (fun t => { t with unit := fu })) = .okNoSig t →
      exec (.followOnIssue id) s = .next ((t.onCs (fun x => { x with unit := s.cs.unit })).dropOp id)))

/-- A prefix word fetched before a target is appended to the words of the coming unit, whose first address it gives when none stands
yet, the fetch address moves on by 4, and nothing else changes. A JOIN without a fate and with its TOK wait satisfied appends one
marker to each queue it names and none to the others. When every marker of a JOIN is at the head of its queue with the words ahead
complete, JOIN_RELEASE takes all its markers out, settles the pending writes of the VEC and SFU queues it names and gives its
signal; without such a JOIN it changes nothing. (R45, R86, R87, R230) -/
def Obligations.PrefixesAndJoinAct : Prop :=
  (∀ (s : State) (i : BitVec 26) (k : BitVec 3) (o : BitVec 2) (c e f m : BitVec 4) (w g z x y b : BitVec 1) (t : BitVec 8) (n : BitVec 6),
    let latched := fun (i : Instr) => ∃ bad : Bool, exec i s = .next (s.onCs (fun t => { t with
      hangTimer := 0, pc := t.pc + 4
      pfx := { addr := if t.pfx.words = [] then t.pc else t.pfx.addr, words := t.pfx.words ++ [encode i], loopBad := bad } })) ∧
      (s.cs.loops = [] → bad = (!s.cs.pfx.words.isEmpty && s.cs.pfx.loopBad))
    latched (.extImm i) ∧ latched (.extOrd k o c) ∧ latched (.extTok w e t g f) ∧ latched (.extStall c) ∧ latched (.extMask z m) ∧
    latched (.extInd n x y b)) ∧
  (∀ (s : State) (c a v m k x : BitVec 1),
    let i := Instr.join c a v m k x
    let names := fun (e : Eng) => match e with
      | .ctrl => c = 1 | .acc => a = 1 | .vec => v = 1 | .mtx => m = 1 | .sfu => k = 1 | .xfer => x = 1
    joinFate s (encode i) = none → s.cs.tokHolds s.cs.unit = false →
    ∃ q : Queues, exec i s = .next (s.begun.onCs (fun t => { t with q := q })) ∧
      ∀ e, (names e → q.get e = s.cs.q.get e ++ [.joinMark s.cs.unit]) ∧ (¬ names e → q.get e = s.cs.q.get e)) ∧
  (∀ s : State, joinReady s.cs = none → exec .joinRelease s = .next s) ∧
  (∀ (s : State) (u : EUnit), joinReady s.cs = some u →
    (s.ops.find? (fun o => o.team == s.cs.team && o.sid == s.cs.sid && o.faulted) = none ∨ u.word.getLsbD 16 = false) →
    exec .joinRelease s = .next (s.onCs (fun t =>
      ((({ t with hangTimer := 0, q := t.q.dropMarks u.seq }).settleWrites (joinNames u.word)).signal u.sig))))

/-- FETCH_WORD reads the word at the fetch address. A word of one of the six engines whose queue has a slot goes to the end of that
queue as one unit, with the prefixes that came before it and the next number in fetch order; the prefixes are used up, and outside
a loop the fetch address moves on by 4. With the queue full nothing is fetched. A word that cannot be read makes fetch wait, or a
fetch fault is entered with the fetch address in TEPC and TVAL. A strand that is not live, has ended, or waits for a control-flow
word fetches nothing. (R34, R86, R97, R127, R131, R343) -/
def Obligations.FetchAppendsOneUnit : Prop :=
  (∀ s : State, s.cs.fetches = false → exec .fetchWord s = .next s) ∧
  (∀ (s t : State) (w : Word), s.cs.fetches = true → fetchRead s = .word t w → engineOf w < 6 →
    (engineOf w = 3 → needsFollow t.cs.q.xfer = false) →
    let u := buildUnit t w
    let e := engOf u.word
    (16 ≤ queueLength (t.cs.q.get e) → exec .fetchWord s = .next t) ∧
    (queueLength (t.cs.q.get e) < 16 → ∃ r, exec .fetchWord s = .next r ∧ r.cs.q.get e = t.cs.q.get e ++ [.unit u] ∧
      (∀ e', e' ≠ e → r.cs.q.get e' = t.cs.q.get e') ∧ r.nextSeq = t.nextSeq + 1 ∧ r.cs.pfx = {} ∧ r.mem = t.mem ∧ r.cs.s = t.cs.s ∧
      r.cs.v = t.cs.v ∧ (t.cs.loops = [] → r.cs.pc = t.cs.pc + 4) ∧
      (t.csTeam.hdr.patches = [] → u.word = w ∧ u.pfx = t.cs.pfx.words ∧ u.taddr = t.cs.pc ∧ u.seq = t.nextSeq ∧
        u.addr = if t.cs.pfx.words = [] then t.cs.pc else t.cs.pfx.addr))) ∧
  (∀ (s t : State), s.cs.fetches = true → fetchRead s = .wait t → exec .fetchWord s = .next t) ∧
  (∀ (s t : State) (c : Cause), s.cs.fetches = true → fetchRead s = .fault t c → exec .fetchWord s =
    .next (t.enterTrap { addr := t.cs.pc, taddr := t.cs.pc, seq := t.nextSeq } 0 c t.cs.pc t.cs.pc true none [] []))

/-- TRAP_ENTRY enters the handler of the stepping strand at TVEC in the P view with the unit's address in TEPC, and leaves memory
alone. HANG_TIMEOUT changes nothing before the timer has reached HANGCTL.TIMEOUT; then it captures the hang record of the strand
slot and raises HANG on the oldest head unit, with word 14 of the record in TVAL. WAIT_DEADLINE runs the timed wait at the head of
the CTRL queue, which, its deadline having passed unsatisfied now or earlier, leaves the queue with 0 in its destination and
STAT.TIMEOUT; YIELD_PAUSE_EXPIRY does so for yield.pause once its 64 cycles have passed, counted while the team is on its tile
(log 67), and leaves it at the head before. (R139, R140, R145, R344, R355, R270) -/
def Obligations.TimedStepsOfAStrand : Prop :=
  (∀ (s : State) (k : Cause) (g : BitVec 3) (v : Dword), s.cs.frame = none → s.cs.tvec ≠ 0 → g.toNat < 6 →
    ∃ t : State, exec (.trapEntry k.code g v) s = .next t ∧ t.cs.pc = s.cs.tvec ∧ t.cs.p = true ∧ t.cs.pp = s.cs.p ∧ t.cs.tval = v ∧
      t.cs.tepc = s.cs.unit.addr &&& ~~~3 ∧ t.cs.tcause.toNat = k.code.toNat + 256 * g.toNat ∧ t.mem = s.mem ∧ t.others = s.others) ∧
  (∀ s : State, (s.hangctl = 0 ∨ s.cs.hangCounts = false ∨ s.cs.hangTimer < s.hangctl.toNat * 1000) → exec .hangTimeout s = .next s) ∧
  (∀ (s : State) (e : Eng) (u : EUnit), s.hangctl ≠ 0 → s.cs.hangCounts = true → s.hangctl.toNat * 1000 ≤ s.cs.hangTimer →
    oldestHead s.cs = some (e, u) → s.cs.frame = none → s.cs.tvec ≠ 0 → ∃ t : State, exec .hangTimeout s = .next t ∧
      t.cs.tcause.toNat = Cause.hang.code.toNat + 256 * e.num ∧ t.cs.tval = hangWord s 14 ∧ t.cs.tepc = u.addr &&& ~~~3 ∧
      t.cs.pc = s.cs.tvec ∧ t.mem = s.mem ∧
      t.hangRec = (List.range 16).foldl (fun m n => Sparse.set 0 m (hangKey s.cs s.cs.slot n) (hangWord s n)) s.hangRec) ∧
  (∀ (s : State) (u : EUnit), s.cs.ctrlHead = some u →
    let s' := s.onCs (fun t => { t with unit := u, q := { t.q with ctrl := t.q.ctrl.drop 1 }, hangTimer := 0 })
    (∀ e d a, decodeCtrl u.word = .ok (.evWaitt e d a) → Issues (.evWaitt e d a) s' →
      (128 ≤ (s.cs.ev e - (s.cs.sc d).setWidth 8).toNat ∧ (s.cs.sc a).toNat ≤ s.time % 2 ^ 64 ∨ s.cs.timeUp = true) →
      exec .waitDeadline s = .next (s'.did (fun t => (({ t with timeUp := false } : Strand).setSc d 0).setStat statTIMEOUT))) ∧
    (decodeCtrl u.word = .ok .yieldPause → Issues .yieldPause s' → ∀ z, s.cs.pauseEnd = some z →
      (z ≤ s.cs.cyc → exec .yieldPauseExpiry s = .next (s'.did (fun t => { t with pauseEnd := none }))) ∧
      (s.cs.cyc < z → ∃ t : State, exec .yieldPauseExpiry s = .next t ∧ t.cs.q.ctrl = .unit u :: s.cs.q.ctrl.drop 1 ∧ t.cs.pauseEnd = some z ∧
        t.mem = s.mem))) ∧
  (∀ s : State, s.cs.ctrlHead = none → exec .waitDeadline s = .next s ∧ exec .yieldPauseExpiry s = .next s)

/-- LOAD_DATA_RETURN, STORE_PERFORMED and ATOMIC_PERFORMED complete the entry of their number in the record of its strand when it is
pending, of their kind, without a failure, and every packet it sent has been answered: a load or an atomic delivers its data to
its destination, a store none, the entry leaves the record and its signal is given; an acquire also invalidates the L1 lines of
its core, and a store with bytes here writes those then, last (log 55). ATOMICOP_COMPLETION does so with the old value the host
answers, and the host's memory takes the new value. HOLD_QUEUE_NACK_RETRY tries a held access that is first in its hold queue, or
a NACKed one, again and changes nothing for another. A number that no record holds changes nothing. (R39, R43, R172, R174, R301,
R350) -/
def Obligations.AccessesComplete : Prop :=
  (∀ (s : State) (n : Nat) (old : BitVec 128), s.holder? n = none → exec (.loadDataReturn n) s = .next s ∧
    exec (.storePerformed n) s = .next s ∧ (isHostAtomic s n = false → exec (.atomicPerformed n) s = .next s) ∧
    exec (.atomicopCompletion n old) s = .next s ∧ exec (.holdQueueNackRetry n) s = .next s) ∧
  (∀ (s : State) (n : Nat) (t : Strand) (e : RecEntry), s.holder? n = some t → t.entry? n = some e →
    let acq := if e.req.ord.isAcquire then acquireL1 s t.l1No e.req.ord.scope else s
    let deliver := fun (imgs : List Vec) => acq.onStrand t.team t.sid (fun t => t.finish n imgs)
    (e.state = .pending → e.fail = none → e.req.kind ≠ .fill → e.here ≠ 1 → s.allAnswered n = true →
      (e.req.write = false → e.req.atom = none →
        exec (.loadDataReturn n) s = .next (deliver (e.req.final e.req.part)) ∧ exec (.storePerformed n) s = .next s) ∧
      (e.req.write = true → e.req.atom = none →
        exec (.storePerformed n) s = .next (deliver []) ∧ exec (.loadDataReturn n) s = .next s) ∧
      (e.req.write = true → e.req.atom.isSome = true → isHostAtomic s n = false →
        exec (.atomicPerformed n) s = .next (deliver (e.req.final e.req.part)))) ∧
    (e.state = .pending → e.fail = none → e.req.kind ≠ .fill → e.here = 1 → s.allAnswered n = true → e.req.write = true → e.req.atom = none →
      let f := fun (e : RecEntry) => { e with here := 2, state := .held }
      exec (.storePerformed n) s = .next (retryEntry (s.onStrand t.team t.sid (fun t => t.onEntry n f)) (t.onEntry n f) n)) ∧
    (s.allAnswered n = false → exec (.loadDataReturn n) s = .next s ∧ exec (.storePerformed n) s = .next s) ∧
    (e.state ≠ .held → e.state ≠ .nacked → exec (.holdQueueNackRetry n) s = .next s) ∧
    (s.holdTurn n = false → exec (.holdQueueNackRetry n) s = .next s) ∧
    (e.state = .held ∨ e.state = .nacked → s.holdTurn n = true → exec (.holdQueueNackRetry n) s = .next (retryEntry s t n)) ∧
    (∀ (a : AtomOp) (old : BitVec 128), e.req.atom = some a → isHostAtomic s n = true → e.state = .pending →
      let m := old.toNat % 2 ^ (8 * a.size)
      ∃ r, exec (.atomicopCompletion n old) s = .next r ∧
        r.cs = (if s.cs.team = t.team ∧ s.cs.sid = t.sid then s.cs.finish n [BitVec.ofNat 4096 m] else s.cs) ∧
        (e.req.ord.isAcquire = false →
          r.mem = setBytes s.mem (hostKey e.key) (leBytes a.size (if atomWrites a m then atomNew a m else m))) ∧
        isHostAtomic r n = false))

/-- TEAM_TAKE_OFF of a placed team that a fault park holds leaves none of its strands live and the team without cores and frames; the
strands and records of other teams stay. At the end of a quantum without a rival the team keeps its tile for another quantum; with
one it leaves and the whole selection runs without it; before it nothing changes. TEAM_PLACE runs the selection where some team
fits, and else moves no strand; strands that are seated are live on the die and tile of the placement, with the partition's trap
vector. TEAM_END changes nothing before every strand and operation of the team is done; then the team and its strands are gone and
its launch counts one more, records the status the team ended with unless it has one, and completes with its last team. (R30, R32,
R264, R335, R337, R338, R344, R349, R354) -/
def Obligations.TeamsLeaveAndTakeTheirTiles : Prop :=
  (∀ (s : State) (n : Nat), s.team? n = none → exec (.teamTakeOff n) s = .next s ∧ exec (.quantumExpiry n) s = .next s ∧
    exec (.teamEnd n) s = .next s) ∧
  (∀ (s : State) (n : Nat) (m : Team), s.team? n = some m →
    ((m.placed = false ∨ m.faults = []) → exec (.teamTakeOff n) s = .next s) ∧
    (m.placed = true → m.faults ≠ [] → ∃ t : State, exec (.teamTakeOff n) s = .next t ∧ (∀ x ∈ t.strands, x.team = n → x.live = false) ∧
      (∀ x ∈ t.teams, x.id = n → x.placed = false ∧ x.frames = [] ∧ x.cores = []) ∧ t.strands.length = s.strands.length ∧
      (∀ x ∈ t.strands, x.team ≠ n → x ∈ s.strands) ∧ (∀ x ∈ t.teams, x.id ≠ n → x ∈ s.teams)) ∧
    ((m.placed = false ∨ s.time < m.quantumEnd) → exec (.quantumExpiry n) s = .next s) ∧
    (m.placed = true → m.quantumEnd ≤ s.time → rival s m (fun _ => true) = false → exec (.quantumExpiry n) s =
      .next (s.onTeam n (fun m' => { m' with quantumEnd := s.time + quantum s (handleDie m.ctx).toNat * 1000 }))) ∧
    (m.placed = true → m.quantumEnd ≤ s.time → rival s m (fun _ => true) = true → exec (.quantumExpiry n) s =
      .next (selectOthers (takeOff s n) n)) ∧
    ((m.started = false ∨ teamDone s m = false) → exec (.teamEnd n) s = .next s) ∧
    (m.started = true → teamDone s m = true →
      let r := removeTeam (endOps s n (fun _ => true)) m
      exec (.teamEnd n) s = .next (launchTeamEnded (r.onLaunch m.launch (Launch.ended m)) m.launch) ∧
      (∀ l, (Launch.ended m l).done = l.done + 1 ∧ (m.endWith = none → (Launch.ended m l).status = l.status) ∧
        (∀ x code, m.endWith = some (x, code) → (Launch.ended m l).status = if l.status = 0 then x else l.status)) ∧
      (∀ x ∈ r.teams, x.id ≠ n) ∧ (∀ x ∈ r.others, x.team ≠ n) ∧ (r.cs.team ≠ n ∨ r.cs = {}))) ∧
  (∀ (s : State) (d : BitVec 2), (canPlace s d.toNat = true → exec (.teamPlace d) s = .next (selection d.toNat (s.teams.length + 1) [] s).1) ∧
    (canPlace s d.toNat = false → ∃ t : State, exec (.teamPlace d) s = .next t ∧ t.strands = s.strands ∧ t.teams = s.teams)) ∧
  (∀ (s : State) (m : Team) (d : BitVec 2) (t : BitVec 4) (cores : List Nat), ∀ x ∈ (seatStrands s m d t cores).strands,
    x.team = m.id → x.live = true ∧ x.die = d ∧ x.tile = t ∧ x.tvec = s.pcbReg (handlePart m.ctx).toNat 0x008 &&& ~~~3)

/-- The record at HEAD of a partition's launch queue is taken only where HEAD differs from TAIL; HEAD moves on by one modulo 2^32. A
record that breaks the rules of R328 fails with BAD_RECORD and one whose handle is not current, or is of another partition, with
STALE; its launch then completes at once. While the die of the context holds 4,096 accepted launches the record waits and HEAD
stays; else it is accepted, HEAD passes it and its kernel is checked. The check of an accepted launch first reads its map, each
entry once, then its kernel; it waits while either read does (log 21), or fails the launch with its status, which then completes,
or adds one team for each of TEAMS. A record of no launch operation changes nothing. A launch without CREC and without a signal
completes by leaving the list, and one that is not ready does not. (R29, R109, R251, R328, R329, R330, R331, R332) -/
def Obligations.LaunchRecordsAreAccepted : Prop :=
  (∀ (s : State) (r : BitVec 512) (p : BitVec 6),
    let head := s.pcbReg p.toNat 0x108
    let tail := s.pcbReg p.toNat 0x110
    let l : Launch := { id := s.nextId, record := r, host := true, issuer := none }
    let moved := fun (l : Launch) => ({ s with nextId := s.nextId + 1, launches := s.launches ++ [l] } : State).setPcb p.toNat 0x108
      (BitVec.ofNat 64 ((head.toNat + 1) % 2 ^ 32))
    let failed := fun (status : BitVec 32) => completeLaunch (moved { l with status := status, ready := true }) s.nextId
    let held := (s.launches.filter (fun l => handleDie (lCTX l.record) == handleDie (lCTX r) &&
      l.status ≠ statusBadRecord && l.status ≠ statusStale)).length
    (head = tail → exec (.launchRecordAccept r true p) s = .next s) ∧
    (head ≠ tail → recordOk r true = false → exec (.launchRecordAccept r true p) s = .next (failed statusBadRecord)) ∧
    (head ≠ tail → recordOk r true = true → (s.handleOk (lCTX r) = false ∨ handlePart (lCTX r) ≠ p) →
      exec (.launchRecordAccept r true p) s = .next (failed statusStale)) ∧
    (recordOk r true = true → s.handleOk (lCTX r) = true → handlePart (lCTX r) = p →
      (4096 ≤ held → exec (.launchRecordAccept r true p) s = .next s) ∧
      (head ≠ tail → held < 4096 →
        exec (.launchRecordAccept r true p) s = .next (launchKernel (moved { l with kernel := true }) s.nextId))) ∧
    ((∀ o ∈ s.ops, o.kind ≠ .launch) → exec (.launchRecordAccept r false p) s = .next s)) ∧
  (∀ (s : State) (n : Nat) (l : Launch), s.launches.find? (fun l => l.id == n) = some l →
    (l.kernel = false → launchKernel s n = s) ∧
    (l.kernel = true → (∀ t, launchMap s l = (t, none) → launchKernel s n = t) ∧ ∀ u map, launchMap s l = (u, some map) →
      (∀ t, checkKernel u n l.record = .wait t → launchKernel s n = t) ∧
      (∀ t status, checkKernel u n l.record = .fail t status → launchKernel s n =
        completeLaunch ((t.onLaunch n (fun l => { l with kernel := false, got := [] })).onLaunch n
          (fun l => { l with status := status, ready := true })) n) ∧
      (∀ t h, checkKernel u n l.record = .ok t h → (launchKernel s n).teams.length = t.teams.length + map.length ∧
        (launchKernel s n).launches.length = t.launches.length)) ∧
    (l.ready = false → completeLaunch s n = s) ∧
    (l.ready = true → l.wait = none → lCREC l.record = 0 → lKIND l.record = 0 →
      completeLaunch s n = { s with launches := s.launches.filter (fun x => x.id ≠ n) }))

/-- A wake request to a context that is READY or RUNNING without a condition latches its source if it is MSG, LAUNCH or RECALL. A park
condition of which no part holds stays; one of which some hold clears and LASTWAKE records them. A fault wake takes its key from
the team's faults; one of no team changes nothing. A demotion threshold does nothing for a context without a predicted wake,
outside PARKED and SWAPPED, or with its wake near; a page of T0 without pins of a context with a far wake starts to move to T1. A
recall of a demoted page starts its move one tier up; for a context without pages it only ends the recall. A SWAPPED context whose
condition clears is recalled. (R27, R28, R256, R297, R299, R327, R349) -/
def Obligations.WakesAndResidencySteps : Prop :=
  (∀ (s : State) (i : BitVec 16) (k : BitVec 3), ((s.entry i.toNat).state = .ready ∨ (s.entry i.toNat).state = .running) →
    (s.entry i.toNat).cond = none → (∀ p ∈ s.pdes, handleIndex p.owner ≠ i.toNat) →
    ∃ t : State, exec (.wakeRequest i k) s = .next t ∧
      (t.entry i.toNat).latch = (s.entry i.toNat).latch ||| (if k = 0 ∨ k = 3 ∨ k = 4 then BitVec.ofNat 6 (2 ^ k.toNat) else 0) ∧
      (∀ j, j ≠ i.toNat → t.entry j = s.entry j) ∧ t.mem = s.mem ∧ t.strands = s.strands) ∧
  (∀ (s : State) (i : BitVec 16),
    ((s.entry i.toNat).cond = none → exec (.parkTimerExpiry i) s = .next s) ∧
    (∀ c, (s.entry i.toNat).cond = some c →
      let h := condHolds s c (s.entry i.toNat).latch
      (h = 0 → exec (.parkTimerExpiry i) s = .next s) ∧
      (h ≠ 0 → (s.entry i.toNat).state ≠ .free → (∀ p ∈ s.pdes, handleIndex p.owner ≠ i.toNat) → ∃ t : State, exec (.parkTimerExpiry i) s = .next t ∧ (t.entry i.toNat).cond = none ∧
        (t.entry i.toNat).lastWake = h ∧ ((s.entry i.toNat).state = .swapped → (t.entry i.toNat).recalling = true) ∧ (∀ j, j ≠ i.toNat → t.entry j = s.entry j) ∧ t.mem = s.mem ∧ t.strands = s.strands))) ∧
  (∀ (s : State) (n k : Nat), s.team? n = none → (∀ m ∈ s.teams, m.id ≠ n) → exec (.faultWake n k) s = .next s) ∧
  (∀ (s : State) (n k : Nat) (m : Team), s.team? n = some m → m.placed = false → (∀ p ∈ s.pdes, handleIndex p.owner ≠ handleIndex m.ctx) →
    ∃ t : State, exec (.faultWake n k) s = .next t ∧ (∀ x ∈ t.teams, x.id = n → k ∉ x.faults) ∧ t.mem = s.mem ∧ t.strands = s.strands) ∧
  (∀ (s : State) (i : BitVec 16),
    ((s.entry i.toNat).wake = none → exec (.demotionThreshold i) s = .next s) ∧
    ((s.entry i.toNat).state ≠ .parked → (s.entry i.toNat).state ≠ .swapped → exec (.demotionThreshold i) s = .next s) ∧
    (∀ w, (s.entry i.toNat).wake = some w → w ≤ s.time + thresholdT0 s → w ≤ s.time + thresholdT1 s →
      exec (.demotionThreshold i) s = .next s)) ∧
  (∀ (s : State) (i : BitVec 16) (p : Pde) (w f : Nat), s.pdes = [p] → handleIndex p.owner = i.toNat → p.tier = 0 → p.mig = none →
    p.queued = [] → p.pins = [] → p.shared = false → (s.entry i.toNat).state = .parked → (s.entry i.toNat).wake = some w →
    s.time + thresholdT0 s < w → w ≤ s.time + thresholdT1 s →
    chooseFrame (s.onPde p.obj (fun p => { p with parkTier := some (p.parkTier.getD p.tier) })) p.owner 1 = some f →
    ∃ (t : State) (q : Pde), exec (.demotionThreshold i) s = .next t ∧ t.pdes = [q] ∧ q.obj = p.obj ∧ q.moving = true ∧ q.tier = 0 ∧ q.frame = p.frame ∧
      ∃ m, q.mig = some m ∧ m.tier = 1 ∧ m.frame = f) ∧
  (∀ (s : State) (i : BitVec 16) (p : Pde) (f : Nat), s.pdes = [p] → handleIndex p.owner = i.toNat → p.needsRecall = true →
    p.mig = none → p.queued = [] → p.shared = false → inputObjs s i.toNat = [] → (s.entry i.toNat).state = .parked → (s.entry i.toNat).recalls = [] →
    chooseFrame (((s.setEntry i.toNat { s.entry i.toNat with recalling := false }).addRecall i.toNat { pages := [(p.obj, p.recallTier)] }).onPde p.obj
      (fun p => { p with parkTier := none, queued := [] })) p.owner (nextTier p.tier p.recallTier) = some f →
    ∃ (t : State) (q : Pde), exec (.recallStart i) s = .next t ∧ t.pdes = [q] ∧ q.obj = p.obj ∧ q.moving = true ∧
      ∃ m, q.mig = some m ∧ m.tier = nextTier p.tier p.recallTier ∧ m.frame = f) ∧
  (∀ (s : State) (i : BitVec 16), s.pdes = [] → (s.entry i.toNat).state ≠ .swapped → (s.entry i.toNat).recalls = [] →
    exec (.recallStart i) s = .next (s.setEntry i.toNat { s.entry i.toNat with recalling := false }))

/-- The busy count is zero once the host holds no line of the page; damaged data in T0 or T1 abandons the migration. The copy step
waits while the host holds a line of either frame or a channel of one changes its rate; then the L1 lines of the page are written
back (log 65), every byte of the new frame becomes the byte of the old one and no other changes; to or from the pool it comes with
POOL_TRANSFER_COMPLETION, whose failure abandons the migration. The rebind begins at the home die, counts the guest's port as done
and asks the three other dies; an acknowledgement of another version changes nothing; the last one gives the page its tier, frame
and next version, ends the migration and leaves the old frame zero. Under line-valid migration the last acknowledgement gives the
page its new frame with no line valid, a background pull copies the next invalid line, and a pull with all 1,024 lines valid ends
the migration (log 34) and the old frame is zero. A page that is not migrating is not changed by any of these steps. (R295, R301,
R302, R303, R357, R376) -/
def Obligations.MigrationStepsOfAPage : Prop :=
  (∀ (s : State) (o : BitVec 48) (d : BitVec 2) (v : Word) (b : Bool), (∀ p, s.pde? o = some p → p.mig = none) →
    exec (.busyCountZero o) s = .next s ∧ exec (.pageCopyComplete o) s = .next s ∧ exec (.directoryRebind o) s = .next s ∧
    exec (.dirinvArrival d o v) s = .next s ∧ exec (.backgroundLinePull o) s = .next s ∧ exec (.poolTransferCompletion o b) s = .next s) ∧
  (∀ (s : State) (o : BitVec 48) (p : Pde) (m : Migration), s.pde? o = some p → p.mig = some m → m.line = false →
    (m.drained = false →
      (∀ l, heldLine s p.frame = some l → exec (.busyCountZero o) s = .next (s.askHost true l)) ∧
      (heldLine s p.frame = none → p.tier ≠ 2 → (∃ k < 2048, p.frame / 32 + k ∈ s.poison) → (∀ q ∈ s.pdes, q.queued = []) → ∃ t : State, exec (.busyCountZero o) s = .next t ∧
        t.pdes = s.pdes.map (fun q => if q.obj = o then { q with moving := false, mig := none } else q) ∧ t.mem = s.mem) ∧
      (heldLine s p.frame = none → (p.tier = 2 ∨ ∀ k < 2048, p.frame / 32 + k ∉ s.poison) → exec (.busyCountZero o) s =
        .next { s with pdes := s.pdes.map (fun q => if q.obj = o then { q with mig := some { m with drained := true } } else q) })) ∧
    (m.drained = true → m.copied = false →
      let step := if p.tier = 2 ∨ m.tier = 2 then Instr.poolTransferCompletion o true else .pageCopyComplete o
      Memory.wf s.mem = true → (p.frame + 65536 ≤ m.frame ∨ m.frame + 65536 ≤ p.frame) →
      (∀ r, copyWait s p.frame m.frame = some r → exec step s = .next (askFor s r)) ∧
      (copyWait s p.frame m.frame = none → ∃ t : State, exec step s = .next t ∧
        (∀ k < 65536, memByte t.mem (m.frame + k) = memByte (flushFrame s p.frame).mem (p.frame + k)) ∧
        (∀ a, a < m.frame ∨ m.frame + 65536 ≤ a → memByte t.mem a = memByte (flushFrame s p.frame).mem a) ∧
        t.pdes = s.pdes.map (fun q => if q.obj = o then { q with mig := some { m with copied := true } } else q))) ∧
    (m.drained = true → m.copied = false → (p.tier = 2 ∨ m.tier = 2) → (m.tier = 2 ∨ ∀ r ∈ s.resolves, r.obj ≠ o) → (∀ q ∈ s.pdes, q.queued = []) →
      exec (.pageCopyComplete o) s = .next s ∧ ∃ t : State, exec (.poolTransferCompletion o false) s = .next t ∧ t.mem = s.mem ∧
        t.pdes = s.pdes.map (fun q => if q.obj = o then { q with moving := false, mig := none } else q)) ∧
    (m.copied = true → m.rebinding = false → ∃ t : State, exec (.directoryRebind o) s = .next t ∧ t.mem = s.mem ∧
      t.due.length = s.due.length + 3 ∧
      t.pdes = s.pdes.map (fun q => if q.obj = o then
        { q with acks := BitVec.ofNat 5 (16 + 2 ^ (homeDie o).toNat), mig := some { m with rebinding := true } } else q)) ∧
    (m.copied = false → exec (.directoryRebind o) s = .next s) ∧
    (∀ d v, (m.rebinding = false ∨ v ≠ nextVersion p.version) → exec (.dirinvArrival d o v) s = .next s) ∧
    (∀ d : BitVec 2, m.rebinding = true → p.acks ||| BitVec.ofNat 5 (2 ^ d.toNat) ≠ 31 →
      exec (.dirinvArrival d o (nextVersion p.version)) s = .next { s with pdes := s.pdes.map (fun q => if q.obj = o then
        { q with acks := p.acks ||| BitVec.ofNat 5 (2 ^ d.toNat) } else q) }) ∧
    (∀ d : BitVec 2, m.rebinding = true → p.acks ||| BitVec.ofNat 5 (2 ^ d.toNat) = 31 → s.pdes = [p] → p.queued = [] → p.pinBars m.tier = false →
      heldLine s p.frame = none → frameStopped s p.frame = false →
      ∃ t : State, exec (.dirinvArrival d o (nextVersion p.version)) s = .next t ∧
        t.pdes = [{ p with tier := m.tier, frame := m.frame, version := nextVersion p.version, moving := false, mig := none, acks := 0 }] ∧
        (∀ k < 65536, memByte t.mem (p.frame + k) = 0) ∧
        (∀ a, a < p.frame ∨ p.frame + 65536 ≤ a → memByte t.mem a = memByte s.mem a))) ∧
  (∀ (s : State) (o : BitVec 48) (p : Pde) (m : Migration), s.pde? o = some p → p.mig = some m → m.line = true →
    (∀ d : BitVec 2, m.rebinding = true → p.acks ||| BitVec.ofNat 5 (2 ^ d.toNat) = 31 →
      (∀ r, l1Waits s (inFrame p.frame) = some r → ∃ t : State, exec (.dirinvArrival d o (nextVersion p.version)) s = .next t ∧ t.mem = s.mem ∧ t.pdes = s.pdes) ∧
      (l1Waits s (inFrame p.frame) = none →
      ∃ t : State, exec (.dirinvArrival d o (nextVersion p.version)) s = .next t ∧ t.mem = (flushFrame s p.frame).mem ∧
        t.pdes = s.pdes.map (fun q => if q.obj = o then { q with
          frame := m.frame, tier := m.tier, version := nextVersion p.version, acks := 0, mig := some { m with rebinding := false } } else q))) ∧
    (m.rebinding = true → exec (.backgroundLinePull o) s = .next s) ∧
    (∀ l, m.rebinding = false → p.lines.length ≠ 1024 →
      ((List.range 1024).filter (fun l => !Sparse.get false p.lines l && !s.bad (p.oldFrame + l * 64) &&
        !s.bad (p.oldFrame + l * 64 + 32) && (pullWait s p l).isNone)).head? = some l →
      ∃ t : State, exec (.backgroundLinePull o) s = .next t ∧
        t.mem = setBytes s.mem (p.frame + l * 64) (memBytes s.mem (p.oldFrame + l * 64) 64) ∧
        t.pdes = s.pdes.map (fun q => if q.obj = p.obj then { q with lines := Sparse.set false q.lines l true } else q)) ∧
    (m.rebinding = false → p.lines.length = 1024 → s.pdes = [p] → p.queued = [] → p.pinBars p.tier = false →
      heldLine s p.oldFrame = none → frameStopped s p.oldFrame = false →
      ∃ t : State, exec (.backgroundLinePull o) s = .next t ∧
        t.pdes = [{ p with lines := [], oldFrame := 0, moving := false, mig := none }] ∧
        (∀ k < 65536, memByte t.mem (p.oldFrame + k) = 0) ∧
        (∀ a, a < p.oldFrame ∨ p.oldFrame + 65536 ≤ a → memByte t.mem a = memByte s.mem a)))

/-- A precharge counts an activation up to 4,095 and captures the row at the threshold; a counter that fails its parity counts as
saturated, both neighbours in its channel are refreshed (rows and neighbours as log 49 numbers them) and the row is captured; a
captured row is left alone. A die that has captured 8,192 rows first releases one with the fewest accesses since its capture
(counted as log 69 says), whose counter is cleared. A refresh sets the counter to 0. A channel changes its rate alone, and not to
the reserved rate. The reset sequence leaves every team, context and device register at reset with STATE 7 after a failed first or
last step, 2 without verified firmware, else 3, keeps the record of the flash if it is valid and sets CFGDEF if not; device memory
then reads 0 (logs 2, 52). A management reset and the critical temperature run it, with free values for how its steps end, and
RESULT is 2 unless it ends in READY (log 52). POWER_LIMIT sets the throttle level and makes one step of R410 (log 52): the lowest
channel that can goes one rate down, then the clock by 100 MHz to 1.2 GHz at least, and back in the opposite order. ATTEST and
READLOG write MDATA with result 0 and clear BUSY; a refused command has result 1. (R282, R283, R284, R407, R410, R411, R412) -/
def Obligations.RowsRatesAndPowerSteps : Prop :=
  (∀ (s : State) (r : Nat), r ∉ s.captured → r < 2 ^ 29 →
    let n := min 4095 (Sparse.get 0 s.rows r + 1)
    let full := 8192 ≤ (s.captured.filter (fun x => rowDie x == rowDie r)).length
    ((¬ full ∨ (n < s.cfgField 0x08 2 1024 ∧ n ≠ 4095)) → ∃ t : State, exec (.rowPrecharge r true) s = .next t ∧ Sparse.get 0 t.rows r = n ∧
      (∀ k, k ≠ r → Sparse.get 0 t.rows k = Sparse.get 0 s.rows k) ∧
      (r ∈ t.captured ↔ s.cfgField 0x08 2 1024 ≤ n ∨ n = 4095) ∧ (∀ x ∈ s.captured, x ∈ t.captured) ∧ t.mem = s.mem) ∧
    (full → (s.cfgField 0x08 2 1024 ≤ n ∨ n = 4095) → Sparse.wf 0 s.rows = true →
      ∃ (t : State) (v : Nat), exec (.rowPrecharge r true) s = .next t ∧ v ∈ s.captured ∧ rowDie v = rowDie r ∧ v ∉ t.captured ∧
      (∀ x ∈ s.captured, rowDie x = rowDie r → Sparse.get 0 s.hits v ≤ Sparse.get 0 s.hits x) ∧
      Sparse.get 0 t.rows v = 0 ∧ Sparse.get 0 t.rows r = n ∧ r ∈ t.captured ∧ (∀ x ∈ s.captured, x ≠ v → x ∈ t.captured) ∧ t.mem = s.mem) ∧
    (¬ full → ∃ t : State, exec (.rowPrecharge r false) s = .next t ∧ r ∈ t.captured ∧ Sparse.get 0 t.rows r = 4095 ∧ t.mem = s.mem ∧
      (Sparse.wf 0 s.rows = true → (rowPlace r + 1 < rowsPerChannel → Sparse.get 0 t.rows (r + 64) = 0) ∧
        (0 < rowPlace r → Sparse.get 0 t.rows (r - 64) = 0)))) ∧
  (∀ (s : State) (r : Nat) (b : Bool), (r ∈ s.captured ∨ 2 ^ 29 ≤ r) → exec (.rowPrecharge r b) s = .next s) ∧
  (∀ (s : State) (r : Nat), ∃ t : State, exec (.refreshWindow r) s = .next t ∧ t = { s with rows := t.rows } ∧
    (∀ k, k ≠ r → Sparse.get 0 t.rows k = Sparse.get 0 s.rows k) ∧ (Sparse.wf 0 s.rows = true → Sparse.get 0 t.rows r = 0)) ∧
  (∀ (s : State) (ch : BitVec 8) (k : BitVec 2),
    (k ≠ 3 → s.changing = [] → exec (.channelRateChange ch k) s = .next { s with changing := [(ch.toNat, k)] }) ∧
    ((k = 3 ∨ s.changing ≠ []) → exec (.channelRateChange ch k) s = .next s) ∧
    (s.changing = [(ch.toNat, k)] → s.hostReqs = [] →
      exec (.rateChangeComplete ch) s = .next { s with changing := [], rates := Sparse.set 0 s.rates ch.toNat k }) ∧
    ((∀ c ∈ s.changing, c.1 ≠ ch.toNat) → exec (.rateChangeComplete ch) s = .next s)) ∧
  (∀ (s : State) (puf fw train : Bool) (cfg : List (BitVec 8)), ∃ t : State, exec (.powerOnReset puf fw train cfg) s = .next t ∧
    t.mstate = (if puf then if fw then if train then 3 else 7 else 2 else 7) ∧ t.teams = [] ∧ t.launches = [] ∧ t.ctxs = [] ∧
    t.pdes = [] ∧ t.arrays = State.reset.arrays ∧ t.bar0 = State.reset.bar0 ∧ t.others = State.reset.others ∧ t.cs = State.reset.cs ∧
    (puf = true → fw = true → (cfgOk cfg = true → t.cfg = cfg) ∧ (cfgOk cfg = false → t.cfgdef = true)) ∧
    ∀ a, a < 2 ^ 64 → memByte t.mem a = 0) ∧
  (∀ s : State,
    (let x := Config.resetSteps s.free
     exec .criticalTemperature s = exec (.powerOnReset (x.getLsbD 0) (x.getLsbD 1) (x.getLsbD 2) s.flash) s.nextFree.2) ∧
    (∀ t, exec .criticalTemperature s = .next t → exec .reset s = .next { t with mresult := if t.mstate = 3 then 0 else 2 }) ∧
    exec .mcmdRefused s = .next { s with mresult := 1 } ∧
    (∃ d, exec .attest s = .next { s with mdata := d, mresult := 0, mbusy := false } ∧ d.take 32 = bytesAt (mdataBytes s) 0 32 ∧
      d.drop 285 = leBytes 114 (Config.ed448Sign (d.take 285)).toNat) ∧
    (∃ d, exec .readlog s = .next { s with mdata := d, mresult := 0, mbusy := false } ∧ d.length ≤ 512)) ∧
  (∀ (s : State) (l : BitVec 4),
    let rate := fun (c : Nat) => Sparse.get 0 s.rates c
    (l = s.throttle → exec (.powerLimit l) s = .next s) ∧
    (s.throttle < l → s.changing = [] →
      (∀ c < 256, rate c < 2 → (∀ k < c, ¬ rate k < 2) → exec (.powerLimit l) s = .next { s with throttle := l, changing := [(c, rate c + 1)] }) ∧
      ((∀ c < 256, ¬ rate c < 2) → exec (.powerLimit l) s = .next { s with throttle := l, clock := max 1200 (s.clock - 100) })) ∧
    (l < s.throttle → s.clock < 2500 → exec (.powerLimit l) s = .next { s with throttle := l, clock := min 2500 (s.clock + 100) }) ∧
    (l < s.throttle → 2500 ≤ s.clock → s.changing = [] → ∀ c < 256, rate c ≠ 0 → (∀ k, c < k → k < 256 → rate k = 0) →
      exec (.powerLimit l) s = .next { s with throttle := l, changing := [(c, rate c - 1)] }))

/-- A PRI response to a request under way ends it (log 46): after Success the strand that waits for it has PAGE_FAULT to raise if its
walk still fails; after Invalid Request (PAGE_FAULT) or Response Failure (PROTECTION) its faulted record entry, or the next access
to the page, has the trap due without another walk; each team that waits is woken; another one changes nothing. A write to a table
line of the host stands, drops on all dies every cached translation whose leaf lies in it, and is answered once the accesses under
way that may have used what depends on the line are over; an eviction drops the entries of its die alone (log 6). An ATS
invalidation changes the host's map of a page, drops the ports' translations of it and is answered in the same way (log 60). A
snoop of a host line answers with the device's data and writes the host's. A back-invalidate response writes the line and takes it
from the directory, or leaves it shared after BISnpData; host accesses that waited are tried again (log 51). Host accesses reach
HBM only and are refused and logged outside; one that a channel, the directory or an L1 line holds waits; a read records its lines
and tells damage, and a whole granule written is repaired; a reserved frame reads as zeros, takes no write and is logged (logs 50,
69). Without a CXL port, and before READY, none of this is answered. A mailbox of a current handle takes the value; a stale handle
changes nothing. A port event changes its own bit. (R12, R143, R349, R361, R362, R370, R371, R373, R374, R375, R381) -/
def Obligations.HostAnswersSnoopsAndAccesses : Prop :=
  (∀ (s : State) (k : Nat) (c : BitVec 2), (∀ r ∈ s.resolves, r.key = k → r.kind ≠ 2) → exec (.priResponse k c) s = .next s) ∧
  (∀ (s : State) (r : Resolve) (c : BitVec 2), s.resolves = [r] → r.kind = 2 → ∃ t : State, exec (.priResponse r.key c) s = .next t ∧
    t.resolves = [] ∧ t.mem = s.mem ∧ (∀ v c, Out.pri r.key v c ∉ t.out) ∧
    let cause := if c.toNat ≤ 1 then Cause.pageFault else Cause.protection
    (∀ x ∈ t.strands, r.who = some (x.team, x.sid) → x.frame = none →
      (c = 0 → (r.va.toNat, cause) ∈ x.answered) ∧
      (c ≠ 0 → (∀ e ∈ x.arec, e.req.kind ≠ .fill → e.state = .faulted → e.key = r.key → e.trapped = false → e.fail = some (cause, r.at_)) ∧
        ((∀ e ∈ x.arec, e.key ≠ r.key) → (r.va.toNat + 2 ^ 65, cause) ∈ x.answered))) ∧
    (∀ m ∈ s.teams, r.key ∈ m.faults → Due.faultWake m.id r.key ∈ t.due)) ∧
  (∀ (s : State) (line : BitVec 64) (data : List Byte),
    let a := line.toNat / 64 * 64
    let dropped := fun (t : State) (on : BitVec 2 → Prop) => (∀ e ∈ t.tlb, e ∈ s.tlb ∧ (on e.die → e.kind = 0 → e.line ≠ a)) ∧
      (∀ e ∈ s.tlb, (e.kind ≠ 0 ∨ ¬ on e.die) → e ∈ t.tlb) ∧ t.strands = s.strands
    let answered := fun (n : Nat) (l : InFlight) (o : Nat) (t : State) => (l.over s = true → Out.snoopAnswer o ∈ t.out) ∧
      (l.over s = false → (⟨n, l⟩ : TableSnoop) ∈ t.tableSnoops ∧ (Out.snoopAnswer o ∈ t.out → Out.snoopAnswer o ∈ s.out))
    ((s.cxlUp = false ∨ s.mstate ≠ 3) →
      exec (.hostTableSnoop line data) s = .next { s with mem := setBytes s.mem (hostKey a) (data.take 64) }) ∧
    (s.cxlUp = true → s.mstate = 3 → ∃ t : State, exec (.hostTableSnoop line data) s = .next t ∧
      t.mem = setBytes s.mem (hostKey a) (data.take 64) ∧ dropped t (fun _ => True) ∧
      answered a ((dropLine s a).inFlight (usedBy s (s.tlb.filter (dependsOn s a)))) a t) ∧
    (∀ d, ∃ t : State, exec (.walkerLineEviction d line) s = .next t ∧ t.mem = s.mem ∧ dropped t (· = d)) ∧
    (∀ (pasid : BitVec 20) (host : BitVec 64),
      let g := hostPage line.toNat
      let hit := fun (e : AtsEntry) => e.page == g && pasidOf s e.part == pasid.toNat
      let parts := (s.atc.filter hit).map (·.part)
      ∃ t : State, exec (.atsInvalidation ⟨pasid, line, host⟩) s = .next t ∧ t.mem = s.mem ∧ t.strands = s.strands ∧ t.tlb = s.tlb ∧
        t.iommu = Sparse.set 0 s.iommu (pasid.toNat * 2 ^ 42 + g) ((host.toNat / 2 ^ 12) ^^^ g) ∧
        (∀ e, e ∈ t.atc ↔ e ∈ s.atc ∧ hit e = false) ∧ (s.mstate ≠ 3 → t.out = s.out) ∧
        (s.mstate = 3 → answered (2 ^ 64 + line.toNat / 2 ^ 12) (s.inFlight (fun c => parts.contains (c.extractLsb' 16 6)))
          (line.toNat / 4096 * 4096) t)) ∧
    (Memory.wf s.mem = true → data.length = 64 → ∃ t : State, exec (.hostSnoop line data) s = .next t ∧
      t.out = s.out ++ (if s.cxlUp = true ∧ s.mstate = 3 then
        [Out.snoopAnswer a, Out.hostData false (memBytes s.mem (hostKey a) 64)] else []) ∧
      (∀ k < 64, memByte t.mem (hostKey a + k) = (data[k]?).getD 0) ∧
      (∀ b, (b < hostKey a ∨ hostKey a + 64 ≤ b) → memByte t.mem b = memByte s.mem b))) ∧
  (∀ (s : State) (line : BitVec 64) (data : List Byte),
    let l := line.toNat / 64
    (Out.biSnp true l ∉ s.out → Out.biSnp false l ∉ s.out → exec (.backInvalidateResponse line data) s = .next s) ∧
    ((Out.biSnp true l ∈ s.out ∨ Out.biSnp false l ∈ s.out) → ∃ t : State,
      exec (.backInvalidateResponse line data) s = .next (serveHostReqs t) ∧ t.hostReqs = s.hostReqs ∧ t.mem = setBytes s.mem (l * 64) (data.take 64) ∧ (l ∈ t.bidir ↔ l ∈ s.bidir ∧ Out.biSnp true l ∉ s.out) ∧
      (l ∈ t.biShared ↔ Out.biSnp true l ∉ s.out) ∧
      (data.length = 64 → ∀ g, g ∈ t.poison ↔ g ∈ s.poison ∧ g / 2 ≠ l) ∧
      (∀ b, Out.biSnp b l ∉ t.out) ∧ (∀ k, k ≠ l → (k ∈ t.bidir ↔ k ∈ s.bidir) ∧ (k ∈ t.biShared ↔ k ∈ s.biShared)))) ∧
  (∀ (s : State) (w : Bool) (addr : BitVec 64) (size : Nat) (data : List Byte),
    let a := addr.toNat
    let n := if w then data.length else size
    let keys := (List.range n).map (a + ·)
    let res : Prop := ∃ k < n, isReserved s (a + k) = true
    let u := flushL1 (s.touchRows keys) (!w) (fun l => l.core / 128 == dieOf a && l.meets keys)
    let run := exec (.hostCxlMemAccess w addr size data) s
    let served : Prop := s.cxlUp = true ∧ s.mstate = 3 ∧ a < 2 ^ 39 ∧ a + n ≤ 2 ^ 39
    ((s.cxlUp = false ∨ s.mstate ≠ 3) → run = .next s) ∧
    (s.cxlUp = true → s.mstate = 3 → (2 ^ 39 ≤ a ∨ 2 ^ 39 < a + n) → run = .next (s.log (a / 2 ^ 37) 3 a)) ∧
    (served → res → run = .next (if w then s.log (dieOf a) 3 a else (s.log (dieOf a) 3 a).send (.hostData false (List.replicate n 0)))) ∧
    (served → ¬ res → ∀ r, hostWait s w a n = some r → run = .next { askFor s r with hostReqs := s.hostReqs ++ [⟨w, a, size, data⟩] }) ∧
    (served → ¬ res → hostWait s w a n = none → w = true → ∃ t : State, run = .next t ∧ t = { u with mem := setBytes u.mem a data, poison := t.poison } ∧
      ∀ g, g ∈ t.poison ↔ g ∈ u.poison ∧ ¬ (a ≤ 32 * g ∧ 32 * g + 32 ≤ a + n)) ∧
    (served → ¬ res → hostWait s w a n = none → w = false → 0 < n → ∃ t : State, run = .next t ∧ t.mem = u.mem ∧ t.strands = s.strands ∧
      (∀ l, a / 64 ≤ l → l * 64 < a + n → l ∈ t.bidir) ∧
      (t.out = s.out ++ [Out.hostData (keys.any u.bad) (memBytes u.mem a n)]) ∧
      ((∀ k ∈ keys, u.bad k = false) → t.errLog = s.errLog))) ∧
  (∀ (s : State) (h : BitVec 32) (m : BitVec 3) (x : BitVec 64),
    (s.handleOk h = true → exec (.hostMailboxWrite h m x) s = .next (s.setCtx h ((s.ctx h).setMailbox m.toNat x))) ∧
    (s.handleOk h = false → exec (.hostMailboxWrite h m x) s = .next s)) ∧
  (∀ (s : State) (p : BitVec 1) (q : BitVec 6) (up : Bool),
    (∃ t : State, exec (.hostPortDown p up) s = .next t ∧ t = { s with portsDown := t.portsDown } ∧
      ∀ j < 2, t.portsDown.getLsbD j = if j = p.toNat then !up else s.portsDown.getLsbD j) ∧
    (∃ t : State, exec (.ualinkPortDown q up) s = .next t ∧ t = { s with ualDown := t.ualDown } ∧
      ∀ j < 36, t.ualDown.getLsbD j = if j = q.toNat then !up else s.ualDown.getLsbD j))

/-- Before READY no write to a partition control block or LQTAIL has an effect. LQBASE is written while the queue is empty, with ORDER
kept for values above 13; else LQSCHED.ERR is set. A doorbell is ignored when it lies behind TAIL, sets ERR when it lies more than
the queue's length past HEAD, and is TAIL else. HEAD is read-only, and PCMDST while no team is placed; region entries above
0x10000 are stored. While a team of the partition is placed, a write to its other registers only sets PCTL.ERR; else PCTL clears
ERR by writing 1, and a range or alias entry outside its limits sets ERR. GSTAT.ERR clears by writing 1, MDATA takes bytes, MCMD
with an OP of 1 to 3 makes the mailbox busy and its command due, one with another OP or while it is busy is refused with RESULT 1,
and every other register without a row of its own stays. A pool range changes only while no page's frame lies in it. The write-
only registers PCMD, LQTAIL, GRPCMD and MCMD read as zero. (R8, R332, R368, R369, R376, R377, R396, R407, R411) -/
def Obligations.RegistersThatTheHostWrites : Prop :=
  (∀ (s : State) (p : BitVec 6) (o : BitVec 17) (x : BitVec 64) (w : BitVec 32), s.mstate ≠ 3 →
    exec (.partitionRegisterWrite p o x) s = .next s ∧ exec (.lqbaseWrite p x) s = .next s ∧ exec (.doorbell p w) s = .next s) ∧
  (∀ (s : State) (p : BitVec 6) (o : BitVec 17) (x : BitVec 64), s.mstate = 3 →
    let reg := fun off => s.pcbReg p.toNat off
    let set := fun off y => (.next (s.setPcb p.toNat off y) : Result)
    let write := exec (.partitionRegisterWrite p o x) s
    let bad := set 0 (reg 0 ||| 0x100000)
    let n := o.toNat / 8 * 8
    (reg 0x108 ≠ reg 0x110 → exec (.lqbaseWrite p x) s = set 0x118 (reg 0x118 ||| 0x100)) ∧
    (reg 0x108 = reg 0x110 → x.toNat % 16 < 14 → exec (.lqbaseWrite p x) s = set 0x100 (x &&& 0xFFFFFFFFFFFFF00F)) ∧
    (reg 0x108 = reg 0x110 → 14 ≤ x.toNat % 16 → exec (.lqbaseWrite p x) s = set 0x100 ((x &&& ~~~0xFFF) ||| (reg 0x100 &&& 0xF))) ∧
    (0x10000 ≤ n → write = set n x) ∧ (n = 0x108 → write = .next s) ∧
    (n = 0x100 → write = exec (.lqbaseWrite p x) s) ∧ (n = 0x110 → write = exec (.doorbell p (x.setWidth 32)) s) ∧
    (n < 0x10000 → n ∉ [0x020, 0x100, 0x108, 0x110, 0x118] → (∃ m ∈ s.teams, m.placed = true ∧ handlePart m.ctx = p) → write = bad) ∧
    ((∀ m ∈ s.teams, m.placed = false ∨ handlePart m.ctx ≠ p) →
      (n = 0x028 → write = .next s) ∧
      (n = 0 → write = set 0 ((reg 0 &&& 0x100000 &&& ~~~x) ||| (x &&& 0xFFFFF))) ∧
      (n = 8 → write = set 8 (x &&& ~~~3)) ∧ ((n = 0x10 ∨ n = 0x18) → write = set n (x &&& ~~~0xFFF)) ∧
      (0x200 ≤ n → n < 0x300 → n % 16 = 0 → write = if rangeOk (x &&& ~~~0xFFE) (reg (n + 8)) then set n (x &&& ~~~0xFFE) else bad) ∧
      (0x300 ≤ n → n < 0x340 → n % 16 = 8 → write =
        if aliasOk (reg (n - 8)) (x &&& ~~~0x3FFFFFFF) then set n (x &&& ~~~0x3FFFFFFF) else bad))) ∧
  (∀ (s : State) (p : BitVec 6) (v : BitVec 32), s.mstate = 3 →
    let tail : Word := (s.pcbReg p.toNat 0x110).setWidth 32
    let head : Word := (s.pcbReg p.toNat 0x108).setWidth 32
    let size := 2 ^ ((s.pcbReg p.toNat 0x100).toNat % 16 + 3)
    (2 ^ 31 ≤ (v - tail).toNat → exec (.doorbell p v) s = .next s) ∧
    ((v - tail).toNat < 2 ^ 31 → size < (v - head).toNat → exec (.doorbell p v) s =
      .next (s.setPcb p.toNat 0x118 (s.pcbReg p.toNat 0x118 ||| 0x100))) ∧
    ((v - tail).toNat < 2 ^ 31 → (v - head).toNat ≤ size → exec (.doorbell p v) s = .next (s.setPcb p.toNat 0x110 (v.setWidth 64)))) ∧
  (∀ (s : State) (o : BitVec 32) (x : BitVec 64),
    let n := o.toNat / 8 * 8
    (n = 0x3000 → x.getLsbD 3 = true → exec (.registerWrite o x) s = .next { s with guest := { s.guest with err := false } }) ∧
    (n = 0x3000 → x.getLsbD 3 = false → exec (.registerWrite o x) s = .next s) ∧
    (n = 0x6000 → (s.mbusy = true ∨ x.toNat / 2 ^ 56 = 0 ∨ 4 ≤ x.toNat / 2 ^ 56) → exec (.registerWrite o x) s = .next { s with mresult := 1 }) ∧
    (n = 0x6000 → s.mbusy = false → 1 ≤ x.toNat / 2 ^ 56 → x.toNat / 2 ^ 56 < 4 →
      exec (.registerWrite o x) s = .next { s with mbusy := true, due := s.due ++ [.command (x.toNat / 2 ^ 56)] }) ∧
    (n ≠ 0x3000 → n ≠ 0x6000 → (n < 0x6100 ∨ 0x6300 ≤ n) → exec (.registerWrite o x) s = .next s) ∧
    (0x6100 ≤ n → n < 0x6300 → s.mdata.length = 512 → ∃ d, exec (.registerWrite o x) s = .next { s with mdata := d } ∧ d.length = 512 ∧
      ∀ k < 512, d[k]? = if n - 0x6100 ≤ k ∧ k < n - 0x6100 + 8 then some (byteOf x (k - (n - 0x6100))) else s.mdata[k]?)) ∧
  (∀ (s : State) (o : BitVec 32) (x : BitVec 64),
    let n := o.toNat / 8 * 8
    let r := 0x1000 + (n - 0x1000) / 16 * 16
    let base := (s.bar r).toNat / 2 ^ 30 * 2 ^ 30
    let size := (s.bar (r + 8)).toNat % 2 ^ 16 * 2 ^ 30
    ((n < 0x1000 ∨ 0x1080 ≤ n) → exec (.poolRegisterWrite o x) s = .next s) ∧
    (0x1000 ≤ n → n < 0x1080 → (s.bar r).getLsbD 0 = true → (∃ f ∈ framesUsed s, poolKey base ≤ f ∧ f < poolKey (base + size)) →
      exec (.poolRegisterWrite o x) s = .next s) ∧
    (0x1000 ≤ n → n < 0x1080 → ((s.bar r).getLsbD 0 = false ∨ ∀ f ∈ framesUsed s, ¬ (poolKey base ≤ f ∧ f < poolKey (base + size))) →
      ∃ t : State, exec (.poolRegisterWrite o x) s = .next t ∧ t = { s with badT2 := t.badT2, bar0 := t.bar0 } ∧
        t.bar0 = (s.setBar n (if n % 16 = 0 then x &&& ~~~0x3FFFFFFE else x &&& 0xFFFF)).bar0 ∧
        ∀ f, f ∈ t.badT2 ↔ f ∈ s.badT2 ∧ ¬ (poolKey base ≤ f ∧ f < poolKey (base + size)))) ∧
  (∀ (s : State) (p : BitVec 6), partRead s p 0x020 = 0 ∧ partRead s p 0x110 = 0 ∧ barRead s 0x2000 = 0 ∧ barRead s 0x6000 = 0)

/-- Before READY a partition command has no effect, and while another is in progress it only sets PCTL.ERR. Set and clear SHARED end
with result 1 for an object without a page and 2 for one of another partition. A page that migrates keeps set SHARED in progress,
and one under line-valid migration clear SHARED; a die that holds 4,096 shared frames ends set SHARED with 3; otherwise the page's
SHARED bit alone changes, and moves to T2 that wait are given up by set SHARED, and the result is 0. Dropping host translations
removes those of the partition that came from the given root, or from every root for root 0, and no other, and is over, with
result 0, once the accesses under way of the contexts of those roots are; a later step of a command in progress goes on in the
same way. RESULT keeps its value while BUSY. (R268, R301, R302, R362, R368, R369, R407) -/
def Obligations.PartitionCommandsAct : Prop :=
  (∀ (s : State) (p : BitVec 6) (o : BitVec 48), s.mstate ≠ 3 → exec (.setShared p o) s = .next s ∧ exec (.clearShared p o) s = .next s ∧
    exec (.invalidateHostTranslations p o) s = .next s) ∧
  (∀ (s : State) (p : BitVec 6) (o : BitVec 48), s.mstate = 3 → (s.pcbReg p.toNat 0x028).getLsbD 63 = true →
    let t := s.setPcb p.toNat 0 (s.pcbReg p.toNat 0 ||| 0x100000)
    exec (.setShared p o) s = .next t ∧ exec (.clearShared p o) s = .next t ∧ exec (.invalidateHostTranslations p o) s = .next t) ∧
  (∀ (s : State) (p : BitVec 6) (o : BitVec 48), s.mstate = 3 → (s.pcbReg p.toNat 0x028).getLsbD 63 = false →
    let done := fun (t : State) (r : Nat) => (t.setPcb p.toNat 0x020 0).setPcb p.toNat 0x028 (BitVec.ofNat 64 r)
    let busy := fun (op : Nat) => (s.setPcb p.toNat 0x020 (BitVec.ofNat 64 (op * 2 ^ 61 + o.toNat))).setPcb p.toNat 0x028 (s.pcbReg p.toNat 0x028 ||| 0x8000000000000000)
    let set := { s with pdes := s.pdes.map (fun q => if q.obj = o then { q with shared := true, queued := q.queued.filter (·.1 ≠ 2) } else q) }
    let clear := { s with pdes := s.pdes.map (fun q => if q.obj = o then { q with shared := false } else q) }
    (s.pde? o = none → exec (.setShared p o) s = .next (done s 1) ∧ exec (.clearShared p o) s = .next (done s 1)) ∧
    (∀ q, s.pde? o = some q →
      (o.extractLsb' 42 6 ≠ p → exec (.setShared p o) s = .next (done s 2) ∧ exec (.clearShared p o) s = .next (done s 2)) ∧
      (o.extractLsb' 42 6 = p →
        (q.shared = true → exec (.setShared p o) s = .next (done s 0)) ∧
        (q.shared = false → q.mig.isSome = true → exec (.setShared p o) s = .next (busy 1)) ∧
        (q.shared = false → q.mig = none → q.tier ≠ 2 →
          let held := (s.pdes.filter (fun x => x.shared && x.tier ≠ 2 &&
            (dieOf x.frame == dieOf q.frame || x.mig.any (fun m => dieOf m.frame == dieOf q.frame)))).length
          (4096 ≤ held → exec (.setShared p o) s = .next (done s 3)) ∧
          (held < 4096 → exec (.setShared p o) s = .next (done set 0))) ∧
        (∀ m, q.mig = some m → m.line = true → exec (.clearShared p o) s = .next (busy 2)) ∧
        (q.mig = none → exec (.clearShared p o) s = .next (done clear 0)))) ∧
    (∃ t : State, exec (.invalidateHostTranslations p o) s = .next t ∧ t.mem = s.mem ∧ t.strands = s.strands ∧
      (let u := dropRoot s p (o.setWidth 64 <<< 12)
       let l := u.inFlight (rootedAt u p (o.setWidth 64 <<< 12))
       (l.over u = true → t.pcb = (done (busy 3) 0).pcb) ∧
       (l.over u = false → t.pcb = (busy 3).pcb ∧ (⟨2 ^ 65 + p.toNat, l⟩ : TableSnoop) ∈ t.tableSnoops)) ∧
      ∀ e, e ∈ t.tlb ↔ e ∈ s.tlb ∧ ¬ (e.kind = 0 ∧ e.part = p ∧ (o = 0 ∨ e.root &&& (~~~0xFFF : Dword) = o.setWidth 64 <<< 12)))) ∧
  (∀ (s : State) (p : BitVec 6) (o : BitVec 48) (q : Pde),
    (s.pcbReg p.toNat 0x028).getLsbD 63 = true → s.pcbReg p.toNat 0x020 = BitVec.ofNat 64 (2 ^ 61 + o.toNat) →
    s.pde? o = some q → o.extractLsb' 42 6 = p → q.shared = true →
    advancePcmd s p = (s.setPcb p.toNat 0x020 0).setPcb p.toNat 0x028 0)

/-- GROUP_CREATE fails with 3 for a parking limit above 4,096 and with 1 for a group that exists, and adds the group, with 64 for a
limit of 0, with result 0. GROUP_DESTROY of none fails with 2; of one it takes the group away, answers each parked message of
another device with status 2 and sends GWDRAW for each registered unit of another device, where the domain carries them (log 47).
CLEAR_PARTITION takes away every group of the partition and its reduction slots at this device and at its assigned switch. FABPART
is written while no team of the partition is placed, FABID once and only with ASSIGNED, and DOMMAP always, each with its reserved
bits 0. (R20, R383, R388, R389, R391, R408) -/
def Obligations.GroupAndFabricCommandsAct : Prop :=
  (∀ (s : State) (p : BitVec 6) (l : BitVec 16) (i : BitVec 14),
    let r := fun (t : State) (n : Nat) => t.setBar 0x2008 (BitVec.ofNat 64 n)
    (4096 < l.toNat → exec (.groupCreate p l i) s = .next (r s 3)) ∧
    (l.toNat ≤ 4096 → (∃ c ∈ s.groups, c.1 = i.toNat) → exec (.groupCreate p l i) s = .next (r s 1)) ∧
    (l.toNat ≤ 4096 → (∀ c ∈ s.groups, c.1 ≠ i.toNat) → ∃ t : State, exec (.groupCreate p l i) s = .next (r t 0) ∧ t = { s with groups := t.groups } ∧
      ∀ c, c ∈ t.groups ↔ c ∈ s.groups ∨ c = (i.toNat, ({ part := p, plim := if l = 0 then 64 else l.toNat } : Group))) ∧
    ((∀ c ∈ s.groups, c.1 ≠ i.toNat) → exec (.groupDestroy i) s = .next (r s 2)) ∧
    (∀ g : Group, s.groups.find? (fun c => c.1 == i.toNat) = some (i.toNat, g) →
      (∀ u ∈ s.units, u.group.toNat = s.devNum.toNat * 2 ^ 14 + i.toNat → handlePart u.ctx ≠ g.part) →
      ∃ t : State, exec (.groupDestroy i) s = .next t ∧ (∀ c, c ∈ t.groups ↔ c ∈ s.groups ∧ c.1 ≠ i.toNat) ∧ t.mem = s.mem ∧
        (∀ m ∈ g.parked, m.sdev ≠ s.devNum → carries s ptRESP m.sdev = true → ∃ q : Packet, Out.packet q ∈ t.out ∧ q.type = ptRESP ∧ q.ddev = m.sdev ∧ q.xid = m.xid ∧ q.arg = 2) ∧
        (∀ u ∈ g.regs, u.dev ≠ s.devNum → carries s ptGWDRAW u.dev = true → ∃ q : Packet, Out.packet q ∈ t.out ∧ q.type = ptGWDRAW ∧ q.ddev = u.dev ∧ q.unit = u.unit % 2 ^ 16)) ∧
    (s.units = [] → s.opens = [] → Sparse.wf {} s.slots = true → ∃ t : State, exec (.clearPartition p) s = .next t ∧ t.mem = s.mem ∧
      (∀ c, c ∈ t.groups ↔ c ∈ s.groups ∧ ∀ x ∈ s.groups, x.1 = c.1 → x.2.part ≠ p) ∧
      (∀ c ∈ t.slots, c.2.inUse = true → c.2.part = p → slotHost s c.1 ≠ s.devNum ∧ partSwitch s p ≠ some (slotHost s c.1)))) ∧
  (∀ (s : State) (p : BitVec 6) (d : BitVec 10) (x : BitVec 64),
    ((∃ m ∈ s.teams, m.placed = true ∧ handlePart m.ctx = p) → exec (.fabpartWrite p x) s = .next s) ∧
    ((∀ m ∈ s.teams, m.placed = false ∨ handlePart m.ctx ≠ p) →
      exec (.fabpartWrite p x) s = .next (s.setBar (0x2200 + 8 * p.toNat) (x &&& 0x183FF))) ∧
    ((s.assigned = true ∨ x.getLsbD 63 = false) → exec (.fabidWrite x) s = .next s) ∧
    (s.assigned = false → x.getLsbD 63 = true → exec (.fabidWrite x) s = .next (s.setBar 0x2100 (x &&& 0x80000000000003FF))) ∧
    exec (.dommapWrite d x) s = .next (s.setBar (0x8000 + 8 * d.toNat) (x &&& 0xFFE0)))

/-- Before READY a request has no effect. A packet of another type, with reserved bits or with a payload that is not LEN beats has no
effect but a log entry and, for a request, an answer of status 2. A request that the fabric MMU refuses and an atomic at no
multiple of its size are answered with status 2 and change no memory. Once the host holds no copy, no channel changes its rate and
the L1s of its die are coherent with it (logs 44, 65), a READ in its turn answers status 0 with the bytes of whole beats; a WRITE
stores its bytes (log 68) at the planned places and nowhere else and answers status 0; an integer ATOMIC of 4, 8 or 16 bytes
answers the old value and stores the new one (log 68). A request that must wait, or whose turn in its stream has not come, is
held. An answer goes to a device of the domain only. (R178, R364, R379, R381, R382, R392) -/
def Obligations.FabricRequestsArePerformedAndAnswered : Prop :=
  ∀ (s : State) (p : Packet), s.fabHeld = [] →
    let resp := fun (u t : State) (status : Nat) (bytes : List Byte) =>
      let q : Packet := Packet.load { type := ptRESP, vc := 1, ddev := p.sdev, ddie := p.sdie, sdev := p.ddev, sdie := p.ddie, part := p.part, arg := BitVec.ofNat 64 status, xid := p.xid } bytes
      t.out = u.out ++ (if carries u ptRESP p.sdev then [.packet { q with since := u.time, port := leavePort u q }] else [])
    let go := exec (.fabricRequestArrival p) s
    let sp : Space := { ctx := 0, die := p.ddie }
    let plain := fun (ty : BitVec 6) => s.mstate = 3 ∧ p.type = ty ∧ argOk p = true ∧ lenOk p = true ∧ p.seq = 0x7FFF
    let off := reqOff p
    let n := reqLen p
    let clear := fun (u : State) (w : Bool) (plan : List (Nat × Loc)) => u.devNum ≠ p.sdev ∧ l1Waits u (flushedBy sp (packetReq p) plan) = none ∧
      (∀ x ∈ plan, devWait u w x.2.key = none ∧ u.bad x.2.key = false)
    let ready := fun (u : State) (plan : List (Nat × Loc)) => prepareL1 u sp (packetReq p) plan
    (s.mstate ≠ 3 → go = .next s) ∧
    (s.mstate = 3 → (p.type ∉ [ptREAD, ptWRITE, ptATOMIC] ∨ argOk p = false ∨ lenOk p = false) → ∃ t : State, go = .next t ∧ t.mem = s.mem ∧
      t.strands = s.strands ∧ t.errLog.length = s.errLog.length + 1 ∧ (isRequest p = true → s.devNum ≠ p.sdev → resp s t 2 [])) ∧
    (plain ptATOMIC → s.devNum ≠ p.sdev → off % n ≠ 0 → ∃ t : State, go = .next t ∧ t.mem = s.mem ∧ resp s t 2 []) ∧
    (∀ u c, plain ptWRITE → fabBytes p.part .write off n 0 s = (u, .error (.fault c)) → u.devNum ≠ p.sdev →
      ∃ t : State, go = .next t ∧ t.mem = u.mem ∧ resp u t 2 []) ∧
    (∀ u r, plain ptWRITE → fabBytes p.part .write off n 0 s = (u, .error r) → (∀ c, r ≠ .fault c) →
      go = .next { askFor s r with fabHeld := [p] }) ∧
    (∀ u plan, plain ptREAD → fabBytes p.part .read (off / 32 * 32) (32 * p.len.toNat) 0 s = (u, .ok plan) →
      clear u false plan → ∃ t : State, go = .next t ∧ t.mem = (ready u plan).mem ∧
        resp u t 0 (plan.map (fun x => memByte (ready u plan).mem x.2.key))) ∧
    (∀ u plan, plain ptWRITE → fabBytes p.part .write off n 0 s = (u, .ok plan) →
      clear u true plan → ∃ t : State, go = .next t ∧ resp u t 0 [] ∧
        t.mem = plan.foldl (fun m x => setByte m x.2.key (((writeData p)[x.1]?).getD 0)) (ready u plan).mem ∧
        ∀ b, (∀ x ∈ plan, x.2.key ≠ b) → memByte t.mem b = memByte (ready u plan).mem b) ∧
    (∀ u plan, plain ptATOMIC → (packetAtom p).kind ≠ 1 → off % n = 0 → fabBytes p.part .rw off n 0 s = (u, .ok plan) → clear u true plan →
      let old := planNat (ready u plan).mem plan
      let y := leNat (p.payload.take 16) % 2 ^ (8 * n)
      let sInt := fun (x : Nat) => (BitVec.ofNat (8 * n) x).toInt
      let op := p.arg.toNat / 2 ^ 58 % 8
      let new : Option Nat := if p.arg.getLsbD 62 then (if old = leNat ((p.payload.drop 16).take 16) % 2 ^ (8 * n) then some y else none)
        else some (if op = 0 then y else if op = 1 then (old + y) % 2 ^ (8 * n) else if op = 2 then old &&& y else if op = 3 then old ||| y
          else if op = 4 then (if sInt old ≤ sInt y then old else y) else if op = 5 then (if sInt old ≤ sInt y then y else old)
          else if op = 6 then min old y else max old y)
      ∃ t : State, go = .next t ∧ resp u t 0 (leBytes n old) ∧ t.mem = match new with
        | some x => writePlan (ready u plan).mem [BitVec.ofNat 4096 x] plan
        | none => (ready u plan).mem) ∧
    (s.mstate = 3 → p.type ∈ [ptREAD, ptWRITE, ptATOMIC] → argOk p = true → lenOk p = true → p.seq ≠ 0x7FFF →
      p.seq.toNat ≠ Sparse.get 0 s.fabNext (reqStream p) → go = .next { s with fabHeld := [p] })

/-- Before READY an answer, a mailbox packet and a readiness answer have no effect. An answer to no outstanding request changes
nothing. Status 1 marks the request as refused for now; status 0 ends it without another store to memory; status 2 to an access of
a strand leaves its record entry FAULTED with FABRIC_ERROR at its address. A marked request whose turn it is leaves again
unchanged, and fails with FABRIC_ERROR where its target cannot take it; a marked group message leaves towards the home of its
group. A packet that has waited for the time of the deadlock-recovery timer at the head of its queue, on the fabric, between dies
or in the switch, moves to VC 3 where an escape route exists or it stays in the package. A context operation with a stale handle,
and table changes or a free of a busy context, change nothing; else it sets the priority, the table root and profile. A mailbox
packet writes the mailbox of a current handle of its partition, unless it asks for the check alone (the model's own bit, log 35),
and is answered with status 0, else with status 2. A readiness answer replaces the group's cache entry. (R24, R252, R254, R379,
R384, R390, R392, R393, R408) -/
def Obligations.FabricAnswersAndRetriesAct : Prop :=
  (∀ (s : State) (p : Packet), s.mstate = 3 → p.type = ptRESP → argOk p = true → lenOk p = true →
    let go := exec (.respArrival p) s
    let status := p.arg.toNat % 2 ^ 8
    (s.pending.find? (fun x => x.xid == p.xid) = none → go = .next s) ∧
    (∀ x, s.pending.find? (fun x => x.xid == p.xid) = some x →
      (status = 1 → go = .next { s with pending := s.pending.map (fun y => if y.xid = p.xid then { y with nacked := true } else y) }) ∧
      (status = 0 → x.pkt.type ∈ [ptREAD, ptWRITE, ptATOMIC] → ∃ t : State, go = .next t ∧ t.mem = s.mem ∧
        ∀ y, y ∈ t.pending ↔ y ∈ s.pending ∧ y.xid ≠ p.xid) ∧
      (∀ n, status = 2 → x.pkt.type ∈ [ptREAD, ptWRITE, ptATOMIC] → x.acc = some n → x.team = s.cs.team → x.sid = s.cs.sid →
        ∃ t : State, go = .next t ∧ t.mem = s.mem ∧ t.cs.arec.length = s.cs.arec.length ∧
          (∀ e ∈ t.cs.arec, e.seq = n → e.state = .faulted ∧ (e.trapped = false → e.fail = some (.fabricError, e.req.vaOf x.off))) ∧
          ∀ e ∈ s.cs.arec, e.seq ≠ n → e ∈ t.cs.arec))) ∧
  (∀ (s : State) (p : Packet), (s.mstate ≠ 3 → exec (.respArrival p) s = .next s) ∧ (s.mstate = 3 → (p.type ≠ ptRESP ∨ argOk p = false ∨ lenOk p = false) → ∃ t : State, exec (.respArrival p) s = .next t ∧ t.pending = s.pending ∧
    t.mem = s.mem ∧ t.errLog.length = s.errLog.length + 1)) ∧
  (∀ (s : State) (n : Nat),
    ((∀ x ∈ s.pending, x.xid = n → x.nacked = false ∨ x.pkt.type = ptGSEND ∨ mayLeave s x = false) → exec (.fabricNackResend n) s = .next s) ∧
    ((∀ x ∈ s.pending, x.xid = n → x.nacked = false ∨ x.pkt.type ≠ ptGSEND) → exec (.parkingNackRetry n) s = .next s) ∧
    (∀ x, s.pending = [x] → x.xid = n → x.nacked = true → x.pkt.type ≠ ptGSEND →
      (mayLeave s x = true → x.pkt.ddev ≠ s.devNum → carries s x.pkt.type x.pkt.ddev = true → exec (.fabricNackResend n) s = .next { s with
        pending := [{ x with nacked := false }]
        out := s.out ++ [Out.packet { x.pkt with since := s.time, port := leavePort s x.pkt }] }) ∧
      (∀ k, mayLeave s x = true → carries s x.pkt.type x.pkt.ddev = false → x.pkt.type ∈ [ptREAD, ptWRITE, ptATOMIC] → x.acc = some k →
        x.team = s.cs.team → x.sid = s.cs.sid → ∃ t : State, exec (.fabricNackResend n) s = .next t ∧ t.mem = s.mem ∧ t.pending = [] ∧
        ∀ e ∈ t.cs.arec, e.seq = k → e.state = .faulted ∧ (e.trapped = false → e.fail = some (.fabricError, e.req.vaOf x.off)))) ∧
    (∀ x, s.pending = [x] → x.xid = n → x.nacked = true → x.pkt.type = ptGSEND → armedUnit s x.pkt.group x.pkt.part = none →
      steers s x.pkt.part = true → carries s ptGSEND (homeDev x.pkt.group) = true →
      let m := { x.pkt with ddev := homeDev x.pkt.group }
      exec (.parkingNackRetry n) s = .next { s with
        pending := [{ x with nacked := false }], out := s.out ++ [Out.packet { m with since := s.time, port := leavePort s m }] }) ∧
    ((∀ p, (Out.packet p ∈ s.out ∨ Due.packet p ∈ s.due ∨ ∃ d, Out.port d p ∈ s.out) → p.xid = n → p.esc = true ∨ p.vc = 3 ∨
        (p.ddev ≠ s.devNum ∧ escapes s p.ddev = false) ∨ s.time < p.since + s.cfgField 0x14 4 200 * 1000) →
      exec (.deadlockRecoveryTimer n) s = .next s) ∧
    (∀ p, p.xid = n → p.esc = false → p.vc ≠ 3 → (p.ddev = s.devNum ∨ escapes s p.ddev = true) →
      p.since + s.cfgField 0x14 4 200 * 1000 ≤ s.time →
      let q := { p with vc := 3, esc := true }
      let m := { q with port := leavePort s q }
      (s.out = [.packet p] → ∃ t : State, exec (.deadlockRecoveryTimer n) s = .next t ∧ t.out = [.packet m] ∧ t.mem = s.mem) ∧
      (s.out = [] → s.due = [.packet p] → ∃ t : State, exec (.deadlockRecoveryTimer n) s = .next t ∧ t.due = [.packet m] ∧ t.mem = s.mem) ∧
      (∀ d, s.out = [.port d p] → s.due = [] → exec (.deadlockRecoveryTimer n) s = .next { s with out := [.port d q] }))) ∧
  (∀ (s : State) (op : BitVec 3) (h : BitVec 32) (v : BitVec 64),
    let i := handleIndex h
    let go := exec (.ctxopArrival op h v) s
    (s.handleOk h = false → go = .next s) ∧ ((op = 6 ∨ op = 7) → go = .next s) ∧
    (s.handleOk h = true →
      (op = 0 → v.toNat < 8 → go = .next (s.setEntry i { s.entry i with prio := v.setWidth 3 })) ∧ (op = 0 → 8 ≤ v.toNat → go = .next s) ∧
      ((op = 1 ∨ op = 2) → (s.entry i).busy = true → go = .next s) ∧
      (op = 1 → (s.entry i).busy = false → v.toNat / 4 % 2 ^ 10 = 0 → ∃ t : State, go = .next t ∧ t.mem = s.mem ∧
        t.entry i = { s.entry i with root := v &&& ~~~0xFFF, profile := v.setWidth 2 } ∧
        ∀ e ∈ t.tlb, e ∈ s.tlb ∧ ¬ (e.kind = 0 ∧ e.part = (s.entry i).part ∧ e.root = (s.entry i).root)))) ∧
  (∀ (s : State) (p : Packet), (s.mstate ≠ 3 → exec (.mboxArrival p) s = .next s) ∧ (s.mstate = 3 → p.type = ptMBOX → argOk p = true → lenOk p = true →
    let h : Word := p.arg.setWidth 32
    let m := (p.arg.extractLsb' 32 3).toNat
    let x := BitVec.ofNat 64 (leNat (p.data.take 8))
    let c := s.ctx h
    (s.handleOk h = true → (handlePart h = p.part ∨ p.arg.getLsbD 36 = true) → p.arg.getLsbD 37 = true →
      exec (.mboxArrival p) s = .next (respTo s p 0 [])) ∧
    (s.handleOk h = true → (handlePart h = p.part ∨ p.arg.getLsbD 36 = true) → p.arg.getLsbD 37 = false → exec (.mboxArrival p) s = .next (respTo
      (s.setCtx h (c.setMailbox m (if p.arg.getLsbD 35 then c.mailbox m ||| x else x))) p 0 [])) ∧
    (s.handleOk h = false → exec (.mboxArrival p) s = .next (respTo s p 2 (leBytes 1 Cause.staleHandle.code.toNat))) ∧
    (s.handleOk h = true → handlePart h ≠ p.part → p.arg.getLsbD 36 = false →
      exec (.mboxArrival p) s = .next (respTo s p 2 (leBytes 1 Cause.protection.code.toNat))))) ∧
  (∀ (s : State) (g : BitVec 24) (l : List (Nat × Nat)), (s.mstate ≠ 3 → exec (.readinessCacheRefresh g l) s = .next s) ∧ (s.mstate = 3 → ∃ t : State, exec (.readinessCacheRefresh g l) s = .next t ∧
    t = { s with cache := t.cache, out := t.out } ∧ Out.readiness g.toNat ∉ t.out ∧
    ∀ c, c ∈ t.cache ↔ (c ∈ s.cache ∧ c.1 ≠ g.toNat) ∨ c = (g.toNat, ({ time := s.time, entries := l } : Readiness))))

/-- Before READY no packet has an effect. At the switch, readiness counts one more for its port of arrival, up to 4,095, unless 65,536
other groups have counts, and passes on; a targeted message lowers the count of its port; another one takes the port with the
largest count, the lowest of equal ones, never its own, and with no count goes on to the home. A refusal takes the switch step
again unless targeted. At the home, a packet of an unknown group is answered with status 2, or ignored by a consumption or
withdrawal. Readiness is appended to the list and answered, with the oldest parked message if there is one. A packet goes out
where the domain carries it. A message is parked, answered with status 1 at the limits, and matched to the first free unit. A
targeted refusal, consumption or withdrawal takes its unit from the list, and a withdrawal by another device lowers the count
towards it (log 47). (R379, R383, R384, R385, R386, R387, R388) -/
def Obligations.GroupPacketsAtSwitchAndHome : Prop :=
  (∀ (s : State) (p : Packet) (d : BitVec 8), s.mstate ≠ 3 → ∀ i ∈ [Instr.gadvAtSwitch p d, .gsendAtSwitch p d, .grefuseAtSwitch p d, .gadvAtHome p,
    .gsendAtHome p, .targetedRefusalAtHome p, .gconsArrival p, .gwdrawArrival p], exec i s = .next s) ∧
  ∀ (s : State) (p : Packet) (d : BitVec 8), s.mstate = 3 →
    let ok := fun (ty : BitVec 6) => p.type = ty ∧ argOk p = true ∧ lenOk p = true
    let port := fun (e : BitVec 8) (q : Packet) => Out.port e { q with since := s.time }
    let bad := fun (ty : BitVec 6) (i : Instr) => ¬ ok ty → exec i s = .next (dropPacket s p)
    let g := p.group
    let home := homeDev g
    let msg : Packet := { p.aim false false 0 with toPark := false }
    let refusal := respTo s { p with ddev := s.devNum } 2 []
    bad ptGADV (.gadvAtSwitch p d) ∧ bad ptGSEND (.gsendAtSwitch p d) ∧ bad ptGREFUSE (.grefuseAtSwitch p d) ∧ bad ptGADV (.gadvAtHome p) ∧
    bad ptGSEND (.gsendAtHome p) ∧ bad ptGREFUSE (.targetedRefusalAtHome p) ∧ bad ptGCONS (.gconsArrival p) ∧
    bad ptGWDRAW (.gwdrawArrival p) ∧
    (ok ptGADV → 65536 ≤ s.switch.length → 65536 ≤ s.countedGroups.length → g ∉ s.countedGroups →
      exec (.gadvAtSwitch p d) s = .next (s.send (port (Config.switchPort p.ddev) p))) ∧
    (ok ptGADV → (s.switch.length < 65536 ∨ s.countedGroups.length < 65536 ∨ g ∈ s.countedGroups) →
      ∃ t : State, exec (.gadvAtSwitch p d) s = .next t ∧ t.out = s.out ++ [port (Config.switchPort p.ddev) p] ∧
      t.count g d = min (s.count g d + 1) 4095 ∧ (∀ e, e ≠ d → t.count g e = s.count g e) ∧ t = { s with switch := t.switch, out := t.out }) ∧
    (ok ptGSEND → p.targeted = true → exec (.gsendAtSwitch p d) s = .next ((s.setCount g (Config.switchPort p.ddev)
      (s.count g (Config.switchPort p.ddev) - 1)).send (port (Config.switchPort p.ddev) p))) ∧
    (ok ptGSEND → p.targeted = false → (∀ e, e ≠ d → s.count g e = 0) → exec (.gsendAtSwitch p d) s =
      .next (s.send (port (Config.switchPort home) { p with ddev := home }))) ∧
    (∀ e : BitVec 8, ok ptGSEND → p.targeted = false → e ≠ d → 0 < s.count g e → (∀ x, x ≠ d → s.count g x ≤ s.count g e) →
      (∀ x, x ≠ d → x.toNat < e.toNat → s.count g x < s.count g e) → exec (.gsendAtSwitch p d) s =
        .next ((s.setCount g e (s.count g e - 1)).send (port e { p with last := Config.switchNum.toNat }))) ∧
    (ok ptGREFUSE → p.targeted = true → exec (.grefuseAtSwitch p d) s = .next (s.send (port (Config.switchPort p.ddev) p))) ∧
    (ok ptGREFUSE → p.targeted = false → exec (.grefuseAtSwitch p d) s = exec (.gsendAtSwitch { p with type := ptGSEND } d) s) ∧
    (s.group? g p.part = none →
      (ok ptGADV → exec (.gadvAtHome p) s = .next refusal) ∧ (ok ptGSEND → exec (.gsendAtHome p) s = .next refusal) ∧
      (ok ptGREFUSE → exec (.targetedRefusalAtHome p) s = .next refusal) ∧ (ok ptGCONS → exec (.gconsArrival p) s = .next s) ∧
      (ok ptGWDRAW → home = s.devNum → p.sdev = s.devNum → exec (.gwdrawArrival p) s = .next s) ∧
      (ok ptGWDRAW → home = s.devNum → p.sdev ≠ s.devNum → exec (.gwdrawArrival p) s = .next (lowerPort s g p.sdev))) ∧
    (∀ x : Group, s.group? g p.part = some x →
      let reg : Reg := { dev := p.sdev, unit := p.unit }
      let y : Group := { x with regs := x.regs ++ [reg] }
      let z : Group := x.drop (BitVec.ofNat 10 p.last) p.unit
      let back : Packet := p.aim false false 0
      let parks := fun (y : Group) (l : List Packet) => ({ y with parked := l } : Group)
      (ok ptGADV → x.parked = [] → p.sdev ≠ s.devNum → carries s ptGREG p.sdev = true → exec (.gadvAtHome p) s = .next ((s.setGroup g y).emit
        { p with type := ptGREG, ddev := p.sdev, ddie := p.sdie, sdev := s.devNum, sdie := 0 })) ∧
      (ok ptGADV → x.parked = [] → p.sdev ≠ s.devNum → carries s ptGREG p.sdev = false → exec (.gadvAtHome p) s = .next (s.setGroup g y)) ∧
      (∀ (m : Packet) (l : List Packet), ok ptGADV → x.parked = m :: l → p.sdev ≠ s.devNum → carries s ptGREG p.sdev = true → ∃ (t : State) (q : Packet), exec (.gadvAtHome p) s = .next t ∧
        t.out = s.out ++ [Out.packet q] ∧ q.type = ptGREG ∧ q.ddev = p.sdev ∧ q.xid = p.xid ∧ q.payload = m.payload ∧ q.last = m.xid ∧
        q.parkedBit = true ∧ q.unit = p.unit ∧
        t.groups = (s.setGroup g (parks (y.take reg) l)).groups) ∧
      (ok ptGSEND → (4096 ≤ parkedTotal s ∨ x.plim ≤ x.parked.length) → exec (.gsendAtHome p) s =
        .next (respTo s { p with ddev := s.devNum, ddie := 0 } 1 [])) ∧
      (ok ptGSEND → parkedTotal s < 4096 → x.parked.length < x.plim → freeReg x = none → exec (.gsendAtHome p) s =
        .next ((countEvent s 0x2408 false).setGroup g (parks x (x.parked ++ [msg])))) ∧
      (∀ r : Reg, ok ptGSEND → parkedTotal s < 4096 → 0 < x.plim → x.parked = [] → freeReg x = some r → r.dev ≠ s.devNum → carries s ptGSEND r.dev = true →
        ∃ (t : State) (q : Packet), exec (.gsendAtHome p) s = .next t ∧ t.out = s.out ++ [Out.packet q] ∧ q.type = ptGSEND ∧ q.ddev = r.dev ∧ q.targeted = true ∧
          q.parkedBit = true ∧ q.unit = r.unit % 2 ^ 16 ∧ q.payload = p.payload ∧
          t.groups = (s.setGroup g (parks (x.take r) [])).groups) ∧
      (ok ptGREFUSE → freeReg z = none → ∃ t : State, exec (.targetedRefusalAtHome p) s = .next t ∧
        t.groups = (s.setGroup g (parks z ({ back with type := ptGSEND, last := 0 } :: x.parked))).groups) ∧
      (ok ptGCONS → exec (.gconsArrival p) s = .next (s.setGroup g (x.drop p.sdev p.unit))) ∧
      (ok ptGWDRAW → home = s.devNum → p.sdev = s.devNum → exec (.gwdrawArrival p) s = .next (s.setGroup g (x.drop p.sdev p.unit))) ∧
      (ok ptGWDRAW → home = s.devNum → p.sdev ≠ s.devNum → exec (.gwdrawArrival p) s = .next ((lowerPort s g p.sdev).setGroup g (x.drop p.sdev p.unit)))) ∧
    (ok ptGWDRAW → home ≠ s.devNum → (∀ u ∈ s.units, u.id ≠ p.unit) → exec (.gwdrawArrival p) s = .next s)

/-- Before READY no packet has an effect, and none is sent that the domain does not carry. A registration answer completes its gready
and arms its unit; one that carries a message without a unit to take it refuses the message. A message for a unit that is gone, or
for a member without an armed unit, is refused: a targeted one goes back to the home, an untargeted one to where it came from, and
the third bounce sends it to the home to be parked (logs 13, 47). A message that can be written to its unit's buffer is delivered:
the unit is consumed, the sender gets GACCEPT, the home GCONS, and the context is woken. A refusal at the sender counts a bounce
and the message leaves again. GACCEPT completes the gsend. Answers to no outstanding request change nothing. (R243, R246, R247,
R379, R385, R387, R388, R390) -/
def Obligations.GroupPacketsAtMembersAndSenders : Prop :=
  (∀ (s : State) (p : Packet), s.mstate ≠ 3 → ∀ i ∈ [Instr.gregArrival p, .gsendAtDevice p, .grefuseAtSender p, .gacceptArrival p],
    exec i s = .next s) ∧
  ∀ (s : State) (p : Packet), s.mstate = 3 →
    let ok := fun (ty : BitVec 6) => p.type = ty ∧ argOk p = true ∧ lenOk p = true
    let goes := fun (u : State) (ty : BitVec 6) (dev : BitVec 10) => dev = u.devNum ∨ carries u ty dev = true
    let bad := fun (ty : BitVec 6) (i : Instr) => ¬ ok ty → exec i s = .next (dropPacket s p)
    let sent := fun (t : State) (f : Packet → Prop) => ∃ q : Packet, (Out.packet q ∈ t.out ∨ Due.packet q ∈ t.due) ∧ f q
    bad ptGREG (.gregArrival p) ∧ bad ptGSEND (.gsendAtDevice p) ∧ bad ptGREFUSE (.grefuseAtSender p) ∧ bad ptGACCEPT (.gacceptArrival p) ∧
    (∀ (x : Pending) (n : Nat) (o : XOp), ok ptGREG → p.parkedBit = false → s.pending = [x] → x.xid = p.xid → x.pkt.type = ptGADV → x.op = some n → s.op? n = some o →
      ∃ t : State, exec (.gregArrival p) s = .next t ∧ t.pending = [] ∧ t.mem = s.mem ∧ (∀ q ∈ t.ops, q.id ≠ o.id) ∧
        t.units = s.units.map (fun u => if u.id = p.unit ∧ u.group.toNat = p.group then { u with armed := true } else u)) ∧
    (ok ptGREG → p.parkedBit = true → s.pending = [] → homeDev p.group = s.devNum → s.unit? p.unit = none →
      exec (.gregArrival p) s = .next (refuse s { p with type := ptGSEND, xid := p.last, last := 0 })) ∧
    (ok ptGREG → p.parkedBit = true → s.pending = [] → homeDev p.group ≠ s.devNum → s.unit? p.unit = none →
      exec (.gregArrival p) s = .next (refuse (lowerPort s p.group s.devNum) { p with type := ptGSEND, xid := p.last, last := 0 })) ∧
    (ok ptGSEND → s.units = [] → ∃ t : State, exec (.gsendAtDevice p) s = .next t ∧ t.mem = s.mem ∧ t.units = [] ∧
      (p.targeted = true → p.unit ≠ 0 → goes s ptGREFUSE (homeDev p.group) → sent t (fun q =>
        q = { p with type := ptGREFUSE, ddev := homeDev p.group, last := s.devNum.toNat, since := q.since, port := q.port })) ∧
      (p.targeted = true → p.unit = 0 → p.bnc ≠ 2 → goes s ptGREFUSE p.sdev → sent t (fun q => q.type = ptGREFUSE ∧ q.ddev = p.sdev ∧
        q.bnc = p.bnc + 1 ∧ q.payload = p.payload)) ∧
      (p.targeted = false → p.bnc ≠ 2 → goes s ptGREFUSE (BitVec.ofNat 10 p.last) → sent t (fun q => q.type = ptGREFUSE ∧ q.ddev = BitVec.ofNat 10 p.last ∧ q.bnc = p.bnc + 1 ∧
        q.payload = p.payload)) ∧
      ((p.targeted = false ∨ p.unit = 0) → p.bnc = 2 → goes s ptGSEND (homeDev p.group) → sent t (fun q => q.type = ptGSEND ∧ q.ddev = homeDev p.group ∧ q.toPark = true ∧
        q.payload = p.payload))) ∧
    (∀ u v imgs,
      let body := if p.payload.isEmpty then [] else [(⟨60, u.buf + 0x40, p.data.length⟩ : Elem)]
      let q : Req := { kind := .store, write := true, elems := body ++ [⟨0, u.buf + 4, 60⟩], data := bytesImg (msgHeader p p.parkedBit ++ p.data) }
      ok ptGSEND → p.targeted = false → armedUnit s p.group p.part = some u → u.fail = none → farUnder s u = false →
        s.holdTurn (unitHold u) = true → runFor s u.team (unitSpace s u) q = .done v imgs →
      ∃ t : State, exec (.gsendAtDevice p) s = .next t ∧ (∀ x ∈ t.units, x.id ≠ u.id) ∧
        (goes t ptGACCEPT p.sdev → sent t (fun q => q.type = ptGACCEPT ∧ q.ddev = p.sdev ∧ q.ddie = p.sdie ∧ q.xid = p.xid)) ∧
        (goes t ptGCONS (homeDev u.group.toNat) → sent t (fun q => q.type = ptGCONS ∧ q.ddev = homeDev u.group.toNat)) ∧
        Due.wake (BitVec.ofNat 16 (handleIndex u.ctx)) 0 ∈ t.due) ∧
    ((∀ x ∈ s.pending, x.xid = p.xid → x.pkt.type ≠ ptGSEND) →
      (ok ptGREFUSE → exec (.grefuseAtSender p) s = .next s) ∧ (ok ptGACCEPT → exec (.gacceptArrival p) s = .next s)) ∧
    (∀ x : Pending, s.pending = [x] → x.xid = p.xid → x.pkt.type = ptGSEND →
      let m : Packet := { p.aim false false 0 with type := ptGSEND, ddev := homeDev p.group, last := 0 }
      (ok ptGREFUSE → armedUnit s p.group p.part = none → steers s p.part = true → carries s ptGSEND (homeDev p.group) = true → ∃ t : State, exec (.grefuseAtSender p) s = .next t ∧
        t.pending = [{ x with pkt := m, nacked := false, bounces := x.bounces + 1 }] ∧ t.out = s.out ++ [Out.packet { m with since := s.time, port := leavePort s m }] ∧ t.mem = s.mem) ∧
      (∀ (n : Nat) (o : XOp), ok ptGACCEPT → x.op = some n → s.op? n = some o → exec (.gacceptArrival p) s = .next (({ s with pending := [] } : State).opDone o)))

/-- Before READY no packet has an effect. An open joins the slot of its KEY and partition, is REFUSED where the agreed fields differ
or its rank is attached, takes the first free slot else, and waits where there is none (log 6). A close or contribution with a
stale handle is STALE; a close takes its rank off, and the last one frees the slot with its next generation. A contribution to an
earlier round is told CLOSED; a whole one to the current round is counted and starts the deadline; the last of NPART closes the
round: it advances by one, and every counted participant is sent the status DONE, and the result in segments of 4,096 bytes (log
68), where the domain carries them. At the deadline the round closes with INCOMPLETE. A result that no operation waits for changes
nothing; CLOSED ends the round there, the result of a barrier lets its words be written, and a contribution without a result
TIMEOUT + 10 ms after it was sent ends UNAVAILABLE. A sum of INT32 is modulo 2^32. (R236, R237, R238, R239, R240, R241, R379,
R391) -/
def Obligations.ReductionSlotsAct : Prop :=
  (∀ (s : State) (p : Packet), s.mstate ≠ 3 → ∀ i ∈ [Instr.cctlOpenArrival p, .cctlCloseArrival p, .credArrival p, .cresArrival p], exec i s = .next s) ∧
  (∀ (s : State) (p : Packet), s.mstate = 3 →
    let ok := fun (ty : BitVec 6) => p.type = ty ∧ argOk p = true ∧ lenOk p = true
    let goes := fun (ty : BitVec 6) (dev : BitVec 10) => dev = s.devNum ∨ carries s ty dev = true
    let bad := fun (ty : BitVec 6) (i : Instr) => ¬ ok ty → exec i s = .next (dropPacket s p)
    let sent := fun (t : State) (f : Packet → Prop) => ∃ q : Packet, (Out.packet q ∈ t.out ∨ Due.packet q ∈ t.due) ∧ f q
    let base := if p.ddev = s.devNum then 0 else 2 ^ 18 + 256 * p.ddev.toNat
    let keys := (List.range (if p.ddev = s.devNum then 64 else 256)).map (base + ·)
    let answer := fun (t : State) (status handle : Nat) => respTo t p 0 (leBytes 1 status ++ leBytes 8 handle)
    let d : Desc := BitVec.ofNat 512 (leNat p.payload)
    let mine := fun (k : Nat) => (s.slot k).inUse && (s.slot k).part == p.part && cKEY (s.slot k).agreed == cKEY d
    let rank := p.arg.toNat % 2 ^ 10
    let k := base + p.arg.toNat / 2 ^ 10 % 2 ^ 8
    let round := p.arg.toNat / 2 ^ 18 % 2 ^ 16
    let x := s.slot k
    let current := x.inUse = true ∧ x.part = p.part ∧ x.gen.toNat = p.mseq.toNat ∧ rank ∈ x.ranks
    bad ptCCTL (.cctlOpenArrival p) ∧ bad ptCCTL (.cctlCloseArrival p) ∧ bad ptCRED (.credArrival p) ∧ bad ptCRES (.cresArrival p) ∧
    (ok ptCCTL →
      (∀ n, keys.find? mine = some n → ((s.slot n).agreed ≠ agreedOf d ∨ cRANK d ∈ (s.slot n).ranks) →
        exec (.cctlOpenArrival p) s = .next (answer s 3 0)) ∧
      (∀ n, keys.find? mine = some n → (s.slot n).agreed = agreedOf d → cRANK d ∉ (s.slot n).ranks → exec (.cctlOpenArrival p) s =
        .next (answer (s.setSlot n { s.slot n with ranks := (s.slot n).ranks ++ [cRANK d] }) 0 (collHandle (cRANK d) (n - base) p.ddev (s.slot n).gen))) ∧
      (∀ n, keys.find? mine = none → keys.find? (fun n => !(s.slot n).inUse) = some n → exec (.cctlOpenArrival p) s =
        .next (answer (s.setSlot n { inUse := true, part := p.part, agreed := agreedOf d, gen := (s.slot n).gen, ranks := [cRANK d] }) 0
          (collHandle (cRANK d) (n - base) p.ddev (s.slot n).gen))) ∧
      ((∀ n ∈ keys, mine n = false ∧ (s.slot n).inUse = true) → exec (.cctlOpenArrival p) s = .next { s with opens := s.opens ++ [p] })) ∧
    (ok ptCCTL →
      (¬ current → exec (.cctlCloseArrival p) s = .next (answer s 4 0)) ∧
      (current → x.ranks.erase rank ≠ [] → exec (.cctlCloseArrival p) s =
        .next (answer (s.setSlot k { x with ranks := x.ranks.erase rank }) 0 0)) ∧
      (current → x.ranks = [rank] → (∀ q ∈ s.opens, q.ddev ≠ p.ddev) → Sparse.wf {} s.slots = true →
        ∃ t : State, exec (.cctlCloseArrival p) s = .next t ∧ t.slot k = { gen := nextGen x.gen } ∧ (∀ n, n ≠ k → t.slot n = s.slot n) ∧
          (goes ptRESP p.sdev → sent t (fun q => q.type = ptRESP ∧ q.xid = p.xid ∧ q.data = leBytes 1 0 ++ leBytes 8 0)))) ∧
    (ok ptCRED →
      (¬ current → exec (.credArrival p) s = .next (answer s 4 0)) ∧
      (current → roundBefore round x.round = true → goes ptCRES p.sdev → ∃ t : State, exec (.credArrival p) s = .next t ∧
        sent t (fun q => q.type = ptCRES ∧ q.ddev = p.sdev ∧ q.xid = p.xid ∧ q.data.take 1 = [2])) ∧
      (current → round = x.round → (∀ c ∈ x.partials, c.rank ≠ rank ∨ c.round ≠ round) →
        (p.payload = [] ∨ segments x.agreed = 1) →
        let c : Contrib := { Contrib.ofPacket p rank round with segs := if p.payload = [] then [] else [(p.arg.toNat / 2 ^ 34 % 2 ^ 12, p.data)] }
        (x.counted.length + 1 ≠ cNPART x.agreed → ∃ t : State, exec (.credArrival p) s = .next t ∧ t.slot k = { x with counted := x.counted ++ [c], deadline := some (x.deadline.getD (s.time + cTIMEOUT x.agreed * 1000)) } ∧
          t.out = s.out ∧ t.mem = s.mem) ∧
        (x.counted.length + 1 = cNPART x.agreed → x.held = [] → ∃ t : State, exec (.credArrival p) s = .next t ∧
          t.slot k = { x with round := (x.round + 1) % 2 ^ 16, counted := [], deadline := none } ∧ t.mem = s.mem ∧
          ((∀ y ∈ x.counted, y.rank < 1024) → ∀ y ∈ x.counted ++ [c], goes ptCRES y.sdev →
            let res := (reduceRound x.agreed (x.counted ++ [c])).1
            sent t (fun q => q.type = ptCRES ∧ q.ddev = y.sdev ∧ q.xid = y.xid ∧ q.arg.toNat / 2 ^ 34 = 4095 ∧ q.data.take 1 = [0]) ∧
            ∀ j < 4, 4096 * j < res.length → sent t (fun q => q.type = ptCRES ∧ q.ddev = y.sdev ∧ q.xid = y.xid ∧ q.arg.toNat / 2 ^ 34 = j ∧
              q.data = (res.drop (4096 * j)).take 4096))))) ∧
    ((∀ o ∈ s.ops, (o.kind ≠ .collRed ∧ o.kind ≠ .collBar) ∨ o.progress ≠ 2) → ok ptCRES → exec (.cresArrival p) s = .next s) ∧
    (∀ o, ok ptCRES → s.ops = [o] → (o.kind = .collRed ∨ o.kind = .collBar) → o.progress = 2 → o.y.toNat % 2 ^ 18 = p.arg.toNat % 2 ^ 18 →
      o.y.toNat / 2 ^ 18 % 2 ^ 10 = p.sdev.toNat → o.z.toNat % 2 ^ 16 = round → p.arg.toNat / 2 ^ 34 % 2 ^ 12 = 4095 →
      let status := leNat (p.data.take 1)
      ∃ t : State, exec (.cresArrival p) s = .next t ∧ t.mem = s.mem ∧
        (status = 2 → t.ops = [{ o with progress := 6, status := 2, info := 0 }]) ∧
        (status ≠ 2 → o.kind = .collBar → o.got = 0 → p.data.length = 133 → t.ops = [{ o with
          payload := o.payload.take 64 ++ p.data.drop 5, got := 16, status := status, info := leNat ((p.data.drop 1).take 4), progress := 3 }]) ∧
        ((status = 2 ∨ (o.kind = .collBar ∧ o.got = 0)) → ∀ y, y ∈ t.pending ↔ y ∈ s.pending ∧ y.op ≠ some o.id))) ∧
  (∀ (s : State) (n : Nat),
    let x := s.slot n
    ((∀ d, x.deadline = some d → s.time < d) → exec (.slotTimeout n) s = .next s) ∧
    (∀ d, x.deadline = some d → d ≤ s.time → x.inUse = true → x.held = [] → cNPART x.agreed ≠ 0 → ∃ t : State, exec (.slotTimeout n) s = .next t ∧
      t.slot n = { x with round := (x.round + 1) % 2 ^ 16, counted := [], deadline := none } ∧ t.mem = s.mem ∧
      ∀ y ∈ x.counted, (y.sdev = s.devNum ∨ carries s ptCRES y.sdev = true) → ∃ q : Packet, (Out.packet q ∈ t.out ∨ Due.packet q ∈ t.due) ∧ q.type = ptCRES ∧ q.ddev = y.sdev ∧ q.xid = y.xid ∧
        q.data.take 1 = [1]) ∧
    ((∀ o ∈ s.ops, o.id ≠ n) → exec (.collLostContact n) s = .next s) ∧
    (∀ o, s.op? n = some o → (o.progress ≠ 2 ∨ (o.kind ≠ .collRed ∧ o.kind ≠ .collBar) ∨ s.time < o.since + cTIMEOUT o.desc * 1000 + 10000000) →
      exec (.collLostContact n) s = .next s) ∧
    (∀ o, s.ops = [o] → o.id = n → (o.kind = .collRed ∨ o.kind = .collBar) → o.progress = 2 → o.since + cTIMEOUT o.desc * 1000 + 10000000 ≤ s.time → exec (.collLostContact n) s =
      .next { s with ops := [{ o with progress := 8, status := 5 }], pending := s.pending.filter (fun y => y.op ≠ some n) })) ∧
  (∀ (d : Desc) (v : List Nat), cTYPE d = 2 → cOP d = 0 → reduceElem d v = (v.sum % 2 ^ 32, false))

/-- A fill step of no window changes nothing, nor does one of a window that has a fault to report, is stopped, has delivered every
chunk, has one under way at another device, needs a slot of a full ring, or whose strand is gone or off its tile. Else it claims
the next slot, or goes on with the one that it has claimed. A slot outside the team's frames and its partition's T0 frames leaves
a PROTECTION fault in the window and stores no chunk; one in a page that a migration holds waits. A slot of one chunk whose bytes
are all reached takes the image of the window's next chunk in its lines as they lie now, the slot is published, and the window
moves on by one chunk. A chunk that faults leaves its fault in the window, which keeps the slot and the chunk. (R168, R169, R170,
R171, R280, R301, R302) -/
def Obligations.AWindowFillsItsSlotsInOrder : Prop :=
  ∀ (s : State) (n : Nat),
    let go := exec (.windowFill n) s
    ((∀ w ∈ s.windows, w.id ≠ n) → go = .next s) ∧
    (∀ w, s.windows.find? (fun w => w.id == n) = some w →
      (w.fault.isSome = true ∨ w.stopped = true ∨ chunkTotal w.desc ≤ w.next ∨ (∀ t ∈ s.strands, t.team = w.team → t.sid = w.sid → t.live = false) ∨
        (∃ t, s.strand? w.team w.sid = some t ∧ ∃ e ∈ t.arec, e.unit.addr = w.unit.addr ∧ e.req.kind = .fill) ∨
        (w.slot = none ∧ hHEAD (windowHeader s w) + hNSLOT (windowHeader s w) ≤ hPCLAIM (windowHeader s w))) → go = .next s) ∧
    (∀ w t m s0, s.windows.find? (fun w => w.id == n) = some w → w.ready s = true → s.strand? w.team w.sid = some t → s.team? w.team = some m →
      headerPlace s w = (s0, true) →
      let h := windowHeader s0 w
      let k := w.slot.getD (hPCLAIM h)
      let s1 := if w.slot.isSome then s0 else { s0 with mem := setBytes s0.mem w.ring (leBytes 64 (setField h 0x10 8 (k + 1)).toNat) }
      let w1 := { w with slot := some k, start := if w.slot.isSome then w.start else w.next }
      let size := hSLOTSZ h
      let slot := slotAddr w1 h k
      (slotAllowed s1 m slot size = false → ∃ u : State, go = .next u ∧ u.mem = s1.mem ∧
        ∀ x ∈ u.windows, x.id = n → ∃ v, x = { w1 with fault := some (.protection, v) }) ∧
      (size = imageSize w.desc → w1.start = w.next → slotAllowed s1 m slot size = true →
        (∀ r, slotPlaces (m.ctx.extractLsb' 16 6) slot (size / 64) s1 = .error r → go = .next (askFor (s1.onWindow n (fun _ => w1)) r)) ∧
        (∀ s2 places, slotPlaces (m.ctx.extractLsb' 16 6) slot (size / 64) s1 = .ok (s2, places) →
          let got := runReq s2 { spaceOf t m with priv := w.priv } (chunkReq (imageDesc w.desc) (chunkRows w.desc w.next) .fill)
          (∀ c v, got = .trap c v → ∃ u : State, go = .next u ∧ u.mem = s2.mem ∧ ∀ x ∈ u.windows, x.id = n → x = { w1 with fault := some (c, v) }) ∧
          (∀ u imgs, got = .done u imgs → Memory.wf u.mem = true → (∀ p ∈ places, w.ring + 64 ≤ p ∨ p + 64 ≤ w.ring) →
            places.Pairwise (fun p q => p + 64 ≤ q ∨ q + 64 ≤ p) →
            ∃ v : State, go = .next v ∧ (∀ x ∈ v.windows, x.id = n → x.next = w.next + 1 ∧ x.slot = none ∧ x.fault = none) ∧
              (publish (windowHeader u w) k = none ∨ ∃ y, publish (windowHeader u w) k = some y ∧ hTAIL (windowHeader v w) = hTAIL y) ∧
              ∀ b p, b < size → places[b / 64]? = some p → memByte v.mem (p + b % 64) = imgByte imgs b))))

/-- With ARM and both links up, OFF and REFUSED on training or a write go to MEASURING, with MNONCE sent. MEASURING ends ENABLED for a
valid record under a listed key, with MACCEPT sent, and else REFUSED; also at the timeout and when ARM clears. ENABLED is fenced
when ARM clears (HOST), a link is lost (LINK), an unlisted message comes (PROTOCOL) or a deadline passes for a dropped grant
(INVAL), an unreported fault (FAULTRPT) or an asked pre-emption (PREEMPT). The fence, where no packet or guest operation is
outstanding, leaves FENCED with its cause, no grant, tag or request, each HEAD at TAIL, and the links down. FENCED leaves with the
reset for OFF. In other states these events change nothing more, and before READY neither does training (log 32). (R396, R397,
R400, R402, R403, R404, R405, R409) -/
def Obligations.GuestSiteStatesAndFence : Prop :=
  ∀ (s : State) (v : BitVec 64) (r : List Byte) (n : BitVec 16),
    let g := s.guest
    let quiet := g.packets = [] ∧ (∀ o ∈ s.ops, o.kind ≠ .gqpush ∧ o.kind ≠ .gqwait) ∧ ∀ t ∈ g.tags, t.reported = false
    let fenced := fun (c : BitVec 8) (arm : Bool) => ({ (g.reqs.foldl (fun s h => s.unhold h.1) s) with guest := { g with state := .fenced, cause := c, arm := arm, grants := [], reqs := [], packets := [], tags := [], waitReqs := [], preempt := [], notify := [], stopped := [], head := g.tail, linksUp := false } } : State)
    let measures := fun (i : Instr) => ∃ t : State, exec i s = .next t ∧ t.guest.state = .measuring ∧ t.mem = s.mem ∧ t.strands = s.strands ∧
      t.out = s.out ++ [Out.guest 0x01 [t.guest.nonce.toNat]]
    let site := fun (f : Guest → Guest) => ({ s with guest := f g } : State)
    let arm := v.getLsbD 0
    ((g.state = .off ∨ g.state = .refused) → arm = true → g.linksUp = true → measures (.gctlWrite v)) ∧
    ((g.state = .off ∨ g.state = .refused) → (arm = false ∨ g.linksUp = false) → exec (.gctlWrite v) s =
      .next (site (fun g => { g with arm := arm, state := .off }))) ∧
    (g.state = .measuring → exec (.gctlWrite v) s = .next (site (fun g => { g with arm := arm, state := if arm then .measuring else .refused }))) ∧
    (g.state = .enabled → arm = true → exec (.gctlWrite v) s = .next (site (fun g => { g with arm := true }))) ∧
    (g.state = .enabled → arm = false → quiet → exec (.gctlWrite v) s = .next (fenced 8 false)) ∧
    (g.state = .fenced → exec (.gctlWrite v) s = .next (site (fun g => { g with arm := arm }))) ∧
    (s.mstate ≠ 3 → exec .guestLinksTrained s = .next s ∧ exec .guestResetComplete s = .next s) ∧
    (s.mstate = 3 → (g.state = .off ∨ g.state = .refused) → g.arm = true → measures .guestLinksTrained) ∧
    (s.mstate = 3 → (g.state = .off ∨ g.state = .refused) → g.arm = false → exec .guestLinksTrained s =
      .next (site (fun g => { g with linksUp := true, state := .off }))) ∧
    (g.state = .enabled → quiet → exec .guestLinkLoss s = .next (fenced 9 g.arm)) ∧
    (g.state ≠ .enabled → exec .guestLinkLoss s = .next (site (fun g => { g with linksUp := false }))) ∧
    (s.mstate = 3 → g.state = .fenced → g.arm = true → measures .guestResetComplete) ∧
    (s.mstate = 3 → g.state = .fenced → g.arm = false → exec .guestResetComplete s = .next (site (fun g => { g with state := .off, linksUp := true }))) ∧
    (g.state ≠ .fenced → exec .guestResetComplete s = .next s) ∧
    (let field := fun (off len : Nat) => leNat ((r.drop off).take len)
     let valid := r.length = 320 ∧ field 0 4 = 0x4D4F5254 ∧ field 0x0C 4 = 0 ∧ field 0xA9 7 = 0 ∧ field 0x122 30 = 0 ∧
       field 0x50 32 = g.nonce.toNat ∧ (r.drop 0x70).take 57 ∈ guestKeys s ∧
       Config.ed448Verify ((r.drop 0x70).take 57) ((r.drop 0xB0).take 114) (r.take 0xB0) = true
     g.state = .measuring → ∃ t : State, exec (.mrec r) s = .next t ∧ t.mem = s.mem ∧ t.strands = s.strands ∧
       (valid → t.guest = { g with state := .enabled, gmrec := r } ∧ t.out = s.out ++ [Out.guest 0x03 []]) ∧
       (¬ valid → t.guest = { g with state := .refused } ∧ t.out = s.out)) ∧
    (g.state ≠ .measuring → exec (.mrec r) s = .next s ∧ exec .mrecTimeout s = .next s) ∧
    (g.state = .measuring → exec .mrecTimeout s = .next (site (fun g => { g with state := .refused }))) ∧
    (g.state = .enabled → quiet → exec .guestMessageUnlistedType s = .next (fenced 5 g.arm) ∧
      ((∃ c ∈ g.grants, c.1 = n.toNat ∧ c.2.told = true) → exec (.ginvDeadline n) s = .next (fenced 1 g.arm)) ∧
      ((∃ t ∈ g.tags, t.tag = n) → exec (.faultReportDeadline n) s = .next (fenced 2 g.arm)) ∧
      ((∃ x ∈ g.preempt, x.1 = n.toNat) → exec (.preemptDeadline n) s = .next (fenced 3 g.arm))) ∧
    (g.state ≠ .enabled → exec .guestMessageUnlistedType s = .next s ∧ exec (.ginvDeadline n) s = .next s ∧
      exec (.faultReportDeadline n) s = .next s ∧ exec (.preemptDeadline n) s = .next s) ∧
    ((∀ c ∈ g.grants, c.1 ≠ n.toNat ∨ c.2.told = false) → exec (.ginvDeadline n) s = .next s) ∧
    ((∀ t ∈ g.tags, t.tag ≠ n ∨ t.reported = true) → exec (.faultReportDeadline n) s = .next s) ∧
    ((∀ x ∈ g.preempt, x.1 ≠ n.toNat) → exec (.preemptDeadline n) s = .next s)

/-- A queue's base and checkpoint registers change only while it holds no packets and for an address in the HBM of dies 0 and 1; else
GSTAT.ERR is set, as it is for a change of PART. Setting STOP asks an enabled guest for pre-emption; clearing it sends QRESUME and
every held QNOTIFY, oldest first. The packet of an accepted gqpush goes into the slot of TAIL with the handle and TAIL in its
first 8 bytes, TAIL grows by one, the guest is notified, once the queue runs if it is stopped or being stopped (log 31), and the
operation completes; a full queue keeps it. QCONSUME moves HEAD within TAIL, and beyond it is a breach. PREACK stops the queue,
cancels the packets of a killed context, zeroing their slot handles, and resumes it then. (R249, R250, R398, R399, R400, R404,
R405) -/
def Obligations.GuestQueuesAct : Prop :=
  (∀ (s : State) (q : BitVec 8) (x : BitVec 64),
    let n := q.toNat
    let g := s.guest
    let err : State := { s with guest := { g with err := true } }
    let busy := gqValid s n = true ∧ gqHead s n ≠ gqTail s n
    let base := x.toNat / 2 ^ 12 * 2 ^ 12
    let reg := 0x3400 + 32 * n
    (busy ∨ 2 ^ 38 ≤ base → exec (.gqRegisterWrite q 0 x) s = .next err ∧ exec (.gqRegisterWrite q 8 x) s = .next err) ∧
    (¬ busy → base < 2 ^ 38 → exec (.gqRegisterWrite q 8 x) s = .next (s.setBar (reg + 8) (BitVec.ofNat 64 base)) ∧
      (x.toNat / 16 % 16 < 9 → exec (.gqRegisterWrite q 0 x) s =
        .next (s.setBar reg (BitVec.ofNat 64 (base + x.toNat / 16 % 16 * 16 + x.toNat % 2)))) ∧
      (9 ≤ x.toNat / 16 % 16 → exec (.gqRegisterWrite q 0 x) s =
        .next (s.setBar reg (BitVec.ofNat 64 (base + gqOrder s n * 16 + x.toNat % 2))))) ∧
    (busy → x.setWidth 6 ≠ gqPart s n → exec (.gqRegisterWrite q 0x10 x) s = exec (.gqctlStopWrite q (x.getLsbD 7)) err) ∧
    (x.setWidth 6 = gqPart s n → exec (.gqRegisterWrite q 0x10 x) s = exec (.gqctlStopWrite q (x.getLsbD 7)) s) ∧
    (¬ busy → x.setWidth 6 ≠ gqPart s n → exec (.gqRegisterWrite q 0x10 x) s =
      exec (.gqctlStopWrite q (x.getLsbD 7)) (s.setBar (reg + 0x10) ((x.setWidth 6).setWidth 64))) ∧
    (n ∈ g.stop → exec (.gqctlStopWrite q true) s = .next s) ∧
    (n ∉ g.stop → g.state = .enabled → exec (.gqctlStopWrite q true) s =
      .next { s with guest := { g with stop := g.stop ++ [n], preempt := g.preempt ++ [(n, none)] }, out := s.out ++ [Out.guest 0x12 [n]] }) ∧
    (n ∉ g.stop → g.state ≠ .enabled → exec (.gqctlStopWrite q true) s = .next { s with guest := { g with stop := g.stop ++ [n] } }) ∧
    (∃ t : State, exec (.gqctlStopWrite q false) s = .next t ∧ n ∉ t.guest.stop ∧ n ∉ t.guest.stopped ∧ (∀ x, x ∈ t.guest.notify ↔ x ∈ g.notify ∧ x.1 ≠ n) ∧
      t.out = s.out ++ Out.guest 0x14 [n] :: (g.notify.filter (fun x => x.1 == n)).map (fun x => Out.guest 0x10 [n, x.2.toNat]) ∧ t.mem = s.mem)) ∧
  (∀ (s : State) (n : Nat),
    ((∀ o ∈ s.ops, o.id ≠ n) → exec (.queuePacketWrite n) s = .next s) ∧
    (∀ o : XOp, s.op? n = some o → (o.kind ≠ .gqpush ∨ o.progress = 0) → exec (.queuePacketWrite n) s = .next s) ∧
    (∀ o : XOp, s.op? n = some o → o.kind = .gqpush → o.isFree = false → o.progress ≠ 0 → o.stat = .active → s.guest.state = .enabled →
      let tail := gqTail s o.n
      let p : GPacket := { queue := o.n, seq := tail, ctx := o.ctx, team := o.team, sid := o.sid, op := o.id, compl := BitVec.ofNat 64 (leNat ((o.payload.drop 8).take 8)) }
      (gqSize s o.n ≤ (tail - gqHead s o.n).toNat → exec (.queuePacketWrite n) s = .next s) ∧
      ((tail - gqHead s o.n).toNat < gqSize s o.n → ∃ t : State, exec (.queuePacketWrite n) s = .next t ∧
        t.mem = setBytes s.mem (gqBase s o.n + tail.toNat % gqSize s o.n * 64)
          (leBytes 4 o.ctx.toNat ++ leBytes 4 tail.toNat ++ o.payload.drop 8) ∧
        (Sparse.wf 0 s.guest.tail = true → gqTail t o.n = tail + 1) ∧ (∀ x ∈ t.ops, x.id ≠ o.id) ∧
        t.guest.packets = s.guest.packets ++ [p] ∧
        (o.n ∉ s.guest.stopped → o.n ∉ s.guest.stop → t.out = s.out ++ [Out.guest 0x10 [o.n, (tail + 1).toNat]]) ∧
        ((o.n ∈ s.guest.stopped ∨ o.n ∈ s.guest.stop) → t.out = s.out ∧ t.guest.notify = s.guest.notify ++ [(o.n, tail + 1)])))) ∧
  (∀ (s : State) (q : BitVec 16) (h : BitVec 32),
    let n := q.toNat
    let g := s.guest
    let quiet := g.packets = [] ∧ (∀ o ∈ s.ops, o.kind ≠ .gqpush ∧ o.kind ≠ .gqwait) ∧ ∀ t ∈ g.tags, t.reported = false
    let ahead := (gqTail s n - gqHead s n).toNat
    (g.state ≠ .enabled → exec (.qconsume q h) s = .next s ∧ exec (.preack q) s = .next s) ∧
    (g.state = .enabled → gqValid s n = true → (h - gqHead s n).toNat ≤ ahead → ∃ t : State, exec (.qconsume q h) s = .next t ∧
      (Sparse.wf 0 g.head = true → gqHead t n = h) ∧ gqTail t n = gqTail s n ∧ t.mem = s.mem ∧ t.out = s.out ∧
      ∀ p ∈ t.guest.packets, p ∈ g.packets) ∧
    (g.state = .enabled → quiet → (gqValid s n = false ∨ ahead < (h - gqHead s n).toNat) → ∃ t : State, exec (.qconsume q h) s = .next t ∧
      t.guest.state = .fenced ∧ t.guest.cause = 5) ∧
    (g.state = .enabled → quiet → gqValid s n = false → ∃ t : State, exec (.preack q) s = .next t ∧ t.guest.state = .fenced ∧ t.guest.cause = 5) ∧
    (g.state = .enabled → gqValid s n = true → (∀ x ∈ g.preempt, x.1 = n → x.2 = none) → exec (.preack q) s =
      .next { s with guest := { g with stopped := g.stopped.filter (· ≠ n) ++ [n], preempt := g.preempt.filter (fun x => x.1 ≠ n) } }) ∧
    (∀ (p : GPacket) (c : Word), g.state = .enabled → gqValid s n = true → g.preempt = [(n, some c)] → g.packets = [p] → p.queue = n → p.ctx = c → p.compl = 0 →
      n ∉ g.stop → g.notify = [] → ∃ t : State, exec (.preack q) s = .next t ∧ t.guest.packets = [] ∧ n ∉ t.guest.stopped ∧
        t.mem = setBytes s.mem (gqBase s n + p.seq.toNat % gqSize s n * 64) (leBytes 4 0) ∧ t.out = s.out ++ [Out.guest 0x14 [n]]))

/-- A translation for no outstanding packet is answered with status 3, one that may not be used or leaves the device with 2; one that
reaches memory takes the lowest free grant of its page (log 6), with the page's permissions, and is answered with it (log 31).
GINVACK frees a grant of which GINV has been sent. FAULT for an unknown tag is a breach; for a known one it parks the packet's
team with the tag's key, or is told how the fault has ended. A COMPL write without REL is a breach of cause RELEASE. A write for a
packet that was written and is neither outstanding nor cancelled is a breach of cause LATE; another request for a packet that is
not outstanding is refused outside the queue's areas, and so is a write for a cancelled one in them. In a queue's areas a request
reads its slots and reads and writes its checkpoint; outside them, or a write to slots, is refused. One without a grant of the
packet's context, beyond its page or without the permission is refused; else it waits behind held requests that are earlier in its
queue or meet its bytes, or reaches the bytes, and COMPL completes the packet. (R324, R395, R399, R400, R401, R402, R403, R404,
R405) -/
def Obligations.GuestTranslationsAndRequestsAct : Prop :=
  (∀ (s : State) (tag q : BitVec 16) (n : BitVec 32) (va : BitVec 64) (k : BitVec 8),
    let answer := fun (u : State) (st : Nat) => ({ u with out := u.out ++ [Out.guest 0x21 [tag.toNat, st, 0, 0, 0, 0]] } : State)
    (s.guest.state ≠ .enabled → exec (.xlreq tag q n va k) s = .next s) ∧
    (s.guest.state = .enabled → (∀ p ∈ s.guest.packets, p.queue ≠ q.toNat ∨ p.seq ≠ n) → exec (.xlreq tag q n va k) s = .next (answer s 3)) ∧
    (∀ (p : GPacket) (u : State) (r : TRes), s.guest.state = .enabled → s.guest.packets.find? (fun p => p.queue == q.toNat && p.seq == n) = some p →
      translate s (bufSpace p.ctx) (if k.getLsbD 1 then (if k.getLsbD 0 then .rw else .write) else .read) false va = (u, r) →
      (((∃ a, r = .ok (.fab a)) ∨ ∃ c, r = .fault c) → exec (.xlreq tag q n va k) s = .next (answer u 2)) ∧
      (∀ a, r = .ok a → (∀ f, a ≠ .fab f) → u.guest.grants = [] → (∀ d ∈ u.pdes, d.mig = none) → ∃ (t : State) (g : Grant), exec (.xlreq tag q n va k) s = .next t ∧
        t.guest.grants = [(0, g)] ∧ g.ctx = p.ctx ∧ g.perm = grantPerm u p.ctx va (grantOrigin u p.ctx va).1 ∧ g.dropped = false ∧
        g.base = va &&& ~~~(BitVec.ofNat 64 (2 ^ g.log2 - 1)) ∧ t.mem = u.mem ∧
        t.out = u.out ++ [Out.guest 0x21 [tag.toNat, 0, 0, g.base.toNat, g.log2, g.perm.toNat]]))) ∧
  (∀ (s : State) (n : BitVec 16),
    ((∀ c ∈ s.guest.grants, c.1 ≠ n.toNat ∨ c.2.told = false) → exec (.ginvack n) s = .next s) ∧
    ((∃ c ∈ s.guest.grants, c.1 = n.toNat ∧ c.2.told = true) → s.guest.waitReqs = [] → exec (.ginvack n) s =
      .next { s with guest := { s.guest with grants := s.guest.grants.filter (fun c => c.1 ≠ n.toNat) } }) ∧
    (s.guest.state ≠ .enabled → exec (.fault n) s = .next s) ∧
    (s.guest.state = .enabled → s.guest.packets = [] → s.ops = [] → s.guest.tags = [] → ∃ t : State, exec (.fault n) s = .next t ∧
      t.guest.state = .fenced ∧ t.guest.cause = 5) ∧
    (∀ (g : GTag) (x : Nat), s.guest.state = .enabled → s.guest.tags = [g] → g.tag = n → g.reported = false → g.res = some x →
      exec (.fault n) s = .next { s with guest := { s.guest with tags := [] }, out := s.out ++ [Out.guest 0x25 [n.toNat, x]] }) ∧
    (∀ (g : GTag) (m : Team), s.guest.state = .enabled → s.guest.tags = [g] → g.tag = n → g.reported = false → g.res = none →
      s.team? g.team = some m → m.ended = false → ∃ t : State, exec (.fault n) s = .next t ∧ t.guest.tags = [{ g with reported := true }] ∧ t.mem = s.mem ∧ t.strands = s.strands ∧
        ∀ x ∈ t.teams, x.id = g.team → g.key ∈ x.faults)) ∧
  (∀ (s : State) (r : GuestReq),
    let q := r.queue.toNat
    let len := if r.area = 1 then gqSize s q * 64 else 2 ^ 16
    let a := (if r.area = 1 then gqBase s q else gqCkpt s q) + r.offset.toNat
    let go := exec (.guestMemoryRequest r) s
    let n := s.nextId
    let s1 := { s with nextId := n + 1 }
    let answer := fun (t : State) (st : Nat) (bytes : List Byte) => ({ t with out := t.out ++ [Out.guestData st bytes] } : State)
    let refused := go = .next (answer (dropGuestReq n s1) 1 [])
    let quiet := s.guest.packets = [] ∧ (∀ o ∈ s.ops, o.kind ≠ .gqpush ∧ o.kind ≠ .gqwait) ∧ ∀ t ∈ s.guest.tags, t.reported = false
    let breach := fun (c : BitVec 8) => ∃ t : State, go = .next t ∧ t.guest.state = .fenced ∧ t.guest.cause = c
    (s.guest.state ≠ .enabled → go = .next s) ∧
    (s.guest.state = .enabled → quiet → r.write = true → r.compl = true → r.rel = false → breach 6) ∧
    (s.guest.state = .enabled → (r.write = false ∨ r.compl = false ∨ r.rel = true) → (∀ x ∈ s.guest.reqs, x.1 ≠ n) →
      let found := s.guest.packets.find? (fun p => p.queue == q && p.seq == r.seq)
      let late := found = none ∧ r.write = true ∧ q < 256 ∧ 0 < (gqTail s q - r.seq).toNat ∧ (gqTail s q - r.seq).toNat < 2 ^ 31 ∧
        (q, r.seq) ∉ s.guest.cancelled
      let inArea := r.area ≠ 0 ∧ ¬ (r.write = true ∧ (q, r.seq) ∈ s.guest.cancelled)
      let waits := ∃ t : State, go = .next t ∧ t.mem = s.mem ∧ t.out = s.out ∧ t.guest.packets = s.guest.packets ∧ ∃ x ∈ t.guest.reqs, x.1 = n
      (late → quiet → breach 7) ∧ (found = none → ¬ late → ¬ inArea → refused) ∧
      (inArea → ¬ late →
        ((gqValid s q = false ∨ len < r.offset.toNat + r.size ∨ (r.area = 1 ∧ r.write = true)) → refused) ∧
        (gqValid s q = true → r.offset.toNat + r.size ≤ len → r.write = false → go = .next (answer s1 0 (memBytes s.mem a r.size))) ∧
        (gqValid s q = true → r.offset.toNat + r.size ≤ len → r.area ≠ 1 → r.write = true →
          (guestBehind s1 n r = true → waits) ∧
          (guestBehind s1 n r = false → ∃ t : State, go = .next t ∧ t.mem = setBytes s.mem a (r.data.take r.size) ∧
            t.out = s.out ++ [Out.guestData 0 []] ∧ (r.compl = false → t.guest = s.guest) ∧
            (r.compl = true → ∀ x ∈ t.guest.packets, x ∈ s.guest.packets ∧ (x.queue ≠ q ∨ x.seq ≠ r.seq))))) ∧
      (∀ p : GPacket, found = some p → ¬ inArea →
        ((∀ c ∈ s.guest.grants, c.1 ≠ r.grant.toNat) → refused) ∧
        (∀ g : Grant, s.guest.grants = [(r.grant.toNat, g)] →
          ((g.dropped = true ∨ g.ctx ≠ p.ctx ∨ 2 ^ g.log2 < r.offset.toNat + r.size ∨ (r.write = true ∧ g.perm.getLsbD 1 = false) ∨ (r.write = false ∧ g.perm.getLsbD 0 = false)) → refused) ∧
          (∀ (u : State) (imgs : List Vec), g.dropped = false → g.ctx = p.ctx → r.offset.toNat + r.size ≤ 2 ^ g.log2 →
            (if r.write then g.perm.getLsbD 1 else g.perm.getLsbD 0) = true →
            (guestBehind s1 n r = true → waits) ∧
            (guestBehind s1 n r = false → s1.holdTurn n = true → runReq s1 (bufSpace g.ctx) (if r.write then writeReq (g.base + r.offset) (r.data.take r.size) else readReq (g.base + r.offset) r.size) =
              .done u imgs → (∀ x ∈ u.guest.reqs, x.1 ≠ n) → ∃ t : State, go = .next t ∧ t.mem = u.mem ∧
              t.out = u.out ++ [Out.guestData 0 (if r.write then [] else imgBytes imgs r.size)] ∧
              (r.write = true → r.compl = true → ∀ x ∈ t.guest.packets, x.queue ≠ p.queue ∨ x.seq ≠ p.seq)))))))

/-- State.reset is READY (STATE 3) with TIME 0; no context is in use, no launch, team, page, group or slot exists, no strand is live
and nothing is outstanding; every array is split and empty; DEVID is unassigned with DEVNUM 1,023, every DOMMAP is absent without
an escape port; WALKPROF0 is that of Sv48 and WALKPROF1 that of Sv57; PCTL, PCMD and the launch queue registers are 0 but for
WEIGHT 1; the guest site is OFF. Every general register reads 0 (the model's choice, assumption 3: the spec gives none). Memory
lists nothing and has its canonical form. (R24, R26, R31, R48, R359, R369, R389, R396, R407, R408) -/
def Obligations.ResetLeavesTheMachineReady : Prop :=
  let s := State.reset
  s.Inv ∧ s.mstate = 3 ∧ s.time = 0 ∧ s.launches = [] ∧ s.teams = [] ∧ s.pdes = [] ∧ s.groups = [] ∧ s.slots = [] ∧ s.ops = [] ∧
  s.pending = [] ∧ s.tlb = [] ∧ s.out = [] ∧ s.l1 = [] ∧ s.holds = [] ∧ (∀ t ∈ s.strands, t.live = false) ∧ (∀ i, (s.entry i).state = .free) ∧
  (∀ n, s.array n = {}) ∧ s.assigned = false ∧ s.devNum = 1023 ∧ (∀ n < 1024, s.bar (0x8000 + 8 * n) = 0xFF00) ∧
  s.walkProf 0 = 0x49800831061C504A ∧ s.walkProf 1 = 0x59800831061C504A ∧
  (∀ p < 64, s.pcbReg p 0 = 0 ∧ s.pcbReg p 0x100 = 0 ∧ s.pcbReg p 0x108 = 0 ∧ s.pcbReg p 0x110 = 0 ∧ s.pcbReg p 0x118 = 1) ∧
  s.guest.state = .off ∧ s.guest.err = false ∧ (∀ r, s.cs.sc r = 0) ∧ (∀ n, s.cs.vr n = 0) ∧ (∀ n, s.cs.mr n = 0) ∧
  s.cs.scbm = 2 ∧ s.cs.flags = 0 ∧ (∀ a, memByte s.mem a = 0)

/-- Where the stepping strand is live, has no unit at the head of a queue and fetches a word w, the step at its turn (turn 7 of eight,
a choice of the model, assumption 9) puts the word in the queue of its engine and, where the queue was empty, nothing holds the
unit and no other strand of the core comes before it in the engine's round, executes the instruction that w decodes to, in the
state in which the unit has left its queue and its engine has served the strand; TIME and the clocks then move on. The first head
unit in fetch order that nothing holds is executed so, before any fetch. A prefix word is executed at once, and so is a JOIN that
nothing holds, once the queue position has moved past it. A word that has to wait goes back to the head of its queue. (R33, R34,
R35, R36, R45, R77) -/
def Obligations.AStepIssuesTheDecodedWord : Prop :=
  ∀ (s : State) (i : Instr) (t : State), s.mstate ≠ 7 → s.turn % 8 = 7 → s.cs.live = true →
    let s0 := { s with turn := (s.turn + 1) % 8 }
    let left := fun (x : State) (e : Eng) (u : EUnit) =>
      { x with served := Sparse.set 0 x.served (x.cs.engineNo e) (x.cs.slot.toNat + 1) }.onCs (fun t =>
        let t := { t.progress with q := t.q.set e ((t.q.get e).drop 1), held := false }
        { (if e = Eng.acc then { t with resume := t.resumeAddr } else t) with unit := u })
    (∀ (s1 : State) (w : Word), s.cs.headUnits = [] → s.cs.fetches = true → fetchRead s0 = .word s1 w → decode w = .ok i →
      (engineOf w = 7 → exec i s1 = .next t → step s = .next (advanceClocks t)) ∧
      (let u := buildUnit s1 w
       let s2 := s1.onCs (fun t => { t with unit := u })
       engineOf w = 6 → u.word = w → s1.cs.q.ctrl = [] → joinFate s2 w = none → s1.cs.tokHolds u = false →
        exec i (passUnit s2 u) = .next t → step s = .next (advanceClocks t)) ∧
      (∀ u : EUnit,
        let s2 := splitWord s1 w
        let e := engOf w
        engineOf w ≠ 7 → s2.nextSeq ≠ s1.nextSeq → s2.cs.q.get e = [.unit u] → u.word = w → u.skip = none → u.seq = s1.nextSeq →
        mayIssue s2 e u = true → engineTaken s2 e = false → exec i (left s2 e u) = .next t →
        (t.cs.held = false → step s = .next (advanceClocks t)) ∧
        (t.cs.held = true → ∃ x : State, step s = .next (advanceClocks x) ∧ (.unit u) ∈ x.cs.q.get e ∧ x.mem = t.mem ∧ x.others = t.others))) ∧
    (∀ (e : Eng) (u : EUnit) (l : List (Eng × EUnit)), s.cs.headUnits = (e, u) :: l → u.skip = none → decode u.word = .ok i →
      mayIssue s0 e u = true → engineTaken s0 e = false → exec i (left s0 e u) = .next t → t.cs.held = false →
      step s = .next (advanceClocks t))

/-- A sanity check of the decoder against words written out bit by bit from the formats: add, fadd, ld.d, vadd, vfma with a queue
source, mmt, accz, sfu.exp2, copy, join, EXT.IMM and EXT.IND. EXT kind 6 and an unassigned opcode are ILLEGAL_OPCODE, and a word
with a reserved bit set is ILLEGAL_FIELD. (R77, R80, R81, R82, R83, R84, R85, R86, R97) -/
def Obligations.WordsOfEveryEngineDecode : Prop :=
  -- E, opcode and the fields of the format, from bit 31 down
  decode 0b000_0000001_000011_000001_000010_0000 = .ok (.add 3 1 2) ∧
  decode 0b000_0101000_000001_000010_000011_0001 = .ok (.fadd 1 2 3 1) ∧
  decode 0b001_0000110_0010_000101_000110_111111 = .ok (.ldD 2 5 6 63) ∧
  decode 0b010_0000000_110_000001_000010_000011_1 = .ok (.vadd 6 1 2 3 1) ∧
  decode 0b010_0011011_111_000100_111000_000110_0 = .ok (.vfma 7 4 56 6 0) ∧
  decode 0b011_0000000_010_0001_0011_0101_011_0_1_1_0 = .ok (.mmt 2 1 3 5 3 0 1 1) ∧
  decode 0b011_0000100_101_00000000_0111_000_1_000 = .ok (.accz 5 7 1) ∧
  decode 0b100_0000000_111_000001_000010_000_101_0 = .ok (.sfuExp2 7 1 2 5) ∧
  decode 0b101_0000000_000001_000010_000011_0100 = .ok (.copy 1 2 3 4) ∧
  decode 0b110_0000000_1_0_1_0_0_1_0000000000000000 = .ok (.join 1 0 1 0 0 1) ∧
  decode 0b111_000_00000000000000000000000111 = .ok (.extImm 7) ∧
  decode 0b111_101_000101_1_0_1_00000000000000000 = .ok (.extInd 5 1 0 1) ∧
  decode 0b111_110_00000000000000000000000000 = .error .illegalOpcode ∧
  decode 0b000_1111111_0000000000000000000000 = .error .illegalOpcode ∧
  decode 0b000_0000001_000011_000001_000010_0001 = .error .illegalField

/-- For every well-formed instruction word i of the opcode table, with every operand at every value its encoding admits, the decoder
reads i from the word that the encoder gives for i, and from its four bytes in memory, lowest first, followed by anything.
Conversely, a word that decodes to i is the word of i, and i is an instruction word: no two words have one meaning, and no
reserved bit is dropped. (R77, R80, R81, R82, R83, R84, R85, R86, R97, R98) -/
def Obligations.EveryWordRoundTrips : Prop :=
  (∀ i : Instr, i.wf = true → decode (encode i) = .ok i ∧ ∀ rest, decodeBytes (bytesOfWord (encode i) ++ rest) = some (i, rest)) ∧
  (∀ (w : Word) (i : Instr), decode w = .ok i → encode i = w ∧ i.isWord = true)

/-- From every state in which memory is in its canonical form (addresses strictly rising, and no byte listed that reads as an unlisted
one), also one that no run reaches, a step that answers a next state leaves it so. So equal memories are equal data, however they
came about. (R6, R51, R282, R292, R407) -/
def Obligations.EveryStepKeepsMemoryCanonical : Prop :=
  ∀ s t : State, s.Inv → step s = .next t → t.Inv

/-- A VEC or SFU word that answers a next state leaves every byte of memory and everything outside the strands unchanged, but for the
team and launch that a trap without a handler ends, the log of an uncorrectable error, and a counter of the model. Where the
strand takes or drops no trap frame, its context and place, its pc, its descriptors, the views, the trap vector, the rounding and
scoreboard modes and its windows' bases are as before. (R34, R40, R90, R181, R200, R343, R346) -/
def Obligations.VectorAndFunctionWordsTouchOnlyTheirStrand : Prop :=
  ∀ (s t : State) (i : Instr), i.isWord = true → (engineOf (encode i) = 2 ∨ engineOf (encode i) = 4) → exec i s = .next t →
    t = { s with cs := t.cs, others := t.others, teams := t.teams, launches := t.launches, free := t.free, errLog := t.errLog } ∧
    (∀ a, memByte t.mem a = memByte s.mem a) ∧
    (t.cs.frame = s.cs.frame → t.cs.ctx = s.cs.ctx ∧ t.cs.team = s.cs.team ∧ t.cs.sid = s.cs.sid ∧ t.cs.die = s.cs.die ∧
      t.cs.tile = s.cs.tile ∧ t.cs.core = s.cs.core ∧ t.cs.pc = s.cs.pc ∧ t.cs.d = s.cs.d ∧ t.cs.p = s.cs.p ∧ t.cs.pp = s.cs.pp ∧
      t.cs.tvec = s.cs.tvec ∧ t.cs.rndm = s.cs.rndm ∧ t.cs.scbm = s.cs.scbm ∧ t.cs.tsbase = s.cs.tsbase ∧ t.cs.dswbase = s.cs.dswbase)
end

