-- ==== Sys2Proof/Laws/Dispatch.lean ====
section
/-! SUPPORT. One equation per constructor: `exec` runs its meaning. -/

namespace Sys2Proof.Machine

@[simp] theorem exec_nop (s : State) : exec (.nop) s = execNop s := rfl
@[simp] theorem exec_add (d : BitVec 6) (a : BitVec 6) (b : BitVec 6) (s : State) : exec (.add d a b) s = execAdd d a b s := rfl
@[simp] theorem exec_sub (d : BitVec 6) (a : BitVec 6) (b : BitVec 6) (s : State) : exec (.sub d a b) s = execSub d a b s := rfl
@[simp] theorem exec_mul (d : BitVec 6) (a : BitVec 6) (b : BitVec 6) (s : State) : exec (.mul d a b) s = execMul d a b s := rfl
@[simp] theorem exec_mulhS (d : BitVec 6) (a : BitVec 6) (b : BitVec 6) (s : State) : exec (.mulhS d a b) s = execMulhS d a b s := rfl
@[simp] theorem exec_mulhN (d : BitVec 6) (a : BitVec 6) (b : BitVec 6) (s : State) : exec (.mulhN d a b) s = execMulhN d a b s := rfl
@[simp] theorem exec_divS (d : BitVec 6) (a : BitVec 6) (b : BitVec 6) (t : BitVec 1) (s : State) : exec (.divS d a b t) s = execDivS d a b t s := rfl
@[simp] theorem exec_divN (d : BitVec 6) (a : BitVec 6) (b : BitVec 6) (t : BitVec 1) (s : State) : exec (.divN d a b t) s = execDivN d a b t s := rfl
@[simp] theorem exec_remS (d : BitVec 6) (a : BitVec 6) (b : BitVec 6) (t : BitVec 1) (s : State) : exec (.remS d a b t) s = execRemS d a b t s := rfl
@[simp] theorem exec_remN (d : BitVec 6) (a : BitVec 6) (b : BitVec 6) (t : BitVec 1) (s : State) : exec (.remN d a b t) s = execRemN d a b t s := rfl
@[simp] theorem exec_and (d : BitVec 6) (a : BitVec 6) (b : BitVec 6) (s : State) : exec (.and d a b) s = execAnd d a b s := rfl
@[simp] theorem exec_or (d : BitVec 6) (a : BitVec 6) (b : BitVec 6) (s : State) : exec (.or d a b) s = execOr d a b s := rfl
@[simp] theorem exec_xor (d : BitVec 6) (a : BitVec 6) (b : BitVec 6) (s : State) : exec (.xor d a b) s = execXor d a b s := rfl
@[simp] theorem exec_andn (d : BitVec 6) (a : BitVec 6) (b : BitVec 6) (s : State) : exec (.andn d a b) s = execAndn d a b s := rfl
@[simp] theorem exec_shl (d : BitVec 6) (a : BitVec 6) (b : BitVec 6) (s : State) : exec (.shl d a b) s = execShl d a b s := rfl
@[simp] theorem exec_shrN (d : BitVec 6) (a : BitVec 6) (b : BitVec 6) (s : State) : exec (.shrN d a b) s = execShrN d a b s := rfl
@[simp] theorem exec_shrS (d : BitVec 6) (a : BitVec 6) (b : BitVec 6) (s : State) : exec (.shrS d a b) s = execShrS d a b s := rfl
@[simp] theorem exec_rot (d : BitVec 6) (a : BitVec 6) (b : BitVec 6) (s : State) : exec (.rot d a b) s = execRot d a b s := rfl
@[simp] theorem exec_minS (d : BitVec 6) (a : BitVec 6) (b : BitVec 6) (s : State) : exec (.minS d a b) s = execMinS d a b s := rfl
@[simp] theorem exec_minN (d : BitVec 6) (a : BitVec 6) (b : BitVec 6) (s : State) : exec (.minN d a b) s = execMinN d a b s := rfl
@[simp] theorem exec_maxS (d : BitVec 6) (a : BitVec 6) (b : BitVec 6) (s : State) : exec (.maxS d a b) s = execMaxS d a b s := rfl
@[simp] theorem exec_maxN (d : BitVec 6) (a : BitVec 6) (b : BitVec 6) (s : State) : exec (.maxN d a b) s = execMaxN d a b s := rfl
@[simp] theorem exec_clz (d : BitVec 6) (a : BitVec 6) (s : State) : exec (.clz d a) s = execClz d a s := rfl
@[simp] theorem exec_ctz (d : BitVec 6) (a : BitVec 6) (s : State) : exec (.ctz d a) s = execCtz d a s := rfl
@[simp] theorem exec_popc (d : BitVec 6) (a : BitVec 6) (s : State) : exec (.popc d a) s = execPopc d a s := rfl
@[simp] theorem exec_sel (d : BitVec 6) (a : BitVec 6) (b : BitVec 6) (f : BitVec 4) (s : State) : exec (.sel d a b f) s = execSel d a b f s := rfl
@[simp] theorem exec_cmp (d : BitVec 6) (a : BitVec 6) (b : BitVec 6) (c : BitVec 4) (s : State) : exec (.cmp d a b c) s = execCmp d a b c s := rfl
@[simp] theorem exec_addi (d : BitVec 6) (a : BitVec 6) (i1 : BitVec 10) (s : State) : exec (.addi d a i1) s = execAddi d a i1 s := rfl
@[simp] theorem exec_andi (d : BitVec 6) (a : BitVec 6) (i1 : BitVec 10) (s : State) : exec (.andi d a i1) s = execAndi d a i1 s := rfl
@[simp] theorem exec_ori (d : BitVec 6) (a : BitVec 6) (i1 : BitVec 10) (s : State) : exec (.ori d a i1) s = execOri d a i1 s := rfl
@[simp] theorem exec_xori (d : BitVec 6) (a : BitVec 6) (i1 : BitVec 10) (s : State) : exec (.xori d a i1) s = execXori d a i1 s := rfl
@[simp] theorem exec_shli (d : BitVec 6) (a : BitVec 6) (i1 : BitVec 10) (s : State) : exec (.shli d a i1) s = execShli d a i1 s := rfl
@[simp] theorem exec_shriN (d : BitVec 6) (a : BitVec 6) (i1 : BitVec 10) (s : State) : exec (.shriN d a i1) s = execShriN d a i1 s := rfl
@[simp] theorem exec_shriS (d : BitVec 6) (a : BitVec 6) (i1 : BitVec 10) (s : State) : exec (.shriS d a i1) s = execShriS d a i1 s := rfl
@[simp] theorem exec_li (d : BitVec 6) (i1 : BitVec 16) (s : State) : exec (.li d i1) s = execLi d i1 s := rfl
@[simp] theorem exec_bfxS (d : BitVec 6) (a : BitVec 6) (b : BitVec 6) (s : State) : exec (.bfxS d a b) s = execBfxS d a b s := rfl
@[simp] theorem exec_bfxN (d : BitVec 6) (a : BitVec 6) (b : BitVec 6) (s : State) : exec (.bfxN d a b) s = execBfxN d a b s := rfl
@[simp] theorem exec_bfi (d : BitVec 6) (a : BitVec 6) (b : BitVec 6) (s : State) : exec (.bfi d a b) s = execBfi d a b s := rfl
@[simp] theorem exec_fshl (d : BitVec 6) (a : BitVec 6) (b : BitVec 6) (s : State) : exec (.fshl d a b) s = execFshl d a b s := rfl
@[simp] theorem exec_fshr (d : BitVec 6) (a : BitVec 6) (b : BitVec 6) (s : State) : exec (.fshr d a b) s = execFshr d a b s := rfl
@[simp] theorem exec_fadd (d : BitVec 6) (a : BitVec 6) (b : BitVec 6) (p : BitVec 1) (s : State) : exec (.fadd d a b p) s = execFadd d a b p s := rfl
@[simp] theorem exec_fsub (d : BitVec 6) (a : BitVec 6) (b : BitVec 6) (p : BitVec 1) (s : State) : exec (.fsub d a b p) s = execFsub d a b p s := rfl
@[simp] theorem exec_fmul (d : BitVec 6) (a : BitVec 6) (b : BitVec 6) (p : BitVec 1) (s : State) : exec (.fmul d a b p) s = execFmul d a b p s := rfl
@[simp] theorem exec_ffma (d : BitVec 6) (a : BitVec 6) (b : BitVec 6) (p : BitVec 1) (s : State) : exec (.ffma d a b p) s = execFfma d a b p s := rfl
@[simp] theorem exec_fdiv (d : BitVec 6) (a : BitVec 6) (b : BitVec 6) (p : BitVec 1) (s : State) : exec (.fdiv d a b p) s = execFdiv d a b p s := rfl
@[simp] theorem exec_fsqrt (d : BitVec 6) (a : BitVec 6) (p : BitVec 1) (s : State) : exec (.fsqrt d a p) s = execFsqrt d a p s := rfl
@[simp] theorem exec_fmin (d : BitVec 6) (a : BitVec 6) (b : BitVec 6) (p : BitVec 1) (s : State) : exec (.fmin d a b p) s = execFmin d a b p s := rfl
@[simp] theorem exec_fmax (d : BitVec 6) (a : BitVec 6) (b : BitVec 6) (p : BitVec 1) (s : State) : exec (.fmax d a b p) s = execFmax d a b p s := rfl
@[simp] theorem exec_fcmp (d : BitVec 6) (a : BitVec 6) (b : BitVec 6) (c : BitVec 3) (p : BitVec 1) (s : State) : exec (.fcmp d a b c p) s = execFcmp d a b c p s := rfl
@[simp] theorem exec_fcvt (d : BitVec 6) (a : BitVec 6) (b : BitVec 6) (f : BitVec 4) (s : State) : exec (.fcvt d a b f) s = execFcvt d a b f s := rfl
@[simp] theorem exec_beq (a : BitVec 6) (b : BitVec 6) (o : BitVec 10) (s : State) : exec (.beq a b o) s = execBeq a b o s := rfl
@[simp] theorem exec_bne (a : BitVec 6) (b : BitVec 6) (o : BitVec 10) (s : State) : exec (.bne a b o) s = execBne a b o s := rfl
@[simp] theorem exec_bltS (a : BitVec 6) (b : BitVec 6) (o : BitVec 10) (s : State) : exec (.bltS a b o) s = execBltS a b o s := rfl
@[simp] theorem exec_bltN (a : BitVec 6) (b : BitVec 6) (o : BitVec 10) (s : State) : exec (.bltN a b o) s = execBltN a b o s := rfl
@[simp] theorem exec_bgeS (a : BitVec 6) (b : BitVec 6) (o : BitVec 10) (s : State) : exec (.bgeS a b o) s = execBgeS a b o s := rfl
@[simp] theorem exec_bgeN (a : BitVec 6) (b : BitVec 6) (o : BitVec 10) (s : State) : exec (.bgeN a b o) s = execBgeN a b o s := rfl
@[simp] theorem exec_jmp (o : BitVec 22) (s : State) : exec (.jmp o) s = execJmp o s := rfl
@[simp] theorem exec_jal (o : BitVec 22) (s : State) : exec (.jal o) s = execJal o s := rfl
@[simp] theorem exec_jr (d : BitVec 6) (a : BitVec 6) (s : State) : exec (.jr d a) s = execJr d a s := rfl
@[simp] theorem exec_loop (a : BitVec 6) (o : BitVec 16) (s : State) : exec (.loop a o) s = execLoop a o s := rfl
@[simp] theorem exec_loopi (c : BitVec 10) (o : BitVec 12) (s : State) : exec (.loopi c o) s = execLoopi c o s := rfl
@[simp] theorem exec_lbrk (l : BitVec 4) (z : BitVec 1) (a : BitVec 6) (s : State) : exec (.lbrk l z a) s = execLbrk l z a s := rfl
@[simp] theorem exec_barSync (b : BitVec 4) (m : BitVec 1) (s : State) : exec (.barSync b m) s = execBarSync b m s := rfl
@[simp] theorem exec_barArr (b : BitVec 4) (m : BitVec 1) (s : State) : exec (.barArr b m) s = execBarArr b m s := rfl
@[simp] theorem exec_barWait (b : BitVec 4) (m : BitVec 1) (s : State) : exec (.barWait b m) s = execBarWait b m s := rfl
@[simp] theorem exec_barWaitt (b : BitVec 4) (m : BitVec 1) (d : BitVec 6) (a : BitVec 6) (s : State) : exec (.barWaitt b m d a) s = execBarWaitt b m d a s := rfl
@[simp] theorem exec_barDrop (b : BitVec 4) (m : BitVec 1) (s : State) : exec (.barDrop b m) s = execBarDrop b m s := rfl
@[simp] theorem exec_evSig (e : BitVec 4) (s : State) : exec (.evSig e) s = execEvSig e s := rfl
@[simp] theorem exec_evWait (e : BitVec 4) (t : BitVec 8) (s : State) : exec (.evWait e t) s = execEvWait e t s := rfl
@[simp] theorem exec_evWaitt (e : BitVec 4) (d : BitVec 6) (a : BitVec 6) (s : State) : exec (.evWaitt e d a) s = execEvWaitt e d a s := rfl
@[simp] theorem exec_csrr (d : BitVec 6) (c : BitVec 12) (s : State) : exec (.csrr d c) s = execCsrr d c s := rfl
@[simp] theorem exec_csrw (a : BitVec 6) (c : BitVec 12) (s : State) : exec (.csrw a c) s = execCsrw a c s := rfl
@[simp] theorem exec_mbrd (d : BitVec 6) (c : BitVec 1) (n : BitVec 3) (s : State) : exec (.mbrd d c n) s = execMbrd d c n s := rfl
@[simp] theorem exec_mbwr (a : BitVec 6) (n : BitVec 3) (s : State) : exec (.mbwr a n) s = execMbwr a n s := rfl
@[simp] theorem exec_time (d : BitVec 6) (s : State) : exec (.time d) s = execTime d s := rfl
@[simp] theorem exec_timeCyc (d : BitVec 6) (s : State) : exec (.timeCyc d) s = execTimeCyc d s := rfl
@[simp] theorem exec_yield (s : State) : exec (.yield) s = execYield s := rfl
@[simp] theorem exec_yieldPause (s : State) : exec (.yieldPause) s = execYieldPause s := rfl
@[simp] theorem exec_trap (a : BitVec 6) (i1 : BitVec 16) (s : State) : exec (.trap a i1) s = execTrap a i1 s := rfl
@[simp] theorem exec_cswitch (d : BitVec 6) (a : BitVec 6) (s : State) : exec (.cswitch d a) s = execCswitch d a s := rfl
@[simp] theorem exec_park (w : BitVec 4) (m : BitVec 1) (e : BitVec 1) (t : BitVec 1) (l : BitVec 1) (r : BitVec 1) (a : BitVec 6) (b : BitVec 6) (s : State) : exec (.park w m e t l r a b) s = execPark w m e t l r a b s := rfl
@[simp] theorem exec_parkEnd (s : State) : exec (.parkEnd) s = execParkEnd s := rfl
@[simp] theorem exec_wakehint (a : BitVec 6) (b : BitVec 6) (s : State) : exec (.wakehint a b) s = execWakehint a b s := rfl
@[simp] theorem exec_ctxqSt (d : BitVec 6) (a : BitVec 6) (s : State) : exec (.ctxqSt d a) s = execCtxqSt d a s := rfl
@[simp] theorem exec_ctxqWake (d : BitVec 6) (a : BitVec 6) (s : State) : exec (.ctxqWake d a) s = execCtxqWake d a s := rfl
@[simp] theorem exec_ctxqTiers (d : BitVec 6) (a : BitVec 6) (s : State) : exec (.ctxqTiers d a) s = execCtxqTiers d a s := rfl
@[simp] theorem exec_ctxnew (d : BitVec 6) (a : BitVec 6) (s : State) : exec (.ctxnew d a) s = execCtxnew d a s := rfl
@[simp] theorem exec_ctxfree (d : BitVec 6) (a : BitVec 6) (s : State) : exec (.ctxfree d a) s = execCtxfree d a s := rfl
@[simp] theorem exec_ctxsetPrio (d : BitVec 6) (a : BitVec 6) (b : BitVec 6) (s : State) : exec (.ctxsetPrio d a b) s = execCtxsetPrio d a b s := rfl
@[simp] theorem exec_ctxsetBind (d : BitVec 6) (a : BitVec 6) (b : BitVec 6) (s : State) : exec (.ctxsetBind d a b) s = execCtxsetBind d a b s := rfl
@[simp] theorem exec_rtt (s : State) : exec (.rtt) s = execRtt s := rfl
@[simp] theorem exec_rttNext (s : State) : exec (.rttNext) s = execRttNext s := rfl
@[simp] theorem exec_halt (a : BitVec 6) (s : State) : exec (.halt a) s = execHalt a s := rfl
@[simp] theorem exec_kill (d : BitVec 6) (a : BitVec 6) (s : State) : exec (.kill d a) s = execKill d a s := rfl
@[simp] theorem exec_hingePin (d : BitVec 6) (a : BitVec 6) (b : BitVec 6) (s : State) : exec (.hingePin d a b) s = execHingePin d a b s := rfl
@[simp] theorem exec_hingeUnpin (d : BitVec 6) (a : BitVec 6) (s : State) : exec (.hingeUnpin d a) s = execHingeUnpin d a s := rfl
@[simp] theorem exec_hingeQ (d : BitVec 6) (a : BitVec 6) (s : State) : exec (.hingeQ d a) s = execHingeQ d a s := rfl
@[simp] theorem exec_hingeMove (d : BitVec 6) (a : BitVec 6) (b : BitVec 6) (s : State) : exec (.hingeMove d a b) s = execHingeMove d a b s := rfl
@[simp] theorem exec_tlbinvPart (a : BitVec 6) (s : State) : exec (.tlbinvPart a) s = execTlbinvPart a s := rfl
@[simp] theorem exec_tlbinvS2 (a : BitVec 6) (s : State) : exec (.tlbinvS2 a) s = execTlbinvS2 a s := rfl
@[simp] theorem exec_tlbinvFab (a : BitVec 6) (s : State) : exec (.tlbinvFab a) s = execTlbinvFab a s := rfl
@[simp] theorem exec_tlbinvAll (s : State) : exec (.tlbinvAll) s = execTlbinvAll s := rfl
@[simp] theorem exec_tlbinvHost (a : BitVec 6) (s : State) : exec (.tlbinvHost a) s = execTlbinvHost a s := rfl
@[simp] theorem exec_hangRd (d : BitVec 6) (a : BitVec 6) (b : BitVec 6) (s : State) : exec (.hangRd d a b) s = execHangRd d a b s := rfl
@[simp] theorem exec_ldBS (c : BitVec 4) (d : BitVec 6) (a : BitVec 6) (i1 : BitVec 6) (s : State) : exec (.ldBS c d a i1) s = execLdBS c d a i1 s := rfl
@[simp] theorem exec_ldBN (c : BitVec 4) (d : BitVec 6) (a : BitVec 6) (i1 : BitVec 6) (s : State) : exec (.ldBN c d a i1) s = execLdBN c d a i1 s := rfl
@[simp] theorem exec_ldHS (c : BitVec 4) (d : BitVec 6) (a : BitVec 6) (i1 : BitVec 6) (s : State) : exec (.ldHS c d a i1) s = execLdHS c d a i1 s := rfl
@[simp] theorem exec_ldHN (c : BitVec 4) (d : BitVec 6) (a : BitVec 6) (i1 : BitVec 6) (s : State) : exec (.ldHN c d a i1) s = execLdHN c d a i1 s := rfl
@[simp] theorem exec_ldWS (c : BitVec 4) (d : BitVec 6) (a : BitVec 6) (i1 : BitVec 6) (s : State) : exec (.ldWS c d a i1) s = execLdWS c d a i1 s := rfl
@[simp] theorem exec_ldWN (c : BitVec 4) (d : BitVec 6) (a : BitVec 6) (i1 : BitVec 6) (s : State) : exec (.ldWN c d a i1) s = execLdWN c d a i1 s := rfl
@[simp] theorem exec_ldD (c : BitVec 4) (d : BitVec 6) (a : BitVec 6) (i1 : BitVec 6) (s : State) : exec (.ldD c d a i1) s = execLdD c d a i1 s := rfl
@[simp] theorem exec_stB (c : BitVec 4) (d : BitVec 6) (a : BitVec 6) (i1 : BitVec 6) (s : State) : exec (.stB c d a i1) s = execStB c d a i1 s := rfl
@[simp] theorem exec_stH (c : BitVec 4) (d : BitVec 6) (a : BitVec 6) (i1 : BitVec 6) (s : State) : exec (.stH c d a i1) s = execStH c d a i1 s := rfl
@[simp] theorem exec_stW (c : BitVec 4) (d : BitVec 6) (a : BitVec 6) (i1 : BitVec 6) (s : State) : exec (.stW c d a i1) s = execStW c d a i1 s := rfl
@[simp] theorem exec_stD (c : BitVec 4) (d : BitVec 6) (a : BitVec 6) (i1 : BitVec 6) (s : State) : exec (.stD c d a i1) s = execStD c d a i1 s := rfl
@[simp] theorem exec_ldV (c : BitVec 4) (d : BitVec 6) (a : BitVec 6) (i1 : BitVec 6) (s : State) : exec (.ldV c d a i1) s = execLdV c d a i1 s := rfl
@[simp] theorem exec_stV (c : BitVec 4) (d : BitVec 6) (a : BitVec 6) (i1 : BitVec 6) (s : State) : exec (.stV c d a i1) s = execStV c d a i1 s := rfl
@[simp] theorem exec_ldVs (c : BitVec 4) (d : BitVec 6) (a : BitVec 6) (b : BitVec 6) (s : State) : exec (.ldVs c d a b) s = execLdVs c d a b s := rfl
@[simp] theorem exec_stVs (c : BitVec 4) (d : BitVec 6) (a : BitVec 6) (b : BitVec 6) (s : State) : exec (.stVs c d a b) s = execStVs c d a b s := rfl
@[simp] theorem exec_ldM (c : BitVec 4) (d : BitVec 4) (a : BitVec 6) (i1 : BitVec 6) (s : State) : exec (.ldM c d a i1) s = execLdM c d a i1 s := rfl
@[simp] theorem exec_stM (c : BitVec 4) (d : BitVec 4) (a : BitVec 6) (i1 : BitVec 6) (s : State) : exec (.stM c d a i1) s = execStM c d a i1 s := rfl
@[simp] theorem exec_sfetch (c : BitVec 4) (d : BitVec 6) (a : BitVec 4) (b : BitVec 6) (s : State) : exec (.sfetch c d a b) s = execSfetch c d a b s := rfl
@[simp] theorem exec_gathB (c : BitVec 4) (d : BitVec 6) (a : BitVec 6) (b : BitVec 6) (s : State) : exec (.gathB c d a b) s = execGathB c d a b s := rfl
@[simp] theorem exec_gathH (c : BitVec 4) (d : BitVec 6) (a : BitVec 6) (b : BitVec 6) (s : State) : exec (.gathH c d a b) s = execGathH c d a b s := rfl
@[simp] theorem exec_gathW (c : BitVec 4) (d : BitVec 6) (a : BitVec 6) (b : BitVec 6) (s : State) : exec (.gathW c d a b) s = execGathW c d a b s := rfl
@[simp] theorem exec_scatB (c : BitVec 4) (d : BitVec 6) (a : BitVec 6) (b : BitVec 6) (s : State) : exec (.scatB c d a b) s = execScatB c d a b s := rfl
@[simp] theorem exec_scatH (c : BitVec 4) (d : BitVec 6) (a : BitVec 6) (b : BitVec 6) (s : State) : exec (.scatH c d a b) s = execScatH c d a b s := rfl
@[simp] theorem exec_scatW (c : BitVec 4) (d : BitVec 6) (a : BitVec 6) (b : BitVec 6) (s : State) : exec (.scatW c d a b) s = execScatW c d a b s := rfl
@[simp] theorem exec_gathb (c : BitVec 4) (d : BitVec 6) (t : BitVec 1) (a : BitVec 4) (b : BitVec 6) (s : State) : exec (.gathb c d t a b) s = execGathb c d t a b s := rfl
@[simp] theorem exec_pref (l : BitVec 1) (a : BitVec 6) (i1 : BitVec 6) (s : State) : exec (.pref l a i1) s = execPref l a i1 s := rfl
@[simp] theorem exec_dld (c : BitVec 4) (d : BitVec 4) (a : BitVec 6) (i1 : BitVec 6) (s : State) : exec (.dld c d a i1) s = execDld c d a i1 s := rfl
@[simp] theorem exec_dst (c : BitVec 4) (d : BitVec 4) (a : BitVec 6) (i1 : BitVec 6) (s : State) : exec (.dst c d a i1) s = execDst c d a i1 s := rfl
@[simp] theorem exec_dset (d : BitVec 4) (a : BitVec 6) (k : BitVec 3) (s : State) : exec (.dset d a k) s = execDset d a k s := rfl
@[simp] theorem exec_rwaitf (c : BitVec 4) (d : BitVec 6) (a : BitVec 6) (b : BitVec 6) (s : State) : exec (.rwaitf c d a b) s = execRwaitf c d a b s := rfl
@[simp] theorem exec_rwaite (c : BitVec 4) (a : BitVec 6) (b : BitVec 6) (s : State) : exec (.rwaite c a b) s = execRwaite c a b s := rfl
@[simp] theorem exec_rpub (c : BitVec 4) (a : BitVec 6) (b : BitVec 6) (s : State) : exec (.rpub c a b) s = execRpub c a b s := rfl
@[simp] theorem exec_rrel (c : BitVec 4) (a : BitVec 6) (b : BitVec 6) (s : State) : exec (.rrel c a b) s = execRrel c a b s := rfl
@[simp] theorem exec_rclaimP (c : BitVec 4) (d : BitVec 6) (a : BitVec 6) (s : State) : exec (.rclaimP c d a) s = execRclaimP c d a s := rfl
@[simp] theorem exec_rclaimC (c : BitVec 4) (d : BitVec 6) (a : BitVec 6) (s : State) : exec (.rclaimC c d a) s = execRclaimC c d a s := rfl
@[simp] theorem exec_wmap (c : BitVec 4) (d : BitVec 4) (a : BitVec 6) (b : BitVec 6) (s : State) : exec (.wmap c d a b) s = execWmap c d a b s := rfl
@[simp] theorem exec_wmapOff (c : BitVec 4) (a : BitVec 6) (s : State) : exec (.wmapOff c a) s = execWmapOff c a s := rfl
@[simp] theorem exec_wadv (c : BitVec 4) (a : BitVec 6) (b : BitVec 6) (s : State) : exec (.wadv c a b) s = execWadv c a b s := rfl
@[simp] theorem exec_amoW (p : BitVec 4) (d : BitVec 6) (a : BitVec 6) (b : BitVec 6) (s : State) : exec (.amoW p d a b) s = execAmoW p d a b s := rfl
@[simp] theorem exec_amoD (p : BitVec 4) (d : BitVec 6) (a : BitVec 6) (b : BitVec 6) (s : State) : exec (.amoD p d a b) s = execAmoD p d a b s := rfl
@[simp] theorem exec_amoF (p : BitVec 4) (d : BitVec 6) (a : BitVec 6) (b : BitVec 6) (s : State) : exec (.amoF p d a b) s = execAmoF p d a b s := rfl
@[simp] theorem exec_casW (t : BitVec 1) (d : BitVec 6) (a : BitVec 6) (b : BitVec 6) (s : State) : exec (.casW t d a b) s = execCasW t d a b s := rfl
@[simp] theorem exec_casD (t : BitVec 1) (d : BitVec 6) (a : BitVec 6) (b : BitVec 6) (s : State) : exec (.casD t d a b) s = execCasD t d a b s := rfl
@[simp] theorem exec_casQ (t : BitVec 1) (d : BitVec 6) (a : BitVec 6) (b : BitVec 6) (s : State) : exec (.casQ t d a b) s = execCasQ t d a b s := rfl
@[simp] theorem exec_fenceCls (c : BitVec 4) (k : BitVec 4) (s : State) : exec (.fenceCls c k) s = execFenceCls c k s := rfl
@[simp] theorem exec_fence (s : State) : exec (.fence) s = execFence s := rfl
@[simp] theorem exec_fenceView (s : State) : exec (.fenceView) s = execFenceView s := rfl
@[simp] theorem exec_fld (c : BitVec 4) (d : BitVec 6) (a : BitVec 6) (i1 : BitVec 6) (s : State) : exec (.fld c d a i1) s = execFld c d a i1 s := rfl
@[simp] theorem exec_fst (c : BitVec 4) (d : BitVec 6) (a : BitVec 6) (i1 : BitVec 6) (s : State) : exec (.fst c d a i1) s = execFst c d a i1 s := rfl
@[simp] theorem exec_famo (p : BitVec 4) (d : BitVec 6) (a : BitVec 6) (b : BitVec 6) (s : State) : exec (.famo p d a b) s = execFamo p d a b s := rfl
@[simp] theorem exec_fcas (t : BitVec 1) (d : BitVec 6) (a : BitVec 6) (b : BitVec 6) (s : State) : exec (.fcas t d a b) s = execFcas t d a b s := rfl
@[simp] theorem exec_vadd (y : BitVec 3) (d : BitVec 6) (a : BitVec 6) (b : BitVec 6) (s1 : BitVec 1) (s : State) : exec (.vadd y d a b s1) s = execVadd y d a b s1 s := rfl
@[simp] theorem exec_vsub (y : BitVec 3) (d : BitVec 6) (a : BitVec 6) (b : BitVec 6) (s1 : BitVec 1) (s : State) : exec (.vsub y d a b s1) s = execVsub y d a b s1 s := rfl
@[simp] theorem exec_vmul (y : BitVec 3) (d : BitVec 6) (a : BitVec 6) (b : BitVec 6) (s1 : BitVec 1) (s : State) : exec (.vmul y d a b s1) s = execVmul y d a b s1 s := rfl
@[simp] theorem exec_vmulh (y : BitVec 3) (d : BitVec 6) (a : BitVec 6) (b : BitVec 6) (s1 : BitVec 1) (s : State) : exec (.vmulh y d a b s1) s = execVmulh y d a b s1 s := rfl
@[simp] theorem exec_vmad (y : BitVec 3) (d : BitVec 6) (a : BitVec 6) (b : BitVec 6) (s1 : BitVec 1) (s : State) : exec (.vmad y d a b s1) s = execVmad y d a b s1 s := rfl
@[simp] theorem exec_vabs (y : BitVec 3) (d : BitVec 6) (a : BitVec 6) (s1 : BitVec 1) (s : State) : exec (.vabs y d a s1) s = execVabs y d a s1 s := rfl
@[simp] theorem exec_vneg (y : BitVec 3) (d : BitVec 6) (a : BitVec 6) (s1 : BitVec 1) (s : State) : exec (.vneg y d a s1) s = execVneg y d a s1 s := rfl
@[simp] theorem exec_vmin (y : BitVec 3) (d : BitVec 6) (a : BitVec 6) (b : BitVec 6) (s1 : BitVec 1) (s : State) : exec (.vmin y d a b s1) s = execVmin y d a b s1 s := rfl
@[simp] theorem exec_vmax (y : BitVec 3) (d : BitVec 6) (a : BitVec 6) (b : BitVec 6) (s1 : BitVec 1) (s : State) : exec (.vmax y d a b s1) s = execVmax y d a b s1 s := rfl
@[simp] theorem exec_vand (y : BitVec 3) (d : BitVec 6) (a : BitVec 6) (b : BitVec 6) (s1 : BitVec 1) (s : State) : exec (.vand y d a b s1) s = execVand y d a b s1 s := rfl
@[simp] theorem exec_vor (y : BitVec 3) (d : BitVec 6) (a : BitVec 6) (b : BitVec 6) (s1 : BitVec 1) (s : State) : exec (.vor y d a b s1) s = execVor y d a b s1 s := rfl
@[simp] theorem exec_vxor (y : BitVec 3) (d : BitVec 6) (a : BitVec 6) (b : BitVec 6) (s1 : BitVec 1) (s : State) : exec (.vxor y d a b s1) s = execVxor y d a b s1 s := rfl
@[simp] theorem exec_vnot (y : BitVec 3) (d : BitVec 6) (a : BitVec 6) (s1 : BitVec 1) (s : State) : exec (.vnot y d a s1) s = execVnot y d a s1 s := rfl
@[simp] theorem exec_vshl (y : BitVec 3) (d : BitVec 6) (a : BitVec 6) (b : BitVec 6) (s1 : BitVec 1) (s : State) : exec (.vshl y d a b s1) s = execVshl y d a b s1 s := rfl
@[simp] theorem exec_vshr (y : BitVec 3) (d : BitVec 6) (a : BitVec 6) (b : BitVec 6) (s1 : BitVec 1) (s : State) : exec (.vshr y d a b s1) s = execVshr y d a b s1 s := rfl
@[simp] theorem exec_vbfx (y : BitVec 3) (d : BitVec 6) (a : BitVec 6) (b : BitVec 6) (s1 : BitVec 1) (s : State) : exec (.vbfx y d a b s1) s = execVbfx y d a b s1 s := rfl
@[simp] theorem exec_vbfi (y : BitVec 3) (d : BitVec 6) (a : BitVec 6) (b : BitVec 6) (s1 : BitVec 1) (s : State) : exec (.vbfi y d a b s1) s = execVbfi y d a b s1 s := rfl
@[simp] theorem exec_vfshl (y : BitVec 3) (d : BitVec 6) (a : BitVec 6) (b : BitVec 6) (s1 : BitVec 1) (s : State) : exec (.vfshl y d a b s1) s = execVfshl y d a b s1 s := rfl
@[simp] theorem exec_vfshr (y : BitVec 3) (d : BitVec 6) (a : BitVec 6) (b : BitVec 6) (s1 : BitVec 1) (s : State) : exec (.vfshr y d a b s1) s = execVfshr y d a b s1 s := rfl
@[simp] theorem exec_vpopc (y : BitVec 3) (d : BitVec 6) (a : BitVec 6) (s1 : BitVec 1) (s : State) : exec (.vpopc y d a s1) s = execVpopc y d a s1 s := rfl
@[simp] theorem exec_vclz (y : BitVec 3) (d : BitVec 6) (a : BitVec 6) (s1 : BitVec 1) (s : State) : exec (.vclz y d a s1) s = execVclz y d a s1 s := rfl
@[simp] theorem exec_vaddi (y : BitVec 3) (d : BitVec 6) (a : BitVec 6) (i1 : BitVec 6) (s1 : BitVec 1) (s : State) : exec (.vaddi y d a i1 s1) s = execVaddi y d a i1 s1 s := rfl
@[simp] theorem exec_vshli (y : BitVec 3) (d : BitVec 6) (a : BitVec 6) (i1 : BitVec 6) (s1 : BitVec 1) (s : State) : exec (.vshli y d a i1 s1) s = execVshli y d a i1 s1 s := rfl
@[simp] theorem exec_vshri (y : BitVec 3) (d : BitVec 6) (a : BitVec 6) (i1 : BitVec 6) (s1 : BitVec 1) (s : State) : exec (.vshri y d a i1 s1) s = execVshri y d a i1 s1 s := rfl
@[simp] theorem exec_vfadd (y : BitVec 3) (d : BitVec 6) (a : BitVec 6) (b : BitVec 6) (s1 : BitVec 1) (s : State) : exec (.vfadd y d a b s1) s = execVfadd y d a b s1 s := rfl
@[simp] theorem exec_vfsub (y : BitVec 3) (d : BitVec 6) (a : BitVec 6) (b : BitVec 6) (s1 : BitVec 1) (s : State) : exec (.vfsub y d a b s1) s = execVfsub y d a b s1 s := rfl
@[simp] theorem exec_vfmul (y : BitVec 3) (d : BitVec 6) (a : BitVec 6) (b : BitVec 6) (s1 : BitVec 1) (s : State) : exec (.vfmul y d a b s1) s = execVfmul y d a b s1 s := rfl
@[simp] theorem exec_vfma (y : BitVec 3) (d : BitVec 6) (a : BitVec 6) (b : BitVec 6) (s1 : BitVec 1) (s : State) : exec (.vfma y d a b s1) s = execVfma y d a b s1 s := rfl
@[simp] theorem exec_vfmin (y : BitVec 3) (d : BitVec 6) (a : BitVec 6) (b : BitVec 6) (s1 : BitVec 1) (s : State) : exec (.vfmin y d a b s1) s = execVfmin y d a b s1 s := rfl
@[simp] theorem exec_vfmax (y : BitVec 3) (d : BitVec 6) (a : BitVec 6) (b : BitVec 6) (s1 : BitVec 1) (s : State) : exec (.vfmax y d a b s1) s = execVfmax y d a b s1 s := rfl
@[simp] theorem exec_vfabs (y : BitVec 3) (d : BitVec 6) (a : BitVec 6) (s1 : BitVec 1) (s : State) : exec (.vfabs y d a s1) s = execVfabs y d a s1 s := rfl
@[simp] theorem exec_vfneg (y : BitVec 3) (d : BitVec 6) (a : BitVec 6) (s1 : BitVec 1) (s : State) : exec (.vfneg y d a s1) s = execVfneg y d a s1 s := rfl
@[simp] theorem exec_vcmpEq (y : BitVec 3) (d : BitVec 4) (a : BitVec 6) (b : BitVec 6) (s1 : BitVec 1) (s : State) : exec (.vcmpEq y d a b s1) s = execVcmpEq y d a b s1 s := rfl
@[simp] theorem exec_vcmpNe (y : BitVec 3) (d : BitVec 4) (a : BitVec 6) (b : BitVec 6) (s1 : BitVec 1) (s : State) : exec (.vcmpNe y d a b s1) s = execVcmpNe y d a b s1 s := rfl
@[simp] theorem exec_vcmpLt (y : BitVec 3) (d : BitVec 4) (a : BitVec 6) (b : BitVec 6) (s1 : BitVec 1) (s : State) : exec (.vcmpLt y d a b s1) s = execVcmpLt y d a b s1 s := rfl
@[simp] theorem exec_vcmpGe (y : BitVec 3) (d : BitVec 4) (a : BitVec 6) (b : BitVec 6) (s1 : BitVec 1) (s : State) : exec (.vcmpGe y d a b s1) s = execVcmpGe y d a b s1 s := rfl
@[simp] theorem exec_vfcmpEq (y : BitVec 3) (d : BitVec 4) (a : BitVec 6) (b : BitVec 6) (s1 : BitVec 1) (s : State) : exec (.vfcmpEq y d a b s1) s = execVfcmpEq y d a b s1 s := rfl
@[simp] theorem exec_vfcmpLt (y : BitVec 3) (d : BitVec 4) (a : BitVec 6) (b : BitVec 6) (s1 : BitVec 1) (s : State) : exec (.vfcmpLt y d a b s1) s = execVfcmpLt y d a b s1 s := rfl
@[simp] theorem exec_vfcmpLe (y : BitVec 3) (d : BitVec 4) (a : BitVec 6) (b : BitVec 6) (s1 : BitVec 1) (s : State) : exec (.vfcmpLe y d a b s1) s = execVfcmpLe y d a b s1 s := rfl
@[simp] theorem exec_vfcmpUn (y : BitVec 3) (d : BitVec 4) (a : BitVec 6) (b : BitVec 6) (s1 : BitVec 1) (s : State) : exec (.vfcmpUn y d a b s1) s = execVfcmpUn y d a b s1 s := rfl
@[simp] theorem exec_mand (d : BitVec 4) (a : BitVec 4) (b : BitVec 4) (s1 : BitVec 1) (s : State) : exec (.mand d a b s1) s = execMand d a b s1 s := rfl
@[simp] theorem exec_mor (d : BitVec 4) (a : BitVec 4) (b : BitVec 4) (s1 : BitVec 1) (s : State) : exec (.mor d a b s1) s = execMor d a b s1 s := rfl
@[simp] theorem exec_mxor (d : BitVec 4) (a : BitVec 4) (b : BitVec 4) (s1 : BitVec 1) (s : State) : exec (.mxor d a b s1) s = execMxor d a b s1 s := rfl
@[simp] theorem exec_mnot (d : BitVec 4) (a : BitVec 4) (s1 : BitVec 1) (s : State) : exec (.mnot d a s1) s = execMnot d a s1 s := rfl
@[simp] theorem exec_mpopc (d : BitVec 6) (a : BitVec 4) (s1 : BitVec 1) (s : State) : exec (.mpopc d a s1) s = execMpopc d a s1 s := rfl
@[simp] theorem exec_mfirst (d : BitVec 6) (a : BitVec 4) (s1 : BitVec 1) (s : State) : exec (.mfirst d a s1) s = execMfirst d a s1 s := rfl
@[simp] theorem exec_msetLt (d : BitVec 4) (a : BitVec 6) (s1 : BitVec 1) (s : State) : exec (.msetLt d a s1) s = execMsetLt d a s1 s := rfl
@[simp] theorem exec_msetGe (d : BitVec 4) (a : BitVec 6) (s1 : BitVec 1) (s : State) : exec (.msetGe d a s1) s = execMsetGe d a s1 s := rfl
@[simp] theorem exec_msetQ (d : BitVec 4) (a : BitVec 6) (s1 : BitVec 1) (s : State) : exec (.msetQ d a s1) s = execMsetQ d a s1 s := rfl
@[simp] theorem exec_vsel (y : BitVec 3) (d : BitVec 6) (a : BitVec 6) (b : BitVec 6) (s1 : BitVec 1) (s : State) : exec (.vsel y d a b s1) s = execVsel y d a b s1 s := rfl
@[simp] theorem exec_vmov (y : BitVec 3) (d : BitVec 6) (a : BitVec 6) (s1 : BitVec 1) (s : State) : exec (.vmov y d a s1) s = execVmov y d a s1 s := rfl
@[simp] theorem exec_vbcast (y : BitVec 3) (d : BitVec 6) (a : BitVec 6) (s1 : BitVec 1) (s : State) : exec (.vbcast y d a s1) s = execVbcast y d a s1 s := rfl
@[simp] theorem exec_vext (y : BitVec 3) (d : BitVec 6) (a : BitVec 6) (b : BitVec 6) (s1 : BitVec 1) (s : State) : exec (.vext y d a b s1) s = execVext y d a b s1 s := rfl
@[simp] theorem exec_vins (y : BitVec 3) (d : BitVec 6) (a : BitVec 6) (b : BitVec 6) (s1 : BitVec 1) (s : State) : exec (.vins y d a b s1) s = execVins y d a b s1 s := rfl
@[simp] theorem exec_vperm (y : BitVec 3) (d : BitVec 6) (a : BitVec 6) (b : BitVec 6) (s1 : BitVec 1) (s : State) : exec (.vperm y d a b s1) s = execVperm y d a b s1 s := rfl
@[simp] theorem exec_vshuf (y : BitVec 3) (d : BitVec 6) (a : BitVec 6) (b : BitVec 6) (s1 : BitVec 1) (s : State) : exec (.vshuf y d a b s1) s = execVshuf y d a b s1 s := rfl
@[simp] theorem exec_vrot (y : BitVec 3) (d : BitVec 6) (a : BitVec 6) (b : BitVec 6) (s1 : BitVec 1) (s : State) : exec (.vrot y d a b s1) s = execVrot y d a b s1 s := rfl
@[simp] theorem exec_vredAdd (y : BitVec 3) (d : BitVec 6) (a : BitVec 6) (s1 : BitVec 1) (s : State) : exec (.vredAdd y d a s1) s = execVredAdd y d a s1 s := rfl
@[simp] theorem exec_vredMax (y : BitVec 3) (d : BitVec 6) (a : BitVec 6) (s1 : BitVec 1) (s : State) : exec (.vredMax y d a s1) s = execVredMax y d a s1 s := rfl
@[simp] theorem exec_vredMin (y : BitVec 3) (d : BitVec 6) (a : BitVec 6) (s1 : BitVec 1) (s : State) : exec (.vredMin y d a s1) s = execVredMin y d a s1 s := rfl
@[simp] theorem exec_vfredAdd (y : BitVec 3) (d : BitVec 6) (a : BitVec 6) (s1 : BitVec 1) (s : State) : exec (.vfredAdd y d a s1) s = execVfredAdd y d a s1 s := rfl
@[simp] theorem exec_vfredMax (y : BitVec 3) (d : BitVec 6) (a : BitVec 6) (s1 : BitVec 1) (s : State) : exec (.vfredMax y d a s1) s = execVfredMax y d a s1 s := rfl
@[simp] theorem exec_vfredMin (y : BitVec 3) (d : BitVec 6) (a : BitVec 6) (s1 : BitVec 1) (s : State) : exec (.vfredMin y d a s1) s = execVfredMin y d a s1 s := rfl
@[simp] theorem exec_vscanAdd (y : BitVec 3) (d : BitVec 6) (a : BitVec 6) (f : BitVec 1) (s1 : BitVec 1) (s : State) : exec (.vscanAdd y d a f s1) s = execVscanAdd y d a f s1 s := rfl
@[simp] theorem exec_vcvt (y : BitVec 3) (d : BitVec 6) (a : BitVec 6) (q : BitVec 1) (r : BitVec 1) (w : BitVec 1) (t : BitVec 3) (s1 : BitVec 1) (s : State) : exec (.vcvt y d a q r w t s1) s = execVcvt y d a q r w t s1 s := rfl
@[simp] theorem exec_vquant (y : BitVec 3) (d : BitVec 6) (a : BitVec 6) (b : BitVec 6) (s1 : BitVec 1) (s : State) : exec (.vquant y d a b s1) s = execVquant y d a b s1 s := rfl
@[simp] theorem exec_vdequant (y : BitVec 3) (d : BitVec 6) (a : BitVec 6) (s1 : BitVec 1) (s : State) : exec (.vdequant y d a s1) s = execVdequant y d a s1 s := rfl
@[simp] theorem exec_vsmxUpd (d : BitVec 6) (a : BitVec 6) (b : BitVec 6) (s1 : BitVec 1) (s : State) : exec (.vsmxUpd d a b s1) s = execVsmxUpd d a b s1 s := rfl
@[simp] theorem exec_vsmxFin (d : BitVec 6) (a : BitVec 6) (b : BitVec 6) (s1 : BitVec 1) (s : State) : exec (.vsmxFin d a b s1) s = execVsmxFin d a b s1 s := rfl
@[simp] theorem exec_vrbias (d : BitVec 6) (a : BitVec 6) (b : BitVec 6) (s1 : BitVec 1) (s : State) : exec (.vrbias d a b s1) s = execVrbias d a b s1 s := rfl
@[simp] theorem exec_vidx (y : BitVec 3) (d : BitVec 6) (a : BitVec 6) (s1 : BitVec 1) (s : State) : exec (.vidx y d a s1) s = execVidx y d a s1 s := rfl
@[simp] theorem exec_vlut (y : BitVec 3) (d : BitVec 6) (a : BitVec 6) (b : BitVec 6) (s1 : BitVec 1) (s : State) : exec (.vlut y d a b s1) s = execVlut y d a b s1 s := rfl
@[simp] theorem exec_mmt (c : BitVec 3) (a : BitVec 4) (b : BitVec 4) (n : BitVec 4) (p : BitVec 3) (s1 : BitVec 1) (r : BitVec 1) (z : BitVec 1) (s : State) : exec (.mmt c a b n p s1 r z) s = execMmt c a b n p s1 r z s := rfl
@[simp] theorem exec_mmtWb (c : BitVec 3) (a : BitVec 4) (w : BitVec 2) (n : BitVec 4) (p : BitVec 3) (s1 : BitVec 1) (z : BitVec 1) (s : State) : exec (.mmtWb c a w n p s1 z) s = execMmtWb c a w n p s1 z s := rfl
@[simp] theorem exec_scommit (c : BitVec 3) (n : BitVec 4) (s : State) : exec (.scommit c n) s = execScommit c n s := rfl
@[simp] theorem exec_sdrop (c : BitVec 3) (n : BitVec 4) (s : State) : exec (.sdrop c n) s = execSdrop c n s := rfl
@[simp] theorem exec_accz (c : BitVec 3) (n : BitVec 4) (s1 : BitVec 1) (s : State) : exec (.accz c n s1) s = execAccz c n s1 s := rfl
@[simp] theorem exec_accld (c : BitVec 3) (a : BitVec 4) (n : BitVec 4) (s1 : BitVec 1) (s : State) : exec (.accld c a n s1) s = execAccld c a n s1 s := rfl
@[simp] theorem exec_accst (c : BitVec 3) (a : BitVec 4) (n : BitVec 4) (s1 : BitVec 1) (t : BitVec 1) (s : State) : exec (.accst c a n s1 t) s = execAccst c a n s1 t s := rfl
@[simp] theorem exec_accmv (c : BitVec 3) (d : BitVec 6) (a : BitVec 6) (s1 : BitVec 1) (l : BitVec 1) (s : State) : exec (.accmv c d a s1 l) s = execAccmv c d a s1 l s := rfl
@[simp] theorem exec_wbload (w : BitVec 2) (a : BitVec 4) (n : BitVec 4) (s : State) : exec (.wbload w a n) s = execWbload w a n s := rfl
@[simp] theorem exec_attb (c : BitVec 2) (a : BitVec 4) (b : BitVec 4) (n : BitVec 4) (f : BitVec 1) (z : BitVec 1) (s : State) : exec (.attb c a b n f z) s = execAttb c a b n f z s := rfl
@[simp] theorem exec_sfuExp2 (y : BitVec 3) (d : BitVec 6) (a : BitVec 6) (k : BitVec 3) (s : State) : exec (.sfuExp2 y d a k) s = execSfuExp2 y d a k s := rfl
@[simp] theorem exec_sfuLog2 (y : BitVec 3) (d : BitVec 6) (a : BitVec 6) (k : BitVec 3) (s : State) : exec (.sfuLog2 y d a k) s = execSfuLog2 y d a k s := rfl
@[simp] theorem exec_sfuRcp (y : BitVec 3) (d : BitVec 6) (a : BitVec 6) (k : BitVec 3) (s : State) : exec (.sfuRcp y d a k) s = execSfuRcp y d a k s := rfl
@[simp] theorem exec_sfuRsqrt (y : BitVec 3) (d : BitVec 6) (a : BitVec 6) (k : BitVec 3) (s : State) : exec (.sfuRsqrt y d a k) s = execSfuRsqrt y d a k s := rfl
@[simp] theorem exec_sfuSqrt (y : BitVec 3) (d : BitVec 6) (a : BitVec 6) (k : BitVec 3) (s : State) : exec (.sfuSqrt y d a k) s = execSfuSqrt y d a k s := rfl
@[simp] theorem exec_sfuSin (y : BitVec 3) (d : BitVec 6) (a : BitVec 6) (k : BitVec 3) (s : State) : exec (.sfuSin y d a k) s = execSfuSin y d a k s := rfl
@[simp] theorem exec_sfuCos (y : BitVec 3) (d : BitVec 6) (a : BitVec 6) (k : BitVec 3) (s : State) : exec (.sfuCos y d a k) s = execSfuCos y d a k s := rfl
@[simp] theorem exec_tint (y : BitVec 3) (d : BitVec 6) (a : BitVec 6) (f : BitVec 3) (k : BitVec 3) (s : State) : exec (.tint y d a f k) s = execTint y d a f k s := rfl
@[simp] theorem exec_tload (d : BitVec 6) (a : BitVec 6) (f : BitVec 3) (k : BitVec 3) (s : State) : exec (.tload d a f k) s = execTload d a f k s := rfl
@[simp] theorem exec_topkInit (y : BitVec 3) (a : BitVec 6) (k : BitVec 3) (s : State) : exec (.topkInit y a k) s = execTopkInit y a k s := rfl
@[simp] theorem exec_topkFeed (y : BitVec 3) (d : BitVec 6) (a : BitVec 6) (k : BitVec 3) (s : State) : exec (.topkFeed y d a k) s = execTopkFeed y d a k s := rfl
@[simp] theorem exec_topkEmit (d : BitVec 6) (a : BitVec 6) (f : BitVec 3) (k : BitVec 3) (s : State) : exec (.topkEmit d a f k) s = execTopkEmit d a f k s := rfl
@[simp] theorem exec_topkQ (d : BitVec 6) (k : BitVec 3) (s : State) : exec (.topkQ d k) s = execTopkQ d k s := rfl
@[simp] theorem exec_copy (x : BitVec 6) (y : BitVec 6) (z : BitVec 6) (e : BitVec 4) (s : State) : exec (.copy x y z e) s = execCopy x y z e s := rfl
@[simp] theorem exec_copyMmt (x : BitVec 6) (y : BitVec 6) (z : BitVec 6) (e : BitVec 4) (s : State) : exec (.copyMmt x y z e) s = execCopyMmt x y z e s := rfl
@[simp] theorem exec_collOpen (x : BitVec 6) (e : BitVec 4) (s : State) : exec (.collOpen x e) s = execCollOpen x e s := rfl
@[simp] theorem exec_collRed (x : BitVec 6) (e : BitVec 4) (s : State) : exec (.collRed x e) s = execCollRed x e s := rfl
@[simp] theorem exec_collBar (x : BitVec 6) (e : BitVec 4) (s : State) : exec (.collBar x e) s = execCollBar x e s := rfl
@[simp] theorem exec_collClose (x : BitVec 6) (e : BitVec 4) (s : State) : exec (.collClose x e) s = execCollClose x e s := rfl
@[simp] theorem exec_gready (x : BitVec 6) (y : BitVec 6) (e : BitVec 4) (s : State) : exec (.gready x y e) s = execGready x y e s := rfl
@[simp] theorem exec_gunready (x : BitVec 6) (y : BitVec 6) (e : BitVec 4) (s : State) : exec (.gunready x y e) s = execGunready x y e s := rfl
@[simp] theorem exec_gsend (x : BitVec 6) (y : BitVec 6) (o : BitVec 1) (e : BitVec 4) (s : State) : exec (.gsend x y o e) s = execGsend x y o e s := rfl
@[simp] theorem exec_grecv (x : BitVec 6) (e : BitVec 4) (s : State) : exec (.grecv x e) s = execGrecv x e s := rfl
@[simp] theorem exec_gqpush (x : BitVec 6) (y : BitVec 6) (e : BitVec 4) (s : State) : exec (.gqpush x y e) s = execGqpush x y e s := rfl
@[simp] theorem exec_gqwait (x : BitVec 6) (e : BitVec 4) (s : State) : exec (.gqwait x e) s = execGqwait x e s := rfl
@[simp] theorem exec_launch (x : BitVec 6) (e : BitVec 4) (s : State) : exec (.launch x e) s = execLaunch x e s := rfl
@[simp] theorem exec_mbsend (x : BitVec 6) (o : BitVec 1) (k : BitVec 3) (z : BitVec 6) (e : BitVec 4) (s : State) : exec (.mbsend x o k z e) s = execMbsend x o k z e s := rfl
@[simp] theorem exec_join (c : BitVec 1) (a : BitVec 1) (v : BitVec 1) (m : BitVec 1) (s1 : BitVec 1) (x : BitVec 1) (s : State) : exec (.join c a v m s1 x) s = execJoin c a v m s1 x s := rfl
@[simp] theorem exec_extImm (i1 : BitVec 26) (s : State) : exec (.extImm i1) s = execExtImm i1 s := rfl
@[simp] theorem exec_extOrd (s1 : BitVec 3) (o : BitVec 2) (c : BitVec 4) (s : State) : exec (.extOrd s1 o c) s = execExtOrd s1 o c s := rfl
@[simp] theorem exec_extTok (w : BitVec 1) (e : BitVec 4) (t : BitVec 8) (g : BitVec 1) (f : BitVec 4) (s : State) : exec (.extTok w e t g f) s = execExtTok w e t g f s := rfl
@[simp] theorem exec_extStall (c : BitVec 4) (s : State) : exec (.extStall c) s = execExtStall c s := rfl
@[simp] theorem exec_extMask (z : BitVec 1) (m : BitVec 4) (s : State) : exec (.extMask z m) s = execExtMask z m s := rfl
@[simp] theorem exec_extInd (b : BitVec 6) (x : BitVec 1) (y : BitVec 1) (z : BitVec 1) (s : State) : exec (.extInd b x y z) s = execExtInd b x y z s := rfl
@[simp] theorem exec_fetchWord (s : State) : exec (.fetchWord) s = execFetchWord s := rfl
@[simp] theorem exec_joinRelease (s : State) : exec (.joinRelease) s = execJoinRelease s := rfl
@[simp] theorem exec_trapEntry (cause : BitVec 8) (eng : BitVec 3) (tval : BitVec 64) (s : State) : exec (.trapEntry cause eng tval) s = execTrapEntry cause eng tval s := rfl
@[simp] theorem exec_hangTimeout (s : State) : exec (.hangTimeout) s = execHangTimeout s := rfl
@[simp] theorem exec_loadDataReturn (seq : Nat) (s : State) : exec (.loadDataReturn seq) s = execLoadDataReturn seq s := rfl
@[simp] theorem exec_storePerformed (seq : Nat) (s : State) : exec (.storePerformed seq) s = execStorePerformed seq s := rfl
@[simp] theorem exec_atomicPerformed (seq : Nat) (s : State) : exec (.atomicPerformed seq) s = execAtomicPerformed seq s := rfl
@[simp] theorem exec_atomicopCompletion (seq : Nat) (old : BitVec 128) (s : State) : exec (.atomicopCompletion seq old) s = execAtomicopCompletion seq old s := rfl
@[simp] theorem exec_holdQueueNackRetry (seq : Nat) (s : State) : exec (.holdQueueNackRetry seq) s = execHoldQueueNackRetry seq s := rfl
@[simp] theorem exec_camStep (s : State) : exec (.camStep) s = execCamStep s := rfl
@[simp] theorem exec_arrayWindowSwitch (arr : BitVec 8) (s : State) : exec (.arrayWindowSwitch arr) s = execArrayWindowSwitch arr s := rfl
@[simp] theorem exec_relocationTake (arr : BitVec 8) (s : State) : exec (.relocationTake arr) s = execRelocationTake arr s := rfl
@[simp] theorem exec_xferAccept (s : State) : exec (.xferAccept) s = execXferAccept s := rfl
@[simp] theorem exec_copyEngineStep (op : Nat) (s : State) : exec (.copyEngineStep op) s = execCopyEngineStep op s := rfl
@[simp] theorem exec_followOnIssue (op : Nat) (s : State) : exec (.followOnIssue op) s = execFollowOnIssue op s := rfl
@[simp] theorem exec_windowFill (win : Nat) (s : State) : exec (.windowFill win) s = execWindowFill win s := rfl
@[simp] theorem exec_waitDeadline (s : State) : exec (.waitDeadline) s = execWaitDeadline s := rfl
@[simp] theorem exec_yieldPauseExpiry (s : State) : exec (.yieldPauseExpiry) s = execYieldPauseExpiry s := rfl
@[simp] theorem exec_teamEnd (team : Nat) (s : State) : exec (.teamEnd team) s = execTeamEnd team s := rfl
@[simp] theorem exec_wakeRequest (ctx : BitVec 16) (src : BitVec 3) (s : State) : exec (.wakeRequest ctx src) s = execWakeRequest ctx src s := rfl
@[simp] theorem exec_parkTimerExpiry (ctx : BitVec 16) (s : State) : exec (.parkTimerExpiry ctx) s = execParkTimerExpiry ctx s := rfl
@[simp] theorem exec_faultWake (team : Nat) (key : Nat) (s : State) : exec (.faultWake team key) s = execFaultWake team key s := rfl
@[simp] theorem exec_quantumExpiry (team : Nat) (s : State) : exec (.quantumExpiry team) s = execQuantumExpiry team s := rfl
@[simp] theorem exec_teamTakeOff (team : Nat) (s : State) : exec (.teamTakeOff team) s = execTeamTakeOff team s := rfl
@[simp] theorem exec_teamPlace (die : BitVec 2) (s : State) : exec (.teamPlace die) s = execTeamPlace die s := rfl
@[simp] theorem exec_launchRecordAccept (record : BitVec 512) (host : Bool) (part : BitVec 6) (s : State) : exec (.launchRecordAccept record host part) s = execLaunchRecordAccept record host part s := rfl
@[simp] theorem exec_demotionThreshold (ctx : BitVec 16) (s : State) : exec (.demotionThreshold ctx) s = execDemotionThreshold ctx s := rfl
@[simp] theorem exec_recallStart (ctx : BitVec 16) (s : State) : exec (.recallStart ctx) s = execRecallStart ctx s := rfl
@[simp] theorem exec_busyCountZero (obj : BitVec 48) (s : State) : exec (.busyCountZero obj) s = execBusyCountZero obj s := rfl
@[simp] theorem exec_pageCopyComplete (obj : BitVec 48) (s : State) : exec (.pageCopyComplete obj) s = execPageCopyComplete obj s := rfl
@[simp] theorem exec_directoryRebind (obj : BitVec 48) (s : State) : exec (.directoryRebind obj) s = execDirectoryRebind obj s := rfl
@[simp] theorem exec_dirinvArrival (die : BitVec 2) (obj : BitVec 48) (ver : BitVec 32) (s : State) : exec (.dirinvArrival die obj ver) s = execDirinvArrival die obj ver s := rfl
@[simp] theorem exec_backgroundLinePull (obj : BitVec 48) (s : State) : exec (.backgroundLinePull obj) s = execBackgroundLinePull obj s := rfl
@[simp] theorem exec_rowPrecharge (row : Nat) (parityOk : Bool) (s : State) : exec (.rowPrecharge row parityOk) s = execRowPrecharge row parityOk s := rfl
@[simp] theorem exec_refreshWindow (row : Nat) (s : State) : exec (.refreshWindow row) s = execRefreshWindow row s := rfl
@[simp] theorem exec_channelRateChange (ch : BitVec 8) (rate : BitVec 2) (s : State) : exec (.channelRateChange ch rate) s = execChannelRateChange ch rate s := rfl
@[simp] theorem exec_rateChangeComplete (ch : BitVec 8) (s : State) : exec (.rateChangeComplete ch) s = execRateChangeComplete ch s := rfl
@[simp] theorem exec_priResponse (key : Nat) (code : BitVec 2) (s : State) : exec (.priResponse key code) s = execPriResponse key code s := rfl
@[simp] theorem exec_hostTableSnoop (line : BitVec 64) (data : List (BitVec 8)) (s : State) : exec (.hostTableSnoop line data) s = execHostTableSnoop line data s := rfl
@[simp] theorem exec_walkerLineEviction (die : BitVec 2) (line : BitVec 64) (s : State) : exec (.walkerLineEviction die line) s = execWalkerLineEviction die line s := rfl
@[simp] theorem exec_atsInvalidation (page : AtsPage) (s : State) : exec (.atsInvalidation page) s = execAtsInvalidation page s := rfl
@[simp] theorem exec_hostSnoop (line : BitVec 64) (data : List (BitVec 8)) (s : State) : exec (.hostSnoop line data) s = execHostSnoop line data s := rfl
@[simp] theorem exec_backInvalidateResponse (line : BitVec 64) (data : List (BitVec 8)) (s : State) : exec (.backInvalidateResponse line data) s = execBackInvalidateResponse line data s := rfl
@[simp] theorem exec_hostCxlMemAccess (write : Bool) (addr : BitVec 64) (size : Nat) (data : List (BitVec 8)) (s : State) : exec (.hostCxlMemAccess write addr size data) s = execHostCxlMemAccess write addr size data s := rfl
@[simp] theorem exec_poolTransferCompletion (obj : BitVec 48) (ok : Bool) (s : State) : exec (.poolTransferCompletion obj ok) s = execPoolTransferCompletion obj ok s := rfl
@[simp] theorem exec_registerWrite (off : BitVec 32) (val : BitVec 64) (s : State) : exec (.registerWrite off val) s = execRegisterWrite off val s := rfl
@[simp] theorem exec_partitionRegisterWrite (part : BitVec 6) (off : BitVec 17) (val : BitVec 64) (s : State) : exec (.partitionRegisterWrite part off val) s = execPartitionRegisterWrite part off val s := rfl
@[simp] theorem exec_lqbaseWrite (part : BitVec 6) (val : BitVec 64) (s : State) : exec (.lqbaseWrite part val) s = execLqbaseWrite part val s := rfl
@[simp] theorem exec_doorbell (part : BitVec 6) (val : BitVec 32) (s : State) : exec (.doorbell part val) s = execDoorbell part val s := rfl
@[simp] theorem exec_setShared (part : BitVec 6) (obj : BitVec 48) (s : State) : exec (.setShared part obj) s = execSetShared part obj s := rfl
@[simp] theorem exec_clearShared (part : BitVec 6) (obj : BitVec 48) (s : State) : exec (.clearShared part obj) s = execClearShared part obj s := rfl
@[simp] theorem exec_invalidateHostTranslations (part : BitVec 6) (root : BitVec 48) (s : State) : exec (.invalidateHostTranslations part root) s = execInvalidateHostTranslations part root s := rfl
@[simp] theorem exec_poolRegisterWrite (off : BitVec 32) (val : BitVec 64) (s : State) : exec (.poolRegisterWrite off val) s = execPoolRegisterWrite off val s := rfl
@[simp] theorem exec_groupCreate (part : BitVec 6) (plim : BitVec 16) (index : BitVec 14) (s : State) : exec (.groupCreate part plim index) s = execGroupCreate part plim index s := rfl
@[simp] theorem exec_groupDestroy (index : BitVec 14) (s : State) : exec (.groupDestroy index) s = execGroupDestroy index s := rfl
@[simp] theorem exec_clearPartition (part : BitVec 6) (s : State) : exec (.clearPartition part) s = execClearPartition part s := rfl
@[simp] theorem exec_fabpartWrite (part : BitVec 6) (val : BitVec 64) (s : State) : exec (.fabpartWrite part val) s = execFabpartWrite part val s := rfl
@[simp] theorem exec_fabidWrite (val : BitVec 64) (s : State) : exec (.fabidWrite val) s = execFabidWrite val s := rfl
@[simp] theorem exec_dommapWrite (dev : BitVec 10) (val : BitVec 64) (s : State) : exec (.dommapWrite dev val) s = execDommapWrite dev val s := rfl
@[simp] theorem exec_attest (s : State) : exec (.attest) s = execAttest s := rfl
@[simp] theorem exec_reset (s : State) : exec (.reset) s = execReset s := rfl
@[simp] theorem exec_readlog (s : State) : exec (.readlog) s = execReadlog s := rfl
@[simp] theorem exec_mcmdRefused (s : State) : exec (.mcmdRefused) s = execMcmdRefused s := rfl
@[simp] theorem exec_gctlWrite (val : BitVec 64) (s : State) : exec (.gctlWrite val) s = execGctlWrite val s := rfl
@[simp] theorem exec_gqRegisterWrite (q : BitVec 8) (reg : BitVec 5) (val : BitVec 64) (s : State) : exec (.gqRegisterWrite q reg val) s = execGqRegisterWrite q reg val s := rfl
@[simp] theorem exec_gqctlStopWrite (q : BitVec 8) (stop : Bool) (s : State) : exec (.gqctlStopWrite q stop) s = execGqctlStopWrite q stop s := rfl
@[simp] theorem exec_fabricRequestArrival (p : Packet) (s : State) : exec (.fabricRequestArrival p) s = execFabricRequestArrival p s := rfl
@[simp] theorem exec_respArrival (p : Packet) (s : State) : exec (.respArrival p) s = execRespArrival p s := rfl
@[simp] theorem exec_ctxopArrival (op : BitVec 3) (handle : BitVec 32) (val : BitVec 64) (s : State) : exec (.ctxopArrival op handle val) s = execCtxopArrival op handle val s := rfl
@[simp] theorem exec_mboxArrival (p : Packet) (s : State) : exec (.mboxArrival p) s = execMboxArrival p s := rfl
@[simp] theorem exec_fabricNackResend (xid : Nat) (s : State) : exec (.fabricNackResend xid) s = execFabricNackResend xid s := rfl
@[simp] theorem exec_deadlockRecoveryTimer (xid : Nat) (s : State) : exec (.deadlockRecoveryTimer xid) s = execDeadlockRecoveryTimer xid s := rfl
@[simp] theorem exec_gadvAtSwitch (p : Packet) (port : BitVec 8) (s : State) : exec (.gadvAtSwitch p port) s = execGadvAtSwitch p port s := rfl
@[simp] theorem exec_gadvAtHome (p : Packet) (s : State) : exec (.gadvAtHome p) s = execGadvAtHome p s := rfl
@[simp] theorem exec_gregArrival (p : Packet) (s : State) : exec (.gregArrival p) s = execGregArrival p s := rfl
@[simp] theorem exec_gsendAtSwitch (p : Packet) (port : BitVec 8) (s : State) : exec (.gsendAtSwitch p port) s = execGsendAtSwitch p port s := rfl
@[simp] theorem exec_gsendAtDevice (p : Packet) (s : State) : exec (.gsendAtDevice p) s = execGsendAtDevice p s := rfl
@[simp] theorem exec_gsendAtHome (p : Packet) (s : State) : exec (.gsendAtHome p) s = execGsendAtHome p s := rfl
@[simp] theorem exec_grefuseAtSwitch (p : Packet) (port : BitVec 8) (s : State) : exec (.grefuseAtSwitch p port) s = execGrefuseAtSwitch p port s := rfl
@[simp] theorem exec_grefuseAtSender (p : Packet) (s : State) : exec (.grefuseAtSender p) s = execGrefuseAtSender p s := rfl
@[simp] theorem exec_targetedRefusalAtHome (p : Packet) (s : State) : exec (.targetedRefusalAtHome p) s = execTargetedRefusalAtHome p s := rfl
@[simp] theorem exec_gacceptArrival (p : Packet) (s : State) : exec (.gacceptArrival p) s = execGacceptArrival p s := rfl
@[simp] theorem exec_gconsArrival (p : Packet) (s : State) : exec (.gconsArrival p) s = execGconsArrival p s := rfl
@[simp] theorem exec_gwdrawArrival (p : Packet) (s : State) : exec (.gwdrawArrival p) s = execGwdrawArrival p s := rfl
@[simp] theorem exec_parkingNackRetry (xid : Nat) (s : State) : exec (.parkingNackRetry xid) s = execParkingNackRetry xid s := rfl
@[simp] theorem exec_readinessCacheRefresh (group : BitVec 24) (entries : List (Nat × Nat)) (s : State) : exec (.readinessCacheRefresh group entries) s = execReadinessCacheRefresh group entries s := rfl
@[simp] theorem exec_cctlOpenArrival (p : Packet) (s : State) : exec (.cctlOpenArrival p) s = execCctlOpenArrival p s := rfl
@[simp] theorem exec_credArrival (p : Packet) (s : State) : exec (.credArrival p) s = execCredArrival p s := rfl
@[simp] theorem exec_slotTimeout (slot : Nat) (s : State) : exec (.slotTimeout slot) s = execSlotTimeout slot s := rfl
@[simp] theorem exec_cresArrival (p : Packet) (s : State) : exec (.cresArrival p) s = execCresArrival p s := rfl
@[simp] theorem exec_collLostContact (op : Nat) (s : State) : exec (.collLostContact op) s = execCollLostContact op s := rfl
@[simp] theorem exec_cctlCloseArrival (p : Packet) (s : State) : exec (.cctlCloseArrival p) s = execCctlCloseArrival p s := rfl
@[simp] theorem exec_powerOnReset (pufOk : Bool) (fwOk : Bool) (trainOk : Bool) (cfg : List (BitVec 8)) (s : State) : exec (.powerOnReset pufOk fwOk trainOk cfg) s = execPowerOnReset pufOk fwOk trainOk cfg s := rfl
@[simp] theorem exec_powerLimit (level : BitVec 4) (s : State) : exec (.powerLimit level) s = execPowerLimit level s := rfl
@[simp] theorem exec_criticalTemperature (s : State) : exec (.criticalTemperature) s = execCriticalTemperature s := rfl
@[simp] theorem exec_guestLinksTrained (s : State) : exec (.guestLinksTrained) s = execGuestLinksTrained s := rfl
@[simp] theorem exec_mrec (record : List (BitVec 8)) (s : State) : exec (.mrec record) s = execMrec record s := rfl
@[simp] theorem exec_mrecTimeout (s : State) : exec (.mrecTimeout) s = execMrecTimeout s := rfl
@[simp] theorem exec_queuePacketWrite (op : Nat) (s : State) : exec (.queuePacketWrite op) s = execQueuePacketWrite op s := rfl
@[simp] theorem exec_qconsume (q : BitVec 16) (head : BitVec 32) (s : State) : exec (.qconsume q head) s = execQconsume q head s := rfl
@[simp] theorem exec_preack (q : BitVec 16) (s : State) : exec (.preack q) s = execPreack q s := rfl
@[simp] theorem exec_xlreq (tag : BitVec 16) (q : BitVec 16) (seq : BitVec 32) (va : BitVec 64) (kind : BitVec 8) (s : State) : exec (.xlreq tag q seq va kind) s = execXlreq tag q seq va kind s := rfl
@[simp] theorem exec_ginvack (grant : BitVec 16) (s : State) : exec (.ginvack grant) s = execGinvack grant s := rfl
@[simp] theorem exec_ginvDeadline (grant : BitVec 16) (s : State) : exec (.ginvDeadline grant) s = execGinvDeadline grant s := rfl
@[simp] theorem exec_fault (tag : BitVec 16) (s : State) : exec (.fault tag) s = execFault tag s := rfl
@[simp] theorem exec_faultReportDeadline (tag : BitVec 16) (s : State) : exec (.faultReportDeadline tag) s = execFaultReportDeadline tag s := rfl
@[simp] theorem exec_preemptDeadline (q : BitVec 16) (s : State) : exec (.preemptDeadline q) s = execPreemptDeadline q s := rfl
@[simp] theorem exec_guestMemoryRequest (g : GuestReq) (s : State) : exec (.guestMemoryRequest g) s = execGuestMemoryRequest g s := rfl
@[simp] theorem exec_guestLinkLoss (s : State) : exec (.guestLinkLoss) s = execGuestLinkLoss s := rfl
@[simp] theorem exec_guestResetComplete (s : State) : exec (.guestResetComplete) s = execGuestResetComplete s := rfl
@[simp] theorem exec_hostPortDown (port : BitVec 1) (up : Bool) (s : State) : exec (.hostPortDown port up) s = execHostPortDown port up s := rfl
@[simp] theorem exec_ualinkPortDown (port : BitVec 6) (up : Bool) (s : State) : exec (.ualinkPortDown port up) s = execUalinkPortDown port up s := rfl
@[simp] theorem exec_hostMailboxWrite (handle : BitVec 32) (mb : BitVec 3) (val : BitVec 64) (s : State) : exec (.hostMailboxWrite handle mb val) s = execHostMailboxWrite handle mb val s := rfl
@[simp] theorem exec_guestMessageUnlistedType (s : State) : exec (.guestMessageUnlistedType) s = execGuestMessageUnlistedType s := rfl

end Sys2Proof.Machine
end

