-- ==== Sys2Proof/Laws/State.lean ====
section
/-! SUPPORT. What each update of the state and of a strand leaves in each field: one lemma per field. -/

namespace Sys2Proof.Machine

/-! `onCs` -/

@[simp] theorem State.onCs_cs (s : State) (f : Strand → Strand) : (s.onCs f).cs = f s.cs := rfl
@[simp] theorem State.onCs_others (s : State) (f : Strand → Strand) : (s.onCs f).others = s.others := rfl
@[simp] theorem State.onCs_mem (s : State) (f : Strand → Strand) : (s.onCs f).mem = s.mem := rfl
@[simp] theorem State.onCs_time (s : State) (f : Strand → Strand) : (s.onCs f).time = s.time := rfl
@[simp] theorem State.onCs_teams (s : State) (f : Strand → Strand) : (s.onCs f).teams = s.teams := rfl
@[simp] theorem State.onCs_arrays (s : State) (f : Strand → Strand) : (s.onCs f).arrays = s.arrays := rfl
@[simp] theorem State.onCs_hangRec (s : State) (f : Strand → Strand) : (s.onCs f).hangRec = s.hangRec := rfl
@[simp] theorem State.onCs_ctxs (s : State) (f : Strand → Strand) : (s.onCs f).ctxs = s.ctxs := rfl
@[simp] theorem State.onCs_launches (s : State) (f : Strand → Strand) : (s.onCs f).launches = s.launches := rfl
@[simp] theorem State.onCs_deficits (s : State) (f : Strand → Strand) : (s.onCs f).deficits = s.deficits := rfl
@[simp] theorem State.onCs_ptrs (s : State) (f : Strand → Strand) : (s.onCs f).ptrs = s.ptrs := rfl
@[simp] theorem State.onCs_pdes (s : State) (f : Strand → Strand) : (s.onCs f).pdes = s.pdes := rfl
@[simp] theorem State.onCs_badT2 (s : State) (f : Strand → Strand) : (s.onCs f).badT2 = s.badT2 := rfl
@[simp] theorem State.onCs_moves (s : State) (f : Strand → Strand) : (s.onCs f).moves = s.moves := rfl
@[simp] theorem State.onCs_resolves (s : State) (f : Strand → Strand) : (s.onCs f).resolves = s.resolves := rfl
@[simp] theorem State.onCs_tlb (s : State) (f : Strand → Strand) : (s.onCs f).tlb = s.tlb := rfl
@[simp] theorem State.onCs_walkprof (s : State) (f : Strand → Strand) : (s.onCs f).walkprof = s.walkprof := rfl
@[simp] theorem State.onCs_hangctl (s : State) (f : Strand → Strand) : (s.onCs f).hangctl = s.hangctl := rfl
@[simp] theorem State.onCs_pcb (s : State) (f : Strand → Strand) : (s.onCs f).pcb = s.pcb := rfl
@[simp] theorem State.onCs_regions (s : State) (f : Strand → Strand) : (s.onCs f).regions = s.regions := rfl
@[simp] theorem State.onCs_bar0 (s : State) (f : Strand → Strand) : (s.onCs f).bar0 = s.bar0 := rfl
@[simp] theorem State.onCs_groups (s : State) (f : Strand → Strand) : (s.onCs f).groups = s.groups := rfl
@[simp] theorem State.onCs_units (s : State) (f : Strand → Strand) : (s.onCs f).units = s.units := rfl
@[simp] theorem State.onCs_sent (s : State) (f : Strand → Strand) : (s.onCs f).sent = s.sent := rfl
@[simp] theorem State.onCs_switch (s : State) (f : Strand → Strand) : (s.onCs f).switch = s.switch := rfl
@[simp] theorem State.onCs_cache (s : State) (f : Strand → Strand) : (s.onCs f).cache = s.cache := rfl
@[simp] theorem State.onCs_slots (s : State) (f : Strand → Strand) : (s.onCs f).slots = s.slots := rfl
@[simp] theorem State.onCs_opens (s : State) (f : Strand → Strand) : (s.onCs f).opens = s.opens := rfl
@[simp] theorem State.onCs_attached (s : State) (f : Strand → Strand) : (s.onCs f).attached = s.attached := rfl
@[simp] theorem State.onCs_ops (s : State) (f : Strand → Strand) : (s.onCs f).ops = s.ops := rfl
@[simp] theorem State.onCs_windows (s : State) (f : Strand → Strand) : (s.onCs f).windows = s.windows := rfl
@[simp] theorem State.onCs_pending (s : State) (f : Strand → Strand) : (s.onCs f).pending = s.pending := rfl
@[simp] theorem State.onCs_guest (s : State) (f : Strand → Strand) : (s.onCs f).guest = s.guest := rfl
@[simp] theorem State.onCs_fabSeq (s : State) (f : Strand → Strand) : (s.onCs f).fabSeq = s.fabSeq := rfl
@[simp] theorem State.onCs_fabNext (s : State) (f : Strand → Strand) : (s.onCs f).fabNext = s.fabNext := rfl
@[simp] theorem State.onCs_fabHeld (s : State) (f : Strand → Strand) : (s.onCs f).fabHeld = s.fabHeld := rfl
@[simp] theorem State.onCs_bidir (s : State) (f : Strand → Strand) : (s.onCs f).bidir = s.bidir := rfl
@[simp] theorem State.onCs_biShared (s : State) (f : Strand → Strand) : (s.onCs f).biShared = s.biShared := rfl
@[simp] theorem State.onCs_priOff (s : State) (f : Strand → Strand) : (s.onCs f).priOff = s.priOff := rfl
@[simp] theorem State.onCs_poison (s : State) (f : Strand → Strand) : (s.onCs f).poison = s.poison := rfl
@[simp] theorem State.onCs_corrected (s : State) (f : Strand → Strand) : (s.onCs f).corrected = s.corrected := rfl
@[simp] theorem State.onCs_l1 (s : State) (f : Strand → Strand) : (s.onCs f).l1 = s.l1 := rfl
@[simp] theorem State.onCs_holds (s : State) (f : Strand → Strand) : (s.onCs f).holds = s.holds := rfl
@[simp] theorem State.onCs_iommu (s : State) (f : Strand → Strand) : (s.onCs f).iommu = s.iommu := rfl
@[simp] theorem State.onCs_atc (s : State) (f : Strand → Strand) : (s.onCs f).atc = s.atc := rfl
@[simp] theorem State.onCs_walker (s : State) (f : Strand → Strand) : (s.onCs f).walker = s.walker := rfl
@[simp] theorem State.onCs_rows (s : State) (f : Strand → Strand) : (s.onCs f).rows = s.rows := rfl
@[simp] theorem State.onCs_captured (s : State) (f : Strand → Strand) : (s.onCs f).captured = s.captured := rfl
@[simp] theorem State.onCs_hits (s : State) (f : Strand → Strand) : (s.onCs f).hits = s.hits := rfl
@[simp] theorem State.onCs_hostReqs (s : State) (f : Strand → Strand) : (s.onCs f).hostReqs = s.hostReqs := rfl
@[simp] theorem State.onCs_tableSnoops (s : State) (f : Strand → Strand) : (s.onCs f).tableSnoops = s.tableSnoops := rfl
@[simp] theorem State.onCs_rates (s : State) (f : Strand → Strand) : (s.onCs f).rates = s.rates := rfl
@[simp] theorem State.onCs_changing (s : State) (f : Strand → Strand) : (s.onCs f).changing = s.changing := rfl
@[simp] theorem State.onCs_portsDown (s : State) (f : Strand → Strand) : (s.onCs f).portsDown = s.portsDown := rfl
@[simp] theorem State.onCs_portsPcie (s : State) (f : Strand → Strand) : (s.onCs f).portsPcie = s.portsPcie := rfl
@[simp] theorem State.onCs_ualDown (s : State) (f : Strand → Strand) : (s.onCs f).ualDown = s.ualDown := rfl
@[simp] theorem State.onCs_errLog (s : State) (f : Strand → Strand) : (s.onCs f).errLog = s.errLog := rfl
@[simp] theorem State.onCs_mstate (s : State) (f : Strand → Strand) : (s.onCs f).mstate = s.mstate := rfl
@[simp] theorem State.onCs_cfgdef (s : State) (f : Strand → Strand) : (s.onCs f).cfgdef = s.cfgdef := rfl
@[simp] theorem State.onCs_throttle (s : State) (f : Strand → Strand) : (s.onCs f).throttle = s.throttle := rfl
@[simp] theorem State.onCs_clock (s : State) (f : Strand → Strand) : (s.onCs f).clock = s.clock := rfl
@[simp] theorem State.onCs_mresult (s : State) (f : Strand → Strand) : (s.onCs f).mresult = s.mresult := rfl
@[simp] theorem State.onCs_mbusy (s : State) (f : Strand → Strand) : (s.onCs f).mbusy = s.mbusy := rfl
@[simp] theorem State.onCs_mdata (s : State) (f : Strand → Strand) : (s.onCs f).mdata = s.mdata := rfl
@[simp] theorem State.onCs_cfg (s : State) (f : Strand → Strand) : (s.onCs f).cfg = s.cfg := rfl
@[simp] theorem State.onCs_flash (s : State) (f : Strand → Strand) : (s.onCs f).flash = s.flash := rfl
@[simp] theorem State.onCs_inputs (s : State) (f : Strand → Strand) : (s.onCs f).inputs = s.inputs := rfl
@[simp] theorem State.onCs_due (s : State) (f : Strand → Strand) : (s.onCs f).due = s.due := rfl
@[simp] theorem State.onCs_out (s : State) (f : Strand → Strand) : (s.onCs f).out = s.out := rfl
@[simp] theorem State.onCs_free (s : State) (f : Strand → Strand) : (s.onCs f).free = s.free := rfl
@[simp] theorem State.onCs_nextId (s : State) (f : Strand → Strand) : (s.onCs f).nextId = s.nextId := rfl
@[simp] theorem State.onCs_nextSeq (s : State) (f : Strand → Strand) : (s.onCs f).nextSeq = s.nextSeq := rfl
@[simp] theorem State.onCs_turn (s : State) (f : Strand → Strand) : (s.onCs f).turn = s.turn := rfl
@[simp] theorem State.onCs_served (s : State) (f : Strand → Strand) : (s.onCs f).served = s.served := rfl
@[simp] theorem State.onCs_copyTurn (s : State) (f : Strand → Strand) : (s.onCs f).copyTurn = s.copyTurn := rfl
@[simp] theorem State.onCs_sendTurn (s : State) (f : Strand → Strand) : (s.onCs f).sendTurn = s.sendTurn := rfl
@[simp] theorem State.onCs_sendsNext (s : State) (f : Strand → Strand) : (s.onCs f).sendsNext = s.sendsNext := rfl

/-! `begun` -/

@[simp] theorem State.begun_cs (s : State)  : (s.begun).cs = s.cs.setHeld false := rfl
@[simp] theorem State.begun_others (s : State)  : (s.begun).others = s.others := rfl
@[simp] theorem State.begun_mem (s : State)  : (s.begun).mem = s.mem := rfl
@[simp] theorem State.begun_time (s : State)  : (s.begun).time = s.time := rfl
@[simp] theorem State.begun_teams (s : State)  : (s.begun).teams = s.teams := rfl
@[simp] theorem State.begun_arrays (s : State)  : (s.begun).arrays = s.arrays := rfl
@[simp] theorem State.begun_hangRec (s : State)  : (s.begun).hangRec = s.hangRec := rfl
@[simp] theorem State.begun_ctxs (s : State)  : (s.begun).ctxs = s.ctxs := rfl
@[simp] theorem State.begun_launches (s : State)  : (s.begun).launches = s.launches := rfl
@[simp] theorem State.begun_deficits (s : State)  : (s.begun).deficits = s.deficits := rfl
@[simp] theorem State.begun_ptrs (s : State)  : (s.begun).ptrs = s.ptrs := rfl
@[simp] theorem State.begun_pdes (s : State)  : (s.begun).pdes = s.pdes := rfl
@[simp] theorem State.begun_badT2 (s : State)  : (s.begun).badT2 = s.badT2 := rfl
@[simp] theorem State.begun_moves (s : State)  : (s.begun).moves = s.moves := rfl
@[simp] theorem State.begun_resolves (s : State)  : (s.begun).resolves = s.resolves := rfl
@[simp] theorem State.begun_tlb (s : State)  : (s.begun).tlb = s.tlb := rfl
@[simp] theorem State.begun_walkprof (s : State)  : (s.begun).walkprof = s.walkprof := rfl
@[simp] theorem State.begun_hangctl (s : State)  : (s.begun).hangctl = s.hangctl := rfl
@[simp] theorem State.begun_pcb (s : State)  : (s.begun).pcb = s.pcb := rfl
@[simp] theorem State.begun_regions (s : State)  : (s.begun).regions = s.regions := rfl
@[simp] theorem State.begun_bar0 (s : State)  : (s.begun).bar0 = s.bar0 := rfl
@[simp] theorem State.begun_groups (s : State)  : (s.begun).groups = s.groups := rfl
@[simp] theorem State.begun_units (s : State)  : (s.begun).units = s.units := rfl
@[simp] theorem State.begun_sent (s : State)  : (s.begun).sent = s.sent := rfl
@[simp] theorem State.begun_switch (s : State)  : (s.begun).switch = s.switch := rfl
@[simp] theorem State.begun_cache (s : State)  : (s.begun).cache = s.cache := rfl
@[simp] theorem State.begun_slots (s : State)  : (s.begun).slots = s.slots := rfl
@[simp] theorem State.begun_opens (s : State)  : (s.begun).opens = s.opens := rfl
@[simp] theorem State.begun_attached (s : State)  : (s.begun).attached = s.attached := rfl
@[simp] theorem State.begun_ops (s : State)  : (s.begun).ops = s.ops := rfl
@[simp] theorem State.begun_windows (s : State)  : (s.begun).windows = s.windows := rfl
@[simp] theorem State.begun_pending (s : State)  : (s.begun).pending = s.pending := rfl
@[simp] theorem State.begun_guest (s : State)  : (s.begun).guest = s.guest := rfl
@[simp] theorem State.begun_fabSeq (s : State)  : (s.begun).fabSeq = s.fabSeq := rfl
@[simp] theorem State.begun_fabNext (s : State)  : (s.begun).fabNext = s.fabNext := rfl
@[simp] theorem State.begun_fabHeld (s : State)  : (s.begun).fabHeld = s.fabHeld := rfl
@[simp] theorem State.begun_bidir (s : State)  : (s.begun).bidir = s.bidir := rfl
@[simp] theorem State.begun_biShared (s : State)  : (s.begun).biShared = s.biShared := rfl
@[simp] theorem State.begun_priOff (s : State)  : (s.begun).priOff = s.priOff := rfl
@[simp] theorem State.begun_poison (s : State)  : (s.begun).poison = s.poison := rfl
@[simp] theorem State.begun_corrected (s : State)  : (s.begun).corrected = s.corrected := rfl
@[simp] theorem State.begun_l1 (s : State)  : (s.begun).l1 = s.l1 := rfl
@[simp] theorem State.begun_holds (s : State)  : (s.begun).holds = s.holds := rfl
@[simp] theorem State.begun_iommu (s : State)  : (s.begun).iommu = s.iommu := rfl
@[simp] theorem State.begun_atc (s : State)  : (s.begun).atc = s.atc := rfl
@[simp] theorem State.begun_walker (s : State)  : (s.begun).walker = s.walker := rfl
@[simp] theorem State.begun_rows (s : State)  : (s.begun).rows = s.rows := rfl
@[simp] theorem State.begun_captured (s : State)  : (s.begun).captured = s.captured := rfl
@[simp] theorem State.begun_hits (s : State)  : (s.begun).hits = s.hits := rfl
@[simp] theorem State.begun_hostReqs (s : State)  : (s.begun).hostReqs = s.hostReqs := rfl
@[simp] theorem State.begun_tableSnoops (s : State)  : (s.begun).tableSnoops = s.tableSnoops := rfl
@[simp] theorem State.begun_rates (s : State)  : (s.begun).rates = s.rates := rfl
@[simp] theorem State.begun_changing (s : State)  : (s.begun).changing = s.changing := rfl
@[simp] theorem State.begun_portsDown (s : State)  : (s.begun).portsDown = s.portsDown := rfl
@[simp] theorem State.begun_portsPcie (s : State)  : (s.begun).portsPcie = s.portsPcie := rfl
@[simp] theorem State.begun_ualDown (s : State)  : (s.begun).ualDown = s.ualDown := rfl
@[simp] theorem State.begun_errLog (s : State)  : (s.begun).errLog = s.errLog := rfl
@[simp] theorem State.begun_mstate (s : State)  : (s.begun).mstate = s.mstate := rfl
@[simp] theorem State.begun_cfgdef (s : State)  : (s.begun).cfgdef = s.cfgdef := rfl
@[simp] theorem State.begun_throttle (s : State)  : (s.begun).throttle = s.throttle := rfl
@[simp] theorem State.begun_clock (s : State)  : (s.begun).clock = s.clock := rfl
@[simp] theorem State.begun_mresult (s : State)  : (s.begun).mresult = s.mresult := rfl
@[simp] theorem State.begun_mbusy (s : State)  : (s.begun).mbusy = s.mbusy := rfl
@[simp] theorem State.begun_mdata (s : State)  : (s.begun).mdata = s.mdata := rfl
@[simp] theorem State.begun_cfg (s : State)  : (s.begun).cfg = s.cfg := rfl
@[simp] theorem State.begun_flash (s : State)  : (s.begun).flash = s.flash := rfl
@[simp] theorem State.begun_inputs (s : State)  : (s.begun).inputs = s.inputs := rfl
@[simp] theorem State.begun_due (s : State)  : (s.begun).due = s.due := rfl
@[simp] theorem State.begun_out (s : State)  : (s.begun).out = s.out := rfl
@[simp] theorem State.begun_free (s : State)  : (s.begun).free = s.free := rfl
@[simp] theorem State.begun_nextId (s : State)  : (s.begun).nextId = s.nextId := rfl
@[simp] theorem State.begun_nextSeq (s : State)  : (s.begun).nextSeq = s.nextSeq := rfl
@[simp] theorem State.begun_turn (s : State)  : (s.begun).turn = s.turn := rfl
@[simp] theorem State.begun_served (s : State)  : (s.begun).served = s.served := rfl
@[simp] theorem State.begun_copyTurn (s : State)  : (s.begun).copyTurn = s.copyTurn := rfl
@[simp] theorem State.begun_sendTurn (s : State)  : (s.begun).sendTurn = s.sendTurn := rfl
@[simp] theorem State.begun_sendsNext (s : State)  : (s.begun).sendsNext = s.sendsNext := rfl

/-! `onTeam` -/

@[simp] theorem State.onTeam_cs (s : State) (id : Nat) (f : Team → Team) : (s.onTeam id f).cs = s.cs := rfl
@[simp] theorem State.onTeam_others (s : State) (id : Nat) (f : Team → Team) : (s.onTeam id f).others = s.others := rfl
@[simp] theorem State.onTeam_mem (s : State) (id : Nat) (f : Team → Team) : (s.onTeam id f).mem = s.mem := rfl
@[simp] theorem State.onTeam_time (s : State) (id : Nat) (f : Team → Team) : (s.onTeam id f).time = s.time := rfl
@[simp] theorem State.onTeam_teams (s : State) (id : Nat) (f : Team → Team) : (s.onTeam id f).teams = s.teams.map (fun t => if t.id == id then f t else t) := rfl
@[simp] theorem State.onTeam_arrays (s : State) (id : Nat) (f : Team → Team) : (s.onTeam id f).arrays = s.arrays := rfl
@[simp] theorem State.onTeam_hangRec (s : State) (id : Nat) (f : Team → Team) : (s.onTeam id f).hangRec = s.hangRec := rfl
@[simp] theorem State.onTeam_ctxs (s : State) (id : Nat) (f : Team → Team) : (s.onTeam id f).ctxs = s.ctxs := rfl
@[simp] theorem State.onTeam_launches (s : State) (id : Nat) (f : Team → Team) : (s.onTeam id f).launches = s.launches := rfl
@[simp] theorem State.onTeam_deficits (s : State) (id : Nat) (f : Team → Team) : (s.onTeam id f).deficits = s.deficits := rfl
@[simp] theorem State.onTeam_ptrs (s : State) (id : Nat) (f : Team → Team) : (s.onTeam id f).ptrs = s.ptrs := rfl
@[simp] theorem State.onTeam_pdes (s : State) (id : Nat) (f : Team → Team) : (s.onTeam id f).pdes = s.pdes := rfl
@[simp] theorem State.onTeam_badT2 (s : State) (id : Nat) (f : Team → Team) : (s.onTeam id f).badT2 = s.badT2 := rfl
@[simp] theorem State.onTeam_moves (s : State) (id : Nat) (f : Team → Team) : (s.onTeam id f).moves = s.moves := rfl
@[simp] theorem State.onTeam_resolves (s : State) (id : Nat) (f : Team → Team) : (s.onTeam id f).resolves = s.resolves := rfl
@[simp] theorem State.onTeam_tlb (s : State) (id : Nat) (f : Team → Team) : (s.onTeam id f).tlb = s.tlb := rfl
@[simp] theorem State.onTeam_walkprof (s : State) (id : Nat) (f : Team → Team) : (s.onTeam id f).walkprof = s.walkprof := rfl
@[simp] theorem State.onTeam_hangctl (s : State) (id : Nat) (f : Team → Team) : (s.onTeam id f).hangctl = s.hangctl := rfl
@[simp] theorem State.onTeam_pcb (s : State) (id : Nat) (f : Team → Team) : (s.onTeam id f).pcb = s.pcb := rfl
@[simp] theorem State.onTeam_regions (s : State) (id : Nat) (f : Team → Team) : (s.onTeam id f).regions = s.regions := rfl
@[simp] theorem State.onTeam_bar0 (s : State) (id : Nat) (f : Team → Team) : (s.onTeam id f).bar0 = s.bar0 := rfl
@[simp] theorem State.onTeam_groups (s : State) (id : Nat) (f : Team → Team) : (s.onTeam id f).groups = s.groups := rfl
@[simp] theorem State.onTeam_units (s : State) (id : Nat) (f : Team → Team) : (s.onTeam id f).units = s.units := rfl
@[simp] theorem State.onTeam_sent (s : State) (id : Nat) (f : Team → Team) : (s.onTeam id f).sent = s.sent := rfl
@[simp] theorem State.onTeam_switch (s : State) (id : Nat) (f : Team → Team) : (s.onTeam id f).switch = s.switch := rfl
@[simp] theorem State.onTeam_cache (s : State) (id : Nat) (f : Team → Team) : (s.onTeam id f).cache = s.cache := rfl
@[simp] theorem State.onTeam_slots (s : State) (id : Nat) (f : Team → Team) : (s.onTeam id f).slots = s.slots := rfl
@[simp] theorem State.onTeam_opens (s : State) (id : Nat) (f : Team → Team) : (s.onTeam id f).opens = s.opens := rfl
@[simp] theorem State.onTeam_attached (s : State) (id : Nat) (f : Team → Team) : (s.onTeam id f).attached = s.attached := rfl
@[simp] theorem State.onTeam_ops (s : State) (id : Nat) (f : Team → Team) : (s.onTeam id f).ops = s.ops := rfl
@[simp] theorem State.onTeam_windows (s : State) (id : Nat) (f : Team → Team) : (s.onTeam id f).windows = s.windows := rfl
@[simp] theorem State.onTeam_pending (s : State) (id : Nat) (f : Team → Team) : (s.onTeam id f).pending = s.pending := rfl
@[simp] theorem State.onTeam_guest (s : State) (id : Nat) (f : Team → Team) : (s.onTeam id f).guest = s.guest := rfl
@[simp] theorem State.onTeam_fabSeq (s : State) (id : Nat) (f : Team → Team) : (s.onTeam id f).fabSeq = s.fabSeq := rfl
@[simp] theorem State.onTeam_fabNext (s : State) (id : Nat) (f : Team → Team) : (s.onTeam id f).fabNext = s.fabNext := rfl
@[simp] theorem State.onTeam_fabHeld (s : State) (id : Nat) (f : Team → Team) : (s.onTeam id f).fabHeld = s.fabHeld := rfl
@[simp] theorem State.onTeam_bidir (s : State) (id : Nat) (f : Team → Team) : (s.onTeam id f).bidir = s.bidir := rfl
@[simp] theorem State.onTeam_biShared (s : State) (id : Nat) (f : Team → Team) : (s.onTeam id f).biShared = s.biShared := rfl
@[simp] theorem State.onTeam_priOff (s : State) (id : Nat) (f : Team → Team) : (s.onTeam id f).priOff = s.priOff := rfl
@[simp] theorem State.onTeam_poison (s : State) (id : Nat) (f : Team → Team) : (s.onTeam id f).poison = s.poison := rfl
@[simp] theorem State.onTeam_corrected (s : State) (id : Nat) (f : Team → Team) : (s.onTeam id f).corrected = s.corrected := rfl
@[simp] theorem State.onTeam_l1 (s : State) (id : Nat) (f : Team → Team) : (s.onTeam id f).l1 = s.l1 := rfl
@[simp] theorem State.onTeam_holds (s : State) (id : Nat) (f : Team → Team) : (s.onTeam id f).holds = s.holds := rfl
@[simp] theorem State.onTeam_iommu (s : State) (id : Nat) (f : Team → Team) : (s.onTeam id f).iommu = s.iommu := rfl
@[simp] theorem State.onTeam_atc (s : State) (id : Nat) (f : Team → Team) : (s.onTeam id f).atc = s.atc := rfl
@[simp] theorem State.onTeam_walker (s : State) (id : Nat) (f : Team → Team) : (s.onTeam id f).walker = s.walker := rfl
@[simp] theorem State.onTeam_rows (s : State) (id : Nat) (f : Team → Team) : (s.onTeam id f).rows = s.rows := rfl
@[simp] theorem State.onTeam_captured (s : State) (id : Nat) (f : Team → Team) : (s.onTeam id f).captured = s.captured := rfl
@[simp] theorem State.onTeam_hits (s : State) (id : Nat) (f : Team → Team) : (s.onTeam id f).hits = s.hits := rfl
@[simp] theorem State.onTeam_hostReqs (s : State) (id : Nat) (f : Team → Team) : (s.onTeam id f).hostReqs = s.hostReqs := rfl
@[simp] theorem State.onTeam_tableSnoops (s : State) (id : Nat) (f : Team → Team) : (s.onTeam id f).tableSnoops = s.tableSnoops := rfl
@[simp] theorem State.onTeam_rates (s : State) (id : Nat) (f : Team → Team) : (s.onTeam id f).rates = s.rates := rfl
@[simp] theorem State.onTeam_changing (s : State) (id : Nat) (f : Team → Team) : (s.onTeam id f).changing = s.changing := rfl
@[simp] theorem State.onTeam_portsDown (s : State) (id : Nat) (f : Team → Team) : (s.onTeam id f).portsDown = s.portsDown := rfl
@[simp] theorem State.onTeam_portsPcie (s : State) (id : Nat) (f : Team → Team) : (s.onTeam id f).portsPcie = s.portsPcie := rfl
@[simp] theorem State.onTeam_ualDown (s : State) (id : Nat) (f : Team → Team) : (s.onTeam id f).ualDown = s.ualDown := rfl
@[simp] theorem State.onTeam_errLog (s : State) (id : Nat) (f : Team → Team) : (s.onTeam id f).errLog = s.errLog := rfl
@[simp] theorem State.onTeam_mstate (s : State) (id : Nat) (f : Team → Team) : (s.onTeam id f).mstate = s.mstate := rfl
@[simp] theorem State.onTeam_cfgdef (s : State) (id : Nat) (f : Team → Team) : (s.onTeam id f).cfgdef = s.cfgdef := rfl
@[simp] theorem State.onTeam_throttle (s : State) (id : Nat) (f : Team → Team) : (s.onTeam id f).throttle = s.throttle := rfl
@[simp] theorem State.onTeam_clock (s : State) (id : Nat) (f : Team → Team) : (s.onTeam id f).clock = s.clock := rfl
@[simp] theorem State.onTeam_mresult (s : State) (id : Nat) (f : Team → Team) : (s.onTeam id f).mresult = s.mresult := rfl
@[simp] theorem State.onTeam_mbusy (s : State) (id : Nat) (f : Team → Team) : (s.onTeam id f).mbusy = s.mbusy := rfl
@[simp] theorem State.onTeam_mdata (s : State) (id : Nat) (f : Team → Team) : (s.onTeam id f).mdata = s.mdata := rfl
@[simp] theorem State.onTeam_cfg (s : State) (id : Nat) (f : Team → Team) : (s.onTeam id f).cfg = s.cfg := rfl
@[simp] theorem State.onTeam_flash (s : State) (id : Nat) (f : Team → Team) : (s.onTeam id f).flash = s.flash := rfl
@[simp] theorem State.onTeam_inputs (s : State) (id : Nat) (f : Team → Team) : (s.onTeam id f).inputs = s.inputs := rfl
@[simp] theorem State.onTeam_due (s : State) (id : Nat) (f : Team → Team) : (s.onTeam id f).due = s.due := rfl
@[simp] theorem State.onTeam_out (s : State) (id : Nat) (f : Team → Team) : (s.onTeam id f).out = s.out := rfl
@[simp] theorem State.onTeam_free (s : State) (id : Nat) (f : Team → Team) : (s.onTeam id f).free = s.free := rfl
@[simp] theorem State.onTeam_nextId (s : State) (id : Nat) (f : Team → Team) : (s.onTeam id f).nextId = s.nextId := rfl
@[simp] theorem State.onTeam_nextSeq (s : State) (id : Nat) (f : Team → Team) : (s.onTeam id f).nextSeq = s.nextSeq := rfl
@[simp] theorem State.onTeam_turn (s : State) (id : Nat) (f : Team → Team) : (s.onTeam id f).turn = s.turn := rfl
@[simp] theorem State.onTeam_served (s : State) (id : Nat) (f : Team → Team) : (s.onTeam id f).served = s.served := rfl
@[simp] theorem State.onTeam_copyTurn (s : State) (id : Nat) (f : Team → Team) : (s.onTeam id f).copyTurn = s.copyTurn := rfl
@[simp] theorem State.onTeam_sendTurn (s : State) (id : Nat) (f : Team → Team) : (s.onTeam id f).sendTurn = s.sendTurn := rfl
@[simp] theorem State.onTeam_sendsNext (s : State) (id : Nat) (f : Team → Team) : (s.onTeam id f).sendsNext = s.sendsNext := rfl

/-! `setCtx` -/

@[simp] theorem State.setCtx_cs (s : State) (h : Word) (c : Ctx) : (s.setCtx h c).cs = s.cs := rfl
@[simp] theorem State.setCtx_others (s : State) (h : Word) (c : Ctx) : (s.setCtx h c).others = s.others := rfl
@[simp] theorem State.setCtx_mem (s : State) (h : Word) (c : Ctx) : (s.setCtx h c).mem = s.mem := rfl
@[simp] theorem State.setCtx_time (s : State) (h : Word) (c : Ctx) : (s.setCtx h c).time = s.time := rfl
@[simp] theorem State.setCtx_teams (s : State) (h : Word) (c : Ctx) : (s.setCtx h c).teams = s.teams := rfl
@[simp] theorem State.setCtx_arrays (s : State) (h : Word) (c : Ctx) : (s.setCtx h c).arrays = s.arrays := rfl
@[simp] theorem State.setCtx_hangRec (s : State) (h : Word) (c : Ctx) : (s.setCtx h c).hangRec = s.hangRec := rfl
@[simp] theorem State.setCtx_ctxs (s : State) (h : Word) (c : Ctx) : (s.setCtx h c).ctxs = Sparse.set {} s.ctxs (h.toNat % 2 ^ 16) c := rfl
@[simp] theorem State.setCtx_launches (s : State) (h : Word) (c : Ctx) : (s.setCtx h c).launches = s.launches := rfl
@[simp] theorem State.setCtx_deficits (s : State) (h : Word) (c : Ctx) : (s.setCtx h c).deficits = s.deficits := rfl
@[simp] theorem State.setCtx_ptrs (s : State) (h : Word) (c : Ctx) : (s.setCtx h c).ptrs = s.ptrs := rfl
@[simp] theorem State.setCtx_pdes (s : State) (h : Word) (c : Ctx) : (s.setCtx h c).pdes = s.pdes := rfl
@[simp] theorem State.setCtx_badT2 (s : State) (h : Word) (c : Ctx) : (s.setCtx h c).badT2 = s.badT2 := rfl
@[simp] theorem State.setCtx_moves (s : State) (h : Word) (c : Ctx) : (s.setCtx h c).moves = s.moves := rfl
@[simp] theorem State.setCtx_resolves (s : State) (h : Word) (c : Ctx) : (s.setCtx h c).resolves = s.resolves := rfl
@[simp] theorem State.setCtx_tlb (s : State) (h : Word) (c : Ctx) : (s.setCtx h c).tlb = s.tlb := rfl
@[simp] theorem State.setCtx_walkprof (s : State) (h : Word) (c : Ctx) : (s.setCtx h c).walkprof = s.walkprof := rfl
@[simp] theorem State.setCtx_hangctl (s : State) (h : Word) (c : Ctx) : (s.setCtx h c).hangctl = s.hangctl := rfl
@[simp] theorem State.setCtx_pcb (s : State) (h : Word) (c : Ctx) : (s.setCtx h c).pcb = s.pcb := rfl
@[simp] theorem State.setCtx_regions (s : State) (h : Word) (c : Ctx) : (s.setCtx h c).regions = s.regions := rfl
@[simp] theorem State.setCtx_bar0 (s : State) (h : Word) (c : Ctx) : (s.setCtx h c).bar0 = s.bar0 := rfl
@[simp] theorem State.setCtx_groups (s : State) (h : Word) (c : Ctx) : (s.setCtx h c).groups = s.groups := rfl
@[simp] theorem State.setCtx_units (s : State) (h : Word) (c : Ctx) : (s.setCtx h c).units = s.units := rfl
@[simp] theorem State.setCtx_sent (s : State) (h : Word) (c : Ctx) : (s.setCtx h c).sent = s.sent := rfl
@[simp] theorem State.setCtx_switch (s : State) (h : Word) (c : Ctx) : (s.setCtx h c).switch = s.switch := rfl
@[simp] theorem State.setCtx_cache (s : State) (h : Word) (c : Ctx) : (s.setCtx h c).cache = s.cache := rfl
@[simp] theorem State.setCtx_slots (s : State) (h : Word) (c : Ctx) : (s.setCtx h c).slots = s.slots := rfl
@[simp] theorem State.setCtx_opens (s : State) (h : Word) (c : Ctx) : (s.setCtx h c).opens = s.opens := rfl
@[simp] theorem State.setCtx_attached (s : State) (h : Word) (c : Ctx) : (s.setCtx h c).attached = s.attached := rfl
@[simp] theorem State.setCtx_ops (s : State) (h : Word) (c : Ctx) : (s.setCtx h c).ops = s.ops := rfl
@[simp] theorem State.setCtx_windows (s : State) (h : Word) (c : Ctx) : (s.setCtx h c).windows = s.windows := rfl
@[simp] theorem State.setCtx_pending (s : State) (h : Word) (c : Ctx) : (s.setCtx h c).pending = s.pending := rfl
@[simp] theorem State.setCtx_guest (s : State) (h : Word) (c : Ctx) : (s.setCtx h c).guest = s.guest := rfl
@[simp] theorem State.setCtx_fabSeq (s : State) (h : Word) (c : Ctx) : (s.setCtx h c).fabSeq = s.fabSeq := rfl
@[simp] theorem State.setCtx_fabNext (s : State) (h : Word) (c : Ctx) : (s.setCtx h c).fabNext = s.fabNext := rfl
@[simp] theorem State.setCtx_fabHeld (s : State) (h : Word) (c : Ctx) : (s.setCtx h c).fabHeld = s.fabHeld := rfl
@[simp] theorem State.setCtx_bidir (s : State) (h : Word) (c : Ctx) : (s.setCtx h c).bidir = s.bidir := rfl
@[simp] theorem State.setCtx_biShared (s : State) (h : Word) (c : Ctx) : (s.setCtx h c).biShared = s.biShared := rfl
@[simp] theorem State.setCtx_priOff (s : State) (h : Word) (c : Ctx) : (s.setCtx h c).priOff = s.priOff := rfl
@[simp] theorem State.setCtx_poison (s : State) (h : Word) (c : Ctx) : (s.setCtx h c).poison = s.poison := rfl
@[simp] theorem State.setCtx_corrected (s : State) (h : Word) (c : Ctx) : (s.setCtx h c).corrected = s.corrected := rfl
@[simp] theorem State.setCtx_l1 (s : State) (h : Word) (c : Ctx) : (s.setCtx h c).l1 = s.l1 := rfl
@[simp] theorem State.setCtx_holds (s : State) (h : Word) (c : Ctx) : (s.setCtx h c).holds = s.holds := rfl
@[simp] theorem State.setCtx_iommu (s : State) (h : Word) (c : Ctx) : (s.setCtx h c).iommu = s.iommu := rfl
@[simp] theorem State.setCtx_atc (s : State) (h : Word) (c : Ctx) : (s.setCtx h c).atc = s.atc := rfl
@[simp] theorem State.setCtx_walker (s : State) (h : Word) (c : Ctx) : (s.setCtx h c).walker = s.walker := rfl
@[simp] theorem State.setCtx_rows (s : State) (h : Word) (c : Ctx) : (s.setCtx h c).rows = s.rows := rfl
@[simp] theorem State.setCtx_captured (s : State) (h : Word) (c : Ctx) : (s.setCtx h c).captured = s.captured := rfl
@[simp] theorem State.setCtx_hits (s : State) (h : Word) (c : Ctx) : (s.setCtx h c).hits = s.hits := rfl
@[simp] theorem State.setCtx_hostReqs (s : State) (h : Word) (c : Ctx) : (s.setCtx h c).hostReqs = s.hostReqs := rfl
@[simp] theorem State.setCtx_tableSnoops (s : State) (h : Word) (c : Ctx) : (s.setCtx h c).tableSnoops = s.tableSnoops := rfl
@[simp] theorem State.setCtx_rates (s : State) (h : Word) (c : Ctx) : (s.setCtx h c).rates = s.rates := rfl
@[simp] theorem State.setCtx_changing (s : State) (h : Word) (c : Ctx) : (s.setCtx h c).changing = s.changing := rfl
@[simp] theorem State.setCtx_portsDown (s : State) (h : Word) (c : Ctx) : (s.setCtx h c).portsDown = s.portsDown := rfl
@[simp] theorem State.setCtx_portsPcie (s : State) (h : Word) (c : Ctx) : (s.setCtx h c).portsPcie = s.portsPcie := rfl
@[simp] theorem State.setCtx_ualDown (s : State) (h : Word) (c : Ctx) : (s.setCtx h c).ualDown = s.ualDown := rfl
@[simp] theorem State.setCtx_errLog (s : State) (h : Word) (c : Ctx) : (s.setCtx h c).errLog = s.errLog := rfl
@[simp] theorem State.setCtx_mstate (s : State) (h : Word) (c : Ctx) : (s.setCtx h c).mstate = s.mstate := rfl
@[simp] theorem State.setCtx_cfgdef (s : State) (h : Word) (c : Ctx) : (s.setCtx h c).cfgdef = s.cfgdef := rfl
@[simp] theorem State.setCtx_throttle (s : State) (h : Word) (c : Ctx) : (s.setCtx h c).throttle = s.throttle := rfl
@[simp] theorem State.setCtx_clock (s : State) (h : Word) (c : Ctx) : (s.setCtx h c).clock = s.clock := rfl
@[simp] theorem State.setCtx_mresult (s : State) (h : Word) (c : Ctx) : (s.setCtx h c).mresult = s.mresult := rfl
@[simp] theorem State.setCtx_mbusy (s : State) (h : Word) (c : Ctx) : (s.setCtx h c).mbusy = s.mbusy := rfl
@[simp] theorem State.setCtx_mdata (s : State) (h : Word) (c : Ctx) : (s.setCtx h c).mdata = s.mdata := rfl
@[simp] theorem State.setCtx_cfg (s : State) (h : Word) (c : Ctx) : (s.setCtx h c).cfg = s.cfg := rfl
@[simp] theorem State.setCtx_flash (s : State) (h : Word) (c : Ctx) : (s.setCtx h c).flash = s.flash := rfl
@[simp] theorem State.setCtx_inputs (s : State) (h : Word) (c : Ctx) : (s.setCtx h c).inputs = s.inputs := rfl
@[simp] theorem State.setCtx_due (s : State) (h : Word) (c : Ctx) : (s.setCtx h c).due = s.due := rfl
@[simp] theorem State.setCtx_out (s : State) (h : Word) (c : Ctx) : (s.setCtx h c).out = s.out := rfl
@[simp] theorem State.setCtx_free (s : State) (h : Word) (c : Ctx) : (s.setCtx h c).free = s.free := rfl
@[simp] theorem State.setCtx_nextId (s : State) (h : Word) (c : Ctx) : (s.setCtx h c).nextId = s.nextId := rfl
@[simp] theorem State.setCtx_nextSeq (s : State) (h : Word) (c : Ctx) : (s.setCtx h c).nextSeq = s.nextSeq := rfl
@[simp] theorem State.setCtx_turn (s : State) (h : Word) (c : Ctx) : (s.setCtx h c).turn = s.turn := rfl
@[simp] theorem State.setCtx_served (s : State) (h : Word) (c : Ctx) : (s.setCtx h c).served = s.served := rfl
@[simp] theorem State.setCtx_copyTurn (s : State) (h : Word) (c : Ctx) : (s.setCtx h c).copyTurn = s.copyTurn := rfl
@[simp] theorem State.setCtx_sendTurn (s : State) (h : Word) (c : Ctx) : (s.setCtx h c).sendTurn = s.sendTurn := rfl
@[simp] theorem State.setCtx_sendsNext (s : State) (h : Word) (c : Ctx) : (s.setCtx h c).sendsNext = s.sendsNext := rfl

/-! `setArray` -/

@[simp] theorem State.setArray_cs (s : State) (n : Nat) (a : ArrayState) : (s.setArray n a).cs = s.cs := rfl
@[simp] theorem State.setArray_others (s : State) (n : Nat) (a : ArrayState) : (s.setArray n a).others = s.others := rfl
@[simp] theorem State.setArray_mem (s : State) (n : Nat) (a : ArrayState) : (s.setArray n a).mem = s.mem := rfl
@[simp] theorem State.setArray_time (s : State) (n : Nat) (a : ArrayState) : (s.setArray n a).time = s.time := rfl
@[simp] theorem State.setArray_teams (s : State) (n : Nat) (a : ArrayState) : (s.setArray n a).teams = s.teams := rfl
@[simp] theorem State.setArray_arrays (s : State) (n : Nat) (a : ArrayState) : (s.setArray n a).arrays = Sparse.set {} s.arrays n a := rfl
@[simp] theorem State.setArray_hangRec (s : State) (n : Nat) (a : ArrayState) : (s.setArray n a).hangRec = s.hangRec := rfl
@[simp] theorem State.setArray_ctxs (s : State) (n : Nat) (a : ArrayState) : (s.setArray n a).ctxs = s.ctxs := rfl
@[simp] theorem State.setArray_launches (s : State) (n : Nat) (a : ArrayState) : (s.setArray n a).launches = s.launches := rfl
@[simp] theorem State.setArray_deficits (s : State) (n : Nat) (a : ArrayState) : (s.setArray n a).deficits = s.deficits := rfl
@[simp] theorem State.setArray_ptrs (s : State) (n : Nat) (a : ArrayState) : (s.setArray n a).ptrs = s.ptrs := rfl
@[simp] theorem State.setArray_pdes (s : State) (n : Nat) (a : ArrayState) : (s.setArray n a).pdes = s.pdes := rfl
@[simp] theorem State.setArray_badT2 (s : State) (n : Nat) (a : ArrayState) : (s.setArray n a).badT2 = s.badT2 := rfl
@[simp] theorem State.setArray_moves (s : State) (n : Nat) (a : ArrayState) : (s.setArray n a).moves = s.moves := rfl
@[simp] theorem State.setArray_resolves (s : State) (n : Nat) (a : ArrayState) : (s.setArray n a).resolves = s.resolves := rfl
@[simp] theorem State.setArray_tlb (s : State) (n : Nat) (a : ArrayState) : (s.setArray n a).tlb = s.tlb := rfl
@[simp] theorem State.setArray_walkprof (s : State) (n : Nat) (a : ArrayState) : (s.setArray n a).walkprof = s.walkprof := rfl
@[simp] theorem State.setArray_hangctl (s : State) (n : Nat) (a : ArrayState) : (s.setArray n a).hangctl = s.hangctl := rfl
@[simp] theorem State.setArray_pcb (s : State) (n : Nat) (a : ArrayState) : (s.setArray n a).pcb = s.pcb := rfl
@[simp] theorem State.setArray_regions (s : State) (n : Nat) (a : ArrayState) : (s.setArray n a).regions = s.regions := rfl
@[simp] theorem State.setArray_bar0 (s : State) (n : Nat) (a : ArrayState) : (s.setArray n a).bar0 = s.bar0 := rfl
@[simp] theorem State.setArray_groups (s : State) (n : Nat) (a : ArrayState) : (s.setArray n a).groups = s.groups := rfl
@[simp] theorem State.setArray_units (s : State) (n : Nat) (a : ArrayState) : (s.setArray n a).units = s.units := rfl
@[simp] theorem State.setArray_sent (s : State) (n : Nat) (a : ArrayState) : (s.setArray n a).sent = s.sent := rfl
@[simp] theorem State.setArray_switch (s : State) (n : Nat) (a : ArrayState) : (s.setArray n a).switch = s.switch := rfl
@[simp] theorem State.setArray_cache (s : State) (n : Nat) (a : ArrayState) : (s.setArray n a).cache = s.cache := rfl
@[simp] theorem State.setArray_slots (s : State) (n : Nat) (a : ArrayState) : (s.setArray n a).slots = s.slots := rfl
@[simp] theorem State.setArray_opens (s : State) (n : Nat) (a : ArrayState) : (s.setArray n a).opens = s.opens := rfl
@[simp] theorem State.setArray_attached (s : State) (n : Nat) (a : ArrayState) : (s.setArray n a).attached = s.attached := rfl
@[simp] theorem State.setArray_ops (s : State) (n : Nat) (a : ArrayState) : (s.setArray n a).ops = s.ops := rfl
@[simp] theorem State.setArray_windows (s : State) (n : Nat) (a : ArrayState) : (s.setArray n a).windows = s.windows := rfl
@[simp] theorem State.setArray_pending (s : State) (n : Nat) (a : ArrayState) : (s.setArray n a).pending = s.pending := rfl
@[simp] theorem State.setArray_guest (s : State) (n : Nat) (a : ArrayState) : (s.setArray n a).guest = s.guest := rfl
@[simp] theorem State.setArray_fabSeq (s : State) (n : Nat) (a : ArrayState) : (s.setArray n a).fabSeq = s.fabSeq := rfl
@[simp] theorem State.setArray_fabNext (s : State) (n : Nat) (a : ArrayState) : (s.setArray n a).fabNext = s.fabNext := rfl
@[simp] theorem State.setArray_fabHeld (s : State) (n : Nat) (a : ArrayState) : (s.setArray n a).fabHeld = s.fabHeld := rfl
@[simp] theorem State.setArray_bidir (s : State) (n : Nat) (a : ArrayState) : (s.setArray n a).bidir = s.bidir := rfl
@[simp] theorem State.setArray_biShared (s : State) (n : Nat) (a : ArrayState) : (s.setArray n a).biShared = s.biShared := rfl
@[simp] theorem State.setArray_priOff (s : State) (n : Nat) (a : ArrayState) : (s.setArray n a).priOff = s.priOff := rfl
@[simp] theorem State.setArray_poison (s : State) (n : Nat) (a : ArrayState) : (s.setArray n a).poison = s.poison := rfl
@[simp] theorem State.setArray_corrected (s : State) (n : Nat) (a : ArrayState) : (s.setArray n a).corrected = s.corrected := rfl
@[simp] theorem State.setArray_l1 (s : State) (n : Nat) (a : ArrayState) : (s.setArray n a).l1 = s.l1 := rfl
@[simp] theorem State.setArray_holds (s : State) (n : Nat) (a : ArrayState) : (s.setArray n a).holds = s.holds := rfl
@[simp] theorem State.setArray_iommu (s : State) (n : Nat) (a : ArrayState) : (s.setArray n a).iommu = s.iommu := rfl
@[simp] theorem State.setArray_atc (s : State) (n : Nat) (a : ArrayState) : (s.setArray n a).atc = s.atc := rfl
@[simp] theorem State.setArray_walker (s : State) (n : Nat) (a : ArrayState) : (s.setArray n a).walker = s.walker := rfl
@[simp] theorem State.setArray_rows (s : State) (n : Nat) (a : ArrayState) : (s.setArray n a).rows = s.rows := rfl
@[simp] theorem State.setArray_captured (s : State) (n : Nat) (a : ArrayState) : (s.setArray n a).captured = s.captured := rfl
@[simp] theorem State.setArray_hits (s : State) (n : Nat) (a : ArrayState) : (s.setArray n a).hits = s.hits := rfl
@[simp] theorem State.setArray_hostReqs (s : State) (n : Nat) (a : ArrayState) : (s.setArray n a).hostReqs = s.hostReqs := rfl
@[simp] theorem State.setArray_tableSnoops (s : State) (n : Nat) (a : ArrayState) : (s.setArray n a).tableSnoops = s.tableSnoops := rfl
@[simp] theorem State.setArray_rates (s : State) (n : Nat) (a : ArrayState) : (s.setArray n a).rates = s.rates := rfl
@[simp] theorem State.setArray_changing (s : State) (n : Nat) (a : ArrayState) : (s.setArray n a).changing = s.changing := rfl
@[simp] theorem State.setArray_portsDown (s : State) (n : Nat) (a : ArrayState) : (s.setArray n a).portsDown = s.portsDown := rfl
@[simp] theorem State.setArray_portsPcie (s : State) (n : Nat) (a : ArrayState) : (s.setArray n a).portsPcie = s.portsPcie := rfl
@[simp] theorem State.setArray_ualDown (s : State) (n : Nat) (a : ArrayState) : (s.setArray n a).ualDown = s.ualDown := rfl
@[simp] theorem State.setArray_errLog (s : State) (n : Nat) (a : ArrayState) : (s.setArray n a).errLog = s.errLog := rfl
@[simp] theorem State.setArray_mstate (s : State) (n : Nat) (a : ArrayState) : (s.setArray n a).mstate = s.mstate := rfl
@[simp] theorem State.setArray_cfgdef (s : State) (n : Nat) (a : ArrayState) : (s.setArray n a).cfgdef = s.cfgdef := rfl
@[simp] theorem State.setArray_throttle (s : State) (n : Nat) (a : ArrayState) : (s.setArray n a).throttle = s.throttle := rfl
@[simp] theorem State.setArray_clock (s : State) (n : Nat) (a : ArrayState) : (s.setArray n a).clock = s.clock := rfl
@[simp] theorem State.setArray_mresult (s : State) (n : Nat) (a : ArrayState) : (s.setArray n a).mresult = s.mresult := rfl
@[simp] theorem State.setArray_mbusy (s : State) (n : Nat) (a : ArrayState) : (s.setArray n a).mbusy = s.mbusy := rfl
@[simp] theorem State.setArray_mdata (s : State) (n : Nat) (a : ArrayState) : (s.setArray n a).mdata = s.mdata := rfl
@[simp] theorem State.setArray_cfg (s : State) (n : Nat) (a : ArrayState) : (s.setArray n a).cfg = s.cfg := rfl
@[simp] theorem State.setArray_flash (s : State) (n : Nat) (a : ArrayState) : (s.setArray n a).flash = s.flash := rfl
@[simp] theorem State.setArray_inputs (s : State) (n : Nat) (a : ArrayState) : (s.setArray n a).inputs = s.inputs := rfl
@[simp] theorem State.setArray_due (s : State) (n : Nat) (a : ArrayState) : (s.setArray n a).due = s.due := rfl
@[simp] theorem State.setArray_out (s : State) (n : Nat) (a : ArrayState) : (s.setArray n a).out = s.out := rfl
@[simp] theorem State.setArray_free (s : State) (n : Nat) (a : ArrayState) : (s.setArray n a).free = s.free := rfl
@[simp] theorem State.setArray_nextId (s : State) (n : Nat) (a : ArrayState) : (s.setArray n a).nextId = s.nextId := rfl
@[simp] theorem State.setArray_nextSeq (s : State) (n : Nat) (a : ArrayState) : (s.setArray n a).nextSeq = s.nextSeq := rfl
@[simp] theorem State.setArray_turn (s : State) (n : Nat) (a : ArrayState) : (s.setArray n a).turn = s.turn := rfl
@[simp] theorem State.setArray_served (s : State) (n : Nat) (a : ArrayState) : (s.setArray n a).served = s.served := rfl
@[simp] theorem State.setArray_copyTurn (s : State) (n : Nat) (a : ArrayState) : (s.setArray n a).copyTurn = s.copyTurn := rfl
@[simp] theorem State.setArray_sendTurn (s : State) (n : Nat) (a : ArrayState) : (s.setArray n a).sendTurn = s.sendTurn := rfl
@[simp] theorem State.setArray_sendsNext (s : State) (n : Nat) (a : ArrayState) : (s.setArray n a).sendsNext = s.sendsNext := rfl

/-! `setBar` -/

@[simp] theorem State.setBar_cs (s : State) (n : Nat) (x : Dword) : (s.setBar n x).cs = s.cs := rfl
@[simp] theorem State.setBar_others (s : State) (n : Nat) (x : Dword) : (s.setBar n x).others = s.others := rfl
@[simp] theorem State.setBar_mem (s : State) (n : Nat) (x : Dword) : (s.setBar n x).mem = s.mem := rfl
@[simp] theorem State.setBar_time (s : State) (n : Nat) (x : Dword) : (s.setBar n x).time = s.time := rfl
@[simp] theorem State.setBar_teams (s : State) (n : Nat) (x : Dword) : (s.setBar n x).teams = s.teams := rfl
@[simp] theorem State.setBar_arrays (s : State) (n : Nat) (x : Dword) : (s.setBar n x).arrays = s.arrays := rfl
@[simp] theorem State.setBar_hangRec (s : State) (n : Nat) (x : Dword) : (s.setBar n x).hangRec = s.hangRec := rfl
@[simp] theorem State.setBar_ctxs (s : State) (n : Nat) (x : Dword) : (s.setBar n x).ctxs = s.ctxs := rfl
@[simp] theorem State.setBar_launches (s : State) (n : Nat) (x : Dword) : (s.setBar n x).launches = s.launches := rfl
@[simp] theorem State.setBar_deficits (s : State) (n : Nat) (x : Dword) : (s.setBar n x).deficits = s.deficits := rfl
@[simp] theorem State.setBar_ptrs (s : State) (n : Nat) (x : Dword) : (s.setBar n x).ptrs = s.ptrs := rfl
@[simp] theorem State.setBar_pdes (s : State) (n : Nat) (x : Dword) : (s.setBar n x).pdes = s.pdes := rfl
@[simp] theorem State.setBar_badT2 (s : State) (n : Nat) (x : Dword) : (s.setBar n x).badT2 = s.badT2 := rfl
@[simp] theorem State.setBar_moves (s : State) (n : Nat) (x : Dword) : (s.setBar n x).moves = s.moves := rfl
@[simp] theorem State.setBar_resolves (s : State) (n : Nat) (x : Dword) : (s.setBar n x).resolves = s.resolves := rfl
@[simp] theorem State.setBar_tlb (s : State) (n : Nat) (x : Dword) : (s.setBar n x).tlb = s.tlb := rfl
@[simp] theorem State.setBar_walkprof (s : State) (n : Nat) (x : Dword) : (s.setBar n x).walkprof = s.walkprof := rfl
@[simp] theorem State.setBar_hangctl (s : State) (n : Nat) (x : Dword) : (s.setBar n x).hangctl = s.hangctl := rfl
@[simp] theorem State.setBar_pcb (s : State) (n : Nat) (x : Dword) : (s.setBar n x).pcb = s.pcb := rfl
@[simp] theorem State.setBar_regions (s : State) (n : Nat) (x : Dword) : (s.setBar n x).regions = s.regions := rfl
@[simp] theorem State.setBar_bar0 (s : State) (n : Nat) (x : Dword) : (s.setBar n x).bar0 = Sparse.set 0 s.bar0 n (x ^^^ barReset n) := rfl
@[simp] theorem State.setBar_groups (s : State) (n : Nat) (x : Dword) : (s.setBar n x).groups = s.groups := rfl
@[simp] theorem State.setBar_units (s : State) (n : Nat) (x : Dword) : (s.setBar n x).units = s.units := rfl
@[simp] theorem State.setBar_sent (s : State) (n : Nat) (x : Dword) : (s.setBar n x).sent = s.sent := rfl
@[simp] theorem State.setBar_switch (s : State) (n : Nat) (x : Dword) : (s.setBar n x).switch = s.switch := rfl
@[simp] theorem State.setBar_cache (s : State) (n : Nat) (x : Dword) : (s.setBar n x).cache = s.cache := rfl
@[simp] theorem State.setBar_slots (s : State) (n : Nat) (x : Dword) : (s.setBar n x).slots = s.slots := rfl
@[simp] theorem State.setBar_opens (s : State) (n : Nat) (x : Dword) : (s.setBar n x).opens = s.opens := rfl
@[simp] theorem State.setBar_attached (s : State) (n : Nat) (x : Dword) : (s.setBar n x).attached = s.attached := rfl
@[simp] theorem State.setBar_ops (s : State) (n : Nat) (x : Dword) : (s.setBar n x).ops = s.ops := rfl
@[simp] theorem State.setBar_windows (s : State) (n : Nat) (x : Dword) : (s.setBar n x).windows = s.windows := rfl
@[simp] theorem State.setBar_pending (s : State) (n : Nat) (x : Dword) : (s.setBar n x).pending = s.pending := rfl
@[simp] theorem State.setBar_guest (s : State) (n : Nat) (x : Dword) : (s.setBar n x).guest = s.guest := rfl
@[simp] theorem State.setBar_fabSeq (s : State) (n : Nat) (x : Dword) : (s.setBar n x).fabSeq = s.fabSeq := rfl
@[simp] theorem State.setBar_fabNext (s : State) (n : Nat) (x : Dword) : (s.setBar n x).fabNext = s.fabNext := rfl
@[simp] theorem State.setBar_fabHeld (s : State) (n : Nat) (x : Dword) : (s.setBar n x).fabHeld = s.fabHeld := rfl
@[simp] theorem State.setBar_bidir (s : State) (n : Nat) (x : Dword) : (s.setBar n x).bidir = s.bidir := rfl
@[simp] theorem State.setBar_biShared (s : State) (n : Nat) (x : Dword) : (s.setBar n x).biShared = s.biShared := rfl
@[simp] theorem State.setBar_priOff (s : State) (n : Nat) (x : Dword) : (s.setBar n x).priOff = s.priOff := rfl
@[simp] theorem State.setBar_poison (s : State) (n : Nat) (x : Dword) : (s.setBar n x).poison = s.poison := rfl
@[simp] theorem State.setBar_corrected (s : State) (n : Nat) (x : Dword) : (s.setBar n x).corrected = s.corrected := rfl
@[simp] theorem State.setBar_l1 (s : State) (n : Nat) (x : Dword) : (s.setBar n x).l1 = s.l1 := rfl
@[simp] theorem State.setBar_holds (s : State) (n : Nat) (x : Dword) : (s.setBar n x).holds = s.holds := rfl
@[simp] theorem State.setBar_iommu (s : State) (n : Nat) (x : Dword) : (s.setBar n x).iommu = s.iommu := rfl
@[simp] theorem State.setBar_atc (s : State) (n : Nat) (x : Dword) : (s.setBar n x).atc = s.atc := rfl
@[simp] theorem State.setBar_walker (s : State) (n : Nat) (x : Dword) : (s.setBar n x).walker = s.walker := rfl
@[simp] theorem State.setBar_rows (s : State) (n : Nat) (x : Dword) : (s.setBar n x).rows = s.rows := rfl
@[simp] theorem State.setBar_captured (s : State) (n : Nat) (x : Dword) : (s.setBar n x).captured = s.captured := rfl
@[simp] theorem State.setBar_hits (s : State) (n : Nat) (x : Dword) : (s.setBar n x).hits = s.hits := rfl
@[simp] theorem State.setBar_hostReqs (s : State) (n : Nat) (x : Dword) : (s.setBar n x).hostReqs = s.hostReqs := rfl
@[simp] theorem State.setBar_tableSnoops (s : State) (n : Nat) (x : Dword) : (s.setBar n x).tableSnoops = s.tableSnoops := rfl
@[simp] theorem State.setBar_rates (s : State) (n : Nat) (x : Dword) : (s.setBar n x).rates = s.rates := rfl
@[simp] theorem State.setBar_changing (s : State) (n : Nat) (x : Dword) : (s.setBar n x).changing = s.changing := rfl
@[simp] theorem State.setBar_portsDown (s : State) (n : Nat) (x : Dword) : (s.setBar n x).portsDown = s.portsDown := rfl
@[simp] theorem State.setBar_portsPcie (s : State) (n : Nat) (x : Dword) : (s.setBar n x).portsPcie = s.portsPcie := rfl
@[simp] theorem State.setBar_ualDown (s : State) (n : Nat) (x : Dword) : (s.setBar n x).ualDown = s.ualDown := rfl
@[simp] theorem State.setBar_errLog (s : State) (n : Nat) (x : Dword) : (s.setBar n x).errLog = s.errLog := rfl
@[simp] theorem State.setBar_mstate (s : State) (n : Nat) (x : Dword) : (s.setBar n x).mstate = s.mstate := rfl
@[simp] theorem State.setBar_cfgdef (s : State) (n : Nat) (x : Dword) : (s.setBar n x).cfgdef = s.cfgdef := rfl
@[simp] theorem State.setBar_throttle (s : State) (n : Nat) (x : Dword) : (s.setBar n x).throttle = s.throttle := rfl
@[simp] theorem State.setBar_clock (s : State) (n : Nat) (x : Dword) : (s.setBar n x).clock = s.clock := rfl
@[simp] theorem State.setBar_mresult (s : State) (n : Nat) (x : Dword) : (s.setBar n x).mresult = s.mresult := rfl
@[simp] theorem State.setBar_mbusy (s : State) (n : Nat) (x : Dword) : (s.setBar n x).mbusy = s.mbusy := rfl
@[simp] theorem State.setBar_mdata (s : State) (n : Nat) (x : Dword) : (s.setBar n x).mdata = s.mdata := rfl
@[simp] theorem State.setBar_cfg (s : State) (n : Nat) (x : Dword) : (s.setBar n x).cfg = s.cfg := rfl
@[simp] theorem State.setBar_flash (s : State) (n : Nat) (x : Dword) : (s.setBar n x).flash = s.flash := rfl
@[simp] theorem State.setBar_inputs (s : State) (n : Nat) (x : Dword) : (s.setBar n x).inputs = s.inputs := rfl
@[simp] theorem State.setBar_due (s : State) (n : Nat) (x : Dword) : (s.setBar n x).due = s.due := rfl
@[simp] theorem State.setBar_out (s : State) (n : Nat) (x : Dword) : (s.setBar n x).out = s.out := rfl
@[simp] theorem State.setBar_free (s : State) (n : Nat) (x : Dword) : (s.setBar n x).free = s.free := rfl
@[simp] theorem State.setBar_nextId (s : State) (n : Nat) (x : Dword) : (s.setBar n x).nextId = s.nextId := rfl
@[simp] theorem State.setBar_nextSeq (s : State) (n : Nat) (x : Dword) : (s.setBar n x).nextSeq = s.nextSeq := rfl
@[simp] theorem State.setBar_turn (s : State) (n : Nat) (x : Dword) : (s.setBar n x).turn = s.turn := rfl
@[simp] theorem State.setBar_served (s : State) (n : Nat) (x : Dword) : (s.setBar n x).served = s.served := rfl
@[simp] theorem State.setBar_copyTurn (s : State) (n : Nat) (x : Dword) : (s.setBar n x).copyTurn = s.copyTurn := rfl
@[simp] theorem State.setBar_sendTurn (s : State) (n : Nat) (x : Dword) : (s.setBar n x).sendTurn = s.sendTurn := rfl
@[simp] theorem State.setBar_sendsNext (s : State) (n : Nat) (x : Dword) : (s.setBar n x).sendsNext = s.sendsNext := rfl

/-! `setPcb` -/

@[simp] theorem State.setPcb_cs (s : State) (p n : Nat) (x : Dword) : (s.setPcb p n x).cs = s.cs := rfl
@[simp] theorem State.setPcb_others (s : State) (p n : Nat) (x : Dword) : (s.setPcb p n x).others = s.others := rfl
@[simp] theorem State.setPcb_mem (s : State) (p n : Nat) (x : Dword) : (s.setPcb p n x).mem = s.mem := rfl
@[simp] theorem State.setPcb_time (s : State) (p n : Nat) (x : Dword) : (s.setPcb p n x).time = s.time := rfl
@[simp] theorem State.setPcb_teams (s : State) (p n : Nat) (x : Dword) : (s.setPcb p n x).teams = s.teams := rfl
@[simp] theorem State.setPcb_arrays (s : State) (p n : Nat) (x : Dword) : (s.setPcb p n x).arrays = s.arrays := rfl
@[simp] theorem State.setPcb_hangRec (s : State) (p n : Nat) (x : Dword) : (s.setPcb p n x).hangRec = s.hangRec := rfl
@[simp] theorem State.setPcb_ctxs (s : State) (p n : Nat) (x : Dword) : (s.setPcb p n x).ctxs = s.ctxs := rfl
@[simp] theorem State.setPcb_launches (s : State) (p n : Nat) (x : Dword) : (s.setPcb p n x).launches = s.launches := rfl
@[simp] theorem State.setPcb_deficits (s : State) (p n : Nat) (x : Dword) : (s.setPcb p n x).deficits = s.deficits := rfl
@[simp] theorem State.setPcb_ptrs (s : State) (p n : Nat) (x : Dword) : (s.setPcb p n x).ptrs = s.ptrs := rfl
@[simp] theorem State.setPcb_pdes (s : State) (p n : Nat) (x : Dword) : (s.setPcb p n x).pdes = s.pdes := rfl
@[simp] theorem State.setPcb_badT2 (s : State) (p n : Nat) (x : Dword) : (s.setPcb p n x).badT2 = s.badT2 := rfl
@[simp] theorem State.setPcb_moves (s : State) (p n : Nat) (x : Dword) : (s.setPcb p n x).moves = s.moves := rfl
@[simp] theorem State.setPcb_resolves (s : State) (p n : Nat) (x : Dword) : (s.setPcb p n x).resolves = s.resolves := rfl
@[simp] theorem State.setPcb_tlb (s : State) (p n : Nat) (x : Dword) : (s.setPcb p n x).tlb = s.tlb := rfl
@[simp] theorem State.setPcb_walkprof (s : State) (p n : Nat) (x : Dword) : (s.setPcb p n x).walkprof = s.walkprof := rfl
@[simp] theorem State.setPcb_hangctl (s : State) (p n : Nat) (x : Dword) : (s.setPcb p n x).hangctl = s.hangctl := rfl
@[simp] theorem State.setPcb_pcb (s : State) (p n : Nat) (x : Dword) : (s.setPcb p n x).pcb = Sparse.set 0 s.pcb (p * 0x20000 + n) (x ^^^ pcbReset n) := rfl
@[simp] theorem State.setPcb_regions (s : State) (p n : Nat) (x : Dword) : (s.setPcb p n x).regions = s.regions := rfl
@[simp] theorem State.setPcb_bar0 (s : State) (p n : Nat) (x : Dword) : (s.setPcb p n x).bar0 = s.bar0 := rfl
@[simp] theorem State.setPcb_groups (s : State) (p n : Nat) (x : Dword) : (s.setPcb p n x).groups = s.groups := rfl
@[simp] theorem State.setPcb_units (s : State) (p n : Nat) (x : Dword) : (s.setPcb p n x).units = s.units := rfl
@[simp] theorem State.setPcb_sent (s : State) (p n : Nat) (x : Dword) : (s.setPcb p n x).sent = s.sent := rfl
@[simp] theorem State.setPcb_switch (s : State) (p n : Nat) (x : Dword) : (s.setPcb p n x).switch = s.switch := rfl
@[simp] theorem State.setPcb_cache (s : State) (p n : Nat) (x : Dword) : (s.setPcb p n x).cache = s.cache := rfl
@[simp] theorem State.setPcb_slots (s : State) (p n : Nat) (x : Dword) : (s.setPcb p n x).slots = s.slots := rfl
@[simp] theorem State.setPcb_opens (s : State) (p n : Nat) (x : Dword) : (s.setPcb p n x).opens = s.opens := rfl
@[simp] theorem State.setPcb_attached (s : State) (p n : Nat) (x : Dword) : (s.setPcb p n x).attached = s.attached := rfl
@[simp] theorem State.setPcb_ops (s : State) (p n : Nat) (x : Dword) : (s.setPcb p n x).ops = s.ops := rfl
@[simp] theorem State.setPcb_windows (s : State) (p n : Nat) (x : Dword) : (s.setPcb p n x).windows = s.windows := rfl
@[simp] theorem State.setPcb_pending (s : State) (p n : Nat) (x : Dword) : (s.setPcb p n x).pending = s.pending := rfl
@[simp] theorem State.setPcb_guest (s : State) (p n : Nat) (x : Dword) : (s.setPcb p n x).guest = s.guest := rfl
@[simp] theorem State.setPcb_fabSeq (s : State) (p n : Nat) (x : Dword) : (s.setPcb p n x).fabSeq = s.fabSeq := rfl
@[simp] theorem State.setPcb_fabNext (s : State) (p n : Nat) (x : Dword) : (s.setPcb p n x).fabNext = s.fabNext := rfl
@[simp] theorem State.setPcb_fabHeld (s : State) (p n : Nat) (x : Dword) : (s.setPcb p n x).fabHeld = s.fabHeld := rfl
@[simp] theorem State.setPcb_bidir (s : State) (p n : Nat) (x : Dword) : (s.setPcb p n x).bidir = s.bidir := rfl
@[simp] theorem State.setPcb_biShared (s : State) (p n : Nat) (x : Dword) : (s.setPcb p n x).biShared = s.biShared := rfl
@[simp] theorem State.setPcb_priOff (s : State) (p n : Nat) (x : Dword) : (s.setPcb p n x).priOff = s.priOff := rfl
@[simp] theorem State.setPcb_poison (s : State) (p n : Nat) (x : Dword) : (s.setPcb p n x).poison = s.poison := rfl
@[simp] theorem State.setPcb_corrected (s : State) (p n : Nat) (x : Dword) : (s.setPcb p n x).corrected = s.corrected := rfl
@[simp] theorem State.setPcb_l1 (s : State) (p n : Nat) (x : Dword) : (s.setPcb p n x).l1 = s.l1 := rfl
@[simp] theorem State.setPcb_holds (s : State) (p n : Nat) (x : Dword) : (s.setPcb p n x).holds = s.holds := rfl
@[simp] theorem State.setPcb_iommu (s : State) (p n : Nat) (x : Dword) : (s.setPcb p n x).iommu = s.iommu := rfl
@[simp] theorem State.setPcb_atc (s : State) (p n : Nat) (x : Dword) : (s.setPcb p n x).atc = s.atc := rfl
@[simp] theorem State.setPcb_walker (s : State) (p n : Nat) (x : Dword) : (s.setPcb p n x).walker = s.walker := rfl
@[simp] theorem State.setPcb_rows (s : State) (p n : Nat) (x : Dword) : (s.setPcb p n x).rows = s.rows := rfl
@[simp] theorem State.setPcb_captured (s : State) (p n : Nat) (x : Dword) : (s.setPcb p n x).captured = s.captured := rfl
@[simp] theorem State.setPcb_hits (s : State) (p n : Nat) (x : Dword) : (s.setPcb p n x).hits = s.hits := rfl
@[simp] theorem State.setPcb_hostReqs (s : State) (p n : Nat) (x : Dword) : (s.setPcb p n x).hostReqs = s.hostReqs := rfl
@[simp] theorem State.setPcb_tableSnoops (s : State) (p n : Nat) (x : Dword) : (s.setPcb p n x).tableSnoops = s.tableSnoops := rfl
@[simp] theorem State.setPcb_rates (s : State) (p n : Nat) (x : Dword) : (s.setPcb p n x).rates = s.rates := rfl
@[simp] theorem State.setPcb_changing (s : State) (p n : Nat) (x : Dword) : (s.setPcb p n x).changing = s.changing := rfl
@[simp] theorem State.setPcb_portsDown (s : State) (p n : Nat) (x : Dword) : (s.setPcb p n x).portsDown = s.portsDown := rfl
@[simp] theorem State.setPcb_portsPcie (s : State) (p n : Nat) (x : Dword) : (s.setPcb p n x).portsPcie = s.portsPcie := rfl
@[simp] theorem State.setPcb_ualDown (s : State) (p n : Nat) (x : Dword) : (s.setPcb p n x).ualDown = s.ualDown := rfl
@[simp] theorem State.setPcb_errLog (s : State) (p n : Nat) (x : Dword) : (s.setPcb p n x).errLog = s.errLog := rfl
@[simp] theorem State.setPcb_mstate (s : State) (p n : Nat) (x : Dword) : (s.setPcb p n x).mstate = s.mstate := rfl
@[simp] theorem State.setPcb_cfgdef (s : State) (p n : Nat) (x : Dword) : (s.setPcb p n x).cfgdef = s.cfgdef := rfl
@[simp] theorem State.setPcb_throttle (s : State) (p n : Nat) (x : Dword) : (s.setPcb p n x).throttle = s.throttle := rfl
@[simp] theorem State.setPcb_clock (s : State) (p n : Nat) (x : Dword) : (s.setPcb p n x).clock = s.clock := rfl
@[simp] theorem State.setPcb_mresult (s : State) (p n : Nat) (x : Dword) : (s.setPcb p n x).mresult = s.mresult := rfl
@[simp] theorem State.setPcb_mbusy (s : State) (p n : Nat) (x : Dword) : (s.setPcb p n x).mbusy = s.mbusy := rfl
@[simp] theorem State.setPcb_mdata (s : State) (p n : Nat) (x : Dword) : (s.setPcb p n x).mdata = s.mdata := rfl
@[simp] theorem State.setPcb_cfg (s : State) (p n : Nat) (x : Dword) : (s.setPcb p n x).cfg = s.cfg := rfl
@[simp] theorem State.setPcb_flash (s : State) (p n : Nat) (x : Dword) : (s.setPcb p n x).flash = s.flash := rfl
@[simp] theorem State.setPcb_inputs (s : State) (p n : Nat) (x : Dword) : (s.setPcb p n x).inputs = s.inputs := rfl
@[simp] theorem State.setPcb_due (s : State) (p n : Nat) (x : Dword) : (s.setPcb p n x).due = s.due := rfl
@[simp] theorem State.setPcb_out (s : State) (p n : Nat) (x : Dword) : (s.setPcb p n x).out = s.out := rfl
@[simp] theorem State.setPcb_free (s : State) (p n : Nat) (x : Dword) : (s.setPcb p n x).free = s.free := rfl
@[simp] theorem State.setPcb_nextId (s : State) (p n : Nat) (x : Dword) : (s.setPcb p n x).nextId = s.nextId := rfl
@[simp] theorem State.setPcb_nextSeq (s : State) (p n : Nat) (x : Dword) : (s.setPcb p n x).nextSeq = s.nextSeq := rfl
@[simp] theorem State.setPcb_turn (s : State) (p n : Nat) (x : Dword) : (s.setPcb p n x).turn = s.turn := rfl
@[simp] theorem State.setPcb_served (s : State) (p n : Nat) (x : Dword) : (s.setPcb p n x).served = s.served := rfl
@[simp] theorem State.setPcb_copyTurn (s : State) (p n : Nat) (x : Dword) : (s.setPcb p n x).copyTurn = s.copyTurn := rfl
@[simp] theorem State.setPcb_sendTurn (s : State) (p n : Nat) (x : Dword) : (s.setPcb p n x).sendTurn = s.sendTurn := rfl
@[simp] theorem State.setPcb_sendsNext (s : State) (p n : Nat) (x : Dword) : (s.setPcb p n x).sendsNext = s.sendsNext := rfl

/-! `setSc` -/

@[simp] theorem Strand.setSc_live (t : Strand) (n : BitVec 6) (x : Dword) : (t.setSc n x).live = t.live := by unfold Strand.setSc; split <;> rfl
@[simp] theorem Strand.setSc_team (t : Strand) (n : BitVec 6) (x : Dword) : (t.setSc n x).team = t.team := by unfold Strand.setSc; split <;> rfl
@[simp] theorem Strand.setSc_sid (t : Strand) (n : BitVec 6) (x : Dword) : (t.setSc n x).sid = t.sid := by unfold Strand.setSc; split <;> rfl
@[simp] theorem Strand.setSc_die (t : Strand) (n : BitVec 6) (x : Dword) : (t.setSc n x).die = t.die := by unfold Strand.setSc; split <;> rfl
@[simp] theorem Strand.setSc_tile (t : Strand) (n : BitVec 6) (x : Dword) : (t.setSc n x).tile = t.tile := by unfold Strand.setSc; split <;> rfl
@[simp] theorem Strand.setSc_core (t : Strand) (n : BitVec 6) (x : Dword) : (t.setSc n x).core = t.core := by unfold Strand.setSc; split <;> rfl
@[simp] theorem Strand.setSc_slot (t : Strand) (n : BitVec 6) (x : Dword) : (t.setSc n x).slot = t.slot := by unfold Strand.setSc; split <;> rfl
@[simp] theorem Strand.setSc_ctx (t : Strand) (n : BitVec 6) (x : Dword) : (t.setSc n x).ctx = t.ctx := by unfold Strand.setSc; split <;> rfl
@[simp] theorem Strand.setSc_pc (t : Strand) (n : BitVec 6) (x : Dword) : (t.setSc n x).pc = t.pc := by unfold Strand.setSc; split <;> rfl
@[simp] theorem Strand.setSc_v (t : Strand) (n : BitVec 6) (x : Dword) : (t.setSc n x).v = t.v := by unfold Strand.setSc; split <;> rfl
@[simp] theorem Strand.setSc_m (t : Strand) (n : BitVec 6) (x : Dword) : (t.setSc n x).m = t.m := by unfold Strand.setSc; split <;> rfl
@[simp] theorem Strand.setSc_d (t : Strand) (n : BitVec 6) (x : Dword) : (t.setSc n x).d = t.d := by unfold Strand.setSc; split <;> rfl
@[simp] theorem Strand.setSc_dq (t : Strand) (n : BitVec 6) (x : Dword) : (t.setSc n x).dq = t.dq := by unfold Strand.setSc; split <;> rfl
@[simp] theorem Strand.setSc_e (t : Strand) (n : BitVec 6) (x : Dword) : (t.setSc n x).e = t.e := by unfold Strand.setSc; split <;> rfl
@[simp] theorem Strand.setSc_loops (t : Strand) (n : BitVec 6) (x : Dword) : (t.setSc n x).loops = t.loops := by unfold Strand.setSc; split <;> rfl
@[simp] theorem Strand.setSc_flags (t : Strand) (n : BitVec 6) (x : Dword) : (t.setSc n x).flags = t.flags := by unfold Strand.setSc; split <;> rfl
@[simp] theorem Strand.setSc_rndm (t : Strand) (n : BitVec 6) (x : Dword) : (t.setSc n x).rndm = t.rndm := by unfold Strand.setSc; split <;> rfl
@[simp] theorem Strand.setSc_scbm (t : Strand) (n : BitVec 6) (x : Dword) : (t.setSc n x).scbm = t.scbm := by unfold Strand.setSc; split <;> rfl
@[simp] theorem Strand.setSc_srseed (t : Strand) (n : BitVec 6) (x : Dword) : (t.setSc n x).srseed = t.srseed := by unfold Strand.setSc; split <;> rfl
@[simp] theorem Strand.setSc_srstream (t : Strand) (n : BitVec 6) (x : Dword) : (t.setSc n x).srstream = t.srstream := by unfold Strand.setSc; split <;> rfl
@[simp] theorem Strand.setSc_rbtab (t : Strand) (n : BitVec 6) (x : Dword) : (t.setSc n x).rbtab = t.rbtab := by unfold Strand.setSc; split <;> rfl
@[simp] theorem Strand.setSc_stat (t : Strand) (n : BitVec 6) (x : Dword) : (t.setSc n x).stat = t.stat := by unfold Strand.setSc; split <;> rfl
@[simp] theorem Strand.setSc_teamid (t : Strand) (n : BitVec 6) (x : Dword) : (t.setSc n x).teamid = t.teamid := by unfold Strand.setSc; split <;> rfl
@[simp] theorem Strand.setSc_teamsize (t : Strand) (n : BitVec 6) (x : Dword) : (t.setSc n x).teamsize = t.teamsize := by unfold Strand.setSc; split <;> rfl
@[simp] theorem Strand.setSc_tsbase (t : Strand) (n : BitVec 6) (x : Dword) : (t.setSc n x).tsbase = t.tsbase := by unfold Strand.setSc; split <;> rfl
@[simp] theorem Strand.setSc_dswbase (t : Strand) (n : BitVec 6) (x : Dword) : (t.setSc n x).dswbase = t.dswbase := by unfold Strand.setSc; split <;> rfl
@[simp] theorem Strand.setSc_lpb (t : Strand) (n : BitVec 6) (x : Dword) : (t.setSc n x).lpb = t.lpb := by unfold Strand.setSc; split <;> rfl
@[simp] theorem Strand.setSc_p (t : Strand) (n : BitVec 6) (x : Dword) : (t.setSc n x).p = t.p := by unfold Strand.setSc; split <;> rfl
@[simp] theorem Strand.setSc_pp (t : Strand) (n : BitVec 6) (x : Dword) : (t.setSc n x).pp = t.pp := by unfold Strand.setSc; split <;> rfl
@[simp] theorem Strand.setSc_tvec (t : Strand) (n : BitVec 6) (x : Dword) : (t.setSc n x).tvec = t.tvec := by unfold Strand.setSc; split <;> rfl
@[simp] theorem Strand.setSc_tcause (t : Strand) (n : BitVec 6) (x : Dword) : (t.setSc n x).tcause = t.tcause := by unfold Strand.setSc; split <;> rfl
@[simp] theorem Strand.setSc_tval (t : Strand) (n : BitVec 6) (x : Dword) : (t.setSc n x).tval = t.tval := by unfold Strand.setSc; split <;> rfl
@[simp] theorem Strand.setSc_tepc (t : Strand) (n : BitVec 6) (x : Dword) : (t.setSc n x).tepc = t.tepc := by unfold Strand.setSc; split <;> rfl
@[simp] theorem Strand.setSc_tqHalted (t : Strand) (n : BitVec 6) (x : Dword) : (t.setSc n x).tqHalted = t.tqHalted := by unfold Strand.setSc; split <;> rfl
@[simp] theorem Strand.setSc_tqNonempty (t : Strand) (n : BitVec 6) (x : Dword) : (t.setSc n x).tqNonempty = t.tqNonempty := by unfold Strand.setSc; split <;> rfl
@[simp] theorem Strand.setSc_pfx (t : Strand) (n : BitVec 6) (x : Dword) : (t.setSc n x).pfx = t.pfx := by unfold Strand.setSc; split <;> rfl
@[simp] theorem Strand.setSc_unit (t : Strand) (n : BitVec 6) (x : Dword) : (t.setSc n x).unit = t.unit := by unfold Strand.setSc; split <;> rfl
@[simp] theorem Strand.setSc_held (t : Strand) (n : BitVec 6) (x : Dword) : (t.setSc n x).held = t.held := by unfold Strand.setSc; split <;> rfl
@[simp] theorem Strand.setSc_fetchHold (t : Strand) (n : BitVec 6) (x : Dword) : (t.setSc n x).fetchHold = t.fetchHold := by unfold Strand.setSc; split <;> rfl
@[simp] theorem Strand.setSc_parkEnded (t : Strand) (n : BitVec 6) (x : Dword) : (t.setSc n x).parkEnded = t.parkEnded := by unfold Strand.setSc; split <;> rfl
@[simp] theorem Strand.setSc_q (t : Strand) (n : BitVec 6) (x : Dword) : (t.setSc n x).q = t.q := by unfold Strand.setSc; split <;> rfl
@[simp] theorem Strand.setSc_arec (t : Strand) (n : BitVec 6) (x : Dword) : (t.setSc n x).arec = t.arec := by unfold Strand.setSc; split <;> rfl
@[simp] theorem Strand.setSc_resume (t : Strand) (n : BitVec 6) (x : Dword) : (t.setSc n x).resume = t.resume := by unfold Strand.setSc; split <;> rfl
@[simp] theorem Strand.setSc_frame (t : Strand) (n : BitVec 6) (x : Dword) : (t.setSc n x).frame = t.frame := by unfold Strand.setSc; split <;> rfl
@[simp] theorem Strand.setSc_tables (t : Strand) (n : BitVec 6) (x : Dword) : (t.setSc n x).tables = t.tables := by unfold Strand.setSc; split <;> rfl
@[simp] theorem Strand.setSc_topk (t : Strand) (n : BitVec 6) (x : Dword) : (t.setSc n x).topk = t.topk := by unfold Strand.setSc; split <;> rfl
@[simp] theorem Strand.setSc_pend (t : Strand) (n : BitVec 6) (x : Dword) : (t.setSc n x).pend = t.pend := by unfold Strand.setSc; split <;> rfl
@[simp] theorem Strand.setSc_spend (t : Strand) (n : BitVec 6) (x : Dword) : (t.setSc n x).spend = t.spend := by unfold Strand.setSc; split <;> rfl
@[simp] theorem Strand.setSc_vclk (t : Strand) (n : BitVec 6) (x : Dword) : (t.setSc n x).vclk = t.vclk := by unfold Strand.setSc; split <;> rfl
@[simp] theorem Strand.setSc_sclk (t : Strand) (n : BitVec 6) (x : Dword) : (t.setSc n x).sclk = t.sclk := by unfold Strand.setSc; split <;> rfl
@[simp] theorem Strand.setSc_barPhase (t : Strand) (n : BitVec 6) (x : Dword) : (t.setSc n x).barPhase = t.barPhase := by unfold Strand.setSc; split <;> rfl
@[simp] theorem Strand.setSc_barDropped (t : Strand) (n : BitVec 6) (x : Dword) : (t.setSc n x).barDropped = t.barDropped := by unfold Strand.setSc; split <;> rfl
@[simp] theorem Strand.setSc_syncArrived (t : Strand) (n : BitVec 6) (x : Dword) : (t.setSc n x).syncArrived = t.syncArrived := by unfold Strand.setSc; split <;> rfl
@[simp] theorem Strand.setSc_pauseEnd (t : Strand) (n : BitVec 6) (x : Dword) : (t.setSc n x).pauseEnd = t.pauseEnd := by unfold Strand.setSc; split <;> rfl
@[simp] theorem Strand.setSc_mtx (t : Strand) (n : BitVec 6) (x : Dword) : (t.setSc n x).mtx = t.mtx := by unfold Strand.setSc; split <;> rfl
@[simp] theorem Strand.setSc_mreq (t : Strand) (n : BitVec 6) (x : Dword) : (t.setSc n x).mreq = t.mreq := by unfold Strand.setSc; split <;> rfl
@[simp] theorem Strand.setSc_xpend (t : Strand) (n : BitVec 6) (x : Dword) : (t.setSc n x).xpend = t.xpend := by unfold Strand.setSc; split <;> rfl
@[simp] theorem Strand.setSc_fetchReq (t : Strand) (n : BitVec 6) (x : Dword) : (t.setSc n x).fetchReq = t.fetchReq := by unfold Strand.setSc; split <;> rfl
@[simp] theorem Strand.setSc_answered (t : Strand) (n : BitVec 6) (x : Dword) : (t.setSc n x).answered = t.answered := by unfold Strand.setSc; split <;> rfl
@[simp] theorem Strand.setSc_timeUp (t : Strand) (n : BitVec 6) (x : Dword) : (t.setSc n x).timeUp = t.timeUp := by unfold Strand.setSc; split <;> rfl
@[simp] theorem Strand.setSc_mdesc (t : Strand) (n : BitVec 6) (x : Dword) : (t.setSc n x).mdesc = t.mdesc := by unfold Strand.setSc; split <;> rfl
@[simp] theorem Strand.setSc_inval (t : Strand) (n : BitVec 6) (x : Dword) : (t.setSc n x).inval = t.inval := by unfold Strand.setSc; split <;> rfl
@[simp] theorem Strand.setSc_hangTimer (t : Strand) (n : BitVec 6) (x : Dword) : (t.setSc n x).hangTimer = t.hangTimer := by unfold Strand.setSc; split <;> rfl
@[simp] theorem Strand.setSc_cyc (t : Strand) (n : BitVec 6) (x : Dword) : (t.setSc n x).cyc = t.cyc := by unfold Strand.setSc; split <;> rfl

/-! `setVr` -/

@[simp] theorem Strand.setVr_live (t : Strand) (n : Nat) (x : Vec) : (t.setVr n x).live = t.live := rfl
@[simp] theorem Strand.setVr_team (t : Strand) (n : Nat) (x : Vec) : (t.setVr n x).team = t.team := rfl
@[simp] theorem Strand.setVr_sid (t : Strand) (n : Nat) (x : Vec) : (t.setVr n x).sid = t.sid := rfl
@[simp] theorem Strand.setVr_die (t : Strand) (n : Nat) (x : Vec) : (t.setVr n x).die = t.die := rfl
@[simp] theorem Strand.setVr_tile (t : Strand) (n : Nat) (x : Vec) : (t.setVr n x).tile = t.tile := rfl
@[simp] theorem Strand.setVr_core (t : Strand) (n : Nat) (x : Vec) : (t.setVr n x).core = t.core := rfl
@[simp] theorem Strand.setVr_slot (t : Strand) (n : Nat) (x : Vec) : (t.setVr n x).slot = t.slot := rfl
@[simp] theorem Strand.setVr_ctx (t : Strand) (n : Nat) (x : Vec) : (t.setVr n x).ctx = t.ctx := rfl
@[simp] theorem Strand.setVr_pc (t : Strand) (n : Nat) (x : Vec) : (t.setVr n x).pc = t.pc := rfl
@[simp] theorem Strand.setVr_s (t : Strand) (n : Nat) (x : Vec) : (t.setVr n x).s = t.s := rfl
@[simp] theorem Strand.setVr_v (t : Strand) (n : Nat) (x : Vec) : (t.setVr n x).v = Sparse.set 0 t.v n x := rfl
@[simp] theorem Strand.setVr_m (t : Strand) (n : Nat) (x : Vec) : (t.setVr n x).m = t.m := rfl
@[simp] theorem Strand.setVr_d (t : Strand) (n : Nat) (x : Vec) : (t.setVr n x).d = t.d := rfl
@[simp] theorem Strand.setVr_dq (t : Strand) (n : Nat) (x : Vec) : (t.setVr n x).dq = t.dq := rfl
@[simp] theorem Strand.setVr_e (t : Strand) (n : Nat) (x : Vec) : (t.setVr n x).e = t.e := rfl
@[simp] theorem Strand.setVr_loops (t : Strand) (n : Nat) (x : Vec) : (t.setVr n x).loops = t.loops := rfl
@[simp] theorem Strand.setVr_flags (t : Strand) (n : Nat) (x : Vec) : (t.setVr n x).flags = t.flags := rfl
@[simp] theorem Strand.setVr_rndm (t : Strand) (n : Nat) (x : Vec) : (t.setVr n x).rndm = t.rndm := rfl
@[simp] theorem Strand.setVr_scbm (t : Strand) (n : Nat) (x : Vec) : (t.setVr n x).scbm = t.scbm := rfl
@[simp] theorem Strand.setVr_srseed (t : Strand) (n : Nat) (x : Vec) : (t.setVr n x).srseed = t.srseed := rfl
@[simp] theorem Strand.setVr_srstream (t : Strand) (n : Nat) (x : Vec) : (t.setVr n x).srstream = t.srstream := rfl
@[simp] theorem Strand.setVr_rbtab (t : Strand) (n : Nat) (x : Vec) : (t.setVr n x).rbtab = t.rbtab := rfl
@[simp] theorem Strand.setVr_stat (t : Strand) (n : Nat) (x : Vec) : (t.setVr n x).stat = t.stat := rfl
@[simp] theorem Strand.setVr_teamid (t : Strand) (n : Nat) (x : Vec) : (t.setVr n x).teamid = t.teamid := rfl
@[simp] theorem Strand.setVr_teamsize (t : Strand) (n : Nat) (x : Vec) : (t.setVr n x).teamsize = t.teamsize := rfl
@[simp] theorem Strand.setVr_tsbase (t : Strand) (n : Nat) (x : Vec) : (t.setVr n x).tsbase = t.tsbase := rfl
@[simp] theorem Strand.setVr_dswbase (t : Strand) (n : Nat) (x : Vec) : (t.setVr n x).dswbase = t.dswbase := rfl
@[simp] theorem Strand.setVr_lpb (t : Strand) (n : Nat) (x : Vec) : (t.setVr n x).lpb = t.lpb := rfl
@[simp] theorem Strand.setVr_p (t : Strand) (n : Nat) (x : Vec) : (t.setVr n x).p = t.p := rfl
@[simp] theorem Strand.setVr_pp (t : Strand) (n : Nat) (x : Vec) : (t.setVr n x).pp = t.pp := rfl
@[simp] theorem Strand.setVr_tvec (t : Strand) (n : Nat) (x : Vec) : (t.setVr n x).tvec = t.tvec := rfl
@[simp] theorem Strand.setVr_tcause (t : Strand) (n : Nat) (x : Vec) : (t.setVr n x).tcause = t.tcause := rfl
@[simp] theorem Strand.setVr_tval (t : Strand) (n : Nat) (x : Vec) : (t.setVr n x).tval = t.tval := rfl
@[simp] theorem Strand.setVr_tepc (t : Strand) (n : Nat) (x : Vec) : (t.setVr n x).tepc = t.tepc := rfl
@[simp] theorem Strand.setVr_tqHalted (t : Strand) (n : Nat) (x : Vec) : (t.setVr n x).tqHalted = t.tqHalted := rfl
@[simp] theorem Strand.setVr_tqNonempty (t : Strand) (n : Nat) (x : Vec) : (t.setVr n x).tqNonempty = t.tqNonempty := rfl
@[simp] theorem Strand.setVr_pfx (t : Strand) (n : Nat) (x : Vec) : (t.setVr n x).pfx = t.pfx := rfl
@[simp] theorem Strand.setVr_unit (t : Strand) (n : Nat) (x : Vec) : (t.setVr n x).unit = t.unit := rfl
@[simp] theorem Strand.setVr_held (t : Strand) (n : Nat) (x : Vec) : (t.setVr n x).held = t.held := rfl
@[simp] theorem Strand.setVr_fetchHold (t : Strand) (n : Nat) (x : Vec) : (t.setVr n x).fetchHold = t.fetchHold := rfl
@[simp] theorem Strand.setVr_parkEnded (t : Strand) (n : Nat) (x : Vec) : (t.setVr n x).parkEnded = t.parkEnded := rfl
@[simp] theorem Strand.setVr_q (t : Strand) (n : Nat) (x : Vec) : (t.setVr n x).q = t.q := rfl
@[simp] theorem Strand.setVr_arec (t : Strand) (n : Nat) (x : Vec) : (t.setVr n x).arec = t.arec := rfl
@[simp] theorem Strand.setVr_resume (t : Strand) (n : Nat) (x : Vec) : (t.setVr n x).resume = t.resume := rfl
@[simp] theorem Strand.setVr_frame (t : Strand) (n : Nat) (x : Vec) : (t.setVr n x).frame = t.frame := rfl
@[simp] theorem Strand.setVr_tables (t : Strand) (n : Nat) (x : Vec) : (t.setVr n x).tables = t.tables := rfl
@[simp] theorem Strand.setVr_topk (t : Strand) (n : Nat) (x : Vec) : (t.setVr n x).topk = t.topk := rfl
@[simp] theorem Strand.setVr_pend (t : Strand) (n : Nat) (x : Vec) : (t.setVr n x).pend = t.pend := rfl
@[simp] theorem Strand.setVr_spend (t : Strand) (n : Nat) (x : Vec) : (t.setVr n x).spend = t.spend := rfl
@[simp] theorem Strand.setVr_vclk (t : Strand) (n : Nat) (x : Vec) : (t.setVr n x).vclk = t.vclk := rfl
@[simp] theorem Strand.setVr_sclk (t : Strand) (n : Nat) (x : Vec) : (t.setVr n x).sclk = t.sclk := rfl
@[simp] theorem Strand.setVr_barPhase (t : Strand) (n : Nat) (x : Vec) : (t.setVr n x).barPhase = t.barPhase := rfl
@[simp] theorem Strand.setVr_barDropped (t : Strand) (n : Nat) (x : Vec) : (t.setVr n x).barDropped = t.barDropped := rfl
@[simp] theorem Strand.setVr_syncArrived (t : Strand) (n : Nat) (x : Vec) : (t.setVr n x).syncArrived = t.syncArrived := rfl
@[simp] theorem Strand.setVr_pauseEnd (t : Strand) (n : Nat) (x : Vec) : (t.setVr n x).pauseEnd = t.pauseEnd := rfl
@[simp] theorem Strand.setVr_mtx (t : Strand) (n : Nat) (x : Vec) : (t.setVr n x).mtx = t.mtx := rfl
@[simp] theorem Strand.setVr_mreq (t : Strand) (n : Nat) (x : Vec) : (t.setVr n x).mreq = t.mreq := rfl
@[simp] theorem Strand.setVr_xpend (t : Strand) (n : Nat) (x : Vec) : (t.setVr n x).xpend = t.xpend := rfl
@[simp] theorem Strand.setVr_fetchReq (t : Strand) (n : Nat) (x : Vec) : (t.setVr n x).fetchReq = t.fetchReq := rfl
@[simp] theorem Strand.setVr_answered (t : Strand) (n : Nat) (x : Vec) : (t.setVr n x).answered = t.answered := rfl
@[simp] theorem Strand.setVr_timeUp (t : Strand) (n : Nat) (x : Vec) : (t.setVr n x).timeUp = t.timeUp := rfl
@[simp] theorem Strand.setVr_mdesc (t : Strand) (n : Nat) (x : Vec) : (t.setVr n x).mdesc = t.mdesc := rfl
@[simp] theorem Strand.setVr_inval (t : Strand) (n : Nat) (x : Vec) : (t.setVr n x).inval = t.inval := rfl
@[simp] theorem Strand.setVr_damage (t : Strand) (n : Nat) (x : Vec) : (t.setVr n x).damage = t.damage.filter (· ≠ .vector n) := rfl
@[simp] theorem Strand.setVr_hangTimer (t : Strand) (n : Nat) (x : Vec) : (t.setVr n x).hangTimer = t.hangTimer := rfl
@[simp] theorem Strand.setVr_cyc (t : Strand) (n : Nat) (x : Vec) : (t.setVr n x).cyc = t.cyc := rfl

/-! `setMr` -/

@[simp] theorem Strand.setMr_live (t : Strand) (n : Nat) (x : Mask) : (t.setMr n x).live = t.live := rfl
@[simp] theorem Strand.setMr_team (t : Strand) (n : Nat) (x : Mask) : (t.setMr n x).team = t.team := rfl
@[simp] theorem Strand.setMr_sid (t : Strand) (n : Nat) (x : Mask) : (t.setMr n x).sid = t.sid := rfl
@[simp] theorem Strand.setMr_die (t : Strand) (n : Nat) (x : Mask) : (t.setMr n x).die = t.die := rfl
@[simp] theorem Strand.setMr_tile (t : Strand) (n : Nat) (x : Mask) : (t.setMr n x).tile = t.tile := rfl
@[simp] theorem Strand.setMr_core (t : Strand) (n : Nat) (x : Mask) : (t.setMr n x).core = t.core := rfl
@[simp] theorem Strand.setMr_slot (t : Strand) (n : Nat) (x : Mask) : (t.setMr n x).slot = t.slot := rfl
@[simp] theorem Strand.setMr_ctx (t : Strand) (n : Nat) (x : Mask) : (t.setMr n x).ctx = t.ctx := rfl
@[simp] theorem Strand.setMr_pc (t : Strand) (n : Nat) (x : Mask) : (t.setMr n x).pc = t.pc := rfl
@[simp] theorem Strand.setMr_s (t : Strand) (n : Nat) (x : Mask) : (t.setMr n x).s = t.s := rfl
@[simp] theorem Strand.setMr_v (t : Strand) (n : Nat) (x : Mask) : (t.setMr n x).v = t.v := rfl
@[simp] theorem Strand.setMr_m (t : Strand) (n : Nat) (x : Mask) : (t.setMr n x).m = Sparse.set 0 t.m n x := rfl
@[simp] theorem Strand.setMr_d (t : Strand) (n : Nat) (x : Mask) : (t.setMr n x).d = t.d := rfl
@[simp] theorem Strand.setMr_dq (t : Strand) (n : Nat) (x : Mask) : (t.setMr n x).dq = t.dq := rfl
@[simp] theorem Strand.setMr_e (t : Strand) (n : Nat) (x : Mask) : (t.setMr n x).e = t.e := rfl
@[simp] theorem Strand.setMr_loops (t : Strand) (n : Nat) (x : Mask) : (t.setMr n x).loops = t.loops := rfl
@[simp] theorem Strand.setMr_flags (t : Strand) (n : Nat) (x : Mask) : (t.setMr n x).flags = t.flags := rfl
@[simp] theorem Strand.setMr_rndm (t : Strand) (n : Nat) (x : Mask) : (t.setMr n x).rndm = t.rndm := rfl
@[simp] theorem Strand.setMr_scbm (t : Strand) (n : Nat) (x : Mask) : (t.setMr n x).scbm = t.scbm := rfl
@[simp] theorem Strand.setMr_srseed (t : Strand) (n : Nat) (x : Mask) : (t.setMr n x).srseed = t.srseed := rfl
@[simp] theorem Strand.setMr_srstream (t : Strand) (n : Nat) (x : Mask) : (t.setMr n x).srstream = t.srstream := rfl
@[simp] theorem Strand.setMr_rbtab (t : Strand) (n : Nat) (x : Mask) : (t.setMr n x).rbtab = t.rbtab := rfl
@[simp] theorem Strand.setMr_stat (t : Strand) (n : Nat) (x : Mask) : (t.setMr n x).stat = t.stat := rfl
@[simp] theorem Strand.setMr_teamid (t : Strand) (n : Nat) (x : Mask) : (t.setMr n x).teamid = t.teamid := rfl
@[simp] theorem Strand.setMr_teamsize (t : Strand) (n : Nat) (x : Mask) : (t.setMr n x).teamsize = t.teamsize := rfl
@[simp] theorem Strand.setMr_tsbase (t : Strand) (n : Nat) (x : Mask) : (t.setMr n x).tsbase = t.tsbase := rfl
@[simp] theorem Strand.setMr_dswbase (t : Strand) (n : Nat) (x : Mask) : (t.setMr n x).dswbase = t.dswbase := rfl
@[simp] theorem Strand.setMr_lpb (t : Strand) (n : Nat) (x : Mask) : (t.setMr n x).lpb = t.lpb := rfl
@[simp] theorem Strand.setMr_p (t : Strand) (n : Nat) (x : Mask) : (t.setMr n x).p = t.p := rfl
@[simp] theorem Strand.setMr_pp (t : Strand) (n : Nat) (x : Mask) : (t.setMr n x).pp = t.pp := rfl
@[simp] theorem Strand.setMr_tvec (t : Strand) (n : Nat) (x : Mask) : (t.setMr n x).tvec = t.tvec := rfl
@[simp] theorem Strand.setMr_tcause (t : Strand) (n : Nat) (x : Mask) : (t.setMr n x).tcause = t.tcause := rfl
@[simp] theorem Strand.setMr_tval (t : Strand) (n : Nat) (x : Mask) : (t.setMr n x).tval = t.tval := rfl
@[simp] theorem Strand.setMr_tepc (t : Strand) (n : Nat) (x : Mask) : (t.setMr n x).tepc = t.tepc := rfl
@[simp] theorem Strand.setMr_tqHalted (t : Strand) (n : Nat) (x : Mask) : (t.setMr n x).tqHalted = t.tqHalted := rfl
@[simp] theorem Strand.setMr_tqNonempty (t : Strand) (n : Nat) (x : Mask) : (t.setMr n x).tqNonempty = t.tqNonempty := rfl
@[simp] theorem Strand.setMr_pfx (t : Strand) (n : Nat) (x : Mask) : (t.setMr n x).pfx = t.pfx := rfl
@[simp] theorem Strand.setMr_unit (t : Strand) (n : Nat) (x : Mask) : (t.setMr n x).unit = t.unit := rfl
@[simp] theorem Strand.setMr_held (t : Strand) (n : Nat) (x : Mask) : (t.setMr n x).held = t.held := rfl
@[simp] theorem Strand.setMr_fetchHold (t : Strand) (n : Nat) (x : Mask) : (t.setMr n x).fetchHold = t.fetchHold := rfl
@[simp] theorem Strand.setMr_parkEnded (t : Strand) (n : Nat) (x : Mask) : (t.setMr n x).parkEnded = t.parkEnded := rfl
@[simp] theorem Strand.setMr_q (t : Strand) (n : Nat) (x : Mask) : (t.setMr n x).q = t.q := rfl
@[simp] theorem Strand.setMr_arec (t : Strand) (n : Nat) (x : Mask) : (t.setMr n x).arec = t.arec := rfl
@[simp] theorem Strand.setMr_resume (t : Strand) (n : Nat) (x : Mask) : (t.setMr n x).resume = t.resume := rfl
@[simp] theorem Strand.setMr_frame (t : Strand) (n : Nat) (x : Mask) : (t.setMr n x).frame = t.frame := rfl
@[simp] theorem Strand.setMr_tables (t : Strand) (n : Nat) (x : Mask) : (t.setMr n x).tables = t.tables := rfl
@[simp] theorem Strand.setMr_topk (t : Strand) (n : Nat) (x : Mask) : (t.setMr n x).topk = t.topk := rfl
@[simp] theorem Strand.setMr_pend (t : Strand) (n : Nat) (x : Mask) : (t.setMr n x).pend = t.pend := rfl
@[simp] theorem Strand.setMr_spend (t : Strand) (n : Nat) (x : Mask) : (t.setMr n x).spend = t.spend := rfl
@[simp] theorem Strand.setMr_vclk (t : Strand) (n : Nat) (x : Mask) : (t.setMr n x).vclk = t.vclk := rfl
@[simp] theorem Strand.setMr_sclk (t : Strand) (n : Nat) (x : Mask) : (t.setMr n x).sclk = t.sclk := rfl
@[simp] theorem Strand.setMr_barPhase (t : Strand) (n : Nat) (x : Mask) : (t.setMr n x).barPhase = t.barPhase := rfl
@[simp] theorem Strand.setMr_barDropped (t : Strand) (n : Nat) (x : Mask) : (t.setMr n x).barDropped = t.barDropped := rfl
@[simp] theorem Strand.setMr_syncArrived (t : Strand) (n : Nat) (x : Mask) : (t.setMr n x).syncArrived = t.syncArrived := rfl
@[simp] theorem Strand.setMr_pauseEnd (t : Strand) (n : Nat) (x : Mask) : (t.setMr n x).pauseEnd = t.pauseEnd := rfl
@[simp] theorem Strand.setMr_mtx (t : Strand) (n : Nat) (x : Mask) : (t.setMr n x).mtx = t.mtx := rfl
@[simp] theorem Strand.setMr_mreq (t : Strand) (n : Nat) (x : Mask) : (t.setMr n x).mreq = t.mreq := rfl
@[simp] theorem Strand.setMr_xpend (t : Strand) (n : Nat) (x : Mask) : (t.setMr n x).xpend = t.xpend := rfl
@[simp] theorem Strand.setMr_fetchReq (t : Strand) (n : Nat) (x : Mask) : (t.setMr n x).fetchReq = t.fetchReq := rfl
@[simp] theorem Strand.setMr_answered (t : Strand) (n : Nat) (x : Mask) : (t.setMr n x).answered = t.answered := rfl
@[simp] theorem Strand.setMr_timeUp (t : Strand) (n : Nat) (x : Mask) : (t.setMr n x).timeUp = t.timeUp := rfl
@[simp] theorem Strand.setMr_mdesc (t : Strand) (n : Nat) (x : Mask) : (t.setMr n x).mdesc = t.mdesc := rfl
@[simp] theorem Strand.setMr_inval (t : Strand) (n : Nat) (x : Mask) : (t.setMr n x).inval = t.inval := rfl
@[simp] theorem Strand.setMr_damage (t : Strand) (n : Nat) (x : Mask) : (t.setMr n x).damage = t.damage.filter (· ≠ .mask n) := rfl
@[simp] theorem Strand.setMr_hangTimer (t : Strand) (n : Nat) (x : Mask) : (t.setMr n x).hangTimer = t.hangTimer := rfl
@[simp] theorem Strand.setMr_cyc (t : Strand) (n : Nat) (x : Mask) : (t.setMr n x).cyc = t.cyc := rfl

/-! `setDr` -/

@[simp] theorem Strand.setDr_live (t : Strand) (n : Nat) (x : Desc) : (t.setDr n x).live = t.live := rfl
@[simp] theorem Strand.setDr_team (t : Strand) (n : Nat) (x : Desc) : (t.setDr n x).team = t.team := rfl
@[simp] theorem Strand.setDr_sid (t : Strand) (n : Nat) (x : Desc) : (t.setDr n x).sid = t.sid := rfl
@[simp] theorem Strand.setDr_die (t : Strand) (n : Nat) (x : Desc) : (t.setDr n x).die = t.die := rfl
@[simp] theorem Strand.setDr_tile (t : Strand) (n : Nat) (x : Desc) : (t.setDr n x).tile = t.tile := rfl
@[simp] theorem Strand.setDr_core (t : Strand) (n : Nat) (x : Desc) : (t.setDr n x).core = t.core := rfl
@[simp] theorem Strand.setDr_slot (t : Strand) (n : Nat) (x : Desc) : (t.setDr n x).slot = t.slot := rfl
@[simp] theorem Strand.setDr_ctx (t : Strand) (n : Nat) (x : Desc) : (t.setDr n x).ctx = t.ctx := rfl
@[simp] theorem Strand.setDr_pc (t : Strand) (n : Nat) (x : Desc) : (t.setDr n x).pc = t.pc := rfl
@[simp] theorem Strand.setDr_s (t : Strand) (n : Nat) (x : Desc) : (t.setDr n x).s = t.s := rfl
@[simp] theorem Strand.setDr_v (t : Strand) (n : Nat) (x : Desc) : (t.setDr n x).v = t.v := rfl
@[simp] theorem Strand.setDr_m (t : Strand) (n : Nat) (x : Desc) : (t.setDr n x).m = t.m := rfl
@[simp] theorem Strand.setDr_d (t : Strand) (n : Nat) (x : Desc) : (t.setDr n x).d = Sparse.set 0 t.d n x := rfl
@[simp] theorem Strand.setDr_dq (t : Strand) (n : Nat) (x : Desc) : (t.setDr n x).dq = t.dq := rfl
@[simp] theorem Strand.setDr_e (t : Strand) (n : Nat) (x : Desc) : (t.setDr n x).e = t.e := rfl
@[simp] theorem Strand.setDr_loops (t : Strand) (n : Nat) (x : Desc) : (t.setDr n x).loops = t.loops := rfl
@[simp] theorem Strand.setDr_flags (t : Strand) (n : Nat) (x : Desc) : (t.setDr n x).flags = t.flags := rfl
@[simp] theorem Strand.setDr_rndm (t : Strand) (n : Nat) (x : Desc) : (t.setDr n x).rndm = t.rndm := rfl
@[simp] theorem Strand.setDr_scbm (t : Strand) (n : Nat) (x : Desc) : (t.setDr n x).scbm = t.scbm := rfl
@[simp] theorem Strand.setDr_srseed (t : Strand) (n : Nat) (x : Desc) : (t.setDr n x).srseed = t.srseed := rfl
@[simp] theorem Strand.setDr_srstream (t : Strand) (n : Nat) (x : Desc) : (t.setDr n x).srstream = t.srstream := rfl
@[simp] theorem Strand.setDr_rbtab (t : Strand) (n : Nat) (x : Desc) : (t.setDr n x).rbtab = t.rbtab := rfl
@[simp] theorem Strand.setDr_stat (t : Strand) (n : Nat) (x : Desc) : (t.setDr n x).stat = t.stat := rfl
@[simp] theorem Strand.setDr_teamid (t : Strand) (n : Nat) (x : Desc) : (t.setDr n x).teamid = t.teamid := rfl
@[simp] theorem Strand.setDr_teamsize (t : Strand) (n : Nat) (x : Desc) : (t.setDr n x).teamsize = t.teamsize := rfl
@[simp] theorem Strand.setDr_tsbase (t : Strand) (n : Nat) (x : Desc) : (t.setDr n x).tsbase = t.tsbase := rfl
@[simp] theorem Strand.setDr_dswbase (t : Strand) (n : Nat) (x : Desc) : (t.setDr n x).dswbase = t.dswbase := rfl
@[simp] theorem Strand.setDr_lpb (t : Strand) (n : Nat) (x : Desc) : (t.setDr n x).lpb = t.lpb := rfl
@[simp] theorem Strand.setDr_p (t : Strand) (n : Nat) (x : Desc) : (t.setDr n x).p = t.p := rfl
@[simp] theorem Strand.setDr_pp (t : Strand) (n : Nat) (x : Desc) : (t.setDr n x).pp = t.pp := rfl
@[simp] theorem Strand.setDr_tvec (t : Strand) (n : Nat) (x : Desc) : (t.setDr n x).tvec = t.tvec := rfl
@[simp] theorem Strand.setDr_tcause (t : Strand) (n : Nat) (x : Desc) : (t.setDr n x).tcause = t.tcause := rfl
@[simp] theorem Strand.setDr_tval (t : Strand) (n : Nat) (x : Desc) : (t.setDr n x).tval = t.tval := rfl
@[simp] theorem Strand.setDr_tepc (t : Strand) (n : Nat) (x : Desc) : (t.setDr n x).tepc = t.tepc := rfl
@[simp] theorem Strand.setDr_tqHalted (t : Strand) (n : Nat) (x : Desc) : (t.setDr n x).tqHalted = t.tqHalted := rfl
@[simp] theorem Strand.setDr_tqNonempty (t : Strand) (n : Nat) (x : Desc) : (t.setDr n x).tqNonempty = t.tqNonempty := rfl
@[simp] theorem Strand.setDr_pfx (t : Strand) (n : Nat) (x : Desc) : (t.setDr n x).pfx = t.pfx := rfl
@[simp] theorem Strand.setDr_unit (t : Strand) (n : Nat) (x : Desc) : (t.setDr n x).unit = t.unit := rfl
@[simp] theorem Strand.setDr_held (t : Strand) (n : Nat) (x : Desc) : (t.setDr n x).held = t.held := rfl
@[simp] theorem Strand.setDr_fetchHold (t : Strand) (n : Nat) (x : Desc) : (t.setDr n x).fetchHold = t.fetchHold := rfl
@[simp] theorem Strand.setDr_parkEnded (t : Strand) (n : Nat) (x : Desc) : (t.setDr n x).parkEnded = t.parkEnded := rfl
@[simp] theorem Strand.setDr_q (t : Strand) (n : Nat) (x : Desc) : (t.setDr n x).q = t.q := rfl
@[simp] theorem Strand.setDr_arec (t : Strand) (n : Nat) (x : Desc) : (t.setDr n x).arec = t.arec := rfl
@[simp] theorem Strand.setDr_resume (t : Strand) (n : Nat) (x : Desc) : (t.setDr n x).resume = t.resume := rfl
@[simp] theorem Strand.setDr_frame (t : Strand) (n : Nat) (x : Desc) : (t.setDr n x).frame = t.frame := rfl
@[simp] theorem Strand.setDr_tables (t : Strand) (n : Nat) (x : Desc) : (t.setDr n x).tables = t.tables := rfl
@[simp] theorem Strand.setDr_topk (t : Strand) (n : Nat) (x : Desc) : (t.setDr n x).topk = t.topk := rfl
@[simp] theorem Strand.setDr_pend (t : Strand) (n : Nat) (x : Desc) : (t.setDr n x).pend = t.pend := rfl
@[simp] theorem Strand.setDr_spend (t : Strand) (n : Nat) (x : Desc) : (t.setDr n x).spend = t.spend := rfl
@[simp] theorem Strand.setDr_vclk (t : Strand) (n : Nat) (x : Desc) : (t.setDr n x).vclk = t.vclk := rfl
@[simp] theorem Strand.setDr_sclk (t : Strand) (n : Nat) (x : Desc) : (t.setDr n x).sclk = t.sclk := rfl
@[simp] theorem Strand.setDr_barPhase (t : Strand) (n : Nat) (x : Desc) : (t.setDr n x).barPhase = t.barPhase := rfl
@[simp] theorem Strand.setDr_barDropped (t : Strand) (n : Nat) (x : Desc) : (t.setDr n x).barDropped = t.barDropped := rfl
@[simp] theorem Strand.setDr_syncArrived (t : Strand) (n : Nat) (x : Desc) : (t.setDr n x).syncArrived = t.syncArrived := rfl
@[simp] theorem Strand.setDr_pauseEnd (t : Strand) (n : Nat) (x : Desc) : (t.setDr n x).pauseEnd = t.pauseEnd := rfl
@[simp] theorem Strand.setDr_mtx (t : Strand) (n : Nat) (x : Desc) : (t.setDr n x).mtx = t.mtx := rfl
@[simp] theorem Strand.setDr_mreq (t : Strand) (n : Nat) (x : Desc) : (t.setDr n x).mreq = t.mreq := rfl
@[simp] theorem Strand.setDr_xpend (t : Strand) (n : Nat) (x : Desc) : (t.setDr n x).xpend = t.xpend := rfl
@[simp] theorem Strand.setDr_fetchReq (t : Strand) (n : Nat) (x : Desc) : (t.setDr n x).fetchReq = t.fetchReq := rfl
@[simp] theorem Strand.setDr_answered (t : Strand) (n : Nat) (x : Desc) : (t.setDr n x).answered = t.answered := rfl
@[simp] theorem Strand.setDr_timeUp (t : Strand) (n : Nat) (x : Desc) : (t.setDr n x).timeUp = t.timeUp := rfl
@[simp] theorem Strand.setDr_mdesc (t : Strand) (n : Nat) (x : Desc) : (t.setDr n x).mdesc = t.mdesc := rfl
@[simp] theorem Strand.setDr_inval (t : Strand) (n : Nat) (x : Desc) : (t.setDr n x).inval = t.inval := rfl
@[simp] theorem Strand.setDr_damage (t : Strand) (n : Nat) (x : Desc) : (t.setDr n x).damage = t.damage.filter (· ≠ .desc n) := rfl
@[simp] theorem Strand.setDr_hangTimer (t : Strand) (n : Nat) (x : Desc) : (t.setDr n x).hangTimer = t.hangTimer := rfl
@[simp] theorem Strand.setDr_cyc (t : Strand) (n : Nat) (x : Desc) : (t.setDr n x).cyc = t.cyc := rfl

/-! `setDataq` -/

@[simp] theorem Strand.setDataq_live (t : Strand) (q : Nat) (l : List QEntry) : (t.setDataq q l).live = t.live := rfl
@[simp] theorem Strand.setDataq_team (t : Strand) (q : Nat) (l : List QEntry) : (t.setDataq q l).team = t.team := rfl
@[simp] theorem Strand.setDataq_sid (t : Strand) (q : Nat) (l : List QEntry) : (t.setDataq q l).sid = t.sid := rfl
@[simp] theorem Strand.setDataq_die (t : Strand) (q : Nat) (l : List QEntry) : (t.setDataq q l).die = t.die := rfl
@[simp] theorem Strand.setDataq_tile (t : Strand) (q : Nat) (l : List QEntry) : (t.setDataq q l).tile = t.tile := rfl
@[simp] theorem Strand.setDataq_core (t : Strand) (q : Nat) (l : List QEntry) : (t.setDataq q l).core = t.core := rfl
@[simp] theorem Strand.setDataq_slot (t : Strand) (q : Nat) (l : List QEntry) : (t.setDataq q l).slot = t.slot := rfl
@[simp] theorem Strand.setDataq_ctx (t : Strand) (q : Nat) (l : List QEntry) : (t.setDataq q l).ctx = t.ctx := rfl
@[simp] theorem Strand.setDataq_pc (t : Strand) (q : Nat) (l : List QEntry) : (t.setDataq q l).pc = t.pc := rfl
@[simp] theorem Strand.setDataq_s (t : Strand) (q : Nat) (l : List QEntry) : (t.setDataq q l).s = t.s := rfl
@[simp] theorem Strand.setDataq_v (t : Strand) (q : Nat) (l : List QEntry) : (t.setDataq q l).v = t.v := rfl
@[simp] theorem Strand.setDataq_m (t : Strand) (q : Nat) (l : List QEntry) : (t.setDataq q l).m = t.m := rfl
@[simp] theorem Strand.setDataq_d (t : Strand) (q : Nat) (l : List QEntry) : (t.setDataq q l).d = t.d := rfl
@[simp] theorem Strand.setDataq_dq (t : Strand) (q : Nat) (l : List QEntry) : (t.setDataq q l).dq = Sparse.set [] t.dq q l := rfl
@[simp] theorem Strand.setDataq_e (t : Strand) (q : Nat) (l : List QEntry) : (t.setDataq q l).e = t.e := rfl
@[simp] theorem Strand.setDataq_loops (t : Strand) (q : Nat) (l : List QEntry) : (t.setDataq q l).loops = t.loops := rfl
@[simp] theorem Strand.setDataq_flags (t : Strand) (q : Nat) (l : List QEntry) : (t.setDataq q l).flags = t.flags := rfl
@[simp] theorem Strand.setDataq_rndm (t : Strand) (q : Nat) (l : List QEntry) : (t.setDataq q l).rndm = t.rndm := rfl
@[simp] theorem Strand.setDataq_scbm (t : Strand) (q : Nat) (l : List QEntry) : (t.setDataq q l).scbm = t.scbm := rfl
@[simp] theorem Strand.setDataq_srseed (t : Strand) (q : Nat) (l : List QEntry) : (t.setDataq q l).srseed = t.srseed := rfl
@[simp] theorem Strand.setDataq_srstream (t : Strand) (q : Nat) (l : List QEntry) : (t.setDataq q l).srstream = t.srstream := rfl
@[simp] theorem Strand.setDataq_rbtab (t : Strand) (q : Nat) (l : List QEntry) : (t.setDataq q l).rbtab = t.rbtab := rfl
@[simp] theorem Strand.setDataq_stat (t : Strand) (q : Nat) (l : List QEntry) : (t.setDataq q l).stat = t.stat := rfl
@[simp] theorem Strand.setDataq_teamid (t : Strand) (q : Nat) (l : List QEntry) : (t.setDataq q l).teamid = t.teamid := rfl
@[simp] theorem Strand.setDataq_teamsize (t : Strand) (q : Nat) (l : List QEntry) : (t.setDataq q l).teamsize = t.teamsize := rfl
@[simp] theorem Strand.setDataq_tsbase (t : Strand) (q : Nat) (l : List QEntry) : (t.setDataq q l).tsbase = t.tsbase := rfl
@[simp] theorem Strand.setDataq_dswbase (t : Strand) (q : Nat) (l : List QEntry) : (t.setDataq q l).dswbase = t.dswbase := rfl
@[simp] theorem Strand.setDataq_lpb (t : Strand) (q : Nat) (l : List QEntry) : (t.setDataq q l).lpb = t.lpb := rfl
@[simp] theorem Strand.setDataq_p (t : Strand) (q : Nat) (l : List QEntry) : (t.setDataq q l).p = t.p := rfl
@[simp] theorem Strand.setDataq_pp (t : Strand) (q : Nat) (l : List QEntry) : (t.setDataq q l).pp = t.pp := rfl
@[simp] theorem Strand.setDataq_tvec (t : Strand) (q : Nat) (l : List QEntry) : (t.setDataq q l).tvec = t.tvec := rfl
@[simp] theorem Strand.setDataq_tcause (t : Strand) (q : Nat) (l : List QEntry) : (t.setDataq q l).tcause = t.tcause := rfl
@[simp] theorem Strand.setDataq_tval (t : Strand) (q : Nat) (l : List QEntry) : (t.setDataq q l).tval = t.tval := rfl
@[simp] theorem Strand.setDataq_tepc (t : Strand) (q : Nat) (l : List QEntry) : (t.setDataq q l).tepc = t.tepc := rfl
@[simp] theorem Strand.setDataq_tqHalted (t : Strand) (q : Nat) (l : List QEntry) : (t.setDataq q l).tqHalted = t.tqHalted := rfl
@[simp] theorem Strand.setDataq_tqNonempty (t : Strand) (q : Nat) (l : List QEntry) : (t.setDataq q l).tqNonempty = t.tqNonempty := rfl
@[simp] theorem Strand.setDataq_pfx (t : Strand) (q : Nat) (l : List QEntry) : (t.setDataq q l).pfx = t.pfx := rfl
@[simp] theorem Strand.setDataq_unit (t : Strand) (q : Nat) (l : List QEntry) : (t.setDataq q l).unit = t.unit := rfl
@[simp] theorem Strand.setDataq_held (t : Strand) (q : Nat) (l : List QEntry) : (t.setDataq q l).held = t.held := rfl
@[simp] theorem Strand.setDataq_fetchHold (t : Strand) (q : Nat) (l : List QEntry) : (t.setDataq q l).fetchHold = t.fetchHold := rfl
@[simp] theorem Strand.setDataq_parkEnded (t : Strand) (q : Nat) (l : List QEntry) : (t.setDataq q l).parkEnded = t.parkEnded := rfl
@[simp] theorem Strand.setDataq_q (t : Strand) (q : Nat) (l : List QEntry) : (t.setDataq q l).q = t.q := rfl
@[simp] theorem Strand.setDataq_arec (t : Strand) (q : Nat) (l : List QEntry) : (t.setDataq q l).arec = t.arec := rfl
@[simp] theorem Strand.setDataq_resume (t : Strand) (q : Nat) (l : List QEntry) : (t.setDataq q l).resume = t.resume := rfl
@[simp] theorem Strand.setDataq_frame (t : Strand) (q : Nat) (l : List QEntry) : (t.setDataq q l).frame = t.frame := rfl
@[simp] theorem Strand.setDataq_tables (t : Strand) (q : Nat) (l : List QEntry) : (t.setDataq q l).tables = t.tables := rfl
@[simp] theorem Strand.setDataq_topk (t : Strand) (q : Nat) (l : List QEntry) : (t.setDataq q l).topk = t.topk := rfl
@[simp] theorem Strand.setDataq_pend (t : Strand) (q : Nat) (l : List QEntry) : (t.setDataq q l).pend = t.pend := rfl
@[simp] theorem Strand.setDataq_spend (t : Strand) (q : Nat) (l : List QEntry) : (t.setDataq q l).spend = t.spend := rfl
@[simp] theorem Strand.setDataq_vclk (t : Strand) (q : Nat) (l : List QEntry) : (t.setDataq q l).vclk = t.vclk := rfl
@[simp] theorem Strand.setDataq_sclk (t : Strand) (q : Nat) (l : List QEntry) : (t.setDataq q l).sclk = t.sclk := rfl
@[simp] theorem Strand.setDataq_barPhase (t : Strand) (q : Nat) (l : List QEntry) : (t.setDataq q l).barPhase = t.barPhase := rfl
@[simp] theorem Strand.setDataq_barDropped (t : Strand) (q : Nat) (l : List QEntry) : (t.setDataq q l).barDropped = t.barDropped := rfl
@[simp] theorem Strand.setDataq_syncArrived (t : Strand) (q : Nat) (l : List QEntry) : (t.setDataq q l).syncArrived = t.syncArrived := rfl
@[simp] theorem Strand.setDataq_pauseEnd (t : Strand) (q : Nat) (l : List QEntry) : (t.setDataq q l).pauseEnd = t.pauseEnd := rfl
@[simp] theorem Strand.setDataq_mtx (t : Strand) (q : Nat) (l : List QEntry) : (t.setDataq q l).mtx = t.mtx := rfl
@[simp] theorem Strand.setDataq_mreq (t : Strand) (q : Nat) (l : List QEntry) : (t.setDataq q l).mreq = t.mreq := rfl
@[simp] theorem Strand.setDataq_xpend (t : Strand) (q : Nat) (l : List QEntry) : (t.setDataq q l).xpend = t.xpend := rfl
@[simp] theorem Strand.setDataq_fetchReq (t : Strand) (q : Nat) (l : List QEntry) : (t.setDataq q l).fetchReq = t.fetchReq := rfl
@[simp] theorem Strand.setDataq_answered (t : Strand) (q : Nat) (l : List QEntry) : (t.setDataq q l).answered = t.answered := rfl
@[simp] theorem Strand.setDataq_timeUp (t : Strand) (q : Nat) (l : List QEntry) : (t.setDataq q l).timeUp = t.timeUp := rfl
@[simp] theorem Strand.setDataq_mdesc (t : Strand) (q : Nat) (l : List QEntry) : (t.setDataq q l).mdesc = t.mdesc := rfl
@[simp] theorem Strand.setDataq_inval (t : Strand) (q : Nat) (l : List QEntry) : (t.setDataq q l).inval = t.inval := rfl
@[simp] theorem Strand.setDataq_damage (t : Strand) (q : Nat) (l : List QEntry) : (t.setDataq q l).damage = t.damage := rfl
@[simp] theorem Strand.setDataq_hangTimer (t : Strand) (q : Nat) (l : List QEntry) : (t.setDataq q l).hangTimer = t.hangTimer := rfl
@[simp] theorem Strand.setDataq_cyc (t : Strand) (q : Nat) (l : List QEntry) : (t.setDataq q l).cyc = t.cyc := rfl

/-! `bump` -/

@[simp] theorem Strand.bump_live (t : Strand) (n : BitVec 4) : (t.bump n).live = t.live := rfl
@[simp] theorem Strand.bump_team (t : Strand) (n : BitVec 4) : (t.bump n).team = t.team := rfl
@[simp] theorem Strand.bump_sid (t : Strand) (n : BitVec 4) : (t.bump n).sid = t.sid := rfl
@[simp] theorem Strand.bump_die (t : Strand) (n : BitVec 4) : (t.bump n).die = t.die := rfl
@[simp] theorem Strand.bump_tile (t : Strand) (n : BitVec 4) : (t.bump n).tile = t.tile := rfl
@[simp] theorem Strand.bump_core (t : Strand) (n : BitVec 4) : (t.bump n).core = t.core := rfl
@[simp] theorem Strand.bump_slot (t : Strand) (n : BitVec 4) : (t.bump n).slot = t.slot := rfl
@[simp] theorem Strand.bump_ctx (t : Strand) (n : BitVec 4) : (t.bump n).ctx = t.ctx := rfl
@[simp] theorem Strand.bump_pc (t : Strand) (n : BitVec 4) : (t.bump n).pc = t.pc := rfl
@[simp] theorem Strand.bump_s (t : Strand) (n : BitVec 4) : (t.bump n).s = t.s := rfl
@[simp] theorem Strand.bump_v (t : Strand) (n : BitVec 4) : (t.bump n).v = t.v := rfl
@[simp] theorem Strand.bump_m (t : Strand) (n : BitVec 4) : (t.bump n).m = t.m := rfl
@[simp] theorem Strand.bump_d (t : Strand) (n : BitVec 4) : (t.bump n).d = t.d := rfl
@[simp] theorem Strand.bump_dq (t : Strand) (n : BitVec 4) : (t.bump n).dq = t.dq := rfl
@[simp] theorem Strand.bump_e (t : Strand) (n : BitVec 4) : (t.bump n).e = Sparse.set 0 t.e n.toNat (t.ev n + 1) := rfl
@[simp] theorem Strand.bump_loops (t : Strand) (n : BitVec 4) : (t.bump n).loops = t.loops := rfl
@[simp] theorem Strand.bump_flags (t : Strand) (n : BitVec 4) : (t.bump n).flags = t.flags := rfl
@[simp] theorem Strand.bump_rndm (t : Strand) (n : BitVec 4) : (t.bump n).rndm = t.rndm := rfl
@[simp] theorem Strand.bump_scbm (t : Strand) (n : BitVec 4) : (t.bump n).scbm = t.scbm := rfl
@[simp] theorem Strand.bump_srseed (t : Strand) (n : BitVec 4) : (t.bump n).srseed = t.srseed := rfl
@[simp] theorem Strand.bump_srstream (t : Strand) (n : BitVec 4) : (t.bump n).srstream = t.srstream := rfl
@[simp] theorem Strand.bump_rbtab (t : Strand) (n : BitVec 4) : (t.bump n).rbtab = t.rbtab := rfl
@[simp] theorem Strand.bump_stat (t : Strand) (n : BitVec 4) : (t.bump n).stat = t.stat := rfl
@[simp] theorem Strand.bump_teamid (t : Strand) (n : BitVec 4) : (t.bump n).teamid = t.teamid := rfl
@[simp] theorem Strand.bump_teamsize (t : Strand) (n : BitVec 4) : (t.bump n).teamsize = t.teamsize := rfl
@[simp] theorem Strand.bump_tsbase (t : Strand) (n : BitVec 4) : (t.bump n).tsbase = t.tsbase := rfl
@[simp] theorem Strand.bump_dswbase (t : Strand) (n : BitVec 4) : (t.bump n).dswbase = t.dswbase := rfl
@[simp] theorem Strand.bump_lpb (t : Strand) (n : BitVec 4) : (t.bump n).lpb = t.lpb := rfl
@[simp] theorem Strand.bump_p (t : Strand) (n : BitVec 4) : (t.bump n).p = t.p := rfl
@[simp] theorem Strand.bump_pp (t : Strand) (n : BitVec 4) : (t.bump n).pp = t.pp := rfl
@[simp] theorem Strand.bump_tvec (t : Strand) (n : BitVec 4) : (t.bump n).tvec = t.tvec := rfl
@[simp] theorem Strand.bump_tcause (t : Strand) (n : BitVec 4) : (t.bump n).tcause = t.tcause := rfl
@[simp] theorem Strand.bump_tval (t : Strand) (n : BitVec 4) : (t.bump n).tval = t.tval := rfl
@[simp] theorem Strand.bump_tepc (t : Strand) (n : BitVec 4) : (t.bump n).tepc = t.tepc := rfl
@[simp] theorem Strand.bump_tqHalted (t : Strand) (n : BitVec 4) : (t.bump n).tqHalted = t.tqHalted := rfl
@[simp] theorem Strand.bump_tqNonempty (t : Strand) (n : BitVec 4) : (t.bump n).tqNonempty = t.tqNonempty := rfl
@[simp] theorem Strand.bump_pfx (t : Strand) (n : BitVec 4) : (t.bump n).pfx = t.pfx := rfl
@[simp] theorem Strand.bump_unit (t : Strand) (n : BitVec 4) : (t.bump n).unit = t.unit := rfl
@[simp] theorem Strand.bump_held (t : Strand) (n : BitVec 4) : (t.bump n).held = t.held := rfl
@[simp] theorem Strand.bump_fetchHold (t : Strand) (n : BitVec 4) : (t.bump n).fetchHold = t.fetchHold := rfl
@[simp] theorem Strand.bump_parkEnded (t : Strand) (n : BitVec 4) : (t.bump n).parkEnded = t.parkEnded := rfl
@[simp] theorem Strand.bump_q (t : Strand) (n : BitVec 4) : (t.bump n).q = t.q := rfl
@[simp] theorem Strand.bump_arec (t : Strand) (n : BitVec 4) : (t.bump n).arec = t.arec := rfl
@[simp] theorem Strand.bump_resume (t : Strand) (n : BitVec 4) : (t.bump n).resume = t.resume := rfl
@[simp] theorem Strand.bump_frame (t : Strand) (n : BitVec 4) : (t.bump n).frame = t.frame := rfl
@[simp] theorem Strand.bump_tables (t : Strand) (n : BitVec 4) : (t.bump n).tables = t.tables := rfl
@[simp] theorem Strand.bump_topk (t : Strand) (n : BitVec 4) : (t.bump n).topk = t.topk := rfl
@[simp] theorem Strand.bump_pend (t : Strand) (n : BitVec 4) : (t.bump n).pend = t.pend := rfl
@[simp] theorem Strand.bump_spend (t : Strand) (n : BitVec 4) : (t.bump n).spend = t.spend := rfl
@[simp] theorem Strand.bump_vclk (t : Strand) (n : BitVec 4) : (t.bump n).vclk = t.vclk := rfl
@[simp] theorem Strand.bump_sclk (t : Strand) (n : BitVec 4) : (t.bump n).sclk = t.sclk := rfl
@[simp] theorem Strand.bump_barPhase (t : Strand) (n : BitVec 4) : (t.bump n).barPhase = t.barPhase := rfl
@[simp] theorem Strand.bump_barDropped (t : Strand) (n : BitVec 4) : (t.bump n).barDropped = t.barDropped := rfl
@[simp] theorem Strand.bump_syncArrived (t : Strand) (n : BitVec 4) : (t.bump n).syncArrived = t.syncArrived := rfl
@[simp] theorem Strand.bump_pauseEnd (t : Strand) (n : BitVec 4) : (t.bump n).pauseEnd = t.pauseEnd := rfl
@[simp] theorem Strand.bump_mtx (t : Strand) (n : BitVec 4) : (t.bump n).mtx = t.mtx := rfl
@[simp] theorem Strand.bump_mreq (t : Strand) (n : BitVec 4) : (t.bump n).mreq = t.mreq := rfl
@[simp] theorem Strand.bump_xpend (t : Strand) (n : BitVec 4) : (t.bump n).xpend = t.xpend := rfl
@[simp] theorem Strand.bump_fetchReq (t : Strand) (n : BitVec 4) : (t.bump n).fetchReq = t.fetchReq := rfl
@[simp] theorem Strand.bump_answered (t : Strand) (n : BitVec 4) : (t.bump n).answered = t.answered := rfl
@[simp] theorem Strand.bump_timeUp (t : Strand) (n : BitVec 4) : (t.bump n).timeUp = t.timeUp := rfl
@[simp] theorem Strand.bump_mdesc (t : Strand) (n : BitVec 4) : (t.bump n).mdesc = t.mdesc := rfl
@[simp] theorem Strand.bump_inval (t : Strand) (n : BitVec 4) : (t.bump n).inval = t.inval := rfl
@[simp] theorem Strand.bump_damage (t : Strand) (n : BitVec 4) : (t.bump n).damage = t.damage := rfl
@[simp] theorem Strand.bump_hangTimer (t : Strand) (n : BitVec 4) : (t.bump n).hangTimer = t.hangTimer := rfl
@[simp] theorem Strand.bump_cyc (t : Strand) (n : BitVec 4) : (t.bump n).cyc = t.cyc := rfl

/-! `signal` -/

@[simp] theorem Strand.signal_live (t : Strand) (n : Option (BitVec 4)) : (t.signal n).live = t.live := by cases n <;> rfl
@[simp] theorem Strand.signal_team (t : Strand) (n : Option (BitVec 4)) : (t.signal n).team = t.team := by cases n <;> rfl
@[simp] theorem Strand.signal_sid (t : Strand) (n : Option (BitVec 4)) : (t.signal n).sid = t.sid := by cases n <;> rfl
@[simp] theorem Strand.signal_die (t : Strand) (n : Option (BitVec 4)) : (t.signal n).die = t.die := by cases n <;> rfl
@[simp] theorem Strand.signal_tile (t : Strand) (n : Option (BitVec 4)) : (t.signal n).tile = t.tile := by cases n <;> rfl
@[simp] theorem Strand.signal_core (t : Strand) (n : Option (BitVec 4)) : (t.signal n).core = t.core := by cases n <;> rfl
@[simp] theorem Strand.signal_slot (t : Strand) (n : Option (BitVec 4)) : (t.signal n).slot = t.slot := by cases n <;> rfl
@[simp] theorem Strand.signal_ctx (t : Strand) (n : Option (BitVec 4)) : (t.signal n).ctx = t.ctx := by cases n <;> rfl
@[simp] theorem Strand.signal_pc (t : Strand) (n : Option (BitVec 4)) : (t.signal n).pc = t.pc := by cases n <;> rfl
@[simp] theorem Strand.signal_s (t : Strand) (n : Option (BitVec 4)) : (t.signal n).s = t.s := by cases n <;> rfl
@[simp] theorem Strand.signal_v (t : Strand) (n : Option (BitVec 4)) : (t.signal n).v = t.v := by cases n <;> rfl
@[simp] theorem Strand.signal_m (t : Strand) (n : Option (BitVec 4)) : (t.signal n).m = t.m := by cases n <;> rfl
@[simp] theorem Strand.signal_d (t : Strand) (n : Option (BitVec 4)) : (t.signal n).d = t.d := by cases n <;> rfl
@[simp] theorem Strand.signal_dq (t : Strand) (n : Option (BitVec 4)) : (t.signal n).dq = t.dq := by cases n <;> rfl
@[simp] theorem Strand.signal_loops (t : Strand) (n : Option (BitVec 4)) : (t.signal n).loops = t.loops := by cases n <;> rfl
@[simp] theorem Strand.signal_flags (t : Strand) (n : Option (BitVec 4)) : (t.signal n).flags = t.flags := by cases n <;> rfl
@[simp] theorem Strand.signal_rndm (t : Strand) (n : Option (BitVec 4)) : (t.signal n).rndm = t.rndm := by cases n <;> rfl
@[simp] theorem Strand.signal_scbm (t : Strand) (n : Option (BitVec 4)) : (t.signal n).scbm = t.scbm := by cases n <;> rfl
@[simp] theorem Strand.signal_srseed (t : Strand) (n : Option (BitVec 4)) : (t.signal n).srseed = t.srseed := by cases n <;> rfl
@[simp] theorem Strand.signal_srstream (t : Strand) (n : Option (BitVec 4)) : (t.signal n).srstream = t.srstream := by cases n <;> rfl
@[simp] theorem Strand.signal_rbtab (t : Strand) (n : Option (BitVec 4)) : (t.signal n).rbtab = t.rbtab := by cases n <;> rfl
@[simp] theorem Strand.signal_stat (t : Strand) (n : Option (BitVec 4)) : (t.signal n).stat = t.stat := by cases n <;> rfl
@[simp] theorem Strand.signal_teamid (t : Strand) (n : Option (BitVec 4)) : (t.signal n).teamid = t.teamid := by cases n <;> rfl
@[simp] theorem Strand.signal_teamsize (t : Strand) (n : Option (BitVec 4)) : (t.signal n).teamsize = t.teamsize := by cases n <;> rfl
@[simp] theorem Strand.signal_tsbase (t : Strand) (n : Option (BitVec 4)) : (t.signal n).tsbase = t.tsbase := by cases n <;> rfl
@[simp] theorem Strand.signal_dswbase (t : Strand) (n : Option (BitVec 4)) : (t.signal n).dswbase = t.dswbase := by cases n <;> rfl
@[simp] theorem Strand.signal_lpb (t : Strand) (n : Option (BitVec 4)) : (t.signal n).lpb = t.lpb := by cases n <;> rfl
@[simp] theorem Strand.signal_p (t : Strand) (n : Option (BitVec 4)) : (t.signal n).p = t.p := by cases n <;> rfl
@[simp] theorem Strand.signal_pp (t : Strand) (n : Option (BitVec 4)) : (t.signal n).pp = t.pp := by cases n <;> rfl
@[simp] theorem Strand.signal_tvec (t : Strand) (n : Option (BitVec 4)) : (t.signal n).tvec = t.tvec := by cases n <;> rfl
@[simp] theorem Strand.signal_tcause (t : Strand) (n : Option (BitVec 4)) : (t.signal n).tcause = t.tcause := by cases n <;> rfl
@[simp] theorem Strand.signal_tval (t : Strand) (n : Option (BitVec 4)) : (t.signal n).tval = t.tval := by cases n <;> rfl
@[simp] theorem Strand.signal_tepc (t : Strand) (n : Option (BitVec 4)) : (t.signal n).tepc = t.tepc := by cases n <;> rfl
@[simp] theorem Strand.signal_tqHalted (t : Strand) (n : Option (BitVec 4)) : (t.signal n).tqHalted = t.tqHalted := by cases n <;> rfl
@[simp] theorem Strand.signal_tqNonempty (t : Strand) (n : Option (BitVec 4)) : (t.signal n).tqNonempty = t.tqNonempty := by cases n <;> rfl
@[simp] theorem Strand.signal_pfx (t : Strand) (n : Option (BitVec 4)) : (t.signal n).pfx = t.pfx := by cases n <;> rfl
@[simp] theorem Strand.signal_unit (t : Strand) (n : Option (BitVec 4)) : (t.signal n).unit = t.unit := by cases n <;> rfl
@[simp] theorem Strand.signal_held (t : Strand) (n : Option (BitVec 4)) : (t.signal n).held = t.held := by cases n <;> rfl
@[simp] theorem Strand.signal_fetchHold (t : Strand) (n : Option (BitVec 4)) : (t.signal n).fetchHold = t.fetchHold := by cases n <;> rfl
@[simp] theorem Strand.signal_parkEnded (t : Strand) (n : Option (BitVec 4)) : (t.signal n).parkEnded = t.parkEnded := by cases n <;> rfl
@[simp] theorem Strand.signal_q (t : Strand) (n : Option (BitVec 4)) : (t.signal n).q = t.q := by cases n <;> rfl
@[simp] theorem Strand.signal_arec (t : Strand) (n : Option (BitVec 4)) : (t.signal n).arec = t.arec := by cases n <;> rfl
@[simp] theorem Strand.signal_resume (t : Strand) (n : Option (BitVec 4)) : (t.signal n).resume = t.resume := by cases n <;> rfl
@[simp] theorem Strand.signal_frame (t : Strand) (n : Option (BitVec 4)) : (t.signal n).frame = t.frame := by cases n <;> rfl
@[simp] theorem Strand.signal_tables (t : Strand) (n : Option (BitVec 4)) : (t.signal n).tables = t.tables := by cases n <;> rfl
@[simp] theorem Strand.signal_topk (t : Strand) (n : Option (BitVec 4)) : (t.signal n).topk = t.topk := by cases n <;> rfl
@[simp] theorem Strand.signal_pend (t : Strand) (n : Option (BitVec 4)) : (t.signal n).pend = t.pend := by cases n <;> rfl
@[simp] theorem Strand.signal_spend (t : Strand) (n : Option (BitVec 4)) : (t.signal n).spend = t.spend := by cases n <;> rfl
@[simp] theorem Strand.signal_vclk (t : Strand) (n : Option (BitVec 4)) : (t.signal n).vclk = t.vclk := by cases n <;> rfl
@[simp] theorem Strand.signal_sclk (t : Strand) (n : Option (BitVec 4)) : (t.signal n).sclk = t.sclk := by cases n <;> rfl
@[simp] theorem Strand.signal_barPhase (t : Strand) (n : Option (BitVec 4)) : (t.signal n).barPhase = t.barPhase := by cases n <;> rfl
@[simp] theorem Strand.signal_barDropped (t : Strand) (n : Option (BitVec 4)) : (t.signal n).barDropped = t.barDropped := by cases n <;> rfl
@[simp] theorem Strand.signal_syncArrived (t : Strand) (n : Option (BitVec 4)) : (t.signal n).syncArrived = t.syncArrived := by cases n <;> rfl
@[simp] theorem Strand.signal_pauseEnd (t : Strand) (n : Option (BitVec 4)) : (t.signal n).pauseEnd = t.pauseEnd := by cases n <;> rfl
@[simp] theorem Strand.signal_mtx (t : Strand) (n : Option (BitVec 4)) : (t.signal n).mtx = t.mtx := by cases n <;> rfl
@[simp] theorem Strand.signal_mreq (t : Strand) (n : Option (BitVec 4)) : (t.signal n).mreq = t.mreq := by cases n <;> rfl
@[simp] theorem Strand.signal_xpend (t : Strand) (n : Option (BitVec 4)) : (t.signal n).xpend = t.xpend := by cases n <;> rfl
@[simp] theorem Strand.signal_fetchReq (t : Strand) (n : Option (BitVec 4)) : (t.signal n).fetchReq = t.fetchReq := by cases n <;> rfl
@[simp] theorem Strand.signal_answered (t : Strand) (n : Option (BitVec 4)) : (t.signal n).answered = t.answered := by cases n <;> rfl
@[simp] theorem Strand.signal_timeUp (t : Strand) (n : Option (BitVec 4)) : (t.signal n).timeUp = t.timeUp := by cases n <;> rfl
@[simp] theorem Strand.signal_mdesc (t : Strand) (n : Option (BitVec 4)) : (t.signal n).mdesc = t.mdesc := by cases n <;> rfl
@[simp] theorem Strand.signal_inval (t : Strand) (n : Option (BitVec 4)) : (t.signal n).inval = t.inval := by cases n <;> rfl
@[simp] theorem Strand.signal_damage (t : Strand) (n : Option (BitVec 4)) : (t.signal n).damage = t.damage := by cases n <;> rfl
@[simp] theorem Strand.signal_hangTimer (t : Strand) (n : Option (BitVec 4)) : (t.signal n).hangTimer = t.hangTimer := by cases n <;> rfl
@[simp] theorem Strand.signal_cyc (t : Strand) (n : Option (BitVec 4)) : (t.signal n).cyc = t.cyc := by cases n <;> rfl

/-! `raise` -/

@[simp] theorem Strand.raise_live (t : Strand) (f : Flags) : (t.raise f).live = t.live := rfl
@[simp] theorem Strand.raise_team (t : Strand) (f : Flags) : (t.raise f).team = t.team := rfl
@[simp] theorem Strand.raise_sid (t : Strand) (f : Flags) : (t.raise f).sid = t.sid := rfl
@[simp] theorem Strand.raise_die (t : Strand) (f : Flags) : (t.raise f).die = t.die := rfl
@[simp] theorem Strand.raise_tile (t : Strand) (f : Flags) : (t.raise f).tile = t.tile := rfl
@[simp] theorem Strand.raise_core (t : Strand) (f : Flags) : (t.raise f).core = t.core := rfl
@[simp] theorem Strand.raise_slot (t : Strand) (f : Flags) : (t.raise f).slot = t.slot := rfl
@[simp] theorem Strand.raise_ctx (t : Strand) (f : Flags) : (t.raise f).ctx = t.ctx := rfl
@[simp] theorem Strand.raise_pc (t : Strand) (f : Flags) : (t.raise f).pc = t.pc := rfl
@[simp] theorem Strand.raise_s (t : Strand) (f : Flags) : (t.raise f).s = t.s := rfl
@[simp] theorem Strand.raise_v (t : Strand) (f : Flags) : (t.raise f).v = t.v := rfl
@[simp] theorem Strand.raise_m (t : Strand) (f : Flags) : (t.raise f).m = t.m := rfl
@[simp] theorem Strand.raise_d (t : Strand) (f : Flags) : (t.raise f).d = t.d := rfl
@[simp] theorem Strand.raise_dq (t : Strand) (f : Flags) : (t.raise f).dq = t.dq := rfl
@[simp] theorem Strand.raise_e (t : Strand) (f : Flags) : (t.raise f).e = t.e := rfl
@[simp] theorem Strand.raise_loops (t : Strand) (f : Flags) : (t.raise f).loops = t.loops := rfl
@[simp] theorem Strand.raise_flags (t : Strand) (f : Flags) : (t.raise f).flags = t.flags ||| f := rfl
@[simp] theorem Strand.raise_rndm (t : Strand) (f : Flags) : (t.raise f).rndm = t.rndm := rfl
@[simp] theorem Strand.raise_scbm (t : Strand) (f : Flags) : (t.raise f).scbm = t.scbm := rfl
@[simp] theorem Strand.raise_srseed (t : Strand) (f : Flags) : (t.raise f).srseed = t.srseed := rfl
@[simp] theorem Strand.raise_srstream (t : Strand) (f : Flags) : (t.raise f).srstream = t.srstream := rfl
@[simp] theorem Strand.raise_rbtab (t : Strand) (f : Flags) : (t.raise f).rbtab = t.rbtab := rfl
@[simp] theorem Strand.raise_stat (t : Strand) (f : Flags) : (t.raise f).stat = t.stat := rfl
@[simp] theorem Strand.raise_teamid (t : Strand) (f : Flags) : (t.raise f).teamid = t.teamid := rfl
@[simp] theorem Strand.raise_teamsize (t : Strand) (f : Flags) : (t.raise f).teamsize = t.teamsize := rfl
@[simp] theorem Strand.raise_tsbase (t : Strand) (f : Flags) : (t.raise f).tsbase = t.tsbase := rfl
@[simp] theorem Strand.raise_dswbase (t : Strand) (f : Flags) : (t.raise f).dswbase = t.dswbase := rfl
@[simp] theorem Strand.raise_lpb (t : Strand) (f : Flags) : (t.raise f).lpb = t.lpb := rfl
@[simp] theorem Strand.raise_p (t : Strand) (f : Flags) : (t.raise f).p = t.p := rfl
@[simp] theorem Strand.raise_pp (t : Strand) (f : Flags) : (t.raise f).pp = t.pp := rfl
@[simp] theorem Strand.raise_tvec (t : Strand) (f : Flags) : (t.raise f).tvec = t.tvec := rfl
@[simp] theorem Strand.raise_tcause (t : Strand) (f : Flags) : (t.raise f).tcause = t.tcause := rfl
@[simp] theorem Strand.raise_tval (t : Strand) (f : Flags) : (t.raise f).tval = t.tval := rfl
@[simp] theorem Strand.raise_tepc (t : Strand) (f : Flags) : (t.raise f).tepc = t.tepc := rfl
@[simp] theorem Strand.raise_tqHalted (t : Strand) (f : Flags) : (t.raise f).tqHalted = t.tqHalted := rfl
@[simp] theorem Strand.raise_tqNonempty (t : Strand) (f : Flags) : (t.raise f).tqNonempty = t.tqNonempty := rfl
@[simp] theorem Strand.raise_pfx (t : Strand) (f : Flags) : (t.raise f).pfx = t.pfx := rfl
@[simp] theorem Strand.raise_unit (t : Strand) (f : Flags) : (t.raise f).unit = t.unit := rfl
@[simp] theorem Strand.raise_held (t : Strand) (f : Flags) : (t.raise f).held = t.held := rfl
@[simp] theorem Strand.raise_fetchHold (t : Strand) (f : Flags) : (t.raise f).fetchHold = t.fetchHold := rfl
@[simp] theorem Strand.raise_parkEnded (t : Strand) (f : Flags) : (t.raise f).parkEnded = t.parkEnded := rfl
@[simp] theorem Strand.raise_q (t : Strand) (f : Flags) : (t.raise f).q = t.q := rfl
@[simp] theorem Strand.raise_arec (t : Strand) (f : Flags) : (t.raise f).arec = t.arec := rfl
@[simp] theorem Strand.raise_resume (t : Strand) (f : Flags) : (t.raise f).resume = t.resume := rfl
@[simp] theorem Strand.raise_frame (t : Strand) (f : Flags) : (t.raise f).frame = t.frame := rfl
@[simp] theorem Strand.raise_tables (t : Strand) (f : Flags) : (t.raise f).tables = t.tables := rfl
@[simp] theorem Strand.raise_topk (t : Strand) (f : Flags) : (t.raise f).topk = t.topk := rfl
@[simp] theorem Strand.raise_pend (t : Strand) (f : Flags) : (t.raise f).pend = t.pend := rfl
@[simp] theorem Strand.raise_spend (t : Strand) (f : Flags) : (t.raise f).spend = t.spend := rfl
@[simp] theorem Strand.raise_vclk (t : Strand) (f : Flags) : (t.raise f).vclk = t.vclk := rfl
@[simp] theorem Strand.raise_sclk (t : Strand) (f : Flags) : (t.raise f).sclk = t.sclk := rfl
@[simp] theorem Strand.raise_barPhase (t : Strand) (f : Flags) : (t.raise f).barPhase = t.barPhase := rfl
@[simp] theorem Strand.raise_barDropped (t : Strand) (f : Flags) : (t.raise f).barDropped = t.barDropped := rfl
@[simp] theorem Strand.raise_syncArrived (t : Strand) (f : Flags) : (t.raise f).syncArrived = t.syncArrived := rfl
@[simp] theorem Strand.raise_pauseEnd (t : Strand) (f : Flags) : (t.raise f).pauseEnd = t.pauseEnd := rfl
@[simp] theorem Strand.raise_mtx (t : Strand) (f : Flags) : (t.raise f).mtx = t.mtx := rfl
@[simp] theorem Strand.raise_mreq (t : Strand) (f : Flags) : (t.raise f).mreq = t.mreq := rfl
@[simp] theorem Strand.raise_xpend (t : Strand) (f : Flags) : (t.raise f).xpend = t.xpend := rfl
@[simp] theorem Strand.raise_fetchReq (t : Strand) (f : Flags) : (t.raise f).fetchReq = t.fetchReq := rfl
@[simp] theorem Strand.raise_answered (t : Strand) (f : Flags) : (t.raise f).answered = t.answered := rfl
@[simp] theorem Strand.raise_timeUp (t : Strand) (f : Flags) : (t.raise f).timeUp = t.timeUp := rfl
@[simp] theorem Strand.raise_mdesc (t : Strand) (f : Flags) : (t.raise f).mdesc = t.mdesc := rfl
@[simp] theorem Strand.raise_inval (t : Strand) (f : Flags) : (t.raise f).inval = t.inval := rfl
@[simp] theorem Strand.raise_damage (t : Strand) (f : Flags) : (t.raise f).damage = t.damage := rfl
@[simp] theorem Strand.raise_hangTimer (t : Strand) (f : Flags) : (t.raise f).hangTimer = t.hangTimer := rfl
@[simp] theorem Strand.raise_cyc (t : Strand) (f : Flags) : (t.raise f).cyc = t.cyc := rfl

/-! `setStat` -/

@[simp] theorem Strand.setStat_live (t : Strand) (b : BitVec 6) : (t.setStat b).live = t.live := rfl
@[simp] theorem Strand.setStat_team (t : Strand) (b : BitVec 6) : (t.setStat b).team = t.team := rfl
@[simp] theorem Strand.setStat_sid (t : Strand) (b : BitVec 6) : (t.setStat b).sid = t.sid := rfl
@[simp] theorem Strand.setStat_die (t : Strand) (b : BitVec 6) : (t.setStat b).die = t.die := rfl
@[simp] theorem Strand.setStat_tile (t : Strand) (b : BitVec 6) : (t.setStat b).tile = t.tile := rfl
@[simp] theorem Strand.setStat_core (t : Strand) (b : BitVec 6) : (t.setStat b).core = t.core := rfl
@[simp] theorem Strand.setStat_slot (t : Strand) (b : BitVec 6) : (t.setStat b).slot = t.slot := rfl
@[simp] theorem Strand.setStat_ctx (t : Strand) (b : BitVec 6) : (t.setStat b).ctx = t.ctx := rfl
@[simp] theorem Strand.setStat_pc (t : Strand) (b : BitVec 6) : (t.setStat b).pc = t.pc := rfl
@[simp] theorem Strand.setStat_s (t : Strand) (b : BitVec 6) : (t.setStat b).s = t.s := rfl
@[simp] theorem Strand.setStat_v (t : Strand) (b : BitVec 6) : (t.setStat b).v = t.v := rfl
@[simp] theorem Strand.setStat_m (t : Strand) (b : BitVec 6) : (t.setStat b).m = t.m := rfl
@[simp] theorem Strand.setStat_d (t : Strand) (b : BitVec 6) : (t.setStat b).d = t.d := rfl
@[simp] theorem Strand.setStat_dq (t : Strand) (b : BitVec 6) : (t.setStat b).dq = t.dq := rfl
@[simp] theorem Strand.setStat_e (t : Strand) (b : BitVec 6) : (t.setStat b).e = t.e := rfl
@[simp] theorem Strand.setStat_loops (t : Strand) (b : BitVec 6) : (t.setStat b).loops = t.loops := rfl
@[simp] theorem Strand.setStat_flags (t : Strand) (b : BitVec 6) : (t.setStat b).flags = t.flags := rfl
@[simp] theorem Strand.setStat_rndm (t : Strand) (b : BitVec 6) : (t.setStat b).rndm = t.rndm := rfl
@[simp] theorem Strand.setStat_scbm (t : Strand) (b : BitVec 6) : (t.setStat b).scbm = t.scbm := rfl
@[simp] theorem Strand.setStat_srseed (t : Strand) (b : BitVec 6) : (t.setStat b).srseed = t.srseed := rfl
@[simp] theorem Strand.setStat_srstream (t : Strand) (b : BitVec 6) : (t.setStat b).srstream = t.srstream := rfl
@[simp] theorem Strand.setStat_rbtab (t : Strand) (b : BitVec 6) : (t.setStat b).rbtab = t.rbtab := rfl
@[simp] theorem Strand.setStat_stat (t : Strand) (b : BitVec 6) : (t.setStat b).stat = t.stat ||| b := rfl
@[simp] theorem Strand.setStat_teamid (t : Strand) (b : BitVec 6) : (t.setStat b).teamid = t.teamid := rfl
@[simp] theorem Strand.setStat_teamsize (t : Strand) (b : BitVec 6) : (t.setStat b).teamsize = t.teamsize := rfl
@[simp] theorem Strand.setStat_tsbase (t : Strand) (b : BitVec 6) : (t.setStat b).tsbase = t.tsbase := rfl
@[simp] theorem Strand.setStat_dswbase (t : Strand) (b : BitVec 6) : (t.setStat b).dswbase = t.dswbase := rfl
@[simp] theorem Strand.setStat_lpb (t : Strand) (b : BitVec 6) : (t.setStat b).lpb = t.lpb := rfl
@[simp] theorem Strand.setStat_p (t : Strand) (b : BitVec 6) : (t.setStat b).p = t.p := rfl
@[simp] theorem Strand.setStat_pp (t : Strand) (b : BitVec 6) : (t.setStat b).pp = t.pp := rfl
@[simp] theorem Strand.setStat_tvec (t : Strand) (b : BitVec 6) : (t.setStat b).tvec = t.tvec := rfl
@[simp] theorem Strand.setStat_tcause (t : Strand) (b : BitVec 6) : (t.setStat b).tcause = t.tcause := rfl
@[simp] theorem Strand.setStat_tval (t : Strand) (b : BitVec 6) : (t.setStat b).tval = t.tval := rfl
@[simp] theorem Strand.setStat_tepc (t : Strand) (b : BitVec 6) : (t.setStat b).tepc = t.tepc := rfl
@[simp] theorem Strand.setStat_tqHalted (t : Strand) (b : BitVec 6) : (t.setStat b).tqHalted = t.tqHalted := rfl
@[simp] theorem Strand.setStat_tqNonempty (t : Strand) (b : BitVec 6) : (t.setStat b).tqNonempty = t.tqNonempty := rfl
@[simp] theorem Strand.setStat_pfx (t : Strand) (b : BitVec 6) : (t.setStat b).pfx = t.pfx := rfl
@[simp] theorem Strand.setStat_unit (t : Strand) (b : BitVec 6) : (t.setStat b).unit = t.unit := rfl
@[simp] theorem Strand.setStat_held (t : Strand) (b : BitVec 6) : (t.setStat b).held = t.held := rfl
@[simp] theorem Strand.setStat_fetchHold (t : Strand) (b : BitVec 6) : (t.setStat b).fetchHold = t.fetchHold := rfl
@[simp] theorem Strand.setStat_parkEnded (t : Strand) (b : BitVec 6) : (t.setStat b).parkEnded = t.parkEnded := rfl
@[simp] theorem Strand.setStat_q (t : Strand) (b : BitVec 6) : (t.setStat b).q = t.q := rfl
@[simp] theorem Strand.setStat_arec (t : Strand) (b : BitVec 6) : (t.setStat b).arec = t.arec := rfl
@[simp] theorem Strand.setStat_resume (t : Strand) (b : BitVec 6) : (t.setStat b).resume = t.resume := rfl
@[simp] theorem Strand.setStat_frame (t : Strand) (b : BitVec 6) : (t.setStat b).frame = t.frame := rfl
@[simp] theorem Strand.setStat_tables (t : Strand) (b : BitVec 6) : (t.setStat b).tables = t.tables := rfl
@[simp] theorem Strand.setStat_topk (t : Strand) (b : BitVec 6) : (t.setStat b).topk = t.topk := rfl
@[simp] theorem Strand.setStat_pend (t : Strand) (b : BitVec 6) : (t.setStat b).pend = t.pend := rfl
@[simp] theorem Strand.setStat_spend (t : Strand) (b : BitVec 6) : (t.setStat b).spend = t.spend := rfl
@[simp] theorem Strand.setStat_vclk (t : Strand) (b : BitVec 6) : (t.setStat b).vclk = t.vclk := rfl
@[simp] theorem Strand.setStat_sclk (t : Strand) (b : BitVec 6) : (t.setStat b).sclk = t.sclk := rfl
@[simp] theorem Strand.setStat_barPhase (t : Strand) (b : BitVec 6) : (t.setStat b).barPhase = t.barPhase := rfl
@[simp] theorem Strand.setStat_barDropped (t : Strand) (b : BitVec 6) : (t.setStat b).barDropped = t.barDropped := rfl
@[simp] theorem Strand.setStat_syncArrived (t : Strand) (b : BitVec 6) : (t.setStat b).syncArrived = t.syncArrived := rfl
@[simp] theorem Strand.setStat_pauseEnd (t : Strand) (b : BitVec 6) : (t.setStat b).pauseEnd = t.pauseEnd := rfl
@[simp] theorem Strand.setStat_mtx (t : Strand) (b : BitVec 6) : (t.setStat b).mtx = t.mtx := rfl
@[simp] theorem Strand.setStat_mreq (t : Strand) (b : BitVec 6) : (t.setStat b).mreq = t.mreq := rfl
@[simp] theorem Strand.setStat_xpend (t : Strand) (b : BitVec 6) : (t.setStat b).xpend = t.xpend := rfl
@[simp] theorem Strand.setStat_fetchReq (t : Strand) (b : BitVec 6) : (t.setStat b).fetchReq = t.fetchReq := rfl
@[simp] theorem Strand.setStat_answered (t : Strand) (b : BitVec 6) : (t.setStat b).answered = t.answered := rfl
@[simp] theorem Strand.setStat_timeUp (t : Strand) (b : BitVec 6) : (t.setStat b).timeUp = t.timeUp := rfl
@[simp] theorem Strand.setStat_mdesc (t : Strand) (b : BitVec 6) : (t.setStat b).mdesc = t.mdesc := rfl
@[simp] theorem Strand.setStat_inval (t : Strand) (b : BitVec 6) : (t.setStat b).inval = t.inval := rfl
@[simp] theorem Strand.setStat_damage (t : Strand) (b : BitVec 6) : (t.setStat b).damage = t.damage := rfl
@[simp] theorem Strand.setStat_hangTimer (t : Strand) (b : BitVec 6) : (t.setStat b).hangTimer = t.hangTimer := rfl
@[simp] theorem Strand.setStat_cyc (t : Strand) (b : BitVec 6) : (t.setStat b).cyc = t.cyc := rfl

/-! `setHeld` -/

@[simp] theorem Strand.setHeld_live (t : Strand) (b : Bool) : (t.setHeld b).live = t.live := rfl
@[simp] theorem Strand.setHeld_team (t : Strand) (b : Bool) : (t.setHeld b).team = t.team := rfl
@[simp] theorem Strand.setHeld_sid (t : Strand) (b : Bool) : (t.setHeld b).sid = t.sid := rfl
@[simp] theorem Strand.setHeld_die (t : Strand) (b : Bool) : (t.setHeld b).die = t.die := rfl
@[simp] theorem Strand.setHeld_tile (t : Strand) (b : Bool) : (t.setHeld b).tile = t.tile := rfl
@[simp] theorem Strand.setHeld_core (t : Strand) (b : Bool) : (t.setHeld b).core = t.core := rfl
@[simp] theorem Strand.setHeld_slot (t : Strand) (b : Bool) : (t.setHeld b).slot = t.slot := rfl
@[simp] theorem Strand.setHeld_ctx (t : Strand) (b : Bool) : (t.setHeld b).ctx = t.ctx := rfl
@[simp] theorem Strand.setHeld_pc (t : Strand) (b : Bool) : (t.setHeld b).pc = t.pc := rfl
@[simp] theorem Strand.setHeld_s (t : Strand) (b : Bool) : (t.setHeld b).s = t.s := rfl
@[simp] theorem Strand.setHeld_v (t : Strand) (b : Bool) : (t.setHeld b).v = t.v := rfl
@[simp] theorem Strand.setHeld_m (t : Strand) (b : Bool) : (t.setHeld b).m = t.m := rfl
@[simp] theorem Strand.setHeld_d (t : Strand) (b : Bool) : (t.setHeld b).d = t.d := rfl
@[simp] theorem Strand.setHeld_dq (t : Strand) (b : Bool) : (t.setHeld b).dq = t.dq := rfl
@[simp] theorem Strand.setHeld_e (t : Strand) (b : Bool) : (t.setHeld b).e = t.e := rfl
@[simp] theorem Strand.setHeld_loops (t : Strand) (b : Bool) : (t.setHeld b).loops = t.loops := rfl
@[simp] theorem Strand.setHeld_flags (t : Strand) (b : Bool) : (t.setHeld b).flags = t.flags := rfl
@[simp] theorem Strand.setHeld_rndm (t : Strand) (b : Bool) : (t.setHeld b).rndm = t.rndm := rfl
@[simp] theorem Strand.setHeld_scbm (t : Strand) (b : Bool) : (t.setHeld b).scbm = t.scbm := rfl
@[simp] theorem Strand.setHeld_srseed (t : Strand) (b : Bool) : (t.setHeld b).srseed = t.srseed := rfl
@[simp] theorem Strand.setHeld_srstream (t : Strand) (b : Bool) : (t.setHeld b).srstream = t.srstream := rfl
@[simp] theorem Strand.setHeld_rbtab (t : Strand) (b : Bool) : (t.setHeld b).rbtab = t.rbtab := rfl
@[simp] theorem Strand.setHeld_stat (t : Strand) (b : Bool) : (t.setHeld b).stat = t.stat := rfl
@[simp] theorem Strand.setHeld_teamid (t : Strand) (b : Bool) : (t.setHeld b).teamid = t.teamid := rfl
@[simp] theorem Strand.setHeld_teamsize (t : Strand) (b : Bool) : (t.setHeld b).teamsize = t.teamsize := rfl
@[simp] theorem Strand.setHeld_tsbase (t : Strand) (b : Bool) : (t.setHeld b).tsbase = t.tsbase := rfl
@[simp] theorem Strand.setHeld_dswbase (t : Strand) (b : Bool) : (t.setHeld b).dswbase = t.dswbase := rfl
@[simp] theorem Strand.setHeld_lpb (t : Strand) (b : Bool) : (t.setHeld b).lpb = t.lpb := rfl
@[simp] theorem Strand.setHeld_p (t : Strand) (b : Bool) : (t.setHeld b).p = t.p := rfl
@[simp] theorem Strand.setHeld_pp (t : Strand) (b : Bool) : (t.setHeld b).pp = t.pp := rfl
@[simp] theorem Strand.setHeld_tvec (t : Strand) (b : Bool) : (t.setHeld b).tvec = t.tvec := rfl
@[simp] theorem Strand.setHeld_tcause (t : Strand) (b : Bool) : (t.setHeld b).tcause = t.tcause := rfl
@[simp] theorem Strand.setHeld_tval (t : Strand) (b : Bool) : (t.setHeld b).tval = t.tval := rfl
@[simp] theorem Strand.setHeld_tepc (t : Strand) (b : Bool) : (t.setHeld b).tepc = t.tepc := rfl
@[simp] theorem Strand.setHeld_tqHalted (t : Strand) (b : Bool) : (t.setHeld b).tqHalted = t.tqHalted := rfl
@[simp] theorem Strand.setHeld_tqNonempty (t : Strand) (b : Bool) : (t.setHeld b).tqNonempty = t.tqNonempty := rfl
@[simp] theorem Strand.setHeld_pfx (t : Strand) (b : Bool) : (t.setHeld b).pfx = t.pfx := rfl
@[simp] theorem Strand.setHeld_unit (t : Strand) (b : Bool) : (t.setHeld b).unit = t.unit := rfl
@[simp] theorem Strand.setHeld_held (t : Strand) (b : Bool) : (t.setHeld b).held = b := rfl
@[simp] theorem Strand.setHeld_fetchHold (t : Strand) (b : Bool) : (t.setHeld b).fetchHold = t.fetchHold := rfl
@[simp] theorem Strand.setHeld_parkEnded (t : Strand) (b : Bool) : (t.setHeld b).parkEnded = t.parkEnded := rfl
@[simp] theorem Strand.setHeld_q (t : Strand) (b : Bool) : (t.setHeld b).q = t.q := rfl
@[simp] theorem Strand.setHeld_arec (t : Strand) (b : Bool) : (t.setHeld b).arec = t.arec := rfl
@[simp] theorem Strand.setHeld_resume (t : Strand) (b : Bool) : (t.setHeld b).resume = t.resume := rfl
@[simp] theorem Strand.setHeld_frame (t : Strand) (b : Bool) : (t.setHeld b).frame = t.frame := rfl
@[simp] theorem Strand.setHeld_tables (t : Strand) (b : Bool) : (t.setHeld b).tables = t.tables := rfl
@[simp] theorem Strand.setHeld_topk (t : Strand) (b : Bool) : (t.setHeld b).topk = t.topk := rfl
@[simp] theorem Strand.setHeld_pend (t : Strand) (b : Bool) : (t.setHeld b).pend = t.pend := rfl
@[simp] theorem Strand.setHeld_spend (t : Strand) (b : Bool) : (t.setHeld b).spend = t.spend := rfl
@[simp] theorem Strand.setHeld_vclk (t : Strand) (b : Bool) : (t.setHeld b).vclk = t.vclk := rfl
@[simp] theorem Strand.setHeld_sclk (t : Strand) (b : Bool) : (t.setHeld b).sclk = t.sclk := rfl
@[simp] theorem Strand.setHeld_barPhase (t : Strand) (b : Bool) : (t.setHeld b).barPhase = t.barPhase := rfl
@[simp] theorem Strand.setHeld_barDropped (t : Strand) (b : Bool) : (t.setHeld b).barDropped = t.barDropped := rfl
@[simp] theorem Strand.setHeld_syncArrived (t : Strand) (b : Bool) : (t.setHeld b).syncArrived = t.syncArrived := rfl
@[simp] theorem Strand.setHeld_pauseEnd (t : Strand) (b : Bool) : (t.setHeld b).pauseEnd = t.pauseEnd := rfl
@[simp] theorem Strand.setHeld_mtx (t : Strand) (b : Bool) : (t.setHeld b).mtx = t.mtx := rfl
@[simp] theorem Strand.setHeld_mreq (t : Strand) (b : Bool) : (t.setHeld b).mreq = t.mreq := rfl
@[simp] theorem Strand.setHeld_xpend (t : Strand) (b : Bool) : (t.setHeld b).xpend = t.xpend := rfl
@[simp] theorem Strand.setHeld_fetchReq (t : Strand) (b : Bool) : (t.setHeld b).fetchReq = t.fetchReq := rfl
@[simp] theorem Strand.setHeld_answered (t : Strand) (b : Bool) : (t.setHeld b).answered = t.answered := rfl
@[simp] theorem Strand.setHeld_timeUp (t : Strand) (b : Bool) : (t.setHeld b).timeUp = t.timeUp := rfl
@[simp] theorem Strand.setHeld_mdesc (t : Strand) (b : Bool) : (t.setHeld b).mdesc = t.mdesc := rfl
@[simp] theorem Strand.setHeld_inval (t : Strand) (b : Bool) : (t.setHeld b).inval = t.inval := rfl
@[simp] theorem Strand.setHeld_damage (t : Strand) (b : Bool) : (t.setHeld b).damage = t.damage := rfl
@[simp] theorem Strand.setHeld_hangTimer (t : Strand) (b : Bool) : (t.setHeld b).hangTimer = t.hangTimer := rfl
@[simp] theorem Strand.setHeld_cyc (t : Strand) (b : Bool) : (t.setHeld b).cyc = t.cyc := rfl

/-! `fetchAt` -/

@[simp] theorem Strand.fetchAt_live (t : Strand) (pc : Dword) : (t.fetchAt pc).live = t.live := rfl
@[simp] theorem Strand.fetchAt_team (t : Strand) (pc : Dword) : (t.fetchAt pc).team = t.team := rfl
@[simp] theorem Strand.fetchAt_sid (t : Strand) (pc : Dword) : (t.fetchAt pc).sid = t.sid := rfl
@[simp] theorem Strand.fetchAt_die (t : Strand) (pc : Dword) : (t.fetchAt pc).die = t.die := rfl
@[simp] theorem Strand.fetchAt_tile (t : Strand) (pc : Dword) : (t.fetchAt pc).tile = t.tile := rfl
@[simp] theorem Strand.fetchAt_core (t : Strand) (pc : Dword) : (t.fetchAt pc).core = t.core := rfl
@[simp] theorem Strand.fetchAt_slot (t : Strand) (pc : Dword) : (t.fetchAt pc).slot = t.slot := rfl
@[simp] theorem Strand.fetchAt_ctx (t : Strand) (pc : Dword) : (t.fetchAt pc).ctx = t.ctx := rfl
@[simp] theorem Strand.fetchAt_pc (t : Strand) (pc : Dword) : (t.fetchAt pc).pc = pc := rfl
@[simp] theorem Strand.fetchAt_s (t : Strand) (pc : Dword) : (t.fetchAt pc).s = t.s := rfl
@[simp] theorem Strand.fetchAt_v (t : Strand) (pc : Dword) : (t.fetchAt pc).v = t.v := rfl
@[simp] theorem Strand.fetchAt_m (t : Strand) (pc : Dword) : (t.fetchAt pc).m = t.m := rfl
@[simp] theorem Strand.fetchAt_d (t : Strand) (pc : Dword) : (t.fetchAt pc).d = t.d := rfl
@[simp] theorem Strand.fetchAt_dq (t : Strand) (pc : Dword) : (t.fetchAt pc).dq = t.dq := rfl
@[simp] theorem Strand.fetchAt_e (t : Strand) (pc : Dword) : (t.fetchAt pc).e = t.e := rfl
@[simp] theorem Strand.fetchAt_loops (t : Strand) (pc : Dword) : (t.fetchAt pc).loops = t.loops := rfl
@[simp] theorem Strand.fetchAt_flags (t : Strand) (pc : Dword) : (t.fetchAt pc).flags = t.flags := rfl
@[simp] theorem Strand.fetchAt_rndm (t : Strand) (pc : Dword) : (t.fetchAt pc).rndm = t.rndm := rfl
@[simp] theorem Strand.fetchAt_scbm (t : Strand) (pc : Dword) : (t.fetchAt pc).scbm = t.scbm := rfl
@[simp] theorem Strand.fetchAt_srseed (t : Strand) (pc : Dword) : (t.fetchAt pc).srseed = t.srseed := rfl
@[simp] theorem Strand.fetchAt_srstream (t : Strand) (pc : Dword) : (t.fetchAt pc).srstream = t.srstream := rfl
@[simp] theorem Strand.fetchAt_rbtab (t : Strand) (pc : Dword) : (t.fetchAt pc).rbtab = t.rbtab := rfl
@[simp] theorem Strand.fetchAt_stat (t : Strand) (pc : Dword) : (t.fetchAt pc).stat = t.stat := rfl
@[simp] theorem Strand.fetchAt_teamid (t : Strand) (pc : Dword) : (t.fetchAt pc).teamid = t.teamid := rfl
@[simp] theorem Strand.fetchAt_teamsize (t : Strand) (pc : Dword) : (t.fetchAt pc).teamsize = t.teamsize := rfl
@[simp] theorem Strand.fetchAt_tsbase (t : Strand) (pc : Dword) : (t.fetchAt pc).tsbase = t.tsbase := rfl
@[simp] theorem Strand.fetchAt_dswbase (t : Strand) (pc : Dword) : (t.fetchAt pc).dswbase = t.dswbase := rfl
@[simp] theorem Strand.fetchAt_lpb (t : Strand) (pc : Dword) : (t.fetchAt pc).lpb = t.lpb := rfl
@[simp] theorem Strand.fetchAt_p (t : Strand) (pc : Dword) : (t.fetchAt pc).p = t.p := rfl
@[simp] theorem Strand.fetchAt_pp (t : Strand) (pc : Dword) : (t.fetchAt pc).pp = t.pp := rfl
@[simp] theorem Strand.fetchAt_tvec (t : Strand) (pc : Dword) : (t.fetchAt pc).tvec = t.tvec := rfl
@[simp] theorem Strand.fetchAt_tcause (t : Strand) (pc : Dword) : (t.fetchAt pc).tcause = t.tcause := rfl
@[simp] theorem Strand.fetchAt_tval (t : Strand) (pc : Dword) : (t.fetchAt pc).tval = t.tval := rfl
@[simp] theorem Strand.fetchAt_tepc (t : Strand) (pc : Dword) : (t.fetchAt pc).tepc = t.tepc := rfl
@[simp] theorem Strand.fetchAt_tqHalted (t : Strand) (pc : Dword) : (t.fetchAt pc).tqHalted = t.tqHalted := rfl
@[simp] theorem Strand.fetchAt_tqNonempty (t : Strand) (pc : Dword) : (t.fetchAt pc).tqNonempty = t.tqNonempty := rfl
@[simp] theorem Strand.fetchAt_pfx (t : Strand) (pc : Dword) : (t.fetchAt pc).pfx = t.pfx := rfl
@[simp] theorem Strand.fetchAt_unit (t : Strand) (pc : Dword) : (t.fetchAt pc).unit = t.unit := rfl
@[simp] theorem Strand.fetchAt_held (t : Strand) (pc : Dword) : (t.fetchAt pc).held = t.held := rfl
@[simp] theorem Strand.fetchAt_fetchHold (t : Strand) (pc : Dword) : (t.fetchAt pc).fetchHold = false := rfl
@[simp] theorem Strand.fetchAt_parkEnded (t : Strand) (pc : Dword) : (t.fetchAt pc).parkEnded = t.parkEnded := rfl
@[simp] theorem Strand.fetchAt_q (t : Strand) (pc : Dword) : (t.fetchAt pc).q = t.q := rfl
@[simp] theorem Strand.fetchAt_arec (t : Strand) (pc : Dword) : (t.fetchAt pc).arec = t.arec := rfl
@[simp] theorem Strand.fetchAt_resume (t : Strand) (pc : Dword) : (t.fetchAt pc).resume = t.resume := rfl
@[simp] theorem Strand.fetchAt_frame (t : Strand) (pc : Dword) : (t.fetchAt pc).frame = t.frame := rfl
@[simp] theorem Strand.fetchAt_tables (t : Strand) (pc : Dword) : (t.fetchAt pc).tables = t.tables := rfl
@[simp] theorem Strand.fetchAt_topk (t : Strand) (pc : Dword) : (t.fetchAt pc).topk = t.topk := rfl
@[simp] theorem Strand.fetchAt_pend (t : Strand) (pc : Dword) : (t.fetchAt pc).pend = t.pend := rfl
@[simp] theorem Strand.fetchAt_spend (t : Strand) (pc : Dword) : (t.fetchAt pc).spend = t.spend := rfl
@[simp] theorem Strand.fetchAt_vclk (t : Strand) (pc : Dword) : (t.fetchAt pc).vclk = t.vclk := rfl
@[simp] theorem Strand.fetchAt_sclk (t : Strand) (pc : Dword) : (t.fetchAt pc).sclk = t.sclk := rfl
@[simp] theorem Strand.fetchAt_barPhase (t : Strand) (pc : Dword) : (t.fetchAt pc).barPhase = t.barPhase := rfl
@[simp] theorem Strand.fetchAt_barDropped (t : Strand) (pc : Dword) : (t.fetchAt pc).barDropped = t.barDropped := rfl
@[simp] theorem Strand.fetchAt_syncArrived (t : Strand) (pc : Dword) : (t.fetchAt pc).syncArrived = t.syncArrived := rfl
@[simp] theorem Strand.fetchAt_pauseEnd (t : Strand) (pc : Dword) : (t.fetchAt pc).pauseEnd = t.pauseEnd := rfl
@[simp] theorem Strand.fetchAt_mtx (t : Strand) (pc : Dword) : (t.fetchAt pc).mtx = t.mtx := rfl
@[simp] theorem Strand.fetchAt_mreq (t : Strand) (pc : Dword) : (t.fetchAt pc).mreq = t.mreq := rfl
@[simp] theorem Strand.fetchAt_xpend (t : Strand) (pc : Dword) : (t.fetchAt pc).xpend = t.xpend := rfl
@[simp] theorem Strand.fetchAt_fetchReq (t : Strand) (pc : Dword) : (t.fetchAt pc).fetchReq = t.fetchReq := rfl
@[simp] theorem Strand.fetchAt_answered (t : Strand) (pc : Dword) : (t.fetchAt pc).answered = t.answered := rfl
@[simp] theorem Strand.fetchAt_timeUp (t : Strand) (pc : Dword) : (t.fetchAt pc).timeUp = t.timeUp := rfl
@[simp] theorem Strand.fetchAt_mdesc (t : Strand) (pc : Dword) : (t.fetchAt pc).mdesc = t.mdesc := rfl
@[simp] theorem Strand.fetchAt_inval (t : Strand) (pc : Dword) : (t.fetchAt pc).inval = t.inval := rfl
@[simp] theorem Strand.fetchAt_damage (t : Strand) (pc : Dword) : (t.fetchAt pc).damage = t.damage := rfl
@[simp] theorem Strand.fetchAt_hangTimer (t : Strand) (pc : Dword) : (t.fetchAt pc).hangTimer = t.hangTimer := rfl
@[simp] theorem Strand.fetchAt_cyc (t : Strand) (pc : Dword) : (t.fetchAt pc).cyc = t.cyc := rfl

end Sys2Proof.Machine
end

