-- ==== Sys2Proof/Laws/Issue.lean ====
section
/-! SUPPORT. The issue of one unit (R35, R42, R99): the only ways in which it can end. -/

namespace Sys2Proof.Machine

/-- Whether a word has to wait does not decide what it reads. -/
@[simp] theorem readsDamage_begun (r : Roles) (s : State) : r.readsDamage s.begun.cs = r.readsDamage s.cs := rfl

/-- A word that reads no damaged data has its effect (R356). -/
theorem undamaged_of_sound {r : Roles} {s : State} (h : r.readsDamage s.cs = false) (body : State → Act) : undamaged r body s = body s := by
  simp [undamaged, h]

/-- A word that reads damaged data traps (R343, R356). -/
theorem issue_of_damage {i : Instr} {s : State} (h1 : fateOf s i = none) (h2 : s.cs.tokHolds s.cs.unit = false)
    (h3 : queuesReady (rolesOf i) s.cs = true) (h4 : (rolesOf i).readsDamage s.cs = true) (body : State → Act) :
    issue i s body = s.trapped i .uncorrectable (BitVec.allOnes 64) := by
  simp only [issue, issueWith, queuesHold, h1, h2, h3, Option.isSome_none, Bool.false_and, Bool.false_or, Bool.not_true, Bool.or_self,
    Bool.false_eq_true, if_false]
  rw [show s.onCs (fun t => t.setHeld false) = s.begun from rfl]
  simp only [undamaged, readsDamage_begun, h4, if_true, damageTrap]
  rfl

/-- A word that nothing keeps from its effect ends as its body says. -/
theorem issue_of_issues {i : Instr} {s : State} (h : Issues i s) (body : State → Act) :
    issue i s body = (match body s.begun with
      | .ok t => t.onCs (fun c => c.signal s.cs.unit.sig)
      | .okNoSig t => t
      | .wait => s.waits
      | .waitWith t => t.onCs (fun c => c.setHeld true)
      | .trap c v => s.trapped i c v
      | .trapWith t c v => t.trap c v ((rolesOf i).pops s.cs s.cs.unit) ((rolesOf i).pushes s.cs s.cs.unit)
      | .deferred t e c v => t.trapDeferred e c v) := by
  obtain ⟨h1, h2, h3, h4⟩ := h
  simp only [issue, issueWith, queuesHold, h1, h2, h3, Option.isSome_none, Bool.false_and, Bool.false_or, Bool.not_true, Bool.or_self,
    Bool.false_eq_true, if_false]
  rw [show s.onCs (fun t => t.setHeld false) = s.begun from rfl, undamaged_of_sound (s := s.begun) h4]
  rfl

/-- A word with a fate, once nothing holds it, traps with it and TVAL equal to its word. -/
theorem issue_of_fate {i : Instr} {s : State} {c : Cause} (h : fateOf s i = some c) (w : s.cs.tokHolds s.cs.unit = false)
    (q : queuesHold (rolesOf i) (some c) s.cs = false) (body : State → Act) :
    issue i s body = s.trapped i c (s.cs.unit.word.setWidth 64) := by
  simp only [issue, issueWith, h, w, q, Bool.or_self, Bool.false_eq_true, if_false]; rfl

/-- A word whose TOK wait or data queues hold it changes nothing. -/
theorem issue_of_hold {i : Instr} {s : State}
    (w : s.cs.tokHolds s.cs.unit = true ∨ queuesHold (rolesOf i) (fateOf s i) s.cs = true) (body : State → Act) :
    issue i s body = s.waits := by
  simp only [issue, issueWith]
  rw [if_pos]
  · rfl
  · rcases w with w | w <;> simp [w]

/-- The queues hold a word without a fate exactly where they are not ready. -/
@[simp] theorem queuesHold_none (r : Roles) (t : Strand) : queuesHold r none t = !queuesReady r t := rfl

/-- A word without a fate is not privileged in the user view, keeps its limits, and its prefixes and vector fields are legal. -/
theorem fateOf_none {i : Instr} {s : State} (h : fateOf s i = none) :
    s.cs.unit.badKind = false ∧ (isPrivileged i = true → s.cs.priv = true) ∧ i.fieldsOk = true ∧
    dynamicOk i s.cs s.cs.unit (s.array s.cs.arrayNo).amode = true ∧ s.cs.unit.loopBad = false ∧ s.cs.unit.patchBad = false ∧
    extsOk (rolesOf i) (clsInWord i) s.cs.unit = true ∧ (rolesOf i).fieldsOk s.cs s.cs.unit s.csTeam.hdr.nv = true := by
  unfold fateOf fateWith at h
  dsimp only at h
  split_ifs at h with h1 h2 h3
  simp only [Bool.or_eq_true, Bool.not_eq_true', Bool.and_eq_true, not_or, Bool.not_eq_true, Bool.not_eq_false, Bool.and_eq_false_iff]
    at h1 h2 h3
  obtain ⟨⟨⟨⟨⟨h4, h5⟩, h6⟩, h7⟩, h8⟩, _⟩ := h3
  refine ⟨h1, fun hp => ?_, ?_, ?_, h4, h5, h7, h8⟩
  · cases hv : s.cs.priv
    · exact absurd ⟨hp, hv⟩ h2
    · rfl
  all_goals cases hf : i.fieldsOk <;> simp_all

/-- Completion with an effect. -/
theorem issue_ok {i : Instr} {s t : State} (h : Issues i s) {body : State → Act} (b : body s.begun = .ok t) :
    issue i s body = s.completes t := by
  rw [issue_of_issues h, b]; rfl

/-- Completion that signals later. -/
theorem issue_okNoSig {i : Instr} {s t : State} (h : Issues i s) {body : State → Act} (b : body s.begun = .okNoSig t) :
    issue i s body = t := by
  rw [issue_of_issues h, b]

/-- A trap of the word itself. -/
theorem issue_trap {i : Instr} {s : State} {c : Cause} {v : Dword} (h : Issues i s) {body : State → Act} (b : body s.begun = .trap c v) :
    issue i s body = s.trapped i c v := by
  rw [issue_of_issues h, b]

/-- A wait. -/
theorem issue_wait {i : Instr} {s : State} (h : Issues i s) {body : State → Act} (b : body s.begun = .wait) :
    issue i s body = s.waits := by
  rw [issue_of_issues h, b]

/-- The effect of a word with one scalar result. -/
theorem scalarWord_eq {i : Instr} {s : State} (h : Issues i s) (d : BitVec 6) (f : Strand → Dword) :
    scalarWord i s d f = .next (s.wrote d (f s.begun.cs)) := by
  rw [scalarWord, issue_of_issues h]; rfl

/-- The effect of a word with one scalar result and flags. -/
theorem floatWord_eq {i : Instr} {s : State} (h : Issues i s) (d : BitVec 6) (f : Strand → Nat × Flags) :
    floatWord i s d f = .next (s.wroteFlags d (f s.begun.cs)) := by
  rw [floatWord, issue_of_issues h]; rfl

end Sys2Proof.Machine
end

