-- ==== Sys2Proof/Laws/Sparse.lean ====
section
/-! SUPPORT. Sparse tables and memory: a read after a write, and that every write keeps the canonical form. -/

namespace Sys2Proof.Machine

variable {α : Type} [DecidableEq α] {d : α}

/-- A write leaves every other key alone, in canonical form or not. -/
theorem Sparse.get_set_ne (m : Sparse α) {i j : Nat} (x : α) (h : j ≠ i) : Sparse.get d (Sparse.set d m i x) j = Sparse.get d m j := by
  induction m with
  | nil => by_cases hx : x = d <;> simp [Sparse.set, Sparse.get, hx, h]
  | cons c m ih =>
    obtain ⟨k, v⟩ := c
    simp only [Sparse.set]
    split
    · split <;> simp [Sparse.get, h]
    · split
      · next hk => subst hk; split <;> simp [Sparse.get, h]
      · simp [Sparse.get, ih]

theorem Sparse.wfFrom_mono (m : Sparse α) {a b : Nat} (h : a ≤ b) (w : Sparse.wfFrom d b m = true) : Sparse.wfFrom d a m = true := by
  cases m with
  | nil => rfl
  | cons c m => obtain ⟨k, v⟩ := c; simp [Sparse.wfFrom] at *; exact ⟨⟨by omega, w.1.2⟩, w.2⟩

/-- A key below every listed one reads the default. -/
theorem Sparse.get_below (m : Sparse α) {b i : Nat} (w : Sparse.wfFrom d b m = true) (h : i < b) : Sparse.get d m i = d := by
  induction m generalizing b with
  | nil => rfl
  | cons c m ih =>
    obtain ⟨k, v⟩ := c
    simp [Sparse.wfFrom] at w
    have : i ≠ k := by omega
    simp [Sparse.get, this, ih w.2 (by omega)]

theorem Sparse.get_set_self_from (m : Sparse α) {b i : Nat} (x : α) (w : Sparse.wfFrom d b m = true) :
    Sparse.get d (Sparse.set d m i x) i = x := by
  induction m generalizing b with
  | nil => by_cases hx : x = d <;> simp [Sparse.set, Sparse.get, hx]
  | cons c m ih =>
    obtain ⟨k, v⟩ := c
    have w' := w
    simp [Sparse.wfFrom] at w
    simp only [Sparse.set]
    split
    · next hk =>
      split
      · next hx =>
        subst hx
        have : i ≠ k := by omega
        simp [Sparse.get, this, Sparse.get_below m w.2 (by omega : i < k + 1)]
      · simp [Sparse.get]
    · split
      · next hk =>
        subst hk
        split
        · next hx => subst hx; exact Sparse.get_below m w.2 (by omega)
        · simp [Sparse.get]
      · next hk => simp [Sparse.get, hk, ih w.2]

/-- A read after a write to the same key gives the value written. -/
theorem Sparse.get_set_self (m : Sparse α) (i : Nat) (x : α) (w : Sparse.wf d m = true) : Sparse.get d (Sparse.set d m i x) i = x :=
  Sparse.get_set_self_from m x w

/-- The same without the canonical form, where the value is not the one of an unlisted key. -/
theorem Sparse.get_set_self_of_ne (m : Sparse α) (i : Nat) {x : α} (hx : x ≠ d) : Sparse.get d (Sparse.set d m i x) i = x := by
  induction m with
  | nil => simp [Sparse.set, Sparse.get, hx]
  | cons c m ih =>
    obtain ⟨k, v⟩ := c
    simp only [Sparse.set]
    split
    · simp [Sparse.get]
    · split
      · simp [Sparse.get]
      · next h => simp [Sparse.get, h, ih]

theorem Sparse.wfFrom_set (m : Sparse α) {b i : Nat} (x : α) (hi : b ≤ i) (w : Sparse.wfFrom d b m = true) :
    Sparse.wfFrom d b (Sparse.set d m i x) = true := by
  induction m generalizing b with
  | nil => by_cases hx : x = d <;> simp [Sparse.set, Sparse.wfFrom, hx, hi]
  | cons c m ih =>
    obtain ⟨k, v⟩ := c
    have w' := w
    simp [Sparse.wfFrom] at w
    simp only [Sparse.set]
    split
    · split
      · exact w'
      · next hx => simp [Sparse.wfFrom, hi, hx, w.1.2, w.2]; omega
    · split
      · next hk =>
        subst hk
        split
        · exact Sparse.wfFrom_mono m (by omega) w.2
        · next hx => simp [Sparse.wfFrom, hi, hx, w.2]
      · next hk => simp [Sparse.wfFrom, w.1.1, w.1.2, ih (by omega : k + 1 ≤ i) w.2]

/-- A write keeps the canonical form. -/
theorem Sparse.wf_set (m : Sparse α) (i : Nat) (x : α) (w : Sparse.wf d m = true) : Sparse.wf d (Sparse.set d m i x) = true :=
  Sparse.wfFrom_set m x (Nat.zero_le i) w

/-- Taking entries away keeps the canonical form. -/
theorem Sparse.wfFrom_filter (p : Nat × α → Bool) (m : Sparse α) {b : Nat} (w : Sparse.wfFrom d b m = true) :
    Sparse.wfFrom d b (m.filter p) = true := by
  induction m generalizing b with
  | nil => rfl
  | cons c m ih =>
    obtain ⟨k, v⟩ := c
    simp [Sparse.wfFrom] at w
    have h := ih w.2
    simp only [List.filter]
    split
    · simp [Sparse.wfFrom, w.1.1, w.1.2, h]
    · exact Sparse.wfFrom_mono _ (by omega) h

theorem Sparse.wf_filter (p : Nat × α → Bool) (m : Sparse α) (w : Sparse.wf d m = true) : Sparse.wf d (m.filter p) = true :=
  Sparse.wfFrom_filter p m w

/-! Memory. -/

theorem memByte_setByte_ne (m : List Host.Cell) {a b : Nat} (x : Byte) (h : b ≠ a) : memByte (setByte m a x) b = memByte m b :=
  Sparse.get_set_ne m x h

theorem memByte_setByte_self (m : List Host.Cell) (a : Nat) (x : Byte) (w : Memory.wf m = true) : memByte (setByte m a x) a = x :=
  Sparse.get_set_self m a x w

theorem wf_setByte (m : List Host.Cell) (a : Nat) (x : Byte) (w : Memory.wf m = true) : Memory.wf (setByte m a x) = true :=
  Sparse.wf_set m a x w

theorem wf_setBytes (l : List Byte) (m : List Host.Cell) (a : Nat) (w : Memory.wf m = true) : Memory.wf (setBytes m a l) = true := by
  induction l generalizing m a with
  | nil => exact w
  | cons b l ih => exact ih _ _ (wf_setByte m a b w)

/-- Bytes outside the written run are left alone. -/
theorem memByte_setBytes_out (l : List Byte) (m : List Host.Cell) {a b : Nat} (h : b < a ∨ a + l.length ≤ b) :
    memByte (setBytes m a l) b = memByte m b := by
  induction l generalizing m a with
  | nil => rfl
  | cons x l ih =>
    simp only [List.length_cons] at h
    simp only [setBytes]
    rw [ih _ (by omega), memByte_setByte_ne _ _ (by omega)]

/-- Bytes of the written run read as written. -/
theorem memByte_setBytes_in (l : List Byte) (m : List Host.Cell) (a : Nat) {k : Nat} (h : k < l.length) (w : Memory.wf m = true) :
    memByte (setBytes m a l) (a + k) = l[k] := by
  induction l generalizing m a k with
  | nil => exact absurd h (Nat.not_lt_zero k)
  | cons x l ih =>
    cases k with
    | zero => simp only [setBytes]; rw [memByte_setBytes_out l _ (.inl (by omega))]; exact memByte_setByte_self m a x w
    | succ n =>
      have := ih (setByte m a x) (a + 1) (Nat.lt_of_succ_lt_succ h) (wf_setByte m a x w)
      simpa [setBytes, Nat.add_assoc, Nat.add_comm 1 n] using this

end Sys2Proof.Machine
end

