-- ==== Sys2Proof/Laws/Memory.lean ====
section
/-! SUPPORT. Every operation that writes memory keeps its canonical form, and leaves the bytes outside its place alone. -/

namespace Sys2Proof.Machine

theorem wf_writePlan (data : List Vec) (plan : List (Nat × Loc)) (m : List Host.Cell) (w : Memory.wf m = true) :
    Memory.wf (writePlan m data plan) = true := by
  induction plan generalizing m with
  | nil => exact w
  | cons p l ih => exact ih _ (wf_setByte m _ _ w)

theorem memByte_writePlan_out (data : List Vec) (plan : List (Nat × Loc)) (m : List Host.Cell) {a : Nat}
    (h : ∀ p ∈ plan, p.2.key ≠ a) : memByte (writePlan m data plan) a = memByte m a := by
  induction plan generalizing m with
  | nil => rfl
  | cons p l ih =>
    have h1 : memByte (writePlan (setByte m p.2.key (imgByte data p.1)) data l) a = _ :=
      ih _ (fun q hq => h q (List.mem_cons_of_mem _ hq))
    rw [memByte_setByte_ne _ _ (fun e => h p (List.mem_cons_self ..) e.symm)] at h1
    exact h1

theorem wf_zeroFrame (m : List Host.Cell) (base : Nat) (w : Memory.wf m = true) : Memory.wf (zeroFrame m base) = true :=
  Sparse.wf_filter _ m w

theorem wf_foldl_setByte {α : Type} (key : α → Nat) (val : α → Byte) (l : List α) (m : List Host.Cell) (w : Memory.wf m = true) :
    Memory.wf (l.foldl (fun m c => setByte m (key c) (val c)) m) = true := by
  induction l generalizing m with
  | nil => exact w
  | cons c l ih => exact ih _ (wf_setByte m _ _ w)

theorem wf_copyFrame (m : List Host.Cell) (src dst : Nat) (w : Memory.wf m = true) : Memory.wf (copyFrame m src dst) = true :=
  wf_foldl_setByte _ _ _ _ (wf_zeroFrame m dst w)

theorem wf_foldl_zeroFrame {α : Type} (f : α → Nat) (l : List α) (m : List Host.Cell) (w : Memory.wf m = true) :
    Memory.wf (l.foldl (fun m c => zeroFrame m (f c)) m) = true := by
  induction l generalizing m with
  | nil => exact w
  | cons c l ih => exact ih _ (wf_zeroFrame m _ w)

theorem wf_loadFrames (s : State) (id : Nat) (die : BitVec 2) (tile : BitVec 4) (frames : List Nat) (image : List Host.Cell)
    (w : Memory.wf s.mem = true) : Memory.wf (loadFrames s id die tile frames image).mem = true :=
  wf_foldl_setByte _ _ _ _ (wf_foldl_zeroFrame _ frames s.mem w)

@[simp] theorem repairGranules_mem (s : State) (plan : List (Nat × Loc)) : (repairGranules s plan).mem = s.mem := by
  unfold repairGranules; split <;> rfl

end Sys2Proof.Machine
end

