-- ==== Sys2Proof/Laws/L1.lean ====
section
/-! SUPPORT. What the operations of the L1s can do: they write dirty bytes back, and nothing but memory, its damage and the lines
changes. -/

namespace Sys2Proof.Machine

/-- `t` is `s` but for the lines of the L1s and what their write-back leaves: memory keeps its canonical form, and a byte that no line
holds dirty is as before. -/
def OnlyL1 (s t : State) : Prop :=
  t = { s with mem := t.mem, poison := t.poison, l1 := t.l1 } ∧ (Memory.wf s.mem = true → Memory.wf t.mem = true) ∧
  (∀ g ∈ t.poison, g ∈ s.poison) ∧
  ∀ a, (∀ x ∈ s.l1, ∀ e ∈ x.dirtyBytes, e.1 ≠ a) → memByte t.mem a = memByte s.mem a

theorem OnlyL1.refl (s : State) : OnlyL1 s s := ⟨rfl, id, fun _ h => h, fun _ _ => rfl⟩

theorem memByte_foldl_setByte_out (l : List (Nat × Byte)) (m : List Host.Cell) {a : Nat} (h : ∀ e ∈ l, e.1 ≠ a) :
    memByte (l.foldl (fun m x => setByte m x.1 x.2) m) a = memByte m a := by
  induction l generalizing m with
  | nil => rfl
  | cons c l ih =>
    rw [List.foldl_cons, ih _ (fun e he => h e (List.mem_cons_of_mem _ he)), memByte_setByte_ne _ _ (fun e => h c (List.mem_cons_self ..) e.symm)]

theorem onlyL1_writeBacks (s : State) (l : List L1Line) (hl : ∀ x ∈ l, x ∈ s.l1) : OnlyL1 s (l.foldl writeBack s) := by
  suffices h : ∀ t : State, OnlyL1 s t → OnlyL1 s (l.foldl writeBack t) from h s (.refl s)
  induction l with
  | nil => exact fun t h => h
  | cons x l ih =>
    intro t ht
    refine ih (fun y hy => hl y (List.mem_cons_of_mem _ hy)) _ ⟨by rw [ht.1]; rfl, fun w => wf_foldl_setByte _ _ _ _ (ht.2.1 w),
      fun g hg => ht.2.2.1 g (List.mem_of_mem_filter hg), fun a ha => ?_⟩
    exact (memByte_foldl_setByte_out _ _ (fun e he => ha x (hl x (List.mem_cons_self ..)) e he)).trans (ht.2.2.2 a ha)

/-- Flushing writes back the lines selected; the others stay as they are, and no line is new. -/
theorem flushL1_spec (s : State) (keep : Bool) (p : L1Line → Bool) : OnlyL1 s (flushL1 s keep p) ∧
    (flushL1 s keep p).l1 = if keep then s.l1.map (fun x => if p x then { x with dirty := 0 } else x) else s.l1.filter (fun x => !p x) := by
  unfold flushL1
  split
  · rename_i h
    rw [List.isEmpty_iff] at h
    exact ⟨.refl s, by simp [h]⟩
  · have h := onlyL1_writeBacks s (s.l1.filter p) (fun x hx => List.mem_of_mem_filter hx)
    exact ⟨⟨by dsimp only; rw [h.1], h.2⟩, rfl⟩

theorem flushL1_drops {s : State} {p : L1Line → Bool} {x : L1Line} (h : x ∈ (flushL1 s false p).l1) : p x = false := by
  rw [(flushL1_spec ..).2] at h
  simpa using (List.mem_filter.mp h).2

theorem releaseL1_spec (s : State) (core : Nat) (scope : BitVec 3) : OnlyL1 s (releaseL1 s core scope) := by
  unfold releaseL1; split
  exacts [(flushL1_spec ..).1, .refl s]

/-- An acquire at die scope or wider leaves no line of the core. -/
theorem acquireL1_spec (s : State) (core : Nat) (scope : BitVec 3) : OnlyL1 s (acquireL1 s core scope) ∧
    (3 ≤ scope.toNat → ∀ x ∈ (acquireL1 s core scope).l1, x.core ≠ core) := by
  unfold acquireL1; split
  · exact ⟨(flushL1_spec ..).1, fun _ x hx => by simpa using flushL1_drops hx⟩
  · exact ⟨.refl s, fun h => absurd h ‹_›⟩

theorem flushFrame_spec (s : State) (frame : Nat) : OnlyL1 s (flushFrame s frame) ∧
    ∀ x ∈ (flushFrame s frame).l1, ∀ k ∈ x.keys, k / 2 ^ 16 ≠ frame / 2 ^ 16 :=
  ⟨(flushL1_spec ..).1, fun x hx => by simpa [inFrame] using flushL1_drops hx⟩

theorem makeRoom_spec (s : State) (core : Nat) : OnlyL1 s (makeRoom s core) := by
  unfold makeRoom; split
  · exact .refl s
  · split
    exacts [(flushL1_spec ..).1, .refl s]

/-- A fill brings in at most one line, clean, with the bytes of memory. -/
theorem fillL1_spec (s : State) (core : Nat) (part : BitVec 6) (l : Loc) : OnlyL1 s (fillL1 s core part l) := by
  unfold fillL1
  split
  · exact .refl s
  · split
    · exact .refl s
    · split
      · exact .refl s
      · split
        · exact .refl s
        · have h := makeRoom_spec s core
          exact ⟨by dsimp only; rw [h.1], h.2⟩

/-- A byte written to an L1 is not in memory yet. -/
theorem l1Put_spec (s t : State) (core : Nat) (part : BitVec 6) (l : Loc) (b : Byte) (h : l1Put s core part l b = some t) :
    t = { s with l1 := t.l1 } ∧ t.l1.length = s.l1.length := by
  unfold l1Put at h
  split at h
  · cases h
  · split at h
    · cases h
    · cases h; exact ⟨rfl, List.length_map ..⟩

end Sys2Proof.Machine
end

