-- ==== Sys2Proof/Laws/PerInstr.lean ====
section
/-! SUPPORT. The family `Fields`: a row of the opcode table either has an encoding (06_instruction_encoding.md R77 to R97) or has the word 0
in `encode`, one lemma for each constructor. -/

namespace Sys2Proof.Laws.Fields

/-- An instruction without an encoding encodes as 0. -/
def Statement (i : Instr) : Prop := i.isWord = true ∨ encode i = 0

theorem nop : Statement (.nop) := .inl rfl
theorem add (d : BitVec 6) (a : BitVec 6) (b : BitVec 6) : Statement (.add d a b) := .inl rfl
theorem sub (d : BitVec 6) (a : BitVec 6) (b : BitVec 6) : Statement (.sub d a b) := .inl rfl
theorem mul (d : BitVec 6) (a : BitVec 6) (b : BitVec 6) : Statement (.mul d a b) := .inl rfl
theorem mulhS (d : BitVec 6) (a : BitVec 6) (b : BitVec 6) : Statement (.mulhS d a b) := .inl rfl
theorem mulhN (d : BitVec 6) (a : BitVec 6) (b : BitVec 6) : Statement (.mulhN d a b) := .inl rfl
theorem divS (d : BitVec 6) (a : BitVec 6) (b : BitVec 6) (t : BitVec 1) : Statement (.divS d a b t) := .inl rfl
theorem divN (d : BitVec 6) (a : BitVec 6) (b : BitVec 6) (t : BitVec 1) : Statement (.divN d a b t) := .inl rfl
theorem remS (d : BitVec 6) (a : BitVec 6) (b : BitVec 6) (t : BitVec 1) : Statement (.remS d a b t) := .inl rfl
theorem remN (d : BitVec 6) (a : BitVec 6) (b : BitVec 6) (t : BitVec 1) : Statement (.remN d a b t) := .inl rfl
theorem and (d : BitVec 6) (a : BitVec 6) (b : BitVec 6) : Statement (.and d a b) := .inl rfl
theorem or (d : BitVec 6) (a : BitVec 6) (b : BitVec 6) : Statement (.or d a b) := .inl rfl
theorem xor (d : BitVec 6) (a : BitVec 6) (b : BitVec 6) : Statement (.xor d a b) := .inl rfl
theorem andn (d : BitVec 6) (a : BitVec 6) (b : BitVec 6) : Statement (.andn d a b) := .inl rfl
theorem shl (d : BitVec 6) (a : BitVec 6) (b : BitVec 6) : Statement (.shl d a b) := .inl rfl
theorem shrN (d : BitVec 6) (a : BitVec 6) (b : BitVec 6) : Statement (.shrN d a b) := .inl rfl
theorem shrS (d : BitVec 6) (a : BitVec 6) (b : BitVec 6) : Statement (.shrS d a b) := .inl rfl
theorem rot (d : BitVec 6) (a : BitVec 6) (b : BitVec 6) : Statement (.rot d a b) := .inl rfl
theorem minS (d : BitVec 6) (a : BitVec 6) (b : BitVec 6) : Statement (.minS d a b) := .inl rfl
theorem minN (d : BitVec 6) (a : BitVec 6) (b : BitVec 6) : Statement (.minN d a b) := .inl rfl
theorem maxS (d : BitVec 6) (a : BitVec 6) (b : BitVec 6) : Statement (.maxS d a b) := .inl rfl
theorem maxN (d : BitVec 6) (a : BitVec 6) (b : BitVec 6) : Statement (.maxN d a b) := .inl rfl
theorem clz (d : BitVec 6) (a : BitVec 6) : Statement (.clz d a) := .inl rfl
theorem ctz (d : BitVec 6) (a : BitVec 6) : Statement (.ctz d a) := .inl rfl
theorem popc (d : BitVec 6) (a : BitVec 6) : Statement (.popc d a) := .inl rfl
theorem sel (d : BitVec 6) (a : BitVec 6) (b : BitVec 6) (f : BitVec 4) : Statement (.sel d a b f) := .inl rfl
theorem cmp (d : BitVec 6) (a : BitVec 6) (b : BitVec 6) (c : BitVec 4) : Statement (.cmp d a b c) := .inl rfl
theorem addi (d : BitVec 6) (a : BitVec 6) (i : BitVec 10) : Statement (.addi d a i) := .inl rfl
theorem andi (d : BitVec 6) (a : BitVec 6) (i : BitVec 10) : Statement (.andi d a i) := .inl rfl
theorem ori (d : BitVec 6) (a : BitVec 6) (i : BitVec 10) : Statement (.ori d a i) := .inl rfl
theorem xori (d : BitVec 6) (a : BitVec 6) (i : BitVec 10) : Statement (.xori d a i) := .inl rfl
theorem shli (d : BitVec 6) (a : BitVec 6) (i : BitVec 10) : Statement (.shli d a i) := .inl rfl
theorem shriN (d : BitVec 6) (a : BitVec 6) (i : BitVec 10) : Statement (.shriN d a i) := .inl rfl
theorem shriS (d : BitVec 6) (a : BitVec 6) (i : BitVec 10) : Statement (.shriS d a i) := .inl rfl
theorem li (d : BitVec 6) (i : BitVec 16) : Statement (.li d i) := .inl rfl
theorem bfxS (d : BitVec 6) (a : BitVec 6) (b : BitVec 6) : Statement (.bfxS d a b) := .inl rfl
theorem bfxN (d : BitVec 6) (a : BitVec 6) (b : BitVec 6) : Statement (.bfxN d a b) := .inl rfl
theorem bfi (d : BitVec 6) (a : BitVec 6) (b : BitVec 6) : Statement (.bfi d a b) := .inl rfl
theorem fshl (d : BitVec 6) (a : BitVec 6) (b : BitVec 6) : Statement (.fshl d a b) := .inl rfl
theorem fshr (d : BitVec 6) (a : BitVec 6) (b : BitVec 6) : Statement (.fshr d a b) := .inl rfl
theorem fadd (d : BitVec 6) (a : BitVec 6) (b : BitVec 6) (p : BitVec 1) : Statement (.fadd d a b p) := .inl rfl
theorem fsub (d : BitVec 6) (a : BitVec 6) (b : BitVec 6) (p : BitVec 1) : Statement (.fsub d a b p) := .inl rfl
theorem fmul (d : BitVec 6) (a : BitVec 6) (b : BitVec 6) (p : BitVec 1) : Statement (.fmul d a b p) := .inl rfl
theorem ffma (d : BitVec 6) (a : BitVec 6) (b : BitVec 6) (p : BitVec 1) : Statement (.ffma d a b p) := .inl rfl
theorem fdiv (d : BitVec 6) (a : BitVec 6) (b : BitVec 6) (p : BitVec 1) : Statement (.fdiv d a b p) := .inl rfl
theorem fsqrt (d : BitVec 6) (a : BitVec 6) (p : BitVec 1) : Statement (.fsqrt d a p) := .inl rfl
theorem fmin (d : BitVec 6) (a : BitVec 6) (b : BitVec 6) (p : BitVec 1) : Statement (.fmin d a b p) := .inl rfl
theorem fmax (d : BitVec 6) (a : BitVec 6) (b : BitVec 6) (p : BitVec 1) : Statement (.fmax d a b p) := .inl rfl
theorem fcmp (d : BitVec 6) (a : BitVec 6) (b : BitVec 6) (c : BitVec 3) (p : BitVec 1) : Statement (.fcmp d a b c p) := .inl rfl
theorem fcvt (d : BitVec 6) (a : BitVec 6) (b : BitVec 6) (f : BitVec 4) : Statement (.fcvt d a b f) := .inl rfl
theorem beq (a : BitVec 6) (b : BitVec 6) (o : BitVec 10) : Statement (.beq a b o) := .inl rfl
theorem bne (a : BitVec 6) (b : BitVec 6) (o : BitVec 10) : Statement (.bne a b o) := .inl rfl
theorem bltS (a : BitVec 6) (b : BitVec 6) (o : BitVec 10) : Statement (.bltS a b o) := .inl rfl
theorem bltN (a : BitVec 6) (b : BitVec 6) (o : BitVec 10) : Statement (.bltN a b o) := .inl rfl
theorem bgeS (a : BitVec 6) (b : BitVec 6) (o : BitVec 10) : Statement (.bgeS a b o) := .inl rfl
theorem bgeN (a : BitVec 6) (b : BitVec 6) (o : BitVec 10) : Statement (.bgeN a b o) := .inl rfl
theorem jmp (o : BitVec 22) : Statement (.jmp o) := .inl rfl
theorem jal (o : BitVec 22) : Statement (.jal o) := .inl rfl
theorem jr (d : BitVec 6) (a : BitVec 6) : Statement (.jr d a) := .inl rfl
theorem loop (a : BitVec 6) (o : BitVec 16) : Statement (.loop a o) := .inl rfl
theorem loopi (c : BitVec 10) (o : BitVec 12) : Statement (.loopi c o) := .inl rfl
theorem lbrk (l : BitVec 4) (z : BitVec 1) (a : BitVec 6) : Statement (.lbrk l z a) := .inl rfl
theorem barSync (b : BitVec 4) (m : BitVec 1) : Statement (.barSync b m) := .inl rfl
theorem barArr (b : BitVec 4) (m : BitVec 1) : Statement (.barArr b m) := .inl rfl
theorem barWait (b : BitVec 4) (m : BitVec 1) : Statement (.barWait b m) := .inl rfl
theorem barWaitt (b : BitVec 4) (m : BitVec 1) (d : BitVec 6) (a : BitVec 6) : Statement (.barWaitt b m d a) := .inl rfl
theorem barDrop (b : BitVec 4) (m : BitVec 1) : Statement (.barDrop b m) := .inl rfl
theorem evSig (e : BitVec 4) : Statement (.evSig e) := .inl rfl
theorem evWait (e : BitVec 4) (t : BitVec 8) : Statement (.evWait e t) := .inl rfl
theorem evWaitt (e : BitVec 4) (d : BitVec 6) (a : BitVec 6) : Statement (.evWaitt e d a) := .inl rfl
theorem csrr (d : BitVec 6) (c : BitVec 12) : Statement (.csrr d c) := .inl rfl
theorem csrw (a : BitVec 6) (c : BitVec 12) : Statement (.csrw a c) := .inl rfl
theorem mbrd (d : BitVec 6) (c : BitVec 1) (n : BitVec 3) : Statement (.mbrd d c n) := .inl rfl
theorem mbwr (a : BitVec 6) (n : BitVec 3) : Statement (.mbwr a n) := .inl rfl
theorem time (d : BitVec 6) : Statement (.time d) := .inl rfl
theorem timeCyc (d : BitVec 6) : Statement (.timeCyc d) := .inl rfl
theorem yield : Statement (.yield) := .inl rfl
theorem yieldPause : Statement (.yieldPause) := .inl rfl
theorem trap (a : BitVec 6) (i : BitVec 16) : Statement (.trap a i) := .inl rfl
theorem cswitch (d : BitVec 6) (a : BitVec 6) : Statement (.cswitch d a) := .inl rfl
theorem park (w : BitVec 4) (m : BitVec 1) (e : BitVec 1) (t : BitVec 1) (l : BitVec 1) (r : BitVec 1) (a : BitVec 6) (b : BitVec 6) : Statement (.park w m e t l r a b) := .inl rfl
theorem parkEnd : Statement (.parkEnd) := .inl rfl
theorem wakehint (a : BitVec 6) (b : BitVec 6) : Statement (.wakehint a b) := .inl rfl
theorem ctxqSt (d : BitVec 6) (a : BitVec 6) : Statement (.ctxqSt d a) := .inl rfl
theorem ctxqWake (d : BitVec 6) (a : BitVec 6) : Statement (.ctxqWake d a) := .inl rfl
theorem ctxqTiers (d : BitVec 6) (a : BitVec 6) : Statement (.ctxqTiers d a) := .inl rfl
theorem ctxnew (d : BitVec 6) (a : BitVec 6) : Statement (.ctxnew d a) := .inl rfl
theorem ctxfree (d : BitVec 6) (a : BitVec 6) : Statement (.ctxfree d a) := .inl rfl
theorem ctxsetPrio (d : BitVec 6) (a : BitVec 6) (b : BitVec 6) : Statement (.ctxsetPrio d a b) := .inl rfl
theorem ctxsetBind (d : BitVec 6) (a : BitVec 6) (b : BitVec 6) : Statement (.ctxsetBind d a b) := .inl rfl
theorem rtt : Statement (.rtt) := .inl rfl
theorem rttNext : Statement (.rttNext) := .inl rfl
theorem halt (a : BitVec 6) : Statement (.halt a) := .inl rfl
theorem kill (d : BitVec 6) (a : BitVec 6) : Statement (.kill d a) := .inl rfl
theorem hingePin (d : BitVec 6) (a : BitVec 6) (b : BitVec 6) : Statement (.hingePin d a b) := .inl rfl
theorem hingeUnpin (d : BitVec 6) (a : BitVec 6) : Statement (.hingeUnpin d a) := .inl rfl
theorem hingeQ (d : BitVec 6) (a : BitVec 6) : Statement (.hingeQ d a) := .inl rfl
theorem hingeMove (d : BitVec 6) (a : BitVec 6) (b : BitVec 6) : Statement (.hingeMove d a b) := .inl rfl
theorem tlbinvPart (a : BitVec 6) : Statement (.tlbinvPart a) := .inl rfl
theorem tlbinvS2 (a : BitVec 6) : Statement (.tlbinvS2 a) := .inl rfl
theorem tlbinvFab (a : BitVec 6) : Statement (.tlbinvFab a) := .inl rfl
theorem tlbinvAll : Statement (.tlbinvAll) := .inl rfl
theorem tlbinvHost (a : BitVec 6) : Statement (.tlbinvHost a) := .inl rfl
theorem hangRd (d : BitVec 6) (a : BitVec 6) (b : BitVec 6) : Statement (.hangRd d a b) := .inl rfl
theorem ldBS (c : BitVec 4) (d : BitVec 6) (a : BitVec 6) (i : BitVec 6) : Statement (.ldBS c d a i) := .inl rfl
theorem ldBN (c : BitVec 4) (d : BitVec 6) (a : BitVec 6) (i : BitVec 6) : Statement (.ldBN c d a i) := .inl rfl
theorem ldHS (c : BitVec 4) (d : BitVec 6) (a : BitVec 6) (i : BitVec 6) : Statement (.ldHS c d a i) := .inl rfl
theorem ldHN (c : BitVec 4) (d : BitVec 6) (a : BitVec 6) (i : BitVec 6) : Statement (.ldHN c d a i) := .inl rfl
theorem ldWS (c : BitVec 4) (d : BitVec 6) (a : BitVec 6) (i : BitVec 6) : Statement (.ldWS c d a i) := .inl rfl
theorem ldWN (c : BitVec 4) (d : BitVec 6) (a : BitVec 6) (i : BitVec 6) : Statement (.ldWN c d a i) := .inl rfl
theorem ldD (c : BitVec 4) (d : BitVec 6) (a : BitVec 6) (i : BitVec 6) : Statement (.ldD c d a i) := .inl rfl
theorem stB (c : BitVec 4) (d : BitVec 6) (a : BitVec 6) (i : BitVec 6) : Statement (.stB c d a i) := .inl rfl
theorem stH (c : BitVec 4) (d : BitVec 6) (a : BitVec 6) (i : BitVec 6) : Statement (.stH c d a i) := .inl rfl
theorem stW (c : BitVec 4) (d : BitVec 6) (a : BitVec 6) (i : BitVec 6) : Statement (.stW c d a i) := .inl rfl
theorem stD (c : BitVec 4) (d : BitVec 6) (a : BitVec 6) (i : BitVec 6) : Statement (.stD c d a i) := .inl rfl
theorem ldV (c : BitVec 4) (d : BitVec 6) (a : BitVec 6) (i : BitVec 6) : Statement (.ldV c d a i) := .inl rfl
theorem stV (c : BitVec 4) (d : BitVec 6) (a : BitVec 6) (i : BitVec 6) : Statement (.stV c d a i) := .inl rfl
theorem ldVs (c : BitVec 4) (d : BitVec 6) (a : BitVec 6) (b : BitVec 6) : Statement (.ldVs c d a b) := .inl rfl
theorem stVs (c : BitVec 4) (d : BitVec 6) (a : BitVec 6) (b : BitVec 6) : Statement (.stVs c d a b) := .inl rfl
theorem ldM (c : BitVec 4) (d : BitVec 4) (a : BitVec 6) (i : BitVec 6) : Statement (.ldM c d a i) := .inl rfl
theorem stM (c : BitVec 4) (d : BitVec 4) (a : BitVec 6) (i : BitVec 6) : Statement (.stM c d a i) := .inl rfl
theorem sfetch (c : BitVec 4) (d : BitVec 6) (a : BitVec 4) (b : BitVec 6) : Statement (.sfetch c d a b) := .inl rfl
theorem gathB (c : BitVec 4) (d : BitVec 6) (a : BitVec 6) (b : BitVec 6) : Statement (.gathB c d a b) := .inl rfl
theorem gathH (c : BitVec 4) (d : BitVec 6) (a : BitVec 6) (b : BitVec 6) : Statement (.gathH c d a b) := .inl rfl
theorem gathW (c : BitVec 4) (d : BitVec 6) (a : BitVec 6) (b : BitVec 6) : Statement (.gathW c d a b) := .inl rfl
theorem scatB (c : BitVec 4) (d : BitVec 6) (a : BitVec 6) (b : BitVec 6) : Statement (.scatB c d a b) := .inl rfl
theorem scatH (c : BitVec 4) (d : BitVec 6) (a : BitVec 6) (b : BitVec 6) : Statement (.scatH c d a b) := .inl rfl
theorem scatW (c : BitVec 4) (d : BitVec 6) (a : BitVec 6) (b : BitVec 6) : Statement (.scatW c d a b) := .inl rfl
theorem gathb (c : BitVec 4) (d : BitVec 6) (t : BitVec 1) (a : BitVec 4) (b : BitVec 6) : Statement (.gathb c d t a b) := .inl rfl
theorem pref (l : BitVec 1) (a : BitVec 6) (i : BitVec 6) : Statement (.pref l a i) := .inl rfl
theorem dld (c : BitVec 4) (d : BitVec 4) (a : BitVec 6) (i : BitVec 6) : Statement (.dld c d a i) := .inl rfl
theorem dst (c : BitVec 4) (d : BitVec 4) (a : BitVec 6) (i : BitVec 6) : Statement (.dst c d a i) := .inl rfl
theorem dset (d : BitVec 4) (a : BitVec 6) (k : BitVec 3) : Statement (.dset d a k) := .inl rfl
theorem rwaitf (c : BitVec 4) (d : BitVec 6) (a : BitVec 6) (b : BitVec 6) : Statement (.rwaitf c d a b) := .inl rfl
theorem rwaite (c : BitVec 4) (a : BitVec 6) (b : BitVec 6) : Statement (.rwaite c a b) := .inl rfl
theorem rpub (c : BitVec 4) (a : BitVec 6) (b : BitVec 6) : Statement (.rpub c a b) := .inl rfl
theorem rrel (c : BitVec 4) (a : BitVec 6) (b : BitVec 6) : Statement (.rrel c a b) := .inl rfl
theorem rclaimP (c : BitVec 4) (d : BitVec 6) (a : BitVec 6) : Statement (.rclaimP c d a) := .inl rfl
theorem rclaimC (c : BitVec 4) (d : BitVec 6) (a : BitVec 6) : Statement (.rclaimC c d a) := .inl rfl
theorem wmap (c : BitVec 4) (d : BitVec 4) (a : BitVec 6) (b : BitVec 6) : Statement (.wmap c d a b) := .inl rfl
theorem wmapOff (c : BitVec 4) (a : BitVec 6) : Statement (.wmapOff c a) := .inl rfl
theorem wadv (c : BitVec 4) (a : BitVec 6) (b : BitVec 6) : Statement (.wadv c a b) := .inl rfl
theorem amoW (p : BitVec 4) (d : BitVec 6) (a : BitVec 6) (b : BitVec 6) : Statement (.amoW p d a b) := .inl rfl
theorem amoD (p : BitVec 4) (d : BitVec 6) (a : BitVec 6) (b : BitVec 6) : Statement (.amoD p d a b) := .inl rfl
theorem amoF (p : BitVec 4) (d : BitVec 6) (a : BitVec 6) (b : BitVec 6) : Statement (.amoF p d a b) := .inl rfl
theorem casW (t : BitVec 1) (d : BitVec 6) (a : BitVec 6) (b : BitVec 6) : Statement (.casW t d a b) := .inl rfl
theorem casD (t : BitVec 1) (d : BitVec 6) (a : BitVec 6) (b : BitVec 6) : Statement (.casD t d a b) := .inl rfl
theorem casQ (t : BitVec 1) (d : BitVec 6) (a : BitVec 6) (b : BitVec 6) : Statement (.casQ t d a b) := .inl rfl
theorem fenceCls (c : BitVec 4) (k : BitVec 4) : Statement (.fenceCls c k) := .inl rfl
theorem fence : Statement (.fence) := .inl rfl
theorem fenceView : Statement (.fenceView) := .inl rfl
theorem fld (c : BitVec 4) (d : BitVec 6) (a : BitVec 6) (i : BitVec 6) : Statement (.fld c d a i) := .inl rfl
theorem fst (c : BitVec 4) (d : BitVec 6) (a : BitVec 6) (i : BitVec 6) : Statement (.fst c d a i) := .inl rfl
theorem famo (p : BitVec 4) (d : BitVec 6) (a : BitVec 6) (b : BitVec 6) : Statement (.famo p d a b) := .inl rfl
theorem fcas (t : BitVec 1) (d : BitVec 6) (a : BitVec 6) (b : BitVec 6) : Statement (.fcas t d a b) := .inl rfl
theorem vadd (y : BitVec 3) (d : BitVec 6) (a : BitVec 6) (b : BitVec 6) (s : BitVec 1) : Statement (.vadd y d a b s) := .inl rfl
theorem vsub (y : BitVec 3) (d : BitVec 6) (a : BitVec 6) (b : BitVec 6) (s : BitVec 1) : Statement (.vsub y d a b s) := .inl rfl
theorem vmul (y : BitVec 3) (d : BitVec 6) (a : BitVec 6) (b : BitVec 6) (s : BitVec 1) : Statement (.vmul y d a b s) := .inl rfl
theorem vmulh (y : BitVec 3) (d : BitVec 6) (a : BitVec 6) (b : BitVec 6) (s : BitVec 1) : Statement (.vmulh y d a b s) := .inl rfl
theorem vmad (y : BitVec 3) (d : BitVec 6) (a : BitVec 6) (b : BitVec 6) (s : BitVec 1) : Statement (.vmad y d a b s) := .inl rfl
theorem vabs (y : BitVec 3) (d : BitVec 6) (a : BitVec 6) (s : BitVec 1) : Statement (.vabs y d a s) := .inl rfl
theorem vneg (y : BitVec 3) (d : BitVec 6) (a : BitVec 6) (s : BitVec 1) : Statement (.vneg y d a s) := .inl rfl
theorem vmin (y : BitVec 3) (d : BitVec 6) (a : BitVec 6) (b : BitVec 6) (s : BitVec 1) : Statement (.vmin y d a b s) := .inl rfl
theorem vmax (y : BitVec 3) (d : BitVec 6) (a : BitVec 6) (b : BitVec 6) (s : BitVec 1) : Statement (.vmax y d a b s) := .inl rfl
theorem vand (y : BitVec 3) (d : BitVec 6) (a : BitVec 6) (b : BitVec 6) (s : BitVec 1) : Statement (.vand y d a b s) := .inl rfl
theorem vor (y : BitVec 3) (d : BitVec 6) (a : BitVec 6) (b : BitVec 6) (s : BitVec 1) : Statement (.vor y d a b s) := .inl rfl
theorem vxor (y : BitVec 3) (d : BitVec 6) (a : BitVec 6) (b : BitVec 6) (s : BitVec 1) : Statement (.vxor y d a b s) := .inl rfl
theorem vnot (y : BitVec 3) (d : BitVec 6) (a : BitVec 6) (s : BitVec 1) : Statement (.vnot y d a s) := .inl rfl
theorem vshl (y : BitVec 3) (d : BitVec 6) (a : BitVec 6) (b : BitVec 6) (s : BitVec 1) : Statement (.vshl y d a b s) := .inl rfl
theorem vshr (y : BitVec 3) (d : BitVec 6) (a : BitVec 6) (b : BitVec 6) (s : BitVec 1) : Statement (.vshr y d a b s) := .inl rfl
theorem vbfx (y : BitVec 3) (d : BitVec 6) (a : BitVec 6) (b : BitVec 6) (s : BitVec 1) : Statement (.vbfx y d a b s) := .inl rfl
theorem vbfi (y : BitVec 3) (d : BitVec 6) (a : BitVec 6) (b : BitVec 6) (s : BitVec 1) : Statement (.vbfi y d a b s) := .inl rfl
theorem vfshl (y : BitVec 3) (d : BitVec 6) (a : BitVec 6) (b : BitVec 6) (s : BitVec 1) : Statement (.vfshl y d a b s) := .inl rfl
theorem vfshr (y : BitVec 3) (d : BitVec 6) (a : BitVec 6) (b : BitVec 6) (s : BitVec 1) : Statement (.vfshr y d a b s) := .inl rfl
theorem vpopc (y : BitVec 3) (d : BitVec 6) (a : BitVec 6) (s : BitVec 1) : Statement (.vpopc y d a s) := .inl rfl
theorem vclz (y : BitVec 3) (d : BitVec 6) (a : BitVec 6) (s : BitVec 1) : Statement (.vclz y d a s) := .inl rfl
theorem vaddi (y : BitVec 3) (d : BitVec 6) (a : BitVec 6) (i : BitVec 6) (s : BitVec 1) : Statement (.vaddi y d a i s) := .inl rfl
theorem vshli (y : BitVec 3) (d : BitVec 6) (a : BitVec 6) (i : BitVec 6) (s : BitVec 1) : Statement (.vshli y d a i s) := .inl rfl
theorem vshri (y : BitVec 3) (d : BitVec 6) (a : BitVec 6) (i : BitVec 6) (s : BitVec 1) : Statement (.vshri y d a i s) := .inl rfl
theorem vfadd (y : BitVec 3) (d : BitVec 6) (a : BitVec 6) (b : BitVec 6) (s : BitVec 1) : Statement (.vfadd y d a b s) := .inl rfl
theorem vfsub (y : BitVec 3) (d : BitVec 6) (a : BitVec 6) (b : BitVec 6) (s : BitVec 1) : Statement (.vfsub y d a b s) := .inl rfl
theorem vfmul (y : BitVec 3) (d : BitVec 6) (a : BitVec 6) (b : BitVec 6) (s : BitVec 1) : Statement (.vfmul y d a b s) := .inl rfl
theorem vfma (y : BitVec 3) (d : BitVec 6) (a : BitVec 6) (b : BitVec 6) (s : BitVec 1) : Statement (.vfma y d a b s) := .inl rfl
theorem vfmin (y : BitVec 3) (d : BitVec 6) (a : BitVec 6) (b : BitVec 6) (s : BitVec 1) : Statement (.vfmin y d a b s) := .inl rfl
theorem vfmax (y : BitVec 3) (d : BitVec 6) (a : BitVec 6) (b : BitVec 6) (s : BitVec 1) : Statement (.vfmax y d a b s) := .inl rfl
theorem vfabs (y : BitVec 3) (d : BitVec 6) (a : BitVec 6) (s : BitVec 1) : Statement (.vfabs y d a s) := .inl rfl
theorem vfneg (y : BitVec 3) (d : BitVec 6) (a : BitVec 6) (s : BitVec 1) : Statement (.vfneg y d a s) := .inl rfl
theorem vcmpEq (y : BitVec 3) (d : BitVec 4) (a : BitVec 6) (b : BitVec 6) (s : BitVec 1) : Statement (.vcmpEq y d a b s) := .inl rfl
theorem vcmpNe (y : BitVec 3) (d : BitVec 4) (a : BitVec 6) (b : BitVec 6) (s : BitVec 1) : Statement (.vcmpNe y d a b s) := .inl rfl
theorem vcmpLt (y : BitVec 3) (d : BitVec 4) (a : BitVec 6) (b : BitVec 6) (s : BitVec 1) : Statement (.vcmpLt y d a b s) := .inl rfl
theorem vcmpGe (y : BitVec 3) (d : BitVec 4) (a : BitVec 6) (b : BitVec 6) (s : BitVec 1) : Statement (.vcmpGe y d a b s) := .inl rfl
theorem vfcmpEq (y : BitVec 3) (d : BitVec 4) (a : BitVec 6) (b : BitVec 6) (s : BitVec 1) : Statement (.vfcmpEq y d a b s) := .inl rfl
theorem vfcmpLt (y : BitVec 3) (d : BitVec 4) (a : BitVec 6) (b : BitVec 6) (s : BitVec 1) : Statement (.vfcmpLt y d a b s) := .inl rfl
theorem vfcmpLe (y : BitVec 3) (d : BitVec 4) (a : BitVec 6) (b : BitVec 6) (s : BitVec 1) : Statement (.vfcmpLe y d a b s) := .inl rfl
theorem vfcmpUn (y : BitVec 3) (d : BitVec 4) (a : BitVec 6) (b : BitVec 6) (s : BitVec 1) : Statement (.vfcmpUn y d a b s) := .inl rfl
theorem mand (d : BitVec 4) (a : BitVec 4) (b : BitVec 4) (s : BitVec 1) : Statement (.mand d a b s) := .inl rfl
theorem mor (d : BitVec 4) (a : BitVec 4) (b : BitVec 4) (s : BitVec 1) : Statement (.mor d a b s) := .inl rfl
theorem mxor (d : BitVec 4) (a : BitVec 4) (b : BitVec 4) (s : BitVec 1) : Statement (.mxor d a b s) := .inl rfl
theorem mnot (d : BitVec 4) (a : BitVec 4) (s : BitVec 1) : Statement (.mnot d a s) := .inl rfl
theorem mpopc (d : BitVec 6) (a : BitVec 4) (s : BitVec 1) : Statement (.mpopc d a s) := .inl rfl
theorem mfirst (d : BitVec 6) (a : BitVec 4) (s : BitVec 1) : Statement (.mfirst d a s) := .inl rfl
theorem msetLt (d : BitVec 4) (a : BitVec 6) (s : BitVec 1) : Statement (.msetLt d a s) := .inl rfl
theorem msetGe (d : BitVec 4) (a : BitVec 6) (s : BitVec 1) : Statement (.msetGe d a s) := .inl rfl
theorem msetQ (d : BitVec 4) (a : BitVec 6) (s : BitVec 1) : Statement (.msetQ d a s) := .inl rfl
theorem vsel (y : BitVec 3) (d : BitVec 6) (a : BitVec 6) (b : BitVec 6) (s : BitVec 1) : Statement (.vsel y d a b s) := .inl rfl
theorem vmov (y : BitVec 3) (d : BitVec 6) (a : BitVec 6) (s : BitVec 1) : Statement (.vmov y d a s) := .inl rfl
theorem vbcast (y : BitVec 3) (d : BitVec 6) (a : BitVec 6) (s : BitVec 1) : Statement (.vbcast y d a s) := .inl rfl
theorem vext (y : BitVec 3) (d : BitVec 6) (a : BitVec 6) (b : BitVec 6) (s : BitVec 1) : Statement (.vext y d a b s) := .inl rfl
theorem vins (y : BitVec 3) (d : BitVec 6) (a : BitVec 6) (b : BitVec 6) (s : BitVec 1) : Statement (.vins y d a b s) := .inl rfl
theorem vperm (y : BitVec 3) (d : BitVec 6) (a : BitVec 6) (b : BitVec 6) (s : BitVec 1) : Statement (.vperm y d a b s) := .inl rfl
theorem vshuf (y : BitVec 3) (d : BitVec 6) (a : BitVec 6) (b : BitVec 6) (s : BitVec 1) : Statement (.vshuf y d a b s) := .inl rfl
theorem vrot (y : BitVec 3) (d : BitVec 6) (a : BitVec 6) (b : BitVec 6) (s : BitVec 1) : Statement (.vrot y d a b s) := .inl rfl
theorem vredAdd (y : BitVec 3) (d : BitVec 6) (a : BitVec 6) (s : BitVec 1) : Statement (.vredAdd y d a s) := .inl rfl
theorem vredMax (y : BitVec 3) (d : BitVec 6) (a : BitVec 6) (s : BitVec 1) : Statement (.vredMax y d a s) := .inl rfl
theorem vredMin (y : BitVec 3) (d : BitVec 6) (a : BitVec 6) (s : BitVec 1) : Statement (.vredMin y d a s) := .inl rfl
theorem vfredAdd (y : BitVec 3) (d : BitVec 6) (a : BitVec 6) (s : BitVec 1) : Statement (.vfredAdd y d a s) := .inl rfl
theorem vfredMax (y : BitVec 3) (d : BitVec 6) (a : BitVec 6) (s : BitVec 1) : Statement (.vfredMax y d a s) := .inl rfl
theorem vfredMin (y : BitVec 3) (d : BitVec 6) (a : BitVec 6) (s : BitVec 1) : Statement (.vfredMin y d a s) := .inl rfl
theorem vscanAdd (y : BitVec 3) (d : BitVec 6) (a : BitVec 6) (f : BitVec 1) (s : BitVec 1) : Statement (.vscanAdd y d a f s) := .inl rfl
theorem vcvt (y : BitVec 3) (d : BitVec 6) (a : BitVec 6) (q : BitVec 1) (r : BitVec 1) (w : BitVec 1) (t : BitVec 3) (s : BitVec 1) : Statement (.vcvt y d a q r w t s) := .inl rfl
theorem vquant (y : BitVec 3) (d : BitVec 6) (a : BitVec 6) (b : BitVec 6) (s : BitVec 1) : Statement (.vquant y d a b s) := .inl rfl
theorem vdequant (y : BitVec 3) (d : BitVec 6) (a : BitVec 6) (s : BitVec 1) : Statement (.vdequant y d a s) := .inl rfl
theorem vsmxUpd (d : BitVec 6) (a : BitVec 6) (b : BitVec 6) (s : BitVec 1) : Statement (.vsmxUpd d a b s) := .inl rfl
theorem vsmxFin (d : BitVec 6) (a : BitVec 6) (b : BitVec 6) (s : BitVec 1) : Statement (.vsmxFin d a b s) := .inl rfl
theorem vrbias (d : BitVec 6) (a : BitVec 6) (b : BitVec 6) (s : BitVec 1) : Statement (.vrbias d a b s) := .inl rfl
theorem vidx (y : BitVec 3) (d : BitVec 6) (a : BitVec 6) (s : BitVec 1) : Statement (.vidx y d a s) := .inl rfl
theorem vlut (y : BitVec 3) (d : BitVec 6) (a : BitVec 6) (b : BitVec 6) (s : BitVec 1) : Statement (.vlut y d a b s) := .inl rfl
theorem mmt (c : BitVec 3) (a : BitVec 4) (b : BitVec 4) (n : BitVec 4) (p : BitVec 3) (s : BitVec 1) (r : BitVec 1) (z : BitVec 1) : Statement (.mmt c a b n p s r z) := .inl rfl
theorem mmtWb (c : BitVec 3) (a : BitVec 4) (w : BitVec 2) (n : BitVec 4) (p : BitVec 3) (s : BitVec 1) (z : BitVec 1) : Statement (.mmtWb c a w n p s z) := .inl rfl
theorem scommit (c : BitVec 3) (n : BitVec 4) : Statement (.scommit c n) := .inl rfl
theorem sdrop (c : BitVec 3) (n : BitVec 4) : Statement (.sdrop c n) := .inl rfl
theorem accz (c : BitVec 3) (n : BitVec 4) (s : BitVec 1) : Statement (.accz c n s) := .inl rfl
theorem accld (c : BitVec 3) (a : BitVec 4) (n : BitVec 4) (s : BitVec 1) : Statement (.accld c a n s) := .inl rfl
theorem accst (c : BitVec 3) (a : BitVec 4) (n : BitVec 4) (s : BitVec 1) (t : BitVec 1) : Statement (.accst c a n s t) := .inl rfl
theorem accmv (c : BitVec 3) (d : BitVec 6) (a : BitVec 6) (s : BitVec 1) (l : BitVec 1) : Statement (.accmv c d a s l) := .inl rfl
theorem wbload (w : BitVec 2) (a : BitVec 4) (n : BitVec 4) : Statement (.wbload w a n) := .inl rfl
theorem attb (c : BitVec 2) (a : BitVec 4) (b : BitVec 4) (n : BitVec 4) (f : BitVec 1) (z : BitVec 1) : Statement (.attb c a b n f z) := .inl rfl
theorem sfuExp2 (y : BitVec 3) (d : BitVec 6) (a : BitVec 6) (k : BitVec 3) : Statement (.sfuExp2 y d a k) := .inl rfl
theorem sfuLog2 (y : BitVec 3) (d : BitVec 6) (a : BitVec 6) (k : BitVec 3) : Statement (.sfuLog2 y d a k) := .inl rfl
theorem sfuRcp (y : BitVec 3) (d : BitVec 6) (a : BitVec 6) (k : BitVec 3) : Statement (.sfuRcp y d a k) := .inl rfl
theorem sfuRsqrt (y : BitVec 3) (d : BitVec 6) (a : BitVec 6) (k : BitVec 3) : Statement (.sfuRsqrt y d a k) := .inl rfl
theorem sfuSqrt (y : BitVec 3) (d : BitVec 6) (a : BitVec 6) (k : BitVec 3) : Statement (.sfuSqrt y d a k) := .inl rfl
theorem sfuSin (y : BitVec 3) (d : BitVec 6) (a : BitVec 6) (k : BitVec 3) : Statement (.sfuSin y d a k) := .inl rfl
theorem sfuCos (y : BitVec 3) (d : BitVec 6) (a : BitVec 6) (k : BitVec 3) : Statement (.sfuCos y d a k) := .inl rfl
theorem tint (y : BitVec 3) (d : BitVec 6) (a : BitVec 6) (f : BitVec 3) (k : BitVec 3) : Statement (.tint y d a f k) := .inl rfl
theorem tload (d : BitVec 6) (a : BitVec 6) (f : BitVec 3) (k : BitVec 3) : Statement (.tload d a f k) := .inl rfl
theorem topkInit (y : BitVec 3) (a : BitVec 6) (k : BitVec 3) : Statement (.topkInit y a k) := .inl rfl
theorem topkFeed (y : BitVec 3) (d : BitVec 6) (a : BitVec 6) (k : BitVec 3) : Statement (.topkFeed y d a k) := .inl rfl
theorem topkEmit (d : BitVec 6) (a : BitVec 6) (f : BitVec 3) (k : BitVec 3) : Statement (.topkEmit d a f k) := .inl rfl
theorem topkQ (d : BitVec 6) (k : BitVec 3) : Statement (.topkQ d k) := .inl rfl
theorem copy (x : BitVec 6) (y : BitVec 6) (z : BitVec 6) (e : BitVec 4) : Statement (.copy x y z e) := .inl rfl
theorem copyMmt (x : BitVec 6) (y : BitVec 6) (z : BitVec 6) (e : BitVec 4) : Statement (.copyMmt x y z e) := .inl rfl
theorem collOpen (x : BitVec 6) (e : BitVec 4) : Statement (.collOpen x e) := .inl rfl
theorem collRed (x : BitVec 6) (e : BitVec 4) : Statement (.collRed x e) := .inl rfl
theorem collBar (x : BitVec 6) (e : BitVec 4) : Statement (.collBar x e) := .inl rfl
theorem collClose (x : BitVec 6) (e : BitVec 4) : Statement (.collClose x e) := .inl rfl
theorem gready (x : BitVec 6) (y : BitVec 6) (e : BitVec 4) : Statement (.gready x y e) := .inl rfl
theorem gunready (x : BitVec 6) (y : BitVec 6) (e : BitVec 4) : Statement (.gunready x y e) := .inl rfl
theorem gsend (x : BitVec 6) (y : BitVec 6) (o : BitVec 1) (e : BitVec 4) : Statement (.gsend x y o e) := .inl rfl
theorem grecv (x : BitVec 6) (e : BitVec 4) : Statement (.grecv x e) := .inl rfl
theorem gqpush (x : BitVec 6) (y : BitVec 6) (e : BitVec 4) : Statement (.gqpush x y e) := .inl rfl
theorem gqwait (x : BitVec 6) (e : BitVec 4) : Statement (.gqwait x e) := .inl rfl
theorem launch (x : BitVec 6) (e : BitVec 4) : Statement (.launch x e) := .inl rfl
theorem mbsend (x : BitVec 6) (o : BitVec 1) (k : BitVec 3) (z : BitVec 6) (e : BitVec 4) : Statement (.mbsend x o k z e) := .inl rfl
theorem join (c : BitVec 1) (a : BitVec 1) (v : BitVec 1) (m : BitVec 1) (s : BitVec 1) (x : BitVec 1) : Statement (.join c a v m s x) := .inl rfl
theorem extImm (i : BitVec 26) : Statement (.extImm i) := .inl rfl
theorem extOrd (s : BitVec 3) (o : BitVec 2) (c : BitVec 4) : Statement (.extOrd s o c) := .inl rfl
theorem extTok (w : BitVec 1) (e : BitVec 4) (t : BitVec 8) (g : BitVec 1) (f : BitVec 4) : Statement (.extTok w e t g f) := .inl rfl
theorem extStall (c : BitVec 4) : Statement (.extStall c) := .inl rfl
theorem extMask (z : BitVec 1) (m : BitVec 4) : Statement (.extMask z m) := .inl rfl
theorem extInd (b : BitVec 6) (x : BitVec 1) (y : BitVec 1) (z : BitVec 1) : Statement (.extInd b x y z) := .inl rfl
theorem fetchWord : Statement (.fetchWord) := .inr rfl
theorem joinRelease : Statement (.joinRelease) := .inr rfl
theorem trapEntry (cause : BitVec 8) (eng : BitVec 3) (tval : BitVec 64) : Statement (.trapEntry cause eng tval) := .inr rfl
theorem hangTimeout : Statement (.hangTimeout) := .inr rfl
theorem loadDataReturn (seq : Nat) : Statement (.loadDataReturn seq) := .inr rfl
theorem storePerformed (seq : Nat) : Statement (.storePerformed seq) := .inr rfl
theorem atomicPerformed (seq : Nat) : Statement (.atomicPerformed seq) := .inr rfl
theorem atomicopCompletion (seq : Nat) (old : BitVec 128) : Statement (.atomicopCompletion seq old) := .inr rfl
theorem holdQueueNackRetry (seq : Nat) : Statement (.holdQueueNackRetry seq) := .inr rfl
theorem camStep : Statement (.camStep) := .inr rfl
theorem arrayWindowSwitch (arr : BitVec 8) : Statement (.arrayWindowSwitch arr) := .inr rfl
theorem relocationTake (arr : BitVec 8) : Statement (.relocationTake arr) := .inr rfl
theorem xferAccept : Statement (.xferAccept) := .inr rfl
theorem copyEngineStep (op : Nat) : Statement (.copyEngineStep op) := .inr rfl
theorem followOnIssue (op : Nat) : Statement (.followOnIssue op) := .inr rfl
theorem windowFill (win : Nat) : Statement (.windowFill win) := .inr rfl
theorem waitDeadline : Statement (.waitDeadline) := .inr rfl
theorem yieldPauseExpiry : Statement (.yieldPauseExpiry) := .inr rfl
theorem teamEnd (team : Nat) : Statement (.teamEnd team) := .inr rfl
theorem wakeRequest (ctx : BitVec 16) (src : BitVec 3) : Statement (.wakeRequest ctx src) := .inr rfl
theorem parkTimerExpiry (ctx : BitVec 16) : Statement (.parkTimerExpiry ctx) := .inr rfl
theorem faultWake (team : Nat) (key : Nat) : Statement (.faultWake team key) := .inr rfl
theorem quantumExpiry (team : Nat) : Statement (.quantumExpiry team) := .inr rfl
theorem teamTakeOff (team : Nat) : Statement (.teamTakeOff team) := .inr rfl
theorem teamPlace (die : BitVec 2) : Statement (.teamPlace die) := .inr rfl
theorem launchRecordAccept (record : BitVec 512) (host : Bool) (part : BitVec 6) : Statement (.launchRecordAccept record host part) := .inr rfl
theorem demotionThreshold (ctx : BitVec 16) : Statement (.demotionThreshold ctx) := .inr rfl
theorem recallStart (ctx : BitVec 16) : Statement (.recallStart ctx) := .inr rfl
theorem busyCountZero (obj : BitVec 48) : Statement (.busyCountZero obj) := .inr rfl
theorem pageCopyComplete (obj : BitVec 48) : Statement (.pageCopyComplete obj) := .inr rfl
theorem directoryRebind (obj : BitVec 48) : Statement (.directoryRebind obj) := .inr rfl
theorem dirinvArrival (die : BitVec 2) (obj : BitVec 48) (ver : BitVec 32) : Statement (.dirinvArrival die obj ver) := .inr rfl
theorem backgroundLinePull (obj : BitVec 48) : Statement (.backgroundLinePull obj) := .inr rfl
theorem rowPrecharge (row : Nat) (parityOk : Bool) : Statement (.rowPrecharge row parityOk) := .inr rfl
theorem refreshWindow (row : Nat) : Statement (.refreshWindow row) := .inr rfl
theorem channelRateChange (ch : BitVec 8) (rate : BitVec 2) : Statement (.channelRateChange ch rate) := .inr rfl
theorem rateChangeComplete (ch : BitVec 8) : Statement (.rateChangeComplete ch) := .inr rfl
theorem priResponse (key : Nat) (code : BitVec 2) : Statement (.priResponse key code) := .inr rfl
theorem hostTableSnoop (line : BitVec 64) (data : List (BitVec 8)) : Statement (.hostTableSnoop line data) := .inr rfl
theorem walkerLineEviction (die : BitVec 2) (line : BitVec 64) : Statement (.walkerLineEviction die line) := .inr rfl
theorem atsInvalidation (page : AtsPage) : Statement (.atsInvalidation page) := .inr rfl
theorem hostSnoop (line : BitVec 64) (data : List (BitVec 8)) : Statement (.hostSnoop line data) := .inr rfl
theorem backInvalidateResponse (line : BitVec 64) (data : List (BitVec 8)) : Statement (.backInvalidateResponse line data) := .inr rfl
theorem hostCxlMemAccess (write : Bool) (addr : BitVec 64) (size : Nat) (data : List (BitVec 8)) : Statement (.hostCxlMemAccess write addr size data) := .inr rfl
theorem poolTransferCompletion (obj : BitVec 48) (ok : Bool) : Statement (.poolTransferCompletion obj ok) := .inr rfl
theorem registerWrite (off : BitVec 32) (val : BitVec 64) : Statement (.registerWrite off val) := .inr rfl
theorem partitionRegisterWrite (part : BitVec 6) (off : BitVec 17) (val : BitVec 64) : Statement (.partitionRegisterWrite part off val) := .inr rfl
theorem lqbaseWrite (part : BitVec 6) (val : BitVec 64) : Statement (.lqbaseWrite part val) := .inr rfl
theorem doorbell (part : BitVec 6) (val : BitVec 32) : Statement (.doorbell part val) := .inr rfl
theorem setShared (part : BitVec 6) (obj : BitVec 48) : Statement (.setShared part obj) := .inr rfl
theorem clearShared (part : BitVec 6) (obj : BitVec 48) : Statement (.clearShared part obj) := .inr rfl
theorem invalidateHostTranslations (part : BitVec 6) (root : BitVec 48) : Statement (.invalidateHostTranslations part root) := .inr rfl
theorem poolRegisterWrite (off : BitVec 32) (val : BitVec 64) : Statement (.poolRegisterWrite off val) := .inr rfl
theorem groupCreate (part : BitVec 6) (plim : BitVec 16) (index : BitVec 14) : Statement (.groupCreate part plim index) := .inr rfl
theorem groupDestroy (index : BitVec 14) : Statement (.groupDestroy index) := .inr rfl
theorem clearPartition (part : BitVec 6) : Statement (.clearPartition part) := .inr rfl
theorem fabpartWrite (part : BitVec 6) (val : BitVec 64) : Statement (.fabpartWrite part val) := .inr rfl
theorem fabidWrite (val : BitVec 64) : Statement (.fabidWrite val) := .inr rfl
theorem dommapWrite (dev : BitVec 10) (val : BitVec 64) : Statement (.dommapWrite dev val) := .inr rfl
theorem attest : Statement (.attest) := .inr rfl
theorem reset : Statement (.reset) := .inr rfl
theorem readlog : Statement (.readlog) := .inr rfl
theorem mcmdRefused : Statement (.mcmdRefused) := .inr rfl
theorem gctlWrite (val : BitVec 64) : Statement (.gctlWrite val) := .inr rfl
theorem gqRegisterWrite (q : BitVec 8) (reg : BitVec 5) (val : BitVec 64) : Statement (.gqRegisterWrite q reg val) := .inr rfl
theorem gqctlStopWrite (q : BitVec 8) (stop : Bool) : Statement (.gqctlStopWrite q stop) := .inr rfl
theorem fabricRequestArrival (p : Packet) : Statement (.fabricRequestArrival p) := .inr rfl
theorem respArrival (p : Packet) : Statement (.respArrival p) := .inr rfl
theorem ctxopArrival (op : BitVec 3) (handle : BitVec 32) (val : BitVec 64) : Statement (.ctxopArrival op handle val) := .inr rfl
theorem mboxArrival (p : Packet) : Statement (.mboxArrival p) := .inr rfl
theorem fabricNackResend (xid : Nat) : Statement (.fabricNackResend xid) := .inr rfl
theorem deadlockRecoveryTimer (xid : Nat) : Statement (.deadlockRecoveryTimer xid) := .inr rfl
theorem gadvAtSwitch (p : Packet) (port : BitVec 8) : Statement (.gadvAtSwitch p port) := .inr rfl
theorem gadvAtHome (p : Packet) : Statement (.gadvAtHome p) := .inr rfl
theorem gregArrival (p : Packet) : Statement (.gregArrival p) := .inr rfl
theorem gsendAtSwitch (p : Packet) (port : BitVec 8) : Statement (.gsendAtSwitch p port) := .inr rfl
theorem gsendAtDevice (p : Packet) : Statement (.gsendAtDevice p) := .inr rfl
theorem gsendAtHome (p : Packet) : Statement (.gsendAtHome p) := .inr rfl
theorem grefuseAtSwitch (p : Packet) (port : BitVec 8) : Statement (.grefuseAtSwitch p port) := .inr rfl
theorem grefuseAtSender (p : Packet) : Statement (.grefuseAtSender p) := .inr rfl
theorem targetedRefusalAtHome (p : Packet) : Statement (.targetedRefusalAtHome p) := .inr rfl
theorem gacceptArrival (p : Packet) : Statement (.gacceptArrival p) := .inr rfl
theorem gconsArrival (p : Packet) : Statement (.gconsArrival p) := .inr rfl
theorem gwdrawArrival (p : Packet) : Statement (.gwdrawArrival p) := .inr rfl
theorem parkingNackRetry (xid : Nat) : Statement (.parkingNackRetry xid) := .inr rfl
theorem readinessCacheRefresh (group : BitVec 24) (entries : List (Nat × Nat)) : Statement (.readinessCacheRefresh group entries) := .inr rfl
theorem cctlOpenArrival (p : Packet) : Statement (.cctlOpenArrival p) := .inr rfl
theorem credArrival (p : Packet) : Statement (.credArrival p) := .inr rfl
theorem slotTimeout (slot : Nat) : Statement (.slotTimeout slot) := .inr rfl
theorem cresArrival (p : Packet) : Statement (.cresArrival p) := .inr rfl
theorem collLostContact (op : Nat) : Statement (.collLostContact op) := .inr rfl
theorem cctlCloseArrival (p : Packet) : Statement (.cctlCloseArrival p) := .inr rfl
theorem powerOnReset (pufOk : Bool) (fwOk : Bool) (trainOk : Bool) (cfg : List (BitVec 8)) : Statement (.powerOnReset pufOk fwOk trainOk cfg) := .inr rfl
theorem powerLimit (level : BitVec 4) : Statement (.powerLimit level) := .inr rfl
theorem criticalTemperature : Statement (.criticalTemperature) := .inr rfl
theorem guestLinksTrained : Statement (.guestLinksTrained) := .inr rfl
theorem mrec (record : List (BitVec 8)) : Statement (.mrec record) := .inr rfl
theorem mrecTimeout : Statement (.mrecTimeout) := .inr rfl
theorem queuePacketWrite (op : Nat) : Statement (.queuePacketWrite op) := .inr rfl
theorem qconsume (q : BitVec 16) (head : BitVec 32) : Statement (.qconsume q head) := .inr rfl
theorem preack (q : BitVec 16) : Statement (.preack q) := .inr rfl
theorem xlreq (tag : BitVec 16) (q : BitVec 16) (seq : BitVec 32) (va : BitVec 64) (kind : BitVec 8) : Statement (.xlreq tag q seq va kind) := .inr rfl
theorem ginvack (grant : BitVec 16) : Statement (.ginvack grant) := .inr rfl
theorem ginvDeadline (grant : BitVec 16) : Statement (.ginvDeadline grant) := .inr rfl
theorem fault (tag : BitVec 16) : Statement (.fault tag) := .inr rfl
theorem faultReportDeadline (tag : BitVec 16) : Statement (.faultReportDeadline tag) := .inr rfl
theorem preemptDeadline (q : BitVec 16) : Statement (.preemptDeadline q) := .inr rfl
theorem guestMemoryRequest (g : GuestReq) : Statement (.guestMemoryRequest g) := .inr rfl
theorem guestLinkLoss : Statement (.guestLinkLoss) := .inr rfl
theorem guestResetComplete : Statement (.guestResetComplete) := .inr rfl
theorem hostPortDown (port : BitVec 1) (up : Bool) : Statement (.hostPortDown port up) := .inr rfl
theorem ualinkPortDown (port : BitVec 6) (up : Bool) : Statement (.ualinkPortDown port up) := .inr rfl
theorem hostMailboxWrite (handle : BitVec 32) (mb : BitVec 3) (val : BitVec 64) : Statement (.hostMailboxWrite handle mb val) := .inr rfl
theorem guestMessageUnlistedType : Statement (.guestMessageUnlistedType) := .inr rfl

end Sys2Proof.Laws.Fields
end

