-- ==== Sys2Proof/Laws/Vector.lean ====
section
/-! SUPPORT. Vector registers as elements, and the common effect of the VEC and SFU words (R54, R94, R181). -/

namespace Sys2Proof.Machine

/-! Elements (R54). -/

theorem packNat_lt (w : Nat) (l : List Nat) : packNat w l < 2 ^ (w * l.length) := by
  induction l with
  | nil => simp [packNat]
  | cons x l ih =>
    rw [packNat, List.length_cons, Nat.mul_add, Nat.mul_one, Nat.pow_add]
    have hx : x % 2 ^ w < 2 ^ w := Nat.mod_lt _ (by positivity)
    nlinarith [Nat.mul_le_mul_left (2 ^ w) (Nat.succ_le_of_lt ih)]

theorem packNat_div (w : Nat) (l : List Nat) (j : Nat) : packNat w l / 2 ^ (w * j) % 2 ^ w = (l[j]?).getD 0 % 2 ^ w := by
  induction l generalizing j with
  | nil => simp [packNat]
  | cons x l ih =>
    cases j with
    | zero => simp [packNat]
    | succ j =>
      have h : w * (j + 1) = w + w * j := by ring
      rw [packNat, h, Nat.pow_add, ← Nat.div_div_eq_div_mul, Nat.add_mul_div_left _ _ (by positivity),
        Nat.div_eq_of_lt (Nat.mod_lt _ (by positivity)), Nat.zero_add, ih]
      simp

/-- Element `j` of a packed register is the `j`-th of the list. -/
theorem elemAt_packVec {w : Nat} {l : List Nat} (h : w * l.length ≤ 4096) (j : Nat) :
    elemAt (packVec w l) w j = (l[j]?).getD 0 % 2 ^ w := by
  have hp : packNat w l < 2 ^ 4096 := lt_of_lt_of_le (packNat_lt w l) (Nat.pow_le_pow_right (by norm_num) h)
  rw [elemAt, packVec, BitVec.toNat_ofNat, Nat.mod_eq_of_lt hp, packNat_div]

theorem packVec_lt {w : Nat} {l : List Nat} (h : w * l.length ≤ 4096) : (packVec w l).toNat < 2 ^ (w * l.length) := by
  have hp : packNat w l < 2 ^ 4096 := lt_of_lt_of_le (packNat_lt w l) (Nat.pow_le_pow_right (by norm_num) h)
  rw [packVec, BitVec.toNat_ofNat, Nat.mod_eq_of_lt hp]
  exact packNat_lt w l

theorem packNat_bits (l : List Nat) (j : Nat) : (packNat 1 l).testBit j = ((l[j]?).getD 0 % 2 == 1) := by
  have h := packNat_div 1 l j
  rw [Nat.one_mul, pow_one] at h
  rw [Nat.testBit_eq_decide_div_mod_eq, h]
  rfl

/-! Writes that become complete (R43, R64): of the strand only the list of pending writes, the event counters and FLAGS change. -/

theorem signal_e (t : Strand) (g : Option (BitVec 4)) : ∃ e, t.signal g = { t with e := e } := by
  cases g with
  | none => exact ⟨t.e, rfl⟩
  | some n => exact ⟨_, rfl⟩

theorem foldl_complete (l : List PendWrite) (t : Strand) : ∃ e fl, l.foldl Strand.complete t = { t with e := e, flags := fl } := by
  induction l generalizing t with
  | nil => exact ⟨t.e, t.flags, rfl⟩
  | cons p l ih =>
    obtain ⟨e, he⟩ := signal_e { t with flags := t.flags ||| p.flags } p.sig
    obtain ⟨e', fl, he'⟩ := ih (t.complete p)
    exact ⟨e', fl, by rw [List.foldl_cons, he', Strand.complete, he]⟩

theorem settlePend_eq (sfu : Bool) (c : Nat) (t : Strand) : ∃ e fl, t.settlePend sfu c = (if sfu then
    { t with spend := t.spend.filter (fun p => c < p.ready), e := e, flags := fl }
    else { t with pend := t.pend.filter (fun p => c < p.ready), e := e, flags := fl }) := by
  cases sfu
  all_goals
    obtain ⟨e, fl, he⟩ := foldl_complete _ _
    exact ⟨e, fl, he⟩

/-- The pending writes of a word carry its signal and its flags. -/
theorem newWrites_signalled (s : State) (t : Strand) (c lat : Nat) (regs masks : List Nat) (fl : Flags) :
    s.signalled (newWrites t c lat regs masks s.cs.unit.sig fl) fl := by
  intro h
  simp only [newWrites] at h ⊢
  generalize (masks.map (fun m => (true, m, (t.mr m).setWidth 4096)) ++ regs.map (fun r => (false, r, t.vr r))) = l at h ⊢
  have key : ∀ (l : List (Bool × Nat × Vec)) (k : Nat), l ≠ [] →
      (let p := (l.zipIdx k).map (fun x => (⟨x.1.1, x.1.2.1, x.1.2.2, c + lat, if x.2 + 1 = k + l.length then s.cs.unit.sig else none,
        if x.2 + 1 = k + l.length then fl else 0⟩ : PendWrite))
       p.filterMap (·.sig) = s.cs.unit.sig.toList ∧ p.foldl (fun b x => b ||| x.flags) 0 = fl) := by
    intro l
    induction l with
    | nil => intro _ h; exact absurd rfl h
    | cons x l ih =>
      intro k _
      rcases l with _ | ⟨y, l⟩
      · cases hs : s.cs.unit.sig <;> simp
      · have e : k + (x :: y :: l).length = k + 1 + (y :: l).length := by simp only [List.length_cons]; omega
        have n : ¬ (k + 1 = k + 1 + (y :: l).length) := by simp
        dsimp only
        rw [e, List.zipIdx_cons, List.map_cons, List.filterMap_cons_none (by simp only [n, if_false]), List.foldl_cons]
        simp only [n, if_false]
        exact ih (k + 1) (by simp)
  have hl : l ≠ [] := by rintro rfl; exact h rfl
  simpa using key l 0 hl

/-- What a word of both engines does where no early read is in the way, with `body` on the strand at cycle `k`. -/
def engineDid (s : State) (sfu : Bool) (k c : Nat) (p : List PendWrite) (body : Strand → Strand → Strand) : State :=
  let b := s.begun.cs.settlePend sfu k
  s.begun.nextFree.2.onCs (fun _ =>
    let t := body b { b with flags := 0 }
    let t := { t with flags := if p.isEmpty then b.flags ||| t.flags else b.flags }
    if sfu then { t with sclk := c, spend := b.spend ++ p } else { t with vclk := c, pend := b.pend ++ p })

/-- The flags that the body raises. -/
def engineFlags (s : State) (sfu : Bool) (k : Nat) (body : Strand → Strand → Strand) : Flags :=
  let b := s.begun.cs.settlePend sfu k
  (body b { b with flags := 0 }).flags

/-- The effect of the words of both engines, where no early read is in the way. -/
theorem enginesAct_eq {i : Instr} {s : State} {sfu : Bool} (hs : Settled i sfu s) (lat stall : Nat) (mw : List Nat)
    (body : Strand → Strand → Strand) :
    ∃ (k c : Nat) (p : List PendWrite), s.signalled p (engineFlags s sfu k body) ∧
      enginesAct (rolesOf i) (maskReads i s.cs.unit) mw sfu lat stall body s.begun =
        (if p.isEmpty then .ok (engineDid s sfu k c p body) else .okNoSig (engineDid s sfu k c p body)) := by
  have early : ∀ (l : List PendWrite) (c : Nat) (a b : List Nat), earlyReads l 0 a b = [] → earlyReads l c a b = [] := by
    intro l c a b hl
    simp only [earlyReads, List.filter_eq_nil_iff] at hl ⊢
    intro p hp hq
    exact hl p hp (by simp only [Bool.and_eq_true, decide_eq_true_eq] at hq ⊢; exact ⟨by omega, hq.2⟩)
  have hsc : s.begun.cs.scbm = s.cs.scbm := rfl
  unfold enginesAct
  rcases hs with hs | hs
  · have n1 : ¬ ((2 : BitVec 2) = 1) := by decide
    have n0 : ¬ ((2 : BitVec 2) = 0) := by decide
    simp only [State.nextFree, hsc, hs, if_true, n0, n1, decide_false, Bool.false_and, Bool.false_eq_true, if_false]
    exact ⟨_, _, _, newWrites_signalled s _ _ _ _ _ _, rfl⟩
  · have he : ∀ c, earlyReads (if sfu then s.begun.cs.spend else s.begun.cs.pend) c
        ((rolesOf i).regs s.begun.cs s.begun.cs.unit (·.src)) (maskReads i s.cs.unit) = [] := fun c => early _ c _ _ hs
    simp only [State.nextFree, he, List.isEmpty_nil, Bool.not_true, Bool.and_false, Bool.false_eq_true, if_false, beforeWrites,
      List.foldl_nil, ite_self]
    exact ⟨_, _, _, newWrites_signalled s _ _ _ _ _ _, rfl⟩

/-- The common effect of the words of both engines, where no early read is in the way. -/
theorem enginesWord_eq {i : Instr} {s : State} {r : Roles} {fate : Option Cause} {mr mw : List Nat} {sfu : Bool} (hr : r = rolesOf i)
    (hf : fate = fateOf s i) (hm : mr = maskReads i s.cs.unit) (h : Issues i s) (hs : Settled i sfu s) (lat stall : Nat)
    (body : Strand → Strand → Strand) :
    ∃ (k c : Nat) (p : List PendWrite), s.signalled p (engineFlags s sfu k body) ∧ enginesWord r fate mr mw sfu lat stall body s =
      .next (if p.isEmpty then s.completes (engineDid s sfu k c p body) else engineDid s sfu k c p body) := by
  subst hr hf hm
  obtain ⟨h1, h2, h3, h4⟩ := h
  obtain ⟨k, c, p, hp, he⟩ := enginesAct_eq (i := i) hs lat stall mw body
  refine ⟨k, c, p, hp, ?_⟩
  simp only [enginesWord, issueWith, h1, h2, h3, queuesHold_none, Bool.not_true, Bool.or_self, Bool.false_eq_true, if_false]
  rw [show s.onCs (fun t => t.setHeld false) = s.begun from rfl, undamaged_of_sound (s := s.begun) h4, he]
  cases p <;> rfl

theorem vecWord_eq {i : Instr} {s : State} (h : Issues i s) (hs : Settled i false s) (sbit : BitVec 1) (body : Strand → Strand → Strand) :
    ∃ (k c : Nat) (p : List PendWrite), s.signalled p (engineFlags s false k body) ∧ vecWord i sbit body s =
      .next (if p.isEmpty then s.completes (engineDid s false k c p body) else engineDid s false k c p body) :=
  enginesWord_eq rfl rfl rfl h hs _ _ body

/-! Taking sources changes the queues alone. -/

theorem takeSources_keeps (u : EUnit) (fs : List (Nat × BitVec 6)) (t : Strand) :
    (takeSources u fs t).2.unit = t.unit ∧ (takeSources u fs t).2.v = t.v ∧ (takeSources u fs t).2.m = t.m ∧
    (takeSources u fs t).2.s = t.s ∧ (takeSources u fs t).2.flags = t.flags := by
  induction fs generalizing t with
  | nil => exact ⟨rfl, rfl, rfl, rfl, rfl⟩
  | cons f fs ih =>
    obtain ⟨k, x⟩ := f
    simp only [takeSources]
    split
    · exact ih t
    · next q _ =>
        have hp : (t.popq q).2.unit = t.unit ∧ (t.popq q).2.v = t.v ∧ (t.popq q).2.m = t.m ∧ (t.popq q).2.s = t.s ∧
            (t.popq q).2.flags = t.flags := by
          simp only [Strand.popq]; split <;> exact ⟨rfl, rfl, rfl, rfl, rfl⟩
        obtain ⟨h1, h2, h3, h4, h5⟩ := ih (t.popq q).2
        exact ⟨h1.trans hp.1, h2.trans hp.2.1, h3.trans hp.2.2.1, h4.trans hp.2.2.2.1, h5.trans hp.2.2.2.2⟩

/-- Any fold that gathers the flags of the active elements. -/
theorem laneFlags_eq (s : State) (n : Nat) (f : Nat → Nat × Flags) (g : Flags → Option (Nat × Flags) → Flags)
    (h1 : ∀ b x, g b (some x) = b ||| x.2) (h0 : ∀ b, g b none = b) :
    ((List.range n).map (fun i => if (s.cs.maskOf s.cs.unit).1.getLsbD i then some (f i) else none)).foldl g 0 = s.laneFlags n f := by
  rw [List.foldl_map, State.laneFlags]
  congr 1
  funext b j
  simp only [State.active]
  split <;> simp_all

/-- Results of active elements into a field. -/
theorem putLanes_eq {s : State} {view t : Strand} {d : BitVec 6} {w n : Nat} (hm : view.maskOf t.unit = s.cs.maskOf s.cs.unit)
    (hu : t.unit = s.cs.unit) (hv : t.v = s.cs.v) (hs : t.s = s.cs.s) (h : w * n ≤ 4096) (f : Nat → Nat × Flags) :
    ∃ v : Vec, putLanes view t d w n f = putWhole (t.raise (s.laneFlags n f)) 19 d v (maskWhere n s.active) ∧
      (∀ j < n, elemAt v w j = (if s.active j then (f j).1 else s.oldLane d w j) % 2 ^ w) ∧ v.toNat < 2 ^ (w * n) := by
  have hr : ∀ k, t.vr k = s.cs.vr k := fun k => by simp only [Strand.vr, hv]
  have hn : t.vname t.unit 19 d = s.cs.vname s.cs.unit 19 d := by simp only [Strand.vname, Strand.sc, hu, hs]
  have hn' : ∀ fl, (t.raise fl).vname (t.raise fl).unit 19 d = s.cs.vname s.cs.unit 19 d := fun fl => hn
  have ha : ∀ j, (s.cs.maskOf s.cs.unit).1.getLsbD j = s.active j := fun _ => rfl
  have hz : (s.cs.maskOf s.cs.unit).2 = s.zeroing := rfl
  cases hq : s.cs.vname s.cs.unit 19 d with
  | queue q =>
    refine ⟨packVec w ((List.range n).map (fun j => if s.active j then (f j).1 else 0)), ?_, fun j hj => ?_, ?_⟩
    · simp only [putLanes, putWhole, hm]
      rw [laneFlags_eq s n f _ (fun _ _ => rfl) (fun _ => rfl)]
      simp only [hn', hq, List.map_map]
      congr 3
      refine List.map_congr_left fun j _ => ?_
      simp only [Function.comp, ha]
      split <;> simp_all
    · rw [elemAt_packVec (by simpa using h)]
      simp [hj, State.oldLane, hq]
    · simpa using packVec_lt (w := w) (l := (List.range n).map (fun j => if s.active j then (f j).1 else 0)) (by simpa using h)
  | reg k =>
    refine ⟨packVec w ((List.range n).map (fun j => if s.active j then (f j).1 else s.oldLane d w j)), ?_, fun j hj => ?_, ?_⟩
    · simp only [putLanes, putWhole, hm]
      rw [laneFlags_eq s n f _ (fun _ _ => rfl) (fun _ => rfl)]
      simp only [hn', hq]
      congr 2
      rw [List.zip_map_left]
      have : (List.range n).zip (List.range n) = (List.range n).map (fun j => (j, j)) := by
        generalize List.range n = l
        induction l <;> simp_all
      rw [this, List.map_map, List.map_map]
      refine List.map_congr_left fun j _ => ?_
      simp only [Function.comp, Prod.map, ha, hz, State.oldLane, hq, id]
      have : (t.raise (s.laneFlags n f)).vr k = s.cs.vr k := hr k
      rw [this]
      split <;> simp_all
    · rw [elemAt_packVec (by simpa using h)]
      simp [hj]
    · simpa using packVec_lt (w := w) (l := (List.range n).map (fun j => if s.active j then (f j).1 else s.oldLane d w j))
        (by simpa using h)

/-- A word of the vector engine that puts one value into each element of D. -/
theorem lanes_of {i : Instr} {s : State} (h : Issues i s) (hs : Settled i false s) {sbit : BitVec 1} {body : Strand → Strand → Strand}
    {fs : List (Nat × BitVec 6)} {d : BitVec 6} {w n : Nat} {g : Nat → Nat × Flags} (hw : w * n ≤ 4096)
    (e : exec i s = vecWord i sbit body s)
    (b : ∀ (k : Nat) (t : Strand), t = s.begun.cs.settlePend false k →
      body t { t with flags := 0 } = putLanes t (takeSources t.unit fs { t with flags := 0 }).2 d w n g) :
    Lanes i s fs d w n g := by
  obtain ⟨k, c, p, hp, hq⟩ := vecWord_eq h hs sbit body
  obtain ⟨ev, fl, he⟩ := settlePend_eq false k s.begun.cs
  simp only [Bool.false_eq_true, if_false] at he
  have hu : (s.begun.cs.settlePend false k).unit = s.cs.unit := by rw [he]; rfl
  have hm : (s.begun.cs.settlePend false k).maskOf = s.cs.maskOf := by rw [he]; rfl
  obtain ⟨ku, kv, _, ks, kf⟩ := takeSources_keeps (s.begun.cs.settlePend false k).unit fs { s.begun.cs.settlePend false k with flags := 0 }
  obtain ⟨v, hv, h1, h2⟩ := putLanes_eq (s := s) (view := s.begun.cs.settlePend false k) (t := s.vecStart false fs k) (d := d)
    (w := w) (n := n) (by rw [State.vecStart, ku, hu, hm]) (ku.trans hu) (kv.trans (by rw [he]; rfl)) (ks.trans (by rw [he]; rfl)) hw g
  have hb := (b k _ rfl).trans hv
  refine ⟨k, c, p, v, ?_, ?_, h1, h2⟩
  · rw [e, hq]
    simp only [State.vecDid, engineDid, hb, Bool.false_eq_true, if_false]
  · have hfl : engineFlags s false k body = s.laneFlags n g := by
      rw [engineFlags, hb]
      have : (s.vecStart false fs k).flags = 0 := kf
      simp only [putWhole]
      split <;> simp [Strand.pushq, Strand.setDataq, Strand.setVr, Strand.repaired, Strand.raise, this]
    rw [← hfl]; exact hp

end Sys2Proof.Machine
end

