-- ==== Sys2Proof/Tests/Slice0.lean ====
section
/-! SUPPORT. Tests. `w_<statement>` shows, for each statement that has hypotheses, concrete states and operands that meet the hypotheses
of each of its clauses; `test_` are words written out from the encodings of the manual, ill-formed terms, and single steps whose
results come from the manual's rules. -/

namespace Sys2Proof.Tests

set_option Elab.async false

open Sys2Proof Sys2Proof.Machine

/-- A live strand of team 1 with the word `i` as its issuing unit. -/
def cst (i : Instr) (t : Strand := {}) : State :=
  { State.reset with cs := { t with live := true, team := 1, unit := { t.unit with word := encode i } } }

/-- Scalars 1 to 9 hold these values in order, scalar 6 the most negative number, scalar 7 minus one, scalar 8 zero. -/
def regs : Sparse Dword :=
  [(1, 5), (2, 0x4000), (3, 0x10307), (4, 64), (5, 1), (6, 0x8000000000000000), (7, 0xFFFFFFFFFFFFFFFF)]

def sst (i : Instr) : State := cst i { s := regs }

theorem w_IntegerWordsComplete : ∀ i ∈ [Instr.add 0 6 7, .sub 63 1 2, .mul 1 7 7, .mulhS 1 6 7, .mulhN 1 7 7, .and 1 1 1, .or 2 3 4,
    .xor 0 0 0, .andn 2 3 4, .shl 1 1 4, .shrN 1 6 3, .shrS 1 6 7, .rot 1 7 8, .minS 1 6 7, .minN 1 6 7, .maxS 1 6 7, .maxN 1 6 7,
    .clz 1 8, .clz 1 6, .ctz 1 8, .ctz 1 6, .popc 1 7, .sel 1 2 3 0, .sel 1 2 3 1, .sel 1 2 3 8], Issues i (sst i) := by decide +kernel

theorem w_DivisionWordsComplete :
    (∀ t ∈ ([0, 1] : List (BitVec 1)), ∀ i ∈ [Instr.divS 1 6 5 t, .remS 1 7 1 t, .divN 1 6 7 t, .remN 0 6 7 t,
      .divS 1 6 8 t, .divN 1 6 8 t, .remS 1 6 8 t, .remN 1 6 8 t, .divS 1 6 7 t, .remS 1 6 7 t], Issues i (sst i)) ∧
    (∀ i, (sst i).cs.sc 8 = 0 ∧ (sst i).cs.sc 6 = 0x8000000000000000 ∧ (sst i).cs.sc 7 = BitVec.allOnes 64) :=
  ⟨by decide +kernel, fun _ => ⟨rfl, rfl, rfl⟩⟩

def ext1 (i : Instr) (w : Word) : State := cst i { s := regs, unit := { pfx := [w] } }

theorem w_CompareImmediateAndFieldWordsComplete :
    (∀ i ∈ [Instr.cmp 1 6 7 0, .cmp 1 6 7 1, .cmp 1 6 7 2, .cmp 1 6 7 3, .cmp 1 6 7 4, .cmp 1 6 7 5, .addi 1 2 0x200, .andi 1 2 0x1FF,
      .ori 0 2 0x3FF, .xori 1 2 1, .shli 1 2 0, .shli 1 2 63, .shriN 1 6 0, .shriN 1 6 63, .shriS 1 6 0, .shriS 1 6 63, .li 1 0x8000,
      .bfxN 1 6 3, .bfxS 1 6 3, .bfxS 1 6 8, .bfi 1 7 3, .fshl 1 2 8, .fshl 1 2 7, .fshr 1 2 8, .fshr 1 2 3], Issues i (sst i)) ∧
    (∀ i ∈ [Instr.cmp 1 2 3 6, .cmp 1 2 3 15, .shli 1 2 64, .shriN 1 2 0x3FF, .shriS 1 2 64], (sst i).cs.unit.badKind = false) ∧
    (sst (.shli 1 2 64)).cs.unit.immS (64 : BitVec 10) = 64 ∧ (sst (.shli 1 2 0)).cs.unit.immS (0x3FF : BitVec 10) = -1 ∧
    (∀ i ∈ [Instr.addi 1 2 0x3FF, .li 1 0xFFFF], (sst i).cs.unit.ext 0 = none) ∧
    (∀ i ∈ [Instr.addi 1 2 0x3FF, .li 1 0xFFFF], Issues i (ext1 i (encode (.extImm 0x2000000))) ∧
      (ext1 i (encode (.extImm 0x2000000))).cs.unit.ext 0 = some (encode (.extImm 0x2000000))) := by decide +kernel

theorem w_FloatWordsComplete :
    (∀ p ∈ ([0, 1] : List (BitVec 1)), ∀ i ∈ [Instr.fadd 1 2 3 p, .fsub 1 7 2 p, .fmul 1 6 7 p, .fdiv 1 2 8 p, .ffma 1 2 3 p, .fsqrt 1 6 p,
      .fmin 1 7 2 p, .fmax 0 7 2 p, .fcmp 1 7 7 0 p, .fcmp 1 7 7 3 p, .fcvt 1 2 3 0, .fcvt 1 2 3 15], Issues i (sst i)) ∧
    (firstNan fmtF64 [0xFFFFFFFFFFFFFFFF, 0]).isSome = true ∧ (firstNan fmtF32 [0xFFFFFFFF]).isSome = true ∧
    (firstNan fmtF64 [0xFFFFFFFFFFFFFFFF, 0, 0x7FF0000000000000]).isSome = true ∧ (decodeF fmtF64 0).isZero = true ∧ (decodeF fmtF64 0x7FF0000000000000).isInf = true ∧
    (decodeF fmtF64 0xFFFFFFFFFFFFFFFF).isNan = true ∧ (decodeF fmtF64 0).isNan = false := by decide +kernel

theorem w_BranchAndJumpWordsComplete : ∀ i ∈ [Instr.beq 1 1 0x200, .beq 1 2 3, .bne 1 2 0x1FF, .bltS 6 7 1, .bltN 6 7 1, .bgeS 6 7 1,
    .bgeN 7 6 1, .jmp 0x200000, .jal 0x1FFFFF, .jr 0 3, .jr 1 7], Issues i (sst i) := by decide +kernel

def level (a b n : Dword) : LoopLevel := ⟨a, b, n⟩

def loopSt (i : Instr) (ls : List LoopLevel) : State := cst i { s := regs, loops := ls, unit := { taddr := 0x1000 }, pc := 0x1004 }

/-- The condition under which `loop` and `loopi` push a level (R131). -/
abbrev loopLegal (s : State) (off : Int) : Prop :=
  s.cs.loops.length < 4 ∧ ∀ top ∈ s.cs.loops.head?, (s.cs.unit.taddr + BitVec.ofInt 64 (4 * off)).toNat ≤ top.stop.toNat

theorem w_LoopWordsComplete :
    (∀ i ∈ [Instr.loop 1 4, .loop 8 4, .loopi 0 4, .loopi 1 4], ∀ ls ∈ [[], [level 0 0x1010 1], [level 0 0x1010 2, level 0 0x2000 2, level 0 0x3000 9]],
      Issues i (loopSt i ls) ∧ loopLegal (loopSt i ls) 4) ∧
    (∀ i ∈ [Instr.loop 1 4, .loopi 3 4], ∀ ls ∈ [[level 0 0x100C 1], [level 0 0x2000 1, level 0 0x2000 2, level 0 0x2000 2, level 0 0x3000 9]],
      Issues i (loopSt i ls) ∧ ¬ loopLegal (loopSt i ls) 4) ∧
    (∀ i ∈ [Instr.lbrk 0 0 1, .lbrk 0 1 8, .lbrk 1 0 7, .lbrk 0 0 8, .lbrk 0 1 1, .lbrk 2 0 1, .lbrk 15 1 1],
      Issues i (loopSt i [level 0 0x1010 2, level 0 0x2000 2])) ∧
    ((loopSt (.lbrk 0 0 1) [level 0 0x1010 2]).cs.loops[0]? = some (level 0 0x1010 2) ∧ ((loopSt (.lbrk 0 0 1) []).cs.sc 1 ≠ 0 ↔ (0 : BitVec 1) = 0) ∧
      ¬ ((loopSt (.lbrk 0 1 1) []).cs.sc 1 ≠ 0 ↔ (1 : BitVec 1) = 0)) ∧
    ((level 0 8 1).stop ≠ 4 ∧ (level 0 8 2).stop = 8 ∧ 2 ≤ (level 0 8 2).remaining.toNat ∧ (level 0 8 1).remaining = 1) := by decide +kernel

/-- The strand's team 1, with barrier `b` of two strands in phase 3, one of which has arrived. -/
def barSt (i : Instr) (b : Barrier) (ph : Option Nat) (t : Strand := {}) : State :=
  { cst i { t with s := regs, barPhase := [(1, ph)] } with teams := [{ id := 1, barriers := [(1, b)] }] }

theorem w_BarrierWordsComplete :
    (∀ m ∈ ([0, 1] : List (BitVec 1)), ∀ i ∈ [Instr.barArr 1 m, .barDrop 1 m, .barWait 1 m, .barSync 1 m, .barWaitt 1 m 1 8, .barWaitt 1 m 0 6],
      ∀ ph ∈ [none, some 2, some 3], ∀ a ∈ [0, 1], ∀ t ∈ [({} : Strand), { barDropped := 2 }, { syncArrived := true }],
        Issues i (barSt i ⟨2, a, 0, 3⟩ ph t)) ∧
    (∀ i ∈ [Instr.barWaitt 1 0 1 8], Issues i (barSt i ⟨2, 0, 0, 3⟩ none { timeUp := true })) ∧
    (∀ i ∈ [Instr.barArr 1 0], ((barSt i ⟨2, 0, 0, 3⟩ none).cs.phaseOf 1 = none ∧ (barSt i ⟨2, 0, 0, 3⟩ (some 2)).cs.phaseOf 1 = some 2 ∧
      (barSt i ⟨2, 0, 0, 3⟩ (some 3)).cs.phaseOf 1 = some 3 ∧ ((barSt i ⟨2, 0, 0, 3⟩ none).begun.csTeam.barrier 1).phase = 3)) ∧
    earlierAcc (barSt (.barArr 1 1) ⟨2, 0, 0, 3⟩ none).cs = false ∧
    (barSt (.barArr 1 1) ⟨2, 0, 0, 3⟩ none { barDropped := 2 }).cs.barDropped.getLsbD 1 = true ∧
    (let s := barSt (.barSync 1 0) ⟨2, 0, 0, 3⟩ none; phaseDone (s.begun.arrive 1 false).cs (s.begun.arrive 1 false).csTeam 1 = false) ∧
    (let s := barSt (.barSync 1 0) ⟨2, 1, 0, 3⟩ none; phaseDone (s.begun.arrive 1 false).cs (s.begun.arrive 1 false).csTeam 1 = true) ∧
    (let s := barSt (.barWaitt 1 0 1 8) ⟨2, 1, 0, 3⟩ (some 3); (s.cs.sc 8).toNat ≤ s.time % 2 ^ 64 ∧ ¬ (s.cs.sc 6).toNat ≤ s.time % 2 ^ 64) ∧
    (({ e := 2, a := 0 } : Barrier).a + 1 ≠ 2 ∧ ({ e := 2, a := 1 } : Barrier).a + 1 = 2) := by decide +kernel

theorem w_EventCsrAndMailboxWordsComplete :
    (∀ i ∈ [Instr.nop, .evSig 0, .evSig 15, .evWait 1 0, .evWait 1 0x80, .evWait 1 0x81, .evWaitt 1 8 8, .evWaitt 1 4 8, .evWaitt 1 4 6, .csrr 1 0x001, .csrr 1 0x010,
      .csrr 1 0x7FF, .csrw 1 0x001, .csrw 1 0x010, .mbrd 1 0 7, .mbrd 1 1 0, .mbwr 1 7, .time 1, .timeCyc 0], Issues i (sst i)) ∧ Issues (.evWaitt 1 8 8) (cst (.evWaitt 1 8 8) { s := regs, timeUp := true }) ∧
    (let s := sst (.evWait 1 0)
     (s.cs.ev 1 - 0).toNat < 128 ∧ ¬ (s.cs.ev 1 - 0x80).toNat < 128 ∧ (s.cs.ev 1 - 0x81).toNat < 128 ∧ ¬ (s.cs.ev 1 - (s.cs.sc 4).setWidth 8).toNat < 128) ∧
    (let s := sst (.evWait 1 0)
     (s.cs.sc 8).toNat ≤ s.time % 2 ^ 64 ∧ ¬ (s.cs.sc 6).toNat ≤ s.time % 2 ^ 64 ∧
     (csrRead s.begun 0x001).isSome ∧ csrRead s.begun 0x7FF = none ∧ (csrWrite s.begun 0x001 1).isSome ∧ csrWrite s.begun 0x010 1 = none) ∧
    (∀ p ∈ [none, some 0, some 5], Issues .yieldPause (cst .yieldPause { pauseEnd := p, cyc := 4 })) ∧
    ((0 : Nat) ≤ (cst .yieldPause { cyc := 4 }).cs.cyc ∧ (cst .yieldPause { cyc := 4 }).cs.cyc < 5) := by decide +kernel

theorem w_CsrFieldsFollowTheirAccessCodes :
    (csrWrite (sst .nop) 0x001 5).isSome ∧ (csrWrite (sst .nop) 0x001 0xFFFFFFFFFFFFFFFF).isSome ∧
    (csrWrite (sst .nop) 0x002 5).isSome ∧ (csrWrite (sst .nop) 0x002 0xFFFFFFFFFFFFFFFF).isSome ∧
    (csrWrite (sst .nop) 0x003 5).isSome ∧ (csrWrite (sst .nop) 0x003 0xFFFFFFFFFFFFFFFF).isSome ∧
    (csrWrite (sst .nop) 0x030 5).isSome ∧ (csrWrite (sst .nop) 0x030 0xFFFFFFFFFFFFFFFF).isSome ∧
    (csrWrite (sst .nop) 0x031 5).isSome ∧ (csrWrite (sst .nop) 0x031 0xFFFFFFFFFFFFFFFF).isSome ∧
    (csrWrite (sst .nop) 0x032 5).isSome ∧ (csrWrite (sst .nop) 0x032 0xFFFFFFFFFFFFFFFF).isSome ∧
    (csrWrite (sst .nop) 0x060 5).isSome ∧ (csrWrite (sst .nop) 0x060 0xFFFFFFFFFFFFFFFF).isSome ∧
    (csrWrite (sst .nop) 0x800 5).isSome ∧ (csrWrite (sst .nop) 0x800 0xFFFFFFFFFFFFFFFF).isSome ∧
    (csrWrite (sst .nop) 0x801 5).isSome ∧ (csrWrite (sst .nop) 0x801 0xFFFFFFFFFFFFFFFF).isSome ∧
    (csrWrite (sst .nop) 0x802 5).isSome ∧ (csrWrite (sst .nop) 0x802 0xFFFFFFFFFFFFFFFF).isSome ∧
    (csrWrite (sst .nop) 0x803 5).isSome ∧ (csrWrite (sst .nop) 0x803 0xFFFFFFFFFFFFFFFF).isSome ∧
    (csrWrite (sst .nop) 0x804 5).isSome ∧ (csrWrite (sst .nop) 0x804 0xFFFFFFFFFFFFFFFF).isSome ∧
    (csrWrite (sst .nop) 0x805 5).isSome ∧ (csrWrite (sst .nop) 0x805 0xFFFFFFFFFFFFFFFF).isSome ∧
    (csrWrite (sst .nop) 0x810 5).isSome ∧ (csrWrite (sst .nop) 0x810 0xFFFFFFFFFFFFFFFF).isSome ∧
    (csrWrite (sst .nop) 0x820 5).isSome ∧ (csrWrite (sst .nop) 0x820 0xFFFFFFFFFFFFFFFF).isSome ∧
    (csrRead (sst .nop) 0x060).isSome ∧ (csrRead (sst .nop) 0x030).isSome := by decide +kernel

theorem w_TrapEntrySavesAndRedirects :
    (let t : Strand := { tvec := 4 }; t.frame = none ∧ t.tvec ≠ 0 ∧ (5 : Nat) < 6) ∧ ({ tvec := 4, frame := some {} } : Strand).frame.isSome ∧
    ({ } : Strand).tvec = 0 := by decide +kernel

/-- A strand of team 1 in the P view with a trap frame of the unit at 0x1000. -/
def trapSt (i : Instr) (f : Option Frame) (m : Option MtxCmd := none) : State :=
  cst i { s := regs, p := true, frame := f, mtx := m, tepc := 0x1000 }

def frameA : Frame := { unit := { addr := 0x1000, word := encode (.ldD 0 1 2 0) } }
def cmdA : MtxCmd := { unit := {}, opcode := 0, acc := 0 }

theorem w_TrapWordsComplete :
    (∀ i ∈ [Instr.trap 1 0xFFFF, .trap 0 0], Issues i (sst i) ∧ Issues i (cst i { s := regs, tvec := 4 })) ∧ (sst .rtt).cs.p = false ∧ (sst .rtt).cs.unit.badKind = false ∧
    (∀ i ∈ [Instr.rtt, .rttNext, .halt 1], Issues i (trapSt i none) ∧ Issues i (trapSt i (some frameA)) ∧
      Issues i (trapSt i (some { frameA with fetchFault := true })) ∧ Issues i (trapSt i (some frameA) (some cmdA)) ∧
      Issues i (trapSt i (some { frameA with mtx := some cmdA })) ∧ Issues i (trapSt i (some { frameA with mtx := some cmdA }) (some cmdA))) ∧
    (trapSt .rtt (some frameA) (some cmdA)).cs.q = {} ∧ (trapSt .rtt (some frameA) (some cmdA)).cs.arec = [] ∧
    ((trapSt .rtt (some frameA)).cs.mtx = none ∧ (trapSt .rtt (some frameA)).cs.tepc = frameA.unit.addr &&& ~~~3 ∧ frameA.fetchFault = false ∧ frameA.issued = false) := by
  decide +kernel

/-- Team 1 runs in context entry 0 on tile 0; team 2 belongs to entry 1, whose state is `x`, and fits there. Entry 2 is of partition 1 and entry 0x4000 of
die 1. Scalars 1 to 5 name entry 1, entry 0, a stale handle of entry 1, entry 0x4000 and entry 2. -/
def sysSt (i : Instr) (p : Bool := false) (x : CtxState := .ready) (c : Option ParkCond := none) (ops : List XOp := []) : State :=
  let t : Strand := { s := [(1, 0x400001), (2, 0x400000), (3, 0x800001), (4, 0x404000), (5, 0x410002), (6, 0x6A0000000000), (7, 0x6A0000000001), (8, 8), (9, 0x6A0000000020), (10, 7)], ctx := 0x400000, p := p }
  let a : Team := { id := 1, ctx := 0x400000, placed := true, started := true, cores := [0], slots := [0], frames := [3], hdr := { tsram := 65536 } }
  let b : Team := { id := 2, ctx := 0x400001, started := true }
  { cst i t with teams := [a, b], ctxs := [(0, { state := .running }), (1, { state := x, cond := c }), (2, { state := .parked, part := 1 }), (0x4000, { state := .parked })], ops := ops, mem := [(tileBase 0 0 + 3 * 2 ^ 16 + 40, 4)] }

/-- Another team of the partition of at least the priority fits. -/
abbrev sysRival (s : State) : Bool := rival s.begun s.csTeam (fun x => handlePart x.ctx ≠ handlePart s.csTeam.ctx || prioOf s.begun s.csTeam ≤ prioOf s.begun x)

/-- `cswitch` towards a team that has never been placed: its parameters are being resolved, or are still to be, in tables without a leaf. -/
def switchSt (asked : Bool) : State :=
  let s := sysSt (.cswitch 9 1)
  { s with teams := s.teams.map (fun m => if m.id = 2 then { m with started := false, launch := 7, hdr := { m.hdr with seedp := 0 }, faults := if asked then [9] else [] } else m)
           launches := [{ id := 7, record := 0, host := true, issuer := none }] }

theorem w_SwitchAndParkWordsComplete :
    (Issues .yield (sysSt .yield) ∧ (sysSt .yield).csTeam.placed = true ∧ sysRival (sysSt .yield) = true ∧ sysRival (sysSt .yield (x := .swapped)) = false) ∧
    (∀ i ∈ [Instr.park 0 1 0 0 0 0 0 0, .park 3 0 1 1 0 0 8 0, .park 0 0 0 1 0 0 0 0], Issues i (sysSt i)) ∧
    (let s := sysSt .yield
     condHolds s.begun (parkCond s.begun.cs 0 (parkNames 1 0 0 0 0) 0 0) 0 = 0 ∧ condHolds s.begun (parkCond s.begun.cs 0 (parkNames 0 0 1 0 0) 0 0) 0 ≠ 0 ∧
     condHolds s.begun (parkCond s.begun.cs 0 (parkNames 1 0 0 0 0) 0 0) 1 ≠ 0) ∧
    (let s := sysSt .parkEnd (ops := [{ kind := .copy, team := 1, stat := .active }])
     Issues .parkEnd s ∧ ∀ o ∈ s.ops, o.stat = .active) ∧
    (∀ a ∈ ([1, 2, 3, 4, 5] : List (BitVec 6)), Issues (.cswitch 9 a) (sysSt (.cswitch 9 a))) ∧
    (let s := sysSt (.cswitch 9 1)
     handleFault s.begun 0x800001 = some .staleHandle ∧ handleFault s.begun 0x410002 = some .protection ∧ handleFault s.begun 0x400001 = none ∧
     handleFault s.begun 0x404000 = none ∧ handleDie 0x404000 ≠ s.cs.die ∧ handleDie 0x400001 = s.cs.die ∧ switchTarget s.begun (handleIndex 0x400000) = none) ∧
    (let s := sysSt (.cswitch 9 1)
     (match switchTarget s.begun (handleIndex 0x400001) with
      | some x => x.faults.isEmpty && (readyTeam s.begun x).2.isSome
      | none => false) = true) ∧
    (let s := switchSt true
     Issues (.cswitch 9 1) s ∧ (match switchTarget s.begun (handleIndex 0x400001) with | some x => !x.faults.isEmpty | none => false) = true) ∧
    (let s := switchSt false
     Issues (.cswitch 9 1) s ∧ (match switchTarget s.begun (handleIndex 0x400001) with
      | some x => x.faults.isEmpty && (readyTeam s.begun x).2.isNone
      | none => false) = true) := by decide +kernel

theorem w_ContextWordsComplete :
    (∀ i ∈ [Instr.ctxnew 9 6, .ctxfree 9 1, .ctxsetPrio 9 1 8, .ctxsetBind 9 1 8, .kill 9 1], (sysSt i).cs.p = false ∧ (sysSt i).cs.unit.badKind = false) ∧
    (∀ x ∈ [CtxState.ready, .parked, .running, .swapped], ∀ i ∈ [Instr.wakehint 1 8, .wakehint 3 8, .ctxqSt 9 1, .ctxqSt 9 5, .ctxqWake 9 1, .ctxqWake 9 3, .ctxqTiers 9 1,
      .ctxqTiers 9 3, .ctxsetPrio 9 1 0, .ctxsetPrio 9 1 8, .ctxsetPrio 9 3 8, .ctxsetBind 9 1 0, .ctxsetBind 9 1 8, .ctxsetBind 9 3 0, .ctxfree 9 1, .ctxfree 9 3, .kill 9 1, .kill 9 2, .kill 9 3, .ctxnew 9 7, .ctxnew 9 6, .ctxnew 9 9],
      Issues i (sysSt i true x)) ∧
    (let s := sysSt (.ctxqSt 9 1)
     handleFault s.begun 0x400001 = none ∧ handleFault s.begun 0x800001 = some .staleHandle ∧ handleFault s.begun 0x410002 = some .protection ∧
     (s.cs.sc 10).toNat < 8 ∧ 8 ≤ (s.cs.sc 8).toNat ∧ (s.cs.sc 0).toNat / 4 % 1024 = 0 ∧ (s.cs.sc 8).toNat / 4 % 1024 ≠ 0 ∧
     handleIndex s.cs.ctx ≠ handleIndex 0x400001 ∧ handleIndex s.cs.ctx = handleIndex 0x400000 ∧
     (s.cs.sc 7).toNat % 32 ≠ 0 ∧ (s.cs.sc 6).toNat % 32 = 0 ∧ (s.cs.sc 9).toNat % 32 = 0) ∧
    (let s := sysSt (.ctxnew 9 6) true
     (match mtxAccess s.begun s.cs.unit s.cs.p (readReq (s.cs.sc 6) 32) with
      | .data t imgs => ctxRecordOk ((imgs.headD 0).setWidth 256) && (freeEntry t (recField ((imgs.headD 0).setWidth 256) 0xA 1)).isSome | _ => false) = true) ∧
    (let s := sysSt (.ctxnew 9 9) true
     (match mtxAccess s.begun s.cs.unit s.cs.p (readReq (s.cs.sc 9) 32) with | .data _ imgs => !ctxRecordOk ((imgs.headD 0).setWidth 256) | _ => false) = true) := by
  decide +kernel

/-- Objects 1 (tier 1, owned by entry 0), 2 (pinned by entry 0), 3 (tier 2, shared), and 4 (255 pins). -/
def pdeSt (i : Instr) (b : Dword) : State :=
  let q : Pde := { obj := 2, owner := 0x400000, pins := [(0x400000, 0)], tier := 0 }
  let r : Pde := { obj := 3, owner := 0x400000, shared := true }
  let u : Pde := { obj := 4, owner := 0x400000, pins := List.replicate 255 (0x400001, 1) }
  let t : Strand := { s := [(1, 1), (2, 2), (3, 3), (4, 4), (5, 5), (6, b)], ctx := 0x400000, p := true }
  { cst i t with pdes := [{ obj := 1, owner := 0x400000 }, q, r, u] }

theorem w_ResidencyWordsComplete :
    (∀ b ∈ [0, 1, 2, 3, 16], ∀ a ∈ ([1, 2, 3, 4, 5] : List (BitVec 6)), ∀ i ∈ [Instr.hingePin 9 a 6, .hingeUnpin 9 a, .hingeQ 9 a, .hingeMove 9 a 6, .hangRd 9 a 6,
      .tlbinvPart a, .tlbinvS2 a, .tlbinvFab a, .tlbinvAll, .tlbinvHost a], Issues i (pdeSt i (BitVec.ofNat 64 b))) ∧
    (let s := pdeSt (.hingePin 9 1 6) 1
     (knownObj s.begun 1).isSome ∧ knownObj s.begun 5 = none ∧
     s.pdes.all (fun p => pinRefused s.begun p 1 == (p.obj == 4)) ∧ s.pdes.any (fun p => p.pins.any (fun y => y.1 == s.cs.ctx)) ∧
     s.pdes.any (fun p => p.obj == 3 && p.pins.all (fun y => y.1 != s.cs.ctx)) ∧ s.pdes.any (fun p => p.pinBars 1) ∧
     s.pdes.any (fun p => !p.pinBars 1 && p.tier == 1 && !p.shared) ∧ s.pdes.any (fun p => !p.pinBars 0 && p.tier != 0) ∧ s.pdes.any (·.shared)) ∧
    (let s := pdeSt (.hangRd 9 3 6) 15
     (s.cs.sc 3).toNat < 4 ∧ (s.cs.sc 6).toNat < 16 ∧ 4 ≤ (s.cs.sc 4).toNat) := by decide +kernel

/-- The same with an access under way where `b`; `l` is what an invalidation waits for. -/
def invalSt (b : Bool) (l : Option (Nat × InFlight)) : State :=
  let s := pdeSt .tlbinvAll 0
  { s with cs := { s.cs with arec := if b then [{ seq := 4, unit := {}, req := { kind := .load }, state := .pending }] else [], inval := l } }

theorem w_ResidencyWordsComplete_of_invalidations :
    (∀ b ∈ [false, true], Issues .tlbinvAll (invalSt b none) ∧ (invalSt b none).cs.inval = none ∧ ((invalSt b none).begun.inFlight (fun _ => true)).over (invalSt b none).begun = !b) ∧
    (let s := invalSt false (some (0, { accs := [4] })); Issues .tlbinvAll s ∧ s.cs.inval = some (s.cs.unit.seq, { accs := [4] }) ∧ ({ accs := [4] } : InFlight).over s.begun = true) := by
  decide +kernel

/-- Every byte of the elements is within reach in the space, at a place of this device that works. -/
def within (sp : Space) (s : State) (k : AKind) (es : List Elem) : Bool :=
  match planElems sp k es (s, []) with
  | (u, .ok plan) => (l1Waits u (fun _ => true)).isNone && plan.all (fun p => match p.2 with
    | .dev a => !u.bad a && (devWait u k.writes a).isNone
    | _ => false)
  | _ => false

/-- What `within` says. -/
theorem within_meets {sp : Space} {s : State} {k : AKind} {es : List Elem} (h1 : within sp s k es = true) :
    ∃ u plan, ReachIn sp s k es u plan ∧ plain plan ∧ ∀ p ∈ plan, ∃ a, p.2 = .dev a := by
  unfold within at h1
  unfold plain
  split at h1
  · rename_i u plan hp
    rw [Bool.and_eq_true, List.all_eq_true, Option.isNone_iff_eq_none] at h1
    obtain ⟨h0, h1⟩ := h1
    refine ⟨u, plan, ⟨hp, h0, fun p hm => ?_⟩, fun p hm => ?_, fun p hm => ?_⟩ <;> have := h1 p hm <;> revert this <;> cases hl : p.2 <;>
      simp +contextual [Loc.isFab, Loc.key, Loc.tag?]
  · cases h1

/-- Every byte is within the strand's reach, no fault answer of its pages is to be reported, and the access record is free for the class. -/
def ready (s : State) (k : AKind) (cls : BitVec 4) (es : List Elem) : Bool :=
  within s.begun.acc s.begun k es && decide (s.cs.arec.length < 64) && !recordHolds s.cs cls es &&
    es.all (fun e => (refusedAt s.cs.answered e.va e.size).isNone)

/-- What `ready` says: the hypotheses of the statements on accesses. -/
theorem ready_meets {s : State} {k : AKind} {cls : BitVec 4} {es : List Elem} (h : ready s k cls es = true) :
    RecordFree s cls es ∧ NoAnswer s es ∧ ∃ u plan, Reach s.begun k es u plan ∧ plain plan ∧ ∀ p ∈ plan, ∃ a, p.2 = .dev a := by
  unfold ready at h
  simp only [Bool.and_eq_true, decide_eq_true_eq, Bool.not_eq_true', List.all_eq_true, Option.isNone_iff_eq_none] at h
  obtain ⟨⟨⟨h1, h2⟩, h3⟩, h4⟩ := h
  exact ⟨⟨h2, h3⟩, h4, within_meets h1⟩

def desc (rows : Nat) : Desc :=
  setField (setField (setField (setField (setField (setField (setField 0 0 8 0x6A0000000000) 0x20 8 64) 0x28 4 rows) 0x2C 4 16) 0x34 1 8) 0x35 1 7) 0x3C 2 16

/-- Tile SRAM of team 1: 64 KiB at TSBASE, where scalar 1 points. D1 streams from it, D2 is no stream. Data queue 0 holds an entry. -/
def memSt (i : Instr) (t : Strand := {}) : State :=
  let a : Team := { id := 1, frames := [3], hdr := { tsram := 65536 } }
  let r : Sparse Dword := [(1, 0x6A0000000000), (2, 0x6A0000000001), (3, 64), (4, 2), (6, 0x6A000000FE00), (7, 0x6A0000010000), (8, 1), (10, 0x40000000000000)]
  { cst i { t with s := r, dq := [(0, [{}])], d := [(1, desc 16), (2, desc 16 ||| (4 <<< (0x36 * 8)))] } with teams := [a] }

/-- Byte address of `n` bytes at scalar `a` with the offset field `i`. -/
def atOf (a i : BitVec 6) (n : Nat) : Dword := (memSt .nop).cs.sc a + BitVec.ofInt 64 (i.toInt * n)

theorem w_ScalarLoadAndStoreWordsComplete :
    (∀ x ∈ [((Instr.ldBS 0 3 1 0, 1), atOf 1 0 1), ((.ldBN 0 3 6 31, 1), atOf 6 31 1), ((.ldHS 1 0 1 0, 2), atOf 1 0 2), ((.ldHN 2 3 7 63, 2), atOf 7 63 2),
        ((.ldWS 3 3 1 0, 4), atOf 1 0 4), ((.ldWN 4 3 1 0, 4), atOf 1 0 4), ((.ldD 5 3 1 31, 8), atOf 1 31 8)],
      Issues x.1.1 (memSt x.1.1) ∧ x.2.toNat % x.1.2 = 0 ∧ ready (memSt x.1.1) .read 0 [⟨0, x.2, x.1.2⟩] = true) ∧
    (∀ x ∈ [((Instr.stB 0 3 7 63, 1), atOf 7 63 1), ((.stH 1 0 1 0, 2), atOf 1 0 2), ((.stW 3 3 1 0, 4), atOf 1 0 4), ((.stD 5 3 7 32, 8), atOf 7 32 8)],
      Issues x.1.1 (memSt x.1.1) ∧ x.2.toNat % x.1.2 = 0 ∧ ready (memSt x.1.1) .write 0 [⟨0, x.2, x.1.2⟩] = true) ∧
    (∀ x ∈ [Instr.ldHS 0 3 2 0, .ldHN 0 3 2 0, .ldWS 0 3 2 0, .ldWN 0 3 2 0, .ldD 0 3 2 0, .stH 0 3 2 0, .stW 0 3 2 0, .stD 0 3 2 0], Issues x (memSt x)) ∧
    ((memSt .nop).cs.sc 2).toNat % 2 ≠ 0 := by decide +kernel

theorem w_VectorMaskAndDescriptorMovesComplete :
    (∀ x ∈ [(Instr.ldV 0 3 1 0, AKind.read), (.ldV 0 57 1 0, .read), (.ldVs 0 3 1 3, .read), (.ldVs 0 57 1 0, .read), (.stV 0 3 1 0, .write), (.stV 0 56 1 0, .write), (.stVs 0 3 1 3, .write),
        (.stVs 0 56 1 3, .write)],
      Issues x.1 (memSt x.1) ∧ ready (memSt x.1) x.2 0 (vecElems (memSt x.1).cs 0x6A0000000000 64) = true) ∧
    (∀ x ∈ [(Instr.ldM 0 0 1 0, AKind.read, 128), (.stM 0 15 1 0, .write, 128), (.dld 0 3 1 0, .read, 64), (.dst 0 3 1 0, .write, 64)],
      Issues x.1 (memSt x.1) ∧ ready (memSt x.1) x.2.1 0 [⟨0, 0x6A0000000000, x.2.2⟩] = true) ∧
    (∀ x ∈ [Instr.ldV 0 3 2 0, .stV 0 3 2 0, .ldVs 0 3 2 3, .ldVs 0 3 1 8, .stVs 0 3 1 8, .ldM 0 0 2 0, .stM 0 0 2 0, .dld 0 3 2 0, .dst 0 3 2 0, .dset 1 3 0, .dset 1 3 7, .pref 0 1 0],
      Issues x (memSt x)) ∧
    (memSt .nop).cs.vname {} 19 3 = .reg 3 ∧ (memSt .nop).cs.vname {} 19 57 = .queue 1 ∧ ((memSt .nop).cs.sc 3).toNat % 64 = 0 ∧
    ((memSt .nop).cs.sc 8).toNat % 64 ≠ 0 ∧ ((memSt .nop).cs.sc 2).toNat % 64 ≠ 0 := by decide +kernel

/-- Indices of the first elements: element 0 of V1 is 1, elements of V2 are all ones. -/
def gatSt (i : Instr) : State := memSt i { v := [(1, 1), (2, BitVec.allOnes 4096)] }

theorem w_GatherScatterAndStreamWordsComplete :
    (∀ x ∈ [(Instr.gathB 0 3 1 1, 1), (.gathH 0 57 1 1, 2), (.gathW 0 3 1 1, 4), (.gathW 0 3 1 4, 4)],
      Issues x.1 (gatSt x.1) ∧ ready (gatSt x.1) .read 0 (gathElems (gatSt x.1).cs 0x6A0000000000 1 x.2) = true) ∧
    (∀ x ∈ [(Instr.scatB 0 3 1 1, 1), (.scatH 0 56 1 1, 2), (.scatW 0 3 1 1, 4)],
      Issues x.1 (gatSt x.1) ∧ ready (gatSt x.1) .write 0 (gathElems (gatSt x.1).cs 0x6A0000000000 1 x.2) = true) ∧
    (∀ x ∈ [(Instr.gathH 0 3 2 1, 2), (.gathW 0 3 2 1, 4), (.scatH 0 3 2 1, 2), (.scatW 0 3 2 1, 4)],
      Issues x.1 (gatSt x.1) ∧ ((gathElems (gatSt x.1).cs 0x6A0000000001 1 x.2).head?.any (fun e => e.va.toNat % x.2 ≠ 0)) = true) ∧
    ((gathElems (gatSt .nop).cs 0x6A0000000000 1 4).all (fun e => e.va.toNat % 4 = 0)) = true ∧
    descOk ((gatSt .nop).cs.dr 1) = true ∧ descOk ((gatSt .nop).cs.dr 2) = false ∧ chunkTotal (desc 16) = 2 ∧
    (∀ i ∈ [Instr.sfetch 0 57 1 0, .sfetch 0 57 1 8, .sfetch 0 57 1 4, .sfetch 0 57 2 0, .gathb 0 3 1 2 1, .gathb 0 3 1 1 1, .gathb 0 3 0 1 1, .gathb 0 3 1 1 2], Issues i (gatSt i)) ∧
    (let s := gatSt (.sfetch 0 57 1 8); let q := chunkReq (desc 16) (chunkRows (desc 16) 1) .sfetch
     chunkEntries (desc 16) ≤ s.cs.qfree 1 ∧ ready s .read 0 q.elems = true) ∧
    (let s := gatSt (.gathb 0 3 1 1 1); let act := (List.range 8).filter (fun j => (s.cs.maskOf s.cs.unit).1.getLsbD j)
     let q := chunkReq (desc 16) (act.map (fun j => (⟨indexOf 1 j, 0, j * 16⟩ : CRow))) .gathb
     ready s .read 0 q.elems = true ∧ act.all (fun j => indexOf 1 j < 16) = true ∧ act.any (fun j => 16 ≤ indexOf (BitVec.allOnes 4096) j) = true ∧
     s.cs.unit.ext 4 = none ∧ s.cs.unit.ext 5 = none ∧ 3 + chunkEntries (desc 16) ≤ 56 ∧ 56 ≤ s.csTeam.hdr.nv) := by decide +kernel

/-- A header with slots of 512 bytes, `n` of them; `c` claimed, `p` published, `r` released; FLAGS `f`. -/
def ringHdr (n c p r f : Nat) : Desc :=
  setField (setField (setField (setField (setField (setField 0 4 4 512) 8 2 n) 0xA 2 f) 0x10 8 c) 0x18 8 p) 0x28 8 r

/-- The header at TSBASE; scalar 9 holds `k`. -/
def ringSt (i : Instr) (h : Desc) (k : Dword) : State :=
  let s := memSt i
  { s with cs := s.cs.setSc 9 k, mem := setBytes [] (tileBase 0 0 + 3 * 2 ^ 16) ((List.range 64).map (fun n => byteOf h n)) }

/-- The header is reached and what `f` says holds of it. -/
def ringReady (s : State) (k : AKind) (f : State → List (Nat × Loc) → Desc → Bool) : Bool :=
  !recordHolds s.cs 0 [⟨0, 0x6A0000000000, 64⟩] && decide (s.cs.arec.length < 64) && (match headerAt s.begun s.acc 0x6A0000000000 k with
    | .ok u plan h => ringOk h && (l1Waits u (fun _ => true)).isNone && u.windows.isEmpty && f u plan h
    | _ => false)

theorem ringReady_meets {s : State} {k : AKind} {f : State → List (Nat × Loc) → Desc → Bool} (h : ringReady s k f = true) :
    ∃ u plan h, RingAt s 0 0x6A0000000000 k u plan h ∧ u.windows = [] ∧ f u plan h = true := by
  unfold ringReady at h
  rw [Bool.and_eq_true, Bool.and_eq_true, Bool.not_eq_true', decide_eq_true_eq] at h
  obtain ⟨⟨h1, h0⟩, h2⟩ := h
  split at h2
  · rename_i u plan x hp
    simp only [Bool.and_eq_true, List.isEmpty_iff, Option.isNone_iff_eq_none] at h2
    obtain ⟨⟨⟨h3, h6⟩, h4⟩, h5⟩ := h2
    exact ⟨u, plan, x, ⟨h0, h1, hp, h3, h6, by simp [h4]⟩, h4, h5⟩
  · cases h2

def sdesc : Desc := desc 16

/-- Object 3 at virtual address 0x10000, which a migration holds, in the state `s`. -/
def withObject (s : State) (m : Bool) : State :=
  { s with
    tlb := [{ kind := 0, part := 0, root := 0, page := 1, frame := 2 ^ 43 + 48, perm := 0xF, span := 0x10000 }]
    pdes := [{ obj := 3, owner := 0x400000, frame := 0x40000000, moving := m, mig := if m then some { tier := 0, frame := 0, src := 1, start := 0 } else none }] }

/-- The header of `rclaim.p` lies in the object's page. -/
def heldRing : State :=
  let s := withObject (ringSt (.rclaimP 0 3 1) 0 1) true
  { s with cs := s.cs.setSc 1 0x10000 }

theorem w_RingWordsComplete :
    (∀ i ∈ [Instr.rclaimP 0 3 1, .rclaimC 0 3 1, .rpub 0 1 9, .rrel 0 1 9, .wadv 0 1 9, .wmapOff 0 1, .wmap 0 1 1 9, .wmap 0 1 1 0, .wmap 0 2 1 9, .rwaitf 0 3 1 9, .rwaite 0 1 9, .rclaimP 0 3 2],
      Issues i (ringSt i (ringHdr 2 2 1 0 0) 1)) ∧
    ringReady (ringSt (.rwaitf 0 3 1 9) (ringHdr 2 2 1 0 0) 0) .read (fun _ _ h => (0 : Nat) < hTAIL h) = true ∧
    ringReady (ringSt (.rwaitf 0 3 1 9) (ringHdr 2 2 1 0 1) 1) .read (fun _ _ h => hTAIL h ≤ 1 && hEND h) = true ∧
    ringReady (ringSt (.rwaitf 0 3 1 9) (ringHdr 64 2 1 0 0) 1) .read (fun _ _ h => hTAIL h ≤ 1 && !hEND h) = true ∧
    ringReady (ringSt (.rwaite 0 1 9) (ringHdr 2 2 1 0 0) 1) .read (fun _ _ h => 1 < hHEAD h + hNSLOT h && hHEAD h + hNSLOT h ≤ 2) = true ∧
    ringReady (ringSt (.rclaimP 0 3 1) (ringHdr 2 2 1 0 0) 1) .rw (fun _ _ h => (publish h 1).isSome && !(publish h 2).isSome && hPCLAIM h ≤ 2) = true ∧
    ringReady (ringSt (.rrel 0 1 9) (ringHdr 2 2 1 0 0) 0) .rw (fun _ _ h => (release h 0).isSome && hHEAD h ≤ 0 && hTAIL h ≤ 1) = true ∧
    ringReady (ringSt (.wadv 0 1 9) (ringHdr 2 2 1 0 2) 1) .rw (fun _ _ h => hNSLOT h < 3 && 1 ≤ hNSLOT h && hHEAD h + 1 ≤ hTAIL h && hTAIL h < hHEAD h + 2) = true ∧
    ringReady (ringSt (.rpub 0 1 9) (setField (ringHdr 4 3 0 0 0) 0x30 8 2) 1) .rw (fun _ _ h => hPUBMAP h / 2 ^ 1 % 2 == 1) = true ∧
    ringReady (ringSt (.rrel 0 1 9) (setField (ringHdr 4 3 3 0 0) 0x38 8 2) 1) .rw (fun _ _ h => hRELMAP h / 2 ^ 1 % 2 == 1) = true ∧
    ringReady (ringSt (.wadv 0 1 9) (ringHdr 2 2 2 0 0) 1) .rw (fun _ _ h => 1 ≤ hNSLOT h && hHEAD h + 1 ≤ hTAIL h) = true ∧
    (Issues (.wadv 0 1 9) (ringSt (.wadv 0 1 9) (ringHdr 2 2 2 0 0) 0) ∧ (ringSt (.wadv 0 1 9) (ringHdr 2 2 2 0 0) 0).cs.sc 9 = 0 ∧
      ringReady (ringSt (.wadv 0 1 9) (ringHdr 2 2 2 0 0) 0) .rw (fun _ _ h => hHEAD h ≤ hTAIL h) = true) ∧
    (Issues (.rclaimP 0 3 1) heldRing ∧ heldRing.cs.arec.length < 64 ∧ recordHolds heldRing.cs 0 [⟨0, 0x10000, 64⟩] = false ∧ heldRing.cs.sc 1 = 0x10000 ∧
      headerAt heldRing.begun heldRing.acc 0x10000 .rw = .stop (.held 3)) ∧
    ringReady (ringSt (.wmap 0 1 1 9) (ringHdr 2 0 0 0 0) 1) .rw (fun u plan h => u.cs.dr 1 == sdesc && isTile (planKey plan) && hSLOTSZ h % imageSize sdesc == 0) = true ∧
    descOk ((memSt .nop).cs.dr 1) = true ∧ descOk ((memSt .nop).cs.dr 2) = false ∧ ((memSt .nop).cs.sc 2).toNat % 64 ≠ 0 ∧
    (match headerAt (ringSt (.rclaimP 0 3 1) (ringHdr 3 0 0 0 0) 1).begun (ringSt .nop 0 1).acc 0x6A0000000000 .rw with | .ok u _ h => u.windows.isEmpty && !ringOk h | _ => false) = true := by
  decide +kernel

def recSt (i : Instr) (es : List RecEntry) (p : List Word := []) : State :=
  { memSt i { arec := es, unit := { pfx := p } } with bar0 := Sparse.set 0 (Sparse.set 0 [] 0x2100 (0x8000000000000000 ^^^ barReset 0x2100)) 0x8008 (0x40 ^^^ barReset 0x8008) }

def recA (w : Bool) : RecEntry := { seq := 1, unit := {}, req := { kind := .fabric, write := w, elems := [⟨0, 1 <<< 54, 8⟩], ord := { cls := 3 } }, state := .pending }

/-- DEVID is 0 and assigned; the fabric MMU has 4 KiB of the window at 0x1000, where scalar 11 points. -/
def ownSt (i : Instr) : State :=
  let s := recSt i []
  { s with
    cs := s.cs.setSc 11 0x1000
    tlb := [{ kind := 2, part := 0, root := 0, page := 1, frame := 0x40000, perm := 0x7 }] }

theorem w_AtomicsFencesAndFabricWordsComplete :
    (∀ x ∈ [(Instr.amoW 0 3 1 4, 4), (.amoW 7 3 1 4, 4), (.amoD 8 0 1 4, 8), (.amoF 0 3 1 4, 4), (.amoF 3 3 1 4, 8), (.amoF 5 3 1 4, 8), (.casW 0 3 1 4, 4), (.casD 1 3 1 4, 8), (.casQ 0 4 1 8, 16)],
      Issues x.1 (memSt x.1) ∧ ready (memSt x.1) .rw 0 [⟨0, 0x6A0000000000, x.2⟩] = true) ∧
    (∀ x ∈ [Instr.amoW 0 3 2 4, .amoD 0 3 2 4, .amoF 0 3 2 4, .casW 0 3 2 4, .casD 0 3 2 4, .casQ 0 4 2 8, .fld 0 3 2 0, .fst 0 3 2 0, .famo 0 3 2 4, .fcas 0 3 2 4], Issues x (memSt x)) ∧
    (∀ es ∈ [[], [recA false], [recA true]], ∀ i ∈ [Instr.fenceCls 3 4, .fenceCls 0 1, .fenceCls 2 2, .fenceView], Issues i (recSt i es)) ∧
    (∀ o ∈ [1, 2], ∀ es ∈ [[], [recA true]], Issues .fence (recSt .fence es [encode (.extOrd 0 (BitVec.ofNat 2 o) 0)])) ∧
    ((recA true).req.ord.cls = 3 ∧ (recA true).req.write = true ∧ (recSt .fence []).cs.arec = [] ∧ (recSt .fence [recA true]).cs.arec ≠ [] ∧ ((recSt .fence [recA true] [encode (.extOrd 0 2 0)]).cs.unit.ordOf 0).order = 2) ∧
    (∀ i ∈ [Instr.fld 0 3 10 0, .fst 0 3 10 0, .famo 0 3 10 4, .fcas 0 3 10 4],
      Issues i (recSt i []) ∧ (recSt i []).cs.sc 10 = 1 <<< 54 ∧ (recSt i []).cs.arec.length < 64 ∧ recordHolds (recSt i []).cs 0 [⟨0, 1 <<< 54, 8⟩] = false) ∧
    (let s := recSt .nop []
     mayReach s (fabDev (1 <<< 54)) = true ∧ mayReach s (fabDev (2 <<< 54)) = false ∧ fabDev (1 <<< 54) ≠ s.devNum ∧
       streamFull s s.cs.die 0 [(0, 1 <<< 54, 8)] = false ∧ l1Waits s (fun _ => true) = none) := by decide +kernel

theorem w_FabricWordsToTheOwnDevice :
    (∀ x ∈ [(Instr.fld 0 3 11 0, AKind.read), (.fst 0 3 11 0, .write)], let s := ownSt x.1
     Issues x.1 s ∧ s.cs.sc 11 = 0x1000 ∧ fabDev 0x1000 = s.devNum ∧ s.assigned = true ∧ s.cs.arec.length < 64 ∧ recordHolds s.cs 0 [⟨0, 0x1000, 8⟩] = false ∧ l1Waits s (fun _ => true) = none ∧
     resolveFab s.begun (fld s.cs.ctx 16 6) x.2 ((List.range 8).map (fun j => (j, Loc.fab (0x1000 + BitVec.ofNat 64 j)))) =
       .ok ((List.range 8).map (fun j => (j, Loc.dev (0x40000000 + j)))) ∧
     (∀ j < 8, s.bad (0x40000000 + j) = false ∧ devWait s (x.2 == .write) (0x40000000 + j) = none)) := by decide +kernel

/-- The same with 8,192 unanswered packets of the stream. -/
def fullSt (i : Instr) : State :=
  { recSt i [] with pending := List.replicate 8192 { xid := 0, pkt := { type := ptREAD, ddev := 1, sdie := (recSt i []).cs.die, sdev := 0, part := 0, arg := 0, seq := 1 } } }

theorem w_FabricWordWaits :
    Issues (.fld 0 3 10 0) (fullSt (.fld 0 3 10 0)) ∧
    (let s := fullSt (.fld 0 3 10 0)
     mayReach s (fabDev (1 <<< 54)) = true ∧ streamFull s s.cs.die 0 [(0, 1 <<< 54, 8)] = true) := by decide +kernel

/-- Vector registers 1 to 3 hold data, data queue 0 an entry; `t` adds the rest. -/
def vecSt (i : Instr) (t : Strand := {}) : State :=
  cst i { t with s := regs, v := [(1, 1), (2, BitVec.allOnes 4096), (3, 0x7FC00000)], m := [(1, 0xFF)], dq := [(0, [{}])] }

/-- The word issues and is settled under SCBM 2, and under SCBM 0 where nothing is pending. -/
abbrev vecOk (sfu : Bool) (i : Instr) : Prop :=
  (Issues i (vecSt i) ∧ Settled i sfu (vecSt i)) ∧ Issues i (vecSt i { scbm := 0 }) ∧ Settled i sfu (vecSt i { scbm := 0 })

theorem w_VectorIntegerWordsComplete : ∀ k ∈ [0, 3, 7], let y := BitVec.ofNat 3 k
    ∀ i ∈ [Instr.vadd y 3 1 2 0, .vadd y 57 56 2 1, .vsub y 3 1 2 0, .vmul y 0 1 2 0, .vmulh y 3 2 2 0, .vmad y 3 1 2 0, .vabs y 3 2 0, .vneg y 3 2 1, .vmin y 3 1 2 0, .vmax y 3 1 2 0,
      .vand y 3 1 2 0, .vor y 3 1 2 0, .vxor y 3 3 3 0, .vnot y 3 3 0, .vshl y 3 1 2 0, .vshr y 3 2 2 0, .vpopc y 3 2 0, .vclz y 3 1 0, .vaddi y 3 1 63 0, .vshli y 3 1 3 0, .vshri y 3 2 3 0],
      vecOk false i := by decide +kernel

theorem w_VectorFieldAndMoveWordsComplete : ∀ k ∈ [4, 5, 6, 7], let y := BitVec.ofNat 3 k
    ∀ i ∈ [Instr.vbfx y 3 1 2 0, .vbfi y 3 1 2 0, .vfshl y 3 1 2 0, .vfshr y 3 1 2 1, .vmov y 57 56 0, .vbcast y 3 1 0, .vperm y 3 1 2 0, .vshuf y 3 1 2 0, .vrot y 3 1 7 0, .vidx y 3 7 0,
      .vlut y 3 1 2 0, .vsel y 3 1 2 0, .vext y 3 1 7 0, .vins y 3 1 7 0], vecOk false i := by decide +kernel

theorem w_VectorFloatWordsComplete : (∀ k ∈ [5, 6, 7], let y := BitVec.ofNat 3 k
    ∀ i ∈ [Instr.vfadd y 3 1 2 0, .vfsub y 3 1 2 0, .vfmul y 3 1 2 0, .vfma y 3 1 2 1, .vfmin y 3 1 2 0, .vfmax y 57 56 2 0, .vfabs y 3 2 0, .vfneg y 3 2 0], vecOk false i) ∧
    (∀ i ∈ [Instr.vcvt 7 3 1 0 0 0 5 0, .vcvt 7 4 1 0 0 0 3 0, .vcvt 3 3 1 1 0 0 7 0, .vcvt 6 57 56 0 1 0 7 1, .vcvt 5 3 1 0 0 1 4 0], vecOk false i) := by decide +kernel

theorem w_CompareAndMaskWordsComplete : (∀ k ∈ [0, 5, 7], let y := BitVec.ofNat 3 k
    ∀ i ∈ [Instr.vcmpEq y 1 1 2 0, .vcmpNe y 15 1 2 0, .vcmpLt y 1 1 2 0, .vcmpGe y 1 1 2 1], vecOk false i) ∧ (∀ k ∈ [5, 6, 7], let y := BitVec.ofNat 3 k
    ∀ i ∈ [Instr.vfcmpEq y 1 1 2 0, .vfcmpLt y 1 1 2 0, .vfcmpLe y 1 1 2 0, .vfcmpUn y 1 1 3 0], vecOk false i) ∧
    (∀ i ∈ [Instr.mand 1 1 2 0, .mor 1 1 2 0, .mxor 0 1 1 0, .mnot 1 1 0, .mpopc 3 1 0, .mfirst 3 2 0, .msetLt 1 8 0, .msetGe 1 7 0, .msetQ 1 56 0], vecOk false i) ∧
    ((vecSt .nop).cs.vname {} 18 56 = .queue 0 ∧ (vecSt .nop).cs.dataq 0 = [{}]) := by decide +kernel

theorem w_ReductionAndScanWordsComplete : (∀ k ∈ [0, 3, 7], let y := BitVec.ofNat 3 k
    ∀ i ∈ [Instr.vredAdd y 3 1 0, .vredMax y 3 2 0, .vredMin y 3 56 0, .vscanAdd y 3 1 0 0], vecOk false i) ∧ (∀ k ∈ [5, 6, 7], let y := BitVec.ofNat 3 k
    ∀ i ∈ [Instr.vfredAdd y 3 1 0, .vfredMax y 3 3 0, .vfredMin y 57 3 1, .vscanAdd y 3 1 1 0], vecOk false i) := by decide +kernel

theorem w_QuantisationAndAttentionWordsComplete : (∀ k ∈ [0, 1, 2, 3, 4], let y := BitVec.ofNat 3 k
    ∀ i ∈ [Instr.vquant y 3 1 2 0, .vdequant y 3 1 0], vecOk false i) ∧
    (∀ i ∈ [Instr.vsmxUpd 3 1 2 0, .vsmxFin 3 1 2 0, .vsmxFin 3 1 1 1, .vrbias 3 1 2 0], vecOk false i) ∧
    (vecSt .nop).cs.vname {} 17 2 = .reg 2 ∧ elemAt ((vecSt .nop).cs.vr 1) 32 1 % 2 ^ 31 = 0 ∧ elemAt ((vecSt .nop).cs.vr 2) 32 1 % 2 ^ 31 ≠ 0 := by decide +kernel

/-- A pending write of V1 that is complete one cycle after the word issues. -/
noncomputable def pendA : PendWrite := ⟨false, 1, 7, Config.issueDelay 0 + 1, none, 0⟩

theorem w_ScoreboardModesOfEarlyReads : ∀ m ∈ [0, 1, 2], let i := Instr.vadd 7 3 1 2 0
    let s := vecSt i { scbm := BitVec.ofNat 2 m, pend := [pendA] }
    Issues i s ∧ s.cs.vname s.cs.unit 18 1 = .reg 1 ∧ s.cs.vname s.cs.unit 17 2 = .reg 2 ∧ s.cs.pend = [pendA] ∧ pendA.isMask = false ∧ pendA.idx = 1 ∧
    max s.cs.vclk s.cs.cyc + Config.issueDelay s.free < pendA.ready ∧ s.cs.unit.ext 4 = none := by
  intro m hm
  have h : ∀ m ∈ [0, 1, 2], let s := vecSt (.vadd 7 3 1 2 0) { scbm := BitVec.ofNat 2 m, pend := [pendA] }
      Issues (.vadd 7 3 1 2 0) s ∧ s.cs.vname s.cs.unit 18 1 = .reg 1 ∧ s.cs.vname s.cs.unit 17 2 = .reg 2 ∧ s.cs.unit.ext 4 = none := by decide +kernel
  obtain ⟨h1, h2, h3, h4⟩ := h m hm
  exact ⟨h1, h2, h3, rfl, rfl, rfl, by simp [vecSt, cst, pendA, State.reset], h4⟩

theorem w_SpecialFunctionWordsComplete : (∀ k ∈ [5, 6, 7], let y := BitVec.ofNat 3 k
    ∀ i ∈ [Instr.sfuExp2 y 3 1 0, .sfuLog2 y 3 2 7, .sfuRcp y 3 1 0, .sfuRsqrt y 57 56 0, .sfuSin y 3 1 0, .sfuCos y 3 1 0, .sfuSqrt y 3 2 0, .tint y 3 1 7 0], vecOk true i) ∧
    (∀ i ∈ [Instr.tload 0 1 0 0, .tload 2 1 7 0, .topkInit 7 1 0, .topkInit 3 7 0, .topkFeed 7 1 2 0, .topkEmit 3 8 0 0, .topkEmit 57 8 2 0, .topkEmit 3 8 1 0, .topkQ 3 0],
      Issues i (vecSt i { topk := { kc := 2, ty := some 7, held := [(5, 1)] } }) ∧ Settled i true (vecSt i)) ∧
    (vecSt .nop).cs.vname {} 19 57 = .queue 1 ∧ (vecSt .nop).cs.vname {} 19 3 = .reg 3 := by decide +kernel

/-- A descriptor on tile SRAM without scales: rows, columns, format, and the chunk's rows and columns. -/
def mdesc (rows cols fmt trows tcols : Nat) : Desc :=
  setField (setField (setField (setField (setField (setField (setField 0 0 8 0x6A0000000000) 0x20 8 128) 0x28 4 rows) 0x2C 4 cols) 0x34 1 trows) 0x35 1 fmt) 0x3C 2 tcols

/-- Operands of one byte per element: `rows` by `cols`. -/
def mop (rows cols : Nat) : Desc := mdesc rows cols 3 16 32

/-- Team 1 holds the array of its core pair; D1 to D4 hold the descriptors. -/
def mtxSt (i : Instr) (d1 d2 : Desc) (d3 : Desc := 0) (c : Option MtxCmd := none) (g : Option Nat := some 1) : State :=
  let a : Team := { id := 1, frames := [3, 4], hdr := { tsram := 131072 } }
  let t : Strand := { s := regs, d := [(1, d1), (2, d2), (3, d3)], mtx := c }
  { cst i t with teams := [a], arrays := [(0, { grant0 := g, spec := 1, wb := [(1, { k := 32, n := 4, fmt := 3 }), (2, { k := 32, fmt := 3 })] })] }

theorem w_MatrixCommandsStart :
    (let s := mtxSt (.mmt 0 1 2 0 0 0 0 0) (mop 4 32) (mop 32 4)
     Issues (.mmt 0 1 2 0 0 0 0 0) s ∧ ArrayFree s [0] ∧ descOk (mop 4 32) = true ∧ descOk (mop 32 4) = true ∧ dSPN (mop 32 4) = 0 ∧ dROWS (mop 4 32) ≤ 128 ∧
     depthOf (mop 4 32) % 32 = 0 ∧ depthOf (mop 4 32) = dROWS (mop 32 4) ∧ pairOk 3 0 3 0 = true ∧ dROWS (mop 4 32) ≠ 0 ∧ dCOLS (mop 32 4) ≠ 0) ∧
    (let s := mtxSt (.mmt 3 1 2 15 0 1 0 1) (mop 128 0) (mop 0 128)
     Issues (.mmt 3 1 2 15 0 1 0 1) s ∧ ArrayFree s [3] ∧ descOk (mop 128 0) = true ∧ depthOf (mop 128 0) = dROWS (mop 0 128) ∧ depthOf (mop 128 0) = 0 ∧ (s.array s.cs.arrayNo).bad = []) ∧
    (let s := mtxSt (.mmt 3 1 2 15 0 0 1 1) 0 0
     Issues (.mmt 3 1 2 15 0 0 1 1) s ∧ ArrayFree s [3] ∧ descOk 0 = false) ∧
    (let s := mtxSt (.mmt 0 1 2 0 0 0 0 0) 0 0 0 none none
     Issues (.mmt 0 1 2 0 0 0 0 0) s ∧ s.hasShare s.cs = false) ∧
    (let s := mtxSt (.mmt 0 1 2 0 0 0 0 0) 0 0 0 (some cmdA)
     Issues (.mmt 0 1 2 0 0 0 0 0) s ∧ s.hasShare s.cs = true ∧ s.mtxHolds s.cs [0] = true) := by decide +kernel

theorem w_MatrixCommandsStart_of_buffers_and_attention :
    (let s := mtxSt (.mmtWb 0 1 1 0 0 0 0) (mop 4 32) 0
     Issues (.mmtWb 0 1 1 0 0 0 0) s ∧ ArrayFree s [0, 9] ∧ ((s.array 0).wbuf 1).k = depthOf (mop 4 32) ∧ ((s.array 0).wbuf 1).n = 4) ∧
    (let s := mtxSt (.mmtWb 0 1 2 0 0 1 1) (mop 4 32) 0
     Issues (.mmtWb 0 1 2 0 0 1 1) s ∧ ArrayFree s [0, 10] ∧ ((s.array 0).wbuf 2).k = 32 ∧ ((s.array 0).wbuf 2).n = 0 ∧ (s.array s.cs.arrayNo).bad = []) ∧
    (let s := mtxSt (.attb 0 1 2 0 0 0) (mop 4 32) (mop 32 4) (mop 4 128)
     Issues (.attb 0 1 2 0 0 0) s ∧ ArrayFree s [0, 1] ∧ descOk (mop 4 128) = true ∧ attbFmt (mop 4 32) = true ∧ dROWS (mop 32 4) = dCOLS (mop 4 32) ∧
     dROWS (mop 4 128) = dCOLS (mop 32 4) ∧ dCOLS (mop 4 128) ≤ 128 ∧ dCOLS (mop 4 32) % 32 = 0) ∧
    (let s := mtxSt (.attb 1 1 2 0 1 1) (mop 4 32) (mop 32 0) (mop 0 1)
     Issues (.attb 1 1 2 0 1 1) s ∧ ArrayFree s [2, 3] ∧ descOk (mop 32 0) = true ∧ descOk (mop 0 1) = true ∧ dCOLS (mop 32 0) = 0 ∧ dROWS (mop 0 1) = 0) := by decide +kernel

theorem w_TileWordsComplete :
    (∀ i ∈ [Instr.scommit 0 0, .scommit 3 15, .sdrop 0 0, .accz 0 0 0, .accz 3 1 1, .accmv 0 3 1 0 0, .accmv 0 57 7 1 1],
      Issues i (mtxSt i 0 0) ∧ ArrayFree (mtxSt i 0 0) [0] ∧ ArrayFree (mtxSt i 0 0) [3]) ∧
    (let d := mdesc 4 8 7 8 16
     (∀ i ∈ [Instr.accld 0 1 0 0, .accld 0 1 3 1, .accst 0 1 0 0 0], Issues i (mtxSt i d 0) ∧ (mtxSt i d 0).cs.mreq = none ∧ (mtxSt i d 0).cs.mdesc = none) ∧ ready (mtxSt .nop d 0) .read 0 (regionElems d) = true ∧ ready (mtxSt .nop d 0) .write 0 (regionElems d) = true ∧
     descOk d = true ∧ dMODE d = 0 ∧ dSPN d = 0 ∧ dROWS d ≤ 128 ∧ dCOLS d ≤ 128 ∧ dFMT d = 7) ∧
    (let d := mdesc 4 8 5 16 16
     Issues (.accst 0 1 0 1 1) (mtxSt (.accst 0 1 0 1 1) d 0) ∧ ready (mtxSt .nop d 0) .write 0 (regionElems d) = true ∧ descOk d = true ∧ dFMT d ≠ 7 ∧ dFMT d ≠ 14) ∧
    (let d := mop 32 4; let i := Instr.wbload 1 1 0
     Issues i (mtxSt i d 0) ∧ ArrayFree (mtxSt i d 0) [9] ∧ (mtxSt i d 0).cs.mreq = none ∧ (mtxSt i d 0).cs.mdesc = none ∧ ready (mtxSt i d 0) .read 0 (wbElems d) = true ∧ descOk d = true ∧ dROWS d % 32 = 0 ∧ dSPN d = 0 ∧
     isFloatOp (dFMT d) (dMODE d) = true ∧ wbSize d ≤ 131072) := by decide +kernel

/-- The same with part `n` of the array damaged. -/
def badSt (i : Instr) (d : Desc) (n : Nat) (c : Option MtxCmd := none) : State :=
  let s := mtxSt i d 0 0 c
  s.setArray 0 { s.array 0 with bad := [n] }

theorem w_TileWordsComplete_of_damaged_tiles :
    ((mtxSt .nop 0 0).array 0).bad = [] ∧
    (∀ x ∈ [(Instr.accmv 0 3 1 0 0, 0), (.accmv 0 3 1 1 0, 12), (.accst 0 1 0 0 0, 0), (.accst 0 1 0 1 0, 12)], let s := badSt x.1 (mdesc 4 8 7 8 16) x.2
      Issues x.1 s ∧ ArrayFree s [0] ∧ x.2 ∈ (s.array s.cs.arrayNo).bad ∧ (s.array s.cs.arrayNo).spec.getLsbD 0 = true ∧ s.cs.mreq = none ∧ s.cs.mdesc = none) := by decide +kernel

def camCmd (d : Nat) (rel z : Bool) : MtxCmd := { unit := {}, opcode := 0, acc := 0, a := mop 4 d, b := mop d 4, rel := rel, z := z }

theorem w_CamStepsAddOneChunk :
    (∀ d ∈ [32, 64], let c := camCmd d false true
     let s := mtxSt .nop 0 0 0 (some c)
     let es := (keptReq c (stepReads c.a (some c.b) c.step) 44).elems
     s.camReady s.cs = true ∧ s.cs.mreq = none ∧ (s.array s.cs.arrayNo).bad = [] ∧ es.all (fun e => (refusedAt s.cs.answered e.va e.size).isNone) = true ∧
     within { spaceOf s.cs s.csTeam with priv := c.priv } s .read es = true ∧
     ((0 + 1) * 32 = depthOf (camCmd d false true).a ↔ d = 32)) ∧
    (∀ x ∈ [(false, 0), (true, 12)], let c := { camCmd 64 false true with step := 1, spec := x.1 }
     let s := badSt .nop 0 x.2 (some c)
     s.cs.mtx = some c ∧ s.camReady s.cs = true ∧ x.2 ∈ (s.array s.cs.arrayNo).bad ∧ s.tileNo s.cs c.acc = 0 ∧ (s.array s.cs.arrayNo).spec.getLsbD 0 = true) ∧
    (Sparse.wf (0 : Word) [(0, 1)] = true ∧ (mtxSt .nop 0 0).cs.mtx = none ∧ (mtxSt .nop 0 0 0 (some (camCmd 32 false true)) none).camReady { mtx := some cmdA } = false) ∧
    (let s := mtxSt .nop 0 0 0 (some (camCmd 32 true true))
     s.cs.mtx = some (camCmd 32 true true) ∧ s.cs.live = true ∧ s.cs.arrayNo = 0 ∧ s.arrayIdle 1 = true ∧ s.arrayOpen s.cs.part 1 = true ∧ operandsInTile s (camCmd 32 true true) = true ∧ (1 : Nat) / 4 = s.cs.arrayNo / 4) := by decide +kernel

/-- Entry 0 is the running context; tile SRAM holds its handle at byte 0x1C; guest queue 3 is valid for partition 0, queue 4 for partition 1. -/
def xferSt (i : Instr) (t : Strand := {}) (ops : List XOp := []) : State :=
  let r : Sparse Dword := [(1, 0x6A0000000000), (2, 0x6A0000000001), (3, 64), (4, 0x6A0000001000), (5, 0x6A0000000020), (6, 3), (7, 4), (8, 9), (9, 0x2000000000), (10, 0x100000001), (11, 0x500400000), (12, 0x100000000000), (13, 0x100400000)]
  let a : Team := { id := 1, ctx := 0x400000, placed := true, frames := [3], hdr := { tsram := 65536 } }
  let s := { cst i { t with s := r, ctx := 0x400000 } with teams := [a], ctxs := [(0, { state := .running })], arrays := [(0, { grant0 := some 1 })], mem := [(tileBase 0 0 + 3 * 2 ^ 16 + 0x1E, 0x40)], ops := ops }
  (((s.setBar 0x2100 0x8000000000000005).setBar (gqOff 3) 1).setBar (gqOff 4) 1).setBar (gqOff 4 + 0x10) 1

def followSt (i : Instr) : State := xferSt i { unit := { follow := some (0x1004, encode (.mmt 0 1 2 0 0 0 0 0), []) } }

theorem w_TransferWordsIssue :
    (∀ i ∈ [Instr.copy 1 4 3 0, .copy 1 1 3 15, .copy 1 4 10 0, .copy 1 1 0 0, .collOpen 1 0, .collOpen 2 0, .collRed 1 3, .collRed 2 3, .collBar 1 0, .collBar 2 0, .collClose 1 0, .collClose 2 1, .gready 6 1 0, .gready 6 2 0, .gunready 6 1 0,
        .gunready 6 2 0, .grecv 1 0, .grecv 2 0, .gqwait 1 0, .gqwait 5 0, .gqwait 2 0, .gsend 9 5 0 1, .gsend 9 5 1 1, .gsend 12 5 0 0, .gsend 9 2 0 0, .gsend 1 1 0 0, .gqpush 6 1 0, .gqpush 7 1 0, .gqpush 8 1 0, .gqpush 6 2 0, .launch 1 0, .mbsend 11 0 7 3 0, .mbsend 13 1 0 3 2],
      Issues i (xferSt i)) ∧
    (let s := xferSt .nop
     s.cs.xpend = none ∧ faultedOp s = none ∧ s.cs.unit.releases = none ∧ releaseWaits s.cs none = false ∧ s.cs.mreq = none ∧
     gqValid s 3 = true ∧ gqPart s 3 = s.cs.part ∧ gqValid s 4 = true ∧ gqPart s 4 ≠ s.cs.part ∧ gqValid s 9 = false ∧
     ready s .read 0 [⟨0, 0x6A0000000000, 64⟩] = true ∧ handleFault s 0x400000 = none ∧ (s.cs.sc 11).extractLsb' 32 10 = s.devNum ∧ (s.cs.sc 13).extractLsb' 32 10 ≠ s.devNum) ∧
    (let s := xferSt .nop
     (s.cs.sc 3).toNat ≤ (s.cs.sc 4 - s.cs.sc 1).toNat ∧ (s.cs.sc 3).toNat ≤ (s.cs.sc 1 - s.cs.sc 4).toNat ∧ ¬ (s.cs.sc 3).toNat ≤ (s.cs.sc 1 - s.cs.sc 1).toNat ∧
     2 ^ 32 < (s.cs.sc 10).toNat ∧ (s.cs.sc 9).toNat / 2 ^ 32 % 2 ^ 16 % 32 = 0 ∧ (s.cs.sc 12).toNat / 2 ^ 32 % 2 ^ 16 = 4096) := by decide +kernel

theorem w_TransferWordsIssue_of_followed_answered_and_faulted :
    (Issues (.copyMmt 1 4 3 1) (followSt (.copyMmt 1 4 3 1)) ∧ ((followSt (.copyMmt 1 4 3 1)).cs.unit.followUnit.any (fun u => (followFate (followSt (.copyMmt 1 4 3 1)) u).isNone)) = true ∧
     (followSt .nop).hasShare (followSt .nop).cs = true) ∧
    (let o : XOp := { kind := .mbsend, team := 1, tile := 0x1000, asked := true, answered := [(0, .fabricError)] }
     let s := xferSt (.mbsend 13 1 0 3 2) {} [o]
     Issues (.mbsend 13 1 0 3 2) s ∧ s.ops.find? (fun q => q.isCheck && q.team == s.cs.team && q.sid == s.cs.sid && q.unit.seq == s.cs.unit.seq) = some o) ∧
    (let s := (xferSt (.mbsend 13 1 0 3 2)).setBar 0x8008 0
     s.ops = [] ∧ carries s ptMBOX (s.cs.sc 13 |>.extractLsb' 32 10) = false ∧ (s.cs.sc 13).extractLsb' 32 10 ≠ s.devNum ∧ carries (recSt .nop []) ptMBOX 1 = true) ∧
    Issues (.gqwait 1 0) (xferSt (.gqwait 1 0) { xpend := some { kind := .copy } }) ∧
    (let o : XOp := { kind := .copy, team := 1, stat := .fault .pageFault 7 }
     Issues (.gqwait 1 0) (xferSt (.gqwait 1 0) {} [o]) ∧ faultedOp (xferSt (.gqwait 1 0) {} [o]) = some o) := by decide +kernel

/-- The plan of an operation's access succeeds on places of this device that are undamaged and not held by the host. -/
def opGood (s : State) (o : XOp) (k : AKind) (es : List Elem) : Bool :=
  match planElems (opSpace s o) k es (s, []) with
  | (u, .ok p) => (u.op? o.id).isSome && (l1Waits u (fun _ => true)).isNone && p.all (fun c => !c.2.isFab && !u.bad c.2.key && match c.2 with | .dev a => (devWait u k.writes a).isNone | _ => true)
  | _ => false

def copyA : XOp := { id := 7, kind := .copy, team := 1, ctx := 0x400000, tile := 0, x := 0x6A0000000000, y := 0x6A0000001000, z := 64 }
def waitA : XOp := { id := 7, kind := .gqwait, team := 1, ctx := 0x400000, x := 0x6A0000000018 }
def mmtA : XOp := { id := 7, kind := .copyMmt, team := 1, unit := { follow := some (0x1004, encode (.mmt 0 1 2 0 0 0 0 0), []) } }

/-- Both accesses of the copy's one piece are performed, in turn. -/
def copySteps (s : State) (o : XOp) : Bool :=
  s.holdTurn o.id && (match runFor s o.team (opSpace s o) (readReq o.y o.z.toNat) with
    | .done u imgs =>
      let bytes := imgBytes imgs o.z.toNat
      let s1 := ((u.unhold o.id).onOp o.id (fun o => { o with answered := [], asked := false, here := false, part := [] })).onOp o.id (fun o => { o with payload := o.payload ++ bytes })
      let o1 : XOp := { o with answered := [], asked := false, here := false, part := [], payload := bytes }
      decide (s1.op? o.id = some o1) && s1.holdTurn o.id &&
        (match runFor s1 o1.team (opSpace s1 o1) (writeReq o.x bytes) with | .done .. => true | _ => false)
    | _ => false)

theorem w_TransferOperationsProceed :
    (let s := xferSt .nop { xpend := some copyA } []
     s.cs.xpend = some copyA ∧ s.cs.live = true ∧ acceptable s copyA = true ∧ (xferSt .nop { xpend := some copyA } (List.replicate 64 copyA)).cs.xpend = some copyA ∧
     acceptable (xferSt .nop { xpend := some copyA } (List.replicate 64 copyA)) copyA = false ∧ (xferSt .nop).cs.xpend = none) ∧
    (let s := xferSt .nop {} [copyA]
     s.op? 7 = some copyA ∧ s.op? 8 = none ∧ (∀ p ∈ s.ops, p.id = 7) ∧ copyA.faulted = false ∧ copyA.progress < copyA.z.toNat ∧ ({ copyA with z := 0 } : XOp).z.toNat ≤ 0 ∧
     0x1000 % 4096 + 64 ≤ 4096 ∧ opGood s copyA .read [⟨0, 0x6A0000001000, 64⟩] = true ∧
     opGood s copyA .write [⟨0, 0x6A0000000000, 64⟩] = true ∧ (xferSt .nop {} [{ copyA with stat := .fault .arith 0 }]).op? 7 = some { copyA with stat := .fault .arith 0 } ∧
     (xferSt .nop {} [{ copyA with kind := .mbsend }]).op? 7 = some { copyA with kind := .mbsend }) ∧
    (let o : XOp := { copyA with kind := .mbsend, x := 0x500400000 }
     let m : XOp := { o with x := 0x100400000 }
     (xferSt .nop {} [o]).op? 7 = some o ∧ o.isFree = false ∧ o.faulted = false ∧ o.asked = false ∧ o.x.extractLsb' 32 10 = (xferSt .nop).devNum ∧ (xferSt .nop).handleOk 0x400000 = true ∧
     (xferSt .nop).handleOk 0x800000 = false ∧ (xferSt .nop {} [m]).op? 7 = some m ∧ m.x.extractLsb' 32 10 ≠ (xferSt .nop).devNum ∧ carries ((xferSt .nop).setBar 0x8008 0x40) ptMBOX (m.x.extractLsb' 32 10) = true ∧
     carries ((xferSt .nop).setBar 0x8008 0) ptMBOX (m.x.extractLsb' 32 10) = false) ∧
    copySteps (xferSt .nop {} [copyA]) copyA = true ∧ copyA.isFree = false ∧ copyA.asked = false ∧ copyA.payload = [] ∧ copyA.flag = false ∧ copyA.ord.isAcquire = false ∧
    (let s := xferSt .nop {} [waitA]
     s.op? 7 = some waitA ∧ waitA.isFree = false ∧ waitA.asked = false ∧ s.holdTurn 7 = true ∧ (match runFor s 1 (opSpace s waitA) (readReq waitA.x 8) with | .done .. => true | _ => false) = true ∧
     (∀ m, s.team? waitA.team = some m → m.placed = true) ∧ opGood s waitA .read [⟨0, waitA.x, 8⟩] = true) ∧
    (let s := xferSt .nop { d := [(1, mop 4 32), (2, mop 32 4)] } [{ mmtA with flag := true }]
     s.op? 7 = some { mmtA with flag := true } ∧ (xferSt .nop {} [mmtA]).op? 7 = some mmtA ∧ s.cs.frame = none ∧ mmtA.unit.followUnit.any (fun fu => !s.cs.tokHolds fu &&
      match followAct (s.onCs (fun t => { t with unit := fu })) with | .okNoSig _ => true | _ => false)) := by decide +kernel

/-- A unit of the word `i` with the place `n` in fetch order. -/
def unitOf (i : Instr) (n : Nat) : EUnit := { word := encode i, seq := n }

theorem w_PrefixesAndJoinAct :
    (∀ i ∈ [Instr.join 1 0 0 0 0 0, .join 0 1 1 1 1 1, .join 1 1 1 1 1 1], joinFate (cst i) (encode i) = none ∧ (cst i).cs.tokHolds (cst i).cs.unit = false ∧ (cst i).cs.loops = []) ∧
    joinReady ({ } : Strand) = none ∧
    (let u := unitOf (.join 1 1 0 0 0 0) 3
     (joinReady { q := { ctrl := [.joinMark u], acc := [.joinMark u] } } = some u) ∧ joinReady { q := { ctrl := [.joinMark u], acc := [.unit (unitOf .nop 2), .joinMark u] } } = none ∧
     u.word.getLsbD 16 = false) := by decide +kernel

/-- The strand fetches at TSBASE, where the word `i` lies. -/
def fetchSt (i : Instr) (t : Strand := {}) : State :=
  let s := memSt .nop
  { s with cs := { t with live := true, team := 1, pc := if t.pc = 0 then 0x6A0000000000 else t.pc }, mem := setBytes [] (tileBase 0 0 + 3 * 2 ^ 16) ((List.range 4).map (fun n => (encode i).extractLsb' (8 * n) 8)) }

theorem w_FetchAppendsOneUnit :
    (cst .nop { parkEnded := true }).cs.fetches = false ∧
    (∀ i ∈ [Instr.add 1 2 3, .ldD 0 1 2 0, .vadd 7 1 2 3 0, .mmt 0 1 2 0 0 0 0 0, .sfuExp2 7 1 2 0, .copy 1 2 3 0],
      ∀ l ∈ [0, 15, 16], let t : Strand := { q := { ctrl := List.replicate l (.unit {}), acc := List.replicate l (.unit {}) }, loops := if l = 0 then [] else [⟨0, 0x6A0000000000, 2⟩] }
      (fetchSt i t).cs.fetches = true ∧ engineOf (encode i) < 6 ∧ needsFollow (fetchSt i t).cs.q.xfer = false ∧ (fetchSt i t).csTeam.hdr.patches = [] ∧
      (match fetchRead (fetchSt i t) with | .word r w => w == encode i && queueLength (r.cs.q.get .ctrl) == l && r.csTeam.hdr.patches.isEmpty | _ => false) = true) ∧
    (match fetchRead (fetchSt .nop { pc := 0x6A0000010000 }) with | .fault _ c => c == .protection | _ => false) = true ∧
    (match fetchRead (fetchSt .nop { pc := 0x1000 }) with | .wait _ => true | _ => false) = true := by decide +kernel

def ctrlSt (i : Instr) (t : Strand := {}) : State :=
  { State.reset with cs := { t with live := true, team := 1, s := regs, q := { ctrl := [.unit (unitOf i 1)] } } }

/-- `s` with the head of its CTRL queue as the issuing unit. -/
def headOf (s : State) (i : Instr) : State := s.onCs (fun t => { t with unit := unitOf i 1, q := { t.q with ctrl := t.q.ctrl.drop 1 } })

theorem w_TimedStepsOfAStrand :
    (let t : Strand := { tvec := 0x2000 }; t.frame = none ∧ t.tvec ≠ 0 ∧ (5 : BitVec 3).toNat < 6) ∧
    ((cst .nop).cs.hangCounts = false ∧ ({ State.reset with hangctl := 0 } : State).hangctl = 0 ∧ (ctrlSt .nop).cs.hangTimer < (ctrlSt .nop).hangctl.toNat * 1000) ∧
    (let s := ctrlSt .nop { hangTimer := 50000000, tvec := 0x2000 }
     s.hangctl ≠ 0 ∧ s.cs.hangCounts = true ∧ s.hangctl.toNat * 1000 ≤ s.cs.hangTimer ∧ oldestHead s.cs = some (.ctrl, unitOf .nop 1) ∧ s.cs.frame = none ∧ s.cs.tvec ≠ 0) ∧
    (let i := Instr.evWaitt 1 4 8; let s := ctrlSt i
     s.cs.ctrlHead = some (unitOf i 1) ∧ (match decodeCtrl (encode i) with | .ok j => j == i | _ => false) = true ∧ Issues i (headOf s i) ∧
     128 ≤ (s.cs.ev 1 - (s.cs.sc 4).setWidth 8).toNat ∧ (s.cs.sc 8).toNat ≤ s.time % 2 ^ 64) ∧
    (let i := Instr.evWaitt 1 8 8; Issues i (headOf (ctrlSt i { timeUp := true }) i)) ∧
    (∀ z ∈ [3, 4, 5], let i := Instr.yieldPause; let s := ctrlSt i { pauseEnd := some z, cyc := 4 }
     s.cs.ctrlHead = some (unitOf i 1) ∧ (match decodeCtrl (encode i) with | .ok j => j == i | _ => false) = true ∧ Issues i (headOf s i) ∧ s.cs.pauseEnd = some z) ∧
    (cst .nop).cs.ctrlHead = none := by decide +kernel

/-- The strand's record holds entry 9, in the state `x`, with the packets of `p`. -/
def accSt (w : Bool) (a : Option AtomOp) (x : RecState) (p : List Pending) (o : List Out := []) : State :=
  let e : RecEntry := { seq := 9, unit := {}, req := { kind := .fabric, write := w, atom := a }, state := x }
  { cst .nop { arec := [e] } with pending := p, out := o }

def atomA : AtomOp := { kind := 0, op := 1, trap := false, size := 8, b := 1 }
def packetA : Packet := { type := 0 }

theorem w_AccessesComplete :
    ((cst .nop).holder? 9 = none ∧ isHostAtomic (cst .nop) 9 = false) ∧
    (∀ w ∈ [false, true], ∀ a ∈ [none, some atomA], let s := accSt w a .pending []
     (s.holder? 9).isSome = true ∧ (s.cs.entry? 9).any (fun e => e.state == .pending && e.fail == none && e.req.kind != .fill && e.here != 1 && e.req.write == w && e.req.atom == a) = true ∧
     s.allAnswered 9 = true ∧ isHostAtomic s 9 = false) ∧
    (accSt false none .pending [{ xid := 1, pkt := packetA, acc := some 9 }]).allAnswered 9 = false ∧
    ((accSt false none .held []).cs.entry? 9).any (fun e => e.state == .held) = true ∧ (accSt false none .nacked []).holdTurn 9 = true ∧ (accSt false none .held []).holdTurn 9 = true ∧
    ({ accSt false none .held [] with holds := [{ obj := 1, die := 0, id := 8 }, { obj := 1, die := 0, id := 9 }] }).holdTurn 9 = false ∧
    (let e : RecEntry := { seq := 9, unit := {}, req := { kind := .store, write := true }, here := 1, state := .pending }
     let s := { cst .nop { arec := [e] } with time := 0 }
     (s.holder? 9).isSome = true ∧ s.cs.entry? 9 = some e ∧ s.allAnswered 9 = true) ∧
    (let s := accSt false (some atomA) .pending [] [Out.atomicOp 9 64 0]
     isHostAtomic s 9 = true ∧ (s.holder? 9).isSome = true ∧ (s.cs.entry? 9).any (fun e => e.req.atom == some atomA && e.state == .pending) = true) := by decide +kernel

/-- The end of team 1's quantum and of its strand; team 2 waits in entry 1. -/
def teamSt (placed started ended : Bool) (faults : List Nat) (q : Nat) (x : CtxState := .ready) : State :=
  let a : Team := { id := 1, ctx := 0x400000, placed := placed, started := started, cores := [0], slots := [0], faults := faults, quantumEnd := q }
  let b : Team := { id := 2, ctx := 0x400001, started := true }
  { cst .nop { ctx := 0x400000, parkEnded := ended } with teams := [a, b], ctxs := [(0, { state := .running }), (1, { state := x })] }

theorem w_TeamsLeaveAndTakeTheirTiles :
    (teamSt true true true [] 0).team? 3 = none ∧
    (∀ f ∈ [[], [5]], ((teamSt true true true f 0).team? 1).any (fun m => m.placed && m.faults == f) = true) ∧
    ((teamSt false true true [5] 0).team? 1).any (fun m => !m.placed) = true ∧ ((teamSt true true true [] 1).team? 1).any (fun m => 0 < m.quantumEnd) = true ∧
    (let s := teamSt true true true [] 0
     (s.team? 1).any (fun m => m.placed && m.quantumEnd ≤ s.time && rival s m (fun _ => true) && m.started && teamDone s m) = true ∧ canPlace s 0 = true) ∧
    (let s := teamSt true true false [] 0 .swapped
     (s.team? 1).any (fun m => m.placed && m.quantumEnd ≤ s.time && !rival s m (fun _ => true) && !teamDone s m) = true ∧ canPlace s 0 = false) ∧
    ((teamSt true false true [] 0).team? 1).any (fun m => !m.started) = true ∧
    (seatStrands (teamSt false true true [] 0) { id := 1 } 0 3 [0]).strands.any (fun x => x.team == 1) = true := by decide +kernel

/-- A launch record of one team of one strand for the kernel at 0x1000, by entry 0. -/
def launchRec (ctx crec : Nat) : BitVec 512 :=
  setField (setField (setField (setField (setField (setField 0 0 8 0x1000) 0x1C 4 ctx) 0x20 4 1) 0x24 1 1) 0x25 1 1) 0x30 8 crec

def kernelHdr : BitVec 512 := setField (setField (setField 0 0 4 0x474B4E31) 4 2 0x100) 0xC 2 256

/-- A record waits in partition 0's queue; page 1 of entry 0 is host page 16, where the header `h` lies. -/
def launchSt (h : BitVec 512) (tail : Dword) (l : List Launch := []) : State :=
  let s := { State.reset with ctxs := [(0, { state := .parked })], tlb := [{ kind := 0, part := 0, root := 0, page := 1, frame := 16, perm := 0x0F }], launches := l, mem := setBytes [] (hostKey 0x10000) ((List.range 64).map (fun n => byteOf h n)) }
  s.setPcb 0 0x110 tail

/-- An accepted launch whose kernel is to be checked. -/
def newLaunch : Launch := { id := 1, record := launchRec 0x400000 0, kernel := true }

def failedLaunch (crec : Nat) (wait : Option Nat) : Launch := { id := 1, record := launchRec 0x400000 crec, ready := true, wait := wait }

/-- The kernel and the map lie in an object page of T2. -/
def heldMap : State :=
  { launchSt kernelHdr 1 [newLaunch] with
    tlb := [{ kind := 0, part := 0, root := 0, page := 0, frame := 2 ^ 43, perm := 0x0F, span := 0x10000 }]
    pdes := [{ obj := objOf 0 (2 ^ 55), owner := 0x400000, tier := 2 }] }

theorem w_LaunchRecordsAreAccepted :
    ((launchSt 0 0).pcbReg 0 0x108 = (launchSt 0 0).pcbReg 0 0x110 ∧ (launchSt 0 1).pcbReg 0 0x108 ≠ (launchSt 0 1).pcbReg 0 0x110) ∧
    (recordOk (launchRec 0x400000 0) true = true ∧ recordOk (launchRec 0x400000 1) true = false ∧ recordOk 0 true = false) ∧
    ((launchSt 0 1).handleOk (lCTX (launchRec 0x400000 0)) = true ∧ (launchSt 0 1).handleOk (lCTX (launchRec 0x800000 0)) = false ∧ handlePart (lCTX (launchRec 0x400000 0)) = 0 ∧
      handlePart (lCTX (launchRec 0x400000 0)) ≠ 1) ∧
    (match checkKernel (launchSt kernelHdr 1 [newLaunch]) 1 newLaunch.record with | .ok .. => true | _ => false) = true ∧
    ((launchMap (launchSt kernelHdr 1 [newLaunch]) newLaunch).2.map List.length = some 1) ∧ (launchMap heldMap { newLaunch with record := setField newLaunch.record 0x28 8 0x2000 }).2 = none ∧
    (match checkKernel (launchSt 0 1 [newLaunch]) 1 newLaunch.record with | .fail _ x => x != 0 | _ => false) = true ∧
    (match checkKernel heldMap 1 newLaunch.record with | .wait _ => true | _ => false) = true ∧
    4096 ≤ ((launchSt 0 1 (List.replicate 4096 (failedLaunch 0 none))).launches.filter (fun l => handleDie (lCTX l.record) == handleDie (lCTX (launchRec 0x400000 0)) && l.status ≠ statusBadRecord && l.status ≠ statusStale)).length ∧
    newLaunch.kernel = true ∧ (failedLaunch 0 none).kernel = false ∧ (launchSt 0 1 [newLaunch]).launches.find? (fun l => l.id == 1) = some newLaunch ∧
    (launchSt 0 1).ops = [] ∧
    ((launchSt 0 1 [failedLaunch 0 none]).launches.find? (fun l => l.id == 1) = some (failedLaunch 0 none) ∧ (failedLaunch 0 none).ready = true ∧
      lCREC (failedLaunch 0 none).record = 0 ∧ lKIND (failedLaunch 0 none).record = 0) ∧
    ((launchSt 0 1 [{ id := 1 }]).launches.find? (fun l => l.id == 1)).any (fun l => !l.ready) = true := by decide +kernel

/-- A page of entry 0 in the tier `t`, and entry 0 in the state `x` with its predicted wake time. -/
def wakeSt (x : CtxState) (w : Option Nat) (p : List Pde) (c : Option ParkCond := none) : State :=
  { State.reset with ctxs := [(0, { state := x, wake := w, cond := c })], pdes := p, teams := [{ id := 1, ctx := 0x400000, faults := [5] }] }

def pageA (t : BitVec 2) (k : Option (BitVec 2)) : Pde := { obj := 3, tier := t, owner := 0x400000, parkTier := k, frame := tileBase 0 0 }

theorem w_WakesAndResidencySteps :
    (∀ x ∈ [CtxState.ready, .running], ((wakeSt x none []).entry 0).state = x ∧ ((wakeSt x none []).entry 0).cond = none ∧ (wakeSt x none []).pdes = []) ∧
    (let c : ParkCond := { named := 1 }; let d : ParkCond := { named := 4, deadline := some 0 }
     ((wakeSt .parked none [] (some c)).entry 0).cond = some c ∧ condHolds (wakeSt .parked none []) c 0 = 0 ∧ condHolds (wakeSt .parked none []) d 0 ≠ 0 ∧
     condHolds (wakeSt .swapped none [] (some d)) d 0 ≠ 0 ∧ ((wakeSt .swapped none [] (some d)).entry 0).cond = some d ∧ ((wakeSt .swapped none [] (some d)).entry 0).state = .swapped ∧
     ((wakeSt .parked none [] (some d)).entry 0).state ≠ .free) ∧
    ((wakeSt .parked none []).team? 2 = none ∧ (wakeSt .parked none []).teams.all (fun m => m.id != 2) = true ∧ ((wakeSt .parked none []).team? 1).any (fun m => !m.placed) = true) ∧
    (((wakeSt .parked none []).entry 0).wake = none ∧ (0 : Nat) ≤ 0 + thresholdT0 (wakeSt .parked (some 0) []) ∧ (0 : Nat) ≤ 0 + thresholdT1 (wakeSt .parked (some 0) [])) ∧
    (let p := pageA 0 none; let s := wakeSt .parked (some 2000001) [p]
     handleIndex p.owner = 0 ∧ p.tier = 0 ∧ p.mig = none ∧ p.queued = [] ∧ p.pins = [] ∧ p.shared = false ∧ (s.entry 0).state = .parked ∧ (s.entry 0).wake = some 2000001 ∧
     s.time + thresholdT0 s < 2000001 ∧ 2000001 ≤ s.time + thresholdT1 s ∧
     (chooseFrame (s.onPde p.obj (fun p => { p with parkTier := some (p.parkTier.getD p.tier) })) p.owner 1).isSome = true) ∧
    (let p := pageA 1 (some 0); let s := wakeSt .parked none [p]
     p.needsRecall = true ∧ p.mig = none ∧ p.queued = [] ∧ p.shared = false ∧ inputObjs s 0 = [] ∧ (s.entry 0).state = .parked ∧ (s.entry 0).recalls = [] ∧
     (chooseFrame ((s.setEntry 0 { s.entry 0 with recalling := false }).addRecall 0 { pages := [(p.obj, p.recallTier)] } |>.onPde p.obj (fun p => { p with parkTier := none, queued := [] })) p.owner (nextTier p.tier p.recallTier)).isSome = true) ∧
    ((wakeSt .parked none []).pdes = [] ∧ ((wakeSt .parked none []).entry 0).state ≠ .swapped ∧ ((wakeSt .parked none []).entry 0).recalls = []) := by decide +kernel

/-- Object 3 in tier 1 with the migration `m`. -/
def migSt (m : Option Migration) (t : BitVec 2 := 1) (a : BitVec 5 := 0) (bad held : List Nat := []) : State :=
  let p : Pde := { obj := 3, tier := t, owner := 0x400000, frame := 0x20000, oldFrame := 0x30000, moving := m.isSome, mig := m, acks := a }
  { State.reset with pdes := [p], poison := bad, bidir := held }

def migA (drained copied rebinding : Bool) (t : BitVec 2 := 0) : Migration := { tier := t, frame := 0x40000, drained := drained, copied := copied, rebinding := rebinding }

theorem w_MigrationStepsOfAPage :
    ((migSt none).pde? 4 = none ∧ ((migSt none).pde? 3).any (fun p => p.mig == none) = true) ∧
    (∀ m ∈ [migA false false false, migA true false false, migA true false false 2, migA true true false, migA true true true],
      ((migSt (some m)).pde? 3).any (fun p => p.mig == some m && p.queued == []) = true ∧ m.line = false) ∧
    (heldLine (migSt (some (migA false false false)) 1 0 [] [0x20000 / 64]) 0x20000).isSome = true ∧ (migSt (some (migA false false false))).pdes.all (fun q => q.queued.isEmpty) = true ∧
    (copyWait (migSt (some (migA true false false)) 1 0 [] [0x40000 / 64]) 0x20000 0x40000).isSome = true ∧ copyWait (migSt (some (migA true false false))) 0x20000 0x40000 = none ∧ heldLine (migSt (some (migA false false false))) 0x20000 = none ∧
    0x20000 / 32 + 2047 ∈ (migSt (some (migA false false false)) 1 0 [0x20000 / 32 + 2047]).poison ∧ (migSt (some (migA false false false))).poison = [] ∧
    Memory.wf (migSt (some (migA true false false))).mem = true ∧ 0x20000 + 65536 ≤ (migA true false false).frame ∧ (migSt none).resolves = [] ∧
    ((16 : BitVec 5) ||| BitVec.ofNat 5 (2 ^ (2 : BitVec 2).toNat) ≠ 31 ∧ (0b11011 : BitVec 5) ||| BitVec.ofNat 5 (2 ^ (2 : BitVec 2).toNat) = 31) ∧
    (let p : Pde := { obj := 3, oldFrame := 0x30000, mig := some { line := true } }; let s := { State.reset with pdes := [p] }
     s.pde? 3 = some p ∧ p.lines.length ≠ 1024 ∧
     ((List.range 1024).filter (fun l => !Sparse.get false p.lines l && !s.bad (p.oldFrame + l * 64) &&
      !s.bad (p.oldFrame + l * 64 + 32) && (pullWait s p l).isNone)).head? = some 0) ∧
    (let p : Pde := { obj := 3, tier := 1, oldFrame := 0x30000, lines := (List.range 1024).map (fun l => (l, true)), mig := some { line := true } }; let s := { State.reset with pdes := [p] }
     s.pde? 3 = some p ∧ p.lines.length = 1024 ∧ p.queued = [] ∧ p.pinBars p.tier = false ∧ heldLine s p.oldFrame = none ∧ frameStopped s p.oldFrame = false) ∧
    (let p : Pde := { obj := 3, tier := 1, oldFrame := 0x30000, frame := 0x20000, acks := 0b11011, mig := some { line := true, rebinding := true } }; let s := { State.reset with pdes := [p] }
     s.pde? 3 = some p ∧ p.acks ||| BitVec.ofNat 5 (2 ^ (2 : BitVec 2).toNat) = 31 ∧ l1Waits s (inFrame p.frame) = none ∧
     (l1Waits { s with l1 := [{ core := 0, part := 0, line := 0, keys := [0x20000], dirty := 1 }], bidir := [0x20000 / 64] } (inFrame p.frame)).isSome = true) ∧
    ((migSt (some (migA true true true)) 1 0b11011).pde? 3).any (fun p => !p.pinBars 0) = true ∧ heldLine (migSt (some (migA true true true)) 1 0b11011) 0x20000 = none ∧ frameStopped (migSt (some (migA true true true)) 1 0b11011) 0x20000 = false := by decide +kernel

theorem w_RowsRatesAndPowerSteps :
    7 ∉ State.reset.captured ∧ 7 < 2 ^ 29 ∧ (State.reset.captured.filter (fun x => rowDie x == rowDie 7)).length < 8192 ∧ rowDie 64 = rowDie 7 ∧
    (let s := { State.reset with captured := (List.range 8192).map (fun k => 64 * (k + 1)), rows := [(7, 4094)] }
     7 ∉ s.captured ∧ 8192 ≤ (s.captured.filter (fun x => rowDie x == rowDie 7)).length ∧ min 4095 (Sparse.get 0 s.rows 7 + 1) = 4095 ∧ Sparse.wf 0 s.rows = true) ∧ 7 ∈ ({ State.reset with captured := [7] } : State).captured ∧ Sparse.wf 0 State.reset.rows = true ∧ State.reset.changing = [] ∧
    (3 : BitVec 2) ≠ 2 ∧ ({ State.reset with changing := [(5, 2)] } : State).changing = [(5, 2)] ∧ (∀ c ∈ ({ State.reset with changing := [(5, 2)] } : State).changing, c.1 ≠ 6) ∧
    cfgOk [] = false ∧ ({ State.reset with changing := [(5, 2)] } : State).hostReqs = [] ∧ State.reset.throttle < 3 ∧ Sparse.get 0 State.reset.rates 0 < 2 ∧
    (let s := { State.reset with rates := (List.range 256).map (fun c => (c, 2)) }; s.throttle < 3 ∧ ∀ c < 256, ¬ Sparse.get 0 s.rates c < 2) ∧
    (let s := { State.reset with throttle := 3, clock := 2400 }; 0 < s.throttle ∧ s.clock < 2500) ∧
    (let s := { State.reset with throttle := 3, clock := 2500, rates := [(5, 1)] }
     0 < s.throttle ∧ 2500 ≤ s.clock ∧ s.changing = [] ∧ Sparse.get 0 s.rates 5 ≠ 0 ∧ ∀ k < 256, 5 < k → Sparse.get 0 s.rates k = 0) := by decide +kernel

/-- A PRI request 9 of team 1, which holds it as a fault park; page 0x1000 of the request. -/
def priSt : State :=
  { cst .nop with teams := [{ id := 1, faults := [9] }], resolves := [{ key := 9, kind := 2, va := 0x1000, at_ := 0x1008, who := some (1, 0) }], out := [Out.pri 9 0x1000 0] }

/-- The same where the strand's record holds a faulted entry of that request. -/
def priEntrySt : State := { priSt with cs := { priSt.cs with arec := [{ seq := 4, unit := {}, req := { kind := .load }, state := .faulted, key := 9 }] } }

/-- A translation of the strand's context whose leaf lies in the table line 0x2000, cached in a TLB and in a port; where `b`, an access
is under way. -/
def tableSt (b : Bool) : State :=
  let e : RecEntry := { seq := 4, unit := {}, req := { kind := .load }, state := .pending }
  let s := cst .nop { ctx := 0x400000, arec := if b then [e] else [] }
  { s with tlb := [{ kind := 0, part := 0, root := (s.ctx 0x400000).root, page := 1, frame := 16, perm := 0xF, line := 0x2000 }], atc := [⟨0, 0, 5, 7⟩] }

theorem w_HostAnswersSnoopsAndAccesses :
    (State.reset.resolves = [] ∧ priSt.resolves = [{ key := 9, kind := 2, va := 0x1000, at_ := 0x1008, who := some (1, 0) }] ∧ (priSt.cs.team, priSt.cs.sid) = (1, 0) ∧ priSt.cs.frame = none ∧ priSt.cs.arec = [] ∧ priSt.teams.any (fun m => m.id == 1 && m.faults.contains 9) = true) ∧
    (priEntrySt.resolves = priSt.resolves ∧ priEntrySt.cs.arec.any (fun e => e.req.kind != .fill && e.state == .faulted && e.key == 9 && !e.trapped) = true) ∧
    (State.reset.cxlUp = true ∧ State.reset.mstate = 3 ∧ ({ State.reset with mstate := 2 } : State).mstate ≠ 3 ∧ ({ State.reset with portsPcie := 3 } : State).cxlUp = false ∧
     ({ State.reset with portsPcie := 1, portsDown := 2 } : State).cxlUp = false ∧ Memory.wf State.reset.mem = true ∧ (List.replicate 64 (1 : Byte)).length = 64) ∧
    ((dropLine (tableSt false) 0x2000).inFlight (usedBy (tableSt false) ((tableSt false).tlb.filter (dependsOn (tableSt false) 0x2000)))).over (tableSt false) = true ∧
    ((dropLine (tableSt true) 0x2000).inFlight (usedBy (tableSt true) ((tableSt true).tlb.filter (dependsOn (tableSt true) 0x2000)))).over (tableSt true) = false ∧
    (tableSt true).tlb.any (fun e => e.die == 0 && e.kind == 0 && e.line == 0x2000) = true ∧ (tableSt true).atc.any (fun e => e.page == hostPage 0x5000 && pasidOf (tableSt true) e.part == 0) = true ∧
    (∀ b ∈ [false, true], ((tableSt b).inFlight (fun c => [(0 : BitVec 6)].contains (c.extractLsb' 16 6))).over (tableSt b) = !b) ∧
    (isReserved State.reset (2 ^ 30) = false ∧ isReserved State.reset 0 = true ∧ hostWait State.reset true (2 ^ 30) 1 = none ∧ hostWait State.reset false (2 ^ 30) 1 = none ∧
     (hostWait { State.reset with l1 := [{ core := 0, part := 0, line := 0, keys := [2 ^ 30], dirty := 1 }], bidir := [2 ^ 30 / 64] } true (2 ^ 30) 1).isSome = true) ∧
    (State.reset.out = [] ∧ Out.biSnp true 5 ∈ ({ State.reset with out := [Out.biSnp true 5] } : State).out ∧ Out.biSnp false 5 ∈ ({ State.reset with out := [Out.biSnp false 5] } : State).out) ∧
    (2 ^ 39 ≤ (0x8000000000 : BitVec 64).toNat ∧ ¬ 2 ^ 39 ≤ (0x7FFFFFFFFF : BitVec 64).toNat ∧ 2 ^ 39 < (0x7FFFFFFFFF : BitVec 64).toNat + 2 ∧
     (0x7FFFFFFFFF : BitVec 64).toNat + 1 ≤ 2 ^ 39 ∧ State.reset.poison = []) ∧
    ((sysSt .nop).handleOk 0x400001 = true ∧ (sysSt .nop).handleOk 0x800001 = false) := by decide +kernel

/-- Partition 0 has a placed team where `b`. -/
def placedSt (b : Bool) : State := { State.reset with teams := [{ id := 1, ctx := 0x400000, placed := b }] }

theorem w_RegistersThatTheHostWrites :
    (State.reset.mstate = 3 ∧ ({ State.reset with mstate := 1 } : State).mstate ≠ 3) ∧
    ((launchSt 0 1).pcbReg 0 0x108 ≠ (launchSt 0 1).pcbReg 0 0x110 ∧ State.reset.pcbReg 0 0x108 = State.reset.pcbReg 0 0x110 ∧ (0xD : Dword).toNat % 16 < 14 ∧ 14 ≤ (0xE : Dword).toNat % 16) ∧
    ((placedSt true).teams.any (fun m => m.placed && handlePart m.ctx == 0) = true ∧ (placedSt false).teams.all (fun m => !m.placed) = true) ∧
    (let v : Word := 5; let s := State.reset
     (v - (s.pcbReg 0 0x110).setWidth 32).toNat < 2 ^ 31 ∧ (v - (s.pcbReg 0 0x108).setWidth 32).toNat ≤ 2 ^ ((s.pcbReg 0 0x100).toNat % 16 + 3)) ∧
    (let v : Word := 9; let s := State.reset
     (v - (s.pcbReg 0 0x110).setWidth 32).toNat < 2 ^ 31 ∧ 2 ^ ((s.pcbReg 0 0x100).toNat % 16 + 3) < (v - (s.pcbReg 0 0x108).setWidth 32).toNat) ∧
    2 ^ 31 ≤ ((0x80000000 : Word) - (State.reset.pcbReg 0 0x110).setWidth 32).toNat ∧
    ((8 : Dword).getLsbD 3 = true ∧ (7 : Dword).getLsbD 3 = false) ∧ (List.replicate 512 (0 : Byte)).length = 512 ∧
    (State.reset.mbusy = false ∧ ({ State.reset with mbusy := true } : State).mbusy = true ∧ (0x100000000000000 : Dword).toNat / 2 ^ 56 = 1 ∧ (0x300000000000000 : Dword).toNat / 2 ^ 56 = 3 ∧
     4 ≤ (0x400000000000000 : Dword).toNat / 2 ^ 56 ∧ (0 : Dword).toNat / 2 ^ 56 = 0) ∧
    (let s := { (State.reset.setBar 0x1000 (0x40000000 + 1)).setBar 0x1008 1 with badT2 := [poolKey 0x40000000] }
     (s.bar 0x1000).getLsbD 0 = true ∧ framesUsed s = [] ∧ framesUsed { s with bidir := [poolKey 0x40000000 / 64] } = [poolKey 0x40000000]) ∧
    (State.reset.bar 0x1000).getLsbD 0 = false := by decide +kernel

/-- Object 3 of partition 0, `sh` and with the migration `m`; `n` further SHARED pages on its die. -/
def sharedSt (sh : Bool) (m : Option Migration) (n : Nat := 0) (busy : Dword := 0) : State :=
  let s := { State.reset with pdes := { obj := 3, shared := sh, mig := m } :: (List.range n).map (fun k => ({ obj := BitVec.ofNat 48 (k + 4), shared := true } : Pde)) }
  s.setPcb 0 0x028 busy

theorem w_PartitionCommandsAct :
    (({ State.reset with mstate := 2 } : State).mstate ≠ 3 ∧ (sharedSt false none).mstate = 3) ∧
    (((sharedSt false none 0 0x8000000000000000).pcbReg 0 0x028).getLsbD 63 = true ∧ ((sharedSt false none).pcbReg 0 0x028).getLsbD 63 = false) ∧
    (∀ b ∈ [false, true], let u := dropRoot (tableSt b) 0 ((0 : BitVec 48).setWidth 64 <<< 12)
     (u.inFlight (rootedAt u 0 ((0 : BitVec 48).setWidth 64 <<< 12))).over u = !b) ∧
    ((sharedSt false none).pde? 9 = none ∧ ((({ obj := 3, queued := [(2, true), (1, false)] } : Pde).queued.filter (·.1 ≠ 2)) = [(1, false)]) ∧ (∀ b ∈ [false, true], ((sharedSt b none).pde? 3).any (fun q => q.shared == b && q.mig.isNone && q.tier == 1) = true)) ∧
    ((3 : BitVec 48).extractLsb' 42 6 = 0 ∧ (3 : BitVec 48).extractLsb' 42 6 ≠ 1) ∧
    ((sharedSt false (some {})).pde? 3).any (fun q => q.mig.isSome && !q.shared) = true ∧ ((sharedSt true (some { line := true })).pde? 3).any (fun q => q.mig.any (·.line)) = true ∧
    ((sharedSt false none).pdes.filter (fun x => x.shared && x.tier ≠ 2 && (dieOf x.frame == 0 || x.mig.any (fun m => dieOf m.frame == 0)))).length < 4096 ∧
    4096 ≤ ((sharedSt false none 4096).pdes.filter (fun x => x.shared && x.tier ≠ 2 && (dieOf x.frame == 0 || x.mig.any (fun m => dieOf m.frame == 0)))).length ∧
    (let s := (sharedSt true none 0 0x8000000000000000).setPcb 0 0x020 (BitVec.ofNat 64 (2 ^ 61 + 3))
     (s.pcbReg 0 0x028).getLsbD 63 = true ∧ s.pcbReg 0 0x020 = BitVec.ofNat 64 (2 ^ 61 + (3 : BitVec 48).toNat) ∧ (s.pde? 3).any (·.shared) = true) := by decide +kernel

/-- Device 5 is home of group 7; its parking store and registration list are given. -/
def homeSt (l : List Packet) (r : List Reg) (plim : Nat := 64) : State :=
  { State.reset.setBar 0x2100 0x8000000000000005 with groups := [(7, { part := 0, plim := plim, regs := r, parked := l })] }

theorem w_GroupAndFabricCommandsAct :
    (4096 < (4097 : BitVec 16).toNat ∧ (4096 : BitVec 16).toNat ≤ 4096 ∧ (homeSt [] []).groups.any (fun c => c.1 == 7) = true ∧ (homeSt [] []).groups.all (fun c => c.1 != 8) = true) ∧
    ((homeSt [] []).groups.find? (fun c => c.1 == 7)).isSome = true ∧ (homeSt [] []).units = [] ∧ (homeSt [] []).opens = [] ∧ Sparse.wf {} (homeSt [] []).slots = true ∧
    ((homeSt [{ type := ptGSEND, sdev := 6, xid := 3 }] [⟨6, 3, false⟩]).groups.any (fun c => c.2.parked.any (fun m => m.sdev ≠ (homeSt [] []).devNum) && c.2.regs.any (fun u => u.dev ≠ (homeSt [] []).devNum)) = true) ∧
    (let s := (homeSt [{ type := ptGSEND, sdev := 6, xid := 3 }] [⟨6, 3, false⟩]).setBar 0x8030 0x40
     s.groups.find? (fun c => c.1 == 7) = some (7, { part := 0, plim := 64, regs := [⟨6, 3, false⟩], parked := [{ type := ptGSEND, sdev := 6, xid := 3 }] }) ∧ (6 : BitVec 10) ≠ s.devNum ∧ carries s ptRESP 6 = true ∧ carries s ptGWDRAW 6 = true ∧ s.units = []) ∧
    ((placedSt true).teams.any (fun m => m.placed && handlePart m.ctx == 0) = true ∧ (placedSt false).teams.all (fun m => !m.placed) = true) ∧
    ((homeSt [] []).assigned = true ∧ State.reset.assigned = false ∧ (0x8000000000000005 : Dword).getLsbD 63 = true ∧ (5 : Dword).getLsbD 63 = false) := by decide +kernel

/-- Device 5, whose window page 0 is page 2 ^ 16 of HBM, readable and writable through the fabric. -/
def fabSt : State := { State.reset.setBar 0x2100 0x8000000000000005 with tlb := [{ kind := 2, part := 0, root := 0, page := 0, frame := 2 ^ 16, perm := 0x07 }] }

def pkt (ty : BitVec 6) (arg : BitVec 64 := 0) (payload : List Byte := []) (len : BitVec 8 := if ty = ptREAD then 1 else 0) : Packet :=
  let p : Packet := { type := ty, sdev := 6, ddev := 5, arg := arg, len := len, xid := 3 }
  if payload.isEmpty then p else p.load payload

/-- A WRITE of the bytes of `l`. -/
def wrPkt (off : BitVec 64) (l : List Byte) : Packet := { pkt ptWRITE off (List.replicate (off.toNat % 32) 0 ++ l) with bytes := l.length }

/-- An integer ATOMIC of 8 bytes at `off`: operand, expected value, kind and size. -/
def atomPkt (off : BitVec 64) : Packet := pkt ptATOMIC off (leBytes 16 5 ++ leBytes 16 0 ++ [0, 8])

/-- The fabric bytes are within reach, undamaged and not held by the host. -/
def fabOk (p : Packet) (k : AKind) (off n : Nat) : Bool :=
  match fabBytes p.part k off n 0 fabSt with
  | (u, .ok plan) => u.devNum ≠ p.sdev && argOk p && lenOk p && (l1Waits u (flushedBy { ctx := 0, die := p.ddie } (packetReq p) plan)).isNone &&
      plan.all (fun x => (devWait u k.writes x.2.key).isNone && !u.bad x.2.key)
  | _ => false

theorem w_FabricRequestsArePerformedAndAnswered :
    fabSt.fabHeld = [] ∧ fabSt.devNum ≠ (pkt ptREAD).sdev ∧
    (ptGADV ∉ [ptREAD, ptWRITE, ptATOMIC] ∧ argOk (pkt ptREAD (1 <<< 58)) = false ∧ (pkt ptREAD).vc = 0) ∧
    (argOk (pkt ptREAD) = true ∧ lenOk (pkt ptREAD) = true ∧ (pkt ptREAD).seq = 0x7FFF ∧ lenOk (pkt ptREAD 0 [] 129) = false ∧ lenOk (pkt ptREAD 0 [] 128) = true ∧ State.reset.mstate = 3) ∧
    (argOk (atomPkt 4) = true ∧ reqOff (atomPkt 4) % reqLen (atomPkt 4) ≠ 0 ∧ reqLen (atomPkt 8) = 8 ∧ reqOff (atomPkt 8) % 8 = 0 ∧ (packetAtom (atomPkt 8)).kind ≠ 1 ∧ argOk (wrPkt 0x2000 [1]) = true ∧ lenOk (wrPkt 0x2000 [1]) = true ∧ reqLen (wrPkt 0x2000 [1]) = 1 ∧
     lenOk (atomPkt 4) = true ∧ (atomPkt 4).len = 2 ∧ reqLen (wrPkt 0xFFC [1, 2, 3, 4]) = 4 ∧ reqLen (atomPkt 0xFF8) = 8) ∧
    (match fabBytes 0 .write 0x2000 1 0 fabSt with | (u, .error (.fault _)) => u.devNum ≠ 6 | _ => false) = true ∧
    (match fabBytes 0 .write 0x2000 1 0 { fabSt with changing := [(0, 2)] } with | (_, .error .busy) => true | _ => false) = true ∧
    fabOk (pkt ptREAD) .read 0 32 = true ∧ fabOk (wrPkt 0xFFC [1, 2, 3, 4]) .write 0xFFC 4 = true ∧ fabOk (atomPkt 0xFF8) .rw 0xFF8 8 = true ∧
    (let p := { pkt ptREAD with seq := 4 }; p.seq ≠ 0x7FFF ∧ p.seq.toNat ≠ Sparse.get 0 fabSt.fabNext (reqStream p)) := by decide +kernel

/-- A packet of type `ty` of the strand's access 9 awaits its answer. -/
def pendSt (ty : BitVec 6) (n : Bool) (o : Option Nat := none) : State :=
  { fabSt with cs := { live := true, team := 1, arec := [{ seq := 9, unit := {}, req := { kind := .fabric }, state := .pending }] },
               pending := [{ xid := 3, pkt := { pkt ty with ddev := 6, sdev := 5 }, team := 1, acc := some 9, op := o, nacked := n }] }

theorem w_FabricAnswersAndRetriesAct :
    (∀ a ∈ [0, 1, 2], argOk (pkt ptRESP (BitVec.ofNat 64 a)) = true ∧ (pkt ptRESP (BitVec.ofNat 64 a)).arg.toNat % 2 ^ 8 = a) ∧
    ((pkt ptRESP).type = ptRESP ∧ lenOk (pkt ptRESP) = true ∧ lenOk (pkt ptMBOX) = true ∧ lenOk (pkt ptMBOX 0 [5]) = true ∧ fabSt.mstate = 3) ∧
    (fabSt.pending.find? (fun x => x.xid == 3) = none ∧ ((pendSt ptREAD false).pending.find? (fun x => x.xid == 3)).any (fun x => x.acc == some 9 && x.team == 1 && x.sid == 0) = true) ∧
    argOk (pkt ptRESP 0x100) = false ∧ (pkt ptREAD).type ≠ ptRESP ∧
    ((pendSt ptREAD false).pending.all (fun x => !x.nacked) = true ∧ (pendSt ptREAD true).pending.any (fun x => x.xid == 3 && x.nacked && x.pkt.type ≠ ptGSEND && x.pkt.ddev ≠ fabSt.devNum) = true) ∧
    (let s := pendSt ptREAD true
     mayLeave (s.setBar 0x8030 0x40) { xid := 3, pkt := { pkt ptREAD with ddev := 6, sdev := 5 } } = true ∧ carries (s.setBar 0x8030 0x40) ptREAD 6 = true ∧ carries (s.setBar 0x8030 0) ptREAD 6 = false) ∧
    (let p : Packet := { pkt ptREAD with ddev := 6, sdev := 5, seq := 4 }
     let s := { fabSt.setBar 0x8030 0x80 with pending := [{ xid := 2, pkt := p }, { xid := 3, pkt := p, nacked := true }] }
     mayLeave s { xid := 3, pkt := p, nacked := true } = false) ∧
    (let s := (pendSt ptGSEND true).setBar 0x2200 0x10000
     s.pending.any (fun x => x.nacked && x.pkt.type == ptGSEND) = true ∧ armedUnit s 0 0 = none ∧ steers s 0 = true ∧ carries (s.setBar 0x8000 0x40) ptGSEND (homeDev (pkt ptGSEND).group) = true) ∧
    (fabSt.cfgField 0x14 4 200 = 200 ∧ (0 : Nat) + 200 * 1000 ≤ 200000 ∧ (199999 : Nat) < 0 + 200 * 1000) ∧
    (let s := { fabSt.setBar 0x8030 0x40 with out := [Out.packet { pkt ptREAD with ddev := 6 }] }
     escapes s 6 = true ∧ escapes { s with ualDown := 1 } 6 = false ∧ (pkt ptREAD).esc = false ∧ (pkt ptREAD).vc ≠ 3) ∧
    ((sysSt .nop).handleOk 0x400001 = true ∧ (sysSt .nop).handleOk 0x800001 = false ∧ ((sysSt .nop).entry 1).busy = true ∧ ((sysSt .nop (x := .parked)).entry 1).busy = false ∧
     (7 : Dword).toNat < 8 ∧ 8 ≤ (8 : Dword).toNat ∧ (0x1003 : Dword).toNat / 4 % 2 ^ 10 = 0) ∧
    (argOk (pkt ptMBOX 0x400001) = true ∧ handlePart 0x400001 = (pkt ptMBOX).part ∧ handlePart 0x410002 ≠ (pkt ptMBOX).part ∧ (sysSt .nop).handleOk 0x410002 = true ∧
     (0x1000410002 : Dword).getLsbD 36 = true ∧ (0x410002 : Dword).getLsbD 36 = false ∧ (0x2000400001 : Dword).getLsbD 37 = true ∧
     (0x400001 : Dword).getLsbD 37 = false ∧ argOk (pkt ptMBOX 0x2000400001) = true) := by decide +kernel

/-- A group packet of group 7 of device 5, from device 6. -/
def gpkt (ty : BitVec 6) (targeted parked : Bool) (unit : Nat) (group : Nat := 5 * 2 ^ 14 + 7) : Packet :=
  pkt ty (gArg group 0 false targeted parked unit) [1, 2, 3, 4]

theorem w_GroupPacketsAtSwitchAndHome :
    (∀ ty ∈ [0x10, 0x11, 0x12, 0x13, 0x14, 0x15, 0x16], let t := BitVec.ofNat 6 ty
      argOk (gpkt t false false 1) = true ∧ lenOk (gpkt t false false 1) = true ∧ (gpkt t false false 1).type = t ∧ argOk { gpkt t false false 1 with arg := 1 <<< 51 } = false ∧ (gpkt t true false 1).targeted = true ∧ (gpkt t false false 1).targeted = false) ∧
    ([ptGADV, ptGSEND, ptGREFUSE, ptGCONS, ptGWDRAW].all (fun t => 0x10 ≤ t.toNat && t.toNat ≤ 0x16) = true) ∧
    (let s := (homeSt [] []).setCount (5 * 2 ^ 14 + 7) 3 2
     s.count (5 * 2 ^ 14 + 7) 3 = 2 ∧ s.count (5 * 2 ^ 14 + 7) 4 = 0 ∧ (homeSt [] []).switch = []) ∧
    (let g := 5 * 2 ^ 14 + 7
     (homeSt [] []).group? (g + 1) 0 = none ∧ (homeSt [] []).group? g 1 = none ∧ ((homeSt [] []).group? g 0).any (fun x => x.parked == [] && x.regs == []) = true ∧
     homeDev g = (homeSt [] []).devNum ∧ homeDev (6 * 2 ^ 14) ≠ (homeSt [] []).devNum ∧ (gpkt ptGADV false false 1).sdev ≠ (homeSt [] []).devNum) ∧
    (let m := gpkt ptGSEND false false 0; let s := homeSt [m] []
     (s.group? (5 * 2 ^ 14 + 7) 0).any (fun x => x.parked == [m] && freeReg x == none && x.parked.length < x.plim) = true ∧ parkedTotal s < 4096 ∧
     ((homeSt [m] [] 1).group? (5 * 2 ^ 14 + 7) 0).any (fun x => x.plim ≤ x.parked.length) = true ∧ 4096 ≤ parkedTotal (homeSt (List.replicate 4096 m) [])) ∧
    (let r : Reg := ⟨6, 3, false⟩; ((homeSt [] [r]).group? (5 * 2 ^ 14 + 7) 0).any (fun x => freeReg x == some r && x.parked == [] && 0 < x.plim) = true ∧ r.dev ≠ (homeSt [] []).devNum) ∧
    (State.reset.mstate = 3 ∧ carries ((homeSt [] []).setBar 0x8030 0x40) ptGREG 6 = true ∧ carries (homeSt [] []) ptGREG 6 = false ∧ carries ((homeSt [] []).setBar 0x8030 0x40) ptGSEND 6 = true) ∧
    (let p := { gpkt ptGWDRAW false false 1 with sdev := 5 }; p.sdev = (homeSt [] []).devNum ∧ argOk p = true) ∧ (homeSt [] []).units = [] := by decide +kernel

/-- A switch that counts 65,536 groups. -/
def fullSwitch : State := { homeSt [] [] with switch := (List.range 65536).map (fun k => (256 * k, 1)) }

theorem w_SwitchWithoutRoom : 65536 ≤ fullSwitch.switch.length ∧ 65536 ≤ fullSwitch.countedGroups.length ∧ 5 * 2 ^ 14 + 7 ∉ fullSwitch.countedGroups := by
  have h : fullSwitch.countedGroups = List.range 65536 := by
    simp only [State.countedGroups, fullSwitch, List.map_map, Function.comp_def, Nat.mul_div_cancel_left _ (by decide : 0 < 256), List.map_id']
    exact List.Nodup.dedup List.nodup_range
  rw [h]
  refine ⟨by simp [fullSwitch], by simp, by simp⟩

/-- An armed unit 4 of group 7 with its buffer in page 1, which is page 16 of the host. -/
def unitSt : State :=
  let u : GUnit := { id := 4, ctx := 0x400000, group := 5 * 2 ^ 14 + 7, buf := 0x1000, team := 1, sid := 0, op := 0, armed := true }
  { homeSt [] [] with ctxs := [(0, { state := .parked })], tlb := [{ kind := 0, part := 0, root := 0, page := 1, frame := 16, perm := 0x0F }], units := [u] }

theorem w_GroupPacketsAtMembersAndSenders :
    (let o : XOp := { id := 7, kind := .gready }; let s := { pendSt ptGADV false (some 7) with ops := [o] }
     argOk (gpkt ptGREG false false 4) = true ∧ (gpkt ptGREG false false 4).parkedBit = false ∧ s.pending.length = 1 ∧ s.op? 7 = some o ∧
     (gpkt ptGREG false true 9).parkedBit = true ∧ (homeSt [] []).pending = [] ∧ homeDev (gpkt ptGREG false true 9).group = (homeSt [] []).devNum ∧ (homeSt [] []).unit? (gpkt ptGREG false true 9).unit = none ∧
     homeDev (gpkt ptGREG false true 9 (6 * 2 ^ 14)).group ≠ (homeSt [] []).devNum) ∧
    (argOk (gpkt ptGSEND true false 4) = true ∧ (homeSt [] []).units = [] ∧ (gpkt ptGSEND true false 4).targeted = true ∧ (gpkt ptGSEND true false 4).unit ≠ 0 ∧
     (gpkt ptGSEND false false 0).bnc ≠ 2 ∧ ({ gpkt ptGSEND false false 0 with bnc := 2 } : Packet).bnc = 2) ∧
    (let p := gpkt ptGSEND false false 0
     (armedUnit unitSt p.group p.part).any (fun u =>
        let q : Req := { kind := .store, write := true, elems := [⟨60, u.buf + 0x40, p.data.length⟩] ++ [⟨0, u.buf + 4, 60⟩], data := bytesImg (msgHeader p p.parkedBit ++ p.data) }
        u.fail == none && !farUnder unitSt u && unitSt.holdTurn (unitHold u) && match runFor unitSt u.team (unitSpace unitSt u) q with
      | .done _ _ => true | _ => false) = true) ∧
    ((homeSt [] []).pending = [] ∧ argOk (gpkt ptGREFUSE false false 0) = true ∧ argOk (gpkt ptGACCEPT false false 0) = true ∧
     ((pendSt ptGSEND false (some 7)).pending.any (fun x => x.xid == 3 && x.pkt.type == ptGSEND && x.op == some 7)) = true ∧
     armedUnit ((pendSt ptGSEND false).setBar 0x2200 0x10000) (gpkt ptGREFUSE false false 0).group 0 = none ∧ steers ((pendSt ptGSEND false).setBar 0x2200 0x10000) 0 = true ∧
     (let o : XOp := { id := 7, kind := .gsend }; ({ pendSt ptGSEND false (some 7) with ops := [o] } : State).op? 7 = some o)) := by decide +kernel

/-- A collective descriptor of key 9 with `n` ranks, the rank `r`, and one segment of four bytes. -/
def cdesc (n r : Nat) : Desc := setField (setField (setField 0 0 4 9) 4 2 n) 6 2 r

def slotA (n : Nat) : Slot := { inUse := true, part := 0, agreed := agreedOf (cdesc n 0), ranks := [0] }

/-- Slot 0 as given; device 5. -/
def collSt (x : Slot) (l : List XOp := []) : State := { State.reset.setBar 0x2100 0x8000000000000005 with slots := Sparse.set {} [] 0 x, ops := l }

/-- A contribution of rank `r` to slot 0, round `k`. -/
def cpkt (ty : BitVec 6) (r k : Nat) (gen : Nat := 1) : Packet := { pkt ty (BitVec.ofNat 64 (r + k * 2 ^ 18)) with mseq := BitVec.ofNat 64 gen }

def openPkt (n r : Nat) : Packet := pkt ptCCTL 0 (leBytes 64 (cdesc n r).toNat)

/-- The slot that an open finds of its key, and a free one. -/
def findMine (s : State) (p : Packet) : Option Nat :=
  ((List.range 64).map (0 + ·)).find? (fun k => (s.slot k).inUse && (s.slot k).part == p.part && cKEY (s.slot k).agreed == cKEY (BitVec.ofNat 512 (leNat p.payload)))

theorem w_ReductionSlotsAct :
    (argOk (openPkt 2 1) = true ∧ lenOk (openPkt 2 1) = true ∧ lenOk (cpkt ptCRED 0 0) = true ∧ lenOk (cpkt ptCRES 0 0) = true ∧ State.reset.mstate = 3 ∧ (openPkt 2 1).type = ptCCTL ∧ argOk { openPkt 2 1 with arg := 1 <<< 46 } = false ∧ (openPkt 2 1).ddev = (collSt {}).devNum) ∧
    (findMine (collSt (slotA 2)) (openPkt 2 0) = some 0 ∧ cRANK (cdesc 2 0) ∈ (slotA 2).ranks ∧ cRANK (cdesc 2 1) ∉ (slotA 2).ranks ∧ (slotA 2).agreed = agreedOf (cdesc 2 1) ∧
     (slotA 2).agreed ≠ agreedOf (cdesc 3 1) ∧ findMine (collSt {}) (openPkt 2 0) = none ∧ ((collSt {}).slot 0).inUse = false) ∧
    (let s := { collSt {} with slots := (List.range 64).map (fun k => (k, { slotA 2 with part := 1 })) }
     ((List.range 64).map (0 + ·)).all (fun k => (s.slot k).inUse && (s.slot k).part != (openPkt 2 0).part) = true) ∧
    (let s := collSt (slotA 2); let p := cpkt ptCRED 0 0
     (s.slot 0).inUse = true ∧ (s.slot 0).part = p.part ∧ (s.slot 0).gen.toNat = p.mseq.toNat ∧ 0 ∈ (s.slot 0).ranks ∧ argOk p = true ∧ (s.slot 0).gen.toNat ≠ (cpkt ptCRED 0 0 2).mseq.toNat ∧
     (s.slot 0).ranks = [0] ∧ ({ slotA 2 with ranks := [0, 1] } : Slot).ranks.erase 0 ≠ [] ∧ s.opens = [] ∧ Sparse.wf {} s.slots = true ∧
     (s.slot 0).round = 0 ∧ (s.slot 0).partials = [] ∧ p.payload = [] ∧ (s.slot 0).counted.length + 1 ≠ cNPART (s.slot 0).agreed ∧ (s.slot 0).held = [] ∧
     ((collSt (slotA 1)).slot 0).counted.length + 1 = cNPART (slotA 1).agreed ∧ roundBefore 0 ({ slotA 2 with round := 1 } : Slot).round = true) := by decide +kernel

theorem w_ReductionSlotsAct_of_results :
    (let s := collSt { slotA 2 with agreed := agreedOf (setField (setField (cdesc 2 0) 0x18 4 1) 0x1D 1 2) }; let p := (cpkt ptCRED 0 0).load [5, 0, 0, 0]
     (s.slot 0).inUse = true ∧ 0 ∈ (s.slot 0).ranks ∧ segments (s.slot 0).agreed = 1 ∧ lenOk p = true ∧ argOk p = true ∧ carries (s.setBar 0x8030 0x40) ptCRES 6 = true ∧ (s.slot 0).counted.all (fun y => y.rank < 1024) = true) ∧
    (let o : XOp := { id := 7, kind := .collBar, progress := 2, y := BitVec.ofNat 64 (6 * 2 ^ 18) }; let p := (cpkt ptCRES 0 0).load (0 :: List.replicate 132 0)
     o.got = 0 ∧ p.data.length = 133 ∧ lenOk p = true ∧ leNat (p.data.take 1) ≠ 2) ∧
    (let o : XOp := { id := 7, kind := .collRed, progress := 2, y := BitVec.ofNat 64 (6 * 2 ^ 18) }; let p := { cpkt ptCRES 0 0 with arg := 4095 <<< 34 }.load [2]
     lenOk p = true ∧ p.type = ptCRES ∧ p.arg.toNat / 2 ^ 34 % 2 ^ 12 = 4095 ∧ o.since + cTIMEOUT o.desc * 1000 + 10000000 ≤ 12000000 ∧ 11999999 < o.since + cTIMEOUT o.desc * 1000 + 10000000 ∧
     argOk p = true ∧ o.y.toNat % 2 ^ 18 = p.arg.toNat % 2 ^ 18 ∧ o.y.toNat / 2 ^ 18 % 2 ^ 10 = p.sdev.toNat ∧ o.z.toNat % 2 ^ 16 = p.arg.toNat / 2 ^ 18 % 2 ^ 16 ∧ leNat (p.data.take 1) = 2 ∧
     (collSt {} [o]).ops = [o] ∧ (collSt {}).ops = []) ∧
    (({ slotA 2 with deadline := some 0 } : Slot).deadline = some 0 ∧ ({ slotA 2 with deadline := some 0 } : Slot).held = [] ∧ (0 : Nat) ≤ (collSt {}).time ∧ (collSt {}).time < 1 ∧ cNPART (slotA 2).agreed ≠ 0) ∧
    (let d : Desc := setField 0 0x1D 1 2; cTYPE d = 2 ∧ cOP d = 0) := by decide +kernel

/-- A window of D1 on the ring at TSBASE, whose slots lie at 0x1000 of the frame. -/
def winA (f : Option (Cause × Dword)) : Window :=
  { id := 7, ring := tileBase 0 0 + 3 * 2 ^ 16, tile := 0, team := 1, sid := 0, ctx := 0, unit := {}, desc := sdesc, next := 0, fault := f }

def winSt (f : Option (Cause × Dword)) (base : Nat) : State :=
  let s := ringSt .nop (setField (ringHdr 2 0 0 0 2) 0 4 base) 0
  { s with windows := [winA f] }

/-- The window's step reaches its slot in the state `s`, and what `f` says holds of the places of the slot and of the chunk read. -/
def slotWith (s : State) (w : Window) (f : State → Except TRes (State × List Nat) → Bool) : Bool :=
  match headerPlace s w, s.team? 1 with
  | (s0, true), some m =>
    let h := windowHeader s0 w
    let k := w.slot.getD (hPCLAIM h)
    let s1 := if w.slot.isSome then s0 else { s0 with mem := setBytes s0.mem w.ring (leBytes 64 (setField h 0x10 8 (k + 1)).toNat) }
    let w1 := { w with slot := some k, start := if w.slot.isSome then w.start else w.next }
    let slot := slotAddr w1 h k
    slotAllowed s1 m slot (hSLOTSZ h) && hSLOTSZ h == imageSize w.desc && w1.start == w.next && f s1 (slotPlaces (m.ctx.extractLsb' 16 6) slot (hSLOTSZ h / 64) s1)
  | _, _ => false

/-- The chunk of a window, read. -/
def chunkOf (s : State) (w : Window) : ROut :=
  match s.team? 1 with
  | some m => runReq s { spaceOf s.cs m with priv := w.priv } (chunkReq (imageDesc w.desc) (chunkRows w.desc w.next) .fill)
  | none => .unsupported

/-- The slots lie in the T0 page of an object that a migration holds. -/
def heldSlot : State :=
  { winSt none 0x51000 with pdes := [{ obj := 3, owner := 0x400000, tier := 0, frame := tileBase 0 0 + 5 * 2 ^ 16, moving := true, mig := some {} }] }

theorem w_AWindowFillsItsSlotsInOrder :
    (ringSt .nop 0 0).windows = [] ∧ (winA (some (.arith, 0))).fault.isSome = true ∧
    (∀ f ∈ [none, some (Cause.arith, (0 : Dword))], (winSt f 0x31000).windows.find? (fun w => w.id == 7) = some (winA f)) ∧
    (∀ b ∈ [0x31000, 0x41000], (winA none).ready (winSt none b) = true ∧ ((winSt none b).strand? 1 0).isSome = true ∧ ((winSt none b).team? 1).isSome = true ∧
      (let h : Desc := BitVec.ofNat 512 (memNat (winSt none b).mem (winA none).ring 64)
       hPCLAIM h ≤ hTAIL h ∧ hBASE h = b ∧ hSLOTSZ h = imageSize sdesc ∧ hPCLAIM h = 0)) ∧
    (let s := { winSt none 0x31000 with windows := [{ winA none with stopped := true }] }; (s.windows.find? (fun w => w.id == 7)).any (·.stopped) = true) ∧
    ((winA none).slot = none ∧ (let h := windowHeader (ringSt .nop (setField (ringHdr 2 2 0 0 0) 0 4 0x31000) 0) (winA none); hHEAD h + hNSLOT h ≤ hPCLAIM h)) ∧
    slotWith (winSt none 0x41000) (winA none) (fun _ _ => true) = false ∧ (headerPlace (winSt none 0x41000) (winA none)).2 = true ∧
    slotWith heldSlot (winA none) (fun _ r => match r with | .error _ => true | _ => false) = true ∧
    (let w := { winA none with slot := some 0 }; slotWith (winSt none 0x31000) w (fun _ r => match r with | .ok _ => true | _ => false) = true) ∧
    (let w := { winA none with desc := setField sdesc 0 8 0x6A0000010000 }; slotWith (winSt none 0x31000) w (fun _ r => match r with
      | .ok (u, _) => (match chunkOf u w with | .trap _ _ => true | _ => false)
      | _ => false) = true) ∧
    slotWith (winSt none 0x31000) (winA none) (fun _ r => match r with
      | .ok (u, l) => l.all (fun p => (winA none).ring + 64 ≤ p || p + 64 ≤ (winA none).ring) && decide (l.Pairwise (fun p q => p + 64 ≤ q ∨ q + 64 ≤ p)) &&
        (match chunkOf u (winA none) with | .done v _ => Memory.wf v.mem | _ => false)
      | _ => false) = true := by decide +kernel

/-- The Mortise site in the state `x`; device 5 with guest queue 3 valid, its slots at 0x10000. -/
def gst (x : GState) (f : Guest → Guest := id) : State :=
  let s := ((State.reset.setBar 0x2100 0x8000000000000005).setBar (gqOff 3) 0x10001).setBar (gqOff 3 + 8) 0x20000
  { s with guest := f { State.reset.guest with state := x } }

/-- Nothing of the guest is outstanding. -/
abbrev gquiet (s : State) : Prop := s.guest.packets = [] ∧ (∀ o ∈ s.ops, o.kind ≠ .gqpush ∧ o.kind ≠ .gqwait) ∧ ∀ t ∈ s.guest.tags, t.reported = false

def tagA : GTag := { tag := 7, queue := 3, seq := 0, va := 0x1000, key := 9, team := 1 }
def gpA : GPacket := { queue := 3, seq := 0, ctx := 0x400000, team := 1, sid := 0, op := 7, compl := 0 }
def grantA (d : Bool) : Grant := { ctx := 0x400000, base := 0x1000, log2 := 12, perm := 3, dropped := d }

theorem w_GuestSiteStatesAndFence :
    (∀ x ∈ [GState.off, .measuring, .enabled, .fenced, .refused], (gst x).guest.state = x ∧ gquiet (gst x) ∧ (gst x).guest.arm = false ∧ (gst x).guest.linksUp = false ∧
      (gst x (fun g => { g with arm := true })).guest.arm = true ∧ (gst x (fun g => { g with linksUp := true })).guest.linksUp = true) ∧
    ((1 : Dword).getLsbD 0 = true ∧ (2 : Dword).getLsbD 0 = false ∧ ([] : List Byte).length ≠ 320) ∧
    (let s := gst .enabled (fun g => { g with grants := [(7, { grantA true with told := true })], tags := [tagA], preempt := [(7, none)] })
     s.guest.grants.any (fun c => c.1 == 7 && c.2.told) = true ∧ State.reset.mstate = 3 ∧ (grantA false).told = false ∧ s.guest.tags.any (fun t => t.tag == 7) = true ∧ s.guest.preempt.any (fun x => x.1 == 7) = true ∧ gquiet s ∧
     s.guest.grants.all (fun c => c.1 != 8) = true ∧ s.guest.tags.all (fun t => t.tag != 8) = true ∧ s.guest.preempt.all (fun x => x.1 != 8) = true) := by decide +kernel

def pushA : XOp := { id := 7, kind := .gqpush, n := 3, progress := 1, payload := List.replicate 64 1, ctx := 0x400000, team := 1 }

theorem w_GuestQueuesAct :
    (let s := gst .enabled (fun g => { g with tail := [(3, 1)] })
     gqValid s 3 = true ∧ gqHead s 3 ≠ gqTail s 3 ∧ gqHead (gst .enabled) 3 = gqTail (gst .enabled) 3 ∧ gqValid s 4 = false ∧ (1 : Dword).setWidth 6 ≠ gqPart s 3 ∧ (0x80 : Dword).setWidth 6 = gqPart s 3) ∧
    (2 ^ 38 ≤ (0x4000000000 : Dword).toNat / 2 ^ 12 * 2 ^ 12 ∧ ¬ 2 ^ 38 ≤ (0x3FFFFFFFFF : Dword).toNat / 2 ^ 12 * 2 ^ 12 ∧ (0x8F : Dword).toNat / 16 % 16 < 9 ∧ 9 ≤ (0x90 : Dword).toNat / 16 % 16) ∧
    (3 ∈ (gst .off (fun g => { g with stop := [3] })).guest.stop ∧ 3 ∉ (gst .off).guest.stop ∧ 3 ∈ (gst .off (fun g => { g with notify := [(3, 1), (3, 2)] })).guest.notify.map (·.1)) ∧
    (let s := { gst .enabled with ops := [pushA] }
     s.op? 7 = some pushA ∧ pushA.isFree = false ∧ pushA.stat = .active ∧ (gqTail s 3 - gqHead s 3).toNat < gqSize s 3 ∧ Sparse.wf 0 s.guest.tail = true ∧ (gst .enabled).ops = [] ∧
     gqSize s 3 ≤ (gqTail (gst .enabled (fun g => { g with tail := [(3, 16)] })) 3 - gqHead s 3).toNat ∧ ({ gst .enabled with ops := [{ pushA with progress := 0 }] } : State).op? 7 = some { pushA with progress := 0 }) ∧
    (let s := gst .enabled (fun g => { g with tail := [(3, 2)] })
     ((1 : Word) - gqHead s 3).toNat ≤ (gqTail s 3 - gqHead s 3).toNat ∧ (gqTail s 3 - gqHead s 3).toNat < ((3 : Word) - gqHead s 3).toNat ∧ gquiet s ∧ (gst .off).guest.state ≠ .enabled) ∧
    (let s := gst .enabled (fun g => { g with packets := [gpA], preempt := [(3, some 0x400000)] })
     s.guest.packets = [gpA] ∧ s.guest.preempt = [(gpA.queue, some gpA.ctx)] ∧ gpA.compl = 0 ∧ 3 ∉ s.guest.stop ∧ s.guest.notify = [] ∧ (gst .enabled).guest.preempt = []) := by decide +kernel

/-- Packet 0 of queue 3 is outstanding. Its context maps page 1 to an object of tier 1, page 2 to an address that no window has. -/
def gxSt (g : List (Nat × Grant)) (t : List GTag := []) : State :=
  let s := gst .enabled (fun x => { x with packets := [gpA], grants := g, tags := t })
  { s with ctxs := [(0, { state := .parked })], teams := [{ id := 1, ctx := 0x400000 }], tlb := [{ kind := 0, part := 0, root := 0, page := 1, frame := 2 ^ 43, perm := 0x0F }, { kind := 0, part := 0, root := 0, page := 2, frame := 2 ^ 44, perm := 0x0F }],
           pdes := [{ obj := objOf 0 (2 ^ 55), owner := 0x400000, frame := 0x30000 }] }

theorem w_GuestTranslationsAndRequestsAct :
    ((gst .off).guest.state ≠ .enabled ∧ (gst .enabled).guest.packets = [] ∧ (gxSt []).guest.packets.find? (fun p => p.queue == 3 && p.seq == 0) = some gpA) ∧
    (match translate (gxSt []) (bufSpace gpA.ctx) .read false 0x1000 with | (u, .ok a) => !a.isFab && u.guest.grants.isEmpty && u.pdes.all (fun d => d.mig.isNone) | _ => false) = true ∧
    (match translate (gxSt []) (bufSpace gpA.ctx) .rw false 0x2000 with | (_, .fault _) => true | _ => false) = true ∧
    ((gxSt [(7, { grantA true with told := true })]).guest.grants.any (fun c => c.1 == 7 && c.2.told) = true ∧ (gxSt [(7, grantA true)]).guest.waitReqs = [] ∧ (gxSt [(7, grantA false)]).guest.grants.all (fun c => c.1 != 7 || !c.2.told) = true) ∧
    ((gst .enabled).ops = [] ∧ (gst .enabled).guest.tags = []) ∧
    (let s := gxSt [] [tagA]
     s.guest.tags = [tagA] ∧ tagA.reported = false ∧ (s.team? tagA.team).any (fun m => !m.ended) = true ∧ ({ tagA with res := some 1 } : GTag).res = some 1 ∧ tagA.res = none ∧ s.guest.packets.find? (fun p => p.queue == tagA.queue && p.seq == tagA.seq) = some gpA ∧ (s.team? gpA.team).isSome = true) := by decide +kernel

theorem w_GuestTranslationsAndRequestsAct_of_requests :
    (let r : GuestReq := { write := false, queue := 3, seq := 0, area := 1, offset := 0, size := 1024 }; let s := gst .enabled
     r.area ≠ 0 ∧ s.guest.cancelled = [] ∧ s.guest.reqs = [] ∧ ({ r with area := 2 } : GuestReq).area ≠ 1 ∧ guestBehind s 5 { r with area := 2, write := true } = false ∧
     guestBehind { s with guest := { s.guest with reqs := [(4, { r with area := 2, write := true })] } } 5 { r with area := 2, write := true } = true ∧
     (3, (0 : Word)) ∈ (gst .enabled (fun g => { g with cancelled := [(3, 0)] })).guest.cancelled ∧ gqValid s 3 = true ∧ r.offset.toNat + r.size ≤ gqSize s 3 * 64 ∧ gqValid s 4 = false ∧ gqSize s 3 * 64 < 1 + r.size ∧ (0 : Nat) + 65536 ≤ 2 ^ 16) ∧
    gquiet (gst .enabled) ∧
    (let s := gst .enabled (fun g => { g with tail := [(3, 2)] }); let s := { s with mem := setBytes [] (gqBase s 3 + 64) [1] }
     0 < (gqTail s 3 - (1 : Word)).toNat ∧ (gqTail s 3 - (1 : Word)).toNat < 2 ^ 31 ∧ memNat s.mem (gqBase s 3 + (1 : Word).toNat % gqSize s 3 * 64) 4 ≠ 0 ∧ gquiet s ∧
     ¬ 0 < (gqTail s 3 - (2 : Word)).toNat) ∧
    (let r : GuestReq := { queue := 3, seq := 0, area := 0, grant := 7, write := true, size := 1, data := [1] }
     let h : GuestReq := { r with write := true, compl := true, rel := true }
     let s := gxSt [(7, grantA false)]
     guestBehind s 5 r = false ∧ s.holdTurn 5 = true ∧ guestBehind { s with guest := { s.guest with reqs := [(4, r)] } } 5 h = true) ∧
    (let s := gxSt [(7, grantA false)]
     s.guest.grants = [(7, grantA false)] ∧ (grantA false).ctx = gpA.ctx ∧ (grantA false).perm.getLsbD 0 = true ∧ (grantA false).perm.getLsbD 1 = true ∧ (grantA true).dropped = true ∧
     (match runReq s (bufSpace 0x400000) (readReq 0x1000 64) with | .done _ _ => true | _ => false) = true ∧
     (match runReq s (bufSpace 0x400000) (writeReq 0x1FFF [1]) with | .done _ _ => true | _ => false) = true) := by decide +kernel

/-- The unit has left the queue of its engine, which has served the strand. -/
def leftQueue (x : State) (e : Eng) (u : EUnit) : State :=
  { x with served := Sparse.set 0 x.served (x.cs.engineNo e) (x.cs.slot.toNat + 1) }.onCs (fun t =>
    let t := { t.progress with q := t.q.set e ((t.q.get e).drop 1), held := false }
    { (if e = Eng.acc then { t with resume := t.resumeAddr } else t) with unit := u })

/-- The word of `i` is the first head unit of the strand, nothing holds it, and it runs to a next state. -/
noncomputable def headRuns (i : Instr) : Bool :=
  let e := engOf (encode i)
  let u := unitOf i 1
  let s : State := { State.reset with turn := 7, cs := { live := true, team := 1, s := regs, q := ({} : Queues).set e [.unit u] } }
  let s0 := { s with turn := (s.turn + 1) % 8 }
  decide (s.mstate ≠ 7) && s.cs.headUnits.head? == some (e, u) && (match decode u.word with | .ok j => j == i | _ => false) && mayIssue s0 e u &&
    !engineTaken s0 e && (match exec i (leftQueue s0 e u) with | .next t => !t.cs.held | _ => false)

/-- The strand steps next, fetches the word of `i`, reads it back and executes it to a next state. -/
noncomputable def stepsWith (i : Instr) : Bool :=
  let s := State.reset.withFetchWord 32 (encode i).toNat
  s.mstate != 7 && s.turn % 8 == 7 && s.cs.live && s.cs.headUnits.isEmpty && s.cs.fetches &&
  match fetchRead { s with turn := (s.turn + 1) % 8 } with
  | .word s1 w =>
    let e := engOf w
    let s2 := splitWord s1 w
    w == encode i && (match decode w with | .ok j => decide (j = i) | _ => false) &&
    if engineOf w = 7 then (match exec i s1 with | .next _ => true | _ => false)
    else if engineOf w = 6 then
      let u := buildUnit s1 w
      let s3 := s1.onCs (fun t => { t with unit := u })
      u.word == w && s1.cs.q.ctrl.isEmpty && (joinFate s3 w).isNone && !s1.cs.tokHolds u && (match exec i (passUnit s3 u) with | .next _ => true | _ => false)
    else match s2.cs.q.get e with
      | [.unit u] => u.word == w && u.skip.isNone && u.seq == s1.nextSeq && mayIssue s2 e u && !engineTaken s2 e &&
        (match exec i (leftQueue s2 e u) with | .next t => t.cs.held == (i == .evWait 1 1) | _ => false)
      | _ => false
  | _ => false

theorem w_AStepIssuesTheDecodedWord : ∀ i ∈ [Instr.extImm 7, .add 3 1 2, .evWait 1 1, .evWait 1 0, .ldD 0 1 2 0, .vadd 7 1 2 3 0, .sfuExp2 7 1 2 0, .copy 1 2 3 0, .join 1 0 0 0 0 0],
    stepsWith i = true := by decide +kernel

theorem w_AStepIssuesTheDecodedWord_of_a_head_unit : ∀ i ∈ [Instr.add 3 1 2, .vadd 7 1 2 3 0, .copy 1 2 3 0], headRuns i = true := by decide +kernel

theorem w_EveryWordRoundTrips : (∀ i ∈ [Instr.nop, .casQ 1 2 3 4, .extInd 63 1 1 1, .vscanAdd 5 1 2 1 0], i.wf = true) ∧
    ((match decode 0x02182040 with | .ok _ => true | _ => false) = true) := by decide +kernel

theorem w_EveryStepKeepsMemoryCanonical : State.reset.Inv ∧ (match step (State.reset.withFetchWord 32 (encode (.add 3 1 2)).toNat) with | .next _ => true | _ => false) = true ∧
    (State.reset.withFetchWord 32 (encode (.add 3 1 2)).toNat).Inv := by
  unfold State.Inv
  decide +kernel

theorem w_VectorAndFunctionWordsTouchOnlyTheirStrand : ∀ i ∈ [Instr.vadd 7 3 1 2 0, .sfuExp2 7 3 1 0, .mand 1 1 2 0, .topkQ 3 0],
    i.isWord = true ∧ (engineOf (encode i) = 2 ∨ engineOf (encode i) = 4) ∧ (match exec i (vecSt i) with | .next t => t.cs.frame == (vecSt i).cs.frame | _ => false) = true := by decide +kernel

/-! A word of every row that has one, with its fields at arbitrary values, from the encodings of 06 and 09 to 15: engine, opcode and
fields from bit 31 down. -/

/-- The words read back as the instructions, in order. -/
noncomputable def reads (l : List (Nat × Instr)) : Bool := l.all (fun x => match decode (BitVec.ofNat 32 x.1) with
  | .ok i => decide (i = x.2)
  | .error _ => false)

theorem test_decode_control_1 : reads [
    (0b000_0000000_0000000000000000000000, .nop), (0b000_0000001_011101_111000_100100_0000, .add 29 56 36),
    (0b000_0000010_110111_111100_110010_0000, .sub 55 60 50), (0b000_0000011_011110_011101_100001_0000, .mul 30 29 33),
    (0b000_0000100_110111_100110_001101_0000, .mulhS 55 38 13), (0b000_0000101_001100_110100_100001_0000, .mulhN 12 52 33),
    (0b000_0000110_011111_101001_101000_000_0, .divS 31 41 40 0), (0b000_0000111_000111_011101_010100_000_0, .divN 7 29 20 0),
    (0b000_0001000_000110_100011_110100_000_0, .remS 6 35 52 0), (0b000_0001001_100111_111111_011010_000_1, .remN 39 63 26 1),
    (0b000_0001010_101010_110000_101000_0000, .and 42 48 40), (0b000_0001011_101010_001011_101000_0000, .or 42 11 40),
    (0b000_0001100_000001_110110_100010_0000, .xor 1 54 34), (0b000_0001101_000101_000100_000011_0000, .andn 5 4 3),
    (0b000_0001110_001101_111001_010000_0000, .shl 13 57 16), (0b000_0001111_100111_000010_110010_0000, .shrN 39 2 50),
    (0b000_0010000_011110_010101_011101_0000, .shrS 30 21 29), (0b000_0010001_100110_110110_001101_0000, .rot 38 54 13),
    (0b000_0010010_100010_001111_101001_0000, .minS 34 15 41), (0b000_0010011_010011_100000_000001_0000, .minN 19 32 1),
    (0b000_0010100_101011_000110_011110_0000, .maxS 43 6 30), (0b000_0010101_101010_010010_011011_0000, .maxN 42 18 27),
    (0b000_0010110_100100_111100_0000000000, .clz 36 60), (0b000_0010111_110110_000110_0000000000, .ctz 54 6),
    (0b000_0011000_101110_010001_0000000000, .popc 46 17), (0b000_0011001_010101_110001_001111_1001, .sel 21 49 15 9),
    (0b000_0011010_010011_000010_000101_1010, .cmp 19 2 5 10), (0b000_0011011_110010_000111_0110011011, .addi 50 7 411),
    (0b000_0011100_000111_110111_0100101010, .andi 7 55 298), (0b000_0011101_011001_000101_1111010110, .ori 25 5 982)] = true := by decide +kernel

theorem test_decode_control_2 : reads [
    (0b000_0011110_000010_110111_1010111110, .xori 2 55 702), (0b000_0011111_000001_001110_0011010111, .shli 1 14 215),
    (0b000_0100000_111100_111011_0000110110, .shriN 60 59 54), (0b000_0100001_011111_011001_1111101100, .shriS 31 25 1004),
    (0b000_0100010_101110_0110010110111110, .li 46 26046), (0b000_0100011_011011_000101_100101_0000, .bfxS 27 5 37),
    (0b000_0100100_101001_001101_110010_0000, .bfxN 41 13 50), (0b000_0100101_101100_010010_010110_0000, .bfi 44 18 22),
    (0b000_0100110_000110_010100_010110_0000, .fshl 6 20 22), (0b000_0100111_000001_111110_011011_0000, .fshr 1 62 27),
    (0b000_0101000_110001_111100_001000_000_0, .fadd 49 60 8 0), (0b000_0101001_010000_101110_000111_000_0, .fsub 16 46 7 0),
    (0b000_0101010_000100_011110_110100_000_1, .fmul 4 30 52 1), (0b000_0101011_001100_101100_100100_000_0, .ffma 12 44 36 0),
    (0b000_0101100_011101_100001_001101_000_0, .fdiv 29 33 13 0), (0b000_0101101_011011_101010_000000000_1, .fsqrt 27 42 1),
    (0b000_0101110_001000_011010_011011_000_0, .fmin 8 26 27 0), (0b000_0101111_000001_010010_111000_000_1, .fmax 1 18 56 1),
    (0b000_0110000_111001_000010_001110_010_1, .fcmp 57 2 14 2 1), (0b000_0110001_110111_100111_101010_1010, .fcvt 55 39 42 10),
    (0b000_0110010_000111_000011_1111110110, .beq 7 3 1014), (0b000_0110011_001010_001110_0111000101, .bne 10 14 453),
    (0b000_0110100_010001_000001_1100011000, .bltS 17 1 792), (0b000_0110101_101000_010110_1101010011, .bltN 40 22 851),
    (0b000_0110110_010011_011001_0001001100, .bgeS 19 25 76), (0b000_0110111_000101_000110_0011010110, .bgeN 5 6 214),
    (0b000_0111000_1001010100101110000111, .jmp 2444167), (0b000_0111001_1010001011110111011010, .jal 2670042),
    (0b000_0111010_010000_000001_0000000000, .jr 16 1), (0b000_0111011_100111_0101111001100010, .loop 39 24162)] = true := by decide +kernel

theorem test_decode_control_3 : reads [
    (0b000_0111100_0101111101_100111110101, .loopi 381 2549), (0b000_0111101_1000_0_111110_00000000000, .lbrk 8 0 62),
    (0b000_0111110_1010_1_00000000000000000, .barSync 10 1), (0b000_0111111_1110_0_00000000000000000, .barArr 14 0),
    (0b000_1000000_1110_1_00000000000000000, .barWait 14 1), (0b000_1000001_0011_0_010100_111011_00000, .barWaitt 3 0 20 59),
    (0b000_1000010_0100_0_00000000000000000, .barDrop 4 0), (0b000_1000011_1100_000000000000000000, .evSig 12),
    (0b000_1000100_0100_00101001_0000000000, .evWait 4 41), (0b000_1000101_1100_0_101001_111101_00000, .evWaitt 12 41 61),
    (0b000_1000110_100100_0000_001100100110, .csrr 36 806), (0b000_1000111_101100_0000_111100110100, .csrw 44 3892),
    (0b000_1001000_011001_000000000000_1_101, .mbrd 25 1 5), (0b000_1001001_000110_0000000000000_100, .mbwr 6 4),
    (0b000_1001010_000100_0000000000000000, .time 4), (0b000_1001010_000111_0000000000000001, .timeCyc 7),
    (0b000_1001011_0000000000000000000000, .yield), (0b000_1001011_0000000000000000000001, .yieldPause),
    (0b000_1001100_000111_0000100111101001, .trap 7 2537), (0b000_1001101_100001_111110_0000000000, .cswitch 33 62),
    (0b000_1001110_0101_0_1_1_1_1_010011_100010_0, .park 5 0 1 1 1 1 19 34), (0b000_1001110_0000000000000000000000, .parkEnd),
    (0b000_1001111_000000_001100_111100_0000, .wakehint 12 60), (0b000_1010000_101111_111111_0000000000, .ctxqSt 47 63),
    (0b000_1010000_000101_001001_0000000001, .ctxqWake 5 9), (0b000_1010000_001111_011111_0000000010, .ctxqTiers 15 31),
    (0b000_1010001_100100_101010_0000000000, .ctxnew 36 42), (0b000_1010010_110111_101000_0000000000, .ctxfree 55 40),
    (0b000_1010011_101000_000101_010010_0000, .ctxsetPrio 40 5 18), (0b000_1010011_001110_111011_111011_0001, .ctxsetBind 14 59 59)] = true := by decide +kernel

theorem test_decode_control_4 : reads [
    (0b000_1010100_0000000000000000000000, .rtt), (0b000_1010100_0000000000000000000001, .rttNext),
    (0b000_1010101_000000_001110_0000000000, .halt 14), (0b000_1010110_110000_000010_0000000000, .kill 48 2),
    (0b000_1010111_000101_010010_011011_0000, .hingePin 5 18 27), (0b000_1011000_011101_010000_0000000000, .hingeUnpin 29 16),
    (0b000_1011001_000100_000011_0000000000, .hingeQ 4 3), (0b000_1011010_001100_010011_011000_0000, .hingeMove 12 19 24),
    (0b000_1011011_000000_100010_0000000000, .tlbinvPart 34), (0b000_1011011_000000_100101_0000000001, .tlbinvS2 37),
    (0b000_1011011_000000_111111_0000000010, .tlbinvFab 63), (0b000_1011011_0000000000000000000011, .tlbinvAll),
    (0b000_1011011_000000_001001_0000000100, .tlbinvHost 9), (0b000_1011100_000110_011000_001001_0000, .hangRd 6 24 9)] = true := by decide +kernel

theorem test_decode_access_1 : reads [
    (0b001_0000000_1111_011101_111111_010110, .ldBS 15 29 63 22), (0b001_0000001_1011_101111_101101_100010, .ldBN 11 47 45 34),
    (0b001_0000010_1010_111101_001001_100110, .ldHS 10 61 9 38), (0b001_0000011_0001_111100_000010_011111, .ldHN 1 60 2 31),
    (0b001_0000100_1111_010111_101101_010100, .ldWS 15 23 45 20), (0b001_0000101_0001_000010_100111_101001, .ldWN 1 2 39 41),
    (0b001_0000110_0010_011111_000101_101111, .ldD 2 31 5 47), (0b001_0000111_0101_010101_001001_000101, .stB 5 21 9 5),
    (0b001_0001000_0010_011101_100011_011000, .stH 2 29 35 24), (0b001_0001001_1100_000011_111010_111100, .stW 12 3 58 60),
    (0b001_0001010_1100_110000_101110_001001, .stD 12 48 46 9), (0b001_0001011_1101_111110_111011_010110, .ldV 13 62 59 22),
    (0b001_0001100_0110_000110_101100_011111, .stV 6 6 44 31), (0b001_0001101_1111_000101_111000_110111, .ldVs 15 5 56 55),
    (0b001_0001110_0111_111101_110011_000010, .stVs 7 61 51 2), (0b001_0001111_1110_00_1000_100101_000001, .ldM 14 8 37 1),
    (0b001_0010000_1010_00_1011_011001_011001, .stM 10 11 25 25), (0b001_0010001_1010_000001_00_1010_000101, .sfetch 10 1 10 5),
    (0b001_0010010_0010_000110_101001_001000, .gathB 2 6 41 8), (0b001_0010011_0101_111001_011011_101111, .gathH 5 57 27 47),
    (0b001_0010100_0110_011001_111100_110000, .gathW 6 25 60 48), (0b001_0010101_1100_100110_011110_011101, .scatB 12 38 30 29),
    (0b001_0010110_1000_110110_100011_000110, .scatH 8 54 35 6), (0b001_0010111_1001_110001_100001_000010, .scatW 9 49 33 2),
    (0b001_0011000_0101_100111_0_0_1000_000010, .gathb 5 39 0 8 2), (0b001_0011001_000000000_0_111110_101101, .pref 0 62 45),
    (0b001_0011010_0010_00_1000_110010_101000, .dld 2 8 50 40), (0b001_0011011_1011_00_1111_100000_010001, .dst 11 15 32 17),
    (0b001_0011100_000000_1111_000001_000_011, .dset 15 1 3), (0b001_0011101_0101_001010_101100_101000, .rwaitf 5 10 44 40)] = true := by decide +kernel

theorem test_decode_access_2 : reads [
    (0b001_0011110_0100_000000_100010_001011, .rwaite 4 34 11), (0b001_0011111_1101_000000_111010_010110, .rpub 13 58 22),
    (0b001_0100000_1011_000000_111100_011101, .rrel 11 60 29), (0b001_0100001_1000_111010_010000_000000, .rclaimP 8 58 16),
    (0b001_0100001_0110_011010_101011_000001, .rclaimC 6 26 43), (0b001_0100010_0101_00_0100_101001_011100, .wmap 5 4 41 28),
    (0b001_0100010_1101_111111_110100_000000, .wmapOff 13 52), (0b001_0100011_1101_000000_111011_001101, .wadv 13 59 13),
    (0b001_0100100_1111_001110_011001_001111, .amoW 15 14 25 15), (0b001_0100101_1010_111011_010101_001110, .amoD 10 59 21 14),
    (0b001_0100110_0011_001001_100000_010111, .amoF 3 9 32 23), (0b001_0100111_0_000_101110_000101_111101, .casW 0 46 5 61),
    (0b001_0101000_1_000_110101_001011_001000, .casD 1 53 11 8), (0b001_0101001_1_000_011111_010010_111100, .casQ 1 31 18 60),
    (0b001_0101010_0100_00000000000000_1110, .fenceCls 4 14), (0b001_0101011_0000000000000000000000, .fence),
    (0b001_0101100_0000000000000000000000, .fenceView), (0b001_0101101_0111_011001_101001_100010, .fld 7 25 41 34),
    (0b001_0101110_1000_101100_010101_101110, .fst 8 44 21 46), (0b001_0101111_1110_110110_111111_101000, .famo 14 54 63 40),
    (0b001_0110000_1_000_010101_000101_110110, .fcas 1 21 5 54)] = true := by decide +kernel

theorem test_decode_vector_1 : reads [
    (0b010_0000000_001_010010_111000_100111_0, .vadd 1 18 56 39 0), (0b010_0000001_110_101110_010010_100101_1, .vsub 6 46 18 37 1),
    (0b010_0000010_011_101010_110011_100101_0, .vmul 3 42 51 37 0), (0b010_0000011_110_001001_011010_011110_0, .vmulh 6 9 26 30 0),
    (0b010_0000100_001_110010_110110_010010_0, .vmad 1 50 54 18 0), (0b010_0000101_111_001010_110011_000000_0, .vabs 7 10 51 0),
    (0b010_0000110_110_001000_011101_000000_0, .vneg 6 8 29 0), (0b010_0000111_110_100011_101010_101001_1, .vmin 6 35 42 41 1),
    (0b010_0001000_001_101100_001101_001101_1, .vmax 1 44 13 13 1), (0b010_0001001_011_001100_101110_000001_1, .vand 3 12 46 1 1),
    (0b010_0001010_101_101110_000011_001100_0, .vor 5 46 3 12 0), (0b010_0001011_011_110010_010111_100011_0, .vxor 3 50 23 35 0),
    (0b010_0001100_100_110111_110011_000000_0, .vnot 4 55 51 0), (0b010_0001101_001_011011_111100_111010_1, .vshl 1 27 60 58 1),
    (0b010_0001110_010_011101_011110_001101_0, .vshr 2 29 30 13 0), (0b010_0001111_100_100100_100101_101010_1, .vbfx 4 36 37 42 1),
    (0b010_0010000_100_010101_101010_111111_0, .vbfi 4 21 42 63 0), (0b010_0010001_001_101111_111000_110101_0, .vfshl 1 47 56 53 0),
    (0b010_0010010_010_010000_111010_011001_0, .vfshr 2 16 58 25 0), (0b010_0010011_011_100011_111111_000000_1, .vpopc 3 35 63 1),
    (0b010_0010100_011_111011_101110_000000_0, .vclz 3 59 46 0), (0b010_0010101_011_100001_000110_000011_1, .vaddi 3 33 6 3 1),
    (0b010_0010110_011_100100_011011_110010_1, .vshli 3 36 27 50 1), (0b010_0010111_100_111011_000010_001110_0, .vshri 4 59 2 14 0),
    (0b010_0011000_100_110100_000011_001100_1, .vfadd 4 52 3 12 1), (0b010_0011001_110_110011_111011_001001_1, .vfsub 6 51 59 9 1),
    (0b010_0011010_010_100010_111010_101111_1, .vfmul 2 34 58 47 1), (0b010_0011011_100_100110_111101_101101_0, .vfma 4 38 61 45 0),
    (0b010_0011100_111_001111_011101_100010_1, .vfmin 7 15 29 34 1), (0b010_0011101_111_101111_100100_101001_0, .vfmax 7 47 36 41 0)] = true := by decide +kernel

theorem test_decode_vector_2 : reads [
    (0b010_0011110_101_100001_110110_000000_1, .vfabs 5 33 54 1), (0b010_0011111_011_101011_011001_000000_0, .vfneg 3 43 25 0),
    (0b010_0100000_011_00_1110_001010_111110_1, .vcmpEq 3 14 10 62 1), (0b010_0100001_101_00_1000_001101_011011_0, .vcmpNe 5 8 13 27 0),
    (0b010_0100010_101_00_0001_100111_011001_0, .vcmpLt 5 1 39 25 0), (0b010_0100011_101_00_0001_100010_111011_1, .vcmpGe 5 1 34 59 1),
    (0b010_0100100_101_00_1101_100101_001000_1, .vfcmpEq 5 13 37 8 1), (0b010_0100101_001_00_1100_001011_000101_1, .vfcmpLt 1 12 11 5 1),
    (0b010_0100110_100_00_1111_111110_110100_1, .vfcmpLe 4 15 62 52 1), (0b010_0100111_011_00_0100_011111_100000_0, .vfcmpUn 3 4 31 32 0),
    (0b010_0101000_00000_0110_00_0111_00_1111_1, .mand 6 7 15 1), (0b010_0101001_00000_1001_00_0110_00_0010_0, .mor 9 6 2 0),
    (0b010_0101010_00000_0111_00_1010_00_0001_1, .mxor 7 10 1 1), (0b010_0101011_00000_0011_00_1100_000000_0, .mnot 3 12 0),
    (0b010_0101100_000_000011_00_0100_000000_0, .mpopc 3 4 0), (0b010_0101101_000_001111_00_0001_000000_1, .mfirst 15 1 1),
    (0b010_0101110_00000_0110_101111_000000_1, .msetLt 6 47 1), (0b010_0101110_00000_0100_101000_000001_1, .msetGe 4 40 1),
    (0b010_0101110_00000_0010_100000_000010_0, .msetQ 2 32 0), (0b010_0101111_111_100001_101000_010001_0, .vsel 7 33 40 17 0),
    (0b010_0110000_110_100010_111001_000000_1, .vmov 6 34 57 1), (0b010_0110001_001_011001_101001_000000_1, .vbcast 1 25 41 1),
    (0b010_0110010_111_100010_101000_001011_0, .vext 7 34 40 11 0), (0b010_0110011_111_101001_100011_101001_0, .vins 7 41 35 41 0),
    (0b010_0110100_101_001110_110111_100011_0, .vperm 5 14 55 35 0), (0b010_0110101_010_111011_110000_101001_1, .vshuf 2 59 48 41 1),
    (0b010_0110110_010_010101_100111_010101_0, .vrot 2 21 39 21 0), (0b010_0110111_010_110010_001101_000000_0, .vredAdd 2 50 13 0),
    (0b010_0111000_010_111001_010000_000000_0, .vredMax 2 57 16 0), (0b010_0111001_110_000110_010001_000000_1, .vredMin 6 6 17 1)] = true := by decide +kernel

theorem test_decode_vector_3 : reads [
    (0b010_0111010_001_011100_110110_000000_1, .vfredAdd 1 28 54 1), (0b010_0111011_101_110011_101110_000000_0, .vfredMax 5 51 46 0),
    (0b010_0111100_010_011010_101001_000000_0, .vfredMin 2 26 41 0), (0b010_0111101_001_001101_100101_00000_1_1, .vscanAdd 1 13 37 1 1),
    (0b010_0111110_001_101110_100001_1_0_0_100_0, .vcvt 1 46 33 1 0 0 4 0), (0b010_0111111_001_000011_110001_100100_1, .vquant 1 3 49 36 1),
    (0b010_1000000_010_001101_001100_000000_0, .vdequant 2 13 12 0), (0b010_1000001_111_001110_001100_110110_0, .vsmxUpd 14 12 54 0),
    (0b010_1000010_111_010011_111100_101100_0, .vsmxFin 19 60 44 0), (0b010_1000011_111_100110_000100_001001_1, .vrbias 38 4 9 1),
    (0b010_1000100_001_110001_000111_000000_1, .vidx 1 49 7 1), (0b010_1000101_100_011110_011100_100001_1, .vlut 4 30 28 33 1)] = true := by decide +kernel

theorem test_decode_matrix : reads [
    (0b011_0000000_100_0100_1010_0110_001_0_0_0_0, .mmt 4 4 10 6 1 0 0 0), (0b011_0000001_100_1000_00_10_1100_011_1_0_0_0, .mmtWb 4 8 2 12 3 1 0),
    (0b011_0000010_101_00000000_0011_0000000, .scommit 5 3), (0b011_0000011_001_00000000_1001_0000000, .sdrop 1 9),
    (0b011_0000100_111_00000000_0001_000_1_000, .accz 7 1 1), (0b011_0000101_001_1101_0000_1110_000_1_000, .accld 1 13 14 1),
    (0b011_0000110_101_1010_0000_0100_000_1_0_1_0, .accst 5 10 4 1 1), (0b011_0000111_011_111011_001000_000_0_0_1_0, .accmv 3 59 8 0 1),
    (0b011_0001000_0_01_1111_0000_0110_0000000, .wbload 1 15 6), (0b011_0001001_11_0_1100_0110_1101_00_1_00_0_0, .attb 3 12 6 13 1 0)] = true := by decide +kernel

theorem test_decode_function : reads [
    (0b100_0000000_100_001110_101111_000_010_0, .sfuExp2 4 14 47 2), (0b100_0000001_001_110100_010110_000_011_0, .sfuLog2 1 52 22 3),
    (0b100_0000010_100_000111_000001_000_011_0, .sfuRcp 4 7 1 3), (0b100_0000011_110_111010_101000_000_001_0, .sfuRsqrt 6 58 40 1),
    (0b100_0000100_010_010010_111101_000_110_0, .sfuSqrt 2 18 61 6), (0b100_0000101_011_010110_001110_000_110_0, .sfuSin 3 22 14 6),
    (0b100_0000110_100_100101_001100_000_101_0, .sfuCos 4 37 12 5), (0b100_0000111_001_011001_100001_100_110_0, .tint 1 25 33 4 6),
    (0b100_0001000_111_001110_101101_001_111_0, .tload 14 45 1 7), (0b100_0001001_100_000000_111111_000_101_0, .topkInit 4 63 5),
    (0b100_0001010_001_001000_101000_000_001_0, .topkFeed 1 8 40 1), (0b100_0001011_000_110000_010000_011_100_0, .topkEmit 48 16 3 4),
    (0b100_0001100_000_011010_000000000_101_0, .topkQ 26 5)] = true := by decide +kernel

theorem test_decode_transfer : reads [
    (0b101_0000000_000100_110001_001101_1011, .copy 4 49 13 11), (0b101_0000001_011001_000001_000111_0101, .copyMmt 25 1 7 5),
    (0b101_0000010_010001_000000000000_0101, .collOpen 17 5), (0b101_0000011_111010_000000000000_0110, .collRed 58 6),
    (0b101_0000100_100100_000000000000_1001, .collBar 36 9), (0b101_0000101_100001_000000000000_0111, .collClose 33 7),
    (0b101_0000110_111110_100010_000000_1010, .gready 62 34 10), (0b101_0000111_110111_000111_000000_1011, .gunready 55 7 11),
    (0b101_0001000_011101_110100_0_00000_1001, .gsend 29 52 0 9), (0b101_0001001_100111_000000000000_1011, .grecv 39 11),
    (0b101_0001010_110001_111110_000000_0001, .gqpush 49 62 1), (0b101_0001011_011001_000000000000_1111, .gqwait 25 15),
    (0b101_0001100_111101_000000000000_0011, .launch 61 3), (0b101_0001101_011001_00_1_010_110111_1000, .mbsend 25 1 2 55 8)] = true := by decide +kernel

theorem test_decode_join : reads [
    (0b110_0000000_0_1_1_1_1_1_0000000000000000, .join 0 1 1 1 1 1)] = true := by decide +kernel

theorem test_decode_prefix : reads [
    (0b111_000_10011001000010111000010100, .extImm 40119828), (0b111_001_011_10_1001_00000000000000000, .extOrd 3 2 9),
    (0b111_010_1_1000_10101000_1_1001_00000000, .extTok 1 8 168 1 9), (0b111_011_0000000000000000000000_1111, .extStall 15),
    (0b111_100_000000000000000000000_1_1011, .extMask 1 11), (0b111_101_101110_1_0_0_00000000000000000, .extInd 46 1 0 0)] = true := by decide +kernel

/-! Ill-formed terms, one for each check of WellFormed, and the limits themselves. -/

theorem test_events_are_no_words : ∀ i ∈ [Instr.fetchWord, .camStep, .reset, .guestLinksTrained], i.wf = false := by decide +kernel

theorem test_fields_outside_limits : ∀ i ∈ [Instr.cmp 1 2 3 6, .fcmp 1 2 3 4 0, .park 0 0 0 0 0 0 0 0, .park 1 1 0 0 0 0 0 0, .park 0 1 0 0 0 0 0 1, .park 0 1 0 0 0 0 1 0,
    .amoF 6 1 2 3, .casQ 0 3 1 4, .casQ 0 0 1 4, .casQ 0 4 1 5, .casQ 0 4 1 0, .vbfx 3 1 2 3 0, .vbfi 3 1 2 3 0, .vfshl 0 1 2 3 0, .vfshr 3 1 2 3 0, .vfadd 4 1 2 3 0, .vfsub 0 1 2 3 0, .vfmul 4 1 2 3 0,
    .vfma 4 1 2 3 0, .vfmin 4 1 2 3 0, .vfmax 4 1 2 3 0, .vfcmpEq 4 1 2 3 0, .vfcmpLt 4 1 2 3 0, .vfcmpLe 4 1 2 3 0, .vfcmpUn 4 1 2 3 0, .vfredAdd 4 1 2 0, .vfredMax 4 1 2 0, .vfredMin 4 1 2 0,
    .vscanAdd 4 1 2 1 0, .vquant 5 1 2 3 0, .vdequant 5 1 2 0], i.wf = false := by decide +kernel

theorem test_fields_outside_limits_of_engines : ∀ i ∈ [Instr.mmt 0 1 2 0 4 0 0 0, .mmtWb 0 1 2 0 4 0 0, .attb 0 1 15 0 0 0, .sfuExp2 4 1 2 0, .sfuLog2 4 1 2 0, .sfuRcp 4 1 2 0, .sfuRsqrt 4 1 2 0,
    .sfuSqrt 4 1 2 0, .sfuSin 4 1 2 0, .sfuCos 4 1 2 0, .tint 4 1 2 0 0, .tload 3 1 0 0, .topkInit 2 1 0, .topkEmit 1 2 3 0, .join 0 0 0 0 0 0, .extOrd 7 0 0], i.wf = false := by decide +kernel

theorem test_fields_at_limits : ∀ i ∈ [Instr.cmp 1 2 3 5, .fcmp 1 2 3 3 0, .amoF 5 1 2 3, .casQ 0 2 1 2, .vbfx 4 1 2 3 0, .vfadd 5 1 2 3 0, .vquant 4 1 2 3 0, .mmt 0 1 2 0 3 0 0 0, .attb 0 1 14 0 0 0,
    .tload 2 1 0 0, .topkInit 3 1 0, .topkEmit 1 2 2 0, .extOrd 6 0 0, .vscanAdd 0 1 2 0 0], i.wf = true := by decide +kernel

/-! Single steps. Every expected value is worked out by hand from the rule that the name of the instruction leads to. -/

/-- The word executes to a next state that satisfies `p`. -/
noncomputable def after (i : Instr) (s : State) (p : State → Bool) : Bool :=
  match exec i s with
  | .next t => p t
  | _ => false

/-- Division by zero and overflow (R114); shifts take their amount modulo 64 (R112); a product's upper half (R111). -/
theorem test_integer_corners :
    after (.add 1 7 5) (sst (.add 1 7 5)) (fun t => t.cs.sc 1 == 0) ∧ after (.add 0 7 5) (sst (.add 0 7 5)) (fun t => t.cs.sc 0 == 0) ∧
    after (.mulhN 1 7 7) (sst (.mulhN 1 7 7)) (fun t => t.cs.sc 1 == 0xFFFFFFFFFFFFFFFE) ∧ after (.mulhS 1 7 7) (sst (.mulhS 1 7 7)) (fun t => t.cs.sc 1 == 0) ∧
    after (.divS 1 6 7 0) (sst (.divS 1 6 7 0)) (fun t => t.cs.sc 1 == 0x8000000000000000) ∧ after (.remS 1 6 7 0) (sst (.remS 1 6 7 0)) (fun t => t.cs.sc 1 == 0) ∧
    after (.divN 1 2 8 0) (sst (.divN 1 2 8 0)) (fun t => t.cs.sc 1 == 0xFFFFFFFFFFFFFFFF) ∧ after (.shrS 1 6 7) (sst (.shrS 1 6 7)) (fun t => t.cs.sc 1 == 0xFFFFFFFFFFFFFFFF) ∧
    after (.shl 1 1 4) (sst (.shl 1 1 4)) (fun t => t.cs.sc 1 == 5) := by decide +kernel

/-- `divS` with T = 1 traps with ARITH and TVAL 0 on a zero divisor; TEPC is the word's address, and the handler runs in the P view. -/
theorem test_division_trap : let i := Instr.divS 1 6 8 1; let s := cst i { s := regs, tvec := 0x2000, unit := { addr := 0x1000 } }
    after i s (fun t => t.cs.pc == 0x2000 && t.cs.p && !t.cs.pp && t.cs.tepc == 0x1000 && t.cs.tval == 0 && t.cs.tcause.toNat % 256 == Cause.arith.code.toNat && t.cs.frame.isSome && t.cs.sc 6 == 0) := by
  decide +kernel

/-- Branch targets count words from the branch (R128); a loop of no iterations goes past its end (R131). -/
theorem test_control_flow :
    after (.beq 1 1 0x3FF) (cst (.beq 1 1 0x3FF) { unit := { taddr := 0x1000 } }) (fun t => t.cs.pc == 0xFFC) ∧
    after (.bne 1 1 5) (cst (.bne 1 1 5) { unit := { taddr := 0x1000 } }) (fun t => t.cs.pc == 0x1004) ∧
    after (.jal 4) (cst (.jal 4) { unit := { taddr := 0x1000 } }) (fun t => t.cs.pc == 0x1010 && t.cs.sc 1 == 0x1004) ∧
    after (.loopi 0 4) (cst (.loopi 0 4) { unit := { taddr := 0x1000 } }) (fun t => t.cs.pc == 0x1014 && t.cs.loops == []) ∧
    after (.loopi 3 4) (cst (.loopi 3 4) { unit := { taddr := 0x1000 } }) (fun t => t.cs.pc == 0x1004 && t.cs.loops == [⟨0x1004, 0x1010, 3⟩]) := by decide +kernel

/-- The last arrival opens the next phase (R134); a drop lowers what the next phase expects. -/
theorem test_barrier_phase :
    after (.barArr 1 0) (barSt (.barArr 1 0) ⟨2, 1, 0, 3⟩ none) (fun t => t.csTeam.barrier 1 == ⟨2, 0, 0, 4⟩) ∧
    after (.barDrop 1 0) (barSt (.barDrop 1 0) ⟨2, 1, 0, 3⟩ none) (fun t => t.csTeam.barrier 1 == ⟨1, 0, 0, 4⟩) := by decide +kernel

/-- Bytes lie in little-endian order (R150), and a sign-extending load extends (R155). -/
theorem test_byte_order :
    (let s := memSt (.stH 0 8 1 0); after (.stH 0 8 1 0) { s with cs := s.cs.setSc 8 0x1280 } (fun t => memByte t.mem (tileBase 0 0 + 3 * 2 ^ 16) == 0x80 && memByte t.mem (tileBase 0 0 + 3 * 2 ^ 16 + 1) == 0x12)) ∧
    (let s := memSt (.ldBS 0 9 1 0); after (.ldBS 0 9 1 0) { s with mem := setBytes [] (tileBase 0 0 + 3 * 2 ^ 16) [0x80] } (fun t => t.cs.sc 9 == 0xFFFFFFFFFFFFFF80)) ∧
    (let s := memSt (.ldHS 0 9 2 0); after (.ldHS 0 9 2 0) { s with cs := { s.cs with tvec := 0x2000 } } (fun t => t.cs.tcause.toNat % 256 == Cause.misaligned.code.toNat && t.cs.tval == 0x6A0000000001)) := by decide +kernel

/-- An atomic returns the old value and stores the new one (R172). -/
theorem test_atomic_add : let s := memSt (.amoW 1 3 1 4)
    after (.amoW 1 3 1 4) { s with mem := setBytes [] (tileBase 0 0 + 3 * 2 ^ 16) [0xFF, 0xFF, 0xFF, 0xFF] } (fun t => t.cs.sc 3 == 0xFFFFFFFF && memNat t.mem (tileBase 0 0 + 3 * 2 ^ 16) 4 == 1) := by decide +kernel

/-- Lanes wrap on their own (R181); a reduction writes element 0 and zeros (R190). -/
theorem test_vector_lanes :
    after (.vadd 7 3 1 2 0) (vecSt (.vadd 7 3 1 2 0)) (fun t => elemAt (t.cs.vr 3) 32 0 == 0 && elemAt (t.cs.vr 3) 32 1 == 0xFFFFFFFF) ∧
    after (.vredAdd 7 3 2 0) (vecSt (.vredAdd 7 3 2 0)) (fun t => t.cs.vr 3 == 0xFFFFFF80) ∧
    after (.vclz 6 3 1 0) (vecSt (.vclz 6 3 1 0)) (fun t => elemAt (t.cs.vr 3) 32 0 == 31 && elemAt (t.cs.vr 3) 32 1 == 32) ∧
    after (.mfirst 3 1 0) (vecSt (.mfirst 3 1 0)) (fun t => t.cs.vr 3 == 0) := by decide +kernel

/-- 1 + 1 in FP32 is 2; 1 / 0 is infinity and raises the flag of R124. -/
theorem test_float_words : let s := cst (.fadd 3 1 1 0) { s := [(1, 0x3F800000)] }
    after (.fadd 3 1 1 0) s (fun t => t.cs.sc 3 == 0x40000000 && t.cs.flags == 0) ∧
    after (.fdiv 3 1 2 0) (cst (.fdiv 3 1 2 0) { s := [(1, 0x3F800000)] }) (fun t => t.cs.sc 3 == 0x7F800000 && t.cs.flags != 0) := by decide +kernel

end Sys2Proof.Tests
end

section
/-! CSR fields: what a write leaves in each field (R142, R271 to R273). -/

namespace Sys2Proof.Machine

/-! A field narrower than its CSR keeps the low bits of what is written. -/

theorem csrOf_ofNat_mod {w : Nat} (x : Dword) (k : Nat) (hk : k ≤ w) (hw : w ≤ 64) :
    csrOf (BitVec.ofNat w (x.toNat % 2 ^ k)) = x &&& BitVec.ofNat 64 (2 ^ k - 1) := by
  apply BitVec.eq_of_toNat_eq
  have hkw : 2 ^ k ≤ 2 ^ w := Nat.pow_le_pow_right (by decide) hk
  have hw64 : 2 ^ w ≤ 2 ^ 64 := Nat.pow_le_pow_right (by decide) hw
  have hlt : x.toNat % 2 ^ k < 2 ^ k := Nat.mod_lt _ (Nat.two_pow_pos k)
  simp only [csrOf, BitVec.toNat_setWidth, BitVec.toNat_and, BitVec.toNat_ofNat]
  rw [Nat.mod_eq_of_lt (show 2 ^ k - 1 < 2 ^ 64 by omega), Nat.and_two_pow_sub_one_eq_mod,
    Nat.mod_eq_of_lt (show x.toNat % 2 ^ k < 2 ^ w by omega), Nat.mod_eq_of_lt (show x.toNat % 2 ^ k < 2 ^ 64 by omega)]

theorem csrOf_setWidth {w : Nat} (x : Dword) (h : w ≤ 64) : csrOf (x.setWidth w) = x &&& BitVec.ofNat 64 (2 ^ w - 1) := by
  rw [← csrOf_ofNat_mod x w le_rfl h]
  exact congrArg csrOf (BitVec.eq_of_toNat_eq (by simp))

/-- Clearing the bits written as 1 commutes with widening. -/
theorem csrOf_clear {w : Nat} (f : BitVec w) (x : Dword) : csrOf (f &&& ~~~(x.setWidth w)) = csrOf f &&& ~~~x := by
  ext i hi
  by_cases hw : i < w
  · simp [csrOf, hw, hi]
  · simp [csrOf, BitVec.getLsbD_of_ge f i (by omega)]

/-- RBTAB as it reads back after a write (R198). -/
theorem csrOf_rbtabWrite (old : BitVec 9) (x : Dword) :
    csrOf (rbtabWrite old x) = (x &&& 0x130) ||| (if x.toNat % 8 < 5 then x &&& 7 else csrOf old &&& 7) := by
  have high : csrOf ((x.setWidth 9) &&& 0x130) = x &&& 0x130 := by
    rw [show csrOf ((x.setWidth 9) &&& 0x130) = csrOf (x.setWidth 9) &&& csrOf (0x130 : BitVec 9) from BitVec.setWidth_and,
      csrOf_setWidth x (by decide), BitVec.and_assoc]
    rfl
  have oldP : csrOf (BitVec.ofNat 9 (old.toNat % 8)) = csrOf old &&& 7 := by
    have h : csrOf (BitVec.ofNat 9 ((csrOf old).toNat % 8)) = csrOf old &&& 7 := csrOf_ofNat_mod _ 3 (by decide) (by decide)
    rwa [show (csrOf old).toNat = old.toNat from BitVec.toNat_setWidth_of_le (by decide)] at h
  have newP : csrOf (BitVec.ofNat 9 (x.toNat % 8)) = x &&& 7 := csrOf_ofNat_mod x 3 (by decide) (by decide)
  have split : csrOf (rbtabWrite old x) =
      csrOf ((x.setWidth 9) &&& 0x130) ||| csrOf (BitVec.ofNat 9 (if 5 ≤ x.toNat % 8 then old.toNat % 8 else x.toNat % 8)) :=
    BitVec.setWidth_or
  rw [split, high]
  by_cases h : x.toNat % 8 < 5
  · rw [if_neg (by omega), if_pos h, newP]
  · rw [if_pos (by omega), if_neg h, oldP]

/-- A write of RNDM.MODE: the reserved modes 6 and 7 change nothing (R59). -/
theorem csrWrite_rndm (s : State) (x : Dword) :
    csrWrite s 0x002 x = some (if 6 ≤ x.toNat % 8 then s else s.onCs (fun t => { t with rndm := x.setWidth 3 })) := rfl

/-- A write of SCBM: the reserved mode 3 changes nothing (R95). -/
theorem csrWrite_scbm (s : State) (x : Dword) :
    csrWrite s 0x003 x = some (if x.toNat % 4 = 3 then s else s.onCs (fun t => { t with scbm := x.setWidth 2 })) := rfl

/-- The CSRs of the strand itself, each written without an effect outside the strand's CSR fields (R142, R271). -/
def ownCsrs : List (BitVec 12) :=
  [0x001, 0x002, 0x003, 0x030, 0x031, 0x032, 0x060, 0x800, 0x801, 0x802, 0x803, 0x804, 0x805, 0x810, 0x820]

/-- A write of one of the strand's own CSRs leaves memory, its scalars, its vectors and the contexts alone. -/
theorem csrWrite_frame {s t : State} {x : Dword} : ∀ c ∈ ownCsrs, csrWrite s c x = some t →
    t.mem = s.mem ∧ t.cs.s = s.cs.s ∧ t.cs.v = s.cs.v ∧ t.ctxs = s.ctxs := by
  simp only [ownCsrs, List.forall_mem_cons, csrWrite_rndm, csrWrite_scbm, List.not_mem_nil, false_imp_iff, implies_true, and_true]
  refine ⟨?_, ?_, ?_, ?_, ?_, ?_, ?_, ?_, ?_, ?_, ?_, ?_, ?_, ?_, ?_⟩ <;> rintro ⟨⟩
  case refine_2 | refine_3 => split <;> exact ⟨rfl, rfl, rfl, rfl⟩
  all_goals exact ⟨rfl, rfl, rfl, rfl⟩

/-- Settles O9, field by field. -/
theorem csrFieldsFollowTheirAccessCodes : Obligations.CsrFieldsFollowTheirAccessCodes := by
  intro s t x
  refine ⟨?flags, ?srseed, ?srstream, ?rndm, ?scbm, ?stat, ?rbtab, ?tvec, ?tepc, ?pstat,
    rfl, rfl, rfl, rfl, rfl, rfl, rfl, rfl, rfl, rfl, rfl, csrWrite_frame⟩
  case flags => rintro ⟨⟩; exact congrArg some (csrOf_setWidth x (by decide))
  case srseed => rintro ⟨⟩; rfl
  case srstream => rintro ⟨⟩; exact congrArg some (csrOf_setWidth x (by decide))
  case rndm =>
    rw [csrWrite_rndm]
    rintro ⟨⟩
    by_cases h : x.toNat % 8 < 6
    · rw [if_neg (by omega), if_pos h]; exact congrArg some (csrOf_setWidth x (by decide))
    · rw [if_pos (by omega), if_neg h]
  case scbm =>
    rw [csrWrite_scbm]
    rintro ⟨⟩
    by_cases h : x.toNat % 4 < 3
    · rw [if_neg (by omega), if_pos h]; exact congrArg some (csrOf_setWidth x (by decide))
    · rw [if_pos (by omega), if_neg h]
  case stat => rintro ⟨⟩ old ⟨⟩; exact congrArg some (csrOf_clear s.cs.stat x)
  case rbtab => rintro ⟨⟩ old ⟨⟩; exact congrArg some (csrOf_rbtabWrite s.cs.rbtab x)
  case tvec => rintro ⟨⟩; rfl
  case tepc => rintro ⟨⟩; rfl
  case pstat => rintro ⟨⟩; exact ⟨rfl, rfl⟩

end Sys2Proof.Machine
end

section
/-! Registers that the host writes (R8, R332, R368, R376, R377, R411). -/

namespace Sys2Proof.Machine

/-! Writes that wait for READY (R407). -/

theorem whenReady_of_ready {s : State} (h : s.mstate = 3) (f : State → State) : whenReady s f = .next (f s) := by
  rw [whenReady, if_pos h]

theorem whenReady_of_not_ready {s : State} (h : s.mstate ≠ 3) (f : State → State) : whenReady s f = .next s := by
  rw [whenReady, if_neg h]

/-! The partition control block (R332, R368). -/

theorem partPlaced_iff {s : State} {p : BitVec 6} :
    partPlaced s p = true ↔ ∃ m ∈ s.teams, m.placed = true ∧ handlePart m.ctx = p := by
  simp [partPlaced, handlePart]

theorem partPlaced_eq_false_iff {s : State} {p : BitVec 6} :
    partPlaced s p = false ↔ ∀ m ∈ s.teams, m.placed = false ∨ handlePart m.ctx ≠ p := by
  rw [← Bool.not_eq_true, partPlaced_iff]
  simp only [not_exists, not_and, ← Bool.not_eq_true, imp_iff_not_or, ne_eq]

/-- A write to the block once the partition has no reason to be refused: LQBASE, LQTAIL, LQSCHED, HEAD and PCMD have rows of their own. -/
theorem writePart_of_row {s : State} {p : BitVec 6} {o : BitVec 17} (x : Dword) (h : s.mstate = 3) {n : Nat} (hn : o.toNat / 8 * 8 = n)
    (hlt : n < 0x10000) (hrow : n ∉ [0x020, 0x100, 0x108, 0x110, 0x118]) :
    exec (.partitionRegisterWrite p o x) s = .next (if partPlaced s p then pctlErr s p else writePart s p n x) := by
  simp only [List.mem_cons, List.not_mem_nil, or_false, not_or] at hrow
  obtain ⟨h1, h2, h3, h4, h5⟩ := hrow
  rw [exec_partitionRegisterWrite, execPartitionRegisterWrite, whenReady_of_ready h]
  simp [hn, Nat.not_le.mpr hlt, h1, h2, h3, h4, h5]

/-- LQBASE keeps ORDER for values above 13 (R332). -/
theorem writeLqbase_eq (s : State) (p : BitVec 6) (x : Dword) : writeLqbase s p x =
    if s.pcbReg p.toNat 0x108 ≠ s.pcbReg p.toNat 0x110 then lqErr s p
    else s.setPcb p.toNat 0x100 (if 14 ≤ x.toNat % 16 then (x &&& ~~~0xFFF) ||| (s.pcbReg p.toNat 0x100 &&& 0xF)
      else x &&& 0xFFFFFFFFFFFFF00F) := by
  have low : (x &&& ~~~0xFFF) ||| (x &&& 0xF) = x &&& 0xFFFFFFFFFFFFF00F := (BitVec.and_or_distrib_left ..).symm
  simp only [writeLqbase]
  split
  · rfl
  · split <;> simp_all

theorem lqbaseWrite_of_ready {s : State} (h : s.mstate = 3) (p : BitVec 6) (x : Dword) :
    exec (.lqbaseWrite p x) s = .next (writeLqbase s p x) :=
  (exec_lqbaseWrite ..).trans (whenReady_of_ready h _)

theorem doorbell_of_ready {s : State} (h : s.mstate = 3) (p : BitVec 6) (v : Word) :
    exec (.doorbell p v) s = .next (writeTail s p v) :=
  (exec_doorbell ..).trans (whenReady_of_ready h _)

/-- A host range entry's base is kept within its limits, and sets ERR outside them (R368). -/
theorem writePart_range (s : State) (p : BitVec 6) (x : Dword) {n : Nat} (h1 : 0x200 ≤ n) (h2 : n < 0x300) (h : n % 16 = 0) :
    writePart s p n x =
      if rangeOk (x &&& ~~~0xFFE) (s.pcbReg p.toNat (n + 8)) then s.setPcb p.toNat n (x &&& ~~~0xFFE) else pctlErr s p := by
  simp [writePart, h1, h2, h, show n ≠ 0 by omega, show n ≠ 8 by omega, show n ≠ 16 by omega, show n ≠ 24 by omega]

/-- The stage-2 half of an aliased window is kept within its limits, and sets ERR outside them (R368). -/
theorem writePart_alias (s : State) (p : BitVec 6) (x : Dword) {n : Nat} (h1 : 0x300 ≤ n) (h2 : n < 0x340) (h : n % 16 = 8) :
    writePart s p n x =
      if aliasOk (s.pcbReg p.toNat (n - 8)) (x &&& ~~~0x3FFFFFFF) then s.setPcb p.toNat n (x &&& ~~~0x3FFFFFFF) else pctlErr s p := by
  simp [writePart, h1, h2, h, Nat.not_lt.mpr h1, show n ≠ 0 by omega, show n ≠ 8 by omega, show n ≠ 16 by omega, show n ≠ 24 by omega]

/-! The management mailbox (R411). -/

theorem writeMcmd_of_refused {s : State} {op : Nat} (h : s.mbusy = true ∨ op = 0 ∨ 4 ≤ op) : writeMcmd s op = { s with mresult := 1 } := by
  rw [writeMcmd, if_pos]; simpa [or_assoc] using h

theorem writeMcmd_of_command {s : State} {op : Nat} (h : s.mbusy = false) (h1 : 1 ≤ op) (h2 : op < 4) :
    writeMcmd s op = { s with mbusy := true, due := s.due ++ [.command op] } := by
  rw [writeMcmd, if_neg]; simp [h]; omega

theorem length_leBytes (n x : Nat) : (leBytes n x).length = n := by
  induction n generalizing x with
  | zero => rfl
  | succ n ih => simp [leBytes, ih]

theorem getElem?_leBytes (n x : Nat) {k : Nat} (h : k < n) : (leBytes n x)[k]? = some (BitVec.ofNat 8 (x / 256 ^ k)) := by
  induction n generalizing x k with
  | zero => exact absurd h (Nat.not_lt_zero k)
  | succ n ih =>
    cases k with
    | zero => simp [leBytes]
    | succ k => rw [leBytes, List.getElem?_cons_succ, ih _ (by omega), Nat.div_div_eq_div_mul, ← Nat.pow_succ']

/-- Byte `k` of the little-endian bytes of a word is the byte of the word. -/
theorem getElem?_leBytes_toNat {w : Nat} (x : BitVec w) (n : Nat) {k : Nat} (h : k < n) :
    (leBytes n x.toNat)[k]? = some (byteOf x k) := by
  rw [getElem?_leBytes _ _ h, show (256 : Nat) = 2 ^ 8 from rfl, ← Nat.pow_mul]
  exact congrArg some (BitVec.eq_of_toNat_eq (by simp [byteOf, Nat.shiftRight_eq_div_pow]))

theorem mdataBytes_of_full {s : State} (h : s.mdata.length = 512) : mdataBytes s = s.mdata := by
  rw [mdataBytes, ← h, List.take_left]

/-- Bytes written over a list from place `k` on: they stand there, and the others stay. -/
theorem getElem?_overwrite {α : Type} (m l : List α) {k : Nat} (h : k + l.length ≤ m.length) (j : Nat) :
    (m.take k ++ l ++ m.drop (k + l.length))[j]? = if k ≤ j ∧ j < k + l.length then l[j - k]? else m[j]? := by
  have hk : (m.take k).length = k := List.length_take_of_le (by omega)
  by_cases h1 : j < k
  · rw [if_neg (by omega), List.append_assoc, List.getElem?_append_left (by omega), List.getElem?_take_of_lt h1]
  · by_cases h2 : j < k + l.length
    · rw [if_pos (by omega), List.getElem?_append_left (by simp [hk]; omega), List.getElem?_append_right (by omega), hk]
    · rw [if_neg (by omega), List.getElem?_append_right (by simp [hk]; omega), List.getElem?_drop]
      exact congrArg (m[·]?) (by simp [hk]; omega)

/-- MDATA after a write of eight bytes from byte `k` on. -/
def mdataWrite (s : State) (k : Nat) (x : Dword) : List Byte := s.mdata.take k ++ leBytes 8 x.toNat ++ s.mdata.drop (k + 8)

/-- Full management data stay full, with the bytes of `x` from byte `k` on and the others as before. -/
theorem mdataWrite_spec {s : State} (x : Dword) (hm : s.mdata.length = 512) {k : Nat} (hk : k + 8 ≤ 512) :
    (mdataWrite s k x).length = 512 ∧
    ∀ j < 512, (mdataWrite s k x)[j]? = if k ≤ j ∧ j < k + 8 then some (byteOf x (j - k)) else s.mdata[j]? := by
  have len := length_leBytes 8 x.toNat
  refine ⟨?_, fun j _ => ?_⟩
  · simp [mdataWrite, len, hm]; omega
  · have h := getElem?_overwrite s.mdata (leBytes 8 x.toNat) (show k + (leBytes 8 x.toNat).length ≤ s.mdata.length by omega) j
    rw [len] at h
    rw [mdataWrite, h]
    split
    · exact getElem?_leBytes_toNat x 8 (by omega)
    · rfl

/-! The pool ranges (R376). -/

/-- The first frame of the pool range whose registers stand at `r`, and the first one behind it. -/
def poolLo (s : State) (r : Nat) : Nat := poolKey ((s.bar r).toNat / 2 ^ 30 * 2 ^ 30)
def poolHi (s : State) (r : Nat) : Nat := poolKey ((s.bar r).toNat / 2 ^ 30 * 2 ^ 30 + (s.bar (r + 8)).toNat % 2 ^ 16 * 2 ^ 30)

/-- A page's frame lies in the range. -/
def poolHeld (s : State) (r : Nat) : Bool := (framesUsed s).any (fun f => poolLo s r ≤ f && f < poolHi s r)

theorem poolHeld_iff {s : State} {r : Nat} : poolHeld s r = true ↔ ∃ f ∈ framesUsed s, poolLo s r ≤ f ∧ f < poolHi s r := by
  simp [poolHeld]

theorem poolHeld_eq_false_iff {s : State} {r : Nat} :
    poolHeld s r = false ↔ ∀ f ∈ framesUsed s, ¬ (poolLo s r ≤ f ∧ f < poolHi s r) := by
  simp [poolHeld]

/-- A valid range in which a page's frame lies stays; else the register is written and the frames set aside there are used again. -/
theorem poolRegisterWrite_eq (s : State) (o : BitVec 32) (x : Dword) {n r : Nat} (hn : o.toNat / 8 * 8 = n)
    (hr : 0x1000 + (n - 0x1000) / 16 * 16 = r) (h1 : 0x1000 ≤ n) (h2 : n < 0x1080) :
    exec (.poolRegisterWrite o x) s =
      if (s.bar r).getLsbD 0 && poolHeld s r then .next s
      else .next (({ s with badT2 := s.badT2.filter (fun f => !(poolLo s r ≤ f && f < poolHi s r)) } : State).setBar n
        (if n % 16 = 0 then x &&& ~~~0x3FFFFFFE else x &&& 0xFFFF)) := by
  have e1 : 0x1000 + 16 * ((n - 0x1000) / 16) = r := by omega
  have e2 : 0x1008 + 16 * ((n - 0x1000) / 16) = r + 8 := by omega
  have valid : (s.bar r).getLsbD 0 = decide ((s.bar r).toNat % 2 = 1) := by simp [BitVec.getLsbD, Nat.testBit_zero]
  have row : ¬ (n < 0x1000 ∨ 0x1080 ≤ n) := by omega
  rw [exec_poolRegisterWrite, valid]
  simp only [execPoolRegisterWrite, hn, e1, e2, Bool.or_eq_true, decide_eq_true_eq, row, if_false]
  rfl

/-! The obligation, clause by clause. -/

/-- Settles O43: each register by the equation of its write. -/
theorem registersThatTheHostWrites : Obligations.RegistersThatTheHostWrites := by
  refine ⟨?beforeReady, ?block, ?doorbell, ?registers, ?pools, fun s p => ⟨rfl, rfl, rfl, rfl⟩⟩
  case beforeReady =>
    intro s p o x w h
    exact ⟨(exec_partitionRegisterWrite ..).trans (by rw [execPartitionRegisterWrite, whenReady_of_not_ready h]),
      (exec_lqbaseWrite ..).trans (whenReady_of_not_ready h _), (exec_doorbell ..).trans (whenReady_of_not_ready h _)⟩
  case block =>
    intro s p o x h reg set write bad n
    have hn : o.toNat / 8 * 8 = n := rfl
    have hw : write = execPartitionRegisterWrite p o x s := exec_partitionRegisterWrite ..
    simp only [execPartitionRegisterWrite, whenReady_of_ready h, hn] at hw
    rw [lqbaseWrite_of_ready h, doorbell_of_ready h]
    refine ⟨fun e => ?_, fun e l => ?_, fun e l => ?_, fun l => ?_, fun e => ?_, fun e => ?_, fun e => ?_, fun l r hp => ?_, fun hp => ?_⟩
    · rw [writeLqbase_eq, if_pos e]; rfl
    · rw [writeLqbase_eq, if_neg (not_not.mpr e), if_neg (Nat.not_le.mpr l)]
    · rw [writeLqbase_eq, if_neg (not_not.mpr e), if_pos l]
    · rw [hw, if_pos l]
    · rw [hw, e]; rfl
    · rw [hw, e]; rfl
    · rw [hw, e]; rfl
    · rw [show write = _ from writePart_of_row x h rfl l r, if_pos (partPlaced_iff.mpr hp)]; rfl
    · have row : n < 0x10000 → n ∉ [0x020, 0x100, 0x108, 0x110, 0x118] → write = .next (writePart s p n x) := fun l r => by
        rw [show write = _ from writePart_of_row x h rfl l r, partPlaced_eq_false_iff.mpr hp]; rfl
      refine ⟨fun e => ?_, fun e => ?_, fun e => ?_, fun e => ?_, fun l1 l2 l3 => ?_, fun l1 l2 l3 => ?_⟩
      all_goals rw [row (by omega) (by simp; omega)]
      · rw [e]; rfl
      · rw [e]; rfl
      · rw [e]; rfl
      · rcases e with e | e <;> rw [e] <;> rfl
      · rw [writePart_range s p x l1 l2 l3, apply_ite Host.Outcome.next]; rfl
      · rw [writePart_alias s p x l1 l2 l3, apply_ite Host.Outcome.next]; rfl
  case doorbell =>
    intro s p v h tail head size
    rw [doorbell_of_ready h, writeTail]
    refine ⟨fun l => ?_, fun l1 l2 => ?_, fun l1 l2 => ?_⟩
    · rw [if_pos l]
    · rw [if_neg (Nat.not_le.mpr l1), if_pos l2]; rfl
    · rw [if_neg (Nat.not_le.mpr l1), if_neg (Nat.not_lt.mpr l2)]
  case registers =>
    intro s o x n
    have hn : o.toNat / 8 * 8 = n := rfl
    rw [exec_registerWrite, execRegisterWrite, hn]
    refine ⟨fun e b => ?_, fun e b => ?_, fun e c => ?_, fun e b c1 c2 => ?_, fun e1 e2 e3 => ?_, fun l1 l2 hm => ?_⟩
    · rw [if_pos e, if_pos b]; rfl
    · rw [if_pos e, b]; rfl
    · rw [e, writeMcmd_of_refused c]; rfl
    · rw [e, writeMcmd_of_command b c1 c2]; rfl
    · simp only [if_neg e1, if_neg e2, Bool.and_eq_true, decide_eq_true_eq, show ¬ (0x6100 ≤ n ∧ n < 0x6300) by omega, if_false]
    · obtain ⟨hlen, hget⟩ := mdataWrite_spec x hm (show n - 0x6100 + 8 ≤ 512 by omega)
      refine ⟨mdataWrite s (n - 0x6100) x, ?_, hlen, hget⟩
      simp only [show n ≠ 0x3000 by omega, show n ≠ 0x6000 by omega, if_false, Bool.and_eq_true, decide_eq_true_eq, l1, l2, and_self,
        if_true, mdataWrite, mdataBytes_of_full hm]
  case pools =>
    intro s o x n r base size
    refine ⟨fun h => ?_, fun h1 h2 v hf => ?_, fun h1 h2 hf => ?_⟩
    · rw [exec_poolRegisterWrite, execPoolRegisterWrite, if_pos]
      simpa using h
    · have held : poolHeld s r = true := poolHeld_iff.mpr hf
      rw [poolRegisterWrite_eq s o x rfl (show 0x1000 + (n - 0x1000) / 16 * 16 = r from rfl) h1 h2, v, held]; rfl
    · have keep : ((s.bar r).getLsbD 0 && poolHeld s r) = false := by
        rcases hf with hf | hf
        · rw [hf, Bool.false_and]
        · rw [poolHeld_eq_false_iff.mpr hf, Bool.and_false]
      rw [poolRegisterWrite_eq s o x rfl (show 0x1000 + (n - 0x1000) / 16 * 16 = r from rfl) h1 h2, keep]
      refine ⟨_, rfl, rfl, rfl, fun f => ?_⟩
      show f ∈ s.badT2.filter _ ↔ f ∈ s.badT2 ∧ ¬ (poolLo s r ≤ f ∧ f < poolHi s r)
      rw [List.mem_filter, Bool.not_eq_true', ← Bool.not_eq_true, Bool.and_eq_true, decide_eq_true_eq, decide_eq_true_eq]

end Sys2Proof.Machine
end

section
/-! Memory stays canonical: the property that is carried through the machine's operations.

An operation of a team that is off its tile is performed with the team's saved image lent to memory, behind every other byte (R231, R279).
The list is then canonical only below the images, and is cut back there afterwards. `Canon B` says this for a bound `B`: the bytes below
`B` come first and are in canonical form. A list is canonical where it is so for every bound. -/

namespace Sys2Proof.Machine

/-- The bytes below `B` come first and are in canonical form. -/
def Canon (B : Nat) (m : List Host.Cell) : Prop :=
  ∃ low high : List Host.Cell, m = low ++ high ∧ Memory.wf low = true ∧ (∀ c ∈ low, c.1 < B) ∧ ∀ c ∈ high, B ≤ c.1

/-! Sparse lists, cut at a key. -/

theorem Sparse.le_of_wfFrom {α : Type} [DecidableEq α] {d : α} {m : Sparse α} {b : Nat} (w : Sparse.wfFrom d b m = true) :
    ∀ c ∈ m, b ≤ c.1 := by
  induction m generalizing b with
  | nil => exact fun _ h => absurd h List.not_mem_nil
  | cons c m ih =>
    obtain ⟨k, v⟩ := c
    simp only [Sparse.wfFrom, Bool.and_eq_true, decide_eq_true_eq] at w
    obtain ⟨⟨hk, -⟩, wm⟩ := w
    exact List.forall_mem_cons.mpr ⟨hk, fun c hc => (Nat.le_of_succ_le (ih wm c hc)).trans' (by omega)⟩

/-- The entries below a key come first. -/
theorem Sparse.eq_append_of_wfFrom {α : Type} [DecidableEq α] {d : α} {m : Sparse α} {b : Nat} (w : Sparse.wfFrom d b m = true) (B : Nat) :
    m = m.filter (fun c => c.1 < B) ++ m.filter (fun c => B ≤ c.1) := by
  induction m generalizing b with
  | nil => rfl
  | cons c m ih =>
    obtain ⟨k, v⟩ := c
    simp only [Sparse.wfFrom, Bool.and_eq_true] at w
    by_cases hk : k < B
    · rw [List.filter_cons_of_pos (by simpa using hk), List.filter_cons_of_neg (by simpa using hk), List.cons_append, ← ih w.2]
    · have high : ∀ c ∈ (k, v) :: m, B ≤ c.1 :=
        List.forall_mem_cons.mpr ⟨by omega, fun c hc => by have := Sparse.le_of_wfFrom w.2 c hc; omega⟩
      rw [List.filter_eq_nil_iff.mpr (fun c hc => by simpa using high c hc), List.filter_eq_self.mpr (fun c hc => by simpa using high c hc),
        List.nil_append]

/-- A write names no key but its own. -/
theorem Sparse.mem_set {α : Type} [DecidableEq α] {d : α} {m : Sparse α} {i : Nat} {x : α} {c : Nat × α} (h : c ∈ Sparse.set d m i x) :
    c ∈ m ∨ c.1 = i := by
  induction m with
  | nil => simp only [Sparse.set] at h; split at h <;> simp_all
  | cons e m ih =>
    obtain ⟨k, v⟩ := e
    simp only [Sparse.set] at h
    split at h
    · split at h <;> simp_all; rcases h with h | h <;> simp_all
    · split at h
      · split at h <;> simp_all; rcases h with h | h <;> simp_all
      · rcases List.mem_cons.mp h with h | h
        · exact .inl (h ▸ List.mem_cons_self ..)
        · exact (ih h).imp_left (List.mem_cons_of_mem _)

/-- A write below every key of the second part takes place in the first. -/
theorem Sparse.set_append_left {α : Type} [DecidableEq α] {d : α} (low : Sparse α) {high : Sparse α} {i : Nat} (x : α)
    (h : ∀ c ∈ high, i < c.1) : Sparse.set d (low ++ high) i x = Sparse.set d low i x ++ high := by
  induction low with
  | nil =>
    cases high with
    | nil => simp
    | cons c high =>
      obtain ⟨k, v⟩ := c
      have : i < k := h _ (List.mem_cons_self ..)
      simp only [List.nil_append, Sparse.set, this, if_true]
      split <;> rfl
  | cons c low ih =>
    obtain ⟨k, v⟩ := c
    simp only [List.cons_append, Sparse.set]
    split
    · split <;> rfl
    · split
      · split <;> rfl
      · rw [ih, List.cons_append]

/-- A write above every key of the first part takes place in the second. -/
theorem Sparse.set_append_right {α : Type} [DecidableEq α] {d : α} {low : Sparse α} (high : Sparse α) {i : Nat} (x : α)
    (h : ∀ c ∈ low, c.1 < i) : Sparse.set d (low ++ high) i x = low ++ Sparse.set d high i x := by
  induction low with
  | nil => rfl
  | cons c low ih =>
    obtain ⟨k, v⟩ := c
    have hk : k < i := h _ (List.mem_cons_self ..)
    simp only [List.cons_append, Sparse.set, Nat.lt_asymm hk, Nat.ne_of_gt hk, if_false,
      ih (fun c hc => h c (List.mem_cons_of_mem _ hc))]

/-! `Canon` and the canonical form. -/

section
variable {B : Nat} {m : List Host.Cell}

theorem canon_of_wf (w : Memory.wf m = true) : Canon B m :=
  ⟨_, _, Sparse.eq_append_of_wfFrom w B, Sparse.wf_filter _ m w, fun c hc => by simpa using (List.mem_filter.mp hc).2,
    fun c hc => by simpa using (List.mem_filter.mp hc).2⟩

/-- Below the bound the list is in canonical form. -/
theorem Canon.wf_below (w : Canon B m) : Memory.wf (m.filter (fun c => c.1 < B)) = true := by
  obtain ⟨low, high, rfl, wl, hl, hh⟩ := w
  rw [List.filter_append, List.filter_eq_self.mpr (fun c hc => by simpa using hl c hc),
    List.filter_eq_nil_iff.mpr (fun c hc => by simpa using hh c hc), List.append_nil]
  exact wl

theorem wf_iff_canon : Memory.wf m = true ↔ ∀ B, Canon B m := by
  refine ⟨fun w B => canon_of_wf w, fun w => ?_⟩
  obtain ⟨B, hB⟩ : ∃ B, ∀ c ∈ m, c.1 < B :=
    ⟨(m.map (·.1)).sum + 1, fun c hc => Nat.lt_succ_of_le (List.le_sum_of_mem (List.mem_map_of_mem hc))⟩
  have := (w B).wf_below
  rwa [List.filter_eq_self.mpr (fun c hc => by simpa using hB c hc)] at this

theorem Canon.mono {B' : Nat} (w : Canon B m) (h : B' ≤ B) : Canon B' m := by
  obtain ⟨low, high, rfl, wl, hl, hh⟩ := w
  obtain ⟨low1, low2, rfl, w1, h1, h2⟩ : Canon B' low := canon_of_wf wl
  exact ⟨low1, low2 ++ high, List.append_assoc .., w1, h1, List.forall_mem_append.mpr ⟨h2, fun c hc => h.trans (hh c hc)⟩⟩

/-! What keeps it. -/

theorem Canon.setByte (w : Canon B m) (a : Nat) (x : Byte) : Canon B (setByte m a x) := by
  obtain ⟨low, high, rfl, wl, hl, hh⟩ := w
  by_cases ha : a < B
  · refine ⟨Sparse.set unwritten low a x, high, Sparse.set_append_left _ _ (fun c hc => ha.trans_le (hh c hc)), Sparse.wf_set low a x wl,
      fun c hc => ?_, hh⟩
    rcases Sparse.mem_set hc with h | h
    · exact hl c h
    · exact h ▸ ha
  · refine ⟨low, Sparse.set unwritten high a x, Sparse.set_append_right _ _ (fun c hc => (hl c hc).trans_le (Nat.le_of_not_lt ha)), wl, hl,
      fun c hc => ?_⟩
    rcases Sparse.mem_set hc with h | h
    · exact hh c h
    · exact h ▸ Nat.le_of_not_lt ha

theorem Canon.filter (w : Canon B m) (p : Host.Cell → Bool) : Canon B (m.filter p) := by
  obtain ⟨low, high, rfl, wl, hl, hh⟩ := w
  exact ⟨low.filter p, high.filter p, List.filter_append .., Sparse.wf_filter p low wl, fun c hc => hl c (List.mem_of_mem_filter hc),
    fun c hc => hh c (List.mem_of_mem_filter hc)⟩

theorem Canon.append (w : Canon B m) {l : List Host.Cell} (h : ∀ c ∈ l, B ≤ c.1) : Canon B (m ++ l) := by
  obtain ⟨low, high, rfl, wl, hl, hh⟩ := w
  exact ⟨low, high ++ l, List.append_assoc .., wl, hl, List.forall_mem_append.mpr ⟨hh, h⟩⟩

theorem Canon.foldl {α : Type} {f : List Host.Cell → α → List Host.Cell} (hf : ∀ m x, Canon B m → Canon B (f m x)) (l : List α)
    (w : Canon B m) : Canon B (l.foldl f m) :=
  List.foldlRecOn l f w (fun m hm x _ => hf m x hm)

theorem Canon.setBytes (w : Canon B m) (a : Nat) (l : List Byte) : Canon B (setBytes m a l) := by
  induction l generalizing m a with
  | nil => exact w
  | cons b l ih => exact ih (w.setByte a b) (a + 1)

theorem Canon.writePlan (w : Canon B m) (data : List Vec) (plan : List (Nat × Loc)) : Canon B (writePlan m data plan) :=
  Canon.foldl (fun _ p hm => hm.setByte p.2.key _) plan w

theorem Canon.zeroFrame (w : Canon B m) (a : Nat) : Canon B (zeroFrame m a) := w.filter _

theorem Canon.copyFrame (w : Canon B m) (src dst : Nat) : Canon B (copyFrame m src dst) :=
  Canon.foldl (fun _ _ hm => hm.setByte _ _) _ (w.zeroFrame dst)

/-- Memory of the states of a fold. -/
theorem canon_foldl {α : Type} {f : State → α → State} (hf : ∀ s x, Canon B s.mem → Canon B (f s x).mem) (l : List α) {s : State}
    (w : Canon B s.mem) : Canon B (l.foldl f s).mem :=
  List.foldlRecOn (motive := fun s : State => Canon B s.mem) l f w (fun s hs x _ => hf s x hs)

/-- A fold over operations that leave memory alone does so. -/
theorem foldl_mem {α : Type} {f : State → α → State} (hf : ∀ s x, (f s x).mem = s.mem) (l : List α) (s : State) :
    (l.foldl f s).mem = s.mem :=
  List.foldlRecOn (motive := fun t : State => t.mem = s.mem) l f rfl (fun t ht x _ => (hf t x).trans ht)

end

end Sys2Proof.Machine
end

section
/-! Frame lemmas: the operations of the model that leave memory alone, in the order of their definitions. -/

namespace Sys2Proof.Machine

/-! Ops -/

@[simp] theorem State.onStrands_mem (s : State) (p : Strand → Bool) (f : Strand → Strand) : (State.onStrands s p f).mem = s.mem := rfl
@[simp] theorem State.onStrand_mem (s : State) (id sid : Nat) (f : Strand → Strand) : (State.onStrand s id sid f).mem = s.mem := rfl
@[simp] theorem State.onLaunch_mem (s : State) (id : Nat) (f : Launch → Launch) : (State.onLaunch s id f).mem = s.mem := rfl
@[simp] theorem State.setWalkProf_mem (s : State) (n : Nat) (x : Dword) : (State.setWalkProf s n x).mem = s.mem := rfl
@[simp] theorem State.haltTeam_mem (s : State) (status : BitVec 32) (code : Dword) : (State.haltTeam s status code).mem = s.mem := rfl
@[simp] theorem State.log_mem (s : State) (die : Nat) (code addr : Nat) : (State.log s die code addr).mem = s.mem := rfl
@[simp] theorem State.enterTrap_mem (s : State) (u : EUnit) (eng : Nat) (c : Cause) (tval tepc : Dword) (fetchFault : Bool)
    (deferred : Option Nat) (pops pushes : List Nat) :
    (State.enterTrap s u eng c tval tepc fetchFault deferred pops pushes).mem = s.mem := by
  unfold State.enterTrap; dsimp only; (repeat' split) <;> simp
@[simp] theorem State.trap_mem (s : State) (c : Cause) (tval : Dword) (pops pushes : List Nat) :
    (State.trap s c tval pops pushes).mem = s.mem := by simp [State.trap]
@[simp] theorem State.trapFetch_mem (s : State) (c : Cause) : (State.trapFetch s c).mem = s.mem := by simp [State.trapFetch]
@[simp] theorem State.trapDeferred_mem (s : State) (u : EUnit) (c : Cause) (tval : Dword) :
    (State.trapDeferred s u c tval).mem = s.mem := by simp [State.trapDeferred]

/-! Translate -/

@[simp] theorem State.cacheAts_mem (s : State) (port : BitVec 1) (part : BitVec 6) (gpa : Nat) :
    (State.cacheAts s port part gpa).mem = s.mem := by
  unfold State.cacheAts; split <;> rfl
@[simp] theorem State.onPde_mem (s : State) (obj : BitVec 48) (f : Pde → Pde) : (State.onPde s obj f).mem = s.mem := rfl
@[simp] theorem State.heal_mem (s : State) (frames : List Nat) : (State.heal s frames).mem = s.mem := by
  unfold State.heal; split <;> rfl
@[simp] theorem State.cacheTlb_mem (s : State) (e : TlbEntry) : (State.cacheTlb s e).mem = s.mem := rfl
@[simp] theorem State.tellGrants_mem (s : State) : (State.tellGrants s).mem = s.mem := by
  unfold State.tellGrants; dsimp only; split <;> simp
@[simp] theorem State.dropGrants_mem (s : State) (p : Grant → Bool) : (State.dropGrants s p).mem = s.mem := by
  unfold State.dropGrants; split <;> simp
@[simp] theorem State.dropWalk_mem (s : State) (die : BitVec 2) (line : Nat) :
    (State.dropWalk s die line).mem = s.mem := by simp [State.dropWalk]
@[simp] theorem State.keepWalk_mem (s : State) (w : WalkLine) : (State.keepWalk s w).mem = s.mem := by
  unfold State.keepWalk; dsimp only; (repeat' split) <;> simp
@[simp] theorem State.keepWalks_mem (s : State) (die : BitVec 2) (part : BitVec 6) (root : Dword) (lines : List Nat) :
    (State.keepWalks s die part root lines).mem = s.mem := foldl_mem (fun _ _ => State.keepWalk_mem ..) _ _
@[simp] theorem State.send_mem (s : State) (o : Out) : (State.send s o).mem = s.mem := rfl
@[simp] theorem State.askHost_mem (s : State) (inv : Bool) (line : Nat) : (State.askHost s inv line).mem = s.mem := by
  unfold State.askHost; split <;> rfl

/-! L1 -/

@[simp] theorem askFor_mem (s : State) (r : TRes) : (askFor s r).mem = s.mem := by
  unfold askFor; split <;> simp

/-! Keyring -/

@[simp] theorem State.setEntry_mem (s : State) (i : Nat) (c : Ctx) : (State.setEntry s i c).mem = s.mem := rfl
@[simp] theorem parkCtx_mem (s : State) (i : Nat) : (parkCtx s i).mem = s.mem := rfl
@[simp] theorem releaseParked_mem (s : State) (i : Nat) : (releaseParked s i).mem = s.mem := rfl
@[simp] theorem wakeSwapped_mem (s : State) (i : Nat) : (wakeSwapped s i).mem = s.mem := by
  unfold wakeSwapped; dsimp only; split <;> simp
@[simp] theorem holdTeam_mem (s : State) (team key : Nat) : (holdTeam s team key).mem = s.mem := rfl
@[simp] theorem State.answerTags_mem (s : State) (ks : List Nat) (status : Nat) : (State.answerTags s ks status).mem = s.mem := by
  unfold State.answerTags; split <;> rfl

/-! Hinge -/

@[simp] theorem State.dueWake_mem (s : State) (h : Word) (src : BitVec 3) : (State.dueWake s h src).mem = s.mem := rfl
@[simp] theorem State.resolve_mem (s : State) (r : Resolve) : (State.resolve s r).mem = s.mem := rfl
@[simp] theorem dirinv_mem (s : State) (obj : BitVec 48) (ver : Word) : (dirinv s obj ver).mem = s.mem := by simp [dirinv]
@[simp] theorem State.addRecall_mem (s : State) (i : Nat) (r : Recall) : (State.addRecall s i r).mem = s.mem := rfl
@[simp] theorem recallFailed_mem (s : State) (obj : BitVec 48) : (recallFailed s obj).mem = s.mem := rfl
@[simp] theorem directoryRebind_mem (s : State) (obj : BitVec 48) : (directoryRebind s obj).mem = s.mem := by
  unfold directoryRebind; (repeat' split) <;> simp
@[simp] theorem State.noteMove_mem (s : State) (src dst : BitVec 2) (start : Nat) : (State.noteMove s src dst start).mem = s.mem := rfl
@[simp] theorem recallCheck_mem (s : State) (i : Nat) : (recallCheck s i).mem = s.mem := by
  unfold recallCheck
  dsimp only
  split
  · rfl
  · exact (foldl_mem (fun _ _ => State.dueWake_mem ..) _ _).trans (by simp)
@[simp] theorem State.moveRings_mem (s : State) (old new : Nat) : (State.moveRings s old new).mem = s.mem := rfl
@[simp] theorem sendPri_mem (s : State) (r : Resolve) : (sendPri s r).mem = s.mem := by
  unfold sendPri; dsimp only; split <;> simp
@[simp] theorem sendPris_mem (s : State) : (sendPris s).mem = s.mem := foldl_mem (fun _ _ => sendPri_mem ..) _ _

/-! Access -/

@[simp] theorem State.touchRows_mem (s : State) (keys : List Nat) : (State.touchRows s keys).mem = s.mem := by
  unfold State.touchRows; split <;> rfl
@[simp] theorem State.emit_mem (s : State) (p : Packet) : (State.emit s p).mem = s.mem := rfl
@[simp] theorem sendReq_mem (s : State) (p : Packet) (x : Pending) : (sendReq s p x).mem = s.mem := rfl
@[simp] theorem sendStream_mem (s : State) (key : Nat) (p : Packet) (x : Pending) : (sendStream s key p x).mem = s.mem := by
  unfold sendStream; split <;> rfl
@[simp] theorem sendRuns_mem (s : State) (t : Strand) (q : Req) (seq : Nat) (ordered : Bool) (runs : List (Nat × Dword × Nat)) :
    (sendRuns s t q seq ordered runs).mem = s.mem := by
  refine foldl_mem (fun _ _ => ?_) _ _
  dsimp only
  split <;> split <;> simp
@[simp] theorem State.unhold_mem (s : State) (id : Nat) : (State.unhold s id).mem = s.mem := by
  unfold State.unhold; split <;> rfl

/-! Sync -/

@[simp] theorem State.arrive_mem (s : State) (b : BitVec 4) (drop : Bool) : (State.arrive s b drop).mem = s.mem := rfl
@[simp] theorem State.leaveBarriers_mem (s : State) : (State.leaveBarriers s).mem = s.mem := rfl
@[simp] theorem State.onMailbox_mem (s : State) (h : Word) (n : Nat) (f : Dword → Dword) : (State.onMailbox s h n f).mem = s.mem := rfl

/-! Ring -/

@[simp] theorem State.onWindow_mem (s : State) (id : Nat) (f : Window → Window) : (State.onWindow s id f).mem = s.mem := rfl

/-! Message -/

@[simp] theorem State.onOp_mem (s : State) (id : Nat) (f : XOp → XOp) : (State.onOp s id f).mem = s.mem := rfl
@[simp] theorem State.dropOp_mem (s : State) (id : Nat) : (State.dropOp s id).mem = s.mem := by simp [State.dropOp]
@[simp] theorem State.opDone_mem (s : State) (o : XOp) : (State.opDone s o).mem = s.mem := by
  unfold State.opDone; split <;> simp
@[simp] theorem State.opStat_mem (s : State) (o : XOp) (bits : BitVec 6) : (State.opStat s o bits).mem = s.mem := rfl
theorem State.asStrand_mem (s : State) (id sid : Nat) {f : State → State} (hf : ∀ s, (f s).mem = s.mem) :
    (s.asStrand id sid f).mem = s.mem := by
  unfold State.asStrand
  dsimp only
  (repeat' split) <;> simp [hf]

@[simp] theorem raiseEnded_mem (s : State) (id sid : Nat) : (raiseEnded s id sid).mem = s.mem := by
  unfold raiseEnded
  repeat' split
  case _ => exact (State.asStrand_mem _ _ _ (fun _ => State.enterTrap_mem ..)).trans (State.dropOp_mem ..)
  all_goals rfl
@[simp] theorem State.opFail_mem (s : State) (o : XOp) (c : Cause) (tval : Dword) : (State.opFail s o c tval).mem = s.mem := by
  unfold State.opFail; split <;> simp
@[simp] theorem sendOpRuns_mem (s : State) (o : XOp) (q : Req) (runs : List (Nat × Dword × Nat)) : (sendOpRuns s o q runs).mem = s.mem :=
  foldl_mem (fun _ _ => sendReq_mem ..) _ _
@[simp] theorem sendPacket_mem (s : State) (p : Packet) : (sendPacket s p).mem = s.mem := by
  unfold sendPacket; (repeat' split) <;> rfl
@[simp] theorem countEvent_mem (s : State) (off : Nat) (hi : Bool) : (countEvent s off hi).mem = s.mem := rfl
@[simp] theorem respTo_mem (s : State) (p : Packet) (status : Nat) (payload : List Byte) : (respTo s p status payload).mem = s.mem := by
  unfold respTo; split <;> simp
@[simp] theorem sendOrFail_mem (s : State) (p m : Packet) : (sendOrFail s p m).mem = s.mem := by
  unfold sendOrFail; split <;> simp
@[simp] theorem State.onUnit_mem (s : State) (id : Nat) (f : GUnit → GUnit) : (State.onUnit s id f).mem = s.mem := rfl
@[simp] theorem State.dropUnit_mem (s : State) (id : Nat) : (State.dropUnit s id).mem = s.mem := rfl
@[simp] theorem addFree_mem (s : State) (o : XOp) : (addFree s o).mem = s.mem := rfl
@[simp] theorem refuse_mem (s : State) (p : Packet) : (refuse s p).mem = s.mem := by
  unfold refuse; dsimp only; (repeat' split) <;> simp
@[simp] theorem markUnitFault_mem (s : State) (u : GUnit) (c : Cause) : (markUnitFault s u c).mem = s.mem := by
  unfold markUnitFault; split <;> simp
@[simp] theorem delivered_mem (s : State) (u : GUnit) (p : Packet) : (delivered s u p).mem = s.mem := by simp [delivered]
@[simp] theorem undelivered_mem (s : State) (u : GUnit) (p : Packet) (c : Cause) :
    (undelivered s u p c).mem = s.mem := by simp [undelivered]
@[simp] theorem State.setCount_mem (s : State) (group : Nat) (port : BitVec 8) (n : Nat) : (State.setCount s group port n).mem = s.mem := by
  unfold State.setCount; split <;> rfl
@[simp] theorem lowerPort_mem (s : State) (group : Nat) (dev : BitVec 10) : (lowerPort s group dev).mem = s.mem := by simp [lowerPort]
@[simp] theorem withdrawn_mem (s : State) (u : GUnit) : (withdrawn s u).mem = s.mem := by
  unfold withdrawn; dsimp only; (repeat' split) <;> simp
@[simp] theorem State.setGroup_mem (s : State) (group : Nat) (g : Group) : (State.setGroup s group g).mem = s.mem := rfl
@[simp] theorem matchParked_mem (group n : Nat) (s : State) (g : Group) : (matchParked group n s g).mem = s.mem := by
  induction n generalizing s g with
  | zero => simp [matchParked]
  | succ n ih =>
    unfold matchParked
    split
    · rw [ih, sendOrFail_mem]
    · simp

@[simp] theorem matchGroup_mem (s : State) (group : Nat) (g : Group) : (matchGroup s group g).mem = s.mem := matchParked_mem ..
@[simp] theorem parkAtHome_mem (s : State) (p : Packet) : (parkAtHome s p).mem = s.mem := by
  unfold parkAtHome; (repeat' split) <;> simp
@[simp] theorem State.emitPort_mem (s : State) (d : BitVec 8) (p : Packet) : (State.emitPort s d p).mem = s.mem := rfl
@[simp] theorem steer_mem (s : State) (p : Packet) (port : BitVec 8) : (steer s p port).mem = s.mem := by
  unfold steer; dsimp only; (repeat' split) <;> simp
@[simp] theorem setReadiness_mem (s : State) (group : Nat) (l : List (Nat × Nat)) : (setReadiness s group l).mem = s.mem := rfl
@[simp] theorem lowerCount_mem (s : State) (group dev : Nat) : (lowerCount s group dev).mem = s.mem := rfl

/-! Guest -/

@[simp] theorem State.onGuest_mem (s : State) (f : Guest → Guest) : (State.onGuest s f).mem = s.mem := rfl
@[simp] theorem State.tell_mem (s : State) (type : BitVec 8) (fields : List Nat) : (State.tell s type fields).mem = s.mem := rfl
@[simp] theorem dropGuestReq_mem (n : Nat) (s : State) : (dropGuestReq n s).mem = s.mem := by
  unfold dropGuestReq; split <;> simp
@[simp] theorem startMeasure_mem (s : State) : (startMeasure s).mem = s.mem := by
  unfold startMeasure; split <;> rfl
@[simp] theorem State.gErr_mem (s : State) : (State.gErr s).mem = s.mem := rfl
@[simp] theorem resume_mem (s : State) (q : Nat) : (resume s q).mem = s.mem :=
  (foldl_mem (fun _ _ => State.tell_mem ..) _ _).trans (by simp)
@[simp] theorem writeStop_mem (s : State) (q : Nat) (stop : Bool) : (writeStop s q stop).mem = s.mem := by
  unfold writeStop; dsimp only; (repeat' split) <;> simp
@[simp] theorem preemptContext_mem (s : State) (ctx : Word) : (preemptContext s ctx).mem = s.mem := by
  unfold preemptContext
  dsimp only
  split
  · simp
  · exact (foldl_mem (fun _ _ => by simp) _ _).trans (by simp)
@[simp] theorem xlrsp_mem (s : State) (tag : BitVec 16) (status grant : Nat) (base : Dword) (log2 perm : Nat) :
    (xlrsp s tag status grant base log2 perm).mem = s.mem := rfl
@[simp] theorem dropOldest_mem (s : State) : (dropOldest s).mem = s.mem := by simp [dropOldest]
@[simp] theorem guestRefuse_mem (s : State) : (guestRefuse s).mem = s.mem := rfl
@[simp] theorem completePacket_mem (s : State) (p : GPacket) : (completePacket s p).mem = s.mem := rfl
@[simp] theorem holdGuestReq_mem (n : Nat) (g : GuestReq) (s : State) : (holdGuestReq n g s).mem = s.mem := rfl

/-! Matrix -/

@[simp] theorem State.onArray_mem (s : State) (t : Strand) (f : ArrayState → ArrayState) : (State.onArray s t f).mem = s.mem := rfl
@[simp] theorem State.mtxDone_mem (s : State) (c : MtxCmd) : (State.mtxDone s c).mem = s.mem := rfl
@[simp] theorem State.cmdTrap_mem (s : State) (c : MtxCmd) (cz : Cause) (v : Dword) :
    (State.cmdTrap s c cz v).mem = s.mem := by simp [State.cmdTrap]
@[simp] theorem startMmt_mem (s : State) (c : MtxCmd) (n : Nat) : (startMmt s c n).mem = s.mem := by
  unfold startMmt; split <;> rfl
@[simp] theorem signalEn_mem (s : State) (n : BitVec 4) : (signalEn s n).mem = s.mem := rfl

/-! Fetch -/

@[simp] theorem latchExt_mem (w : Word) (s : State) : (latchExt w s).mem = s.mem := rfl
@[simp] theorem passUnit_mem (s : State) (u : EUnit) : (passUnit s u).mem = s.mem := rfl

/-! Collective -/

@[simp] theorem State.setSlot_mem (s : State) (k : Nat) (x : Slot) : (State.setSlot s k x).mem = s.mem := rfl
@[simp] theorem collAnswer_mem (s : State) (p : Packet) (status handle : Nat) :
    (collAnswer s p status handle).mem = s.mem := by simp [collAnswer]
@[simp] theorem slotOpen_mem (s : State) (p : Packet) : (slotOpen s p).mem = s.mem := by
  unfold slotOpen; dsimp only; (repeat' split) <;> simp
@[simp] theorem freeSlot_mem (s : State) (dev : BitVec 10) (k : Nat) : (freeSlot s dev k).mem = s.mem :=
  (foldl_mem (fun _ _ => slotOpen_mem ..) _ _).trans (by simp)
@[simp] theorem slotClose_mem (s : State) (p : Packet) : (slotClose s p).mem = s.mem := by
  unfold slotClose; dsimp only; (repeat' split) <;> simp
@[simp] theorem sendResult_mem (s : State) (dev : BitVec 10) (slot : Nat) (part : BitVec 6) (c : Contrib) (status info : Nat)
    (bmp : List Byte) (res : List Byte) :
    (sendResult s dev slot part c status info bmp res).mem = s.mem := (foldl_mem (fun _ _ => sendPacket_mem ..) _ _).trans (by simp)
@[simp] theorem closeRound_mem (dev : BitVec 10) (k n : Nat) (s : State) (status : Nat) : (closeRound dev k n s status).mem = s.mem := by
  induction n generalizing s status with
  | zero => rfl
  | succ n ih =>
    unfold closeRound
    dsimp only
    split
    · rw [ih, State.setSlot_mem]; exact foldl_mem (fun _ _ => sendResult_mem ..) _ _
    · rw [State.setSlot_mem]; exact foldl_mem (fun _ _ => sendResult_mem ..) _ _

@[simp] theorem countContrib_mem (s : State) (dev : BitVec 10) (k : Nat) (c : Contrib) : (countContrib s dev k c).mem = s.mem := by
  unfold countContrib
  dsimp only
  split
  · simp
  · split <;> simp
@[simp] theorem slotContribute_mem (s : State) (p : Packet) : (slotContribute s p).mem = s.mem := by
  unfold slotContribute; dsimp only; (repeat' split) <;> simp
@[simp] theorem slotTimeout_mem (s : State) (k : Nat) : (slotTimeout s k).mem = s.mem := by
  unfold slotTimeout
  split
  · split <;> simp
  · rfl
@[simp] theorem clearPartSlots_mem (s : State) (part : BitVec 6) : (clearPartSlots s part).mem = s.mem :=
  (foldl_mem (fun _ _ => freeSlot_mem ..) _ _).trans rfl
@[simp] theorem State.phase_mem (s : State) (o : XOp) (n : Nat) : (State.phase s o n).mem = s.mem := rfl
@[simp] theorem collFinish_mem (s : State) (o : XOp) (status : Nat) : (collFinish s o status).mem = s.mem := rfl
@[simp] theorem sendColl_mem (s : State) (o : XOp) (p : Packet) : (sendColl s o p).mem = s.mem := by simp [sendColl]
@[simp] theorem collStart_mem (s : State) (o : XOp) (d : Desc) : (collStart s o d).mem = s.mem := by
  unfold collStart; dsimp only; (repeat' split) <;> simp
@[simp] theorem collSend_mem (s : State) (o : XOp) : (collSend s o).mem = s.mem := by
  unfold collSend
  dsimp only
  split
  · rfl
  · split
    · simp
    · exact (foldl_mem (fun _ _ => sendColl_mem ..) _ _).trans (by simp)
@[simp] theorem forgetRounds_mem (s : State) (handle : Nat) : (forgetRounds s handle).mem = s.mem := rfl
@[simp] theorem collAnswered_mem (s : State) (o : XOp) (payload : List Byte) : (collAnswered s o payload).mem = s.mem := by
  unfold collAnswered; dsimp only; (repeat' split) <;> simp
@[simp] theorem collResult_mem (s : State) (p : Packet) : (collResult s p).mem = s.mem := by
  unfold collResult; dsimp only; (repeat' split) <;> simp
@[simp] theorem collLost_mem (s : State) (id : Nat) : (collLost s id).mem = s.mem := by
  unfold collLost; (repeat' split) <;> rfl

/-! Xfer -/

@[simp] theorem writeMailbox_mem (s : State) (h : Word) (k : BitVec 3) (or_ : Bool) (v : Dword) : (writeMailbox s h k or_ v).mem = s.mem :=
  rfl
@[simp] theorem askMbox_mem (s : State) (o : XOp) (check : Bool) : (askMbox s o check).mem = s.mem := rfl
@[simp] theorem mbsendStep_mem (s : State) (o : XOp) : (mbsendStep s o).mem = s.mem := by
  unfold mbsendStep; (repeat' split) <;> simp

/-! Schedule -/

@[simp] theorem grantAll_mem (s : State) (m : Team) (gs : List (Nat × Bool × BitVec 2)) : (grantAll s m gs).mem = s.mem := by
  refine foldl_mem (fun _ _ => ?_) _ _
  dsimp only
  split <;> simp
@[simp] theorem ungrant_mem (s : State) (m : Team) : (ungrant s m).mem = s.mem := foldl_mem (fun _ _ => by simp) _ _
@[simp] theorem State.moveDamage_mem (s : State) (src dst : Nat) : (State.moveDamage s src dst).mem = s.mem := by
  unfold State.moveDamage; split <;> rfl
@[simp] theorem liftWindows_mem (s : State) (m : Team) : (liftWindows s m).mem = s.mem := rfl
@[simp] theorem dropWindows_mem (s : State) (id : Nat) (die : BitVec 2) (tile : BitVec 4) (frames : List Nat) :
    (dropWindows s id die tile frames).mem = s.mem := rfl
@[simp] theorem State.setDeficit_mem (s : State) (die p : Nat) (x : Int) : (State.setDeficit s die p x).mem = s.mem := rfl
@[simp] theorem refund_mem (s : State) (m : Team) : (refund s m).mem = s.mem := rfl
@[simp] theorem ensureStrands_mem (s : State) (m : Team) : (ensureStrands s m).mem = s.mem := by
  unfold ensureStrands; (repeat' split) <;> rfl
@[simp] theorem seatStrands_mem (s : State) (m : Team) (die : BitVec 2) (tile : BitVec 4) (cores : List Nat) :
    (seatStrands s m die tile cores).mem = s.mem := rfl
@[simp] theorem csig_mem (s : State) (l : Launch) : (csig s l).mem = s.mem := by
  unfold csig; dsimp only; (repeat' split) <;> simp

/-! System -/

@[simp] theorem State.result_mem (s : State) (d : BitVec 6) (x : Dword) : (State.result s d x).mem = s.mem := rfl
@[simp] theorem newContext_mem (s : State) (r : BitVec 256) (part : BitVec 6) (i : Nat) : (newContext s r part i).mem = s.mem := rfl
@[simp] theorem setPrio_mem (s : State) (i : Nat) (x : Dword) : (setPrio s i x).mem = s.mem := rfl
@[simp] theorem setBind_mem (s : State) (h : Word) (x : Dword) : (setBind s h x).mem = s.mem := by simp [setBind]
@[simp] theorem dropEntries_mem (p : State → TlbEntry → Bool) (g : State → Grant → Bool) (s : State) :
    (dropEntries p g s).mem = s.mem := by simp [dropEntries]
@[simp] theorem loadRegions_mem (s : State) (part : BitVec 6) : (loadRegions s part).mem = s.mem := rfl
@[simp] theorem dropRoot_mem (s : State) (part : BitVec 6) (root : Dword) : (dropRoot s part root).mem = s.mem := by simp [dropRoot]

/-! Fabric -/

@[simp] theorem dropPacket_mem (s : State) (p : Packet) : (dropPacket s p).mem = s.mem := by
  unfold dropPacket; split <;> simp
@[simp] theorem holdRequest_mem (s : State) (p : Packet) : (holdRequest s p).mem = s.mem := by
  unfold holdRequest; (repeat' split) <;> simp
@[simp] theorem State.dropPending_mem (s : State) (xid : Nat) : (State.dropPending s xid).mem = s.mem := rfl
@[simp] theorem failEntry_mem (s : State) (x : Pending) (seq : Nat) : (failEntry s x seq).mem = s.mem := rfl
@[simp] theorem memoryAnswer_mem (s : State) (x : Pending) (p : Packet) (ok : Bool) : (memoryAnswer s x p ok).mem = s.mem := by
  unfold memoryAnswer; (repeat' split) <;> simp
@[simp] theorem mailAnswer_mem (s : State) (o : XOp) (p : Packet) (status : Nat) : (mailAnswer s o p status).mem = s.mem := by
  unfold mailAnswer; (repeat' split) <;> simp
@[simp] theorem messageAnswer_mem (s : State) (x : Pending) (p : Packet) (status : Nat) : (messageAnswer s x p status).mem = s.mem := by
  unfold messageAnswer; dsimp only; (repeat' split) <;> simp
@[simp] theorem unreachable_mem (s : State) (x : Pending) : (unreachable s x).mem = s.mem := by
  unfold unreachable; split <;> simp
@[simp] theorem State.groupResult_mem (s : State) (r : Nat) : (State.groupResult s r).mem = s.mem := rfl

/-! Host -/

@[simp] theorem dropLine_mem (s : State) (line : Nat) : (dropLine s line).mem = s.mem := foldl_mem (fun _ _ => State.dropWalk_mem ..) _ _
@[simp] theorem pcmdDone_mem (s : State) (part : BitVec 6) (r : Nat) : (pcmdDone s part r).mem = s.mem := rfl
@[simp] theorem answerSnoop_mem (s : State) (x : TableSnoop) : (answerSnoop s x).mem = s.mem := by
  unfold answerSnoop; (repeat' split) <;> rfl
@[simp] theorem answerOnce_mem (s : State) (n : Nat) (uses : Word → Bool) : (answerOnce s n uses).mem = s.mem := by simp [answerOnce]
@[simp] theorem recordLines_mem (s : State) (l : List Nat) : (recordLines s l).mem = s.mem := rfl
@[simp] theorem pctlErr_mem (s : State) (part : BitVec 6) : (pctlErr s part).mem = s.mem := rfl
@[simp] theorem lqErr_mem (s : State) (part : BitVec 6) : (lqErr s part).mem = s.mem := rfl
@[simp] theorem writeLqbase_mem (s : State) (part : BitVec 6) (val : Dword) : (writeLqbase s part val).mem = s.mem := by
  unfold writeLqbase; dsimp only; split <;> simp
@[simp] theorem writeTail_mem (s : State) (part : BitVec 6) (val : Word) : (writeTail s part val).mem = s.mem := by
  unfold writeTail; dsimp only; (repeat' split) <;> simp
@[simp] theorem pcmdBusy_mem (s : State) (part : BitVec 6) (op : Nat) (obj : BitVec 48) : (pcmdBusy s part op obj).mem = s.mem := rfl
@[simp] theorem advanceClear_mem (s : State) (part : BitVec 6) (obj : BitVec 48) : (advanceClear s part obj).mem = s.mem := by
  unfold advanceClear; (repeat' split) <;> rfl
@[simp] theorem dropHostRoot_mem (s : State) (part : BitVec 6) (root : BitVec 48) :
    (dropHostRoot s part root).mem = s.mem := by simp [dropHostRoot]
@[simp] theorem writePart_mem (s : State) (part : BitVec 6) (off : Nat) (val : Dword) : (writePart s part off val).mem = s.mem := by
  unfold writePart; dsimp only; (repeat' split) <;> simp
@[simp] theorem writeSched_mem (s : State) (part : BitVec 6) (val : Dword) : (writeSched s part val).mem = s.mem := rfl
@[simp] theorem writeMcmd_mem (s : State) (op : Nat) : (writeMcmd s op).mem = s.mem := by
  unfold writeMcmd; split <;> rfl

/-! Memory -/

@[simp] theorem logRow_mem (s : State) (row : Nat) : (logRow s row).mem = s.mem := rfl
@[simp] theorem refreshNeighbours_mem (s : State) (row : Nat) : (refreshNeighbours s row).mem = s.mem := rfl
@[simp] theorem releaseRow_mem (s : State) (row : Nat) : (releaseRow s row).mem = s.mem := rfl
@[simp] theorem captureRow_mem (s : State) (row : Nat) : (captureRow s row).mem = s.mem := by
  unfold captureRow; (repeat' split) <;> rfl

/-! Power -/

@[simp] theorem powerDown_mem (s : State) : (powerDown s).mem = s.mem := by
  unfold powerDown; (repeat' split) <;> rfl
@[simp] theorem powerUp_mem (s : State) : (powerUp s).mem = s.mem := by
  unfold powerUp; (repeat' split) <;> rfl
@[simp] theorem softErrors_mem (s : State) : (softErrors s).mem = s.mem := rfl

/-! Issue -/

@[simp] theorem skipUnit_mem (pops pushes : List Nat) (s : State) : (skipUnit pops pushes s).mem = s.mem := by
  unfold skipUnit; dsimp only; split <;> simp
@[simp] theorem State.serves_mem (s : State) (e : Eng) : (State.serves s e).mem = s.mem := rfl

/-! Step -/

@[simp] theorem rotate_mem (s : State) : (rotate s).mem = s.mem := by
  unfold rotate; split <;> rfl

end Sys2Proof.Machine
end

section
/-! Memory stays canonical: traps, translation and the L1s. -/

namespace Sys2Proof.Machine

variable {B : Nat} {s t : State}

/-- The state in a pair. -/
theorem Canon.fst {α : Type} {p : State × α} {r : α} (w : Canon B p.1.mem) (h : p = (t, r)) : Canon B t.mem := by
  subst h; exact w

/-! The outcomes of a word's effect (R42, R343). -/

/-- Every state that the effect of a word can leave is canonical below `B`. -/
def Act.Canon (B : Nat) : Act → Prop
  | .ok s | .okNoSig s | .waitWith s | .trapWith s _ _ | .deferred s _ _ _ => Machine.Canon B s.mem
  | .wait | .trap _ _ => True

@[simp] theorem Act.canon_ok : (Act.ok s).Canon B ↔ Machine.Canon B s.mem := Iff.rfl
@[simp] theorem Act.canon_okNoSig : (Act.okNoSig s).Canon B ↔ Machine.Canon B s.mem := Iff.rfl
@[simp] theorem Act.canon_waitWith : (Act.waitWith s).Canon B ↔ Machine.Canon B s.mem := Iff.rfl
@[simp] theorem Act.canon_trapWith {c : Cause} {v : Dword} : (Act.trapWith s c v).Canon B ↔ Machine.Canon B s.mem := Iff.rfl
@[simp] theorem Act.canon_deferred {u : EUnit} {c : Cause} {v : Dword} : (Act.deferred s u c v).Canon B ↔ Machine.Canon B s.mem := Iff.rfl
@[simp] theorem Act.canon_wait : Act.wait.Canon B := trivial
@[simp] theorem Act.canon_trap {c : Cause} {v : Dword} : (Act.trap c v).Canon B := trivial

theorem issueWith_canon (r : Roles) (fate : Option Cause) {body : State → Act} (hb : ∀ s, Canon B s.mem → (body s).Canon B)
    (w : Canon B s.mem) : Canon B (issueWith r fate s body).mem := by
  have h := hb (s.onCs (fun t => t.setHeld false)) w
  unfold issueWith
  dsimp only
  split
  · exact w
  · split
    · simpa using w
    · cases hbody : body (s.onCs (fun t => t.setHeld false)) <;> rw [hbody] at h
      case ok | okNoSig | waitWith => exact h
      case trapWith | deferred => simpa using h
      case wait | trap => simpa using w

theorem undamaged_canon (r : Roles) {body : State → Act} (hb : ∀ s, Canon B s.mem → (body s).Canon B) (w : Canon B s.mem) :
    (undamaged r body s).Canon B := by
  unfold undamaged
  split
  · exact Act.canon_trap
  · exact hb s w

/-- The issue of a word keeps what its effect keeps. -/
theorem issue_canon (i : Instr) {body : State → Act} (hb : ∀ s, Canon B s.mem → (body s).Canon B) (w : Canon B s.mem) :
    Canon B (issue i s body).mem :=
  issueWith_canon _ _ (fun _ hs => undamaged_canon _ hb hs) w

/-! Translation: an object's first touch zeroes its frame (R292), a pull copies a line (R302), and a table entry's A and D bits are set
(R361). -/

@[simp] theorem zeroFree_canon (w : Canon B s.mem) (f : Nat) : Canon B (s.zeroFree f).mem := by
  unfold State.zeroFree
  split
  · exact w
  · exact w.zeroFrame _

theorem createObject_canon {ctx : Word} {obj : BitVec 48} (h : createObject s ctx obj = some t) (w : Canon B s.mem) : Canon B t.mem := by
  unfold createObject at h
  dsimp only at h
  split at h
  · cases h; exact w.zeroFrame _
  · split at h
    · cases h; exact w.zeroFrame _
    · cases h

theorem pullLine_canon {p : Pde} {line : Nat} {full : Bool} (h : pullLine s p line full = some t) (w : Canon B s.mem) :
    Canon B t.mem := by
  unfold pullLine at h
  dsimp only at h
  split at h
  · cases h; exact w
  · split at h
    · cases h
    · cases h; simpa using w.setBytes _ _

@[simp] theorem pageByte_canon (p : Pde) (full : Bool) (off : Nat) (w : Canon B s.mem) : Canon B (pageByte s p full off).1.mem := by
  unfold pageByte
  (repeat' split) <;> simp only [w]
  exact pullLine_canon ‹_› w

@[simp] theorem resolveObject_canon (ctx : Word) (full : Bool) (gpa : Nat) (w : Canon B s.mem) :
    Canon B (resolveObject s ctx full gpa).1.mem := by
  unfold resolveObject
  dsimp only
  split
  · exact pageByte_canon _ _ _ w
  · split
    · exact w
    · split
      · split
        · exact pageByte_canon _ _ _ (createObject_canon ‹_› w)
        · exact w
      · exact w

@[simp] theorem stage2_mem (s : State) (die : BitVec 2) (part : BitVec 6) (gpa : Nat) (k : AKind) :
    (stage2 s die part gpa k).1.mem = s.mem := by
  unfold stage2; (repeat' split) <;> rfl

@[simp] theorem fabricMmu_mem (s : State) (part : BitVec 6) (off : Nat) (k : AKind) : (fabricMmu s part off k).1.mem = s.mem := by
  unfold fabricMmu; dsimp only; (repeat' split) <;> rfl

@[simp] theorem deviceGpa_mem (s : State) (die : BitVec 2) (part : BitVec 6) (gpa : Nat) (k : AKind) :
    (deviceGpa s die part gpa k).1.mem = s.mem := by
  unfold deviceGpa; split <;> simp

@[simp] theorem hostGpa_mem (s : State) (die : BitVec 2) (part : BitVec 6) (gpa : Nat) : (hostGpa s die part gpa).1.mem = s.mem := by
  unfold hostGpa; split <;> simp

@[simp] theorem resolveGpa_canon (die : BitVec 2) (ctx : Word) (k : AKind) (full : Bool) (gpa : Nat) (w : Canon B s.mem) :
    Canon B (resolveGpa s die ctx k full gpa).1.mem := by
  unfold resolveGpa
  dsimp only
  (repeat' split) <;> simp [w]

theorem Walk.found_of_bind {α β : Type} {x : Walk α} {f : α → Walk β} {b : β} (h : x.bind f = .found b) : ∃ a, f a = .found b := by
  cases x with
  | found a => exact ⟨a, h⟩
  | stop r => cases h
  | fails => cases h

theorem hostWalk_canon {ctx : Word} {priv : Bool} {k : AKind} {va : Nat} {die : BitVec 2} {g : Nat}
    (h : hostWalk s ctx priv k va die = .found (t, g)) (w : Canon B s.mem) : Canon B t.mem := by
  obtain ⟨l, h⟩ := Walk.found_of_bind h
  dsimp only at h
  split at h
  · cases h
  · split at h
    · obtain ⟨rfl, -⟩ := Prod.mk.inj (Walk.found.inj h)
      simpa using w
    · split at h
      · obtain ⟨rfl, -⟩ := Prod.mk.inj (Walk.found.inj h)
        simpa using w.setBytes _ _
      all_goals cases h

theorem windowLoc_canon {sp : Space} {full : Bool} {va : Nat} {x : State × TRes} (h : windowLoc s sp full va = some x)
    (w : Canon B s.mem) : Canon B x.1.mem := by
  unfold windowLoc at h
  dsimp only at h
  split at h
  · cases h
  · split at h
    · split at h
      · split at h <;> cases h <;> exact w
      · cases h; exact w
    · split at h
      · split at h
        · cases h; exact w
        · cases h
          split
          · exact pageByte_canon _ _ _ w
          · exact w
      · cases h

@[simp] theorem translate_canon (sp : Space) (k : AKind) (full : Bool) (va : Dword) (w : Canon B s.mem) :
    Canon B (translate s sp k full va).1.mem := by
  unfold translate
  dsimp only
  split
  · exact windowLoc_canon ‹_› w
  · split
    · exact resolveGpa_canon _ _ _ _ _ w
    · split
      · exact resolveGpa_canon _ _ _ _ _ (hostWalk_canon ‹_› w)
      · exact w
      · exact w

/-! The L1s (R276). -/

@[simp] theorem writeBack_canon (l : L1Line) (w : Canon B s.mem) : Canon B (writeBack s l).mem :=
  Canon.foldl (fun _ x hm => hm.setByte x.1 x.2) _ w

@[simp] theorem flushL1_canon (keep : Bool) (p : L1Line → Bool) (w : Canon B s.mem) : Canon B (flushL1 s keep p).mem := by
  unfold flushL1
  split
  · exact w
  · exact canon_foldl (fun _ l hs => writeBack_canon l hs) _ w

@[simp] theorem releaseL1_canon (core : Nat) (scope : BitVec 3) (w : Canon B s.mem) : Canon B (releaseL1 s core scope).mem := by
  unfold releaseL1
  split
  · exact flushL1_canon _ _ w
  · exact w

@[simp] theorem acquireL1_canon (core : Nat) (scope : BitVec 3) (w : Canon B s.mem) : Canon B (acquireL1 s core scope).mem := by
  unfold acquireL1
  split
  · exact flushL1_canon _ _ w
  · exact w

@[simp] theorem makeRoom_canon (core : Nat) (w : Canon B s.mem) : Canon B (makeRoom s core).mem := by
  unfold makeRoom
  (repeat' split) <;> simp [w]

@[simp] theorem fillL1_canon (core : Nat) (part : BitVec 6) (l : Loc) (w : Canon B s.mem) : Canon B (fillL1 s core part l).mem := by
  unfold fillL1
  (repeat' split) <;> simp [w]

theorem l1Put_mem {core : Nat} {part : BitVec 6} {l : Loc} {b : Byte} (h : l1Put s core part l b = some t) : t.mem = s.mem := by
  rw [(l1Put_spec s t core part l b h).1]

@[simp] theorem flushFrame_canon (frame : Nat) (w : Canon B s.mem) : Canon B (flushFrame s frame).mem := flushL1_canon _ _ w

end Sys2Proof.Machine
end

section
/-! Memory stays canonical: contexts and Hinge (R292 to R302, R311 to R317). -/

namespace Sys2Proof.Machine

variable {B : Nat} {s t : State}

/-! Contexts (R250 to R253). -/

@[simp] theorem settleCtx_mem (s : State) (i : Nat) : (settleCtx s i).mem = s.mem := by
  unfold settleCtx; dsimp only; (repeat' split) <;> simp
@[simp] theorem testCond_mem (s : State) (i : Nat) : (testCond s i).mem = s.mem := by
  unfold testCond; dsimp only; (repeat' split) <;> simp
@[simp] theorem wakeEntry_mem (s : State) (i : Nat) (src : BitVec 6) : (wakeEntry s i src).mem = s.mem := by
  unfold wakeEntry; dsimp only; (repeat' split) <;> simp
@[simp] theorem faultWake_mem (s : State) (team key : Nat) : (faultWake s team key).mem = s.mem := by
  unfold faultWake; dsimp only; (repeat' split) <;> simp

/-! Migrations (R296 to R303). -/

@[simp] theorem beginMove_canon (obj : BitVec 48) (tier : BitVec 2) (soft : Bool) (w : Canon B s.mem) :
    Canon B (beginMove s obj tier soft).mem := by
  unfold beginMove; dsimp only
  (repeat' split) <;> simp -implicitDefEqProofs [w, w.zeroFrame]

@[simp] theorem capacityDemote_canon (tier : BitVec 2) (here : Pde → Bool) (w : Canon B s.mem) :
    Canon B (capacityDemote s tier here).mem := by
  unfold capacityDemote; dsimp only; split <;> simp -implicitDefEqProofs [w]

@[simp] theorem startMove_canon (obj : BitVec 48) (tier : BitVec 2) (soft : Bool) (w : Canon B s.mem) :
    Canon B (startMove s obj tier soft).mem := by
  unfold startMove; dsimp only; (repeat' split) <;> simp -implicitDefEqProofs [w]

@[simp] theorem startRecall_canon (obj : BitVec 48) (w : Canon B s.mem) : Canon B (startRecall s obj).mem := by
  unfold startRecall; (repeat' split) <;> simp -implicitDefEqProofs [w]

@[simp] theorem startQueued_canon (obj : BitVec 48) (w : Canon B s.mem) : Canon B (startQueued s obj).mem := by
  unfold startQueued; dsimp only; (repeat' split) <;> simp -implicitDefEqProofs [w]

@[simp] theorem recallPinned_canon (p : Pde) (ceil : BitVec 1) (w : Canon B s.mem) : Canon B (recallPinned s p ceil).mem :=
  startMove_canon _ _ _ w

@[simp] theorem liftPinned_canon (obj : BitVec 48) (w : Canon B s.mem) : Canon B (liftPinned s obj).mem := by
  unfold liftPinned; (repeat' split) <;> simp -implicitDefEqProofs [w]

@[simp] theorem State.wakesFor_mem (s : State) (p : Resolve → Bool) : (s.wakesFor p).mem = s.mem := by simp [State.wakesFor]

@[simp] theorem frameFreed_canon (w : Canon B s.mem) : Canon B (frameFreed s).mem :=
  canon_foldl (fun _ _ h => startQueued_canon _ h) _ (by simpa using w)

@[simp] theorem busyCountZero_canon (obj : BitVec 48) (w : Canon B s.mem) : Canon B (busyCountZero s obj).mem := by
  unfold busyCountZero; (repeat' split) <;> simp -implicitDefEqProofs [w]

@[simp] theorem copyPage_canon (obj : BitVec 48) (w : Canon B s.mem) : Canon B (copyPage s obj).mem := by
  unfold copyPage
  (repeat' split) <;> simp -implicitDefEqProofs [w, (flushFrame_canon _ w).copyFrame]

@[simp] theorem pageCopyComplete_canon (obj : BitVec 48) (w : Canon B s.mem) : Canon B (pageCopyComplete s obj).mem := by
  unfold pageCopyComplete; (repeat' split) <;> simp -implicitDefEqProofs [w]

@[simp] theorem poolTransfer_canon (obj : BitVec 48) (ok : Bool) (w : Canon B s.mem) : Canon B (poolTransfer s obj ok).1.mem := by
  unfold poolTransfer; (repeat' split) <;> simp -implicitDefEqProofs [w]

@[simp] theorem moveEnded_canon (p : Pde) (w : Canon B s.mem) : Canon B (moveEnded s p).mem := by simp -implicitDefEqProofs [moveEnded, w]

@[simp] theorem rebindDone_canon (obj : BitVec 48) (p : Pde) (m : Migration) (w : Canon B s.mem) : Canon B (rebindDone s obj p m).mem := by
  unfold rebindDone
  dsimp only
  refine moveEnded_canon _ (frameFreed_canon ?_)
  split <;> simp -implicitDefEqProofs [w]

@[simp] theorem lineRebound_canon (obj : BitVec 48) (p : Pde) (m : Migration) (w : Canon B s.mem) :
    Canon B (lineRebound s obj p m).mem := by
  simp -implicitDefEqProofs [lineRebound, w]

@[simp] theorem dirinvArrival_canon (die : BitVec 2) (obj : BitVec 48) (ver : Word) (w : Canon B s.mem) :
    Canon B (dirinvArrival s die obj ver).mem := by
  unfold dirinvArrival; dsimp only; (repeat' split) <;> simp -implicitDefEqProofs [w]

@[simp] theorem lineValidDone_canon (p : Pde) (m : Migration) (w : Canon B s.mem) : Canon B (lineValidDone s p m).mem :=
  moveEnded_canon _ (frameFreed_canon (zeroFree_canon (by simpa using w) _))

@[simp] theorem backgroundPull_canon (obj : BitVec 48) (w : Canon B s.mem) : Canon B (backgroundPull s obj).mem := by
  have pulled : ∀ p l, Canon B ((pullLine s p l false).getD s).mem := fun p l => by
    cases h : pullLine s p l false with
    | none => exact w
    | some t => exact pullLine_canon h w
  unfold backgroundPull; dsimp only; (repeat' split) <;> simp -implicitDefEqProofs [w, pulled]

/-! Parked faults, and the saved images of parked contexts (R349, R354). -/

@[simp] theorem parkFault_canon (team : Nat) (x : Resolve) (r : TRes) (va : Dword) (w : Canon B s.mem) :
    Canon B (parkFault s team x r va).1.mem := by
  unfold parkFault; dsimp only; split <;> simp -implicitDefEqProofs [w]

@[simp] theorem tryPark_canon (u : Strand) (r : TRes) (va : Dword) (w : Canon B s.mem) : Canon B (tryPark s u r va).1.mem := by
  unfold tryPark; split <;> simp -implicitDefEqProofs [w]

theorem takeSave_canon {pick : State → Option Nat} {id n : Nat} (h : takeSave pick id n s = some t) (w : Canon B s.mem) :
    Canon B t.mem := by
  induction n generalizing s with
  | zero => cases h; exact w
  | succ n ih =>
    simp only [takeSave] at h
    split at h
    · exact ih h (by simpa using w.zeroFrame _)
    · cases h

theorem moveSaves_canon {pick : State → Option Nat} {old : Nat → Bool} {i : Nat} (h : moveSaves pick old i s = some t)
    (w : Canon B s.mem) : Canon B t.mem := by
  refine List.foldlRecOn (motive := fun r : Option State => ∀ t, r = some t → Canon B t.mem) (teamsOf s i) _ ?_ ?_ t h
  · rintro _ ⟨⟩; exact w
  · intro r hr m _ t ht
    obtain ⟨u, rfl, hu⟩ := Option.bind_eq_some_iff.mp ht
    dsimp only at hu
    split at hu
    · cases hu; exact hr _ rfl
    · obtain ⟨v, hv, rfl⟩ := Option.map_eq_some_iff.mp hu
      simpa using takeSave_canon hv (hr _ rfl)

/-- Moving those pages of a list that `c` selects one tier down. -/
@[simp] theorem demotePages_canon (c : Pde → Prop) [DecidablePred c] (l : List Pde) (w : Canon B s.mem) :
    Canon B (l.foldl (fun s p => if c p then
      startMove (s.onPde p.obj (fun p => { p with parkTier := some (p.parkTier.getD p.tier) })) p.obj (p.tier + 1) else s) s).mem :=
  canon_foldl (fun _ _ h => by split <;> simp -implicitDefEqProofs [h]) _ w

@[simp] theorem demoteContext_canon (i : Nat) (w : Canon B s.mem) : Canon B (demoteContext s i).mem := by
  unfold demoteContext
  dsimp only
  split
  · exact w
  · split
    · exact w
    · split
      all_goals
        split
        · split
          · split
            · exact frameFreed_canon (by simpa using moveSaves_canon ‹_› (by simp only [demotePages_canon, w]))
            · simp only [demotePages_canon, w]
          · simp only [demotePages_canon, w]
        · simp only [demotePages_canon, w]

@[simp] theorem recallPage_canon (p : Pde) (w : Canon B s.mem) : Canon B (recallPage s p).mem := by
  unfold recallPage; split <;> simp -implicitDefEqProofs [w]

@[simp] theorem recallSave_canon (i : Nat) (w : Canon B s.mem) : Canon B (recallSave s i).mem := by
  unfold recallSave
  split
  · simp -implicitDefEqProofs [w]
  · simpa using moveSaves_canon ‹_› w

/-- Recalling a list of pages. -/
@[simp] theorem recallPages_canon (l : List Pde) (w : Canon B s.mem) : Canon B (l.foldl recallPage s).mem :=
  canon_foldl (fun _ _ h => recallPage_canon _ h) _ w

@[simp] theorem recallContext_canon (i : Nat) (w : Canon B s.mem) : Canon B (recallContext s i).mem := by
  have deep : ∀ (a b : List Pde) (u : State), Canon B u.mem →
      Canon B (b.foldl recallPage (recallSave (a.foldl recallPage u) i)).mem :=
    fun a b _ h => recallPages_canon b (recallSave_canon i (recallPages_canon a h))
  unfold recallContext
  dsimp only
  (repeat' split) <;> simp -implicitDefEqProofs [w, deep]

@[simp] theorem wakeMoves_canon (i : Nat) (w : Canon B s.mem) : Canon B (wakeMoves s i).mem := by
  refine canon_foldl (fun s p h => ?_) _ w
  dsimp only
  (repeat' split) <;> simp -implicitDefEqProofs [h]

end Sys2Proof.Machine
end

section
/-! Memory stays canonical: requests and their performance (R46, R151, R172, R276, R301, R349). -/

namespace Sys2Proof.Machine

variable {B : Nat} {s t : State}

theorem Canon.of_mem_eq (w : Canon B s.mem) (h : t.mem = s.mem) : Canon B t.mem := h ▸ w

/-! Planning a request's bytes translates them one by one. -/

theorem planBytes_canon (sp : Space) (k : AKind) (cov : Dword → Bool) (n off : Nat) (va : Dword) {x : State × List (Nat × Loc)}
    (w : Canon B x.1.mem) : Canon B (planBytes sp k cov n off va x).1.mem := by
  induction n generalizing off va x with
  | zero => exact w
  | succ n ih =>
    obtain ⟨s, acc⟩ := x
    unfold planBytes
    split
    · exact ih _ _ ((translate_canon _ _ _ _ w).fst ‹_›)
    · exact (translate_canon _ _ _ _ w).fst ‹_›

theorem planElems_canon (sp : Space) (k : AKind) (es : List Elem) {x : State × List (Nat × Loc)} (w : Canon B x.1.mem) :
    Canon B (planElems sp k es x).1.mem := by
  induction es generalizing x with
  | nil => exact w
  | cons e es ih =>
    obtain ⟨s, acc⟩ := x
    unfold planElems
    split
    · exact ih ((planBytes_canon _ _ _ _ _ _ w).fst ‹_›)
    · exact (planBytes_canon _ _ _ _ _ _ w).fst ‹_›

/-! What a request does to the L1s and to memory. -/

/-- Filling an L1 with the lines of a plan. -/
@[simp] theorem fillPlan_canon (core : Nat) (part : BitVec 6) (plan : List (Nat × Loc)) (w : Canon B s.mem) :
    Canon B (plan.foldl (fun s p => fillL1 s core part p.2) s).mem :=
  canon_foldl (fun _ p h => fillL1_canon core part p.2 h) _ w

@[simp] theorem prepareL1_canon (sp : Space) (q : Req) (plan : List (Nat × Loc)) (w : Canon B s.mem) :
    Canon B (prepareL1 s sp q plan).mem := by
  unfold prepareL1 prepareL1.dieL1
  dsimp only
  (repeat' split) <;> simp -implicitDefEqProofs [w]

@[simp] theorem writeHere_canon (sp : Space) (data : List Vec) (plan : List (Nat × Loc)) (w : Canon B s.mem) :
    Canon B (writeHere s sp data plan).mem := by
  unfold writeHere
  dsimp only
  refine canon_foldl (fun s p h => ?_) _ (by simpa using w.writePlan _ _)
  cases hp : sp.core.bind (fun c => l1Put s c (fld sp.ctx 16 6) p.2 (imgByte data p.1)) with
  | none => exact h
  | some t =>
    obtain ⟨c, -, hc⟩ := Option.bind_eq_some_iff.mp hp
    rw [Option.getD_some, l1Put_mem hc]
    exact h

@[simp] theorem orderDone_canon (sp : Space) (o : AccOrd) (w : Canon B s.mem) : Canon B (orderDone s sp o).mem := by
  unfold orderDone; dsimp only; (repeat' split) <;> simp -implicitDefEqProofs [w]

/-! The outcomes of a request. -/

/-- Every state that a request can leave is canonical below `B`. -/
def ROut.Canon (B : Nat) : ROut → Prop
  | .done s _ | .again s | .remote s _ _ | .atomicOp s _ _ => Machine.Canon B s.mem
  | .held _ | .park _ _ | .unsupported | .trap _ _ => True

@[simp] theorem ROut.canon_done {imgs : List Vec} : (ROut.done s imgs).Canon B ↔ Machine.Canon B s.mem := Iff.rfl
@[simp] theorem ROut.canon_again : (ROut.again s).Canon B ↔ Machine.Canon B s.mem := Iff.rfl
@[simp] theorem ROut.canon_remote {plan : List (Nat × Loc)} {imgs : List Vec} :
    (ROut.remote s plan imgs).Canon B ↔ Machine.Canon B s.mem := Iff.rfl
@[simp] theorem ROut.canon_atomicOp {g h : Nat} : (ROut.atomicOp s g h).Canon B ↔ Machine.Canon B s.mem := Iff.rfl
@[simp] theorem ROut.canon_held {obj : BitVec 48} : (ROut.held obj).Canon B := trivial
@[simp] theorem ROut.canon_park {r : TRes} {va : Dword} : (ROut.park r va).Canon B := trivial
@[simp] theorem ROut.canon_unsupported : ROut.unsupported.Canon B := trivial
@[simp] theorem ROut.canon_trap {c : Cause} {v : Dword} : (ROut.trap c v).Canon B := trivial

@[simp] theorem atomicHere_canon (sp : Space) (o : AccOrd) (a : AtomOp) (plan : List (Nat × Loc)) (w : Canon B s.mem) :
    (atomicHere s sp o a plan).Canon B := by
  refine orderDone_canon sp o ?_
  split
  · exact w.writePlan _ _
  · exact w

theorem performPlan_canon (sp : Space) (q : Req) (here : Bool) (plan : List (Nat × Loc)) (w : Canon B s.mem) (wt : Canon B t.mem) :
    (performPlan s t sp q here plan).Canon B := by
  have ready := fun plan => prepareL1_canon sp q plan wt
  unfold performPlan
  dsimp only
  (repeat' split) <;> simp -implicitDefEqProofs [w, ready]

theorem runReq_canon (sp : Space) (q : Req) (here : Bool) (w : Canon B s.mem) : (runReq s sp q here).Canon B := by
  unfold runReq
  split
  · exact performPlan_canon _ _ _ _ w w
  · split
    · next r va _ => cases r <;> simp [w]
    · exact performPlan_canon _ _ _ _ w ((planElems_canon sp q.akind q.elems w).fst ‹_›)

/-! What becomes of an ACC word or of a record entry by the outcome. -/

@[simp] theorem addEntry_mem (s : State) (q : Req) (st : RecState) (key : Nat) (fail : Option (Cause × Dword)) :
    (addEntry s q st key fail).1.mem = s.mem := rfl

@[simp] theorem State.hold_mem (s : State) (obj : BitVec 48) (die : BitVec 2) (id : Nat) : (s.hold obj die id).1.mem = s.mem := by
  unfold State.hold; (repeat' split) <;> rfl

section
variable {setup : State → State} (hset : ∀ s, Canon B s.mem → Canon B (setup s).mem)
include hset

theorem failAct_canon (q : Req) (c : Cause) (v : Dword) (w : Canon B s.mem) : (failAct s q c v setup).Canon B := hset _ w

theorem heldAct_canon (q : Req) (obj : BitVec 48) (w : Canon B s.mem) : (heldAct s q obj setup).Canon B := by
  refine hset (State.onCs (State.hold (addEntry s q .held 0).1 obj _ _).1 _) ?_
  simpa using w

theorem parkAct_canon (q : Req) (r : TRes) (va : Dword) (w : Canon B s.mem) : (parkAct s q r va setup).Canon B := by
  unfold parkAct
  split
  · refine hset _ ?_
    simpa using (tryPark_canon _ _ _ w).fst ‹_›
  · exact failAct_canon hset _ _ _ ((tryPark_canon _ _ _ w).fst ‹_›)

theorem actOf_canon (q : Req) (ordered : Bool) {out : ROut} (w : Canon B s.mem) (wo : out.Canon B) :
    (actOf s q ordered setup out).Canon B := by
  cases out with simp only [actOf]
  | done t imgs => exact hset _ wo
  | again t => exact wo
  | held obj => exact heldAct_canon hset _ _ w
  | park r va => exact parkAct_canon hset _ _ _ w
  | remote t plan imgs =>
    split
    · exact Act.canon_wait
    · exact hset _ (by simpa using wo)
  | atomicOp t g h => exact hset _ wo
  | unsupported =>
    split
    · split
      · exact failAct_canon hset _ _ _ w
      · exact hset _ w
    · exact Act.canon_trap
  | trap c v =>
    split
    · exact failAct_canon hset _ _ _ w
    · exact Act.canon_trap

theorem accReq_canon (q : Req) (ordered : Bool) (w : Canon B s.mem) : (accReq s q ordered setup).Canon B := by
  unfold accReq
  split
  · exact Act.canon_wait
  · exact actOf_canon hset _ _ w (runReq_canon _ _ _ w)

end

theorem retried_canon (u : Strand) (e : RecEntry) {out : ROut} (w : Canon B s.mem) (wo : out.Canon B) :
    Canon B (retried s u e out).mem := by
  cases out with simp only [retried]
  | done t imgs => simpa using wo
  | again t => simpa using wo
  | held obj => simpa using w
  | park r va => split <;> simpa using (tryPark_canon u r va w).fst ‹_›
  | remote t plan imgs =>
    split
    · simpa using w
    · simpa using wo
  | atomicOp t g h => simpa using wo
  | unsupported => (repeat' split) <;> simpa using w
  | trap c v => split <;> simpa using w

end Sys2Proof.Machine
end

section
/-! Memory stays canonical: scalar words, loads and stores, rings and windows (R108 to R171). -/

namespace Sys2Proof.Machine

variable {B : Nat} {s t : State}

/-- The next state, where there is one, is canonical below `B`. -/
def NextCanon (B : Nat) : Result → Prop
  | .next t => Canon B t.mem
  | .fault _ | .refused _ => True

@[simp] theorem nextCanon_next : NextCanon B (.next t) ↔ Canon B t.mem := Iff.rfl

/-! Words of the CTRL engine. -/

/-- A word whose effect is a change of its strand. -/
theorem issue_onCs_canon (i : Instr) (f : State → Strand → Strand) (w : Canon B s.mem) :
    Canon B (issue i s (fun s => .ok (s.onCs (f s)))).mem :=
  issue_canon i (fun _ h => h) w

theorem scalarWord_canon (i : Instr) (d : BitVec 6) (f : Strand → Dword) (w : Canon B s.mem) : NextCanon B (scalarWord i s d f) :=
  issue_onCs_canon i _ w

theorem floatWord_canon (i : Instr) (d : BitVec 6) (f : Strand → Nat × Flags) (w : Canon B s.mem) : NextCanon B (floatWord i s d f) :=
  issue_onCs_canon i _ w

theorem divWord_canon (i : Instr) (signed : Bool) (d a b : BitVec 6) (t : BitVec 1) (f : Dword → Dword → Dword) (w : Canon B s.mem) :
    NextCanon B (divWord i signed d a b t f s) :=
  issue_canon i (fun _ h => by dsimp only; (repeat' split) <;> simp [h]) w

theorem branchWord_canon (i : Instr) (o : BitVec 10) (c : Strand → Bool) (w : Canon B s.mem) : NextCanon B (branchWord i o c s) :=
  issue_onCs_canon i _ w

theorem loopWord_canon (i : Instr) (off : Int) (count : Strand → Dword) (w : Canon B s.mem) : NextCanon B (loopWord i off count s) :=
  issue_canon i (fun _ h => by dsimp only; (repeat' split) <;> simp [h]) w

theorem arriveAct_canon (b : BitVec 4) (m : BitVec 1) (drop : Bool) (w : Canon B s.mem) : (arriveAct b m drop s).Canon B := by
  unfold arriveAct; (repeat' split) <;> simp [w]

theorem waitAct_canon (b : BitVec 4) (w : Canon B s.mem) : (waitAct b s).Canon B := by
  unfold waitAct; split <;> simp [w]

theorem timedWait_canon (d : BitVec 6) (deadline : Dword) (done : Bool) (w : Canon B s.mem) : (timedWait d deadline done s).Canon B := by
  unfold timedWait; (repeat' split) <;> simp [w]

theorem csrWrite_mem {c : BitVec 12} {x : Dword} (h : csrWrite s c x = some t) : t.mem = s.mem := by
  unfold csrWrite at h
  dsimp only at h
  split at h <;> cases h <;> (repeat' split) <;> rfl

theorem issueCtrlHead_canon (u : EUnit) {f : State → Result} (hf : ∀ s, Canon B s.mem → NextCanon B (f s)) (w : Canon B s.mem) :
    NextCanon B (s.issueCtrlHead u f) := by
  have next := hf (s.onCs (fun t => { t with unit := u, q := { t.q with ctrl := t.q.ctrl.drop 1 }, hangTimer := 0 })) w
  unfold State.issueCtrlHead
  split
  · next t ht =>
    have wt : Canon B t.mem := by rwa [ht] at next
    rw [nextCanon_next]
    split <;> exact wt
  · exact next

/-! Loads and stores. -/

theorem alignedReq_canon (va : Dword) (n : Nat) {f : State → Act} (hf : ∀ s, Canon B s.mem → (f s).Canon B) (w : Canon B s.mem) :
    (alignedReq s va n f).Canon B := by
  unfold alignedReq
  split
  · exact hf s w
  · exact Act.canon_trap

/-- A request without a change of the strand besides. -/
theorem accReq_id_canon (q : Req) (ordered : Bool) (w : Canon B s.mem) : (accReq s q ordered).Canon B :=
  accReq_canon (fun _ h => h) q ordered w

theorem scalarLoad_canon (i : Instr) (c : BitVec 4) (d a imm : BitVec 6) (size : Nat) (signed : Bool) (w : Canon B s.mem) :
    NextCanon B (scalarLoad i c d a imm size signed s) :=
  issue_canon i (fun _ h => alignedReq_canon _ _ (fun _ h => accReq_id_canon _ _ h) h) w

theorem scalarStore_canon (i : Instr) (c : BitVec 4) (d a imm : BitVec 6) (size : Nat) (w : Canon B s.mem) :
    NextCanon B (scalarStore i c d a imm size s) :=
  issue_canon i (fun _ h => alignedReq_canon _ _ (fun _ h => accReq_id_canon _ _ h) h) w

theorem blockLoad_canon (i : Instr) (c : BitVec 4) (a imm : BitVec 6) (size : Nat) (kind : AccKind) (dest : Dest) (w : Canon B s.mem) :
    NextCanon B (blockLoad i c a imm size kind dest s) :=
  issue_canon i (fun _ h => alignedReq_canon _ _ (fun _ h => accReq_id_canon _ _ h) h) w

theorem blockStore_canon (i : Instr) (c : BitVec 4) (a imm : BitVec 6) (size : Nat) (kind : AccKind) (data : Strand → Vec)
    (w : Canon B s.mem) : NextCanon B (blockStore i c a imm size kind data s) :=
  issue_canon i (fun _ h => alignedReq_canon _ _ (fun _ h => accReq_id_canon _ _ h) h) w

theorem vectorLoad_canon (i : Instr) (c : BitVec 4) (d : BitVec 6) (va stride : Strand → Dword) (w : Canon B s.mem) :
    NextCanon B (vectorLoad i c d va stride s) :=
  issue_canon i (fun _ h => by
    dsimp only
    split
    · exact Act.canon_trap
    · split <;> exact accReq_id_canon _ _ h) w

theorem vectorStore_canon (i : Instr) (c : BitVec 4) (d : BitVec 6) (va stride : Strand → Dword) (w : Canon B s.mem) :
    NextCanon B (vectorStore i c d va stride s) :=
  issue_canon i (fun _ h => by
    dsimp only
    split
    · exact Act.canon_trap
    · apply accReq_canon
      · exact fun _ h => h
      · exact h) w

theorem gathAct_canon (size : Nat) (q : Req) {setup : State → State} (hset : ∀ s, Canon B s.mem → Canon B (setup s).mem)
    (w : Canon B s.mem) : (gathAct s size q setup).Canon B := by
  unfold gathAct
  split
  · exact accReq_canon hset _ _ w
  · split <;> exact Act.canon_trap

theorem gather_canon (i : Instr) (c : BitVec 4) (d a b : BitVec 6) (size : Nat) (w : Canon B s.mem) :
    NextCanon B (gather i c d a b size s) :=
  issue_canon i (fun _ h => by dsimp only; split <;> exact gathAct_canon _ _ (fun _ h => h) h) w

theorem scatter_canon (i : Instr) (c : BitVec 4) (d a b : BitVec 6) (size : Nat) (w : Canon B s.mem) :
    NextCanon B (scatter i c d a b size s) :=
  issue_canon i (fun _ h => gathAct_canon _ _ (fun _ h => h) h) w

theorem atomicAct_canon (kind : AccKind) (a : BitVec 6) (dest : Dest) (x : AtomOp) (w : Canon B s.mem) :
    (atomicAct s kind a dest x).Canon B :=
  alignedReq_canon _ _ (fun _ h => accReq_id_canon _ _ h) w

@[simp] theorem fenceLines_canon (o : AccOrd) (w : Canon B s.mem) : Canon B (fenceLines s o).mem := by
  unfold fenceLines; (repeat' split) <;> simp [w]

/-! Ring words (R168 to R171). -/

/-- Every state that reaching a header can leave is canonical below `B`. -/
def HRes.Canon (B : Nat) : HRes → Prop
  | .ok s _ _ => Machine.Canon B s.mem
  | .stop out => out.Canon B

@[simp] theorem HRes.canon_ok {plan : List (Nat × Loc)} {h : Desc} : (HRes.ok s plan h).Canon B ↔ Machine.Canon B s.mem := Iff.rfl
@[simp] theorem HRes.canon_stop {out : ROut} : (HRes.stop out).Canon B ↔ out.Canon B := Iff.rfl

theorem headerAt_canon (sp : Space) (va : Dword) (k : AKind) (w : Canon B s.mem) : (headerAt s sp va k).Canon B := by
  unfold headerAt
  split
  · simp
  · split
    · next r _ _ => cases r <;> simp [w]
    · have wt := (planElems_canon sp k _ w).fst ‹_›
      dsimp only
      (repeat' split) <;> simp [w, wt]

@[simp] theorem putHeader_canon (plan : List (Nat × Loc)) (h : Desc) (w : Canon B s.mem) : Canon B (putHeader s plan h).mem :=
  w.writePlan _ _

/-- Every state in which a ring word is done is canonical below `B`. -/
def RingRes.Canon (B : Nat) : RingRes → Prop
  | .done s _ _ => Machine.Canon B s.mem
  | .wait | .illegal => True

@[simp] theorem RingRes.canon_done {v : Dword} {stat : BitVec 6} : (RingRes.done s v stat).Canon B ↔ Machine.Canon B s.mem := Iff.rfl
@[simp] theorem RingRes.canon_wait : RingRes.wait.Canon B := trivial
@[simp] theorem RingRes.canon_illegal : RingRes.illegal.Canon B := trivial

@[simp] theorem markSlot_canon (plan : List (Nat × Loc)) (h : Option Desc) (w : Canon B s.mem) : (markSlot s plan h).Canon B := by
  unfold markSlot; split <;> simp [w]

theorem advanceSlots_canon (plan : List (Nat × Loc)) (h : Desc) (n : Nat) (w : Canon B s.mem) (wt : Canon B t.mem) :
    (advanceSlots s t plan h n).Canon B := by
  unfold advanceSlots; dsimp only; (repeat' split) <;> simp [w, wt]

theorem mapWindow_canon (u : Strand) (x : EUnit) (priv : Bool) (plan : List (Nat × Loc)) (h d : Desc) (first : Nat) (w : Canon B s.mem) :
    (mapWindow s u x priv plan h d first).Canon B := by
  have put := fun h => putHeader_canon plan h w
  unfold mapWindow
  dsimp only
  generalize [0x18, 0x20, 0x28, 0x30, 0x38].foldl _ _ = h'
  (repeat' split) <;> simp [w, put]

theorem ringDo_canon (u : Strand) (x : EUnit) (priv : Bool) (plan : List (Nat × Loc)) (h : Desc) (op : RingOp) (w : Canon B s.mem) :
    (ringDo s u x priv plan h op).Canon B := by
  cases op with simp only [ringDo]
  | claim off => simp [w]
  | waitFree k => split <;> simp [w]
  | waitFull k => (repeat' split) <;> simp [w]
  | publish k => simp [w]
  | release k => simp [w]
  | advance n => exact advanceSlots_canon _ _ _ w (releaseL1_canon _ _ w)
  | map x first => exact mapWindow_canon _ _ _ _ _ _ _ w
  | unmap => simp [w]

theorem ringOut_canon (u : Strand) (x : EUnit) (priv : Bool) (va : Dword) (plan : List (Nat × Loc)) (h : Desc) (op : RingOp)
    (w : Canon B s.mem) (wt : Canon B t.mem) : (ringOut s t u x priv va plan h op).Canon B := by
  have done := ringDo_canon u x priv plan h op wt
  unfold ringOut
  split
  · exact ROut.canon_trap
  · split
    · simpa using w
    · split <;> simp_all

theorem ringAct_canon (cls : BitVec 4) (va : Dword) (d : Dest) (op : RingOp) (w : Canon B s.mem) : (ringAct s cls va d op).Canon B := by
  have at_ := headerAt_canon (accSpace s.cs s.csTeam s.cs.p) va op.akind w
  unfold ringAct
  dsimp only
  split
  · exact Act.canon_wait
  · split
    · next h => rw [h] at at_; exact actOf_canon (fun _ h => h) _ _ w at_
    · next t plan d h =>
      rw [h] at at_
      have out := ringOut_canon s.cs s.cs.unit s.cs.p va plan d op w at_
      split
      · exact at_
      · split
        · next t ht =>
          have wt : Canon B t.mem := by
            rwa [ht] at out
          split
          · exact Act.canon_wait
          · exact wt
        · exact actOf_canon (fun _ h => h) _ _ w out

@[simp] theorem retryEntry_canon (u : Strand) (seq : Nat) (w : Canon B s.mem) : Canon B (retryEntry s u seq).mem := by
  unfold retryEntry
  split
  · exact w
  · next e _ =>
    refine retried_canon _ _ w ?_
    split
    · exact runReq_canon _ _ _ w
    · next op _ =>
      have at_ := headerAt_canon (entrySpace s u e) e.req.first op.akind w
      split
      · next h => rw [h] at at_; exact at_
      · next h => rw [h] at at_; exact ringOut_canon _ _ _ _ _ _ _ w at_

theorem claimWord_canon (i : Instr) (c : BitVec 4) (d a : BitVec 6) (off : Nat) (w : Canon B s.mem) :
    NextCanon B (claimWord i c d a off s) :=
  issue_canon i (fun _ h => ringAct_canon _ _ _ _ h) w

end Sys2Proof.Machine
end

section
/-! Memory stays canonical: ring windows and messages (R170, R171, R230 to R235). -/

namespace Sys2Proof.Machine

variable {B : Nat} {s t : State}

/-! The windows of a ring (R170). -/

@[simp] theorem sramPlace_canon (part : BitVec 6) (full : Bool) (key : Nat) (w : Canon B s.mem) :
    Canon B (sramPlace s part full key).1.mem := by
  unfold sramPlace; split <;> simp [w]

theorem slotPlaces_canon {part : BitVec 6} {a n : Nat} {x : State × List Nat} (h : slotPlaces part a n s = .ok x) (w : Canon B s.mem) :
    Canon B x.1.mem := by
  induction n generalizing a s x with
  | zero => cases h; exact w
  | succ n ih =>
    unfold slotPlaces at h
    split at h
    · next t l ht =>
      have wt := (sramPlace_canon part true a w).fst ht
      cases hs : slotPlaces part (a + 64) n t with
      | error r => rw [hs] at h; cases h
      | ok y => rw [hs] at h; cases h; have places := ih hs wt; exact places
    · cases h

@[simp] theorem putLines_canon (places : List Nat) (bytes : List Byte) (w : Canon B s.mem) : Canon B (putLines s places bytes).mem :=
  Canon.foldl (fun _ _ h => h.setBytes _ _) _ w

@[simp] theorem putWindow_canon (x : Window) (h : Desc) (w : Canon B s.mem) : Canon B (putWindow s x h).mem := by
  simpa [putWindow] using w.setBytes _ _

theorem fillArrived_canon (u : Strand) (e : RecEntry) (imgs : List Vec) (w : Canon B s.mem) : Canon B (fillArrived s u e imgs).mem := by
  unfold fillArrived
  split
  · exact w
  · dsimp only
    split
    · exact w
    · split
      · simpa using w
      · split
        · have wt := slotPlaces_canon ‹_› w
          simp -implicitDefEqProofs [wt]
        · simpa using w

@[simp] theorem fillEntry_frame (s : State) (u : Strand) (x : Window) (q : Req) (st : RecState) (key : Nat) :
    (fillEntry_ s u x q st key).1.mem = s.mem := rfl

theorem fillChunks_canon (u : Strand) (m : Team) (x : Window) (places : List Nat) (n : Nat) (w : Canon B s.mem) :
    Canon B (fillChunks s u m x places n).1.mem := by
  induction n generalizing s x places with
  | zero => exact w
  | succ n ih =>
    have out := runReq_canon { spaceOf u m with priv := x.priv } (chunkReq (imageDesc x.desc) (chunkRows x.desc x.next) .fill) false w
    unfold fillChunks
    dsimp only
    split
    · exact putLines_canon _ _ w
    · split
      · next h => rw [h] at out; exact ih _ _ (putLines_canon _ _ out)
      · exact w
      · next h => rw [h] at out; exact out
      · simpa using w
      · split
        · exact (tryPark_canon _ _ _ w).fst ‹_›
        · simpa using (tryPark_canon _ _ _ w).fst ‹_›
      · next h => rw [h] at out; simpa using out
      · exact w

@[simp] theorem headerPlace_canon (x : Window) (w : Canon B s.mem) : Canon B (headerPlace s x).1.mem := by
  unfold headerPlace
  split
  · exact (sramPlace_canon _ _ _ w).fst ‹_›
  · simpa using w

@[simp] theorem windowFill_canon (id : Nat) (w : Canon B s.mem) : Canon B (windowFill s id).mem := by
  unfold windowFill
  split
  · exact w
  · split
    · exact w
    · next x _ _ =>
      have wp := headerPlace_canon x w
      generalize headerPlace s x = p at wp
      obtain ⟨t, found⟩ := p
      have put : ∀ (c : Prop) [Decidable c] (h : Desc), Canon B (if c then t else putWindow t x h).mem := fun c _ h => by
        split
        · exact wp
        · exact putWindow_canon _ _ wp
      cases s.strand? x.team x.sid with
      | none => exact wp
      | some u =>
        cases s.team? x.team with
        | none => exact wp
        | some m =>
          cases found with
          | false => exact wp
          | true =>
            dsimp -zeta only
            extract_lets h k t' y slot done n
            have ready : Canon B t'.mem := put _ _
            split
            · simpa using ready
            · split
              · simpa using ready
              · have filled := fun x l n => fillChunks_canon u m x l n (slotPlaces_canon ‹_› ready)
                split
                · exact putWindow_canon _ _ (filled _ _ _)
                · exact filled _ _ _

/-! Accesses for an operation: a team that is off its tile has its image lent to memory, behind every other byte (R231, R279). -/

@[simp] theorem opAcquire_canon (o : XOp) (scope : BitVec 3) (w : Canon B s.mem) : Canon B (opAcquire s o scope).mem := by
  unfold opAcquire; split <;> simp [w]

theorem ROut.Canon.map {B' : Nat} {f : State → State} (hf : ∀ s, Machine.Canon B s.mem → Machine.Canon B' (f s).mem) {out : ROut}
    (w : out.Canon B) : (out.map f).Canon B' := by
  cases out with
  | done s imgs => exact hf s w
  | again s => exact hf s w
  | remote s plan imgs => exact hf s w
  | atomicOp s g h => exact hf s w
  | held | park | unsupported | trap => exact trivial

theorem imageKey_zero_le (id : Nat) : imageKey 0 ≤ imageKey id := by
  unfold imageKey; omega

theorem lendImage_canon (m : Team) (hB : B ≤ imageKey 0) (w : Canon B s.mem) : Canon B (lendImage s m).mem := by
  refine w.append fun c hc => ?_
  obtain ⟨b, -, rfl⟩ := List.mem_map.mp hc
  exact (hB.trans (imageKey_zero_le m.id)).trans (Nat.le_add_right ..)

theorem takeImage_mem (id : Nat) (s : State) : (takeImage id s).mem = s.mem.filter (fun c => c.1 < imageKey 0) := rfl

theorem runFor_canon (team : Nat) (sp : Space) (q : Req) (here : Bool) (w : Canon B s.mem) : (runFor s team sp q here).Canon B := by
  have plain := runReq_canon sp q here w
  unfold runFor
  split
  · split
    · by_cases hB : B ≤ imageKey 0
      · exact ROut.Canon.map (fun t wt => by rw [takeImage_mem]; exact wt.filter _) (runReq_canon sp q here (lendImage_canon _ hB w))
      · exact ROut.Canon.map (fun t wt => by rw [takeImage_mem]; exact canon_of_wf wt.wf_below)
          (runReq_canon sp q here (lendImage_canon _ le_rfl (w.mono (Nat.le_of_not_le hB))))
    · exact plain
  · exact plain

@[simp] theorem resolveFree_canon (ctx : Word) (die : BitVec 2) (write : Bool) (r : TRes) (va : Dword) (w : Canon B s.mem) :
    Canon B (resolveFree s ctx die write r va).1.mem := parkFault_canon _ _ _ _ w

/-- Every state that an operation's access can leave is canonical below `B`. -/
def OpRes.Canon (B : Nat) : OpRes → Prop
  | .data s _ | .wait s | .stop s _ _ => Machine.Canon B s.mem

@[simp] theorem OpRes.canon_data {imgs : List Vec} : (OpRes.data s imgs).Canon B ↔ Machine.Canon B s.mem := Iff.rfl
@[simp] theorem OpRes.canon_wait : (OpRes.wait s).Canon B ↔ Machine.Canon B s.mem := Iff.rfl
@[simp] theorem OpRes.canon_stop {c : Cause} {v : Dword} : (OpRes.stop s c v).Canon B ↔ Machine.Canon B s.mem := Iff.rfl

theorem opAccess_go_canon (o : XOp) (q : Req) (rest : Bool) (w : Canon B s.mem) : (opAccess.go s o q rest).Canon B := by
  have out := runFor_canon o.team (opSpace s o) q rest w
  unfold opAccess.go
  split
  · exact w
  · cases h : runFor s o.team (opSpace s o) q rest <;> rw [h] at out <;> dsimp only
    case park => split <;> simp -implicitDefEqProofs [w]
    all_goals simp_all

theorem opAccess_turn_canon (o : XOp) (q : Req) (w : Canon B s.mem) : (opAccess.turn s o q).Canon B := by
  have go := fun rest => opAccess_go_canon o q rest w
  unfold opAccess.turn
  (repeat' split) <;> simp [go, w]

theorem opAccess_canon (o : XOp) (q : Req) (w : Canon B s.mem) : (opAccess s o q).Canon B := by
  unfold opAccess
  split
  · split
    · exact w
    · exact opAccess_turn_canon _ _ w
  · exact opAccess_turn_canon _ _ w

/-! Messages between groups (R230 to R235). -/

theorem runState_canon (u : GUnit) (x : Nat) (w : Canon B s.mem) : (runState s u x).Canon B := runFor_canon _ _ _ _ w

@[simp] theorem deliver_canon (u : GUnit) (p : Packet) (w : Canon B s.mem) : Canon B (deliver s u p).mem := by
  have out := runFor_canon u.team (unitSpace s u) (messageReq u p) false w
  unfold deliver
  dsimp only
  split
  · exact w
  · split
    · simpa using w
    · cases h : runFor s u.team (unitSpace s u) (messageReq u p) <;> rw [h] at out <;> dsimp only
      case done t imgs =>
        have st : (runState (t.unhold (unitHold u)) u 2).Canon B := runState_canon u 2 (by simpa using out)
        split
        · next h => rw [h] at st; simpa using st
        · simpa using out
      case park => split <;> simp -implicitDefEqProofs [w]
      all_goals simp_all

@[simp] theorem farStep_canon (o : XOp) (w : Canon B s.mem) : Canon B (farStep s o).mem := by
  have acc := fun q => opAccess_canon o q w
  unfold farStep
  dsimp only
  split
  · simpa using w
  · split
    · simpa using w
    · split
      · simpa using w
      · next u _ _ p _ _ _ =>
        have out := opAccess_canon o (if o.progress = 2 then messageReq u p else writeReq u.buf (leBytes 4 2)) w
        split <;> next h =>
          rw [h] at out
          simp only [OpRes.canon_data, OpRes.canon_wait, OpRes.canon_stop] at out
          (repeat' split) <;> simpa using out
        
@[simp] theorem withdrawUnit_canon (u : GUnit) (w : Canon B s.mem) : Canon B (withdrawUnit s u).mem := by
  have st := runState_canon u 3 w
  unfold withdrawUnit
  dsimp only
  split
  · simpa using w
  · cases h : runState s u 3 <;> rw [h] at st <;> simp_all

@[simp] theorem readiness_mem (s : State) (group : Nat) (part : BitVec 6) : (readiness s group part).1.mem = s.mem := by
  unfold readiness; (repeat' split) <;> simp

end Sys2Proof.Machine
end

section
/-! Memory stays canonical: the guest's link, and the vector, SFU and matrix engines (R20, R183 to R226, R390 to R402). -/

namespace Sys2Proof.Machine

variable {B : Nat} {s t : State}

theorem canon_ite {c : Prop} [Decidable c] {a b : State} (ha : Canon B a.mem) (hb : Canon B b.mem) :
    Canon B (if c then a else b).mem := by
  split
  · exact ha
  · exact hb

/-! The guest's link. -/

@[simp] theorem writeCompl_canon (p : GPacket) (x : Nat) (w : Canon B s.mem) : Canon B (writeCompl s p x).mem := by
  have out := runReq_canon (bufSpace p.ctx) (writeReq p.compl (leBytes 8 x)) false w
  unfold writeCompl
  split
  · exact w
  · split
    · next h => rw [h] at out; exact out
    all_goals simpa using w

@[simp] theorem wakeTag_mem (s : State) (g : GTag) : (wakeTag s g).mem = s.mem := by
  unfold wakeTag; split <;> simp

@[simp] theorem fence_canon (cause : BitVec 8) (w : Canon B s.mem) : Canon B (fence s cause).mem := by
  unfold fence
  dsimp only
  rw [State.onGuest_mem]
  refine canon_foldl (fun _ p h => writeCompl_canon p _ h) _ ?_
  refine canon_foldl (fun _ q h => ?_) _ ?_
  · (repeat' split) <;> simp [h]
  · refine canon_foldl (fun _ g h => by simpa using h) _ ?_
    rw [State.onGuest_mem]
    exact canon_foldl (fun _ q h => by simpa using h) _ w

@[simp] theorem breach_canon (cause : BitVec 8) (w : Canon B s.mem) : Canon B (breach s cause).mem := by
  unfold breach; split <;> simp [w]

@[simp] theorem cancelPacket_canon (p : GPacket) (w : Canon B s.mem) : Canon B (cancelPacket s p).mem :=
  writeCompl_canon p _ (by simpa using w.setBytes _ _)

@[simp] theorem answerXlreq_canon (again : Bool) (tag q : BitVec 16) (seq : Word) (va : Dword) (kind : BitVec 8) (w : Canon B s.mem) :
    Canon B (answerXlreq s again tag q seq va kind).mem := by
  unfold answerXlreq
  extract_lets hold
  split
  · exact w
  · next p _ =>
    extract_lets grantIt
    have hhold : ∀ u, (hold u).mem = u.mem := fun u => rfl
    have hgrant : ∀ u, (grantIt u).mem = u.mem := fun u => by
      dsimp only [grantIt]
      split
      · rfl
      · split
        · rfl
        · rw [hhold]; split <;> simp
    have wt := translate_canon (bufSpace p.ctx) (xlKind kind) false va w
    generalize translate s (bufSpace p.ctx) (xlKind kind) false va = r at wt
    obtain ⟨t, r⟩ := r
    have parked : ∀ r, Canon B (resolveFree t p.ctx (handleDie p.ctx) (kind.getLsbD 1) r va).1.mem :=
      fun r => resolveFree_canon _ _ _ _ _ wt
    cases r with
    | ok l =>
      cases l with
      | fab => exact wt
      | _ => exact (hgrant t).symm ▸ wt
    | snoop => exact (hgrant t).symm ▸ wt
    | moving | busy | fault => exact wt
    | _ => simpa only [xlrsp_mem, State.onGuest_mem] using parked _

@[simp] theorem retryXlreq_canon (w : Canon B s.mem) : Canon B (retryXlreq s).mem := by
  unfold retryXlreq; split <;> simp -implicitDefEqProofs [w]

@[simp] theorem queueArea_canon (n : Nat) (g : GuestReq) (p : Option GPacket) (w : Canon B s.mem) : Canon B (queueArea s n g p).mem := by
  unfold queueArea
  dsimp only
  (repeat' split) <;> simp -implicitDefEqProofs [w, w.setBytes]

@[simp] theorem grantAccess_canon (n : Nat) (g : GuestReq) (p : GPacket) (w : Canon B s.mem) : Canon B (grantAccess s n g p).mem := by
  unfold grantAccess
  split
  · simpa using w
  · next x _ =>
    extract_lets accepted va q hold
    have out := runReq_canon (bufSpace x.ctx) q false w
    refine canon_ite (by simpa using w) (canon_ite (by simpa [hold] using w) ?_)
    split
    · next t _ h =>
      rw [h] at out
      have served : Canon B (dropGuestReq n t).mem := by simpa using out
      exact canon_ite served served
    · next h => rw [h] at out; exact out
    · simpa [hold] using w
    · simp -implicitDefEqProofs only [hold, holdGuestReq_mem, canon_ite, w, State.unhold_mem, resolveFree_canon]
    · simpa using w

@[simp] theorem serveGuest_canon (n : Nat) (g : GuestReq) (w : Canon B s.mem) : Canon B (serveGuest s n g).mem := by
  unfold serveGuest; dsimp only; (repeat' split) <;> simp -implicitDefEqProofs [w]

/-! The vector and SFU engines: their words change their strand only. -/

theorem enginesAct_canon (r : Roles) (mr mw : List Nat) (sfu : Bool) (lat stall : Nat) (body : Strand → Strand → Strand)
    (w : Canon B s.mem) : (enginesAct r mr mw sfu lat stall body s).Canon B := by
  unfold enginesAct
  extract_lets u unit mode
  split
  next t ht =>
  have wt : Canon B t.mem := w.of_mem_eq (by cases ht; rfl)
  extract_lets
  split
  · exact Act.canon_trap
  · split <;> exact wt

theorem enginesWord_canon (r : Roles) (fate : Option Cause) (mr mw : List Nat) (sfu : Bool) (lat stall : Nat)
    (body : Strand → Strand → Strand) (w : Canon B s.mem) : NextCanon B (enginesWord r fate mr mw sfu lat stall body s) :=
  issueWith_canon _ _ (fun _ h => undamaged_canon _ (fun _ h => enginesAct_canon _ _ _ _ _ _ _ h) h) w

theorem vecWord_canon (i : Instr) (sbit : BitVec 1) (body : Strand → Strand → Strand) (w : Canon B s.mem) :
    NextCanon B (vecWord i sbit body s) := enginesWord_canon _ _ _ _ _ _ _ _ w

theorem sfuWord_canon (r : Roles) (ok : Bool) (lat : Nat) (k : BitVec 3) (body : Strand → Strand → Strand) (w : Canon B s.mem) :
    NextCanon B (sfuWord r ok lat k body s) := enginesWord_canon _ _ _ _ _ _ _ _ w

/-! The matrix engine. -/

/-- Every state that a read for the matrix engine can leave is canonical below `B`. -/
def MRead.Canon (B : Nat) : MRead → Prop
  | .data s _ | .wait s | .trap s _ _ => Machine.Canon B s.mem

@[simp] theorem MRead.canon_data {imgs : List Vec} : (MRead.data s imgs).Canon B ↔ Machine.Canon B s.mem := Iff.rfl
@[simp] theorem MRead.canon_wait : (MRead.wait s).Canon B ↔ Machine.Canon B s.mem := Iff.rfl
@[simp] theorem MRead.canon_trap {c : Cause} {v : Dword} : (MRead.trap s c v).Canon B ↔ Machine.Canon B s.mem := Iff.rfl

theorem mtxRun_canon (u : EUnit) (priv : Bool) (q : Req) (here : Bool) (w : Canon B s.mem) : (mtxRun s u priv q here).Canon B := by
  have out := runReq_canon { spaceOf s.cs s.csTeam with priv := priv } q here w
  unfold mtxRun
  dsimp only
  split
  · next h => rw [h] at out; exact out
  · next h => rw [h] at out; exact out
  · exact w
  · split <;> simpa using (tryPark_canon _ _ _ w).fst ‹_›
  · next h => rw [h] at out; simpa using out
  all_goals exact w

theorem mtxAccess_canon (u : EUnit) (priv : Bool) (q : Req) (w : Canon B s.mem) : (mtxAccess s u priv q).Canon B := by
  unfold mtxAccess
  dsimp only
  (repeat' split) <;> simp [w, mtxRun_canon]

@[simp] theorem mmtStep_canon (c : MtxCmd) (w : Canon B s.mem) : Canon B (mmtStep s c).mem := by
  unfold mmtStep
  extract_lets u b es
  have acc := mtxAccess_canon c.unit c.priv (keptReq c es 44) w
  split
  · simpa using w
  · split
    · next h => rw [h] at acc; exact acc
    · next h => rw [h] at acc; simpa using acc
    · next h =>
      rw [h] at acc
      dsimp only
      (repeat' split) <;> simpa using acc

@[simp] theorem attbPut_mem (s : State) (c : MtxCmd) (st o : Tile) : (attbPut s c st o).mem = s.mem := by
  unfold attbPut; dsimp only; (repeat' split) <;> simp

@[simp] theorem attbStep_canon (c : MtxCmd) (w : Canon B s.mem) : Canon B (attbStep s c).mem := by
  unfold attbStep
  split
  next st o _ =>
  extract_lets es
  have acc := mtxAccess_canon c.unit c.priv (keptReq c es 192) w
  split
  · simpa using w
  · split
    · next h => rw [h] at acc; exact acc
    · next h => rw [h] at acc; simpa using acc
    · next h =>
      rw [h] at acc
      dsimp only
      rw [attbPut_mem]
      split <;> simpa using acc

theorem arrayAct_canon (uses : List Nat) {f : State → Act} (hf : ∀ s, Canon B s.mem → (f s).Canon B) (w : Canon B s.mem) :
    (arrayAct s uses f).Canon B := by
  unfold arrayAct
  split
  · exact Act.canon_trap
  · split
    · exact Act.canon_wait
    · exact hf s w

theorem mmtAct_canon (c a b : Nat) (n : BitVec 4) (p : BitVec 3) (sp r z : BitVec 1) (w : Canon B s.mem) :
    (mmtAct s c a b n p sp r z).Canon B := by
  unfold mmtAct
  exact arrayAct_canon _ (fun _ h => by dsimp only; (repeat' split) <;> simp [h]) w

theorem mmtWbAct_canon (c a : Nat) (x : BitVec 2) (n : BitVec 4) (p : BitVec 3) (sp z : BitVec 1) (w : Canon B s.mem) :
    (mmtWbAct s c a x n p sp z).Canon B := by
  unfold mmtWbAct
  exact arrayAct_canon _ (fun _ h => by dsimp only; (repeat' split) <;> simp [h]) w

theorem attbAct_canon (c a b : Nat) (n : BitVec 4) (f z : BitVec 1) (w : Canon B s.mem) : (attbAct s c a b n f z).Canon B := by
  unfold attbAct
  exact arrayAct_canon _ (fun _ h => by dsimp only; (repeat' split) <;> simp [h]) w

@[simp] theorem runSteps_canon (n : Nat) (w : Canon B s.mem) : Canon B (runSteps n s).mem := by
  induction n generalizing s with
  | zero => exact w
  | succ n ih =>
    unfold runSteps
    split
    · exact w
    · exact ih (mmtStep_canon _ w)

theorem tileWord_canon (i : Instr) (c n : Nat) (f : ArrayState → Nat → ArrayState) (w : Canon B s.mem) :
    NextCanon B (tileWord i c n f s) :=
  issue_canon i (fun _ h => arrayAct_canon _ (fun _ h => h) h) w

theorem mtxAct_canon (x : Desc) (uses : List Nat) (q : Req) {f : State → List Vec → Act}
    (hf : ∀ s imgs, Canon B s.mem → (f s imgs).Canon B) (w : Canon B s.mem) : (mtxAct s x uses q f).Canon B := by
  have acc := mtxAccess_canon s.cs.unit s.cs.p q w
  unfold mtxAct
  split
  · exact Act.canon_wait
  · dsimp only
    split
    · next h => rw [h] at acc; exact acc
    · next h => rw [h] at acc; exact acc
    · next h => rw [h] at acc; exact hf _ _ acc

theorem accldAct_canon (c a : Nat) (n : BitVec 4) (sp : BitVec 1) (w : Canon B s.mem) : (accldAct s c a n sp).Canon B := by
  unfold accldAct
  exact arrayAct_canon _ (fun _ h => by
    dsimp only
    split
    · exact Act.canon_trap
    · split
      · exact Act.canon_trap
      · exact mtxAct_canon _ _ _ (fun _ _ h => by simpa using h) h) w

theorem wbloadAct_canon (x : BitVec 2) (a : Nat) (n : BitVec 4) (w : Canon B s.mem) : (wbloadAct s x a n).Canon B := by
  unfold wbloadAct
  exact arrayAct_canon _ (fun _ h => by
    dsimp only
    split
    · exact Act.canon_trap
    · exact mtxAct_canon _ _ _ (fun _ _ h => by simpa using h) h) w

/-! Answers to the requests of a strand (R172, R349). -/

@[simp] theorem acquired_canon (u : Strand) (o : AccOrd) (w : Canon B s.mem) : Canon B (acquired s u o).mem := by
  unfold acquired; split <;> simp [w]

@[simp] theorem completeEntry_canon (u : Strand) (seq : Nat) (w : Canon B s.mem) : Canon B (completeEntry s u seq).mem := by
  unfold completeEntry
  split
  · split
    · exact w
    · split
      · exact fillArrived_canon _ _ _ w
      · split <;> simp -implicitDefEqProofs [w]
  · simpa using w

theorem completion_canon (p : Req → Bool) (seq : Nat) (w : Canon B s.mem) : NextCanon B (completion p seq s) := by
  unfold completion
  split
  · exact w
  · extract_lets ok
    rw [nextCanon_next]
    split
    · exact completeEntry_canon _ _ w
    · exact w

/-! Fetch (R40). -/

/-- Every state that a fetch can leave is canonical below `B`. -/
def FetchRes.Canon (B : Nat) : FetchRes → Prop
  | .word s _ | .wait s | .fault s _ => Machine.Canon B s.mem

@[simp] theorem FetchRes.canon_word {x : Word} : (FetchRes.word s x).Canon B ↔ Machine.Canon B s.mem := Iff.rfl
@[simp] theorem FetchRes.canon_wait : (FetchRes.wait s).Canon B ↔ Machine.Canon B s.mem := Iff.rfl
@[simp] theorem FetchRes.canon_fault {c : Cause} : (FetchRes.fault s c).Canon B ↔ Machine.Canon B s.mem := Iff.rfl

theorem fetchRead_canon (w : Canon B s.mem) : (fetchRead s).Canon B := by
  have planned : Canon B (planBytes (spaceOf s.cs s.csTeam) .exec (fun _ => false) 4 0 s.cs.pc (s, [])).1.mem :=
    planBytes_canon _ _ _ _ _ _ w
  unfold fetchRead
  dsimp only
  split
  · (repeat' split) <;> simp [w]
  · split
    · simpa using w
    · split
      · next t r va ht =>
        have wt := planned.fst ht
        have parked := fun r => tryPark_canon t.cs r va wt
        cases r with dsimp only
        | fault | moving | ok => exact wt
        | snoop | busy => rw [FetchRes.canon_wait, askFor_mem]; exact wt
        | _ => split <;> exact (parked _).fst ‹_›
      · have wt := planned.fst ‹_›
        (repeat' split) <;> simp [wt]

theorem joinUnit_canon (x : Word) (w : Canon B s.mem) : Canon B (joinUnit x s).mem := issueWith_canon _ _ (fun _ h => h) w

@[simp] theorem splitWord_canon (x : Word) (w : Canon B s.mem) : Canon B (splitWord s x).mem := by
  unfold splitWord
  dsimp only
  have join : Canon B (joinUnit (buildUnit s x).word (passUnit (s.onCs (fun t => { t with unit := buildUnit s x })) (buildUnit s x))).mem :=
    joinUnit_canon _ (by simpa using w)
  (repeat' split) <;> simp -implicitDefEqProofs [w, join]

end Sys2Proof.Machine
end

section
/-! Memory stays canonical: collectives and the XFER engine's operations (R210 to R249). -/

namespace Sys2Proof.Machine

variable {B : Nat} {s t : State}

/-! Collectives. -/

@[simp] theorem collContribute_canon (o : XOp) (w : Canon B s.mem) : Canon B (collContribute s o).mem := by
  unfold collContribute
  extract_lets d nb two q
  have acc := opAccess_canon o q w
  split
  · next h => rw [h] at acc; exact acc
  · next h => rw [h] at acc; simpa using acc
  · next h => rw [h] at acc; simpa using acc

@[simp] theorem collWrite_canon (o : XOp) (va : Nat) (bytes : List Byte) (next : Nat) (w : Canon B s.mem) :
    Canon B (collWrite s o va bytes next).mem := by
  have acc := opAccess_canon o (writeReq (BitVec.ofNat 64 va) bytes) w
  unfold collWrite
  split
  · next h => rw [h] at acc; exact acc
  · next h => rw [h] at acc; simpa using acc
  · next h => rw [h] at acc; simpa using acc

/-- The header is read, and the first contribution is sent once the collective has started. -/
@[simp] theorem collStep_canon (o : XOp) (w : Canon B s.mem) : Canon B (collStep s o).mem := by
  have acc := fun q => opAccess_canon o q w
  unfold collStep
  extract_lets d at_
  split
  · split
    · next h => have acc := acc (readReq o.x 64); rw [h] at acc; exact acc
    · next h => have acc := acc (readReq o.x 64); rw [h] at acc; simpa using acc
    · next t imgs h =>
      have acc := acc (readReq o.x 64)
      rw [h] at acc
      extract_lets t'
      have started : Canon B t'.mem := by simpa [t'] using acc
      split
      · exact canon_ite (by simpa using started) started
      · exact started
  · exact collContribute_canon _ w
  · exact w
  · simpa using w
  · exact canon_ite (collWrite_canon _ _ _ _ w) (by simpa using w)
  · exact canon_ite (collWrite_canon _ _ _ _ w) (by simpa using w)
  · exact canon_ite (collWrite_canon _ _ _ _ w) (by simpa using w)
  · exact collWrite_canon _ _ _ _ w
  · exact collWrite_canon _ _ _ _ w
  · have acc := acc (writeReq (BitVec.ofNat 64 (at_ 0x30)) (leBytes 4 o.status))
    split
    · next h => rw [h] at acc; exact acc
    · next h => rw [h] at acc; simpa using acc
    · next h =>
      rw [h] at acc
      dsimp only
      rw [State.opDone_mem]
      refine canon_ite (opAcquire_canon _ _ ?_) ?_ <;> simpa [apply_ite State.mem] using acc

/-! Accesses of an operation, with what is done with the bytes. -/

theorem opThen_canon (o : XOp) (q : Req) {f : State → List Vec → State} (hf : ∀ s imgs, Canon B s.mem → Canon B (f s imgs).mem)
    (w : Canon B s.mem) : Canon B (opThen s o q f).mem := by
  have acc := opAccess_canon o q w
  unfold opThen
  split
  · next h => rw [h] at acc; exact acc
  · next h => rw [h] at acc; simpa using acc
  · next h => rw [h] at acc; exact hf _ _ acc

@[simp] theorem copyEnds_canon (o : XOp) (w : Canon B s.mem) : Canon B (copyEnds s o).mem := by
  unfold copyEnds; dsimp only; (repeat' split) <;> simp [w]

@[simp] theorem copyWrite_canon (id : Nat) (w : Canon B s.mem) : Canon B (copyWrite s id).mem := by
  unfold copyWrite
  split
  · exact w
  · refine canon_ite w (opThen_canon _ _ (fun _ _ h => ?_) w)
    exact canon_ite (copyEnds_canon _ h) h

@[simp] theorem copyStep_canon (o : XOp) (w : Canon B s.mem) : Canon B (copyStep s o).mem := by
  unfold copyStep
  refine canon_ite w (canon_ite (copyEnds_canon _ w) (canon_ite ?_ (copyWrite_canon _ w)))
  exact opThen_canon _ _ (fun _ _ h => copyWrite_canon _ h) w

@[simp] theorem greadyStep_canon (o : XOp) (w : Canon B s.mem) : Canon B (greadyStep s o).mem := by
  unfold greadyStep
  refine canon_ite w (canon_ite (by simpa using w) (opThen_canon _ _ (fun _ _ h => ?_) w))
  split <;> simpa using h

@[simp] theorem gunreadyStep_canon (o : XOp) (w : Canon B s.mem) : Canon B (gunreadyStep s o).mem := by
  unfold gunreadyStep
  split
  · simpa using w
  · refine canon_ite w (opThen_canon _ _ (fun _ _ h => ?_) w)
    dsimp only
    split <;> simpa using h

/-- A message that leaves its sender leaves memory alone. -/
theorem routeMsg_mem {p : Packet} (h : routeMsg s p = .sent t) : t.mem = s.mem := by
  have ready := readiness_mem s p.group p.part
  unfold routeMsg at h
  dsimp only at h
  split at h
  · split at h <;> cases h
    rfl
  · split at h
    · cases h
    · next hr =>
      rw [hr] at ready
      split at h <;> split at h <;> cases h <;> simpa using ready

@[simp] theorem sendMessage_canon (o : XOp) (w : Canon B s.mem) : Canon B (sendMessage s o).mem := by
  unfold sendMessage
  refine canon_ite (by simpa using w) ?_
  extract_lets id p s1 s'
  have ws' : Canon B s'.mem := by simpa [s', s1] using w
  split
  · exact deliver_canon _ _ ws'
  · split
    · next h => rw [routeMsg_mem h]; exact ws'
    · simpa using w
    · exact canon_ite w (by simpa using w)

@[simp] theorem gsendStep_canon (o : XOp) (w : Canon B s.mem) : Canon B (gsendStep s o).mem := by
  unfold gsendStep
  split
  · exact canon_ite (by simpa using w) (opThen_canon _ _ (fun _ _ h => by simpa using h) w)
  · exact canon_ite w (sendMessage_canon _ w)
  · exact w

@[simp] theorem grecvStep_canon (o : XOp) (w : Canon B s.mem) : Canon B (grecvStep s o).mem := by
  unfold grecvStep
  refine canon_ite w (opThen_canon _ _ (fun _ _ h => ?_) w)
  dsimp only
  rw [State.opDone_mem]
  exact canon_ite (opAcquire_canon _ _ h) (canon_ite h (by simpa using h))

@[simp] theorem gqpushStep_canon (o : XOp) (w : Canon B s.mem) : Canon B (gqpushStep s o).mem := by
  have acc := opAccess_canon o (readReq o.y 64) w
  unfold gqpushStep
  refine canon_ite w (canon_ite (by simpa using w) ?_)
  split
  · next h => rw [h] at acc; exact acc
  · next h => rw [h] at acc; simpa using acc
  · next h => rw [h] at acc; simpa using acc

@[simp] theorem gqwaitStep_canon (o : XOp) (w : Canon B s.mem) : Canon B (gqwaitStep s o).mem :=
  opThen_canon _ _ (fun _ _ h => canon_ite h (by simpa using opAcquire_canon o 4 h)) w

@[simp] theorem launchStep_canon (o : XOp) (w : Canon B s.mem) : Canon B (launchStep s o).mem := by
  unfold launchStep
  refine canon_ite (canon_ite (by simpa using w) ?_) (canon_ite (by simpa using w) ?_)
  · exact opThen_canon _ _ (fun _ _ h => by simpa using h) w
  · exact opThen_canon _ _ (fun _ _ h => by simpa using h) w

@[simp] theorem freeStep_canon (o : XOp) (w : Canon B s.mem) : Canon B (freeStep s o).mem := by
  unfold freeStep
  split
  · exact farStep_canon _ w
  · refine canon_ite (gunreadyStep_canon _ w) ?_
    split <;> simpa using w
  · exact launchStep_canon _ w
  · exact canon_ite (by simpa using w) (opThen_canon _ _ (fun _ _ h => by simpa using h) w)

@[simp] theorem opStep_canon (id : Nat) (w : Canon B s.mem) : Canon B (opStep s id).mem := by
  unfold opStep
  split
  · exact w
  · next o _ =>
    refine canon_ite (freeStep_canon _ w) (canon_ite w ?_)
    cases o.kind <;> simp [w, canon_ite]

/-! The words of the XFER engine. -/

theorem xferWith_canon (r : Roles) (fate : Option Cause) (rel : Option (Option (BitVec 4))) {f : State → Act}
    (hf : ∀ s, Canon B s.mem → (f s).Canon B) (w : Canon B s.mem) : Canon B (xferWith r fate rel s f).mem := by
  refine issueWith_canon _ _ (fun s h => ?_) w
  split
  · split
    · simpa using h
    · exact Act.canon_wait
  · split
    · exact Act.canon_wait
    · split
      · exact undamaged_canon _ hf h
      · split
        · exact Act.canon_wait
        · exact undamaged_canon _ hf (releaseL1_canon _ _ h)

theorem xferWord_canon (r : Roles) (cls : Bool) (rel : Option (Option (BitVec 4))) {f : State → Act}
    (hf : ∀ s, Canon B s.mem → (f s).Canon B) (w : Canon B s.mem) : NextCanon B (xferWord r cls rel s f) :=
  xferWith_canon _ _ _ hf w

theorem awaitAccept_canon (o : XOp) (w : Canon B s.mem) : (awaitAccept s o).Canon B := w

theorem xAligned_canon (a : Dword) (n : Nat) {act : Act} (h : act.Canon B) : (xAligned a n act).Canon B := by
  unfold xAligned
  split
  · exact Act.canon_trap
  · exact h

theorem copyAct_canon (kind : XKind) (x y z : BitVec 6) (e : BitVec 4) (w : Canon B s.mem) : (copyAct s kind x y z e).Canon B := by
  unfold copyAct
  dsimp only
  split
  · exact Act.canon_trap
  · split
    · exact Act.canon_trap
    · exact awaitAccept_canon _ w

theorem copyMmtAct_canon (x y z : BitVec 6) (e : BitVec 4) (w : Canon B s.mem) : (copyMmtAct s x y z e).Canon B := by
  unfold copyMmtAct
  split
  · exact Act.canon_trap
  · exact copyAct_canon _ _ _ _ _ w

theorem collWord_canon (kind : XKind) (x : BitVec 6) (e : BitVec 4) (w : Canon B s.mem) : NextCanon B (collWord kind x e s) :=
  xferWord_canon _ _ _ (fun _ h => xAligned_canon _ _ (awaitAccept_canon _ h)) w

theorem bufferWord_canon (kind : XKind) (x y : BitVec 6) (e : BitVec 4) (w : Canon B s.mem) : NextCanon B (bufferWord kind x y e s) :=
  xferWord_canon _ _ _ (fun _ h => xAligned_canon _ _ (awaitAccept_canon _ h)) w

theorem mbsendFar_canon (o : XOp) (w : Canon B s.mem) : (mbsendFar s o).Canon B := by
  unfold mbsendFar
  dsimp only
  split
  · split
    · exact awaitAccept_canon _ (by simpa using w)
    · simpa using w
    · exact Act.canon_wait
  · split
    · exact Act.canon_trap
    · simpa using w

theorem followAct_canon (w : Canon B s.mem) : (followAct s).Canon B := by
  unfold followAct
  split
  · next i _ =>
    refine undamaged_canon _ (fun s h => ?_) w
    cases i
    case mmt => exact mmtAct_canon _ _ _ _ _ _ _ _ h
    case mmtWb => exact mmtWbAct_canon _ _ _ _ _ _ _ h
    case wbload => exact wbloadAct_canon _ _ _ h
    case accld => exact accldAct_canon _ _ _ _ h
    case attb => exact attbAct_canon _ _ _ _ _ _ h
    all_goals exact Act.canon_wait
  · exact Act.canon_wait

@[simp] theorem followIssue_canon (id : Nat) (fu : EUnit) (w : Canon B s.mem) : Canon B (followIssue s id fu).mem := by
  have out : (followAct (s.onCs (fun t => { t with unit := fu }))).Canon B := followAct_canon w
  unfold followIssue
  dsimp only
  split
  · exact w
  · split
    · next h => rw [h] at out; simpa using out
    · next h => rw [h] at out; simpa using out
    · next h => rw [h] at out; simpa using out
    · simpa using w
    · next h => rw [h] at out; simpa using out
    · exact w

end Sys2Proof.Machine
end

section
/-! Memory stays canonical: teams, their placement and their launches, and the words of the context (R27 to R32, R250 to R270,
R317 to R349). -/

namespace Sys2Proof.Machine

variable {B : Nat} {s t : State}

/-- Zeroing frames, each at the key that `f` gives. -/
theorem Canon.zeroFrames {α : Type} {m : List Host.Cell} (f : α → Nat) (l : List α) (w : Canon B m) :
    Canon B (l.foldl (fun m x => Machine.zeroFrame m (f x)) m) :=
  Canon.foldl (fun _ x h => h.zeroFrame (f x)) l w

theorem getD_canon {r : Option State} (hr : ∀ t, r = some t → Canon B t.mem) (w : Canon B s.mem) : Canon B (r.getD s).mem := by
  cases r with
  | none => exact w
  | some t => exact hr t rfl

/-! Teams on and off their tile (R333 to R346). -/

@[simp] theorem loadFrames_canon (id : Nat) (die : BitVec 2) (tile : BitVec 4) (frames : List Nat) (image : List Host.Cell)
    (w : Canon B s.mem) : Canon B (loadFrames s id die tile frames image).mem :=
  Canon.foldl (fun _ _ h => h.setByte _ _) _ (w.zeroFrames _ _)

@[simp] theorem allocSave_canon (m : Team) (n : Nat) (w : Canon B s.mem) : Canon B (allocSave s m n).mem := by
  refine canon_foldl (fun s _ h => ?_) _ w
  exact getD_canon (fun t ht => takeSave_canon ht h) h

@[simp] theorem flushTeam_canon (m : Team) (w : Canon B s.mem) : Canon B (flushTeam s m).mem := flushL1_canon _ _ w

/-- Moving the damage of an image's places. -/
@[simp] theorem moveDamages_mem {α : Type} (f g : α → Nat) (l : List α) (s : State) :
    (l.foldl (fun s x => s.moveDamage (f x) (g x)) s).mem = s.mem := foldl_mem (fun _ _ => State.moveDamage_mem ..) l s

@[simp] theorem vacate_canon (id : Nat) (w : Canon B s.mem) : Canon B (vacate s id).mem := by
  unfold vacate
  split
  · exact w
  · next m _ =>
    refine canon_ite w ?_
    extract_lets shares image n s1 s2 s3 s4 s5
    have lifted : Canon B s1.mem := by simpa [s1] using flushTeam_canon m w
    have zeroed : Canon B s3.mem := Canon.zeroFrames _ _ (by rwa [moveDamages_mem])
    rw [settleCtx_mem]
    exact allocSave_canon _ _ zeroed

@[simp] theorem takeOff_canon (id : Nat) (w : Canon B s.mem) : Canon B (takeOff s id).mem := frameFreed_canon (vacate_canon id w)

/-- Every state that a read for a launch can leave is canonical below `B`. -/
def KRead.Canon (B : Nat) : KRead → Prop
  | .data s _ | .wait s | .refused s => Machine.Canon B s.mem

@[simp] theorem KRead.canon_data {bytes : List Byte} : (KRead.data s bytes).Canon B ↔ Machine.Canon B s.mem := Iff.rfl
@[simp] theorem KRead.canon_wait : (KRead.wait s).Canon B ↔ Machine.Canon B s.mem := Iff.rfl
@[simp] theorem KRead.canon_refused : (KRead.refused s).Canon B ↔ Machine.Canon B s.mem := Iff.rfl

theorem farRead_canon (id : Nat) (ctx : Word) (va : Dword) (n : Nat) (w : Canon B s.mem) : (farRead s id ctx va n).Canon B := by
  unfold farRead
  split
  · split <;> exact w
  · split <;> exact w

theorem readParam_canon (m : Team) (va : Dword) (n : Nat) (w : Canon B s.mem) : (readParam s m va n).Canon B := by
  have out := runReq_canon { ctx := m.ctx } (readReq va n) false w
  unfold readParam
  split
  · exact w
  · split
    · next h => rw [h] at out; exact out
    · next h => rw [h] at out; exact out
    · exact w
    · split <;> exact (tryPark_canon _ _ _ w).fst ‹_›
    · exact farRead_canon _ _ _ _ w
    · exact w

theorem readParams_canon (lpb : Dword) (m : Team) (l : List (Nat × Nat)) (w : Canon B s.mem) :
    Canon B (readParams lpb m l s).1.mem := by
  induction l generalizing s with
  | nil => exact w
  | cons x l ih =>
    obtain ⟨off, n⟩ := x
    have read := readParam_canon m (lpb + BitVec.ofNat 64 off) n w
    unfold readParams
    split
    · exact ih w
    · split
      · next h => rw [h] at read; exact read
      · next h => rw [h] at read; exact ih read
      · next h => rw [h] at read; exact ih read

/-- Entries of a record performed again, each of the strand that `f` finds. -/
theorem retryEntries_canon (team sid : Nat) (l : List Nat) (w : Canon B s.mem) :
    Canon B (l.foldl (fun s seq => match s.strand? team sid with | some t => retryEntry s t seq | none => s) s).mem :=
  canon_foldl (fun _ _ h => by split <;> simp [h]) l w

@[simp] theorem replayEntries_canon (id : Nat) (w : Canon B s.mem) : Canon B (replayEntries s id).mem :=
  canon_foldl (fun _ u h => retryEntries_canon id u.sid _ h) _ w

@[simp] theorem seat_canon (m : Team) (die : BitVec 2) (tile : BitVec 4) (w : Canon B s.mem) : Canon B (seat s m die tile).mem := by
  unfold seat
  extract_lets cores frames s1 s2 q s3 i c s4 s5 s6
  have granted : Canon B s1.mem := by simpa [s1] using w
  have loaded : Canon B s2.mem := by simpa [s2] using loadFrames_canon m.id die tile frames m.image (flushTeam_canon _ granted)
  have settled : Canon B s4.mem := by simpa [s4, s3] using loaded
  have replayed : Canon B s5.mem := replayEntries_canon m.id settled
  have raised : Canon B s6.mem := canon_foldl (fun _ u h => by simpa using h) _ replayed
  exact canon_ite raised (frameFreed_canon raised)

@[simp] theorem readyTeam_canon (m : Team) (w : Canon B s.mem) : Canon B (readyTeam s m).1.mem := by
  unfold readyTeam
  split
  · exact w
  · have strands : Canon B (ensureStrands s m).mem := by simpa using w
    dsimp only
    split
    · exact (readParams_canon _ _ _ strands).fst ‹_›
    · simpa using (readParams_canon _ _ _ strands).fst ‹_›

@[simp] theorem placeTeam_canon (m : Team) (die : BitVec 2) (tile : BitVec 4) (w : Canon B s.mem) :
    Canon B (placeTeam s m die tile).1.mem := by
  unfold placeTeam
  split
  · exact (readyTeam_canon _ w).fst ‹_›
  · exact seat_canon _ _ _ ((readyTeam_canon _ w).fst ‹_›)

/-! Selection (R335 to R340). -/

@[simp] theorem selectLoop_mem (die : Nat) (excl : List Nat) (n : Nat) (s : State) : (selectLoop die excl n s).1.mem = s.mem := by
  induction n generalizing s with
  | zero => rfl
  | succ n ih =>
    unfold selectLoop
    dsimp only
    split
    · rfl
    · split
      · simp
      · rw [ih, State.setDeficit_mem]

@[simp] theorem clearDeficits_mem (s : State) (die : Nat) : (clearDeficits s die).mem = s.mem :=
  foldl_mem (fun _ _ => by split <;> simp) _ s

/-- Unfolded by hand: the equations of `selection` would evaluate the 130 turns of `selectLoop`. -/
@[simp] theorem selection_canon (die n : Nat) (excl : List Nat) (w : Canon B s.mem) : Canon B (selection die n excl s).1.mem := by
  delta selection selection._f Nat.brecOn Nat.brecOn.go
  dsimp only
  induction n generalizing s excl with
  | zero => exact w
  | succ n ih =>
    have chosen : Canon B (selectLoop die excl 130 (clearDeficits s die)).1.mem := by simpa using w
    dsimp only
    generalize selectLoop die excl 130 (clearDeficits s die) = r at chosen
    obtain ⟨t, choice⟩ := r
    cases choice with
    | none => exact chosen
    | some x =>
      obtain ⟨m, d, tile⟩ := x
      have seated := placeTeam_canon m d tile chosen
      dsimp only
      generalize placeTeam t m d tile = r at seated
      obtain ⟨u, placed⟩ := r
      cases placed with
      | true => exact seated
      | false => exact ih _ seated

/-- Unfolded by hand, as is `selection`. -/
@[simp] theorem selectDie_canon (excl : List Nat) (die n : Nat) (w : Canon B s.mem) : Canon B (selectDie excl die n s).mem := by
  delta selectDie selectDie._f Nat.brecOn Nat.brecOn.go
  dsimp only
  induction n generalizing s with
  | zero => exact w
  | succ n ih =>
    have chosen := selection_canon die (s.teams.length + 1) excl w
    dsimp only
    generalize selection die (s.teams.length + 1) excl s = r at chosen
    obtain ⟨t, placed⟩ := r
    cases placed with
    | true => exact ih chosen
    | false => exact chosen

@[simp] theorem selectOthers_canon (id : Nat) (w : Canon B s.mem) : Canon B (selectOthers s id).mem :=
  canon_foldl (fun _ _ h => selectDie_canon _ _ _ h) _ w

@[simp] theorem demoteForPlace_canon (die : Nat) (w : Canon B s.mem) : Canon B (demoteForPlace s die).mem := by
  unfold demoteForPlace
  refine getD_canon (fun t h => ?_) w
  obtain ⟨m, -, hm⟩ := List.exists_of_findSome?_eq_some h
  dsimp only at hm
  split at hm
  · cases hm
  · obtain ⟨x, -, hx⟩ := List.exists_of_findSome?_eq_some hm
    split at hx
    · cases hx
    · cases hx
      exact capacityDemote_canon _ _ w

/-! Launches and their completion records (R321 to R332). -/

@[simp] theorem crecWrite_canon (l : Launch) (va : Nat) (bytes : List Byte) (w : Canon B s.mem) :
    Canon B (crecWrite s l va bytes).1.mem := by
  have out := runReq_canon { ctx := lCTX l.record } (writeReq (BitVec.ofNat 64 va) bytes) false w
  unfold crecWrite
  dsimp only
  split
  · split <;> simp [w]
  · split
    · simpa using w
    · split
      · next h => rw [h] at out; exact out
      · next h => rw [h] at out; exact out
      · exact w
      · simp -implicitDefEqProofs [w]
      · simpa using w
      · simpa using w

@[simp] theorem crecStep_canon (l : Launch) (n : Nat) (w : Canon B s.mem) : Canon B (crecStep s l n).1.mem := by
  unfold crecStep; dsimp only; split <;> simp -implicitDefEqProofs [w]

@[simp] theorem completeFrom_canon (id n : Nat) (w : Canon B s.mem) : Canon B (completeFrom id n s).mem := by
  induction n generalizing s with
  | zero =>
    unfold completeFrom
    split
    · exact w
    · next l _ =>
      refine canon_ite w (canon_ite (by simpa using w) ?_)
      exact crecStep_canon l l.written w
  | succ n ih =>
    unfold completeFrom
    split
    · exact w
    · next l _ =>
      refine canon_ite w (canon_ite (by simpa using w) ?_)
      have written := crecStep_canon l l.written w
      generalize crecStep s l l.written = r at written
      obtain ⟨t, ok⟩ := r
      cases ok with
      | true => exact ih (by simpa using written)
      | false => exact written

@[simp] theorem completeLaunch_canon (id : Nat) (w : Canon B s.mem) : Canon B (completeLaunch s id).mem := completeFrom_canon _ _ w

@[simp] theorem launchTeamEnded_canon (id : Nat) (w : Canon B s.mem) : Canon B (launchTeamEnded s id).mem :=
  canon_ite w (completeLaunch_canon _ (by simpa using w))

@[simp] theorem withdrawUnits_canon (l : List GUnit) (w : Canon B s.mem) : Canon B (l.foldl (fun s u => withdrawUnit s u) s).mem :=
  canon_foldl (fun _ _ h => withdrawUnit_canon _ h) l w

@[simp] theorem endOps_canon (id : Nat) (drop : XOp → Bool) (w : Canon B s.mem) : Canon B (endOps s id drop).mem :=
  withdrawUnits_canon _ w

@[simp] theorem removeTeam_canon (m : Team) (w : Canon B s.mem) : Canon B (removeTeam s m).mem := by
  have flushed : Canon B (refund (ungrant (flushTeam s m) m) m).mem := by simpa using flushTeam_canon m w
  unfold removeTeam
  refine frameFreed_canon ?_
  rw [settleCtx_mem]
  dsimp only
  split
  · exact flushed.zeroFrames _ _
  · simpa using w

@[simp] theorem readSends_canon (id : Nat) (w : Canon B s.mem) : Canon B (readSends s id).mem :=
  canon_foldl (fun _ _ h => by split <;> simp [h]) _ w

@[simp] theorem discardTeam_canon (m : Team) (w : Canon B s.mem) : Canon B (discardTeam s m).mem :=
  launchTeamEnded_canon _ (removeTeam_canon m (endOps_canon _ _ (readSends_canon _ w)))

/-! The acceptance of a launch (R321 to R332). -/

theorem acceptRead_canon (id : Nat) (ctx : Word) (va n : Nat) (w : Canon B s.mem) : (acceptRead s id ctx va n).Canon B := by
  have out := runReq_canon { ctx := ctx } (readReq (BitVec.ofNat 64 va) n) false w
  unfold acceptRead
  split
  · exact w
  · split
    · next h => rw [h] at out; exact out
    · next h => rw [h] at out; exact out
    · exact w
    · split
      · exact w
      · exact resolveFree_canon _ _ _ _ _ w
    · split
      · exact w
      · exact resolveFree_canon _ _ _ _ _ w
    · exact farRead_canon _ _ _ _ w
    · exact w

theorem readInputs_canon (id : Nat) (ctx : Word) (lpb : Nat) (l : List (List Byte)) (w : Canon B s.mem) :
    Canon B (readInputs id ctx lpb l s).1.mem := by
  induction l generalizing s with
  | nil => exact w
  | cons e l ih =>
    have first := acceptRead_canon id ctx (lpb + leNat (e.take 2)) 8 w
    unfold readInputs
    split
    · next h => rw [h] at first; exact first
    · next h => rw [h] at first; exact ih first
    · next h =>
      rw [h] at first
      have second := acceptRead_canon id ctx (lpb + leNat ((e.drop 2).take 2)) 8 first
      split
      · next h => rw [h] at second; exact second
      · next h => rw [h] at second; exact ih second
      · next h => rw [h] at second; exact ih second

theorem readMap_canon (id : Nat) (ctx : Word) (dmap : Nat) (l : List Nat) (w : Canon B s.mem) :
    Canon B (readMap id ctx dmap l s).1.mem := by
  induction l generalizing s with
  | nil => exact w
  | cons k l ih =>
    have read := acceptRead_canon id ctx (dmap + 8 * k) 8 w
    unfold readMap
    dsimp only
    split
    · exact ih w
    · split
      · next h => rw [h] at read; exact read
      · next h => rw [h] at read; exact ih (by simpa using read)
      · next h => rw [h] at read; split <;> exact ih read

@[simp] theorem launchMap_canon (l : Launch) (w : Canon B s.mem) : Canon B (launchMap s l).1.mem := readMap_canon _ _ _ _ w

@[simp] theorem recallTo_canon (obj : BitVec 48) (tier : BitVec 2) (w : Canon B s.mem) : Canon B (recallTo s obj tier).mem := by
  unfold recallTo
  split
  · exact canon_ite (startMove_canon _ _ _ w) w
  · exact w

@[simp] theorem acceptTeams_canon (l : Launch) (h : Header) (map : List (BitVec 4 × Dword)) (w : Canon B s.mem) :
    Canon B (acceptTeams s l h map).mem := by
  unfold acceptTeams
  extract_lets r n teams s1 i s2
  have ready : Canon B s2.mem := wakeMoves_canon i (by simpa [s1] using w)
  refine canon_foldl (fun _ m h => canon_foldl (fun _ x h => canon_foldl (fun _ va h => canon_ite h ?_) _ h) _ h) _ ready
  split
  · exact recallTo_canon _ _ h
  · exact h

/-- Every state that the check of a kernel can leave is canonical below `B`. -/
def LaunchRes.Canon (B : Nat) : LaunchRes → Prop
  | .wait s | .fail s _ | .ok s _ => Machine.Canon B s.mem

theorem checkKernel_canon (id : Nat) (r : BitVec 512) (w : Canon B s.mem) : (checkKernel s id r).Canon B := by
  have read : ∀ {u : State} {va n : Nat} {k : KRead}, acceptRead u id (lCTX r) va n = k → Canon B u.mem → k.Canon B :=
    fun h w => h ▸ acceptRead_canon _ _ _ _ w
  unfold checkKernel
  dsimp only
  split
  · next h => exact read h w
  · next h => exact read h w
  · next h =>
    have first := read h w
    split
    · exact first
    · split
      · next h => exact read h first
      · next h => exact read h first
      · next h =>
        have second := read h first
        split
        · next h => exact read h second
        · next h => exact read h second
        · next h =>
          have third := read h second
          split
          · exact third
          · split
            · exact third
            · split <;> exact (readInputs_canon _ _ _ _ third).fst ‹_›

@[simp] theorem launchKernel_canon (id : Nat) (w : Canon B s.mem) : Canon B (launchKernel s id).mem := by
  unfold launchKernel
  split
  · exact w
  · next l _ =>
    refine canon_ite w ?_
    dsimp only
    split
    · exact (launchMap_canon l w).fst ‹_›
    · have kernel := checkKernel_canon id l.record ((launchMap_canon l w).fst ‹_›)
      split
      · next h => rw [h] at kernel; exact kernel
      · next h => rw [h] at kernel; exact completeLaunch_canon _ kernel
      · next h => rw [h] at kernel; exact acceptTeams_canon _ _ _ kernel

/-! The words of the context (R250 to R270). -/

theorem contextWord_canon (i : Instr) (a : BitVec 6) {f : State → Word → Act} (hf : ∀ s h, Canon B s.mem → (f s h).Canon B)
    (w : Canon B s.mem) : NextCanon B (contextWord i a f s) :=
  issue_canon i (fun _ h => by
    dsimp only
    split
    · exact Act.canon_trap
    · exact hf _ _ h) w

@[simp] theorem setHint_canon (i : Nat) (x : Dword) (w : Canon B s.mem) : Canon B (setHint s i x).mem := by
  unfold setHint
  dsimp only
  refine canon_ite (recallContext_canon i (wakeMoves_canon i ?_)) (canon_ite (wakeMoves_canon i ?_) ?_) <;> simpa using w

@[simp] theorem discardAll_canon (i : Nat) (w : Canon B s.mem) : Canon B (discardAll s i).mem := by
  refine canon_foldl (fun _ _ h => completeLaunch_canon _ (by simpa using h)) _ (canon_foldl (fun _ _ h => ?_) _ w)
  split
  · exact discardTeam_canon _ h
  · exact h

@[simp] theorem releasePages_canon (i : Nat) (w : Canon B s.mem) : Canon B (releasePages s i).mem :=
  frameFreed_canon (Canon.foldl (fun _ f h => h.zeroFrame f) _ (canon_foldl (fun _ f h => flushFrame_canon f h) _ w))

@[simp] theorem freeContext_canon (i : Nat) (w : Canon B s.mem) : Canon B (freeContext s i).mem := by
  unfold freeContext
  dsimp only
  rw [State.setEntry_mem]
  exact releasePages_canon i (withdrawUnits_canon _ (discardAll_canon i (by simpa using w)))

@[simp] theorem killContext_canon (i : Nat) (w : Canon B s.mem) : Canon B (killContext s i).mem := by
  have gone : Canon B (discardAll (preemptContext s ((s.entry i).handle i)) i).mem := discardAll_canon i (by simpa using w)
  unfold killContext
  dsimp only
  (repeat' split) <;> simpa using gone

@[simp] theorem replayCs_canon (w : Canon B s.mem) : Canon B (replayCs s).mem := retryEntries_canon _ _ _ w

theorem returnWord_canon (i : Instr) (f : Strand → Frame → Strand) (w : Canon B s.mem) : NextCanon B (returnWord i f s) :=
  issue_canon i (fun _ h => by
    split
    · exact Act.canon_trap
    · split
      · exact Act.canon_wait
      · exact replayCs_canon h) w

theorem invalidateWord_canon (i : Instr) {drop : State → State} (hd : ∀ s, Canon B s.mem → Canon B (drop s).mem)
    (uses : State → Word → Bool) (w : Canon B s.mem) : NextCanon B (invalidateWord i drop uses s) :=
  issue_canon i (fun _ h => by
    dsimp only
    split
    · split <;> exact h
    · split <;> exact hd _ h) w

end Sys2Proof.Machine
end

section
/-! Memory stays canonical: the fabric, the host and the power states (R12 to R18, R172, R276, R349, R368 to R384). -/

namespace Sys2Proof.Machine

variable {B : Nat} {s t : State}

/-! Requests of other devices (R382, R387). -/

theorem whenReady_canon {f : State → State} (hf : Canon B s.mem → Canon B (f s).mem) (w : Canon B s.mem) : NextCanon B (whenReady s f) := by
  unfold whenReady
  exact canon_ite (hf w) w

@[simp] theorem fabBytes_mem (part : BitVec 6) (k : AKind) (off n o : Nat) (s : State) : (fabBytes part k off n o s).1.mem = s.mem := by
  induction n generalizing o s with
  | zero => rfl
  | succ n ih =>
    have moved := fabricMmu_mem s part (off + o) k
    unfold fabBytes
    split
    · next h => rw [h] at moved; exact (ih _ _).trans moved
    · next h => rw [h] at moved; exact moved

@[simp] theorem performRequest_canon (p : Packet) (w : Canon B s.mem) : Canon B (performRequest s p).1.mem := by
  have planned := fabBytes_mem p.part (packetReq p).akind (reqBase p) (reqLen p) 0 s
  unfold performRequest
  dsimp only
  split
  · simpa using w
  · split
    · next h => rw [h] at planned; simpa using w.of_mem_eq planned
    · simpa using w
    · next t plan h =>
      rw [h] at planned
      have wt : Canon B t.mem := w.of_mem_eq planned
      have out := performPlan_canon { ctx := 0, die := p.ddie } (packetReq p) false plan w wt
      split
      · next h => rw [h] at out; simpa using out
      · next h => rw [h] at out; exact out
      · simpa using wt
      · simpa using wt

@[simp] theorem serveRequest_canon (p : Packet) (w : Canon B s.mem) : Canon B (serveRequest s p).mem := by
  unfold serveRequest
  split
  · simpa using w
  · have out := performRequest_canon p w
    split
    · next h => rw [h] at out; simpa using out
    · next h => rw [h] at out; exact out

@[simp] theorem drainStream_canon (key n : Nat) (w : Canon B s.mem) : Canon B (drainStream key n s).mem := by
  induction n generalizing s with
  | zero => exact w
  | succ n ih =>
    unfold drainStream
    split
    · exact w
    · exact ih (serveRequest_canon _ w)

theorem packetOf_canon (ty : List (BitVec 6)) (p : Packet) {f : State → State} (hf : Canon B s.mem → Canon B (f s).mem)
    (w : Canon B s.mem) : NextCanon B (packetOf ty p s f) :=
  whenReady_canon (fun w => canon_ite (hf w) (by simpa using w)) w

@[simp] theorem resendMessage_canon (x : Pending) (w : Canon B s.mem) : Canon B (resendMessage s x).mem := by
  unfold resendMessage
  dsimp only
  split
  · exact deliver_canon _ _ w
  · split
    · next h => rw [routeMsg_mem h]; exact w
    · exact canon_ite w (by simpa using w)
    · simpa using w

@[simp] theorem destroyGroup_canon (index : Nat) (g : Group) (w : Canon B s.mem) : Canon B (destroyGroup s index g).mem := by
  unfold destroyGroup
  dsimp only
  refine canon_foldl (fun _ _ h => by simpa using h) _ (withdrawUnits_canon _ (canon_foldl (fun _ _ h => by simpa using h) _ w))

/-! The host (R276, R286, R369). -/

@[simp] theorem resolved_mem (s : State) (r : Resolve) (c : Cause) (failed : Bool) : (resolved s r c failed).mem = s.mem := by
  unfold resolved
  dsimp only
  rw [State.wakesFor_mem]
  split <;> simp

@[simp] theorem hostAccess_canon (r : HostReq) (w : Canon B s.mem) : Canon B (hostAccess s r).mem := by
  unfold hostAccess
  extract_lets a n keys logged u
  have flushed : Canon B u.mem := flushL1_canon _ _ (by simpa using w)
  split
  · exact canon_ite w w
  · split
    · simpa using w
    · split
      · rw [repairGranules_mem]
        exact flushed.setBytes _ _
      · split <;> simpa using flushed

@[simp] theorem serveHostReqs_canon (w : Canon B s.mem) : Canon B (serveHostReqs s).mem :=
  canon_foldl (fun _ _ h => hostAccess_canon _ h) _ w

@[simp] theorem advanceShared_canon (part : BitVec 6) (obj : BitVec 48) (w : Canon B s.mem) : Canon B (advanceShared s part obj).mem := by
  unfold advanceShared
  dsimp only
  (repeat' split) <;> simp -implicitDefEqProofs [w]

@[simp] theorem advancePcmd_canon (part : BitVec 6) (w : Canon B s.mem) : Canon B (advancePcmd s part).mem := by
  unfold advancePcmd
  dsimp only
  (repeat' split) <;> simp -implicitDefEqProofs [w]

theorem startPcmd_canon (part : BitVec 6) {f : State → State} (hf : Canon B s.mem → Canon B (f s).mem) (w : Canon B s.mem) :
    Canon B (startPcmd s part f).mem :=
  canon_ite (by simpa using w) (hf w)

/-! The power states (R12 to R18): the host's memory outlasts a reset. -/

@[simp] theorem bringUp_canon (puf fw train : Bool) (w : Canon B s.mem) : Canon B (bringUp s puf fw train).mem := by
  have kept : Canon B (s.mem.filter (fun c => 2 ^ 64 ≤ c.1)) := w.filter _
  unfold bringUp
  dsimp only
  (repeat' split) <;> exact kept

@[simp] theorem managementReset_canon (w : Canon B s.mem) : Canon B (managementReset s).mem := bringUp_canon _ _ _ w

/-! Words that decode to no instruction (R108). -/

@[simp] theorem badWord_canon (c : DecErr) (w : Canon B s.mem) : Canon B (badWord c s).mem := by
  unfold badWord
  dsimp only
  split
  · exact issue_canon _ (fun _ _ => Act.canon_trap) w
  · split
    · exact xferWith_canon _ _ _ (fun _ _ => Act.canon_wait) w
    · exact issueWith_canon _ _ (fun _ _ => Act.canon_wait) w

end Sys2Proof.Machine
end

section
/-! Memory stays canonical: the instructions and events with several outcomes (R108 to R411), one lemma each. -/

namespace Sys2Proof.Machine

variable {B : Nat} {s t : State}

theorem nextCanon_ite {c : Prop} [Decidable c] {x y : Result} (hx : NextCanon B x) (hy : NextCanon B y) :
    NextCanon B (if c then x else y) := by
  split
  · exact hx
  · exact hy

theorem Act.canon_ite {c : Prop} [Decidable c] {x y : Act} (hx : x.Canon B) (hy : y.Canon B) : (if c then x else y).Canon B := by
  split
  · exact hx
  · exact hy

/-! The CTRL engine. -/

theorem execBarSync_canon (b : BitVec 4) (m : BitVec 1) (w : Canon B s.mem) : NextCanon B (execBarSync b m s) := by
  refine issue_canon _ (fun s h => ?_) w
  have act : (if s.cs.syncArrived then Act.ok s else arriveAct b m false s).Canon B := by
    split
    · exact h
    · exact arriveAct_canon b m false h
  dsimp only
  generalize (if s.cs.syncArrived then Act.ok s else arriveAct b m false s) = a at act
  cases a with
  | ok t => dsimp only; split <;> exact act
  | _ => exact act

theorem execCsrw_canon (a : BitVec 6) (c : BitVec 12) (w : Canon B s.mem) : NextCanon B (execCsrw a c s) := by
  refine issue_canon _ (fun s h => ?_) w
  split
  · exact h.of_mem_eq (csrWrite_mem ‹_›)
  · exact Act.canon_trap

theorem execPark_canon (e : BitVec 4) (m v t l r : BitVec 1) (a b : BitVec 6) (w : Canon B s.mem) :
    NextCanon B (execPark e m v t l r a b s) := by
  refine issue_canon _ (fun _ h => ?_) w
  dsimp only
  split
  · exact h
  · exact takeOff_canon _ h

theorem execCtxnew_canon (d a : BitVec 6) (w : Canon B s.mem) : NextCanon B (execCtxnew d a s) := by
  refine issue_canon _ (fun s h => ?_) w
  have acc := mtxAccess_canon s.cs.unit s.cs.p (readReq (s.cs.sc a) 32) h
  dsimp only
  split
  · exact Act.canon_trap
  · split
    · next h => rw [h] at acc; exact acc
    · next h => rw [h] at acc; exact acc
    · next h =>
      rw [h] at acc
      split
      · exact acc
      · split <;> simpa using acc

theorem execHingePin_canon (d a b : BitVec 6) (w : Canon B s.mem) : NextCanon B (execHingePin d a b s) := by
  refine issue_canon _ (fun s h => ?_) w
  dsimp only
  split
  · exact Act.canon_trap
  · split
    · simpa using h
    · split
      · simpa using h
      · rw [Act.canon_ok, State.result_mem]
        exact canon_ite (recallPinned_canon _ _ h) h

theorem execHingeMove_canon (d a b : BitVec 6) (w : Canon B s.mem) : NextCanon B (execHingeMove d a b s) := by
  refine issue_canon _ (fun s h => ?_) w
  dsimp only
  split
  · exact Act.canon_trap
  · (repeat' split) <;> simp -implicitDefEqProofs [h]

theorem execHangRd_canon (d a b : BitVec 6) (w : Canon B s.mem) : NextCanon B (execHangRd d a b s) := by
  refine issue_canon _ (fun s h => ?_) w
  dsimp only
  split
  · exact Act.canon_trap
  · simpa using h

theorem execCswitch_canon (d a : BitVec 6) (w : Canon B s.mem) : NextCanon B (execCswitch d a s) := by
  refine contextWord_canon _ _ (fun s x h => Act.canon_ite (by simpa using h) ?_) w
  split
  · simpa using h
  · refine Act.canon_ite Act.canon_wait ?_
    split
    · exact (readyTeam_canon _ h).fst ‹_›
    · have ready := (readyTeam_canon _ h).fst ‹_›
      rw [Act.canon_ok, State.setDeficit_mem]
      exact frameFreed_canon (seat_canon _ _ _ (vacate_canon _ (by simpa using ready)))

/-! The ACC engine. -/

theorem execSfetch_canon (c : BitVec 4) (d : BitVec 6) (a : BitVec 4) (b : BitVec 6) (w : Canon B s.mem) :
    NextCanon B (execSfetch c d a b s) := by
  refine issue_canon _ (fun s h => Act.canon_ite Act.canon_trap (Act.canon_ite Act.canon_trap (Act.canon_ite Act.canon_wait ?_))) w
  apply accReq_canon
  · exact fun _ h => canon_ite h h
  · exact h

theorem execGathb_go_canon (c : BitVec 4) (d b : BitVec 6) (u : Strand) (x : Desc) (idx : Vec) (act oob : List Nat) (zeroing : Bool)
    (w : Canon B s.mem) : (execGathb.go c d b s u x idx act oob zeroing).Canon B := by
  have setup : ∀ s : State, Canon B s.mem → Canon B (s.onCs (fun t =>
      let t := (takeSources t.unit [(17, b)] t).2
      if oob.isEmpty then t else t.setStat statOOB)).mem := fun _ h => h
  unfold execGathb.go
  dsimp only
  split
  · exact Act.canon_ite Act.canon_wait (accReq_canon setup _ _ w)
  · exact Act.canon_ite Act.canon_trap (accReq_canon setup _ _ w)

theorem execGathb_canon (c : BitVec 4) (d : BitVec 6) (tr : BitVec 1) (a : BitVec 4) (b : BitVec 6) (w : Canon B s.mem) :
    NextCanon B (execGathb c d tr a b s) := by
  refine issue_canon _ (fun s h => ?_) w
  have go := fun x idx act oob z => execGathb_go_canon c d b s.cs x idx act oob z h
  dsimp only
  split
  · exact Act.canon_trap
  · split
    · split
      · exact Act.canon_trap
      · exact go _ _ _ _ _
    · exact go _ _ _ _ _

theorem execWmap_canon (c d : BitVec 4) (a b : BitVec 6) (w : Canon B s.mem) : NextCanon B (execWmap c d a b s) := by
  refine issue_canon _ (fun s h => ?_) w
  dsimp only
  split
  · exact Act.canon_trap
  · exact ringAct_canon _ _ _ _ h

theorem execFld_canon (c : BitVec 4) (d a i : BitVec 6) (w : Canon B s.mem) : NextCanon B (execFld c d a i s) :=
  issue_canon _ (fun _ h => alignedReq_canon _ _ (fun _ h => accReq_id_canon _ _ h) h) w

theorem execFst_canon (c : BitVec 4) (d a i : BitVec 6) (w : Canon B s.mem) : NextCanon B (execFst c d a i s) :=
  issue_canon _ (fun _ h => alignedReq_canon _ _ (fun _ h => accReq_id_canon _ _ h) h) w

/-! The matrix engine. -/

theorem damageTrap_canon : damageTrap.Canon B := Act.canon_trap

theorem execAccst_canon (c : BitVec 3) (a n : BitVec 4) (sp sat : BitVec 1) (w : Canon B s.mem) :
    NextCanon B (execAccst c a n sp sat s) := by
  refine issue_canon _ (fun s h => arrayAct_canon _ (fun s h => ?_) h) w
  dsimp only
  split
  · exact Act.canon_trap
  · split
    · exact Act.canon_trap
    · split
      · exact damageTrap_canon
      · exact mtxAct_canon _ _ _ (fun _ _ h => by simpa using h) h

theorem execAccmv_canon (c : BitVec 3) (d a : BitVec 6) (sp l : BitVec 1) (w : Canon B s.mem) : NextCanon B (execAccmv c d a sp l s) := by
  refine issue_canon _ (fun s h => arrayAct_canon _ (fun s h => ?_) h) w
  dsimp only
  split
  · exact damageTrap_canon
  · simpa using h

theorem execCamStep_canon (w : Canon B s.mem) : NextCanon B (execCamStep s) := by
  unfold execCamStep
  (repeat' split) <;> simp [w]

/-! The XFER engine. -/

theorem execCopy_canon (x y z : BitVec 6) (e : BitVec 4) (w : Canon B s.mem) : NextCanon B (execCopy x y z e s) :=
  xferWord_canon _ _ _ (fun _ h => copyAct_canon _ _ _ _ _ h) w

theorem execCopyMmt_canon (x y z : BitVec 6) (e : BitVec 4) (w : Canon B s.mem) : NextCanon B (execCopyMmt x y z e s) := by
  unfold execCopyMmt
  dsimp only
  split
  · split
    · exact w
    · exact xferWith_canon _ _ _ (fun _ _ => Act.canon_wait) w
  · split
    · exact xferWith_canon _ _ _ (fun _ h => copyMmtAct_canon _ _ _ _ h) w
    · exact xferWith_canon _ _ _ (fun _ _ => Act.canon_trap) w

theorem execGsend_canon (x y : BitVec 6) (o : BitVec 1) (e : BitVec 4) (w : Canon B s.mem) : NextCanon B (execGsend x y o e s) := by
  refine xferWord_canon _ _ _ (fun _ h => ?_) w
  dsimp only
  split
  · exact Act.canon_trap
  · exact xAligned_canon _ _ (awaitAccept_canon _ h)

theorem execGrecv_canon (x : BitVec 6) (e : BitVec 4) (w : Canon B s.mem) : NextCanon B (execGrecv x e s) :=
  xferWord_canon _ _ _ (fun _ h => xAligned_canon _ _ (awaitAccept_canon _ h)) w

theorem execGqpush_canon (x y : BitVec 6) (e : BitVec 4) (w : Canon B s.mem) : NextCanon B (execGqpush x y e s) := by
  refine xferWord_canon _ _ _ (fun _ h => xAligned_canon _ _ ?_) w
  split
  · exact Act.canon_trap
  · exact awaitAccept_canon _ h

theorem execGqwait_canon (x : BitVec 6) (e : BitVec 4) (w : Canon B s.mem) : NextCanon B (execGqwait x e s) :=
  xferWord_canon _ _ _ (fun _ h => xAligned_canon _ _ (awaitAccept_canon _ h)) w

theorem execLaunch_canon (x : BitVec 6) (e : BitVec 4) (w : Canon B s.mem) : NextCanon B (execLaunch x e s) := by
  refine xferWord_canon _ _ _ (fun s h => xAligned_canon _ _ ?_) w
  have acc := mtxAccess_canon s.cs.unit s.cs.p (readReq (s.cs.sc x) 64) h
  split
  · next h => rw [h] at acc; exact acc
  · next h => rw [h] at acc; exact acc
  · next h =>
    rw [h] at acc
    dsimp only
    split
    · exact acc
    · exact awaitAccept_canon _ acc

theorem execMbsend_canon (x : BitVec 6) (o : BitVec 1) (k : BitVec 3) (z : BitVec 6) (e : BitVec 4) (w : Canon B s.mem) :
    NextCanon B (execMbsend x o k z e s) := by
  refine xferWord_canon _ _ _ (fun _ h => ?_) w
  dsimp only
  split
  · exact mbsendFar_canon _ h
  · split
    · exact Act.canon_trap
    · exact awaitAccept_canon _ h

/-- What runs as another strand keeps what it keeps for the current one. -/
theorem asStrand_canon (team sid : Nat) {f : State → State} (hf : ∀ s, Canon B s.mem → Canon B (f s).mem) (w : Canon B s.mem) :
    Canon B (s.asStrand team sid f).mem := by
  unfold State.asStrand
  split
  · exact hf s w
  · split
    · exact w
    · next u _ =>
      have run := hf { s with cs := u, others := s.others.map (fun x => if x.team == team && x.sid == sid then s.cs else x) } w
      dsimp only
      split <;> exact run

theorem execFollowOnIssue_canon (op : Nat) (w : Canon B s.mem) : NextCanon B (execFollowOnIssue op s) := by
  unfold execFollowOnIssue
  split
  · exact w
  · split
    · exact w
    · split
      · exact w
      · exact asStrand_canon _ _ (fun _ h => followIssue_canon _ _ h) w

/-! Fetch, completions and timers of a strand. -/

theorem execFetchWord_canon (w : Canon B s.mem) : NextCanon B (execFetchWord s) := by
  have read := fetchRead_canon w
  unfold execFetchWord
  split
  · exact w
  · split
    · next h => rw [h] at read; exact splitWord_canon _ read
    · next h => rw [h] at read; exact read
    · next h => rw [h] at read; simpa using read

theorem execAtomicPerformed_canon (seq : Nat) (w : Canon B s.mem) : NextCanon B (execAtomicPerformed seq s) := by
  unfold execAtomicPerformed
  split
  · exact w
  · exact completion_canon _ _ w

theorem execAtomicopCompletion_canon (seq : Nat) (old : BitVec 128) (w : Canon B s.mem) :
    NextCanon B (execAtomicopCompletion seq old s) := by
  unfold execAtomicopCompletion
  split
  · exact w
  · split
    · exact w
    · split
      · exact w
      · split
        · exact w
        · dsimp only
          rw [nextCanon_next, State.onStrand_mem]
          exact acquired_canon _ _ (w.setBytes _ _)

theorem execWaitDeadline_canon (w : Canon B s.mem) : NextCanon B (execWaitDeadline s) := by
  unfold execWaitDeadline
  split
  · split
    · exact issueCtrlHead_canon _ (fun _ h => issue_canon _ (fun _ h => timedWait_canon _ _ _ h) h) w
    · exact issueCtrlHead_canon _ (fun _ h => issue_canon _ (fun _ h => timedWait_canon _ _ _ h) h) w
    · exact w
  · exact w

theorem execYieldPause_canon (w : Canon B s.mem) : NextCanon B (execYieldPause s) := by
  refine issue_canon _ (fun _ h => ?_) w
  (repeat' split) <;> simp [h]

theorem execYieldPauseExpiry_canon (w : Canon B s.mem) : NextCanon B (execYieldPauseExpiry s) := by
  unfold execYieldPauseExpiry
  split
  · split
    · exact issueCtrlHead_canon _ (fun _ h => execYieldPause_canon h) w
    · exact w
  · exact w

/-! Teams, the host and the fabric. -/

theorem execTeamEnd_canon (team : Nat) (w : Canon B s.mem) : NextCanon B (execTeamEnd team s) := by
  unfold execTeamEnd
  split
  · exact w
  · next m _ =>
    split
    · exact w
    · exact launchTeamEnded_canon _ (removeTeam_canon m (endOps_canon _ _ w))

theorem execHostTableSnoop_canon (line : BitVec 64) (data : List (BitVec 8)) (w : Canon B s.mem) :
    NextCanon B (execHostTableSnoop line data s) := by
  unfold execHostTableSnoop
  extract_lets a write used
  have written : ∀ u, Canon B u.mem → Canon B (write u).mem := fun u h => h.setBytes _ _
  rw [nextCanon_next]
  refine canon_ite (written s w) ?_
  rw [answerOnce_mem]
  exact written _ (by simpa using w)

theorem execHostSnoop_canon (line : BitVec 64) (data : List (BitVec 8)) (w : Canon B s.mem) : NextCanon B (execHostSnoop line data s) := by
  unfold execHostSnoop
  dsimp only
  rw [nextCanon_next]
  refine Canon.setBytes ?_ _ _
  split <;> exact w

theorem execBackInvalidateResponse_canon (line : BitVec 64) (data : List (BitVec 8)) (w : Canon B s.mem) :
    NextCanon B (execBackInvalidateResponse line data s) := by
  unfold execBackInvalidateResponse
  dsimp only
  split
  · exact w
  · refine serveHostReqs_canon ?_
    rw [repairGranules_mem]
    exact w.setBytes _ _

theorem execPoolTransferCompletion_canon (obj : BitVec 48) (ok : Bool) (w : Canon B s.mem) :
    NextCanon B (execPoolTransferCompletion obj ok s) :=
  canon_foldl (fun _ _ h => by simpa using h) _ (poolTransfer_canon obj ok w)

theorem execPartitionRegisterWrite_canon (part : BitVec 6) (off : BitVec 17) (val : BitVec 64) (w : Canon B s.mem) :
    NextCanon B (execPartitionRegisterWrite part off val s) := by
  unfold execPartitionRegisterWrite
  refine whenReady_canon (fun w => ?_) w
  refine canon_ite w (canon_ite ?_ ?_)
  · split <;> exact startPcmd_canon _ (fun w => by simp [w]) w
  · (repeat' split) <;> simp [w]

theorem execSetShared_canon (part : BitVec 6) (obj : BitVec 48) (w : Canon B s.mem) : NextCanon B (execSetShared part obj s) :=
  whenReady_canon (fun w => startPcmd_canon _ (fun w => advanceShared_canon _ _ w) w) w

theorem execClearShared_canon (part : BitVec 6) (obj : BitVec 48) (w : Canon B s.mem) : NextCanon B (execClearShared part obj s) :=
  whenReady_canon (fun w => startPcmd_canon _ (fun w => by simpa using w) w) w

theorem execInvalidateHostTranslations_canon (part : BitVec 6) (root : BitVec 48) (w : Canon B s.mem) :
    NextCanon B (execInvalidateHostTranslations part root s) :=
  whenReady_canon (fun w => startPcmd_canon _ (fun w => by simpa using w) w) w

theorem execGuestResetComplete_canon (w : Canon B s.mem) : NextCanon B (execGuestResetComplete s) :=
  whenReady_canon (fun w => canon_ite (by simpa using w) w) w

theorem execClearPartition_canon (part : BitVec 6) (w : Canon B s.mem) : NextCanon B (execClearPartition part s) := by
  unfold execClearPartition
  dsimp only
  rw [nextCanon_next, State.groupResult_mem, clearPartSlots_mem]
  exact canon_foldl (fun _ c h => destroyGroup_canon _ _ h) _ w

theorem execReadinessCacheRefresh_canon (group : BitVec 24) (entries : List (Nat × Nat)) (w : Canon B s.mem) :
    NextCanon B (execReadinessCacheRefresh group entries s) := by
  unfold execReadinessCacheRefresh
  exact whenReady_canon (fun w => by simpa using w) w

theorem execGsendAtHome_canon (p : Packet) (w : Canon B s.mem) : NextCanon B (execGsendAtHome p s) := by
  unfold execGsendAtHome packetOf
  refine whenReady_canon (fun w => ?_) w
  dsimp only
  split <;> simpa using w

theorem execGrefuseAtSwitch_canon (p : Packet) (port : BitVec 8) (w : Canon B s.mem) : NextCanon B (execGrefuseAtSwitch p port s) :=
  packetOf_canon _ _ (fun w => canon_ite (by simpa using w) (by simpa using w)) w

theorem execGconsArrival_canon (p : Packet) (w : Canon B s.mem) : NextCanon B (execGconsArrival p s) :=
  packetOf_canon _ _ (fun w => by split <;> simpa using w) w

/-! The guest. -/

theorem execPreack_canon (q : BitVec 16) (w : Canon B s.mem) : NextCanon B (execPreack q s) := by
  unfold execPreack
  extract_lets n ctxs u v
  split
  · exact w
  · split
    · exact fence_canon _ w
    · have cancelled : Canon B v.mem := canon_foldl (fun _ p h => cancelPacket_canon p h) _ w
      exact canon_ite (by simpa using cancelled) cancelled

theorem execQueuePacketWrite_canon (op : Nat) (w : Canon B s.mem) : NextCanon B (execQueuePacketWrite op s) := by
  unfold execQueuePacketWrite
  split
  · exact w
  · refine nextCanon_ite w (nextCanon_ite (by simpa using w) (nextCanon_ite w ?_))
    dsimp only
    rw [nextCanon_next, State.opDone_mem]
    exact canon_ite (w.setBytes _ _) (by simpa using w.setBytes _ _)

end Sys2Proof.Machine
end

section
/-! Memory stays canonical: the other instructions and events, and the machine as a whole. -/

namespace Sys2Proof.Machine

variable {B : Nat} {s t : State}

/-! Contexts, pages and translations. -/

theorem execTlbinvPart_canon (a : BitVec 6) (w : Canon B s.mem) : NextCanon B (execTlbinvPart a s) := by
  unfold execTlbinvPart
  refine invalidateWord_canon _ (fun _ h => ?_) _ w
  simp -implicitDefEqProofs [h]

/-! Teams and launches. -/

theorem execParkTimerExpiry_canon (ctx : BitVec 16) (w : Canon B s.mem) : NextCanon B (execParkTimerExpiry ctx s) := by
  unfold execParkTimerExpiry
  dsimp only
  (repeat' split) <;> simp -implicitDefEqProofs [w]

theorem execFaultWake_canon (team key : Nat) (w : Canon B s.mem) : NextCanon B (execFaultWake team key s) := by
  unfold execFaultWake
  dsimp only
  (repeat' split) <;> simp -implicitDefEqProofs [w]

theorem execQuantumExpiry_canon (team : Nat) (w : Canon B s.mem) : NextCanon B (execQuantumExpiry team s) := by
  unfold execQuantumExpiry
  (repeat' split) <;> simp -implicitDefEqProofs [w]

theorem execTeamTakeOff_canon (team : Nat) (w : Canon B s.mem) : NextCanon B (execTeamTakeOff team s) := by
  unfold execTeamTakeOff
  (repeat' split) <;> simp -implicitDefEqProofs [w]

theorem execTeamPlace_canon (die : BitVec 2) (w : Canon B s.mem) : NextCanon B (execTeamPlace die s) := by
  unfold execTeamPlace
  (repeat' split) <;> simp -implicitDefEqProofs [w]

theorem execLaunchRecordAccept_canon (record : BitVec 512) (host : Bool) (part : BitVec 6) (w : Canon B s.mem) :
    NextCanon B (execLaunchRecordAccept record host part s) := by
  unfold execLaunchRecordAccept
  dsimp only
  (repeat' split) <;> simp -implicitDefEqProofs [w]

/-! Joins and the hang timer. -/

theorem execJoinRelease_canon (w : Canon B s.mem) : NextCanon B (execJoinRelease s) := by
  unfold execJoinRelease
  dsimp only
  (repeat' split) <;> simp -implicitDefEqProofs [w]

theorem execHangTimeout_canon (w : Canon B s.mem) : NextCanon B (execHangTimeout s) := by
  unfold execHangTimeout
  (repeat' split) <;> simp -implicitDefEqProofs [w]

/-! Retries of a record entry. -/

theorem execHoldQueueNackRetry_canon (seq : Nat) (w : Canon B s.mem) : NextCanon B (execHoldQueueNackRetry seq s) := by
  unfold execHoldQueueNackRetry
  (repeat' split) <;> simp -implicitDefEqProofs [w]

/-! The sequencers of the matrix arrays. -/

theorem execArrayWindowSwitch_canon (arr : BitVec 8) (w : Canon B s.mem) : NextCanon B (execArrayWindowSwitch arr s) := by
  unfold execArrayWindowSwitch
  dsimp only
  (repeat' split) <;> simp -implicitDefEqProofs [w]

theorem execRelocationTake_canon (arr : BitVec 8) (w : Canon B s.mem) : NextCanon B (execRelocationTake arr s) := by
  unfold execRelocationTake
  (repeat' split) <;> simp -implicitDefEqProofs [w]

/-! The acceptance of XFER words. -/

theorem execXferAccept_canon (w : Canon B s.mem) : NextCanon B (execXferAccept s) := by
  unfold execXferAccept
  dsimp only
  (repeat' split) <;> simp -implicitDefEqProofs [w]

/-! Rows and channels. -/

theorem execRowPrecharge_canon (row : Nat) (parityOk : Bool) (w : Canon B s.mem) : NextCanon B (execRowPrecharge row parityOk s) := by
  unfold execRowPrecharge
  dsimp only
  (repeat' split) <;> simp -implicitDefEqProofs [w]

theorem execChannelRateChange_canon (ch : BitVec 8) (rate : BitVec 2) (w : Canon B s.mem) :
    NextCanon B (execChannelRateChange ch rate s) := by
  unfold execChannelRateChange
  (repeat' split) <;> simp -implicitDefEqProofs [w]

theorem execRateChangeComplete_canon (ch : BitVec 8) (w : Canon B s.mem) : NextCanon B (execRateChangeComplete ch s) := by
  unfold execRateChangeComplete
  (repeat' split) <;> simp -implicitDefEqProofs [w]

/-! The host and its registers. -/

theorem execPriResponse_canon (key : Nat) (code : BitVec 2) (w : Canon B s.mem) : NextCanon B (execPriResponse key code s) := by
  unfold execPriResponse
  (repeat' split) <;> simp -implicitDefEqProofs [w]

theorem execAtsInvalidation_canon (page : AtsPage) (w : Canon B s.mem) : NextCanon B (execAtsInvalidation page s) := by
  unfold execAtsInvalidation
  (repeat' split) <;> simp -implicitDefEqProofs [w]

theorem execHostCxlMemAccess_canon (write : Bool) (addr : BitVec 64) (size : Nat) (data : List (BitVec 8)) (w : Canon B s.mem) :
    NextCanon B (execHostCxlMemAccess write addr size data s) := by
  unfold execHostCxlMemAccess
  dsimp only
  (repeat' split) <;> simp -implicitDefEqProofs [w]

theorem execRegisterWrite_canon (off : BitVec 32) (val : BitVec 64) (w : Canon B s.mem) : NextCanon B (execRegisterWrite off val s) := by
  unfold execRegisterWrite
  dsimp only
  (repeat' split) <;> simp -implicitDefEqProofs [w]

theorem execPoolRegisterWrite_canon (off : BitVec 32) (val : BitVec 64) (w : Canon B s.mem) :
    NextCanon B (execPoolRegisterWrite off val s) := by
  unfold execPoolRegisterWrite
  dsimp only
  (repeat' split) <;> simp -implicitDefEqProofs [w]

theorem execHostMailboxWrite_canon (handle : BitVec 32) (mb : BitVec 3) (val : BitVec 64) (w : Canon B s.mem) :
    NextCanon B (execHostMailboxWrite handle mb val s) := by
  unfold execHostMailboxWrite
  (repeat' split) <;> simp -implicitDefEqProofs [w]

/-! Packets between devices. -/

theorem execGroupCreate_canon (part : BitVec 6) (plim : BitVec 16) (index : BitVec 14) (w : Canon B s.mem) :
    NextCanon B (execGroupCreate part plim index s) := by
  unfold execGroupCreate
  (repeat' split) <;> simp -implicitDefEqProofs [w]

theorem execGroupDestroy_canon (index : BitVec 14) (w : Canon B s.mem) : NextCanon B (execGroupDestroy index s) := by
  unfold execGroupDestroy
  (repeat' split) <;> simp -implicitDefEqProofs [w]

theorem execFabpartWrite_canon (part : BitVec 6) (val : BitVec 64) (w : Canon B s.mem) : NextCanon B (execFabpartWrite part val s) := by
  unfold execFabpartWrite
  (repeat' split) <;> simp -implicitDefEqProofs [w]

theorem execFabidWrite_canon (val : BitVec 64) (w : Canon B s.mem) : NextCanon B (execFabidWrite val s) := by
  unfold execFabidWrite
  (repeat' split) <;> simp -implicitDefEqProofs [w]

theorem execCtxopArrival_canon (op : BitVec 3) (handle : BitVec 32) (val : BitVec 64) (w : Canon B s.mem) :
    NextCanon B (execCtxopArrival op handle val s) := by
  unfold execCtxopArrival
  dsimp only
  (repeat' split) <;> simp -implicitDefEqProofs [w]

theorem execFabricNackResend_canon (xid : Nat) (w : Canon B s.mem) : NextCanon B (execFabricNackResend xid s) := by
  unfold execFabricNackResend
  (repeat' split) <;> simp -implicitDefEqProofs [w]

theorem execDeadlockRecoveryTimer_canon (xid : Nat) (w : Canon B s.mem) : NextCanon B (execDeadlockRecoveryTimer xid s) := by
  unfold execDeadlockRecoveryTimer
  dsimp only
  (repeat' split) <;> simp -implicitDefEqProofs [w]

theorem execParkingNackRetry_canon (xid : Nat) (w : Canon B s.mem) : NextCanon B (execParkingNackRetry xid s) := by
  unfold execParkingNackRetry
  (repeat' split) <;> simp -implicitDefEqProofs [w]

/-! Power. -/

theorem execPowerLimit_canon (level : BitVec 4) (w : Canon B s.mem) : NextCanon B (execPowerLimit level s) := by
  unfold execPowerLimit
  (repeat' split) <;> simp -implicitDefEqProofs [w]

/-! The link to the guest. -/

theorem execGctlWrite_canon (val : BitVec 64) (w : Canon B s.mem) : NextCanon B (execGctlWrite val s) := by
  unfold execGctlWrite
  dsimp only
  (repeat' split) <;> simp -implicitDefEqProofs [w]

theorem execGqRegisterWrite_canon (q : BitVec 8) (reg : BitVec 5) (val : BitVec 64) (w : Canon B s.mem) :
    NextCanon B (execGqRegisterWrite q reg val s) := by
  unfold execGqRegisterWrite
  dsimp only
  (repeat' split) <;> simp -implicitDefEqProofs [w]

theorem execMrec_canon (record : List (BitVec 8)) (w : Canon B s.mem) : NextCanon B (execMrec record s) := by
  unfold execMrec
  (repeat' split) <;> simp -implicitDefEqProofs [w]

theorem execMrecTimeout_canon (w : Canon B s.mem) : NextCanon B (execMrecTimeout s) := by
  unfold execMrecTimeout
  (repeat' split) <;> simp -implicitDefEqProofs [w]

theorem execQconsume_canon (q : BitVec 16) (head : BitVec 32) (w : Canon B s.mem) : NextCanon B (execQconsume q head s) := by
  unfold execQconsume
  dsimp only
  (repeat' split) <;> simp -implicitDefEqProofs [w]

theorem execXlreq_canon (tag : BitVec 16) (q : BitVec 16) (seq : BitVec 32) (va : BitVec 64) (kind : BitVec 8) (w : Canon B s.mem) :
    NextCanon B (execXlreq tag q seq va kind s) := by
  unfold execXlreq
  (repeat' split) <;> simp -implicitDefEqProofs [w]

theorem execGinvack_canon (grant : BitVec 16) (w : Canon B s.mem) : NextCanon B (execGinvack grant s) := by
  unfold execGinvack
  (repeat' split) <;> simp -implicitDefEqProofs [w]

theorem execGinvDeadline_canon (grant : BitVec 16) (w : Canon B s.mem) : NextCanon B (execGinvDeadline grant s) := by
  unfold execGinvDeadline
  (repeat' split) <;> simp -implicitDefEqProofs [w]

theorem execFault_canon (tag : BitVec 16) (w : Canon B s.mem) : NextCanon B (execFault tag s) := by
  unfold execFault
  dsimp only
  (repeat' split) <;> simp -implicitDefEqProofs [w]

theorem execFaultReportDeadline_canon (tag : BitVec 16) (w : Canon B s.mem) : NextCanon B (execFaultReportDeadline tag s) := by
  unfold execFaultReportDeadline
  (repeat' split) <;> simp -implicitDefEqProofs [w]

theorem execPreemptDeadline_canon (q : BitVec 16) (w : Canon B s.mem) : NextCanon B (execPreemptDeadline q s) := by
  unfold execPreemptDeadline
  (repeat' split) <;> simp -implicitDefEqProofs [w]

theorem execGuestMemoryRequest_canon (g : GuestReq) (w : Canon B s.mem) : NextCanon B (execGuestMemoryRequest g s) := by
  unfold execGuestMemoryRequest
  (repeat' split) <;> simp -implicitDefEqProofs [w]

/-- Every instruction and every event keeps memory canonical below a bound. -/
theorem exec_canon (i : Instr) (w : Canon B s.mem) : NextCanon B (exec i s) := by
  unfold exec
  cases i
  case nop | mbwr | halt | pref => exact issue_canon _ (fun _ h => h) w
  case add | sub | mul | mulhS | mulhN | and | or | xor | andn | shl | shrN | shrS | rot | minS | minN | maxS | maxN | clz | ctz |
      popc | sel | cmp | addi | andi | ori | xori | shli | shriN | shriS | li | bfxS | bfxN | bfi | fshl | fshr | timeCyc =>
    exact scalarWord_canon _ _ _ w
  case divS | divN | remS | remN => exact divWord_canon _ _ _ _ _ _ _ w
  case fadd | fsub | fmul | ffma | fdiv | fsqrt | fmin | fmax | fcmp | fcvt => exact floatWord_canon _ _ _ w
  case beq | bne | bltS | bltN | bgeS | bgeN => exact branchWord_canon _ _ _ w
  case jmp | jal | jr | evSig | time | hingeQ | dset => exact issue_onCs_canon _ _ w
  case loop | loopi => exact loopWord_canon _ _ _ w
  case lbrk | yield | hingeUnpin | fence | fenceView =>
    refine issue_canon _ (fun _ h => ?_) w
    dsimp only
    (repeat' split) <;> simp -implicitDefEqProofs [h]
  case barSync => exact execBarSync_canon _ _ w
  case barArr | barDrop => exact issue_canon _ (fun _ h => arriveAct_canon _ _ _ h) w
  case barWait => exact issue_canon _ (fun _ h => waitAct_canon _ h) w
  case barWaitt | evWaitt => exact issue_canon _ (fun _ h => timedWait_canon _ _ _ h) w
  case evWait | csrr | mbrd | fenceCls =>
    refine issue_canon _ (fun _ h => ?_) w
    (repeat' split) <;> simp -implicitDefEqProofs [h]
  case csrw => exact execCsrw_canon _ _ w
  case yieldPause => exact execYieldPause_canon w
  case trap => exact issue_canon _ (fun _ _ => Act.canon_trap) w
  case cswitch => exact execCswitch_canon _ _ w
  case park => exact execPark_canon _ _ _ _ _ _ _ _ w
  case parkEnd => exact issue_canon _ (fun _ h => by simpa using h) w
  case wakehint | ctxqSt =>
    refine contextWord_canon _ _ (fun _ _ h => ?_) w
    simp -implicitDefEqProofs [h]
  case ctxqWake | ctxqTiers | ctxfree | ctxsetPrio | ctxsetBind | kill =>
    refine contextWord_canon _ _ (fun _ _ h => ?_) w
    dsimp only
    (repeat' split) <;> simp -implicitDefEqProofs [h]
  case ctxnew => exact execCtxnew_canon _ _ w
  case rtt | rttNext => exact returnWord_canon _ _ w
  case hingePin => exact execHingePin_canon _ _ _ w
  case hingeMove => exact execHingeMove_canon _ _ _ w
  case tlbinvPart => exact execTlbinvPart_canon _ w
  case tlbinvS2 | tlbinvFab | tlbinvAll | tlbinvHost =>
    refine invalidateWord_canon _ (fun _ h => ?_) _ w
    simp -implicitDefEqProofs [h]
  case hangRd => exact execHangRd_canon _ _ _ w
  case ldBS | ldBN | ldHS | ldHN | ldWS | ldWN | ldD => exact scalarLoad_canon _ _ _ _ _ _ _ w
  case stB | stH | stW | stD => exact scalarStore_canon _ _ _ _ _ _ w
  case ldV | ldVs => exact vectorLoad_canon _ _ _ _ _ w
  case stV | stVs => exact vectorStore_canon _ _ _ _ _ w
  case ldM | dld => exact blockLoad_canon _ _ _ _ _ _ _ w
  case stM | dst => exact blockStore_canon _ _ _ _ _ _ _ w
  case sfetch => exact execSfetch_canon _ _ _ _ w
  case gathB | gathH | gathW => exact gather_canon _ _ _ _ _ _ w
  case scatB | scatH | scatW => exact scatter_canon _ _ _ _ _ _ w
  case gathb => exact execGathb_canon _ _ _ _ _ w
  case rwaitf | rwaite | rpub | rrel | wmapOff | wadv => exact issue_canon _ (fun _ h => ringAct_canon _ _ _ _ h) w
  case rclaimP | rclaimC => exact claimWord_canon _ _ _ _ _ w
  case wmap => exact execWmap_canon _ _ _ _ w
  case amoW | amoD | amoF | casW | casD | casQ | famo | fcas => exact issue_canon _ (fun _ h => atomicAct_canon _ _ _ _ h) w
  case fld => exact execFld_canon _ _ _ _ w
  case fst => exact execFst_canon _ _ _ _ w
  case vadd | vsub | vmul | vmulh | vmad | vabs | vneg | vmin | vmax | vand | vor | vxor | vnot | vshl | vshr | vbfx | vbfi | vfshl
      | vfshr | vpopc | vclz | vaddi | vshli | vshri | vfadd | vfsub | vfmul | vfma | vfmin | vfmax | vfabs | vfneg | vcmpEq | vcmpNe |
      vcmpLt | vcmpGe | vfcmpEq | vfcmpLt | vfcmpLe | vfcmpUn | mand | mor | mxor | mnot | mpopc | mfirst | msetLt | msetGe | msetQ |
      vsel | vmov | vbcast | vext | vins | vperm | vshuf | vrot | vredAdd | vredMax | vredMin | vfredAdd | vfredMax | vfredMin |
      vscanAdd | vcvt | vquant | vdequant | vsmxUpd | vsmxFin | vrbias | vidx | vlut => exact vecWord_canon _ _ _ w
  case mmt => exact issue_canon _ (fun _ h => mmtAct_canon _ _ _ _ _ _ _ _ h) w
  case mmtWb => exact issue_canon _ (fun _ h => mmtWbAct_canon _ _ _ _ _ _ _ h) w
  case scommit | sdrop | accz => exact tileWord_canon _ _ _ _ w
  case accld => exact issue_canon _ (fun _ h => accldAct_canon _ _ _ _ h) w
  case accst => exact execAccst_canon _ _ _ _ _ w
  case accmv => exact execAccmv_canon _ _ _ _ _ w
  case wbload => exact issue_canon _ (fun _ h => wbloadAct_canon _ _ _ h) w
  case attb => exact issue_canon _ (fun _ h => attbAct_canon _ _ _ _ _ _ h) w
  case sfuExp2 | sfuLog2 | sfuRcp | sfuRsqrt | sfuSqrt | sfuSin | sfuCos | tint | tload | topkInit | topkFeed | topkEmit | topkQ =>
    exact sfuWord_canon _ _ _ _ _ w
  case copy => exact execCopy_canon _ _ _ _ w
  case copyMmt => exact execCopyMmt_canon _ _ _ _ w
  case collOpen | collRed | collBar | collClose => exact collWord_canon _ _ _ w
  case gready | gunready => exact bufferWord_canon _ _ _ _ w
  case gsend => exact execGsend_canon _ _ _ _ w
  case grecv => exact execGrecv_canon _ _ w
  case gqpush => exact execGqpush_canon _ _ _ w
  case gqwait => exact execGqwait_canon _ _ w
  case launch => exact execLaunch_canon _ _ w
  case mbsend => exact execMbsend_canon _ _ _ _ _ w
  case join => exact joinUnit_canon _ w
  case extImm | extOrd | extTok | extStall | extMask | extInd | refreshWindow | dommapWrite | attest | readlog | mcmdRefused |
      hostPortDown | ualinkPortDown => exact w
  case fetchWord => exact execFetchWord_canon w
  case joinRelease => exact execJoinRelease_canon w
  case trapEntry => exact w.of_mem_eq (State.enterTrap_mem ..)
  case hangTimeout => exact execHangTimeout_canon w
  case loadDataReturn | storePerformed => exact completion_canon _ _ w
  case atomicPerformed => exact execAtomicPerformed_canon _ w
  case atomicopCompletion => exact execAtomicopCompletion_canon _ _ w
  case holdQueueNackRetry => exact execHoldQueueNackRetry_canon _ w
  case camStep => exact execCamStep_canon w
  case arrayWindowSwitch => exact execArrayWindowSwitch_canon _ w
  case relocationTake => exact execRelocationTake_canon _ w
  case xferAccept => exact execXferAccept_canon w
  case copyEngineStep => exact opStep_canon _ w
  case followOnIssue => exact execFollowOnIssue_canon _ w
  case windowFill => exact windowFill_canon _ w
  case waitDeadline => exact execWaitDeadline_canon w
  case yieldPauseExpiry => exact execYieldPauseExpiry_canon w
  case teamEnd => exact execTeamEnd_canon _ w
  case wakeRequest => exact wakeMoves_canon _ (by simpa using w)
  case parkTimerExpiry => exact execParkTimerExpiry_canon _ w
  case faultWake => exact execFaultWake_canon _ _ w
  case quantumExpiry => exact execQuantumExpiry_canon _ w
  case teamTakeOff => exact execTeamTakeOff_canon _ w
  case teamPlace => exact execTeamPlace_canon _ w
  case launchRecordAccept => exact execLaunchRecordAccept_canon _ _ _ w
  case demotionThreshold => exact demoteContext_canon _ w
  case recallStart => exact recallContext_canon _ w
  case busyCountZero => exact busyCountZero_canon _ w
  case pageCopyComplete => exact pageCopyComplete_canon _ w
  case directoryRebind => exact w.of_mem_eq (directoryRebind_mem ..)
  case dirinvArrival => exact dirinvArrival_canon _ _ _ w
  case backgroundLinePull => exact backgroundPull_canon _ w
  case rowPrecharge => exact execRowPrecharge_canon _ _ w
  case channelRateChange => exact execChannelRateChange_canon _ _ w
  case rateChangeComplete => exact execRateChangeComplete_canon _ w
  case priResponse => exact execPriResponse_canon _ _ w
  case hostTableSnoop => exact execHostTableSnoop_canon _ _ w
  case walkerLineEviction => exact w.of_mem_eq (State.dropWalk_mem ..)
  case atsInvalidation => exact execAtsInvalidation_canon _ w
  case hostSnoop => exact execHostSnoop_canon _ _ w
  case backInvalidateResponse => exact execBackInvalidateResponse_canon _ _ w
  case hostCxlMemAccess => exact execHostCxlMemAccess_canon _ _ _ _ w
  case poolTransferCompletion => exact execPoolTransferCompletion_canon _ _ w
  case registerWrite => exact execRegisterWrite_canon _ _ w
  case partitionRegisterWrite => exact execPartitionRegisterWrite_canon _ _ _ w
  case lqbaseWrite => exact whenReady_canon (fun w => w.of_mem_eq (writeLqbase_mem ..)) w
  case doorbell => exact whenReady_canon (fun w => w.of_mem_eq (writeTail_mem ..)) w
  case setShared => exact execSetShared_canon _ _ w
  case clearShared => exact execClearShared_canon _ _ w
  case invalidateHostTranslations => exact execInvalidateHostTranslations_canon _ _ w
  case poolRegisterWrite => exact execPoolRegisterWrite_canon _ _ w
  case groupCreate => exact execGroupCreate_canon _ _ _ w
  case groupDestroy => exact execGroupDestroy_canon _ w
  case clearPartition => exact execClearPartition_canon _ w
  case fabpartWrite => exact execFabpartWrite_canon _ _ w
  case fabidWrite => exact execFabidWrite_canon _ w
  case reset | criticalTemperature => exact managementReset_canon w
  case gctlWrite => exact execGctlWrite_canon _ w
  case gqRegisterWrite => exact execGqRegisterWrite_canon _ _ _ w
  case gqctlStopWrite => exact w.of_mem_eq (writeStop_mem ..)
  case fabricRequestArrival => exact packetOf_canon _ _ (fun w => drainStream_canon _ _ (serveRequest_canon _ w)) w
  case respArrival | mboxArrival | gadvAtHome | gregArrival | gsendAtDevice | grefuseAtSender | targetedRefusalAtHome |
      gacceptArrival | gwdrawArrival =>
    refine packetOf_canon _ _ (fun w => ?_) w
    dsimp only
    (repeat' split) <;> simp -implicitDefEqProofs [w]
  case ctxopArrival => exact execCtxopArrival_canon _ _ _ w
  case fabricNackResend => exact execFabricNackResend_canon _ w
  case deadlockRecoveryTimer => exact execDeadlockRecoveryTimer_canon _ w
  case gadvAtSwitch | gsendAtSwitch | cctlOpenArrival | credArrival | cresArrival | cctlCloseArrival =>
    exact packetOf_canon _ _ (fun w => by simpa using w) w
  case gsendAtHome => exact execGsendAtHome_canon _ w
  case grefuseAtSwitch => exact execGrefuseAtSwitch_canon _ _ w
  case gconsArrival => exact execGconsArrival_canon _ w
  case parkingNackRetry => exact execParkingNackRetry_canon _ w
  case readinessCacheRefresh => exact execReadinessCacheRefresh_canon _ _ w
  case slotTimeout => exact w.of_mem_eq (slotTimeout_mem ..)
  case collLostContact => exact w.of_mem_eq (collLost_mem ..)
  case powerOnReset => exact bringUp_canon _ _ _ w
  case powerLimit => exact execPowerLimit_canon _ w
  case guestLinksTrained => exact whenReady_canon (fun w => w.of_mem_eq (startMeasure_mem ..)) w
  case mrec => exact execMrec_canon _ w
  case mrecTimeout => exact execMrecTimeout_canon w
  case queuePacketWrite => exact execQueuePacketWrite_canon _ w
  case qconsume => exact execQconsume_canon _ _ w
  case preack => exact execPreack_canon _ w
  case xlreq => exact execXlreq_canon _ _ _ _ _ w
  case ginvack => exact execGinvack_canon _ w
  case ginvDeadline => exact execGinvDeadline_canon _ w
  case fault => exact execFault_canon _ w
  case faultReportDeadline => exact execFaultReportDeadline_canon _ w
  case preemptDeadline => exact execPreemptDeadline_canon _ w
  case guestMemoryRequest => exact execGuestMemoryRequest_canon _ w
  case guestLinkLoss | guestMessageUnlistedType => exact breach_canon _ w
  case guestResetComplete => exact execGuestResetComplete_canon w
  case hostMailboxWrite => exact execHostMailboxWrite_canon _ _ _ w

end Sys2Proof.Machine
end

section
/-! Memory stays canonical: issue, the events of a turn, and the step (R36 to R46, R336 to R342), with the obligation O59. -/

namespace Sys2Proof.Machine

variable {B : Nat} {s t : State}

/-! Issue and fetch (R36 to R46). -/

theorem runUnit_canon (u : EUnit) (w : Canon B s.mem) : NextCanon B (runUnit u s) := by
  unfold runUnit
  dsimp only
  split
  · simpa using w
  · split
    · exact exec_canon _ w
    · exact badWord_canon _ w

theorem issueUnit_canon (e : Eng) (u : EUnit) (w : Canon B s.mem) : NextCanon B (issueUnit s e u).1 := by
  have run : NextCanon B (runUnit u (s.serves e)) := runUnit_canon u (by simpa using w)
  unfold issueUnit
  dsimp only
  split
  · next h => rw [h] at run; split <;> exact run
  · exact run

theorem issueHeads_canon (l : List (Eng × EUnit)) (w : Canon B s.mem) : NextCanon B (issueHeads l s).1 := by
  induction l generalizing s with
  | nil => exact w
  | cons x l ih =>
    obtain ⟨e, u⟩ := x
    have issued := issueUnit_canon e u w
    unfold issueHeads
    split
    · split
      · next h => rw [h] at issued; exact ih issued
      · exact issued
    · exact ih w

theorem takeWord_canon (x : Word) (w : Canon B s.mem) : NextCanon B (takeWord s x).1 := by
  have queued := splitWord_canon x w
  unfold takeWord
  split
  · dsimp only
    split
    · exact exec_canon _ w
    · simpa using w
  · dsimp only
    split
    · split
      · exact issueUnit_canon _ _ queued
      · exact queued
    · exact queued

theorem fetchStep_canon (w : Canon B s.mem) : NextCanon B (fetchStep s).1 := by
  have read := fetchRead_canon w
  unfold fetchStep
  split
  · exact w
  · split
    · next h => rw [h] at read; exact takeWord_canon _ read
    · next h => rw [h] at read; exact read
    · next h => rw [h] at read; simpa using read

theorem strandStep_canon (w : Canon B s.mem) : NextCanon B (strandStep s) := by
  have heads := issueHeads_canon s.cs.headUnits w
  unfold strandStep
  split
  · exact w
  · split
    · next h =>
      rw [h] at heads
      have fetched := fetchStep_canon heads
      split
      · next h => rw [h] at fetched; exact fetched
      · next h => rw [h] at fetched; exact fetched
    · next h => rw [h] at heads; exact heads

/-! The events of a turn. -/

theorem arrival_canon {r : Result} (h : arrival s = some r) (w : Canon B s.mem) : NextCanon B r := by
  unfold arrival at h
  split at h <;> cases h
  · split
    · exact w
    · exact exec_canon _ w
  · exact exec_canon _ w

/-- An offer keeps memory canonical below `B`. -/
def OfferCanon (B : Nat) (f : Offer) : Prop := ∀ s : State, Canon B s.mem → NextCanon B (f s)

@[simp] theorem offerCanon_exec (i : Instr) : OfferCanon B (exec i) := fun _ w => exec_canon i w

theorem offerCanon_next {f : State → State} (hf : ∀ s, Canon B s.mem → Canon B (f s).mem) : OfferCanon B (fun s => .next (f s)) := hf

theorem strandOffers_canon : ∀ f ∈ strandOffers s, OfferCanon B f := by
  have failed : ∀ (u : EUnit) (i : Instr), OfferCanon B (fun s => exec i (s.onCs (fun t => { t with unit := u }))) :=
    fun _ i _ w => exec_canon i w
  unfold strandOffers
  extract_lets u
  split
  · simp
  · simp only [List.forall_mem_append]
    refine ⟨⟨⟨⟨⟨?failed, ?_⟩, ?_⟩, ?_⟩, ?_⟩, ?_⟩
    case failed =>
      split
      · exact List.forall_mem_singleton.mpr (failed _ _)
      · simp
    all_goals (repeat' split) <;> simp

theorem entryOffers_canon (u : Strand) : ∀ f ∈ entryOffers s u, OfferCanon B f := by
  unfold entryOffers
  simp only [List.mem_flatten, List.mem_map, forall_exists_index, and_imp]
  rintro f _ e - rfl hf
  revert f
  (repeat' split) <;> simp

@[simp] theorem opPark_mem (o : XOp) (s : State) : (opPark o s).mem = s.mem := by
  unfold opPark; (repeat' split) <;> simp

theorem opOffers_canon (o : XOp) : ∀ f ∈ opOffers o, OfferCanon B f := by
  have parks : OfferCanon B (fun s => .next (opPark o s)) := offerCanon_next (fun _ w => by simpa using w)
  have raises : OfferCanon B (fun s => .next (raiseEnded s o.team o.sid)) := offerCanon_next (fun _ w => by simpa using w)
  unfold opOffers
  split
  · simp
  · simp only [List.forall_mem_append]
    refine ⟨?_, by simp [parks, raises]⟩
    (repeat' split) <;> simp

theorem tookTurn_canon (o : XOp) {f : Offer} (hf : OfferCanon B f) : OfferCanon B (tookTurn o f) := fun s w => by
  have out := hf s w
  unfold tookTurn
  split
  · next h =>
    rw [h] at out
    rw [nextCanon_next]
    exact canon_ite w (canon_ite out out)
  · exact out

theorem agentOffers_canon (send : Bool) : ∀ f ∈ agentOffers s send, OfferCanon B f := by
  unfold agentOffers
  simp only [List.mem_flatten, List.mem_map]
  rintro _ ⟨_, ⟨o, -, rfl⟩, hf⟩
  obtain ⟨f, mem, rfl⟩ := List.mem_map.mp hf
  exact tookTurn_canon o (opOffers_canon o f mem)

theorem unitOffers_canon (u : GUnit) : ∀ f ∈ unitOffers s u, OfferCanon B f := by
  unfold unitOffers
  split
  · next p _ =>
    have delivers : OfferCanon B (fun s => .next (deliver s u p)) := offerCanon_next (fun _ w => deliver_canon _ _ w)
    split <;> simp [delivers]
  · simp

theorem nackOffers_canon (x : Pending) : ∀ f ∈ nackOffers x, OfferCanon B f := by
  unfold nackOffers; (repeat' split) <;> simp

theorem pageOffers_canon (p : Pde) : ∀ f ∈ pageOffers p, OfferCanon B f := by
  unfold pageOffers; (repeat' split) <;> simp

theorem ctxOffers_canon (i : Nat) : ∀ f ∈ ctxOffers s i, OfferCanon B f := by
  unfold ctxOffers
  simp only [List.forall_mem_append]
  refine ⟨?_, ?_⟩ <;> (repeat' split) <;> simp

theorem teamOffers_canon (m : Team) : ∀ f ∈ teamOffers s m, OfferCanon B f := by
  unfold teamOffers
  simp only [List.forall_mem_append]
  refine ⟨?_, ?_⟩ <;> split <;> simp

theorem partOffers_canon (part : Nat) : ∀ f ∈ partOffers s part, OfferCanon B f := by
  have advances : OfferCanon B (fun s => .next (advancePcmd s (BitVec.ofNat 6 part))) := offerCanon_next (fun _ w => advancePcmd_canon _ w)
  unfold partOffers
  simp only [List.forall_mem_append]
  refine ⟨?_, ?_⟩ <;> split <;> simp [advances]

/-- The offers of a list's members. -/
theorem forall_mem_flatten_map {α : Type} {l : List α} {g : α → List Offer} (h : ∀ x, ∀ f ∈ g x, OfferCanon B f) :
    ∀ f ∈ (l.map g).flatten, OfferCanon B f := by
  intro f hf
  obtain ⟨_, hl, hf⟩ := List.mem_flatten.mp hf
  obtain ⟨x, -, rfl⟩ := List.mem_map.mp hl
  exact h x f hf

theorem forall_mem_map {α : Type} {l : List α} {g : α → Offer} (h : ∀ x, OfferCanon B (g x)) : ∀ f ∈ l.map g, OfferCanon B f :=
  List.forall_mem_map.mpr (fun x _ => h x)

theorem offers_canon : ∀ f ∈ offers s, OfferCanon B f := by
  unfold offers
  simp only [List.forall_mem_append]
  refine ⟨⟨⟨⟨⟨⟨⟨⟨⟨⟨⟨⟨⟨⟨⟨⟨⟨⟨⟨⟨?strand, ?first⟩, ?second⟩, ?entries⟩, ?windows⟩, ?units⟩, ?nacks⟩, ?pages⟩, ?ctxs⟩, ?teams⟩, ?quanta⟩,
    ?kernels⟩, ?completions⟩, ?parts⟩, ?snoops⟩, ?slots⟩, ?fabric⟩, ?guest⟩, ?answers⟩, ?places⟩, ?rates⟩
  case strand => exact strandOffers_canon
  case first | second => exact agentOffers_canon _
  case entries => exact forall_mem_flatten_map entryOffers_canon
  case units => exact forall_mem_flatten_map unitOffers_canon
  case nacks => exact forall_mem_flatten_map nackOffers_canon
  case pages => exact forall_mem_flatten_map pageOffers_canon
  case ctxs => exact forall_mem_flatten_map (fun c => ctxOffers_canon c.1)
  case teams => exact forall_mem_flatten_map teamOffers_canon
  case parts => exact forall_mem_flatten_map partOffers_canon
  case windows | quanta | slots | fabric | places | rates => exact forall_mem_map (fun _ => offerCanon_exec _)
  case kernels => exact forall_mem_map (fun _ => offerCanon_next (fun _ w => launchKernel_canon _ w))
  case completions => exact forall_mem_map (fun _ => offerCanon_next (fun _ w => completeLaunch_canon _ w))
  case snoops => exact forall_mem_map (fun _ => offerCanon_next (fun _ w => by simpa using w))
  case guest => exact forall_mem_map (fun _ => offerCanon_next (fun _ w => serveGuest_canon _ _ w))
  case answers =>
    have retries : OfferCanon B (fun s => .next (retryXlreq s)) := offerCanon_next (fun _ w => retryXlreq_canon w)
    split <;> simp [retries]

theorem firstChange_canon {l : List Offer} (hl : ∀ f ∈ l, OfferCanon B f) {r : Result} (h : firstChange s l = some r) (w : Canon B s.mem) :
    NextCanon B r := by
  induction l with
  | nil => cases h
  | cons f l ih =>
    obtain ⟨hf, hl⟩ := List.forall_mem_cons.mp hl
    have out := hf s w
    unfold firstChange at h
    split at h
    · next hf' =>
      rw [hf'] at out
      split at h
      · exact ih hl h
      · cases h; exact out
    · cases h; exact out

theorem nextEvent_canon {r : Result} (h : nextEvent s = some r) (w : Canon B s.mem) : NextCanon B r := by
  unfold nextEvent at h
  split at h
  · cases h; exact arrival_canon ‹_› w
  · exact firstChange_canon offers_canon h w

/-! The step. -/

@[simp] theorem clearIdle_mem (s : State) : (clearIdle s).mem = s.mem := foldl_mem (fun _ _ => by split <;> simp) _ s

@[simp] theorem advanceClocks_mem (s : State) : (advanceClocks s).mem = s.mem := by simp [advanceClocks]

theorem pickStep_canon (turn : Nat) (w : Canon B s.mem) : NextCanon B (pickStep s turn) := by
  unfold pickStep
  split
  · simpa using w
  · split
    · exact strandStep_canon w
    · split
      · exact nextEvent_canon ‹_› w
      · exact strandStep_canon w

theorem step_canon (w : Canon B s.mem) : NextCanon B (step s) := by
  have picked : NextCanon B (pickStep { s with turn := (s.turn + 1) % 8 } (s.turn % 8)) := pickStep_canon _ w
  unfold step
  split
  · split
    · exact exec_canon _ w
    · exact trivial
  · split
    · next h => rw [h] at picked; simpa using picked
    · exact picked

/-- Settles O59: a step keeps memory canonical below every bound, so that it keeps the whole of it in canonical form. -/
theorem everyStepKeepsMemoryCanonical : Obligations.EveryStepKeepsMemoryCanonical := by
  intro s t hs ht
  refine wf_iff_canon.mpr (fun B => ?_)
  have next : NextCanon B (step s) := step_canon (wf_iff_canon.mp hs B)
  rwa [ht] at next

end Sys2Proof.Machine
end

section
/-! Group commands and the fabric registers (R20, R383, R388, R389, R391, R408), with the obligation O45. -/

namespace Sys2Proof.Machine

/-! Packets that leave. -/

/-- `t` is `s` after packets have left it, to other devices or to itself. -/
def OnlySends (s t : State) : Prop := t = { s with due := t.due, out := t.out } ∧ s.out ⊆ t.out

theorem OnlySends.refl (s : State) : OnlySends s s := ⟨rfl, List.Subset.refl _⟩

theorem OnlySends.trans {s t u : State} (h : OnlySends s t) (h' : OnlySends t u) : OnlySends s u := by
  obtain ⟨frame, sub⟩ := h
  obtain ⟨frame', sub'⟩ := h'
  exact ⟨by rw [frame', frame], List.Subset.trans sub sub'⟩

theorem OnlySends.foldl {α : Type} {f : State → α → State} (hf : ∀ s x, OnlySends s (f s x)) (l : List α) (s : State) :
    OnlySends s (l.foldl f s) :=
  List.foldlRecOn (motive := OnlySends s) l f (.refl s) (fun t ht x _ => ht.trans (hf t x))

theorem OnlySends.devNum_eq {s t : State} (h : OnlySends s t) : t.devNum = s.devNum := by rw [h.1]; rfl

theorem OnlySends.carries_eq {s t : State} (h : OnlySends s t) (ty : BitVec 6) (dev : BitVec 10) : carries t ty dev = carries s ty dev := by
  rw [h.1]; rfl

/-- A packet that a member of the list sends is among those that the whole list sends. -/
theorem OnlySends.packet_mem_foldl {α : Type} {f : State → α → State} (hf : ∀ s x, OnlySends s (f s x)) {P : Packet → Prop} {l : List α}
    {x : α} (hx : x ∈ l) {s : State} (h : ∀ t, OnlySends s t → ∃ q, Out.packet q ∈ (f t x).out ∧ P q) :
    ∃ q, Out.packet q ∈ (l.foldl f s).out ∧ P q := by
  obtain ⟨l₁, l₂, rfl⟩ := List.append_of_mem hx
  obtain ⟨q, hq, hP⟩ := h _ (OnlySends.foldl hf l₁ s)
  rw [List.foldl_append, List.foldl_cons]
  exact ⟨q, (OnlySends.foldl hf l₂ _).2 hq, hP⟩

theorem onlySends_sendPacket (s : State) (p : Packet) : OnlySends s (sendPacket s p) := by
  unfold sendPacket
  split
  · exact ⟨rfl, List.Subset.refl _⟩
  · split
    · exact ⟨rfl, List.subset_append_left ..⟩
    · exact .refl s

/-- A packet to another device that the domain carries goes out, with its time and port. -/
theorem packet_mem_sendPacket {s : State} {p : Packet} (far : p.ddev ≠ s.devNum) (reach : carries s p.type p.ddev = true) :
    Out.packet { p with since := s.time, port := leavePort s p } ∈ (sendPacket s p).out := by
  rw [sendPacket, if_neg (by simpa using far), if_pos reach]
  exact List.mem_append_right _ (List.mem_singleton_self _)

/-- The unit number of a group packet (R379). -/
theorem dfld_gArg_unit (group key : Nat) (ord targeted parked : Bool) (unit : Nat) :
    dfld (gArg group key ord targeted parked unit) 35 16 = unit % 2 ^ 16 := by
  have h1 : (if ord then 2 ^ 32 else 0) ≤ 2 ^ 32 := by split <;> omega
  have h2 : (if targeted then 2 ^ 33 else 0) ≤ 2 ^ 33 := by split <;> omega
  have h3 : (if parked then 2 ^ 34 else 0) ≤ 2 ^ 34 := by split <;> omega
  have hg : group % 2 ^ 24 < 2 ^ 24 := Nat.mod_lt _ (by decide)
  have hk : key % 256 < 256 := Nat.mod_lt _ (by decide)
  rw [dfld, gArg, BitVec.toNat_ofNat]
  omega

/-! Groups are created and destroyed (R383). -/

/-- A group whose number the table does not hold is added to it. -/
theorem mem_setGroup_of_new {s : State} {i : Nat} (hi : i < 2 ^ 14) (new : ∀ c ∈ s.groups, c.1 ≠ i) (g : Group) (c : Nat × Group) :
    c ∈ (s.setGroup i g).groups ↔ c ∈ s.groups ∨ c = (i, g) := by
  have either : c ∈ s.groups → c.1 < i ∨ i < c.1 := fun h => Nat.lt_or_gt_of_ne (new c h)
  simp only [State.setGroup, Nat.mod_eq_of_lt hi, List.mem_append, List.mem_filter, List.mem_singleton, decide_eq_true_eq]
  tauto

theorem groups_any_iff {s : State} {i : Nat} : s.groups.any (fun c => c.1 == i) = true ↔ ∃ c ∈ s.groups, c.1 = i := by simp

/-- The group's entry is gone, and nothing else. -/
def State.withoutGroup (s : State) (i : Nat) : State := { s with groups := s.groups.filter (fun c => c.1 ≠ i) }

/-- The sender of a parked message gets FABRIC_ERROR. -/
def refuseParked (s : State) (p : Packet) : State := respTo s { p with ddev := s.devNum, ddie := 0 } 2 []

/-- A registered unit of another device is withdrawn there. -/
def withdrawAt (group : Nat) (part : BitVec 6) (s : State) (r : Reg) : State :=
  sendPacket s { type := ptGWDRAW, vc := 2, ddev := r.dev, sdev := s.devNum, part := part, arg := gArg group 0 false false false r.unit }

theorem onlySends_refuseParked (s : State) (p : Packet) : OnlySends s (refuseParked s p) := onlySends_sendPacket ..

theorem onlySends_withdrawAt (group : Nat) (part : BitVec 6) (s : State) (r : Reg) : OnlySends s (withdrawAt group part s r) :=
  onlySends_sendPacket ..

/-- No unit of this device is one of the group's, so that none is withdrawn here. -/
def NoUnitHere (s : State) (i : Nat) (g : Group) : Prop :=
  ∀ u ∈ s.units, u.group.toNat = s.devNum.toNat * 2 ^ 14 + i → handlePart u.ctx ≠ g.part

theorem noUnitHere_of_units_nil {s : State} (h : s.units = []) (i : Nat) (g : Group) : NoUnitHere s i g := by simp [NoUnitHere, h]

/-- The registered units of other devices. -/
def farRegs (s : State) (g : Group) : List Reg := g.regs.filter (fun r => r.dev ≠ s.devNum)

/-- Without a unit here a group's end is its entry's, followed by packets. -/
theorem destroyGroup_eq {s : State} {i : Nat} {g : Group} (h : NoUnitHere s i g) :
    destroyGroup s i g = (farRegs s g).foldl (withdrawAt (s.devNum.toNat * 2 ^ 14 + i) g.part) (g.parked.foldl refuseParked (s.withoutGroup i)) := by
  have refused := OnlySends.foldl onlySends_refuseParked g.parked (s.withoutGroup i)
  have units : (g.parked.foldl refuseParked (s.withoutGroup i)).units = s.units := by rw [refused.1]; rfl
  have none : s.units.filter (fun u => u.group.toNat == s.devNum.toNat * 2 ^ 14 + i && fld u.ctx 16 6 == g.part) = [] := by
    refine List.filter_eq_nil_iff.mpr (fun u hu c => ?_)
    rw [Bool.and_eq_true, beq_iff_eq, beq_iff_eq] at c
    exact h u hu c.1 c.2
  have dev : (g.parked.foldl refuseParked (s.withoutGroup i)).devNum = s.devNum := refused.devNum_eq
  show (let t := g.parked.foldl refuseParked (s.withoutGroup i)
    let u := (t.units.filter (fun u => u.group.toNat == s.devNum.toNat * 2 ^ 14 + i && fld u.ctx 16 6 == g.part)).foldl withdrawUnit t
    (farRegs u g).foldl (withdrawAt _ _) u) = _
  simp only [units, none, List.foldl_nil, farRegs, dev]

theorem onlySends_destroyGroup {s : State} {i : Nat} {g : Group} (h : NoUnitHere s i g) : OnlySends (s.withoutGroup i) (destroyGroup s i g) := by
  rw [destroyGroup_eq h]
  exact (OnlySends.foldl onlySends_refuseParked _ _).trans (OnlySends.foldl (onlySends_withdrawAt _ _) _ _)

/-- Each parked message of another device is answered with status 2, where the domain carries the answer. -/
theorem destroyGroup_answers_parked {s : State} {i : Nat} {g : Group} (h : NoUnitHere s i g) {m : Packet} (hm : m ∈ g.parked)
    (far : m.sdev ≠ s.devNum) (reach : carries s ptRESP m.sdev = true) :
    ∃ q : Packet, Out.packet q ∈ (destroyGroup s i g).out ∧ q.type = ptRESP ∧ q.ddev = m.sdev ∧ q.xid = m.xid ∧ q.arg = 2 := by
  obtain ⟨q, hq, spec⟩ := OnlySends.packet_mem_foldl onlySends_refuseParked (s := s.withoutGroup i) hm
    (P := fun q => q.type = ptRESP ∧ q.ddev = m.sdev ∧ q.xid = m.xid ∧ q.arg = 2)
    (fun t ht => ⟨_, packet_mem_sendPacket (ht.devNum_eq ▸ far) ((ht.carries_eq ..).trans reach), rfl, rfl, rfl, rfl⟩)
  rw [destroyGroup_eq h]
  exact ⟨q, (OnlySends.foldl (onlySends_withdrawAt _ _) _ _).2 hq, spec⟩

/-- GWDRAW goes to each registered unit of another device, where the domain carries it. -/
theorem destroyGroup_withdraws_registered {s : State} {i : Nat} {g : Group} (h : NoUnitHere s i g) {u : Reg} (hu : u ∈ g.regs)
    (far : u.dev ≠ s.devNum) (reach : carries s ptGWDRAW u.dev = true) :
    ∃ q : Packet, Out.packet q ∈ (destroyGroup s i g).out ∧ q.type = ptGWDRAW ∧ q.ddev = u.dev ∧ q.unit = u.unit % 2 ^ 16 := by
  have refused := OnlySends.foldl onlySends_refuseParked g.parked (s.withoutGroup i)
  have hu' : u ∈ farRegs s g := List.mem_filter.mpr ⟨hu, decide_eq_true far⟩
  rw [destroyGroup_eq h]
  refine OnlySends.packet_mem_foldl (onlySends_withdrawAt _ _) hu' (fun t ht => ?_)
  have all := refused.trans ht
  exact ⟨_, packet_mem_sendPacket (all.devNum_eq ▸ far) ((all.carries_eq ..).trans reach), rfl, rfl, dfld_gArg_unit ..⟩

/-- The groups of a list are destroyed one after the other. -/
theorem foldl_destroyGroup (l : List (Nat × Group)) {s : State} (hs : s.units = []) :
    let t := l.foldl (fun s c => destroyGroup s c.1 c.2) s
    t = { s with groups := t.groups, due := t.due, out := t.out } ∧ ∀ c, c ∈ t.groups ↔ c ∈ s.groups ∧ ∀ x ∈ l, x.1 ≠ c.1 := by
  induction l generalizing s with
  | nil => exact ⟨rfl, by simp⟩
  | cons x l ih =>
    obtain ⟨frame, -⟩ := onlySends_destroyGroup (noUnitHere_of_units_nil hs x.1 x.2)
    have units : (destroyGroup s x.1 x.2).units = [] := by rw [frame]; exact hs
    have groups : ∀ c, c ∈ (destroyGroup s x.1 x.2).groups ↔ c ∈ s.groups ∧ x.1 ≠ c.1 := fun c => by
      rw [frame]; simp [State.withoutGroup, ne_comm]
    obtain ⟨frame', mem⟩ := ih units
    refine ⟨?_, fun c => ?_⟩
    · rw [List.foldl_cons, frame', frame]; rfl
    · rw [List.foldl_cons, mem, groups, List.forall_mem_cons, and_assoc]

/-! The slots of a partition (R383, R391). -/

/-- A listed entry is what its key reads as. -/
theorem Sparse.get_of_mem {α : Type} [DecidableEq α] {d : α} {m : Sparse α} {b : Nat} (w : Sparse.wfFrom d b m = true) {c : Nat × α}
    (h : c ∈ m) : Sparse.get d m c.1 = c.2 := by
  induction m generalizing b with
  | nil => exact absurd h List.not_mem_nil
  | cons e m ih =>
    obtain ⟨k, v⟩ := e
    simp only [Sparse.wfFrom, Bool.and_eq_true] at w
    rcases List.mem_cons.mp h with rfl | h
    · exact if_pos rfl
    · have := Sparse.le_of_wfFrom w.2 c h
      rw [Sparse.get, if_neg (by omega), ih w.2 h]

/-- An entry after a write is the one written, or an earlier one of another key. -/
theorem Sparse.eq_or_mem_of_mem_set {α : Type} [DecidableEq α] {d : α} {m : Sparse α} (w : Sparse.wf d m = true) {i : Nat} {x : α}
    {c : Nat × α} (h : c ∈ Sparse.set d m i x) : c.2 = x ∨ c ∈ m ∧ c.1 ≠ i := by
  by_cases hi : c.1 = i
  · have := Sparse.get_of_mem (Sparse.wf_set m i x w) h
    rw [hi, Sparse.get_set_self m i x w] at this
    exact .inl this.symm
  · exact .inr ⟨(Sparse.mem_set h).resolve_right hi, hi⟩

/-- Where nobody waits for a slot, a freed one is all that changes. -/
theorem freeSlot_of_opens_nil {s : State} (h : s.opens = []) (dev : BitVec 10) (k : Nat) :
    freeSlot s dev k = s.setSlot k { gen := nextGen (s.slot k).gen } := by
  obtain ⟨⟩ := s
  subst h
  rfl

/-- Slots are freed one after the other: of those in use, the others are left. -/
theorem foldl_freeSlot (keys : List Nat) {s : State} (hs : s.opens = []) (w : Sparse.wf {} s.slots = true) :
    let t := keys.foldl (fun s k => freeSlot s (slotHost s k) k) s
    t = { s with slots := t.slots } ∧ ∀ c ∈ t.slots, c.2.inUse = true → c ∈ s.slots ∧ c.1 ∉ keys := by
  induction keys generalizing s with
  | nil => exact ⟨rfl, fun c hc _ => ⟨hc, List.not_mem_nil⟩⟩
  | cons k keys ih =>
    rw [List.foldl_cons, freeSlot_of_opens_nil hs]
    obtain ⟨frame, mem⟩ := ih (s := s.setSlot k { gen := nextGen (s.slot k).gen }) hs (Sparse.wf_set _ _ _ w)
    refine ⟨frame, fun c hc used => ?_⟩
    obtain ⟨hc, hk⟩ := mem c hc used
    rcases Sparse.eq_or_mem_of_mem_set w hc with e | ⟨hc, hne⟩
    · rw [e] at used; cases used
    · exact ⟨hc, fun h => (List.mem_cons.mp h).elim hne hk⟩

/-- The slots in use of a partition at this device and at its assigned switch, and the state without the opens that wait for one. -/
def partSlots (s : State) (p : BitVec 6) : List Nat :=
  (s.slots.filter (fun c => c.2.inUse && c.2.part == p && (slotHost s c.1 == s.devNum || partSwitch s p == some (slotHost s c.1)))).map (·.1)
def State.withoutOpens (s : State) (p : BitVec 6) : State :=
  { s with opens := s.opens.filter (fun q => !(q.part == p && (q.ddev == s.devNum || partSwitch s p == some q.ddev))) }

theorem clearPartSlots_eq (s : State) (p : BitVec 6) :
    clearPartSlots s p = (partSlots s p).foldl (fun s k => freeSlot s (slotHost s k) k) (s.withoutOpens p) := rfl

/-- Afterwards no slot of the partition is in use at this device or at its assigned switch. -/
theorem clearPartSlots_spec {s : State} (p : BitVec 6) (hs : s.opens = []) (w : Sparse.wf {} s.slots = true) :
    (clearPartSlots s p).groups = s.groups ∧
    ∀ c ∈ (clearPartSlots s p).slots, c.2.inUse = true → c.2.part = p →
      slotHost s c.1 ≠ s.devNum ∧ partSwitch s p ≠ some (slotHost s c.1) := by
  have opens : (s.withoutOpens p).opens = [] := by rw [State.withoutOpens, hs]; rfl
  have freed := foldl_freeSlot (partSlots s p) opens w
  rw [← clearPartSlots_eq] at freed
  obtain ⟨frame, left⟩ := freed
  refine ⟨by rw [frame]; rfl, fun c hc used part => ?_⟩
  obtain ⟨hc, free⟩ := left c hc used
  by_contra here
  refine free (List.mem_map.mpr ⟨c, List.mem_filter.mpr ⟨hc, ?_⟩, rfl⟩)
  simp only [used, part, beq_self_eq_true, Bool.and_self, Bool.true_and, Bool.or_eq_true, beq_iff_eq]
  tauto

/-! The obligation, clause by clause. -/

/-- Settles O45: a group's end is a sequence of packets, and a partition is cleared by folds over its groups and slots. -/
theorem groupAndFabricCommandsAct : Obligations.GroupAndFabricCommandsAct := by
  refine ⟨fun s p l i => ⟨?large, ?twice, ?create, ?absent, ?destroy, ?clear⟩, fun s p d x => ⟨?placed, ?fabpart, ?again, ?fabid, rfl⟩⟩
  case large => intro h; rw [exec_groupCreate, execGroupCreate, if_pos h]; rfl
  case twice =>
    intro h c
    rw [exec_groupCreate, execGroupCreate, if_neg (Nat.not_lt.mpr h), if_pos (groups_any_iff.mpr c)]; rfl
  case create =>
    intro h c
    refine ⟨s.setGroup i.toNat { part := p, plim := if l = 0 then 64 else l.toNat }, ?_, rfl, mem_setGroup_of_new i.isLt c _⟩
    rw [exec_groupCreate, execGroupCreate, if_neg (Nat.not_lt.mpr h), if_neg (mt groups_any_iff.mp (fun ⟨x, hx, e⟩ => c x hx e))]; rfl
  case absent =>
    intro h
    have none : s.groups.find? (fun c => c.1 == i.toNat) = none := List.find?_eq_none.mpr (fun c hc => by simpa using h c hc)
    rw [exec_groupDestroy, execGroupDestroy, none]; rfl
  case destroy =>
    intro g found units
    have away := onlySends_destroyGroup (g := g) units
    refine ⟨(destroyGroup s i.toNat g).groupResult 0, ?_, fun c => ?_, ?_,
      fun m hm far reach => destroyGroup_answers_parked units hm far reach,
      fun u hu far reach => destroyGroup_withdraws_registered units hu far reach⟩
    · rw [exec_groupDestroy, execGroupDestroy, found]
    · rw [State.groupResult, State.setBar_groups, away.1]; simp [State.withoutGroup]
    · rw [State.groupResult, State.setBar_mem, away.1]; rfl
  case clear =>
    intro units opens w
    have run : exec (.clearPartition p) s =
      .next ((clearPartSlots ((s.groups.filter (fun c => c.2.part == p)).foldl (fun s c => destroyGroup s c.1 c.2) s) p).groupResult 0) := rfl
    obtain ⟨frame, left⟩ := foldl_destroyGroup (s.groups.filter (fun c => c.2.part == p)) units
    generalize (s.groups.filter (fun c => c.2.part == p)).foldl (fun s c => destroyGroup s c.1 c.2) s = t at run frame left
    obtain ⟨groups, slots⟩ := clearPartSlots_spec (s := t) p (by rw [frame]; exact opens) (by rw [frame]; exact w)
    refine ⟨_, run, ?_, fun c => ?_, fun c hc used part => ?_⟩
    · rw [State.groupResult_mem, clearPartSlots_mem, frame]
    · rw [State.groupResult, State.setBar_groups, groups, left]
      simp only [List.mem_filter, beq_iff_eq, and_imp]
      exact and_congr_right (fun _ => forall₂_congr (fun _ _ => imp_not_comm))
    · have := slots c hc used part
      rw [frame] at this
      exact this
  case placed => intro h; rw [exec_fabpartWrite, execFabpartWrite, if_pos (partPlaced_iff.mpr h)]
  case fabpart => intro h; rw [exec_fabpartWrite, execFabpartWrite, partPlaced_eq_false_iff.mpr h]; rfl
  case again => intro h; rw [exec_fabidWrite, execFabidWrite, if_pos (by simpa using h)]
  case fabid => intro h1 h2; rw [exec_fabidWrite, execFabidWrite, h1, h2]; rfl

end Sys2Proof.Machine
end

section
/-! What the host answers, snoops and reaches (R12, R143, R349, R361, R362, R370 to R375, R381), with the obligation O42. -/

namespace Sys2Proof.Machine

/-! Translations that go, and what the guest is told of it (R361, R402, R403). -/

/-- `t` is `s` but for cached translations, the guest's grants and tags, and messages to the guest. -/
def OnlyDrops (s t : State) : Prop :=
  t = { s with walker := t.walker, tlb := t.tlb, guest := { s.guest with grants := t.guest.grants, tags := t.guest.tags }, out := t.out } ∧
  ∀ o ∈ t.out, o ∈ s.out ∨ ∃ f l, o = Out.guest f l

theorem OnlyDrops.refl (s : State) : OnlyDrops s s := ⟨rfl, fun _ h => .inl h⟩

theorem OnlyDrops.trans {s t u : State} (h : OnlyDrops s t) (h' : OnlyDrops t u) : OnlyDrops s u := by
  obtain ⟨frame, out⟩ := h
  obtain ⟨frame', out'⟩ := h'
  exact ⟨by rw [frame', frame], fun o ho => (out' o ho).elim (out o) .inr⟩

theorem OnlyDrops.foldl {α : Type} {f : State → α → State} (hf : ∀ s x, OnlyDrops s (f s x)) (l : List α) (s : State) :
    OnlyDrops s (l.foldl f s) :=
  List.foldlRecOn (motive := OnlyDrops s) l f (.refl s) (fun t ht x _ => ht.trans (hf t x))

theorem OnlyDrops.mem_eq {s t : State} (h : OnlyDrops s t) : t.mem = s.mem := by rw [h.1]
theorem OnlyDrops.strands_eq {s t : State} (h : OnlyDrops s t) : t.strands = s.strands := by rw [h.1]; rfl
theorem OnlyDrops.teams_eq {s t : State} (h : OnlyDrops s t) : t.teams = s.teams := by rw [h.1]
theorem OnlyDrops.resolves_eq {s t : State} (h : OnlyDrops s t) : t.resolves = s.resolves := by rw [h.1]
theorem OnlyDrops.due_eq {s t : State} (h : OnlyDrops s t) : t.due = s.due := by rw [h.1]

/-- What is under way is still under way. -/
theorem OnlyDrops.over_eq {s t : State} (h : OnlyDrops s t) (l : InFlight) : l.over t = l.over s := by rw [h.1]; rfl

theorem OnlyDrops.mem_out {s t : State} (h : OnlyDrops s t) {o : Out} (ho : o ∈ t.out) (other : ∀ f l, o ≠ .guest f l) : o ∈ s.out :=
  (h.2 o ho).resolve_right (fun ⟨f, l, e⟩ => other f l e)

theorem onlyDrops_answerTags (s : State) (ks : List Nat) (status : Nat) : OnlyDrops s (s.answerTags ks status) := by
  unfold State.answerTags
  dsimp only
  split
  · exact .refl s
  · refine ⟨rfl, fun o ho => (List.mem_append.mp ho).imp_right (fun ho => ?_)⟩
    obtain ⟨t, -, rfl⟩ := List.mem_map.mp ho
    exact ⟨_, _, rfl⟩

theorem onlyDrops_tellGrants (s : State) : OnlyDrops s s.tellGrants := by
  unfold State.tellGrants
  dsimp only
  split
  · exact .refl s
  · refine ⟨rfl, fun o ho => (List.mem_append.mp ho).imp_right (fun ho => ?_)⟩
    obtain ⟨c, -, rfl⟩ := List.mem_map.mp ho
    exact ⟨_, _, rfl⟩

theorem tellGrants_tlb (s : State) : s.tellGrants.tlb = s.tlb := by
  unfold State.tellGrants; dsimp only; split <;> rfl

theorem onlyDrops_dropGrants (s : State) (p : Grant → Bool) : OnlyDrops s (s.dropGrants p) := by
  unfold State.dropGrants
  split
  · exact .trans ⟨rfl, fun _ h => .inl h⟩ (onlyDrops_tellGrants _)
  · exact .refl s

theorem dropGrants_tlb (s : State) (p : Grant → Bool) : (s.dropGrants p).tlb = s.tlb := by
  unfold State.dropGrants; split
  · exact tellGrants_tlb _
  · rfl

theorem onlyDrops_dropWalk (s : State) (die : BitVec 2) (line : Nat) : OnlyDrops s (s.dropWalk die line) := by
  unfold State.dropWalk
  exact .trans ⟨rfl, fun _ h => .inl h⟩ (onlyDrops_dropGrants _ _)

theorem onlyDrops_dropLine (s : State) (line : Nat) : OnlyDrops s (dropLine s line) := OnlyDrops.foldl (fun _ _ => onlyDrops_dropWalk ..) _ _

/-- On the dies that `on` selects no translation from a host table is left whose leaf lies in the line; others stay. -/
def Dropped (s t : State) (on : BitVec 2 → Prop) (line : Nat) : Prop :=
  (∀ e ∈ t.tlb, e ∈ s.tlb ∧ (on e.die → e.kind = 0 → e.line ≠ line)) ∧ ∀ e ∈ s.tlb, (e.kind ≠ 0 ∨ ¬ on e.die) → e ∈ t.tlb

theorem dropped_dropWalk (s : State) (die : BitVec 2) (line : Nat) : Dropped s (s.dropWalk die line) (· = die) line := by
  unfold Dropped State.dropWalk
  simp only [dropGrants_tlb, List.mem_filter, Bool.not_eq_true', Bool.and_eq_false_iff, Bool.or_eq_false_iff, beq_eq_false_iff_ne]
  refine ⟨fun e he => ⟨he.1, fun hd hk => ?_⟩, fun e he h => ⟨he, .inl (h.symm)⟩⟩
  rcases he.2 with (h | h) | h
  exacts [absurd hd h, absurd hk h, h.1]

theorem dropped_foldl_dropWalk (l : List Nat) (s : State) (line : Nat) :
    Dropped s (l.foldl (fun s d => s.dropWalk (BitVec.ofNat 2 d) line) s) (fun d => ∃ n ∈ l, d = BitVec.ofNat 2 n) line := by
  induction l generalizing s with
  | nil => exact ⟨fun e he => ⟨he, by simp⟩, fun e he _ => he⟩
  | cons n l ih =>
    obtain ⟨gone, kept⟩ := dropped_dropWalk s (BitVec.ofNat 2 n) line
    obtain ⟨gone', kept'⟩ := ih (s.dropWalk (BitVec.ofNat 2 n) line)
    simp only [List.exists_mem_cons_iff, List.foldl_cons]
    refine ⟨fun e he => ?_, fun e he h => ?_⟩
    · obtain ⟨h', off'⟩ := gone' e he
      obtain ⟨h, off⟩ := gone e h'
      exact ⟨h, fun on hk => on.elim (off · hk) (off' · hk)⟩
    · rw [not_or] at h
      exact kept' e (kept e he (h.imp_right And.left)) (h.imp_right And.right)

/-- A table line that is of no use any more drops its leaves' translations on every die. -/
theorem dropped_dropLine (s : State) (line : Nat) : Dropped s (dropLine s line) (fun _ => True) line := by
  obtain ⟨gone, kept⟩ := dropped_foldl_dropWalk (List.range 4) s line
  have every : ∀ d : BitVec 2, ∃ n ∈ List.range 4, d = BitVec.ofNat 2 n := by decide
  exact ⟨fun e he => (gone e he).imp_right (fun h _ => h (every _)), fun e he h => kept e he (h.imp_right (fun h => absurd trivial h))⟩

/-! Answers that wait for accesses under way (R362, R370). -/

/-- The snoop or invalidation `n` that waits for `l` is answered at `o` in `t` where all of `l` has been performed in `s`; else its answer
stands among those that wait. -/
def Answered (s t : State) (n : Nat) (l : InFlight) (o : Nat) : Prop :=
  (l.over s = true → Out.snoopAnswer o ∈ t.out) ∧
  (l.over s = false → (⟨n, l⟩ : TableSnoop) ∈ t.tableSnoops ∧ (Out.snoopAnswer o ∈ t.out → Out.snoopAnswer o ∈ s.out))

/-- The address of the answer of a number that is not a partition's. -/
def snoopAddr (n : Nat) : Nat := if n < 2 ^ 64 then n else (n - 2 ^ 64) * 2 ^ 12

theorem answerSnoop_of_over {s : State} {x : TableSnoop} (h : x.left.over s = true) (hn : x.line < 2 ^ 65) :
    answerSnoop s x = { s with tableSnoops := s.tableSnoops.erase x, out := s.out ++ [.snoopAnswer (snoopAddr x.line)] } := by
  unfold answerSnoop snoopAddr
  rw [h]
  by_cases h64 : x.line < 2 ^ 64
  · simp only [if_pos h64]; rfl
  · simp only [if_neg h64, if_pos hn]; rfl

theorem answerSnoop_of_not_over {s : State} {x : TableSnoop} (h : x.left.over s = false) : answerSnoop s x = s := by
  unfold answerSnoop; rw [h]; rfl

/-- Only the answers given and those that wait differ. -/
def OnlyAnswers (s t : State) : Prop := t = { s with tableSnoops := t.tableSnoops, out := t.out }

theorem OnlyAnswers.mem_eq {s t : State} (h : OnlyAnswers s t) : t.mem = s.mem := by rw [h]
theorem OnlyAnswers.strands_eq {s t : State} (h : OnlyAnswers s t) : t.strands = s.strands := by rw [h]; rfl
theorem OnlyAnswers.tlb_eq {s t : State} (h : OnlyAnswers s t) : t.tlb = s.tlb := by rw [h]
theorem OnlyAnswers.atc_eq {s t : State} (h : OnlyAnswers s t) : t.atc = s.atc := by rw [h]
theorem OnlyAnswers.iommu_eq {s t : State} (h : OnlyAnswers s t) : t.iommu = s.iommu := by rw [h]

theorem onlyAnswers_answerOnce (s : State) {n : Nat} (uses : Word → Bool) (hn : n < 2 ^ 65) : OnlyAnswers s (answerOnce s n uses) := by
  unfold answerOnce OnlyAnswers
  cases h : (s.inFlight uses).over s with
  | true => rw [answerSnoop_of_over h hn]
  | false => rw [answerSnoop_of_not_over h]

theorem answered_answerOnce (s : State) {n : Nat} (uses : Word → Bool) (hn : n < 2 ^ 65) :
    Answered s (answerOnce s n uses) n (s.inFlight uses) (snoopAddr n) := by
  unfold answerOnce
  refine ⟨fun h => ?_, fun h => ?_⟩
  · rw [answerSnoop_of_over h hn]; exact List.mem_append_right _ (List.mem_singleton_self _)
  · rw [answerSnoop_of_not_over h]; exact ⟨List.mem_append_right _ (List.mem_singleton_self _), id⟩

theorem Answered.of_same {s u t : State} {n : Nat} {l : InFlight} {o : Nat} (h : Answered u t n l o) (same : l.over u = l.over s)
    (out : Out.snoopAnswer o ∈ u.out → Out.snoopAnswer o ∈ s.out) : Answered s t n l o :=
  ⟨fun e => h.1 (same.trans e), fun e => (h.2 (same.trans e)).imp_right (fun h ho => out (h ho))⟩

/-- The host's write to one of its lines stands. -/
def State.hostWrote (s : State) (line : Nat) (data : List Byte) : State := { s with mem := setBytes s.mem (hostKey line) (data.take 64) }

section
variable (s : State) (line : Nat) (data : List Byte)

theorem State.hostWrote_tlb : (s.hostWrote line data).tlb = s.tlb := rfl
theorem State.hostWrote_strands : (s.hostWrote line data).strands = s.strands := rfl
theorem State.hostWrote_out : (s.hostWrote line data).out = s.out := rfl
theorem State.hostWrote_inFlight (uses : Word → Bool) : (s.hostWrote line data).inFlight uses = s.inFlight uses := rfl
theorem State.over_hostWrote (l : InFlight) : l.over (s.hostWrote line data) = l.over s := rfl

/-- The state in which the snoop of a table line is answered: the line is written, and the translations that depend on it are gone. -/
def tableWritten : State := (dropLine s line).hostWrote line data

theorem tableWritten_mem : (tableWritten s line data).mem = setBytes s.mem (hostKey line) (data.take 64) :=
  congrArg (setBytes · (hostKey line) (data.take 64)) (onlyDrops_dropLine s line).mem_eq

theorem tableWritten_tlb : (tableWritten s line data).tlb = (dropLine s line).tlb := State.hostWrote_tlb ..

theorem tableWritten_strands : (tableWritten s line data).strands = s.strands :=
  (State.hostWrote_strands ..).trans (onlyDrops_dropLine s line).strands_eq

/-- The snoop of a table line is answered once the accesses that may have used what depends on it are over. -/
theorem answered_tableWritten (uses : Word → Bool) (h : line < 2 ^ 64) :
    Answered s (answerOnce (tableWritten s line data) line uses) line ((dropLine s line).inFlight uses) line := by
  have drops := onlyDrops_dropLine s line
  have answered := answered_answerOnce (tableWritten s line data) uses (show line < 2 ^ 65 by omega)
  rw [show snoopAddr line = line from if_pos h, tableWritten, State.hostWrote_inFlight] at answered
  refine answered.of_same ((State.over_hostWrote ..).trans (drops.over_eq _)) (fun h => ?_)
  rw [State.hostWrote_out] at h
  exact drops.mem_out h (fun _ _ => nofun)

end

theorem hostTableSnoop_eq {s : State} (up : s.cxlUp = true) (ready : s.mstate = 3) (line : BitVec 64) (data : List Byte) :
    let a := line.toNat / 64 * 64
    exec (.hostTableSnoop line data) s = .next (answerOnce (tableWritten s a data) a (usedBy s (s.tlb.filter (dependsOn s a)))) :=
  (exec_hostTableSnoop ..).trans (congrArg Host.Outcome.next (if_neg (by simp [up, ready])))

/-- The host's map of a page changes, and the ports' translations of it go. -/
def pageRemapped (s : State) (page : AtsPage) : State :=
  let g := hostPage page.page.toNat
  { s with
    iommu := Sparse.set 0 s.iommu (page.pasid.toNat * 2 ^ 42 + g) ((page.host.toNat / 2 ^ 12) ^^^ g)
    atc := s.atc.filter (fun e => !(e.page == g && pasidOf s e.part == page.pasid.toNat)) }

/-- The partitions whose translations of the page go. -/
def atsParts (s : State) (page : AtsPage) : List (BitVec 6) :=
  (s.atc.filter (fun e => e.page == hostPage page.page.toNat && pasidOf s e.part == page.pasid.toNat)).map (·.part)

/-- A field of a word in the two forms of the model. -/
theorem fld_eq_extractLsb' (w : Word) (lo n : Nat) : fld w lo n = w.extractLsb' lo n := by
  rw [fld, BitVec.extractLsb', Nat.shiftRight_eq_div_pow]

theorem atsInvalidation_of_not_ready {s : State} (h : s.mstate ≠ 3) (page : AtsPage) :
    exec (.atsInvalidation page) s = .next (pageRemapped s page) :=
  (exec_atsInvalidation ..).trans (congrArg Host.Outcome.next (if_pos h))

theorem atsInvalidation_of_ready {s : State} (h : s.mstate = 3) (page : AtsPage) : exec (.atsInvalidation page) s =
    .next (answerOnce (pageRemapped s page) (2 ^ 64 + page.page.toNat / 2 ^ 12) (fun c => (atsParts s page).contains (c.extractLsb' 16 6))) := by
  simp only [← fld_eq_extractLsb']
  exact (exec_atsInvalidation ..).trans (congrArg Host.Outcome.next (if_neg (not_not.mpr h)))

/-- Through a CXL port the device returns the line as it holds it; what the host writes stands. -/
theorem hostSnoop_eq (s : State) (line : BitVec 64) (data : List Byte) :
    let a := line.toNat / 64 * 64
    exec (.hostSnoop line data) s = .next { s with
      mem := setBytes s.mem (hostKey a) (data.take 64)
      out := s.out ++ (if s.cxlUp = true ∧ s.mstate = 3 then
        [Out.snoopAnswer a, Out.hostData false (memBytes s.mem (hostKey a) 64)] else []) } := by
  intro a
  rw [exec_hostSnoop, execHostSnoop]
  by_cases up : s.cxlUp = true ∧ s.mstate = 3
  · rw [if_pos up, if_pos (by simpa using up)]
    simp [State.send, a]
  · rw [if_neg up, if_neg (by simpa using up), List.append_nil]

/-- A line that is written holds the bytes written, and no other byte changes. -/
theorem memByte_written_line {m : List Host.Cell} (w : Memory.wf m = true) {data : List Byte} (len : data.length = 64) (a : Nat) :
    (∀ k < 64, memByte (setBytes m a (data.take 64)) (a + k) = (data[k]?).getD 0) ∧
    ∀ b, (b < a ∨ a + 64 ≤ b) → memByte (setBytes m a (data.take 64)) b = memByte m b := by
  rw [List.take_of_length_le (Nat.le_of_eq len)]
  refine ⟨fun k hk => ?_, fun b hb => memByte_setBytes_out data m (by rwa [len])⟩
  have hk : k < data.length := by omega
  rw [memByte_setBytes_in data m a hk w, List.getElem?_eq_getElem hk, Option.getD_some]

/-! A page request is answered (R349). -/

/-- The record entry waits for the page request. -/
def awaits (r : Resolve) (e : RecEntry) : Bool := e.state == .faulted && e.key == r.key && e.req.kind != .fill

/-- The entry once the host has refused its request. -/
def refusedEntry (r : Resolve) (c : Cause) (e : RecEntry) : RecEntry :=
  if awaits r e then { e with fail := if e.trapped then none else some (c, r.at_) } else e

/-- The record of the strand, or that of its trapped program, has an entry that waits. -/
def holdsAwaiting (r : Resolve) (t : Strand) : Bool := t.arec.any (awaits r) || t.frame.any (fun f => f.arec.any (awaits r))

/-- The pair stands in the list, once. -/
def markAnswered (n : Nat) (c : Cause) (l : List (Nat × Cause)) : List (Nat × Cause) := if l.contains (n, c) then l else l ++ [(n, c)]

theorem mem_markAnswered (n : Nat) (c : Cause) (l : List (Nat × Cause)) : (n, c) ∈ markAnswered n c l := by
  unfold markAnswered
  split
  · next h => exact List.contains_iff_mem.mp h
  · exact List.mem_append_right _ (List.mem_singleton_self _)

/-- The strand that waits for a page request, once that has been answered. -/
def answeredStrand (r : Resolve) (c : Cause) (failed : Bool) (t : Strand) : Strand :=
  if failed && holdsAwaiting r t then
    { t with arec := t.arec.map (refusedEntry r c), frame := t.frame.map (fun f : Frame => { f with arec := f.arec.map (refusedEntry r c) }) }
  else { t with answered := markAnswered (if failed then r.va.toNat + 2 ^ 65 else r.va.toNat) c t.answered }

/-- A strand for which the request was made, once that has been answered. -/
theorem eq_answeredStrand_of_mem {r : Resolve} {c : Cause} {failed : Bool} {l : List Strand} {x : Strand}
    (hx : x ∈ l.map (fun t => if r.who == some (t.team, t.sid) then answeredStrand r c failed t else t))
    (who : r.who = some (x.team, x.sid)) : ∃ y, x = answeredStrand r c failed y := by
  obtain ⟨y, -, rfl⟩ := List.mem_map.mp hx
  by_cases hy : (r.who == some (y.team, y.sid)) = true
  · exact ⟨y, if_pos hy⟩
  · rw [if_neg hy] at who
    exact absurd (beq_iff_eq.mpr who) hy

/-- After Success the cause stands to be raised if the walk still fails. -/
theorem mem_answered_of_success (r : Resolve) (c : Cause) (t : Strand) : (r.va.toNat, c) ∈ (answeredStrand r c false t).answered := by
  rw [answeredStrand, Bool.false_and]
  exact mem_markAnswered ..

/-- After a refusal an entry that waits has its trap due without another walk. -/
theorem fail_of_refused {r : Resolve} {c : Cause} {t : Strand} {e : RecEntry} (he : e ∈ (answeredStrand r c true t).arec)
    (hw : awaits r e = true) (ht : e.trapped = false) : e.fail = some (c, r.at_) := by
  have refused : ∀ d : RecEntry, refusedEntry r c d = e → e.fail = some (c, r.at_) := fun d hd => by
    by_cases h : awaits r d = true
    · rw [refusedEntry, if_pos h] at hd
      subst hd
      exact if_neg (by simpa using ht)
    · rw [refusedEntry, if_neg h] at hd
      exact absurd (hd ▸ hw) h
  unfold answeredStrand at he
  split at he
  · obtain ⟨d, -, hd⟩ := List.mem_map.mp he
    exact refused d hd
  · next h =>
    refine absurd ?_ h
    rw [Bool.true_and, holdsAwaiting, Bool.or_eq_true]
    exact .inl (List.any_eq_true.mpr ⟨e, he, hw⟩)

/-- After a refusal the next access to the page has the trap due, where no entry waits. -/
theorem mem_answered_of_refused {r : Resolve} (c : Cause) {t : Strand} (hf : (answeredStrand r c true t).frame = none)
    (none : ∀ e ∈ (answeredStrand r c true t).arec, e.key ≠ r.key) : (r.va.toNat + 2 ^ 65, c) ∈ (answeredStrand r c true t).answered := by
  have free : holdsAwaiting r t = false := by
    by_contra h
    rw [Bool.not_eq_false] at h
    have held : answeredStrand r c true t = { t with
        arec := t.arec.map (refusedEntry r c), frame := t.frame.map (fun f : Frame => { f with arec := f.arec.map (refusedEntry r c) }) } := by
      rw [answeredStrand, h]; rfl
    rw [held] at hf none
    rw [holdsAwaiting, Option.map_eq_none_iff.mp hf, Option.any_none, Bool.or_false, List.any_eq_true] at h
    obtain ⟨e, he, hw⟩ := h
    have key : (refusedEntry r c e).key = e.key := by unfold refusedEntry; split <;> rfl
    refine none _ (List.mem_map_of_mem he) (key.trans ?_)
    simp only [awaits, Bool.and_eq_true, beq_iff_eq] at hw
    exact hw.1.2
  rw [answeredStrand, free]
  exact mem_markAnswered ..

/-- The wakes due for the resolutions that `p` selects: one for each team that waits for one. -/
def faultWakes (s : State) (p : Resolve → Bool) : List Due :=
  let ks := (s.resolves.filter p).map (·.key)
  (s.teams.map (fun m => (m.faults.filter ks.contains).map (fun k => Due.faultWake m.id k))).flatten

/-- The resolutions that `p` selects are over, the wakes are due, and the guest is told. -/
theorem onlyDrops_wakesFor (s : State) (p : Resolve → Bool) :
    OnlyDrops { s with resolves := s.resolves.filter (fun r => !p r), due := s.due ++ faultWakes s p } (s.wakesFor p) :=
  onlyDrops_answerTags ..

theorem faultWake_mem_due_wakesFor {s : State} {p : Resolve → Bool} {r : Resolve} (hr : r ∈ s.resolves) (hp : p r = true) {m : Team}
    (hm : m ∈ s.teams) (hk : r.key ∈ m.faults) : Due.faultWake m.id r.key ∈ (s.wakesFor p).due := by
  have key : r.key ∈ (s.resolves.filter p).map (·.key) := List.mem_map_of_mem (List.mem_filter.mpr ⟨hr, hp⟩)
  have wake : Due.faultWake m.id r.key ∈ faultWakes s p := List.mem_flatten.mpr
    ⟨_, List.mem_map_of_mem hm, List.mem_map_of_mem (List.mem_filter.mpr ⟨hk, List.contains_iff_mem.mpr key⟩)⟩
  rw [(onlyDrops_wakesFor s p).due_eq]
  exact List.mem_append_right _ wake

/-- An answer marks the strands, operations, units and launches that wait, tells the guest, and wakes the teams. -/
theorem resolved_spec (s : State) {r : Resolve} (hr : r.kind = 2) (c : Cause) (failed : Bool) : ∃ u v : State,
    resolved s r c failed = v.wakesFor (fun x => x.key == r.key) ∧ OnlyDrops u v ∧
    u = { s with cs := u.cs, others := u.others, ops := u.ops, units := u.units, launches := u.launches } ∧
    u.strands = s.strands.map (fun t => if r.who == some (t.team, t.sid) then answeredStrand r c failed t else t) := by
  unfold resolved
  extract_lets n refused mark mine fail held bad s' u
  refine ⟨u, if bad then u.answerTags [r.key] 1 else u, rfl, ?told, rfl, ?strands⟩
  case told =>
    split
    · exact onlyDrops_answerTags ..
    · exact .refl u
  case strands =>
    have hn : n = r.va.toNat := if_pos hr
    have hrefused : refused = failed := by simp [refused, hr]
    have hmine : mine = fun e => failed && awaits r e := funext fun e => by simp [mine, hrefused, awaits, Bool.and_assoc]
    have hheld : ∀ t, held t = (failed && holdsAwaiting r t) := fun t => by
      cases failed with
      | false => cases h : t.frame <;> simp [held, hmine, h]
      | true => simp [held, hmine, holdsAwaiting]
    have hfail : failed = true → fail = List.map (refusedEntry r c) := fun h => by
      simp only [fail, hmine, h, Bool.true_and]; rfl
    have marked : ∀ t : Strand, (if held t then
        { t with arec := fail t.arec, frame := t.frame.map (fun f : Frame => { f with arec := fail f.arec }) }
        else { t with answered := mark (if refused then n + 2 ^ 65 else n) t.answered }) = answeredStrand r c failed t := fun t => by
      rw [hheld, hrefused, hn]
      unfold answeredStrand
      split
      · next h => rw [hfail (Bool.and_elim_left h)]
      · rfl
    show (if _ then _ else _) :: s.others.map _ = _
    simp only [marked]
    rfl

theorem sendPris_of_resolves_nil {s : State} (h : s.resolves = []) : sendPris s = s := by rw [sendPris, h]; rfl

/-- The state in which a page request that is under way is no longer so. -/
def State.withoutPri (s : State) (key : Nat) : State :=
  { s with out := s.out.filter (fun o => match o with | .pri k _ _ => k ≠ key | _ => true) }

theorem pri_not_mem_withoutPri (s : State) (key va c : Nat) : Out.pri key va c ∉ (s.withoutPri key).out := by
  simp [State.withoutPri]

/-- The cause that stands behind an answer's code (R349). -/
def priCause (code : BitVec 2) : Cause := if code.toNat ≤ 1 then .pageFault else .protection

theorem priResponse_of_none {s : State} {k : Nat} (h : ∀ r ∈ s.resolves, r.key = k → r.kind ≠ 2) (c : BitVec 2) :
    exec (.priResponse k c) s = .next s := by
  have none : s.resolves.find? (fun r => r.key == k && r.kind == 2) = none :=
    List.find?_eq_none.mpr (fun r hr => by simpa using h r hr)
  rw [exec_priResponse, execPriResponse, none]

theorem priResponse_of_single {s : State} {r : Resolve} (hs : s.resolves = [r]) (hr : r.kind = 2) (c : BitVec 2) :
    exec (.priResponse r.key c) s = .next (sendPris (resolved (s.withoutPri r.key) r (priCause c) (c ≠ 0))) := by
  have found : s.resolves.find? (fun x => x.key == r.key && x.kind == 2) = some r := by simp [hs, hr]
  rw [exec_priResponse, execPriResponse, found]
  rfl

/-! Bytes and granules (R356). -/

theorem repairGranules_eq (s : State) (plan : List (Nat × Loc)) :
    repairGranules s plan = { s with poison := s.poison.filter (fun g => !granuleCovered plan g) } := by
  unfold repairGranules
  split
  · next h => rw [List.isEmpty_iff.mp h, List.filter_nil, ← List.isEmpty_iff.mp h]
  · rfl

theorem repairGranules_frame (s : State) (plan : List (Nat × Loc)) :
    repairGranules s plan = { s with poison := (repairGranules s plan).poison } := by rw [repairGranules_eq]

/-- The bytes from `a` to `a + n` cover a granule. -/
theorem granuleCovered_range (a n g : Nat) :
    granuleCovered ((List.range n).map (fun k => (k, Loc.dev (a + k)))) g = true ↔ a ≤ 32 * g ∧ 32 * g + 32 ≤ a + n := by
  have covered : granuleCovered ((List.range n).map (fun k => (k, Loc.dev (a + k)))) g = true ↔ ∀ k < 32, ∃ j < n, a + j = g * 32 + k := by
    simp [granuleCovered, Loc.key]
  rw [covered]
  refine ⟨fun h => ?_, fun h k hk => ⟨g * 32 + k - a, by omega, by omega⟩⟩
  obtain ⟨j, hj, e⟩ := h 0 (by decide)
  obtain ⟨j', hj', e'⟩ := h 31 (by decide)
  omega

theorem mem_poison_repairGranules (s : State) (a n g : Nat) :
    g ∈ (repairGranules s ((List.range n).map (fun k => (k, Loc.dev (a + k))))).poison ↔
      g ∈ s.poison ∧ ¬ (a ≤ 32 * g ∧ 32 * g + 32 ≤ a + n) := by
  rw [repairGranules_eq, List.mem_filter, Bool.not_eq_true', ← Bool.not_eq_true, granuleCovered_range]

/-! Accesses of the host to HBM (R373 to R375). -/

/-- The bytes of an access, their number, and the state in which it is performed, with the L1s of the die written back. -/
def HostReq.len (r : HostReq) : Nat := if r.write then r.data.length else r.size
def HostReq.keys (r : HostReq) : List Nat := (List.range r.len).map (r.addr + ·)
def flushedFor (s : State) (r : HostReq) : State :=
  flushL1 (s.touchRows r.keys) (!r.write) (fun l => l.core / 128 == dieOf r.addr && l.meets r.keys)

theorem touchRows_frame (s : State) (keys : List Nat) : s.touchRows keys = { s with hits := (s.touchRows keys).hits } := by
  unfold State.touchRows; split <;> rfl

/-- Only the L1s, what they write back, and the counts of captured rows differ. -/
theorem flushedFor_frame (s : State) (r : HostReq) : flushedFor s r = { s with
    hits := (flushedFor s r).hits, mem := (flushedFor s r).mem, poison := (flushedFor s r).poison, l1 := (flushedFor s r).l1 } := by
  have frame : flushedFor s r = { s.touchRows r.keys with
      mem := (flushedFor s r).mem, poison := (flushedFor s r).poison, l1 := (flushedFor s r).l1 } := (flushL1_spec ..).1.1
  rw [touchRows_frame] at frame
  rw [frame]

section
variable {s : State} {r : HostReq}

theorem HostReq.any_isReserved_iff : r.keys.any (isReserved s) = true ↔ ∃ k < r.len, isReserved s (r.addr + k) = true := by
  simp [HostReq.keys]

theorem hostAccess_of_reserved (h : r.keys.any (isReserved s) = true) : hostAccess s r =
    if r.write then s.log (dieOf r.addr) 3 r.addr
    else (s.log (dieOf r.addr) 3 r.addr).send (.hostData false (List.replicate r.len 0)) := if_pos h

theorem hostAccess_of_wait (h : r.keys.any (isReserved s) = false) {w : TRes} (hw : hostWait s r.write r.addr r.len = some w) :
    hostAccess s r = { askFor s w with hostReqs := s.hostReqs ++ [r] } := by
  unfold hostAccess
  extract_lets a n keys logged u
  rw [if_neg (show ¬ keys.any (isReserved s) = true from Bool.eq_false_iff.mp h), show hostWait s r.write a n = some w from hw]

theorem hostAccess_write (h : r.keys.any (isReserved s) = false) (hw : hostWait s r.write r.addr r.len = none) (write : r.write = true) :
    hostAccess s r = repairGranules { flushedFor s r with mem := setBytes (flushedFor s r).mem r.addr r.data }
      ((List.range r.len).map (fun k => (k, Loc.dev (r.addr + k)))) := by
  unfold hostAccess
  extract_lets a n keys logged u
  rw [if_neg (show ¬ keys.any (isReserved s) = true from Bool.eq_false_iff.mp h), show hostWait s r.write a n = none from hw, if_pos write]
  rfl

/-- The state in which the lines of a read are recorded, and damage among its bytes is logged. -/
def readBy (s : State) (r : HostReq) : State :=
  recordLines (match r.keys.find? (flushedFor s r).bad with
    | some k => (flushedFor s r).log (dieOf r.addr) logUncorrectable k
    | none => flushedFor s r) (linesOf r.addr r.len)

theorem hostAccess_read (h : r.keys.any (isReserved s) = false) (hw : hostWait s r.write r.addr r.len = none) (read : r.write = false) :
    hostAccess s r = (readBy s r).send (.hostData (r.keys.any (flushedFor s r).bad) (memBytes (flushedFor s r).mem r.addr r.len)) := by
  unfold hostAccess readBy
  extract_lets a n keys logged u
  rw [if_neg (show ¬ keys.any (isReserved s) = true from Bool.eq_false_iff.mp h), show hostWait s r.write a n = none from hw,
    if_neg (Bool.eq_false_iff.mp read)]
  have any : r.keys.any (flushedFor s r).bad = (r.keys.find? (flushedFor s r).bad).isSome := by
    rw [Bool.eq_iff_iff, List.any_eq_true, List.find?_isSome]
  rw [any]
  change (match r.keys.find? (flushedFor s r).bad with | some k => _ | none => _) = _
  cases r.keys.find? (flushedFor s r).bad <;> rfl

/-- A read changes nothing but the lines recorded and the log. -/
theorem readBy_frame : readBy s r = { flushedFor s r with
    bidir := (readBy s r).bidir, biShared := (readBy s r).biShared, errLog := (readBy s r).errLog } := by
  unfold readBy; split <;> rfl

theorem readBy_mem : (readBy s r).mem = (flushedFor s r).mem := by rw [readBy_frame]

theorem readBy_strands : (readBy s r).strands = s.strands := by rw [readBy_frame, flushedFor_frame]; rfl

theorem readBy_out : (readBy s r).out = s.out := by rw [readBy_frame, flushedFor_frame]

theorem readBy_errLog (h : ∀ k ∈ r.keys, (flushedFor s r).bad k = false) : (readBy s r).errLog = s.errLog := by
  have none : r.keys.find? (flushedFor s r).bad = none := List.find?_eq_none.mpr (fun k hk => by simp [h k hk])
  rw [readBy, none, flushedFor_frame]; rfl

@[simp] theorem State.send_out (s : State) (o : Out) : (s.send o).out = s.out ++ [o] := rfl
@[simp] theorem State.send_strands (s : State) (o : Out) : (s.send o).strands = s.strands := rfl
@[simp] theorem State.send_bidir (s : State) (o : Out) : (s.send o).bidir = s.bidir := rfl
@[simp] theorem State.send_errLog (s : State) (o : Out) : (s.send o).errLog = s.errLog := rfl

theorem mem_bidir_recordLines {l : List Nat} {x : Nat} (h : x ∈ l) (s : State) : x ∈ (recordLines s l).bidir := by
  by_cases hx : x ∈ s.bidir
  · exact List.mem_append_left _ hx
  · exact List.mem_append_right _ (List.mem_filter.mpr ⟨h, by simpa using hx⟩)

theorem mem_linesOf {a n l : Nat} (hn : 0 < n) (h1 : a / 64 ≤ l) (h2 : l * 64 < a + n) : l ∈ linesOf a n := by
  rw [linesOf, if_neg (by omega)]
  exact List.mem_map.mpr ⟨l - a / 64, List.mem_range.mpr (by omega), by omega⟩

end

/-- HOST_CXL_MEM_ACCESS reaches HBM only, through a CXL port, once the device is READY. -/
theorem hostCxlMemAccess_eq (s : State) (w : Bool) (addr : BitVec 64) (size : Nat) (data : List Byte) :
    exec (.hostCxlMemAccess w addr size data) s =
      if s.cxlUp = false ∨ s.mstate ≠ 3 then .next s
      else if 2 ^ 39 ≤ addr.toNat ∨ 2 ^ 39 < addr.toNat + (⟨w, addr.toNat, size, data⟩ : HostReq).len then
        .next (s.log (addr.toNat / 2 ^ 37) 3 addr.toNat)
      else .next (hostAccess s ⟨w, addr.toNat, size, data⟩) := by
  rw [exec_hostCxlMemAccess, execHostCxlMemAccess]
  simp only [isHbm, Bool.or_eq_true, Bool.not_eq_true', decide_eq_true_eq, decide_eq_false_iff_not, Nat.not_lt]
  rfl

/-! Answers to the device's own snoops (R374, R375). -/

/-- The returned line is written, and it leaves the directory, or stays in it as shared after BISnpData. -/
def biAnswered (s : State) (l : Nat) (data : List Byte) : State :=
  let inv := s.out.contains (.biSnp true l)
  repairGranules { s with
    mem := setBytes s.mem (l * 64) (data.take 64)
    bidir := if inv then s.bidir.filter (· ≠ l) else s.bidir
    biShared := s.biShared.filter (· ≠ l) ++ (if inv then [] else [l])
    out := s.out.filter (fun o => o ≠ .biSnp true l && o ≠ .biSnp false l) }
    ((List.range (data.take 64).length).map (fun k => (k, Loc.dev (l * 64 + k))))

section
variable {s : State} {l : Nat} {data : List Byte}

theorem biAnswered_hostReqs : (biAnswered s l data).hostReqs = s.hostReqs := by rw [biAnswered, repairGranules_eq]

theorem biAnswered_mem : (biAnswered s l data).mem = setBytes s.mem (l * 64) (data.take 64) := by rw [biAnswered, repairGranules_eq]

theorem mem_bidir_biAnswered (k : Nat) : k ∈ (biAnswered s l data).bidir ↔ k ∈ s.bidir ∧ (k = l → Out.biSnp true l ∉ s.out) := by
  by_cases inv : Out.biSnp true l ∈ s.out <;> simp [biAnswered, repairGranules_eq, inv]

theorem mem_biShared_biAnswered (k : Nat) :
    k ∈ (biAnswered s l data).biShared ↔ if k = l then Out.biSnp true l ∉ s.out else k ∈ s.biShared := by
  by_cases inv : Out.biSnp true l ∈ s.out <;> by_cases h : k = l <;> simp [biAnswered, repairGranules_eq, inv, h]

theorem biSnp_not_mem_biAnswered (b : Bool) : Out.biSnp b l ∉ (biAnswered s l data).out := by
  cases b <;> simp [biAnswered, repairGranules_eq]

/-- The granules of a whole line that is returned are damaged no longer. -/
theorem mem_poison_biAnswered (len : data.length = 64) (g : Nat) : g ∈ (biAnswered s l data).poison ↔ g ∈ s.poison ∧ g / 2 ≠ l := by
  rw [biAnswered, mem_poison_repairGranules, List.length_take, len]
  exact and_congr_right fun _ => by omega

theorem backInvalidateResponse_of_none {line : BitVec 64} (h : Out.biSnp true (line.toNat / 64) ∉ s.out)
    (h' : Out.biSnp false (line.toNat / 64) ∉ s.out) : exec (.backInvalidateResponse line data) s = .next s :=
  (exec_backInvalidateResponse ..).trans (if_pos (by simp [h, h']))

theorem backInvalidateResponse_of_asked {line : BitVec 64}
    (h : Out.biSnp true (line.toNat / 64) ∈ s.out ∨ Out.biSnp false (line.toNat / 64) ∈ s.out) :
    exec (.backInvalidateResponse line data) s = .next (serveHostReqs (biAnswered s (line.toNat / 64) data)) :=
  (exec_backInvalidateResponse ..).trans (if_neg (by simpa [← imp_iff_not_or, or_iff_not_imp_left] using h))

end

/-! Ports (R12, R381). -/

/-- A port event changes its own bit. -/
theorem getLsbD_setPort {w : Nat} (x : BitVec w) (k : Nat) (up : Bool) {j : Nat} (hj : j < w) :
    (if up then x &&& ~~~(BitVec.ofNat w (2 ^ k)) else x ||| BitVec.ofNat w (2 ^ k)).getLsbD j = if j = k then !up else x.getLsbD j := by
  have bit : (BitVec.ofNat w (2 ^ k)).getLsbD j = decide (j = k) := by
    rw [BitVec.getLsbD_ofNat, Nat.testBit_two_pow]; simp [hj, eq_comm]
  cases up with
  | true => rw [if_pos rfl, BitVec.getLsbD_and, BitVec.getLsbD_not, bit]; by_cases h : j = k <;> simp [hj, h]
  | false => rw [if_neg Bool.false_ne_true, BitVec.getLsbD_or, bit]; by_cases h : j = k <;> simp [h]

/-! The obligation, clause by clause. -/

/-- Settles O42: what waits for a page request is marked, translations are dropped and answers given once nothing is under way, and an access of
the host has one of four outcomes. -/
theorem hostAnswersSnoopsAndAccesses : Obligations.HostAnswersSnoopsAndAccesses := by
  refine ⟨fun s k c h => priResponse_of_none h c, ?answered, ?snoops, ?response, ?access, ?mailbox, ?ports⟩
  case answered =>
    intro s r c hs hr
    obtain ⟨u, v, eq, told, marks, strands⟩ := resolved_spec (s.withoutPri r.key) hr (priCause c) (c ≠ 0)
    have wakes := onlyDrops_wakesFor v (fun x => x.key == r.key)
    rw [← eq] at wakes
    have resolves : v.resolves = [r] := by rw [told.resolves_eq, marks]; exact hs
    have ended : (resolved (s.withoutPri r.key) r (priCause c) (c ≠ 0)).resolves = [] := by
      rw [wakes.resolves_eq]; simp [resolves]
    refine ⟨_, (priResponse_of_single hs hr c).trans (by rw [sendPris_of_resolves_nil ended]), ended, by rw [resolved_mem]; rfl, ?_, ?_, ?_⟩
    · intro va x h
      refine pri_not_mem_withoutPri s r.key va x ?_
      have := told.mem_out (wakes.mem_out h (fun _ _ => nofun)) (fun _ _ => nofun)
      rwa [marks] at this
    · intro x hx who frame
      have hx' : x ∈ v.strands := by rw [wakes.strands_eq] at hx; exact hx
      rw [told.strands_eq, strands] at hx'
      obtain ⟨y, rfl⟩ := eq_answeredStrand_of_mem hx' who
      refine ⟨fun success => ?_, fun refused => ?_⟩
      · rw [decide_eq_false (not_not.mpr success)]
        exact mem_answered_of_success r (priCause c) y
      · rw [decide_eq_true refused] at frame ⊢
        refine ⟨fun e he fill state key trapped => fail_of_refused he ?_ trapped, mem_answered_of_refused (priCause c) frame⟩
        simpa [awaits, state, key] using fill
    · intro m hm hk
      rw [eq]
      refine faultWake_mem_due_wakesFor (p := fun x => x.key == r.key) (resolves ▸ List.mem_singleton_self r) (beq_self_eq_true _) ?_ hk
      rw [told.teams_eq, marks]; exact hm
  case snoops =>
    intro s line data a dropped answered
    refine ⟨fun h => ?_, fun up ready => ?_, fun d => ?_, ?ats, fun w len => ?_⟩
    case ats =>
      intro pasid host g hit parts
      have hn : 2 ^ 64 + line.toNat / 2 ^ 12 < 2 ^ 65 := by omega
      have addr : snoopAddr (2 ^ 64 + line.toNat / 2 ^ 12) = line.toNat / 4096 * 4096 := by
        rw [snoopAddr, if_neg (by omega), Nat.add_sub_cancel_left]; rfl
      have kept : ∀ e, e ∈ (pageRemapped s ⟨pasid, line, host⟩).atc ↔ e ∈ s.atc ∧ hit e = false := fun e =>
        List.mem_filter.trans (and_congr_right fun _ => Iff.of_eq (Bool.not_eq_true' _))
      by_cases ready : s.mstate = 3
      · have run := atsInvalidation_of_ready ready ⟨pasid, line, host⟩
        have only := onlyAnswers_answerOnce (pageRemapped s ⟨pasid, line, host⟩) (fun c => parts.contains (c.extractLsb' 16 6)) hn
        have reply := answered_answerOnce (pageRemapped s ⟨pasid, line, host⟩) (fun c => parts.contains (c.extractLsb' 16 6)) hn
        rw [addr] at reply
        exact ⟨_, run, only.mem_eq, only.strands_eq, only.tlb_eq, only.iommu_eq, fun e => only.atc_eq ▸ kept e,
          fun h => absurd ready h, fun _ => reply⟩
      · exact ⟨_, atsInvalidation_of_not_ready ready _, rfl, rfl, rfl, rfl, kept, fun _ => rfl, fun h => absurd h ready⟩
    · rw [exec_hostTableSnoop, execHostTableSnoop, if_pos (by simpa using h)]
    · have only := onlyAnswers_answerOnce (tableWritten s a data) (usedBy s (s.tlb.filter (dependsOn s a))) (show a < 2 ^ 65 by omega)
      obtain ⟨gone, kept⟩ := dropped_dropLine s a
      rw [← tableWritten_tlb s a data, ← only.tlb_eq] at gone kept
      exact ⟨_, hostTableSnoop_eq up ready line data, only.mem_eq.trans (tableWritten_mem s a data),
        ⟨gone, kept, only.strands_eq.trans (tableWritten_strands s a data)⟩, answered_tableWritten s a data _ (by omega)⟩
    · have drops := onlyDrops_dropWalk s d a
      obtain ⟨gone, kept⟩ := dropped_dropWalk s d a
      exact ⟨_, exec_walkerLineEviction .., drops.mem_eq, gone, kept, drops.strands_eq⟩
    · obtain ⟨inside, outside⟩ := memByte_written_line w len (hostKey a)
      exact ⟨_, hostSnoop_eq s line data, rfl, inside, outside⟩
  case response =>
    intro s line data l
    refine ⟨backInvalidateResponse_of_none, fun asked => ⟨biAnswered s l data, backInvalidateResponse_of_asked asked, biAnswered_hostReqs,
      biAnswered_mem, ?_, ?_, mem_poison_biAnswered, biSnp_not_mem_biAnswered, fun k hk => ⟨?_, ?_⟩⟩⟩
    · simp [mem_bidir_biAnswered]
    · simp [mem_biShared_biAnswered]
    · simp [mem_bidir_biAnswered, hk]
    · simp [mem_biShared_biAnswered, hk]
  case access =>
    intro s w addr size data a n keys res u run served
    let r : HostReq := ⟨w, a, size, data⟩
    have reserved : r.keys.any (isReserved s) = true ↔ res := HostReq.any_isReserved_iff
    have free : ¬ res → r.keys.any (isReserved s) = false := fun h => Bool.eq_false_iff.mpr (mt reserved.mp h)
    have hrun : run = _ := hostCxlMemAccess_eq s w addr size data
    have go : served → run = .next (hostAccess s r) := fun ⟨up, ready, h1, h2⟩ => by
      rw [hrun, if_neg (by simp [up, ready]), if_neg (by rw [not_or, Nat.not_le, Nat.not_lt]; exact ⟨h1, h2⟩)]
    refine ⟨fun h => ?_, fun up ready h => ?_, fun on h => ?_, fun on h x hx => ?_, fun on h hx write => ?_, fun on h hx read pos => ?_⟩
    · exact hrun.trans (if_pos h)
    · exact hrun.trans ((if_neg (by simp [up, ready])).trans (if_pos h))
    · exact (go on).trans (congrArg _ (hostAccess_of_reserved (reserved.mpr h)))
    · exact (go on).trans (congrArg _ (hostAccess_of_wait (free h) hx))
    · exact ⟨_, (go on).trans (congrArg _ (hostAccess_write (free h) hx write)), repairGranules_frame .., mem_poison_repairGranules _ a n⟩
    · refine ⟨_, (go on).trans (congrArg _ (hostAccess_read (free h) hx read)), (State.send_mem ..).trans readBy_mem,
        (State.send_strands ..).trans readBy_strands, fun l h1 h2 => ?_, ?_, fun good => (State.send_errLog ..).trans (readBy_errLog good)⟩
      · rw [State.send_bidir]; exact mem_bidir_recordLines (mem_linesOf pos h1 h2) _
      · rw [State.send_out, readBy_out]; rfl
  case mailbox =>
    intro s h m x
    refine ⟨fun ok => ?_, fun ok => ?_⟩ <;> rw [exec_hostMailboxWrite, execHostMailboxWrite, ok] <;> rfl
  case ports =>
    intro s p q up
    exact ⟨⟨_, exec_hostPortDown .., rfl, fun j hj => getLsbD_setPort s.portsDown p.toNat up hj⟩,
      ⟨_, exec_ualinkPortDown .., rfl, fun j hj => getLsbD_setPort s.ualDown q.toNat up hj⟩⟩

end Sys2Proof.Machine
end

section
/-! The state after reset (R24, R359, R368, R408), with the obligation O55. -/

namespace Sys2Proof.Machine

/-- Registers that are kept as the difference from their reset values read those after reset. -/
theorem bar_reset (off : Nat) : State.reset.bar off = barReset off := BitVec.zero_xor
theorem pcbReg_reset (p off : Nat) : State.reset.pcbReg p off = pcbReset off := BitVec.zero_xor
theorem walkProf_reset (n : Nat) : State.reset.walkProf n = walkReset n := BitVec.zero_xor

/-- DOMMAP entries have a reset value of their own (R408). -/
theorem barReset_dommap {n : Nat} (h : n < 1024) : barReset (0x8000 + 8 * n) = 0xFF00 := by
  have ne : ¬ 0x8000 + 8 * n = 0x2100 := by omega
  have lt : 0x8000 + 8 * n < 0xA000 := by omega
  simp [barReset, ne, lt]

theorem sc_default (r : BitVec 6) : ({} : Strand).sc r = 0 := ite_self 0

/-- Settles O55: nothing is listed after reset, so every read gives what an unlisted entry reads as. -/
theorem resetLeavesTheMachineReady : Obligations.ResetLeavesTheMachineReady := by
  refine ⟨rfl, rfl, rfl, rfl, rfl, rfl, rfl, rfl, rfl, rfl, rfl, rfl, rfl, rfl, ?strands, fun i => rfl, fun n => rfl, rfl, rfl,
    fun n h => (bar_reset _).trans (barReset_dommap h), walkProf_reset 0, walkProf_reset 1,
    fun p _ => ⟨pcbReg_reset .., pcbReg_reset .., pcbReg_reset .., pcbReg_reset .., pcbReg_reset ..⟩,
    rfl, rfl, sc_default, fun n => rfl, fun n => rfl, rfl, rfl, fun a => rfl⟩
  case strands => exact List.forall_mem_singleton.mpr rfl

end Sys2Proof.Machine
end

section
/-! The words that manage contexts (R24, R254, R258 to R263), with the obligation O13. -/

namespace Sys2Proof.Machine

variable {s : State}

/-- A privileged word is PRIVILEGE in the user view, whatever its operands (R97, R253). -/
theorem fateOf_of_user {i : Instr} (priv : isPrivileged i = true) (view : s.cs.p = false) (kind : s.cs.unit.badKind = false) :
    fateOf s i = some .privilege := by
  simp [fateOf, fateWith, priv, kind, Strand.priv, view]

/-- A context is busy where it is READY or RUNNING (R262). -/
theorem Ctx.busy_iff {c : Ctx} : c.busy = true ↔ c.state = .ready ∨ c.state = .running := by
  simp [Ctx.busy]

theorem Ctx.busy_of_not {c : Ctx} (h : ¬ (c.state = .ready ∨ c.state = .running)) : c.busy = false :=
  Bool.eq_false_iff.mpr (mt Ctx.busy_iff.mp h)

theorem Ctx.busy_of_away {c : Ctx} (h : c.state = .parked ∨ c.state = .swapped) : c.busy = false :=
  Ctx.busy_of_not (by rcases h with h | h <;> simp [h])

/-- A BIND value is bad where a reserved bit is set (R260). -/
theorem not_bindOk_iff {x : Dword} : (!bindOk x) = true ↔ x.toNat / 4 % 1024 ≠ 0 := by simp [bindOk]

section
variable {i : Instr} {a : BitVec 6} {f : State → Word → Act} (issues : Issues i s)
include issues

/-- A word that names a context traps with the handle where that fails its checks (R24, R254). -/
theorem contextWord_of_fault {c : Cause} (h : handleFault s.begun ((s.cs.sc a).setWidth 32) = some c) :
    contextWord i a f s = .next (s.trapped i c (((s.cs.sc a).setWidth 32 : Word).setWidth 64)) := by
  refine congrArg Host.Outcome.next (issue_trap issues ?_)
  dsimp only
  rw [show s.begun.cs.sc a = s.cs.sc a from rfl, h]

variable (ok : handleFault s.begun ((s.cs.sc a).setWidth 32) = none)
include ok

/-- A word that names a context by a good handle has its effect. -/
theorem contextWord_of_effect {r : Act} (effect : f s.begun ((s.cs.sc a).setWidth 32) = r) :
    contextWord i a f s = .next (issue i s (fun _ => r)) := by
  refine congrArg Host.Outcome.next ?_
  rw [issue_of_issues issues, issue_of_issues issues]
  dsimp only
  rw [show s.begun.cs.sc a = s.cs.sc a from rfl, ok, effect]

theorem contextWord_ok {t : State} (effect : f s.begun ((s.cs.sc a).setWidth 32) = .ok t) :
    contextWord i a f s = .next (s.completes t) :=
  (contextWord_of_effect issues ok effect).trans (congrArg Host.Outcome.next (issue_ok issues rfl))

theorem contextWord_okNoSig {t : State} (effect : f s.begun ((s.cs.sc a).setWidth 32) = .okNoSig t) :
    contextWord i a f s = .next t :=
  (contextWord_of_effect issues ok effect).trans (congrArg Host.Outcome.next (issue_okNoSig issues rfl))

theorem contextWord_trap {c : Cause} {x : Dword} (effect : f s.begun ((s.cs.sc a).setWidth 32) = .trap c x) :
    contextWord i a f s = .next (s.trapped i c x) :=
  (contextWord_of_effect issues ok effect).trans (congrArg Host.Outcome.next (issue_trap issues rfl))

end

section
variable {d a : BitVec 6} (issues : Issues (.ctxnew d a) s)
include issues

theorem execCtxnew_of_misaligned (al : (s.cs.sc a).toNat % 32 ≠ 0) :
    execCtxnew d a s = .next (s.trapped (.ctxnew d a) .misaligned (s.cs.sc a)) := by
  refine congrArg Host.Outcome.next (issue_trap issues (if_pos ?_))
  exact congrArg not (decide_eq_false al)

variable (al : (s.cs.sc a).toNat % 32 = 0) {t : State} {imgs : List Vec}
  (read : mtxAccess s.begun s.cs.unit s.cs.p (readReq (s.cs.sc a) 32) = .data t imgs)
include al read

/-- `ctxnew` with a record outside the limits traps, the reading done (R260). -/
theorem execCtxnew_of_bad_record (bad : ctxRecordOk ((imgs.headD 0).setWidth 256) = false) :
    execCtxnew d a s = .next (t.trap .illegalField (s.cs.sc a) [] []) := by
  have al' : aligned (s.begun.cs.sc a) 32 = true := decide_eq_true al
  have read' : mtxAccess s.begun s.begun.cs.unit s.begun.cs.p (readReq (s.begun.cs.sc a) 32) = .data t imgs := read
  rw [execCtxnew, issue_of_issues issues]
  simp only [al', read', bad, Bool.not_true, Bool.not_false, Bool.false_eq_true, if_false, if_true]
  rfl

/-- `ctxnew` with a legal record makes a context in the lowest free entry of the die, or answers 0 (R260). -/
theorem execCtxnew_of_record (good : ctxRecordOk ((imgs.headD 0).setWidth 256) = true) :
    execCtxnew d a s = .next (s.completes (match freeEntry t (recField ((imgs.headD 0).setWidth 256) 0xA 1) with
      | none => t.result d 0
      | some e => let n := newContext t ((imgs.headD 0).setWidth 256) t.cs.part e
        n.result d (((n.entry e).handle e).setWidth 64))) := by
  have al' : aligned (s.begun.cs.sc a) 32 = true := decide_eq_true al
  have read' : mtxAccess s.begun s.begun.cs.unit s.begun.cs.p (readReq (s.begun.cs.sc a) 32) = .data t imgs := read
  refine congrArg Host.Outcome.next (issue_ok issues ?_)
  simp only [al', read', good, Bool.not_true, Bool.false_eq_true, if_false]
  cases freeEntry t (recField ((imgs.headD 0).setWidth 256) 0xA 1) <;> rfl

end

/-- Settles O13: every such word is `contextWord` with its effect, and `ctxnew` reads its record first. -/
theorem contextWordsComplete : Obligations.ContextWordsComplete := by
  intro s d a b h ok i x c away
  simp only [exec_wakehint, execWakehint, exec_ctxqSt, execCtxqSt, exec_ctxqWake, execCtxqWake, exec_ctxqTiers, execCtxqTiers, exec_ctxnew,
    exec_ctxfree, execCtxfree, exec_ctxsetPrio, execCtxsetPrio, exec_ctxsetBind, execCtxsetBind, exec_kill, execKill]
  refine ⟨?user, ?stale, ?wakehint, ?st, ?wake, ?hint, ?tiers, ?free, ?freeBusy, ?prio, ?prioLarge, ?bind, ?bindBusy, ?bindBad,
    execCtxnew_of_misaligned, ?newContext, fun n al t imgs read bad => execCtxnew_of_bad_record n al read bad, ?killOther, ?killOwn⟩
  case user => exact fun view kind => ⟨fateOf_of_user rfl view kind, fateOf_of_user rfl view kind, fateOf_of_user rfl view kind,
    fateOf_of_user rfl view kind, fateOf_of_user rfl view kind⟩
  case stale => exact fun f hf => ⟨fun n => contextWord_of_fault n hf, fun n => contextWord_of_fault n hf, fun n => contextWord_of_fault n hf,
    fun n => contextWord_of_fault n hf, fun n => contextWord_of_fault n hf, fun n => contextWord_of_fault n hf,
    fun n => contextWord_of_fault n hf, fun n => contextWord_of_fault n hf⟩
  case wakehint => exact fun n ok => contextWord_ok n ok rfl
  case st => exact fun n ok => contextWord_ok n ok rfl
  case wake =>
    intro n ok gone
    have gone' : (c.state == .parked || c.state == .swapped) = true := by simpa [away] using gone
    exact contextWord_ok n ok (by simp only [c, i, h] at gone'; simp only [gone', if_true]; rfl)
  case hint =>
    intro n ok here
    have here' : (c.state == .parked || c.state == .swapped) = false := by simpa [away] using here
    exact contextWord_ok n ok (by simp only [c, i, h] at here'; simp only [here', Bool.false_eq_true, if_false, BitVec.ofNat_toNat]; rfl)
  case tiers => exact fun n ok => contextWord_ok n ok rfl
  case free => exact fun n ok idle => contextWord_ok n ok (if_neg (Bool.eq_false_iff.mp (Ctx.busy_of_not idle)))
  case freeBusy => exact fun n ok busy => contextWord_ok n ok (if_pos (Ctx.busy_iff.mpr busy))
  case prio => exact fun n ok lt => contextWord_ok n ok (if_neg (Nat.not_le.mpr lt))
  case prioLarge => exact fun n ok ge => contextWord_trap n ok (if_pos ge)
  case bind =>
    exact fun n ok good gone => contextWord_ok n ok
      ((if_neg (mt not_bindOk_iff.mp (not_not.mpr good))).trans (if_neg (Bool.eq_false_iff.mp (Ctx.busy_of_away gone))))
  case bindBusy =>
    exact fun n ok good busy => contextWord_ok n ok
      ((if_neg (mt not_bindOk_iff.mp (not_not.mpr good))).trans (if_pos (Ctx.busy_iff.mpr busy)))
  case bindBad => exact fun n ok bad => contextWord_trap n ok (if_pos (not_bindOk_iff.mpr bad))
  case newContext =>
    refine fun n al t imgs read good => ⟨fun e he => ?_, fun none => ?_⟩
    · rw [execCtxnew_of_record n al read good, he]
    · rw [execCtxnew_of_record n al read good, none]
  case killOther => exact fun n ok other => contextWord_ok n ok (if_neg other)
  case killOwn => exact fun n ok own => contextWord_okNoSig n ok (if_pos own)

end Sys2Proof.Machine
end

section
/-! Engine queues, and what fetch does with the word that it reads (R34, R86, R96, R97, R127, R131, R343), with the obligation O34. -/

namespace Sys2Proof.Machine

/-! Engine queues (R34). -/

@[simp] theorem Queues.get_set_self (q : Queues) (e : Eng) (l : List QItem) : (q.set e l).get e = l := by cases e <;> rfl

theorem Queues.get_set_of_ne (q : Queues) {e e' : Eng} (l : List QItem) (h : e' ≠ e) : (q.set e l).get e' = q.get e' := by
  cases e <;> cases e' <;> trivial

/-- Two writes of a queue are the later one. -/
@[simp] theorem Queues.set_set (q : Queues) (e : Eng) (l l' : List QItem) : (q.set e l).set e l' = q.set e l' := by cases e <;> rfl

/-- A queue written as it stands changes nothing. -/
@[simp] theorem Queues.set_get (q : Queues) (e : Eng) : q.set e (q.get e) = q := by cases e <;> rfl

/-! Patch entries (R96, R110). -/

@[simp] theorem applyPatch_taddr (u : EUnit) (width flags : Byte) (raw : Dword) : (applyPatch u width flags raw).taddr = u.taddr := by
  unfold applyPatch
  repeat' split
  all_goals rfl

@[simp] theorem applyPatch_addr (u : EUnit) (width flags : Byte) (raw : Dword) : (applyPatch u width flags raw).addr = u.addr := by
  unfold applyPatch
  repeat' split
  all_goals rfl

/-- Patch entries leave a unit where it stands. -/
@[simp] theorem patchUnit_taddr (m : Team) (u : EUnit) : (patchUnit m u).taddr = u.taddr := by
  refine List.foldlRecOn (motive := fun x : EUnit => x.taddr = u.taddr) _ _ rfl (fun v hv x _ => ?_)
  dsimp only
  split
  · rw [applyPatch_taddr, hv]
  · split <;> exact hv

/-- Without patch entries a unit is as it was fetched. -/
theorem patchUnit_of_patches_nil {m : Team} (h : m.hdr.patches = []) (u : EUnit) : patchUnit m u = u := by simp [patchUnit, h]

/-- The target of a unit is the word at the fetch address. -/
@[simp] theorem buildUnit_taddr (s : State) (w : Word) : (buildUnit s w).taddr = s.cs.pc := by simp [buildUnit]

/-! Where a fetched word goes. -/

/-- The unit `u` stands last in the queue of its engine, and fetch has moved past it. -/
def State.appended (s : State) (u : EUnit) : State :=
  passUnit (s.onCs (fun t => { t with q := t.q.set (engOf u.word) (t.q.get (engOf u.word) ++ [.unit u]) })) u

section
variable {s : State} {w : Word}

/-- An EXT word is latched (R86). -/
theorem splitWord_of_ext (h : engineOf w = 7) : splitWord s w = latchExt w s := if_pos h

section
variable (eng : engineOf w < 6) (follow : engineOf w = 3 → needsFollow s.cs.q.xfer = false)
include eng follow

/-- A word of an engine, no follow-on, goes to its queue if that has a slot (R34). -/
theorem splitWord_of_engine : splitWord s w =
    if 16 ≤ queueLength (s.cs.q.get (engOf (buildUnit s w).word)) then s else s.appended (buildUnit s w) := by
  have noFollow : ¬ (engineOf w = 3 && needsFollow s.cs.q.xfer) = true := by
    rw [Bool.and_eq_true, decide_eq_true_eq]
    exact fun ⟨h3, h⟩ => Bool.eq_false_iff.mp (follow h3) h
  rw [splitWord, if_neg (by omega), if_neg (by omega), if_neg noFollow]
  rfl

end

/-- Fetch moves past a unit by 4 where no loop is open (R131). -/
theorem passUnit_pc_of_loops_nil {u : EUnit} (h : s.cs.loops = []) : (passUnit s u).cs.pc = u.taddr + 4 := by
  simp [passUnit, h, backEdge]

theorem execFetchWord_of_word {t : State} (go : s.cs.fetches = true) (read : fetchRead s = .word t w) :
    execFetchWord s = .next (splitWord t w) := by
  simp [execFetchWord, go, read]

end

/-- Settles O34: FETCH_WORD is `fetchRead`, and then `splitWord` of the word that it gives. -/
theorem fetchAppendsOneUnit : Obligations.FetchAppendsOneUnit := by
  refine ⟨fun s stopped => ?stopped, fun s t w go read eng follow => ⟨fun full => ?full, fun slot => ?slot⟩,
    fun s t go read => ?wait, fun s t c go read => ?fault⟩
  case stopped => simp [execFetchWord, stopped]
  case full => rw [exec_fetchWord, execFetchWord_of_word go read, splitWord_of_engine eng follow, if_pos full]
  case slot =>
    refine ⟨t.appended (buildUnit t w), by rw [exec_fetchWord, execFetchWord_of_word go read, splitWord_of_engine eng follow, if_neg (Nat.not_le.mpr slot)],
      ?_, fun e' other => ?_, rfl, rfl, rfl, rfl, rfl, fun noLoop => ?_, fun noPatch => ?_⟩
    · exact Queues.get_set_self ..
    · exact Queues.get_set_of_ne _ _ other
    · exact (passUnit_pc_of_loops_nil noLoop).trans (congrArg (· + 4) (buildUnit_taddr t w))
    · rw [buildUnit, patchUnit_of_patches_nil noPatch]
      simp [List.isEmpty_iff]
  case wait => simp [execFetchWord, go, read]
  case fault => simp [execFetchWord, go, read, State.trapFetch]

end Sys2Proof.Machine
end

section
/-! Prefix words and JOIN (R45, R86, R87, R230), with the obligation O33. -/

namespace Sys2Proof.Machine

variable {s : State}

/-! Prefix words. -/

/-- The EXT word that is fetched stands at the end address of the innermost loop, or an earlier one of the unit did (R131). -/
def Strand.spoils (t : Strand) : Bool :=
  (!t.pfx.words.isEmpty && t.pfx.loopBad) || match t.loops with
    | l :: _ => l.stop == t.pc
    | [] => false

/-- A latched word is the last of the coming unit's, whose first address it gives where none stands yet (R86). -/
theorem latchExt_eq (w : Word) (s : State) : latchExt w s = s.onCs (fun t => { t with
    hangTimer := 0, pc := t.pc + 4
    pfx := { addr := if t.pfx.words = [] then t.pc else t.pfx.addr, words := t.pfx.words ++ [w], loopBad := s.cs.spoils } }) := by
  unfold latchExt State.onCs Strand.spoils
  cases h : s.cs.pfx.words <;> simp [h, Strand.progress] <;> rfl

theorem spoils_of_loops_nil {t : Strand} (h : t.loops = []) : t.spoils = (!t.pfx.words.isEmpty && t.pfx.loopBad) := by
  simp [Strand.spoils, h]

/-! JOIN. -/

/-- A queue after one item has gone to the end of each queue of a list. -/
theorem get_foldl_append (x : QItem) (l : List Eng) (once : l.Nodup) (q : Queues) (e : Eng) :
    (l.foldl (fun q e => q.set e (q.get e ++ [x])) q).get e = if e ∈ l then q.get e ++ [x] else q.get e := by
  induction l generalizing q with
  | nil => rfl
  | cons a l ih =>
    obtain ⟨new, once⟩ := List.nodup_cons.mp once
    rw [List.foldl_cons, ih once]
    by_cases h : e = a
    · subst h
      rw [if_neg new, if_pos (List.mem_cons_self ..), Queues.get_set_self]
    · simp [Queues.get_set_of_ne _ _ h, h]

/-- A JOIN word names the queues whose bits it has set (R45). -/
theorem mem_joinNames {w : Word} {e : Eng} : e ∈ joinNames w ↔ w.getLsbD (21 - e.num) = true := by
  cases e <;> simp [joinNames, Eng.all]

theorem joinNames_nodup (w : Word) : (joinNames w).Nodup := List.Nodup.filter _ (by decide)

/-- A JOIN that nothing keeps from it puts its marker into every queue it names (R45). -/
theorem joinUnit_of_free {w : Word} (sound : joinFate s w = none) (free : s.cs.tokHolds s.cs.unit = false) :
    joinUnit w s = s.begun.onCs (fun t => { t with q := (joinNames w).foldl (fun q e => q.set e (q.get e ++ [.joinMark s.cs.unit])) t.q }) := by
  have ready : queuesReady {} s.cs = true := by simp [queuesReady, Roles.pops, Roles.pushes, Roles.fields, Strand.qready]
  simp only [joinUnit, issueWith, sound, free, queuesHold_none, ready]
  rfl

/-- The queues that a `join` names are those of its fields (R45). -/
theorem mem_joinNames_join {c a v m k x : BitVec 1} {e : Eng} : e ∈ joinNames (encode (.join c a v m k x)) ↔
    match e with
      | .ctrl => c = 1 | .acc => a = 1 | .vec => v = 1 | .mtx => m = 1 | .sfu => k = 1 | .xfer => x = 1 := by
  rw [mem_joinNames]
  revert c a v m k x
  cases e <;> decide

/-- A strand stays of its team when writes settle and when it signals. -/
theorem settlePend_ids (sfu : Bool) (c : Nat) (t : Strand) : (t.settlePend sfu c).team = t.team ∧ (t.settlePend sfu c).sid = t.sid := by
  obtain ⟨e, fl, h⟩ := settlePend_eq sfu c t
  rw [h]
  split <;> exact ⟨rfl, rfl⟩

theorem settleWrites_ids (t : Strand) (names : List Eng) : (t.settleWrites names).team = t.team ∧ (t.settleWrites names).sid = t.sid := by
  unfold Strand.settleWrites
  dsimp only
  split <;> split <;> simp [settlePend_ids]

theorem signal_ids (t : Strand) (g : Option (BitVec 4)) : (t.signal g).team = t.team ∧ (t.signal g).sid = t.sid := by
  obtain ⟨e, h⟩ := signal_e t g
  rw [h]
  exact ⟨rfl, rfl⟩

/-- The strand as a JOIN releases it: its markers are out, the writes it covers are in place, and it has signalled (R45). -/
def Strand.joinReleased (u : EUnit) (t : Strand) : Strand :=
  (({ t with hangTimer := 0, q := t.q.dropMarks u.seq }).settleWrites (joinNames u.word)).signal u.sig

theorem faultedOp_joinReleased (s : State) (u : EUnit) : faultedOp (s.onCs (Strand.joinReleased u)) = faultedOp s := by
  simp only [faultedOp, State.onCs_ops, State.onCs_cs, Strand.joinReleased, signal_ids, settleWrites_ids]

/-- A release without a fault to report changes the strand alone (R45, R230). -/
theorem execJoinRelease_of_sound {u : EUnit} (ready : joinReady s.cs = some u) (sound : faultedOp s = none ∨ u.word.getLsbD 16 = false) :
    execJoinRelease s = .next (s.onCs (Strand.joinReleased u)) := by
  have named : (joinNames u.word).contains .xfer = u.word.getLsbD 16 := by
    rw [Bool.eq_iff_iff, List.contains_iff_mem, mem_joinNames]; rfl
  have noFault : (if (joinNames u.word).contains .xfer then faultedOp (s.onCs (Strand.joinReleased u)) else none) = none := by
    rw [named, faultedOp_joinReleased]
    rcases sound with h | h
    · rw [h, ite_self]
    · rw [h, if_neg Bool.false_ne_true]
  rw [execJoinRelease, ready]
  dsimp only
  split
  · rfl
  · next o found => exact absurd (noFault.symm.trans found) (Option.some_ne_none o).symm

/-- Settles O33: a word that precedes its target is `latchExt` of its encoding, JOIN is `joinUnit`, and the release is an update of the strand. -/
theorem prefixesAndJoinAct : Obligations.PrefixesAndJoinAct := by
  refine ⟨fun s i k o c e f m w g z x y b t n => ?latched, fun s c a v m k x => ?join, fun s none => ?idle,
    fun s u ready sound => ?release⟩
  case latched =>
    have latched : ∀ w : Word, ∃ bad : Bool, latchExt w s = s.onCs (fun t => { t with
        hangTimer := 0, pc := t.pc + 4
        pfx := { addr := if t.pfx.words = [] then t.pc else t.pfx.addr, words := t.pfx.words ++ [w], loopBad := bad } }) ∧
        (s.cs.loops = [] → bad = (!s.cs.pfx.words.isEmpty && s.cs.pfx.loopBad)) :=
      fun w => ⟨s.cs.spoils, latchExt_eq w s, spoils_of_loops_nil⟩
    simp only [exec_extImm, exec_extOrd, exec_extTok, exec_extStall, exec_extMask, exec_extInd, execExtImm, execExtOrd, execExtTok,
      execExtStall, execExtMask, execExtInd, Host.Outcome.next.injEq]
    exact ⟨latched _, latched _, latched _, latched _, latched _, latched _⟩
  case join =>
    intro i names sound free
    refine ⟨_, (exec_join ..).trans (congrArg Host.Outcome.next (joinUnit_of_free sound free)), fun e => ?_⟩
    have queue := get_foldl_append (.joinMark s.cs.unit) (joinNames (encode i)) (joinNames_nodup _) s.cs.q e
    have named : e ∈ joinNames (encode i) ↔ names e := mem_joinNames_join
    exact ⟨fun h => queue.trans (if_pos (named.mpr h)), fun h => queue.trans (if_neg (mt named.mp h))⟩
  case idle => rw [exec_joinRelease, execJoinRelease, none]
  case release => exact (exec_joinRelease s).trans (execJoinRelease_of_sound ready sound)

end Sys2Proof.Machine
end

section
/-! A step of the stepping strand at its turn (R33 to R36, R45, R77), with the obligation O56. -/

namespace Sys2Proof.Machine

variable {s : State}

/-! A JOIN word as it is decoded. -/

/-- A decoded word of engine JOIN is a `join` that encodes to the word (R45, R97). -/
theorem exec_of_decode_join {w : Word} {i : Instr} (eng : engineOf w = 6) (ok : decode w = .ok i) (s : State) :
    exec i s = .next (joinUnit w s) := by
  unfold decode at ok
  rw [eng] at ok
  simp only [decodeJoin] at ok
  split at ok
  case h_2 => cases ok
  next op =>
    split at ok
    case isFalse => cases ok
    next low =>
      obtain rfl := Except.ok.inj ok
      rw [exec_join, execJoin]
      congr 2
      apply BitVec.eq_of_toNat_eq
      simp only [engineOf, opcodeOf, fldN, beq_iff_eq] at eng op low
      have := w.isLt
      simp only [fld, BitVec.toNat_ofNat]
      omega

/-! Turns and clocks. -/

/-- The state that a step at the strand's turn starts from. -/
def State.nextTurn (s : State) : State := { s with turn := (s.turn + 1) % 8 }

/-- At turn 7 a live strand takes its step (R33). -/
theorem step_of_turn (up : s.mstate ≠ 7) (turn : s.turn % 8 = 7) (live : s.cs.live = true) {t : State}
    (h : strandStep s.nextTurn = .next t) : step s = .next (advanceClocks t) := by
  rw [step, if_neg up, turn]
  rw [show pickStep _ 7 = strandStep s.nextTurn by simp [pickStep, live, State.nextTurn], h]

/-- A strand whose head units do not issue fetches. -/
theorem strandStep_of_fetch (live : s.cs.live = true) (idle : s.cs.headUnits = []) (go : s.cs.fetches = true) {s1 t : State} {w : Word}
    (read : fetchRead s = .word s1 w) (took : takeWord s1 w = (.next t, true)) : strandStep s = .next t := by
  simp only [strandStep, live, idle, issueHeads, fetchStep, go, read, took]
  rfl

theorem strandStep_of_head (live : s.cs.live = true) {l : List (Eng × EUnit)} (heads : s.cs.headUnits = l) {t : State}
    (issued : issueHeads l s = (.next t, true)) : strandStep s = .next t := by
  simp only [strandStep, live, heads, issued]
  rfl

/-! The issue of a head unit. -/

/-- The state in which the head unit `u` of queue `e` runs: it has left the queue, and the engine has served its strand (R33). -/
def State.runs (s : State) (e : Eng) (u : EUnit) : State := (s.serves e).onCs (fun t => { t with unit := u })

/-- The unit `u` stands at the head of queue `e` again, and its engine has not served the strand. -/
def State.putBack (s t : State) (e : Eng) (u : EUnit) : State :=
  ({ t with served := s.served } : State).onCs (fun c => { c with
    q := c.q.set e (.unit u :: c.q.get e), unit := s.cs.unit, held := false, resume := s.cs.resume, hangTimer := s.cs.hangTimer })

theorem issueUnit_of_exec {e : Eng} {u : EUnit} {i : Instr} {t : State} (skip : u.skip = none) (ok : decode u.word = .ok i)
    (run : exec i (s.runs e u) = .next t) :
    issueUnit s e u = if t.cs.held then (.next (s.putBack t e u), false) else (.next t, true) := by
  have ran : runUnit u (s.serves e) = .next t := by simp only [runUnit, skip, ok]; exact run
  rw [issueUnit, ran]
  rfl

/-- The first of the head units issues where nothing holds it. -/
theorem issueHeads_of_exec {e : Eng} {u : EUnit} {l : List (Eng × EUnit)} {i : Instr} {t : State} (skip : u.skip = none)
    (ok : decode u.word = .ok i) (may : mayIssue s e u = true) (free : engineTaken s e = false) (run : exec i (s.runs e u) = .next t)
    (issued : t.cs.held = false) : issueHeads ((e, u) :: l) s = (.next t, true) := by
  rw [issueHeads, may, free, issueUnit_of_exec skip ok run, issued]
  rfl

/-! The issue of a fetched word. -/

theorem takeWord_of_ext {w : Word} {i : Instr} (eng : engineOf w = 7) (ok : decode w = .ok i) : takeWord s w = (exec i s, true) := by
  rw [takeWord, if_pos eng, ok]

/-- A word that is alone in the queue of its engine is issued at once where nothing holds it. -/
theorem takeWord_of_alone {w : Word} {u : EUnit} (eng : engineOf w ≠ 7) (taken : (splitWord s w).nextSeq ≠ s.nextSeq)
    (alone : (splitWord s w).cs.q.get (engOf w) = [.unit u]) (place : u.seq = s.nextSeq) (may : mayIssue (splitWord s w) (engOf w) u = true)
    (free : engineTaken (splitWord s w) (engOf w) = false) :
    takeWord s w = ((issueUnit (splitWord s w) (engOf w) u).1, true) := by
  simp only [takeWord, if_neg eng, alone, place, may, free, bne_iff_ne.mpr taken]
  rfl

/-- A word that leaves no unit alone in its queue issues in no step of its own. -/
theorem takeWord_of_no_unit {w : Word} (eng : engineOf w ≠ 7) (none : ∀ u, (splitWord s w).cs.q.get (engOf w) ≠ [.unit u]) :
    takeWord s w = (.next (splitWord s w), (splitWord s w).nextSeq != s.nextSeq) := by
  rw [takeWord, if_neg eng]
  dsimp only
  split
  · next u h => exact absurd h (none u)
  · rfl

/-- A JOIN that nothing holds acts where it stands (R45). -/
theorem splitWord_of_join {w : Word} {u : EUnit} (eng : engineOf w = 6) (unit : buildUnit s w = u) (same : u.word = w)
    (sound : joinFate (s.onCs (fun t => { t with unit := u })) w = none) (free : s.cs.tokHolds u = false) :
    splitWord s w = joinUnit w (passUnit (s.onCs (fun t => { t with unit := u })) u) := by
  subst unit
  have noFate : ¬ ((joinFate (s.onCs (fun t => { t with unit := buildUnit s w })) (buildUnit s w).word).isSome &&
      (buildUnit s w).word.getLsbD 21) = true := by simp [same, sound]
  rw [splitWord, if_neg (by omega), if_pos eng, if_neg noFate, if_neg (Bool.eq_false_iff.mp free), same]

/-- A JOIN that nothing holds is fetched and acts in the same step: no unit of it goes to a queue. -/
theorem takeWord_of_join {w : Word} {u : EUnit} {i : Instr} {t : State} (eng : engineOf w = 6) (ok : decode w = .ok i)
    (unit : buildUnit s w = u) (same : u.word = w) (empty : s.cs.q.ctrl = [])
    (sound : joinFate (s.onCs (fun t => { t with unit := u })) w = none) (free : s.cs.tokHolds u = false)
    (run : exec i (passUnit (s.onCs (fun t => { t with unit := u })) u) = .next t) : takeWord s w = (.next t, true) := by
  have joined := joinUnit_of_free (s := passUnit (s.onCs (fun t => { t with unit := u })) u) (w := w) sound free
  have ctrl := get_foldl_append (.joinMark u) (joinNames w) (joinNames_nodup w) s.cs.q .ctrl
  rw [exec_of_decode_join eng ok, ← splitWord_of_join eng unit same sound free, Host.Outcome.next.injEq] at run
  rw [← splitWord_of_join eng unit same sound free, run] at joined
  have empty' : ∀ x, t.cs.q.get (engOf w) ≠ [.unit x] := by
    have queue : t.cs.q.get (engOf w) = if .ctrl ∈ joinNames w then s.cs.q.ctrl ++ [.joinMark u] else s.cs.q.ctrl := by
      rw [engOf, eng, joined]; exact ctrl
    rw [queue, empty]
    split <;> simp
  have taken : t.nextSeq = s.nextSeq + 1 := by rw [joined]; rfl
  rw [takeWord_of_no_unit (by omega) (by rw [run]; exact empty'), run, taken]
  simp

/-- Settles O56: the step is `strandStep`, whose first unit that nothing holds runs as the instruction it decodes to. -/
theorem aStepIssuesTheDecodedWord : Obligations.AStepIssuesTheDecodedWord := by
  intro s i t up turn live s0 left
  refine ⟨fun s1 w idle go read ok => ⟨fun eng run => ?ext, ?join, ?queue⟩,
    fun e u l heads skip ok may free run issued => ?head⟩
  case ext =>
    exact step_of_turn up turn live (strandStep_of_fetch (s := s0) live idle go read ((takeWord_of_ext eng ok).trans (by rw [run])))
  case join =>
    intro u s2 eng same empty sound free run
    exact step_of_turn up turn live (strandStep_of_fetch (s := s0) live idle go read (takeWord_of_join eng ok rfl same empty sound free run))
  case queue =>
    intro u s2 e eng taken alone same skip place may free run
    have issue := issueUnit_of_exec (s := s2) (e := e) skip (same ▸ ok) run
    have took := takeWord_of_alone eng taken alone place may free
    rw [issue] at took
    refine ⟨fun issued => ?_, fun held => ?_⟩
    · rw [issued] at took
      exact step_of_turn up turn live (strandStep_of_fetch (s := s0) live idle go read took)
    · rw [held] at took
      exact ⟨_, step_of_turn up turn live (strandStep_of_fetch (s := s0) live idle go read took),
        by simp [State.putBack, e], rfl, rfl⟩
  case head =>
    refine step_of_turn up turn live ?_
    have issue := issueHeads_of_exec (s := s0) (l := l) skip ok may free run issued
    exact strandStep_of_head (s := s0) live heads issue

end Sys2Proof.Machine
end

section
/-! Accesses of the record that complete (R39, R43, R151, R172, R174, R301, R350), with the obligation O36. -/

namespace Sys2Proof.Machine

variable {s : State} {n : Nat}

/-- A number that no record holds completes nothing. -/
theorem completion_of_no_holder {p : Req → Bool} (h : s.holder? n = none) : completion p n s = .next s := by
  rw [completion, h]

section
variable {t : Strand} {e : RecEntry} (held : s.holder? n = some t) (entry : t.entry? n = some e)
include held entry

/-- A completion step looks at the kind and state of its entry, and at the answers that are missing. -/
theorem completion_of_entry (p : Req → Bool) :
    completion p n s = .next (if (p e.req && e.state == .pending) && s.allAnswered n then completeEntry s t n else s) := by
  rw [completion, held]
  dsimp only
  rw [entry]

/-- A completion step of another kind, or with answers missing, changes nothing. -/
theorem completion_of_other {p : Req → Bool} (other : p e.req = false ∨ s.allAnswered n = false) : completion p n s = .next s := by
  rw [completion_of_entry held entry, if_neg]
  rcases other with h | h <;> simp [h]

/-- An entry of another state is not tried again; one whose turn it is not, neither (R301). -/
theorem execHoldQueueNackRetry_of_entry : execHoldQueueNackRetry n s =
    .next (if (e.state = .held || e.state = .nacked) && s.holdTurn n then retryEntry s t n else s) := by
  rw [execHoldQueueNackRetry, held]
  dsimp only
  rw [entry]

section
variable (pending : e.state = .pending) (sound : e.fail = none) (kind : e.req.kind ≠ .fill)
include pending

/-- A completion step of the entry's kind, with every packet answered, completes it. -/
theorem completion_of_pending {p : Req → Bool} (mine : p e.req = true) (answered : s.allAnswered n = true) :
    completion p n s = .next (completeEntry s t n) := by
  rw [completion_of_entry held entry, if_pos]
  simp [mine, pending, answered]

omit held
include sound kind

/-- An entry that completes is delivered, unless bytes here are still to be written (R43, R151). -/
theorem completeEntry_of_pending : completeEntry s t n =
    if e.here = 1 then
      retryEntry (s.onStrand t.team t.sid (fun t => t.onEntry n (fun e => { e with here := 2, state := .held })))
        (t.onEntry n (fun e => { e with here := 2, state := .held })) n
    else (acquired s t e.req.ord).onStrand t.team t.sid (fun t => t.finish n
      (if e.req.write && e.req.atom.isNone then [] else e.req.final e.req.part)) := by
  rw [completeEntry, entry]
  dsimp only
  rw [if_neg (by simp [pending, sound]), if_neg (by simpa using kind)]

end
end

/-! The old value that the host answers (R174, R372). -/

/-- An acquire that completes changes memory, its damage and the L1 lines alone. -/
theorem onlyL1_acquired (s : State) (t : Strand) (o : AccOrd) : OnlyL1 s (acquired s t o) := by
  unfold acquired
  split
  · exact (acquireL1_spec ..).1
  · exact .refl s

theorem onStrand_cs (s : State) (id sid : Nat) (f : Strand → Strand) :
    (s.onStrand id sid f).cs = if s.cs.team = id ∧ s.cs.sid = sid then f s.cs else s.cs := by
  simp [State.onStrand, State.onStrands]

/-- The state in which the host's answer `m` has reached the host's memory: nothing is under way for the entry any more. -/
def State.hostAnswered (s : State) (n : Nat) (e : RecEntry) (a : AtomOp) (m : Nat) : State :=
  { s with
    mem := setBytes s.mem (hostKey e.key) (leBytes a.size (if atomWrites a m then atomNew a m else m))
    out := s.out.filter (fun o => match o with | .atomicOp k _ _ => k ≠ n | _ => true) }

theorem isHostAtomic_hostAnswered (s : State) (n : Nat) (e : RecEntry) (a : AtomOp) (m : Nat) :
    isHostAtomic (s.hostAnswered n e a m) n = false := by
  rw [isHostAtomic, List.any_eq_false]
  intro o ho
  have left := (List.mem_filter.mp ho).2
  cases o with
  | atomicOp k gpa pasid => simpa using left
  | _ => exact Bool.false_ne_true

theorem execAtomicopCompletion_of_entry {t : Strand} {e : RecEntry} {a : AtomOp} (held : s.holder? n = some t) (entry : t.entry? n = some e)
    (atom : e.req.atom = some a) (asked : isHostAtomic s n = true) (pending : e.state = .pending) (old : BitVec 128) :
    execAtomicopCompletion n old s = .next ((acquired (s.hostAnswered n e a (old.toNat % 2 ^ (8 * a.size))) t e.req.ord).onStrand t.team t.sid
      (fun t => t.finish n [BitVec.ofNat 4096 (old.toNat % 2 ^ (8 * a.size))])) := by
  rw [execAtomicopCompletion, held]
  dsimp only
  rw [entry]
  dsimp only
  rw [atom]
  dsimp only
  rw [if_neg (by simp [asked, pending])]
  rfl

/-- Settles O36: the steps differ in the kind of entry that they complete. -/
theorem accessesComplete : Obligations.AccessesComplete := by
  refine ⟨fun s n old none => ⟨?_, ?_, fun remote => ?_, ?_, ?_⟩, fun s n t e held entry => ?entry⟩
  · rw [exec_loadDataReturn, execLoadDataReturn, completion_of_no_holder none]
  · rw [exec_storePerformed, execStorePerformed, completion_of_no_holder none]
  · rw [exec_atomicPerformed, execAtomicPerformed, if_neg (Bool.eq_false_iff.mp remote), completion_of_no_holder none]
  · rw [exec_atomicopCompletion, execAtomicopCompletion, none]
  · rw [exec_holdQueueNackRetry, execHoldQueueNackRetry, none]
  case entry =>
    intro acq deliver
    simp only [exec_loadDataReturn, execLoadDataReturn, exec_storePerformed, execStorePerformed, exec_atomicPerformed, execAtomicPerformed,
      exec_atomicopCompletion, exec_holdQueueNackRetry]
    refine ⟨fun pending sound kind away answered => ?delivered, fun pending sound kind here answered store plain => ?here,
      fun missing => ?missing, fun free free' => ?free, fun turn => ?turn, fun back turn => ?retry, fun a old atom asked pending => ?host⟩
    case delivered =>
      have done := completeEntry_of_pending (s := s) entry pending sound kind
      rw [if_neg away] at done
      refine ⟨fun load plain => ⟨?_, ?_⟩, fun store plain => ⟨?_, ?_⟩, fun write atom remote => ?_⟩
      · rw [completion_of_pending held entry pending (by simp [load]) answered, done, load]; rfl
      · exact completion_of_other held entry (.inl (by simp [load]))
      · rw [completion_of_pending held entry pending (by simp [store, plain]) answered, done, store, plain]; rfl
      · exact completion_of_other held entry (.inl (by simp [store]))
      · rw [if_neg (Bool.eq_false_iff.mp remote), completion_of_pending held entry pending atom answered, done, write,
          Option.isNone_eq_false_iff.mpr atom]
        rfl
    case here =>
      rw [completion_of_pending held entry pending (by simp [store, plain]) answered,
        completeEntry_of_pending entry pending sound kind, if_pos here]
    case missing => exact ⟨completion_of_other held entry (.inr missing), completion_of_other held entry (.inr missing)⟩
    case free => rw [execHoldQueueNackRetry_of_entry held entry, if_neg (by simp [free, free'])]
    case turn => rw [execHoldQueueNackRetry_of_entry held entry, if_neg (by simp [turn])]
    case retry => rw [execHoldQueueNackRetry_of_entry held entry, if_pos (by simpa [turn] using back)]
    case host =>
      have frame := (onlyL1_acquired (s.hostAnswered n e a (old.toNat % 2 ^ (8 * a.size))) t e.req.ord).1
      refine ⟨_, execAtomicopCompletion_of_entry held entry atom asked pending old, ?_, fun relaxed => ?_, ?_⟩
      · rw [onStrand_cs, frame]; rfl
      · rw [State.onStrand_mem, acquired, relaxed, if_neg Bool.false_ne_true]; rfl
      · show isHostAtomic (acquired (s.hostAnswered n e a (old.toNat % 2 ^ (8 * a.size))) t e.req.ord) n = false
        rw [frame]
        exact isHostAtomic_hostAnswered s n e a (old.toNat % 2 ^ (8 * a.size))

end Sys2Proof.Machine
end

section
/-! Words that enter the Cam sequencer (R48, R206 to R208, R211, R214 to R216, R225), with the obligation O28. -/

namespace Sys2Proof.Machine

variable {s : State}

/-! The issue of a word that uses the array (R48, R211). -/

theorem arrayAct_of_no_share {uses : List Nat} {f : State → Act} (h : s.hasShare s.cs = false) :
    arrayAct s uses f = .trap .protection (s.cs.unit.word.setWidth 64) := by simp [arrayAct, h]

theorem arrayAct_of_held {uses : List Nat} {f : State → Act} (share : s.hasShare s.cs = true) (held : s.mtxHolds s.cs uses = true) :
    arrayAct s uses f = .wait := by simp [arrayAct, share, held]

theorem arrayAct_of_free {uses : List Nat} {f : State → Act} (free : ArrayFree s uses) : arrayAct s uses f = f s := by
  obtain ⟨share, free⟩ := free
  simp [arrayAct, share, free]

/-! Arrays without damage (R356). -/

/-- A part of an undamaged array that is written whole leaves it as it is. -/
theorem ArrayState.replaced_of_sound {a : ArrayState} (h : a.bad = []) (k : Nat) : a.replaced k = a := by
  obtain ⟨⟩ := a
  subst h
  rfl

theorem ArrayState.covered_of_sound {a : ArrayState} (h : a.bad = []) (n rows cols : Nat) (spec : Bool) : a.covered n rows cols spec = a := by
  unfold ArrayState.covered
  split
  · exact a.replaced_of_sound h _
  · rfl

theorem ArrayState.enterSpec_bad {a : ArrayState} (h : a.bad = []) (n : Nat) : (a.enterSpec n).bad = [] := by
  unfold ArrayState.enterSpec
  split
  · exact h
  · simp [ArrayState.replaced, ArrayState.setShadow, h]

theorem ArrayState.setView_bad (a : ArrayState) (n : Nat) (spec : Bool) (x : Tile) : (a.setView n spec x).bad = a.bad := by
  cases spec <;> rfl

/-! The start of a multiply (R214). -/

/-- A multiply with steps to make is the strand's command. -/
theorem startMmt_of_steps {c : MtxCmd} {n : Nat} (rows : dROWS c.a ≠ 0) (cols : n ≠ 0) (depth : depthOf c.a ≠ 0) :
    startMmt s c n = s.onCs (fun t => { t with mtx := some c }) := by
  simp [startMmt, rows, cols, depth]

/-- The region of a multiply without steps under Z: zeroed in its tile, or in the shadow that SPEC enters (R214, R216). -/
def MtxCmd.zeroed (c : MtxCmd) (tn n : Nat) (a : ArrayState) : ArrayState :=
  let a := if c.spec then a.enterSpec tn else a
  if c.z then a.setView tn c.spec (zeroRegion (dROWS c.a) n (a.view tn c.spec)) else a

/-- A multiply without steps is complete at once. -/
theorem startMmt_of_no_step {c : MtxCmd} {n : Nat} (none : dROWS c.a = 0 ∨ n = 0 ∨ depthOf c.a = 0)
    (sound : (s.array s.cs.arrayNo).bad = []) :
    startMmt s c n = (s.onArray s.cs (c.zeroed (s.tileNo s.cs c.acc) n)).mtxDone c := by
  have start : (if c.spec then (s.array s.cs.arrayNo).enterSpec (s.tileNo s.cs c.acc) else s.array s.cs.arrayNo).bad = [] := by
    split
    · exact ArrayState.enterSpec_bad sound _
    · exact sound
  rw [startMmt, if_pos (by simpa [or_assoc] using none)]
  simp only [State.onArray, MtxCmd.zeroed, ArrayState.covered_of_sound ((ArrayState.setView_bad ..).trans start)]

/-- The checks of a multiply's operands, as propositions (R206, R207). -/
theorem mmtOk_iff {a : Desc} {k n fb mb spnB : Nat} : mmtOk a k n fb mb spnB = true ↔
    dROWS a ≤ 128 ∧ depthOf a % 32 = 0 ∧ depthOf a = k ∧ n ≤ 128 ∧ pairOk (dFMT a) (dMODE a) fb mb = true ∧ spnB = 0 := by
  simp [mmtOk, and_assoc]

section
variable {c a b : Nat} {n : BitVec 4} {p : BitVec 3} {w : BitVec 2} {sp r z f : BitVec 1}

theorem mmtAct_of_no_share (none : s.hasShare s.cs = false) :
    mmtAct s c a b n p sp r z = .trap .protection (s.cs.unit.word.setWidth 64) := by rw [mmtAct, arrayAct_of_no_share none]

theorem mmtAct_of_held (share : s.hasShare s.cs = true) (held : s.mtxHolds s.cs [s.tileNo s.cs c] = true) :
    mmtAct s c a b n p sp r z = .wait := by rw [mmtAct, arrayAct_of_held share held]

/-- `mmt` with operands in order starts its command (R214). -/
theorem mmtAct_of_ok (free : ArrayFree s [s.tileNo s.cs c]) (okA : descOk (s.cs.dr a) = true) (okB : descOk (s.cs.dr b) = true)
    (ok : mmtOk (s.cs.dr a) (dROWS (s.cs.dr b)) (dCOLS (s.cs.dr b)) (dFMT (s.cs.dr b)) (dMODE (s.cs.dr b)) (dSPN (s.cs.dr b)) = true)
    (spn : p.toNat = dSPN (s.cs.dr a)) : mmtAct s c a b n p sp r z = .okNoSig (startMmt s
      { cmdOf s.cs 0 c n with a := s.cs.dr a, b := s.cs.dr b, spec := sp == 1, rel := r == 1, z := z == 1 } (dCOLS (s.cs.dr b))) := by
  rw [mmtAct, arrayAct_of_free free]
  simp [okA, okB, ok, spn]

/-- `mmt` whose A operand is no descriptor traps with its number (R206). -/
theorem mmtAct_of_bad_desc (free : ArrayFree s [s.tileNo s.cs c]) (bad : descOk (s.cs.dr a) = false) :
    mmtAct s c a b n p sp r z = .trap .illegalField (BitVec.ofNat 64 a) := by
  rw [mmtAct, arrayAct_of_free free]
  simp [bad]

/-- `mmt.wb` with a buffer in order starts its command (R214). -/
theorem mmtWbAct_of_ok (free : ArrayFree s [s.tileNo s.cs c, 8 + s.wbNo s.cs w.toNat]) (okA : descOk (s.cs.dr a) = true) {buf : WBuf}
    (hbuf : (s.array s.cs.arrayNo).wbuf (s.wbNo s.cs w.toNat) = buf) (filled : buf.k ≠ 0)
    (ok : mmtOk (s.cs.dr a) buf.k buf.n (buf.fmt.toNat % 16) buf.mode 0 = true) (spn : p.toNat = dSPN (s.cs.dr a)) :
    mmtWbAct s c a w n p sp z = .okNoSig (startMmt s
      { cmdOf s.cs 1 c n with a := s.cs.dr a, wb := some w.toNat, spec := sp == 1, z := z == 1 } buf.n) := by
  rw [mmtWbAct, arrayAct_of_free free]
  simp [okA, hbuf, filled, ok, spn]

/-- `attb` with operands in order is the strand's command, and without a key complete at once (R225). -/
theorem attbAct_of_ok (free : ArrayFree s [s.tileNo s.cs c, s.tileNo s.cs c + 1])
    (okQ : descOk (s.cs.dr a) = true) (okK : descOk (s.cs.dr b) = true) (okV : descOk (s.cs.dr (b + 1)) = true)
    (ok : (attbFmt (s.cs.dr a) && attbFmt (s.cs.dr b) && attbFmt (s.cs.dr (b + 1)) && dROWS (s.cs.dr a) ≤ 128 &&
      dCOLS (s.cs.dr a) % 32 == 0 && 1 ≤ dCOLS (s.cs.dr a) && dCOLS (s.cs.dr a) ≤ 128 && dROWS (s.cs.dr b) == dCOLS (s.cs.dr a) &&
      dROWS (s.cs.dr (b + 1)) == dCOLS (s.cs.dr b) && 1 ≤ dCOLS (s.cs.dr (b + 1)) && dCOLS (s.cs.dr (b + 1)) ≤ 128) = true) {cmd : MtxCmd}
    (hcmd : { cmdOf s.cs 9 c n with a := s.cs.dr a, b := s.cs.dr b, c := s.cs.dr (b + 1), fin := f == 1, z := z == 1 } = cmd) :
    attbAct s c a b n f z = .okNoSig (if dCOLS (s.cs.dr b) = 0 then attbPut s cmd (attbStart s cmd).1 (attbStart s cmd).2
      else s.onCs (fun t => { t with mtx := some cmd })) := by
  rw [attbAct, arrayAct_of_free free]
  dsimp only
  rw [okQ, okK, okV, ok, hcmd]
  simp only [Bool.not_true, Bool.false_eq_true, if_false]
  split <;> rfl

end

/-- Settles O28: each word is checked, and then starts its command by `startMmt` or `attbPut`. -/
theorem matrixCommandsStart : Obligations.MatrixCommandsStart := by
  intro s c p c2 w a b n sp r z f t x y v tn wn buf cmd cmdW cmdA fits zeroed i iW iA
  rw [show exec i = execMmt c a b n p sp r z from rfl, show exec iW = execMmtWb c a w n p sp z from rfl,
    show exec iA = execAttb c2 a b n f z from rfl]
  refine ⟨fun issues none => ?noShare, fun issues share held => ?held, fun issues free bad => ?bad,
    fun issues free okX okY dense fit => ?mmt, fun issues free okX filled fit => ?mmtWb, ?attb⟩
  case noShare => exact congrArg _ (issue_trap issues (mmtAct_of_no_share (s := s.begun) none))
  case held => exact congrArg _ (issue_wait issues (mmtAct_of_held (s := s.begun) share held))
  case bad => exact congrArg _ (issue_trap issues (mmtAct_of_bad_desc (s := s.begun) free bad))
  case mmt =>
    obtain ⟨rows, depth, k, cols, pair, spn⟩ := fit
    have go : execMmt c a b n p sp r z s = .next (startMmt s.begun cmd (dCOLS y)) := congrArg _ (issue_okNoSig issues
      (mmtAct_of_ok (s := s.begun) free okX okY (mmtOk_iff.mpr ⟨rows, depth, k, cols, pair, dense⟩) spn))
    have region : ∀ m, cmd.zeroed tn m = zeroed m := fun m => funext fun ar => by simp only [MtxCmd.zeroed, cmd, zeroed, beq_iff_eq]
    refine ⟨fun rows cols depth => ?_, fun none sound => ?_⟩
    · rw [go, startMmt_of_steps rows cols depth]
    · rw [go, startMmt_of_no_step (s := s.begun) none sound, ← region]; rfl
  case mmtWb =>
    obtain ⟨rows, depth, k, cols, pair, spn⟩ := fit
    have go : execMmtWb c a w n p sp z s = .next (startMmt s.begun cmdW buf.n) := congrArg _ (issue_okNoSig issues
      (mmtWbAct_of_ok (s := s.begun) free okX rfl filled (mmtOk_iff.mpr ⟨rows, depth, k, cols, pair, rfl⟩) spn))
    have region : ∀ m, cmdW.zeroed tn m = zeroed m := fun m => funext fun ar => by simp only [MtxCmd.zeroed, cmdW, zeroed, beq_iff_eq]
    refine ⟨fun rows cols depth => ?_, fun none sound => ?_⟩
    · rw [go, startMmt_of_steps rows cols depth]
    · rw [go, startMmt_of_no_step (s := s.begun) none sound, ← region]; rfl
  case attb =>
    intro tA issues free okX okY okV fmtX fmtY fmtV rows cols least most depth keys width widest
    have fit : (attbFmt x && attbFmt y && attbFmt v && dROWS x ≤ 128 && dCOLS x % 32 == 0 && 1 ≤ dCOLS x && dCOLS x ≤ 128 &&
        dROWS y == dCOLS x && dROWS v == dCOLS y && 1 ≤ dCOLS v && dCOLS v ≤ 128) = true := by
      simp only [Bool.and_eq_true, decide_eq_true_eq, beq_iff_eq]
      exact ⟨⟨⟨⟨⟨⟨⟨⟨⟨⟨fmtX, fmtY⟩, fmtV⟩, rows⟩, cols⟩, least⟩, most⟩, depth⟩, keys⟩, width⟩, widest⟩
    have go : execAttb c2 a b n f z s = .next (if dCOLS y = 0 then attbPut s.begun cmdA (attbStart s.begun cmdA).1 (attbStart s.begun cmdA).2
        else s.begun.onCs (fun t => { t with mtx := some cmdA })) :=
      congrArg _ (issue_okNoSig issues (attbAct_of_ok (s := s.begun) free okX okY okV fit rfl))
    exact ⟨fun h => by rw [go, if_neg h], fun h => by rw [go, if_pos h]⟩

end Sys2Proof.Machine
end

section

/-! Refutation of the statement on wakes and residency steps, obligation O39. -/
namespace Sys2Proof.Machine
open State

/-- A state whose context table is not canonical: index 0 is listed twice, so that removing its first entry shows the second. -/
def doubledContext : State :=
  { ctxs := [(0, { recalling := true }), (0, { recalls := [{ pages := [], save := false }] })] }

/-- The recall of context 0 completes the recall of the entry that was hidden, and makes one wake due. -/
theorem recallContext_doubledContext_due : (recallContext doubledContext 0).due.length = 1 := by decide

/-- Refutes O39: in its last clause the table of contexts may list an index twice (`doubledContext`). To end the recall then removes the
entry that shows, and the one behind it has a recall of its own, which the step completes with a wake. -/
theorem not_wakesAndResidencySteps : ¬ Obligations.WakesAndResidencySteps := by
  unfold Obligations.WakesAndResidencySteps
  rintro ⟨-, -, -, -, -, -, -, hrecall⟩
  have hstep := hrecall doubledContext 0 rfl (by decide) rfl
  rw [exec_recallStart, execRecallStart, Host.Outcome.next.injEq] at hstep
  have hdue := congrArg (fun t : State => t.due.length) hstep
  exact absurd (recallContext_doubledContext_due.symm.trans hdue) (by decide)

end Sys2Proof.Machine
end

section

/-! What Hinge, the walker and the residency states of contexts leave alone: strands, teams, launches and arrays (R26, R27, R290 to R303,
R358 to R364). -/
namespace Sys2Proof.Machine
open State

/-- The records of what runs on the device: strands, teams, launches and matrix arrays. -/
def State.records (s : State) : Strand × List Strand × List Team × List Launch × Sparse ArrayState :=
  (s.cs, s.others, s.teams, s.launches, s.arrays)

theorem records_eq_iff {s t : State} : t.records = s.records ↔
    t.cs = s.cs ∧ t.others = s.others ∧ t.teams = s.teams ∧ t.launches = s.launches ∧ t.arrays = s.arrays := by
  simp [records]

theorem teams_of_records {s t : State} (h : t.records = s.records) : t.teams = s.teams := (records_eq_iff.mp h).2.2.1

theorem launches_of_records {s t : State} (h : t.records = s.records) : t.launches = s.launches :=
  (records_eq_iff.mp h).2.2.2.1

theorem records_foldl {α : Type} {f : State → α → State} (hf : ∀ s x, (f s x).records = s.records) (l : List α) (s : State) :
    (l.foldl f s).records = s.records := by
  induction l generalizing s with
  | nil => rfl
  | cons x l ih => exact (ih _).trans (hf s x)

/-! Pages and their moves. -/

theorem setMem_records (s : State) (mem : List Host.Cell) : State.records { s with mem := mem } = s.records := rfl

@[simp] theorem onPde_records (s : State) (obj : BitVec 48) (f : Pde → Pde) : (s.onPde obj f).records = s.records := rfl

@[simp] theorem setEntry_records (s : State) (i : Nat) (c : Ctx) : (s.setEntry i c).records = s.records := rfl

@[simp] theorem heal_records (s : State) (frames : List Nat) : (s.heal frames).records = s.records := by
  unfold heal; split <;> rfl

@[simp] theorem tellGrants_records (s : State) : s.tellGrants.records = s.records := by
  unfold tellGrants; dsimp only; split <;> rfl

@[simp] theorem dropGrants_records (s : State) (p : Grant → Bool) : (s.dropGrants p).records = s.records := by
  unfold dropGrants; split
  · exact tellGrants_records _
  · rfl

@[simp] theorem dirinv_records (s : State) (obj : BitVec 48) (ver : Word) : (dirinv s obj ver).records = s.records :=
  dropGrants_records ..

@[simp] theorem beginMove_records (s : State) (obj : BitVec 48) (tier : BitVec 2) (soft : Bool) :
    (beginMove s obj tier soft).records = s.records := by
  unfold beginMove
  split
  · rfl
  · dsimp only
    repeat' split
    all_goals simp only [dirinv_records, onPde_records, setMem_records, heal_records]

@[simp] theorem capacityDemote_records (s : State) (tier : BitVec 2) (here : Pde → Bool) :
    (capacityDemote s tier here).records = s.records := by
  unfold capacityDemote; dsimp only; split
  · rfl
  · exact beginMove_records ..

@[simp] theorem startMove_records (s : State) (obj : BitVec 48) (tier : BitVec 2) (soft : Bool) :
    (startMove s obj tier soft).records = s.records := by
  unfold startMove
  split
  · rfl
  · dsimp only
    rw [beginMove_records]
    repeat' split
    all_goals simp only [capacityDemote_records]

@[simp] theorem startQueued_records (s : State) (obj : BitVec 48) : (startQueued s obj).records = s.records := by
  unfold startQueued
  split
  · rfl
  · split
    · dsimp only; split
      · rfl
      · exact startMove_records ..
    · rfl

@[simp] theorem wakeMoves_records (s : State) (i : Nat) : (wakeMoves s i).records = s.records := by
  refine records_foldl (fun s p => ?_) _ s
  dsimp only
  repeat' split
  all_goals simp only [startQueued_records, onPde_records]

@[simp] theorem recallTo_records (s : State) (obj : BitVec 48) (tier : BitVec 2) : (recallTo s obj tier).records = s.records := by
  unfold recallTo
  repeat' split
  all_goals simp only [startMove_records]

/-! States of a context. -/

@[simp] theorem parkCtx_records (s : State) (i : Nat) : (parkCtx s i).records = s.records := rfl

@[simp] theorem settleCtx_records (s : State) (i : Nat) : (settleCtx s i).records = s.records := by
  unfold settleCtx
  dsimp only
  repeat' split
  all_goals simp only [setEntry_records, parkCtx_records]

@[simp] theorem wakeSwapped_records (s : State) (i : Nat) : (wakeSwapped s i).records = s.records := by
  unfold wakeSwapped; dsimp only; split <;> rfl

/-! A wake lets the parked teams of a context run again: the number of teams stays. -/

/-- The number of teams, and the launches. -/
def State.roster (s : State) : Nat × List Launch := (s.teams.length, s.launches)

theorem roster_of_records {s t : State} (h : t.records = s.records) : t.roster = s.roster := by
  simp only [roster, teams_of_records h, launches_of_records h]

@[simp] theorem setEntry_roster (s : State) (i : Nat) (c : Ctx) : (s.setEntry i c).roster = s.roster := rfl

@[simp] theorem settleCtx_roster (s : State) (i : Nat) : (settleCtx s i).roster = s.roster := roster_of_records (settleCtx_records s i)

@[simp] theorem wakeSwapped_roster (s : State) (i : Nat) : (wakeSwapped s i).roster = s.roster := roster_of_records (wakeSwapped_records s i)

@[simp] theorem releaseParked_roster (s : State) (i : Nat) : (releaseParked s i).roster = s.roster := by simp [roster, releaseParked]

@[simp] theorem testCond_roster (s : State) (i : Nat) : (testCond s i).roster = s.roster := by
  unfold testCond
  dsimp only
  repeat' split
  all_goals simp only [wakeSwapped_roster, settleCtx_roster, releaseParked_roster, setEntry_roster]

@[simp] theorem wakeEntry_roster (s : State) (i : Nat) (src : BitVec 6) : (wakeEntry s i src).roster = s.roster := by
  simp only [wakeEntry, apply_ite State.roster, setEntry_roster, wakeSwapped_roster, settleCtx_roster, testCond_roster, ite_self]

end Sys2Proof.Machine
end

section

/-! Launch records: their acceptance, the check of their kernel and their completion (R29, R328 to R332), with the obligation O38. -/
namespace Sys2Proof.Machine
open State

/-! Teams that a launch adds. -/

theorem length_split_filter_lt (l : List Team) (n : Nat) :
    (l.filter (fun m => m.launch < n)).length + (l.filter (fun m => n ≤ m.launch)).length = l.length := by
  have h := (List.filter_append_perm (fun m : Team => decide (m.launch < n)) l).length_eq
  simpa only [List.length_append, ← decide_not, Nat.not_lt] using h

@[simp] theorem recallInput_records (ctx : Word) (tier : Nat) (s : State) (va : Nat) :
    (if pageResident s ctx tier va then s
      else match gpaOf s ctx va with
        | some g => recallTo s (objOf (fld ctx 16 6) g) (BitVec.ofNat 2 tier)
        | none => s).records = s.records := by
  repeat' split
  all_goals simp only [recallTo_records]

/-- A launch whose kernel is good adds one team for each entry of its map. -/
theorem acceptTeams_roster (s : State) (l : Launch) (h : Header) (map : List (BitVec 4 × Dword)) :
    (acceptTeams s l h map).roster = (s.teams.length + map.length, s.launches) := by
  unfold acceptTeams
  dsimp only
  refine (roster_of_records (records_foldl (fun _ m => ?_) _ _)).trans ?_
  · exact records_foldl (fun _ (x : Nat × Nat × Nat) => records_foldl (fun _ va => recallInput_records m.ctx x.2.2 _ va) _ _) _ _
  · rw [roster_of_records (wakeMoves_records ..), wakeEntry_roster]
    have := length_split_filter_lt s.teams l.id
    simp only [roster, List.length_append, List.length_map, List.length_zip, List.length_range, Nat.min_self, Prod.mk.injEq, and_true]
    omega

/-! The check of a kernel. -/

theorem launchKernel_of_passed {s : State} {n : Nat} {l : Launch} (hl : s.launches.find? (fun l => l.id == n) = some l)
    (hk : l.kernel = false) : launchKernel s n = s := by
  simp [launchKernel, hl, hk]

/-- A launch that awaits the check of its kernel reads its map first. -/
theorem launchKernel_of_waiting {s : State} {n : Nat} {l : Launch} (hl : s.launches.find? (fun l => l.id == n) = some l)
    (hk : l.kernel = true) : launchKernel s n = match launchMap s l with
      | (s, none) => s
      | (s, some map) =>
        match checkKernel s n l.record with
        | .wait s => s
        | .fail s status => completeLaunch ((s.onLaunch n (fun l => { l with kernel := false, got := [] })).onLaunch n
            (fun l => { l with status := status, ready := true })) n
        | .ok s h => acceptTeams (s.onLaunch n (fun l => { l with kernel := false, got := [] })) l h map := by
  simp only [launchKernel, hl, hk, Bool.not_true, Bool.false_eq_true, if_false] <;> rfl

/-! Completion. -/

theorem completeLaunch_of_not_ready {s : State} {n : Nat} {l : Launch} (hl : s.launches.find? (fun l => l.id == n) = some l)
    (hr : l.ready = false) : completeLaunch s n = s := by
  simp [completeLaunch, completeFrom, hl, hr]

theorem completeLaunch_of_silent {s : State} {n : Nat} {l : Launch} (hl : s.launches.find? (fun l => l.id == n) = some l)
    (hr : l.ready = true) (hw : l.wait = none) (hc : lCREC l.record = 0) (hk : lKIND l.record = 0) :
    completeLaunch s n = { s with launches := s.launches.filter (fun x => x.id ≠ n) } := by
  simp [completeLaunch, completeFrom, hl, hr, hw, hc, csig, hk]

/-! Acceptance. -/

theorem recordFails_of_bad {s : State} {r : BitVec 512} {host : Bool} (p : BitVec 6) (priv : Bool) (h : recordOk r host = false) :
    recordFails s r host p priv = some statusBadRecord := by
  simp [recordFails, h]

theorem recordFails_of_stale {s : State} {r : BitVec 512} {host : Bool} {p : BitVec 6} (h : recordOk r host = true)
    (hs : s.handleOk (lCTX r) = false ∨ handlePart (lCTX r) ≠ p) : recordFails s r host p false = some statusStale := by
  have : ctxOk s r p false = false := by
    rcases hs with hs | hs
    · simp [ctxOk, hs]
    · simp [ctxOk, hs]
  simp [recordFails, h, this]

theorem recordFails_of_good {s : State} {r : BitVec 512} {host : Bool} {p : BitVec 6} (h : recordOk r host = true)
    (hs : s.handleOk (lCTX r) = true) (hp : handlePart (lCTX r) = p) : recordFails s r host p false = none := by
  simp [recordFails, ctxOk, h, hs, hp]

/-- The state in which the record at HEAD of a partition's queue has become the launch `l`, and HEAD has passed it. -/
def hostTaken (s : State) (p : BitVec 6) (l : Launch) : State :=
  ({ s with nextId := s.nextId + 1, launches := s.launches ++ [l] } : State).setPcb p.toNat 0x108
    (BitVec.ofNat 64 (((s.pcbReg p.toNat 0x108).toNat + 1) % 2 ^ 32))

/-- A launch of the host as its record is taken. -/
def hostLaunch (s : State) (r : BitVec 512) : Launch := { id := s.nextId, record := r, host := true, issuer := none }

/-- The record at HEAD of a queue that is not empty. -/
theorem execLaunchRecordAccept_host {s : State} (r : BitVec 512) {p : BitVec 6} (h : s.pcbReg p.toNat 0x108 ≠ s.pcbReg p.toNat 0x110) :
    execLaunchRecordAccept r true p s = match recordFails s r true p false with
      | some status => .next (completeLaunch (hostTaken s p { hostLaunch s r with status := status, ready := true }) s.nextId)
      | none => if launchRoom s r then .next (launchKernel (hostTaken s p { hostLaunch s r with kernel := true }) s.nextId) else .next s := by
  simp only [execLaunchRecordAccept, h, decide_false, Bool.and_false, Bool.false_eq_true, if_false, Bool.not_true, Bool.false_and, if_true] <;> rfl

theorem execLaunchRecordAccept_empty {s : State} (r : BitVec 512) {p : BitVec 6} (h : s.pcbReg p.toNat 0x108 = s.pcbReg p.toNat 0x110) :
    execLaunchRecordAccept r true p s = .next s := by
  simp [execLaunchRecordAccept, h]

theorem execLaunchRecordAccept_no_op {s : State} (r : BitVec 512) (p : BitVec 6) (h : ∀ o ∈ s.ops, o.kind ≠ .launch) :
    execLaunchRecordAccept r false p s = .next s := by
  have hop : s.ops.find? (fun o => o.kind == .launch && o.stat == .active && o.progress ≠ 0 && leNat o.payload == r.toNat &&
      fld o.ctx 16 6 == p) = none := List.find?_eq_none.mpr fun o ho => by simp [h o ho]
  unfold execLaunchRecordAccept
  dsimp only
  rw [hop]
  rfl

/-- Settles O38: the record is taken or refused in the order of R329, and an accepted launch adds the teams of its map. -/
theorem launchRecordsAreAccepted : Obligations.LaunchRecordsAreAccepted := by
  unfold Obligations.LaunchRecordsAreAccepted
  refine ⟨?_, ?_⟩
  · intro s r p head tail l moved failed held
    simp only [exec_launchRecordAccept]
    refine ⟨execLaunchRecordAccept_empty r, ?_, ?_, ?_, execLaunchRecordAccept_no_op r p⟩
    · intro hne hbad
      rw [execLaunchRecordAccept_host r hne, recordFails_of_bad p false hbad]
      rfl
    · intro hne hok hstale
      rw [execLaunchRecordAccept_host r hne, recordFails_of_stale hok hstale]
      rfl
    · intro hok hs hp
      refine ⟨fun hfull => ?_, fun hne hroom => ?_⟩
      · by_cases hne : head = tail
        · exact execLaunchRecordAccept_empty r hne
        · have hroom : launchRoom s r = false := decide_eq_false (Nat.not_lt.mpr hfull)
          rw [execLaunchRecordAccept_host r hne, recordFails_of_good hok hs hp, hroom]
          rfl
      · have hroom : launchRoom s r = true := decide_eq_true hroom
        rw [execLaunchRecordAccept_host r hne, recordFails_of_good hok hs hp, hroom]
        rfl
  · intro s n l hl
    refine ⟨launchKernel_of_passed hl, fun hk => ?_, completeLaunch_of_not_ready hl, completeLaunch_of_silent hl⟩
    rw [launchKernel_of_waiting hl hk]
    refine ⟨fun t ht => by rw [ht], fun u map hu => ?_⟩
    rw [hu]
    refine ⟨fun t ht => by dsimp only; rw [ht], fun t status ht => by dsimp only; rw [ht], fun t h ht => ?_⟩
    have hroster := acceptTeams_roster (t.onLaunch n (fun l => { l with kernel := false, got := [] })) l h map
    rw [roster, Prod.mk.injEq] at hroster
    obtain ⟨hteams, hlaunches⟩ := hroster
    dsimp only
    rw [ht]
    exact ⟨hteams, (congrArg List.length hlaunches).trans (List.length_map _)⟩

end Sys2Proof.Machine
end

section

/-! Refutation of the statement on teams that leave and take their tiles, obligation O37. -/
namespace Sys2Proof.Machine
open State

/-- Two teams of one number whose contexts are of die 0 and die 1, and a configuration record under which the quantum is 16 µs on die 0
and the default of 200 µs on die 1. -/
def twinTeams : State :=
  { teams := [{ placed := true }, { ctx := 0x4000 }], cfg := List.replicate 0x18 0 ++ [16] }

/-- Each of the two records takes the quantum of its own context's die. -/
theorem execQuantumExpiry_twinTeams :
    ∃ t, execQuantumExpiry 0 twinTeams = .next t ∧ t.teams.map (·.quantumEnd) = [16000, 200000] :=
  ⟨_, rfl, by decide⟩

/-- Refutes O37: at the end of a quantum without a rival, the step gives every record of the team's number the quantum of the die of its
own context, the statement that of the first such record; in `twinTeams` two records of one number have different dies. -/
theorem not_teamsLeaveAndTakeTheirTiles : ¬ Obligations.TeamsLeaveAndTakeTheirTiles := by
  unfold Obligations.TeamsLeaveAndTakeTheirTiles
  rintro ⟨-, hteam, -⟩
  obtain ⟨-, -, -, hquantum, -⟩ := hteam twinTeams 0 { placed := true } rfl
  have hstep := hquantum rfl (by decide) (by decide)
  obtain ⟨t, ht, hends⟩ := execQuantumExpiry_twinTeams
  rw [exec_quantumExpiry, ht, Host.Outcome.next.injEq] at hstep
  subst hstep
  exact absurd hends (by decide)

end Sys2Proof.Machine
end

section

/-! Answers from the fabric, packets sent again, operations on contexts and mailboxes, and readiness (R24, R252, R254, R379, R384, R390,
R392, R393, R407, R408), with the obligation O47. -/
namespace Sys2Proof.Machine
open State

variable {s : State} {p : Packet}

/-! Packets that arrive (R378, R379, R407). -/

theorem packetOf_of_not_ready (h : s.mstate ≠ 3) (ty : List (BitVec 6)) (p : Packet) (f : State → State) : packetOf ty p s f = .next s :=
  whenReady_of_not_ready h _

/-- A packet of a listed type that is in order has its effect. -/
theorem packetOf_of_ok {ty : List (BitVec 6)} (h : s.mstate = 3) (hty : ty.contains p.type = true) (ha : argOk p = true)
    (hl : lenOk p = true) (f : State → State) : packetOf ty p s f = .next (f s) := by
  rw [packetOf, whenReady_of_ready h, hty, ha, hl]
  rfl

/-- Another packet is dropped. -/
theorem packetOf_of_bad {ty : BitVec 6} (h : s.mstate = 3) (bad : p.type ≠ ty ∨ argOk p = false ∨ lenOk p = false) (f : State → State) :
    packetOf [ty] p s f = .next (dropPacket s p) := by
  rw [packetOf, whenReady_of_ready h, if_neg]
  simp only [List.contains_cons, List.contains_nil, Bool.or_false, Bool.and_eq_true, beq_iff_eq]
  rintro ⟨⟨hty, ha⟩, hl⟩
  simp [hty, ha, hl] at bad

/-- An answer with status 0 or 2 leaves this device, and nothing else changes. -/
theorem onlySends_respTo {status : Nat} (h : status ≠ 1) (s : State) (p : Packet) (l : List Byte) : OnlySends s (respTo s p status l) := by
  rw [respTo, if_neg h]
  exact onlySends_sendPacket ..

theorem onlySends_dropPacket (s : State) (p : Packet) : OnlySends (s.log p.ddie.toNat logPacket p.arg.toNat) (dropPacket s p) := by
  rw [dropPacket]
  split
  · exact onlySends_respTo (by decide) ..
  · exact .refl _

/-! Answers (R379, R392). -/

/-- What an answer does to the request of its number. -/
theorem execRespArrival_of_ok (h : s.mstate = 3) (hty : p.type = ptRESP) (ha : argOk p = true) (hl : lenOk p = true) :
    execRespArrival p s = .next (match s.pending.find? (fun x => x.xid == p.xid) with
      | none => s
      | some x =>
        let status := dfld p.arg 0 8
        if status = 1 then { s with pending := s.pending.map (fun y => if y.xid == x.xid then { y with nacked := true } else y) }
        else
          let s := s.dropPending x.xid
          if x.pkt.type = ptREAD || x.pkt.type = ptWRITE || x.pkt.type = ptATOMIC then memoryAnswer s x p (status = 0)
          else messageAnswer s x p status) :=
  packetOf_of_ok h (by simp [hty]) ha hl _

theorem dfld_zero_eight (x : Dword) : dfld x 0 8 = x.toNat % 2 ^ 8 := by simp [dfld]

theorem isMemory_iff {ty : BitVec 6} :
    (ty = ptREAD || ty = ptWRITE || ty = ptATOMIC : Bool) = true ↔ ty ∈ [ptREAD, ptWRITE, ptATOMIC] := by
  simp [or_assoc]

/-- The data of an answer goes to a record entry or an operation: no request starts or ends. -/
theorem memoryAnswer_ok_frame (s : State) (x : Pending) (p : Packet) :
    (memoryAnswer s x p true).mem = s.mem ∧ (memoryAnswer s x p true).pending = s.pending := by
  unfold memoryAnswer
  cases x.acc with
  | some n => exact ⟨rfl, rfl⟩
  | none => cases x.op.bind s.op? <;> exact ⟨rfl, rfl⟩

/-- The entry of a request that has failed (R352). -/
def deniedEntry (x : Pending) (e : RecEntry) : RecEntry :=
  { e with state := .faulted, key := 0, fail := if e.trapped then none else some (.fabricError, e.req.vaOf x.off) }

/-- A request of the stepping strand that fails leaves the record entry of its number failed, and every other one as it is. -/
theorem failEntry_arec {x : Pending} (s : State) (n : Nat) (ht : x.team = s.cs.team) (hs : x.sid = s.cs.sid) :
    (failEntry s x n).cs.arec = s.cs.arec.map (fun e => if e.seq == n then deniedEntry x e else e) := by
  simp only [failEntry, onStrand, onStrands, ht, hs, beq_self_eq_true, Bool.and_self, if_true]
  rfl

theorem mem_failEntry {x : Pending} {n : Nat} (ht : x.team = s.cs.team) (hs : x.sid = s.cs.sid) :
    (∀ e ∈ (failEntry s x n).cs.arec, e.seq = n → e.state = .faulted ∧
      (e.trapped = false → e.fail = some (.fabricError, e.req.vaOf x.off))) ∧
    ∀ e ∈ s.cs.arec, e.seq ≠ n → e ∈ (failEntry s x n).cs.arec := by
  rw [failEntry_arec s n ht hs]
  refine ⟨fun e he hn => ?_, fun e he hn => List.mem_map.mpr ⟨e, he, by simp [hn]⟩⟩
  obtain ⟨y, -, rfl⟩ := List.mem_map.mp he
  by_cases hy : y.seq = n
  · simp +contextual [deniedEntry, hy]
  · simp [hy] at hn

/-! Packets that are sent again (R382, R384, R392). -/

theorem execFabricNackResend_of_none {n : Nat}
    (h : ∀ x ∈ s.pending, x.xid = n → x.nacked = false ∨ x.pkt.type = ptGSEND ∨ mayLeave s x = false) :
    execFabricNackResend n s = .next s := by
  have hfind : s.pending.find? (fun x => x.xid == n && x.nacked && x.pkt.type ≠ ptGSEND && mayLeave s x) = none :=
    List.find?_eq_none.mpr fun x hx => by
      simp only [Bool.and_eq_true, beq_iff_eq, decide_eq_true_eq]
      rintro ⟨⟨⟨hid, hn⟩, hty⟩, hl⟩
      simpa [hn, hty, hl] using h x hx hid
  simp only [execFabricNackResend, hfind]

theorem execParkingNackRetry_of_none {n : Nat} (h : ∀ x ∈ s.pending, x.xid = n → x.nacked = false ∨ x.pkt.type ≠ ptGSEND) :
    execParkingNackRetry n s = .next s := by
  have hfind : s.pending.find? (fun x => x.xid == n && x.nacked && x.pkt.type == ptGSEND) = none :=
    List.find?_eq_none.mpr fun x hx => by
      simp only [Bool.and_eq_true, beq_iff_eq]
      rintro ⟨⟨hid, hn⟩, hty⟩
      simpa [hn, hty] using h x hx hid
  simp only [execParkingNackRetry, hfind]

section
variable {x : Pending} {n : Nat} (hp : s.pending = [x]) (hid : x.xid = n) (hn : x.nacked = true)
include hp hid hn

theorem execFabricNackResend_of_one (hty : x.pkt.type ≠ ptGSEND) (hl : mayLeave s x = true) :
    execFabricNackResend n s = .next (if carries s x.pkt.type x.pkt.ddev then
      sendPacket { s with pending := [{ x with nacked := false }] } x.pkt else unreachable s x) := by
  simp [execFabricNackResend, hp, hid, hn, hty, hl]

theorem execParkingNackRetry_of_one (hty : x.pkt.type = ptGSEND) : execParkingNackRetry n s = .next (resendMessage s x) := by
  simp [execParkingNackRetry, hp, hid, hn, hty]

end

/-- A packet to another device that the domain carries. -/
theorem sendPacket_of_carried (far : p.ddev ≠ s.devNum) (reach : carries s p.type p.ddev = true) : sendPacket s p = s.emit p := by
  rw [sendPacket, if_neg (by simpa using far), if_pos reach]

/-- A request whose target cannot take it fails as if it had been refused (R381). -/
theorem unreachable_of_memory {x : Pending} {n : Nat} (s : State) (hty : x.pkt.type ∈ [ptREAD, ptWRITE, ptATOMIC]) (ha : x.acc = some n) :
    unreachable s x = failEntry (s.dropPending x.xid) x n := by
  rw [unreachable, if_pos (isMemory_iff.mpr hty), memoryAnswer, ha]
  rfl

/-- A group message without an armed unit here leaves towards the home of its group where the partition steers (R384, R389). -/
theorem resendMessage_of_steered {x : Pending} (hu : armedUnit s x.pkt.group x.pkt.part = none) (hs : steers s x.pkt.part = true)
    (hc : carries s ptGSEND (homeDev x.pkt.group) = true) :
    resendMessage s x = ({ s with pending := s.pending.map (fun y => if y.xid == x.xid then { y with nacked := false } else y) } : State).emit
      { x.pkt with ddev := homeDev x.pkt.group } := by
  have hs' : ∀ l, steers { s with pending := l } x.pkt.part = true := fun _ => hs
  have hc' : ∀ l, carries { s with pending := l } ptGSEND (homeDev x.pkt.group) = true := fun _ => hc
  simp only [resendMessage, hu, routeMsg, hs', hc', if_true]

/-! The deadlock-recovery timer (R393). -/

theorem not_stuck {s : State} {p : Packet} (h : p.esc = true ∨ p.vc = 3 ∨ (p.ddev ≠ s.devNum ∧ escapes s p.ddev = false) ∨
    s.time < p.since + s.cfgField 0x14 4 200 * 1000) : stuck s p = false := by
  rcases h with h | h | ⟨hd, he⟩ | h
  · simp [stuck, h]
  · simp [stuck, h]
  · simp [stuck, hd, he]
  · simp [stuck, Nat.not_le.mpr h]

theorem stuck_of {s : State} {p : Packet} (he : p.esc = false) (hv : p.vc ≠ 3) (hd : p.ddev = s.devNum ∨ escapes s p.ddev = true)
    (ht : p.since + s.cfgField 0x14 4 200 * 1000 ≤ s.time) : stuck s p = true := by
  simp only [stuck, he, hd, ht, bne_iff_ne.mpr hv, Bool.not_false, Bool.and_self, Bool.true_and, beq_iff_eq, Bool.or_eq_true, decide_true, Bool.and_true]

/-- Without a packet of the number that is stuck the timer does nothing. -/
theorem execDeadlockRecoveryTimer_of_none {n : Nat}
    (h : ∀ p, (Out.packet p ∈ s.out ∨ Due.packet p ∈ s.due ∨ ∃ d, Out.port d p ∈ s.out) → p.xid = n → stuck s p = false) :
    execDeadlockRecoveryTimer n s = .next s := by
  have quiet : ∀ p, (Out.packet p ∈ s.out ∨ Due.packet p ∈ s.due ∨ ∃ d, Out.port d p ∈ s.out) → ¬ (p.xid == n && stuck s p) = true :=
    fun p hp => by
      rw [Bool.and_eq_true, beq_iff_eq]
      exact fun hit => absurd hit.2 (by simp [h p hp hit.1])
  unfold execDeadlockRecoveryTimer
  dsimp only
  split
  · have hf := ‹List.find? _ s.out = some (Out.packet _)›
    exact absurd (List.find?_some hf) (quiet _ (.inl (List.mem_of_find?_eq_some hf)))
  · have hf := ‹List.find? _ s.due = some (Due.packet _)›
    exact absurd (List.find?_some hf) (quiet _ (.inr (.inl (List.mem_of_find?_eq_some hf))))
  · have hf := ‹List.find? _ s.out = some (Out.port _ _)›
    exact absurd (List.find?_some hf) (quiet _ (.inr (.inr ⟨_, List.mem_of_find?_eq_some hf⟩)))
  · rfl

section
variable {n : Nat} (hid : p.xid = n) (hs : stuck s p = true)
include hid hs

/-- A stuck packet on the fabric moves to VC 3. -/
theorem execDeadlockRecoveryTimer_of_out (ho : s.out = [.packet p]) :
    ∃ t : State, execDeadlockRecoveryTimer n s = .next t ∧ t.out = [.packet (escaped s p)] ∧ t.mem = s.mem := by
  refine ⟨_, by simp only [execDeadlockRecoveryTimer, ho, List.find?_cons_of_pos, hid, hs, beq_self_eq_true, Bool.and_self]; rfl, ?_, ?_⟩
  · simp [countEvent]
  · rfl

/-- A stuck packet between dies moves to VC 3. -/
theorem execDeadlockRecoveryTimer_of_due (ho : s.out = []) (hd : s.due = [.packet p]) :
    ∃ t : State, execDeadlockRecoveryTimer n s = .next t ∧ t.due = [.packet (escaped s p)] ∧ t.mem = s.mem := by
  refine ⟨_, by simp only [execDeadlockRecoveryTimer, ho, hd, List.find?_nil, List.find?_cons_of_pos, hid, hs, beq_self_eq_true, Bool.and_self]; rfl, ?_, ?_⟩
  · simp [countEvent]
  · rfl

/-- A stuck packet in the switch moves to VC 3. -/
theorem execDeadlockRecoveryTimer_of_port {d : BitVec 8} (ho : s.out = [.port d p]) (hd : s.due = []) :
    execDeadlockRecoveryTimer n s = .next { s with out := [.port d { p with vc := 3, esc := true }] } := by
  simp [execDeadlockRecoveryTimer, ho, hd, hid, hs]

end

/-! Operations on contexts (R254). -/

theorem ctx_eq_entry (s : State) (h : Word) : s.ctx h = s.entry (handleIndex h) := by simp [ctx, entry, handleIndex, fldN]

/-- A current handle names a context in use. -/
theorem state_ne_free_of_handleOk {h : Word} (ok : s.handleOk h = true) : (s.entry (handleIndex h)).state ≠ .free := by
  simp only [handleOk, ctx_eq_entry, Bool.and_eq_true, bne_iff_ne] at ok
  obtain ⟨⟨⟨-, hfree⟩, -⟩, -⟩ := ok
  exact hfree

theorem entry_setEntry_self (s : State) (i : Nat) {c : Ctx} (h : c.state ≠ .free) : (s.setEntry i c).entry i = c :=
  Sparse.get_set_self_of_ne _ _ (fun hc => h (by rw [hc]))

/-- A new table root is the context's, and the old one's cached translations are gone (R260). -/
theorem setBind_spec {h : Word} (x : Dword) (used : (s.entry (handleIndex h)).state ≠ .free) : (setBind s h x).mem = s.mem ∧
    (setBind s h x).entry (handleIndex h) = { s.entry (handleIndex h) with root := x &&& ~~~0xFFF, profile := x.setWidth 2 } ∧
    ∀ e ∈ (setBind s h x).tlb, e ∈ s.tlb ∧
      ¬ (e.kind = 0 ∧ e.part = (s.entry (handleIndex h)).part ∧ e.root = (s.entry (handleIndex h)).root) := by
  refine ⟨(onlyDrops_dropGrants ..).mem_eq, entry_setEntry_self _ _ used, fun e he => ?_⟩
  have he' : e ∈ ({ s with tlb := s.tlb.filter (fun e => !(e.kind == 0 && e.part == (s.entry (handleIndex h)).part &&
      e.root == (s.entry (handleIndex h)).root)) }.dropGrants (fun g => g.ctx == h)).tlb := he
  rw [dropGrants_tlb, List.mem_filter] at he'
  obtain ⟨hmem, hother⟩ := he'
  exact ⟨hmem, by rintro ⟨hk, hp, hr⟩; simp [hk, hp, hr] at hother⟩

theorem execCtxopArrival_of_stale {op : BitVec 3} {h : Word} {v : Dword} (stale : s.handleOk h = false) :
    execCtxopArrival op h v s = .next s := by
  simp [execCtxopArrival, stale]

theorem execCtxopArrival_of_unassigned {op : BitVec 3} (h : Word) (v : Dword) (hop : op = 6 ∨ op = 7) :
    execCtxopArrival op h v s = .next s := by
  rcases hop with rfl | rfl <;> simp [execCtxopArrival]

/-! Mailboxes (R252) and readiness (R390). -/

/-- A mailbox packet writes, checks or is refused by the handle it names. -/
theorem execMboxArrival_of_ok (h : s.mstate = 3) (hty : p.type = ptMBOX) (ha : argOk p = true) (hl : lenOk p = true) :
    execMboxArrival p s = .next (
      let h : Word := p.arg.setWidth 32
      let no := fun (c : Cause) => respTo s p 2 (leBytes 1 c.code.toNat)
      if !s.handleOk h then no .staleHandle
      else if handlePart h ≠ p.part && !p.arg.getLsbD 36 then no .protection
      else if p.arg.getLsbD 37 then respTo s p 0 []
      else respTo (writeMailbox s h (p.arg.extractLsb' 32 3) (p.arg.getLsbD 35) (BitVec.ofNat 64 (leNat (p.data.take 8)))) p 0 []) :=
  packetOf_of_ok h (by simp [hty]) ha hl _

/-- What was fetched for a group is its only entry in the readiness cache. -/
theorem mem_setReadiness_cache {g : Nat} {l : List (Nat × Nat)} {c : Nat × Readiness} :
    c ∈ (setReadiness s g l).cache ↔ (c ∈ s.cache ∧ c.1 ≠ g) ∨ c = (g, ({ time := s.time, entries := l } : Readiness)) := by
  simp only [setReadiness, List.mem_append, List.mem_filter, List.mem_singleton, decide_eq_true_eq, ne_iff_lt_or_gt]
  tauto

/-- Settles O47, clause by clause from what each arrival and each timer does. -/
theorem fabricAnswersAndRetriesAct : Obligations.FabricAnswersAndRetriesAct := by
  unfold Obligations.FabricAnswersAndRetriesAct
  simp only [exec_respArrival, exec_fabricNackResend, exec_parkingNackRetry, exec_deadlockRecoveryTimer, exec_ctxopArrival,
    exec_mboxArrival, exec_readinessCacheRefresh]
  refine ⟨?answers, ?dropped, ?again, ?operations, ?mailboxes, ?readiness⟩
  case answers =>
    intro s p hready hty ha hl
    rw [execRespArrival_of_ok hready hty ha hl, ← dfld_zero_eight]
    refine ⟨fun hnone => by rw [hnone], fun x hx => ?_⟩
    have hid : x.xid = p.xid := by simpa using List.find?_some hx
    rw [hx]
    refine ⟨fun h => ?_, fun h hmem => ?_, fun n h hmem ha ht hs => ?_⟩
    · simp [h, hid]
    · refine ⟨memoryAnswer (s.dropPending x.xid) x p true, by simp [h, isMemory_iff.mpr hmem], ?_⟩
      obtain ⟨hmem', hpend⟩ := memoryAnswer_ok_frame (s.dropPending x.xid) x p
      refine ⟨hmem', fun y => ?_⟩
      rw [hpend]
      simp [dropPending, hid]
    · refine ⟨failEntry (s.dropPending x.xid) x n, ?_, rfl, ?_, ?_⟩
      · simp [h, isMemory_iff.mpr hmem, memoryAnswer, ha]
      · rw [failEntry_arec (s.dropPending x.xid) n ht hs, List.length_map]
        rfl
      · exact mem_failEntry (s := s.dropPending x.xid) ht hs
  case dropped =>
    intro s p
    refine ⟨fun h => packetOf_of_not_ready h _ _ _, fun h bad => ⟨_, packetOf_of_bad h bad _, ?_⟩⟩
    obtain ⟨frame, -⟩ := onlySends_dropPacket s p
    rw [frame]
    exact ⟨rfl, rfl, by simp [State.log]⟩
  case again =>
    intro s n
    refine ⟨execFabricNackResend_of_none, execParkingNackRetry_of_none, fun x hp hid hn hty => ⟨fun hl far hc => ?_, fun k hl hc hmem ha ht hs => ?_⟩,
      fun x hp hid hn hty hu hs hc => ?_, fun h => execDeadlockRecoveryTimer_of_none fun p hw hx => not_stuck (h p hw hx),
      fun p hid he hv hd ht => ?_⟩
    · rw [execFabricNackResend_of_one hp hid hn hty hl, if_pos hc]
      exact congrArg _ (sendPacket_of_carried far hc)
    · rw [execFabricNackResend_of_one hp hid hn hty hl, hc, if_neg Bool.false_ne_true, unreachable_of_memory s hmem ha]
      refine ⟨_, rfl, rfl, ?_, (mem_failEntry (s := s.dropPending x.xid) ht hs).1⟩
      simp [failEntry, dropPending, hp]
      rfl
    · rw [execParkingNackRetry_of_one hp hid hn hty, resendMessage_of_steered hu hs hc, hp]
      simp
      rfl
    · have hstuck := stuck_of he hv hd ht
      exact ⟨execDeadlockRecoveryTimer_of_out hid hstuck, execDeadlockRecoveryTimer_of_due hid hstuck,
        fun d => execDeadlockRecoveryTimer_of_port hid hstuck⟩
  case operations =>
    intro s op h v
    refine ⟨execCtxopArrival_of_stale, execCtxopArrival_of_unassigned h v, fun ok => ⟨?_, ?_, ?_, ?_⟩⟩
    · rintro rfl hv
      simp [execCtxopArrival, ok, hv, setPrio]
    · rintro rfl hv
      simp [execCtxopArrival, ok, Nat.not_lt.mpr hv]
    · rintro (rfl | rfl) hb <;> simp [execCtxopArrival, hb]
    · rintro rfl hb hv
      have hbind : bindOk v = true := by simpa [bindOk] using hv
      exact ⟨setBind s h v, by simp [execCtxopArrival, ok, hb, hbind], setBind_spec v (state_ne_free_of_handleOk ok)⟩
  case mailboxes =>
    intro s p
    refine ⟨fun h => packetOf_of_not_ready h _ _ _, fun hready hty ha hl => ?_⟩
    rw [execMboxArrival_of_ok hready hty ha hl]
    have permitted : ∀ h : Word, (handlePart h = p.part ∨ p.arg.getLsbD 36 = true) →
        (decide (handlePart h ≠ p.part) && !p.arg.getLsbD 36) = false := fun h hpart => by
      rcases hpart with hpart | hpart
      · rw [hpart]; simp
      · rw [hpart]; simp
    refine ⟨fun ok hpart hcheck => ?_, fun ok hpart hcheck => ?_, fun ok => ?_, fun ok hpart hpriv => ?_⟩
    · simp only [ok, permitted _ hpart, hcheck, Bool.not_true, Bool.false_eq_true, if_false, if_true]
    · simp only [ok, permitted _ hpart, hcheck, Bool.not_true, Bool.false_eq_true, if_false]
      rfl
    · simp only [ok, Bool.not_false, if_true]
    · simp only [ok, hpart, hpriv, Bool.not_true, Bool.false_eq_true, if_false, ne_eq, not_false_eq_true, decide_true, Bool.not_false,
        Bool.and_self, if_true]
  case readiness =>
    intro s g l
    unfold execReadinessCacheRefresh
    refine ⟨fun h => whenReady_of_not_ready h _, fun h => ⟨_, whenReady_of_ready h _, ?_, ?_, ?_⟩⟩
    · rfl
    · simp
    · exact fun c => mem_setReadiness_cache

end Sys2Proof.Machine
end

section

/-! Accesses that complete at once: what the translation of their bytes leaves alone (R290 to R302, R358 to R364), and a read by an engine
without an L1 (R151, R276). -/
namespace Sys2Proof.Machine
open State

variable {s t : State}

theorem records_fst {α : Type} {p : State × α} {r : α} (h : p.1.records = s.records) (hp : p = (t, r)) : t.records = s.records := by
  subst hp; exact h

/-! The walker (R359 to R361). -/

@[simp] theorem cacheTlb_records (s : State) (e : TlbEntry) : (s.cacheTlb e).records = s.records := rfl

@[simp] theorem cacheAts_records (s : State) (port : BitVec 1) (part : BitVec 6) (gpa : Nat) : (s.cacheAts port part gpa).records = s.records := by
  unfold cacheAts; split <;> rfl

@[simp] theorem dropWalk_records (s : State) (die : BitVec 2) (line : Nat) : (s.dropWalk die line).records = s.records :=
  dropGrants_records ..

theorem setWalker_records (s : State) (l : List WalkLine) : State.records { s with walker := l } = s.records := rfl

@[simp] theorem keepWalk_records (s : State) (w : WalkLine) : (s.keepWalk w).records = s.records := by
  unfold keepWalk
  dsimp only
  repeat' split
  all_goals simp only [setWalker_records, dropWalk_records]

@[simp] theorem keepWalks_records (s : State) (die : BitVec 2) (part : BitVec 6) (root : Dword) (lines : List Nat) :
    (s.keepWalks die part root lines).records = s.records :=
  records_foldl (fun _ _ => keepWalk_records ..) _ _

theorem hostWalk_records {ctx : Word} {priv : Bool} {k : AKind} {va : Nat} {die : BitVec 2} {g : Nat}
    (h : hostWalk s ctx priv k va die = .found (t, g)) : t.records = s.records := by
  obtain ⟨l, h⟩ := Walk.found_of_bind h
  dsimp only at h
  split at h
  · cases h
  · split at h
    · obtain ⟨rfl, -⟩ := Prod.mk.inj (Walk.found.inj h)
      simp only [cacheTlb_records, keepWalks_records]
    · split at h
      · obtain ⟨rfl, -⟩ := Prod.mk.inj (Walk.found.inj h)
        simp only [cacheTlb_records, keepWalks_records, setMem_records]
      all_goals cases h

/-! Object pages (R290 to R302). -/

theorem createObject_records {ctx : Word} {obj : BitVec 48} (h : createObject s ctx obj = some t) : t.records = s.records := by
  unfold createObject at h
  dsimp only at h
  split at h
  · cases h; exact heal_records s _
  · split at h
    · cases h; exact heal_records s _
    · cases h

theorem setMemPoison_records (s : State) (mem : List Host.Cell) (l : List Nat) :
    State.records { s with mem := mem, poison := l } = s.records := rfl

theorem pullLine_records {p : Pde} {line : Nat} {full : Bool} (h : pullLine s p line full = some t) : t.records = s.records := by
  unfold pullLine at h
  dsimp only at h
  split at h
  · cases h; exact onPde_records ..
  · split at h
    · cases h
    · cases h; exact (onPde_records ..).trans (setMemPoison_records ..)

@[simp] theorem pageByte_records (s : State) (p : Pde) (full : Bool) (off : Nat) : (pageByte s p full off).1.records = s.records := by
  unfold pageByte
  (repeat' split) <;> try rfl
  exact pullLine_records ‹_›

@[simp] theorem resolveObject_records (s : State) (ctx : Word) (full : Bool) (gpa : Nat) :
    (resolveObject s ctx full gpa).1.records = s.records := by
  unfold resolveObject
  dsimp only
  split
  · exact pageByte_records ..
  · split
    · rfl
    · split
      · split
        · exact (pageByte_records ..).trans (createObject_records ‹_›)
        · rfl
      · rfl

/-! Addresses (R280, R358, R363). -/

@[simp] theorem stage2_records (s : State) (die : BitVec 2) (part : BitVec 6) (gpa : Nat) (k : AKind) :
    (stage2 s die part gpa k).1.records = s.records := by
  unfold stage2; (repeat' split) <;> rfl

@[simp] theorem deviceGpa_records (s : State) (die : BitVec 2) (part : BitVec 6) (gpa : Nat) (k : AKind) :
    (deviceGpa s die part gpa k).1.records = s.records := by
  unfold deviceGpa; split
  · rfl
  · exact stage2_records ..

@[simp] theorem hostGpa_records (s : State) (die : BitVec 2) (part : BitVec 6) (gpa : Nat) :
    (hostGpa s die part gpa).1.records = s.records := by
  unfold hostGpa; split
  · rfl
  · exact cacheAts_records ..

@[simp] theorem resolveGpa_records (s : State) (die : BitVec 2) (ctx : Word) (k : AKind) (full : Bool) (gpa : Nat) :
    (resolveGpa s die ctx k full gpa).1.records = s.records := by
  unfold resolveGpa
  dsimp only
  repeat' split
  all_goals simp only [deviceGpa_records, hostGpa_records, resolveObject_records]

theorem windowLoc_records {sp : Space} {full : Bool} {va : Nat} {x : State × TRes} (h : windowLoc s sp full va = some x) :
    x.1.records = s.records := by
  unfold windowLoc at h
  dsimp only at h
  split at h
  · cases h
  · split at h
    · split at h
      · split at h <;> cases h <;> rfl
      · cases h; rfl
    · split at h
      · split at h
        · cases h; rfl
        · cases h
          split
          · exact pageByte_records ..
          · rfl
      · cases h

@[simp] theorem translate_records (s : State) (sp : Space) (k : AKind) (full : Bool) (va : Dword) :
    (translate s sp k full va).1.records = s.records := by
  unfold translate
  dsimp only
  split
  · exact windowLoc_records ‹_›
  · split
    · exact resolveGpa_records ..
    · split
      · exact (resolveGpa_records ..).trans (hostWalk_records ‹_›)
      · rfl
      · rfl

theorem planBytes_records (sp : Space) (k : AKind) (cov : Dword → Bool) (n off : Nat) (va : Dword) (x : State × List (Nat × Loc)) :
    (planBytes sp k cov n off va x).1.records = x.1.records := by
  induction n generalizing off va x with
  | zero => rfl
  | succ n ih =>
    obtain ⟨s, acc⟩ := x
    have moved := translate_records s sp k (cov va) va
    unfold planBytes
    split
    · exact (ih ..).trans (records_fst moved ‹_›)
    · exact records_fst moved ‹_›

/-- Planning a request's bytes changes no strand, team, launch or array. -/
theorem planElems_records (sp : Space) (k : AKind) (es : List Elem) (x : State × List (Nat × Loc)) :
    (planElems sp k es x).1.records = x.1.records := by
  induction es generalizing x with
  | nil => rfl
  | cons e es ih =>
    obtain ⟨s, acc⟩ := x
    have moved := planBytes_records sp k (coversLine k e) e.size e.off e.va (s, acc)
    unfold planElems
    split
    · exact (ih ..).trans (records_fst moved ‹_›)
    · exact records_fst moved ‹_›

/-! A read that is performed at once. -/

variable {sp : Space} {u : State} {plan : List (Nat × Loc)}

theorem ReachIn.records {k : AKind} {es : List Elem} (h : ReachIn sp s k es u plan) : u.records = s.records :=
  records_fst (planElems_records sp k es (s, [])) h.1

/-- The bytes of this device and its host stand as they are. -/
theorem resolveFab_of_here (s : State) (part : BitVec 6) (k : AKind) (h : ∀ p ∈ plan, p.2.isFab = false) :
    resolveFab s part k plan = .ok plan := by
  induction plan with
  | nil => rfl
  | cons p l ih =>
    obtain ⟨o, loc⟩ := p
    have hl := ih (fun x hx => h x (List.mem_cons_of_mem _ hx))
    cases loc
    case fab a => exact absurd (h (o, .fab a) (List.mem_cons_self ..)) (by simp [Loc.isFab])
    all_goals simp [resolveFab, hl, Except.map]

/-- Where no line of the L1s waits, none of those selected does. -/
theorem l1Waits_of_all (p : L1Line → Bool) (h : l1Waits s (fun _ => true) = none) : l1Waits s p = none := by
  unfold l1Waits at h ⊢
  split at h
  · next he => rw [if_pos he]
  · next he =>
    rw [if_neg he]
    rw [List.findSome?_eq_none_iff] at h ⊢
    exact fun x hx => h x (by simpa using List.mem_of_mem_filter hx)

theorem badByte_of_sound (w : Bool) (h : ∀ p ∈ plan, s.bad p.2.key = false) : badByte s w plan = none := by
  unfold badByte
  split
  · rfl
  · rw [Option.map_eq_none_iff, List.find?_eq_none]
    exact fun p hp => by simp [h p (List.mem_of_mem_filter hp)]

theorem filter_here (h : ∀ p ∈ plan, p.2.isFab = false) : plan.filter (fun p => !p.2.isFab) = plan :=
  List.filter_eq_self.mpr fun p hp => by simp [h p hp]

theorem any_fab_of_here (h : ∀ p ∈ plan, p.2.isFab = false) : plan.any (fun p => p.2.isFab) = false := by
  simpa using h

/-- The state after a read by an engine without an L1 (R276). -/
def afterRead (sp : Space) (u : State) (plan : List (Nat × Loc)) : State :=
  flushL1 (u.touchRows (plan.map (·.2.key))) true (fun l => l.core / 128 == sp.die.toNat && l.meets (plan.map (·.2.key)))

/-- A read whose bytes can all be reached is performed at once. -/
theorem runReq_of_reach {q : Req} (hkind : q.kind = .load) (hwrite : q.write = false) (hatom : q.atom = none) (hpick : q.pick = [])
    (hcore : sp.core = none) (h : ReachIn sp s .read q.elems u plan) :
    runReq s sp q = .done (afterRead sp u plan) (readPlan (afterRead sp u plan).mem q.base plan) := by
  obtain ⟨hplan, hl1, hplaces⟩ := h
  have here : ∀ p ∈ plan, p.2.isFab = false := fun p hp => (hplaces p hp).1
  have sound : ∀ p ∈ plan, u.bad p.2.key = false := fun p hp => (hplaces p hp).2.1
  have free : plan.findSome? (fun p => if p.2.isFab then none else devWait u false p.2.key) = none :=
    List.findSome?_eq_none_iff.mpr fun p hp => by
      rw [here p hp]
      exact (hplaces p hp).2.2
  have hk : q.akind = .read := by simp [Req.akind, hatom, hwrite]
  have hprep : prepareL1 u sp q plan = afterRead sp u plan := by
    simp [prepareL1, prepareL1.dieL1, afterRead, hcore, hatom, hwrite, filter_here here]
  have hread : ∀ v imgs, readHere v sp imgs plan = readPlan v.mem imgs plan := fun v imgs => by
    simp [readHere, readPlan, hereByte, hcore]
  rw [runReq, hk, hplan, hkind, if_neg (by decide)]
  dsimp only
  rw [performPlan, hk, resolveFab_of_here u _ _ here]
  simp only [Except.map, Bool.false_eq_true, if_false]
  rw [show AKind.read.writes = false from rfl, free, l1Waits_of_all _ hl1]
  simp only [Option.orElse]
  rw [badByte_of_sound _ sound, hatom]
  simp only [hprep, any_fab_of_here here, hwrite, Bool.false_eq_true, if_false, orderDone, hcore, hread, Req.final, Req.start, hpick,
    List.isEmpty_nil, if_true]

end Sys2Proof.Machine
end

section

/-! Steps of the Cam sequencer (R49, R71, R72, R213, R214, R222, R224, R342, R356, R414), with the obligation O30. -/
namespace Sys2Proof.Machine
open State

/-! The accumulators of a tile (R72). -/

theorem get_set_tile {t : Tile} (w : Sparse.wf (0 : Word) t = true) (i j x : Nat) {k l : Nat} (hj : j < 128) (hl : l < 128) :
    (t.set i j x).get k l = if k = i ∧ l = j then x % 2 ^ 32 else t.get k l := by
  unfold Tile.get Tile.set
  by_cases h : k = i ∧ l = j
  · obtain ⟨rfl, rfl⟩ := h
    rw [Sparse.get_set_self _ _ _ w, if_pos ⟨rfl, rfl⟩, BitVec.toNat_ofNat]
  · rw [Sparse.get_set_ne _ _ (by omega), if_neg h]

/-- The new value of an accumulator: `z` starts it from zero. -/
def accNew (int z : Bool) (sum : XReal) (old : Nat) : Nat :=
  if int then addChunkInt (if z then 0 else old) sum else addChunk (if z then 0 else old) sum

/-- The exact sum of the products of a row of A and column `j` of the step's rows of B. -/
def chunkSum (cols : Array (Array XReal)) (row : List (Nat × XReal)) (j : Nat) : XReal :=
  exactSum (row.map (fun p => p.2.mul (((cols[p.1]?).getD #[])[j]?.getD (.fin 0 0))))

/-- A row of a step added into a tile. -/
def addRow (int z : Bool) (cols : Array (Array XReal)) (n : Nat) (t : Tile) (row : List (Nat × XReal)) (i : Nat) : Tile :=
  (List.range n).foldl (fun t j => t.set i j (accNew int z (chunkSum cols row j) (t.get i j))) t

theorem addStep_eq (int z : Bool) (rows : List (List (Nat × XReal))) (cols : Array (Array XReal)) (n : Nat) (t : Tile) :
    addStep int z rows cols n t = (rows.zip (List.range rows.length)).foldl (fun t ra => addRow int z cols n t ra.1 ra.2) t := rfl

section
variable (int z : Bool) (cols : Array (Array XReal))

theorem addRow_succ (n : Nat) (t : Tile) (row : List (Nat × XReal)) (i : Nat) : addRow int z cols (n + 1) t row i =
    (addRow int z cols n t row i).set i n (accNew int z (chunkSum cols row n) ((addRow int z cols n t row i).get i n)) := by
  simp only [addRow, List.range_succ, List.foldl_append, List.foldl_cons, List.foldl_nil]

theorem wf_addRow {t : Tile} (w : Sparse.wf (0 : Word) t = true) (n : Nat) (row : List (Nat × XReal)) (i : Nat) :
    Sparse.wf (0 : Word) (addRow int z cols n t row i) = true := by
  induction n with
  | zero => exact w
  | succ n ih => rw [addRow_succ]; exact Sparse.wf_set _ _ _ ih

/-- A row of a step changes the first `n` accumulators of its row alone. -/
theorem get_addRow {t : Tile} (w : Sparse.wf (0 : Word) t = true) {n : Nat} (hn : n ≤ 128) (row : List (Nat × XReal)) (i : Nat) {k l : Nat}
    (hl : l < 128) : (addRow int z cols n t row i).get k l =
      if k = i ∧ l < n then accNew int z (chunkSum cols row l) (t.get k l) % 2 ^ 32 else t.get k l := by
  induction n with
  | zero => simp [addRow]
  | succ n ih =>
    rw [addRow_succ, get_set_tile (wf_addRow int z cols w n row i) _ _ _ (by omega) hl, ih (by omega)]
    by_cases hnew : k = i ∧ l = n
    · obtain ⟨rfl, rfl⟩ := hnew
      have hold : (addRow int z cols l t row k).get k l = t.get k l := by rw [ih (by omega), if_neg (by omega)]
      rw [if_pos ⟨rfl, rfl⟩, if_pos ⟨rfl, Nat.lt_succ_self l⟩, hold]
    · rw [if_neg hnew]
      by_cases hold : k = i ∧ l < n
      · rw [if_pos hold, if_pos ⟨hold.1, by omega⟩]
      · rw [if_neg hold, if_neg (by omega)]

/-- A step adds the chunk of its row and column to each accumulator below the rows and columns of the multiply. -/
theorem get_addStep {t : Tile} (w : Sparse.wf (0 : Word) t = true) {n : Nat} (hn : n ≤ 128) (rows : List (List (Nat × XReal))) {k l : Nat}
    (hl : l < 128) : Sparse.wf (0 : Word) (addStep int z rows cols n t) = true ∧ (addStep int z rows cols n t).get k l =
      if k < rows.length ∧ l < n then accNew int z (chunkSum cols (rows[k]?.getD []) l) (t.get k l) % 2 ^ 32 else t.get k l := by
  induction rows using List.reverseRecOn with
  | nil => exact ⟨w, by simp [addStep]⟩
  | append_singleton rows row ih =>
    obtain ⟨hwf, hget⟩ := ih
    have hsplit : addStep int z (rows ++ [row]) cols n t = addRow int z cols n (addStep int z rows cols n t) row rows.length := by
      rw [addStep_eq, addStep_eq, List.length_append, List.length_singleton, List.range_succ,
        List.zip_append (List.length_range.symm), List.foldl_append]
      rfl
    rw [hsplit, get_addRow int z cols hwf hn row _ hl, hget]
    refine ⟨wf_addRow int z cols hwf n row _, ?_⟩
    rcases Nat.lt_trichotomy k rows.length with hk | rfl | hk
    · simp [hk, Nat.ne_of_lt hk, Nat.lt_succ_of_lt hk]
    · simp
    · have hk' : ¬ k < rows.length + 1 := by omega
      simp [Nat.ne_of_gt hk, Nat.not_lt_of_gt hk, hk']

end

/-! The operands of a step (R212, R414). -/

variable {s : State} {c : MtxCmd}

theorem snooped_records (s u : State) (w : Bool) (plan : List (Nat × Loc)) : (s.snooped u w plan).records = u.records := by
  have hrows : ∀ keys, (u.touchRows keys).records = u.records := fun keys => by unfold touchRows; split <;> rfl
  exact (congrArg State.records ((flushL1_spec ..).1.1)).trans (hrows _)

/-- The state in which a command that reads no other device goes on: its answers are used up. -/
def State.operandsRead (v : State) : State := v.onCs (fun t => ({ t with mreq := none } : Strand).clearAnswered)

/-- Operands of this device and its host are read at once. -/
theorem mtxAccess_of_reach {unit : EUnit} {priv : Bool} {q : Req} {u : State} {plan : List (Nat × Loc)} (hkind : q.kind = .load)
    (hwrite : q.write = false) (hatom : q.atom = none) (hpick : q.pick = []) (hm : s.cs.mreq = none) (hno : NoAnswer s q.elems)
    (h : ReachIn { spaceOf s.cs s.csTeam with priv := priv } s .read q.elems u plan) :
    mtxAccess s unit priv q = .data (s.snooped u false plan).operandsRead (readPlan (s.snooped u false plan).mem q.base plan) := by
  have hans : q.elems.findSome? (fun e => refusedAt s.cs.answered e.va e.size) = none := List.findSome?_eq_none_iff.mpr hno
  unfold mtxAccess
  rw [hm]
  dsimp only
  rw [hans]
  dsimp only
  unfold mtxRun
  rw [runReq_of_reach hkind hwrite hatom hpick rfl h]
  rfl

/-! Cam steps (R222). -/

theorem execCamStep_of_idle (h : s.cs.mtx = none ∨ s.camReady s.cs = false) : execCamStep s = .next s := by
  unfold execCamStep
  rcases h with h | h
  · rw [h]
  · rw [h]; split <;> rfl

theorem execCamStep_of_mmt (hc : s.cs.mtx = some c) (hr : s.camReady s.cs = true) (hop : c.opcode = 0) :
    execCamStep s = .next (mmtStep s c) := by
  simp [execCamStep, hc, hr, hop]

/-- A command that reads a damaged part traps (R356). -/
theorem mmtStep_of_bad (h : s.arrayBad s.cs (c.partsRead s s.cs) = true) :
    mmtStep s c = s.cmdTrap c .uncorrectable (BitVec.allOnes 64) := by
  simp only [mmtStep, h, if_true]

/-- The tile of a later step is among the parts it reads. -/
theorem arrayBad_of_tile (hstep : c.step ≠ 0) (h : (s.array s.cs.arrayNo).readNo (s.tileNo s.cs c.acc) c.spec ∈ (s.array s.cs.arrayNo).bad) :
    s.arrayBad s.cs (c.partsRead s s.cs) = true :=
  List.any_eq_true.mpr ⟨(s.array s.cs.arrayNo).readNo (s.tileNo s.cs c.acc) c.spec, by simp [MtxCmd.partsRead, hstep], by simpa using h⟩

theorem readNo_eq (a : ArrayState) (n : Nat) (spec : Bool) :
    n + (if spec = true ∧ a.spec.getLsbD n = true then 12 else 0) = a.readNo n spec := by
  unfold ArrayState.readNo
  by_cases h : spec = true ∧ a.spec.getLsbD n = true
  · simp [h]; omega
  · rw [if_neg h, if_neg (by simpa using h)]; rfl

/-- The array after a step of `mmt` on operands `imgs`, in sound memory. -/
def mmtChunk (c : MtxCmd) (imgs : List Vec) (tn : Nat) (ar : ArrayState) : ArrayState :=
  let ar := if c.spec = true ∧ c.step = 0 then ar.enterSpec tn else ar
  ar.setView tn c.spec (addStep (isIntOp (dFMT c.a) (dMODE c.a)) (c.z && c.step == 0) ((List.range (dROWS c.a)).map (aRow imgs c.a c.step))
    ((List.range 32).map (fun r => (bRow imgs c.b (dFMT c.a) r (dCOLS c.b)).toArray)).toArray (dCOLS c.b) (ar.view tn c.spec))

theorem mmtStep_of_data {v : State} {imgs : List Vec} (hwb : c.wb = none) (hbad : (s.array s.cs.arrayNo).bad = [])
    (hdata : mtxAccess s c.unit c.priv (keptReq c (stepReads c.a (some c.b) c.step) 44) = .data v imgs) (hv : v.arrays = s.arrays) :
    mmtStep s c =
      let done := { c with step := c.step + 1, kept := keepAfter c (stepReads c.a (some c.b) c.step) imgs }
      let next := v.onArray s.cs (mmtChunk c imgs (s.tileNo s.cs c.acc))
      if (c.step + 1) * 32 = depthOf c.a then next.mtxDone done else next.onCs (fun t => { t with mtx := some done }) := by
  have sound : ∀ parts, s.arrayBad s.cs parts = false := fun parts => by simp [arrayBad, hbad]
  have harray : v.array = s.array := by unfold array; rw [hv]
  have htile : v.tileNo s.cs c.acc = s.tileNo s.cs c.acc := by unfold tileNo; rw [harray]
  have hcols : c.cols v s.cs = dCOLS c.b := by simp [MtxCmd.cols, hwb]
  have hent : (if (c.spec && decide (c.step = 0)) = true then (s.array s.cs.arrayNo).enterSpec (s.tileNo s.cs c.acc)
      else s.array s.cs.arrayNo).bad = [] := by
    split
    · exact ArrayState.enterSpec_bad hbad _
    · exact hbad
  have hcond : (if (c.spec && decide (c.step = 0)) = true then (s.array s.cs.arrayNo).enterSpec (s.tileNo s.cs c.acc)
      else s.array s.cs.arrayNo) = if c.spec = true ∧ c.step = 0 then (s.array s.cs.arrayNo).enterSpec (s.tileNo s.cs c.acc)
      else s.array s.cs.arrayNo := by simp
  unfold mmtStep
  dsimp only
  rw [hwb, sound, if_neg Bool.false_ne_true]
  simp only [Option.isSome_none, Bool.false_eq_true, if_false]
  rw [hdata]
  dsimp only
  rw [htile, harray, hcols, ArrayState.covered_of_sound hent, ite_self, hcond]
  simp only [onArray, mmtChunk, harray]

/-! Relocation (R224, R342). -/

/-- Array `n` may take a command of the stepping strand. -/
def State.mayTake (s : State) (n : Nat) : Prop := n ≠ s.cs.arrayNo ∧ s.arrayIdle n = true ∧ s.arrayOpen s.cs.part n = true

theorem execRelocationTake_of_taker (hc : s.cs.mtx = some c) (k : BitVec 8) :
    execRelocationTake k s = .next (if takerOf s = some k.toNat then runSteps (depthOf c.a / 32) s else s) := by
  simp only [execRelocationTake, hc]

/-- The arrays of the strand's tile in increasing number, the first that may take the command. -/
theorem takerOf_of_relocatable (hc : s.cs.mtx = some c) (hop : c.opcode = 0) (hrel : c.rel = true) (hz : c.z = true) (hspec : c.spec = false)
    (hstep : c.step = 0) (hlive : s.cs.live = true) (hm : s.cs.mreq = none) (hin : operandsInTile s c = true) :
    takerOf s = ((List.range 4).map (s.cs.arrayNo / 4 * 4 + ·)).find? (fun n =>
      n ≠ s.cs.arrayNo && s.arrayIdle n && s.arrayOpen s.cs.part n) := by
  simp [takerOf, hc, hop, hrel, hz, hspec, hstep, hlive, hm, hin]

theorem takerOf_of_fixed (h : ∀ c, s.cs.mtx = some c → c.rel = false) : takerOf s = none := by
  unfold takerOf
  cases hc : s.cs.mtx with
  | none => rfl
  | some c => simp [h c hc]

theorem takes_iff (s : State) (n : Nat) :
    (decide (n ≠ s.cs.arrayNo) && s.arrayIdle n && s.arrayOpen s.cs.part n) = true ↔ s.mayTake n := by
  simp [mayTake, and_assoc]

/-- The first of a tile's four arrays with a property. -/
theorem find?_tile {p : Nat → Bool} {b k : Nat} (hb : k / 4 = b) (hp : p k = true) (hmin : ∀ n < k, n / 4 = b → p n = false) :
    ((List.range 4).map (b * 4 + ·)).find? p = some k := by
  have hk : b * 4 + k % 4 = k := by omega
  have hfind : (List.range 4).find? (p ∘ (b * 4 + ·)) = some (k % 4) := by
    rw [List.find?_range_eq_some]
    refine ⟨by simpa [hk] using hp, by simp; omega, fun j hj => ?_⟩
    simp [hmin (b * 4 + j) (by omega) (by omega)]
  rw [List.find?_map, hfind, Option.map_some, hk]

/-- Settles O30: a chunk by `mmtStep_of_data` and `get_addStep`, the taker by its search through the tile. -/
theorem camStepsAddOneChunk : Obligations.CamStepsAddOneChunk := by
  unfold Obligations.CamStepsAddOneChunk
  refine ⟨?chunk, ?damaged, ?sums, fun s h => execCamStep_of_idle h, fun s k => rfl, ?taken, ?fixed⟩
  case chunk =>
    intro s c u plan hc hr hop hwb hm hbad es q hno hreach v imgs u' tn n rows cols done next
    have hdata := mtxAccess_of_reach (unit := c.unit) rfl rfl rfl rfl hm hno hreach
    have hv : u'.arrays = s.arrays := (records_eq_iff.mp ((snooped_records s u false plan).trans hreach.records)).2.2.2.2
    have hstep := mmtStep_of_data hwb hbad hdata hv
    rw [exec_camStep, execCamStep_of_mmt hc hr hop, hstep]
    exact ⟨fun h => congrArg _ (if_pos h), fun h => congrArg _ (if_neg h)⟩
  case damaged =>
    intro s c hc hr hop hstep hbad
    rw [readNo_eq] at hbad
    rw [exec_camStep, execCamStep_of_mmt hc hr hop, mmtStep_of_bad (arrayBad_of_tile hstep hbad)]
    rfl
  case sums =>
    intro int z rows cols n i j x hwf _ hn _ hj
    exact (get_addStep int z cols hwf hn rows hj).2
  case taken =>
    intro s k c hc hop hrel hz hspec hstep hlive hm hin open'
    have htaker := takerOf_of_relocatable hc hop hrel hz hspec hstep hlive hm hin
    rw [exec_relocationTake, execRelocationTake_of_taker hc, htaker]
    refine ⟨fun htile hopen hmin => ?_, fun hclosed => ?_⟩
    · rw [find?_tile htile ((takes_iff ..).mpr hopen) (fun n hn ht => Bool.eq_false_iff.mpr fun h => hmin n hn ht ((takes_iff ..).mp h)),
        if_pos rfl]
    · refine congrArg _ (if_neg fun h => hclosed ?_)
      have htakes := List.find?_some h
      exact (takes_iff ..).mp htakes
  case fixed =>
    intro s k h
    rw [exec_relocationTake, execRelocationTake]
    cases hc : s.cs.mtx with
    | none => rfl
    | some c =>
      rw [takerOf_of_fixed h]
      rfl

end Sys2Proof.Machine
end

section

/-! What the words of the VEC and SFU engines leave alone (R34, R40, R90, R181, R200, R343, R346). -/
namespace Sys2Proof.Machine
open State

/-! The control state of a strand: what no result, queue, clock or flag belongs to. -/

/-- Context and place, fetch address, descriptors, views, trap vector, modes and window bases. -/
def Strand.control (t : Strand) : Word × Nat × Nat × BitVec 2 × BitVec 4 × BitVec 3 × Dword × Sparse Desc × Bool × Bool × Dword ×
    BitVec 3 × BitVec 2 × Dword × Dword :=
  (t.ctx, t.team, t.sid, t.die, t.tile, t.core, t.pc, t.d, t.p, t.pp, t.tvec, t.rndm, t.scbm, t.tsbase, t.dswbase)

@[simp] theorem setHeld_control (t : Strand) (b : Bool) : (t.setHeld b).control = t.control := rfl
@[simp] theorem setVr_control (t : Strand) (n : Nat) (x : Vec) : (t.setVr n x).control = t.control := rfl
@[simp] theorem setMr_control (t : Strand) (n : Nat) (x : Mask) : (t.setMr n x).control = t.control := rfl
@[simp] theorem raise_control (t : Strand) (f : Flags) : (t.raise f).control = t.control := rfl
@[simp] theorem setStat_control (t : Strand) (b : BitVec 6) : (t.setStat b).control = t.control := rfl
@[simp] theorem pushq_control (t : Strand) (q : Nat) (e : QEntry) : (t.pushq q e).control = t.control := rfl
@[simp] theorem repaired_control (t : Strand) (p : CorePart) : (t.repaired p).control = t.control := rfl
@[simp] theorem setTable_control (t : Strand) (n : Nat) (x : SfuTable) : (t.setTable n x).control = t.control := rfl
@[simp] theorem topk_control (t : Strand) (x : TopK) : { t with topk := x }.control = t.control := rfl
@[simp] theorem stop_control (t : Strand) : t.stop.control = t.control := rfl

@[simp] theorem popq_control (t : Strand) (q : Nat) : (t.popq q).2.control = t.control := by
  unfold Strand.popq; split <;> rfl

@[simp] theorem signal_control (t : Strand) (g : Option (BitVec 4)) : (t.signal g).control = t.control := by
  obtain ⟨e, h⟩ := signal_e t g
  rw [h]; rfl

@[simp] theorem settlePend_control (sfu : Bool) (c : Nat) (t : Strand) : (t.settlePend sfu c).control = t.control := by
  obtain ⟨e, fl, h⟩ := settlePend_eq sfu c t
  rw [h]; cases sfu <;> rfl

theorem control_foldl {α : Type} {f : Strand → α → Strand} (hf : ∀ t x, (f t x).control = t.control) (l : List α) (t : Strand) :
    (l.foldl f t).control = t.control := by
  induction l generalizing t with
  | nil => rfl
  | cons x l ih => exact (ih _).trans (hf t x)

/-! Operands and results. -/

@[simp] theorem takeSources_control (u : EUnit) (fs : List (Nat × BitVec 6)) (t : Strand) :
    (takeSources u fs t).2.control = t.control := by
  induction fs generalizing t with
  | nil => rfl
  | cons f fs ih =>
    rw [takeSources]
    split
    · exact ih t
    · exact (ih _).trans (popq_control ..)

@[simp] theorem sources_control (view t : Strand) (fs : List (Nat × BitVec 6)) : (sources view t fs).2.control = t.control :=
  takeSources_control ..

@[simp] theorem putLanes_control (view t : Strand) (d : BitVec 6) (w n : Nat) (f : Nat → Nat × Flags) :
    (putLanes view t d w n f).control = t.control := by
  unfold putLanes
  dsimp only
  split <;> rfl

@[simp] theorem putWhole_control (t : Strand) (k : Nat) (d : BitVec 6) (v : Vec) (mask : Mask) : (putWhole t k d v mask).control = t.control := by
  unfold putWhole
  split <;> rfl

@[simp] theorem putMask_control (view t : Strand) (d n : Nat) (f : Nat → Bool × Flags) : (putMask view t d n f).control = t.control := rfl

/-! The effect of a word on its state. -/

variable {s t : State}

/-- `t` is `s` but for the strands, the team and launch that a trap can end, the error log and a counter of the model; and where the
stepping strand has taken or dropped no frame, its control state is as before. -/
structure OnlyStrands (s t : State) : Prop where
  frame : t = { s with cs := t.cs, others := t.others, teams := t.teams, launches := t.launches, free := t.free, errLog := t.errLog }
  control : t.cs.frame = s.cs.frame → t.cs.control = s.cs.control

/-- A change of the stepping strand that keeps its control state. -/
theorem OnlyStrands.onCs {f : Strand → Strand} (hf : ∀ x, (f x).control = x.control) : OnlyStrands s (s.onCs f) :=
  ⟨rfl, fun _ => hf _⟩

/-- A trap takes a frame, or ends the team, which leaves the control state of its strands (R344, R346). -/
theorem onlyStrands_enterTrap (s : State) (u : EUnit) (eng : Nat) (c : Cause) (tval tepc : Dword) (pops pushes : List Nat) :
    OnlyStrands s (s.enterTrap u eng c tval tepc false none pops pushes) := by
  have logged : ∀ s' : State, (s' = s ∨ s' = s.log s.cs.die.toNat logUncorrectable tval.toNat) → OnlyStrands s
      (if s'.cs.frame.isSome || s'.cs.tvec = 0 then (s'.haltTeam statusAborted 0).onCs (fun t => t.setHeld false)
        else s'.onCs (fun t => t.enter u eng c tval tepc false none pops pushes)) := fun s' hs' => by
    have hcs : s'.cs = s.cs := by rcases hs' with rfl | rfl <;> rfl
    split
    · refine ⟨by rcases hs' with rfl | rfl <;> rfl, fun _ => ?_⟩
      rw [← hcs]
      simp only [haltTeam, onStrands, onCs_cs, onTeam_cs, beq_self_eq_true, if_true, setHeld_control, stop_control]
    · next hfree =>
      refine ⟨by rcases hs' with rfl | rfl <;> rfl, fun hframe => ?_⟩
      rw [Bool.or_eq_true, not_or, hcs] at hfree
      rw [Option.not_isSome_iff_eq_none.mp hfree.1] at hframe
      cases hframe
  unfold enterTrap
  dsimp only
  split
  · exact logged _ (.inr rfl)
  · exact logged _ (.inl rfl)

/-- The trap of a word whose issue has changed no more than the strand's hold. -/
theorem onlyStrands_trap (s : State) (b : Bool) (c : Cause) (v : Dword) (pops pushes : List Nat) :
    OnlyStrands s ((s.onCs (fun t => t.setHeld b)).trap c v pops pushes) := by
  obtain ⟨frame, control⟩ := onlyStrands_enterTrap (s.onCs (fun t => t.setHeld b)) (s.onCs (fun t => t.setHeld b)).cs.unit
    (engineOf (s.onCs (fun t => t.setHeld b)).cs.unit.word % 6) c v (s.onCs (fun t => t.setHeld b)).cs.unit.addr pops pushes
  exact ⟨frame, control⟩

/-- The effect of a word of both engines: a trap, or a next state in which the strand's control state stands. -/
theorem enginesAct_cases (r : Roles) (mr mw : List Nat) (sfu : Bool) (lat stall : Nat) {body : Strand → Strand → Strand}
    (hbody : ∀ view t, (body view t).control = t.control) (s : State) :
    (∃ c v, enginesAct r mr mw sfu lat stall body s = .trap c v) ∨
    ∃ t : State, t = { s with cs := t.cs, free := t.free } ∧ t.cs.control = s.cs.control ∧
      (enginesAct r mr mw sfu lat stall body s = .ok t ∨ enginesAct r mr mw sfu lat stall body s = .okNoSig t) := by
  unfold enginesAct
  extract_lets t0 u mode
  split
  next n s' hs' =>
  have hfree : s' = { s with free := s'.free } := by cases hs'; rfl
  extract_lets c0 early c t1 view t2 new t3 s''
  split
  · exact .inl ⟨_, _, rfl⟩
  · have hcontrol : s''.cs.control = s.cs.control := by
      have h3 : t3.control = t0.control := (hbody view _).trans (settlePend_control sfu c t0)
      simp only [s'', onCs_cs]
      split
      · exact h3
      · exact h3
    refine .inr ⟨s'', ?_, hcontrol, ?_⟩
    · simp only [s'']
      rw [hfree]
      rfl
    · split
      · exact .inl rfl
      · exact .inr rfl

/-- A word of the VEC or SFU engine changes its strand alone, in what no control state belongs to. -/
theorem onlyStrands_enginesWord {r : Roles} {fate : Option Cause} {mr mw : List Nat} {sfu : Bool} {lat stall : Nat}
    {body : Strand → Strand → Strand} (hbody : ∀ view t, (body view t).control = t.control)
    (h : enginesWord r fate mr mw sfu lat stall body s = .next t) : OnlyStrands s t := by
  have held : ∀ b, OnlyStrands s (s.onCs (fun t => t.setHeld b)) := fun b => .onCs fun _ => rfl
  cases h
  unfold issueWith
  extract_lets u s0 hold
  split
  · exact held true
  · split
    · exact onlyStrands_trap ..
    · by_cases hdamage : r.readsDamage s0.cs = true
      · rw [undamaged, if_pos hdamage]
        exact onlyStrands_trap ..
      · rw [undamaged, if_neg hdamage]
        obtain ⟨c, v, hact⟩ | ⟨t, hframe, hcontrol, hact | hact⟩ := enginesAct_cases r mr mw sfu lat stall hbody s0
        · rw [hact]
          exact onlyStrands_trap ..
        · rw [hact]
          exact ⟨by rw [hframe]; rfl, fun _ => (signal_control ..).trans hcontrol⟩
        · rw [hact]
          exact ⟨by rw [hframe]; rfl, fun _ => hcontrol⟩

/-- Whatever next state the word answers, it changes its strand alone. -/
structure OnLanes (s : State) (x : Result) : Prop where
  onlyStrands : ∀ t, x = .next t → OnlyStrands s t

theorem vecWord_onLanes (i : Instr) (sbit : BitVec 1) {body : Strand → Strand → Strand}
    (hbody : ∀ view t, (body view t).control = t.control) (s : State) : OnLanes s (vecWord i sbit body s) :=
  ⟨fun _ => onlyStrands_enginesWord hbody⟩

theorem sfuWord_onLanes (r : Roles) (ok : Bool) (lat : Nat) (k : BitVec 3) {body : Strand → Strand → Strand}
    (hbody : ∀ view t, (body view t).control = t.control) (s : State) : OnLanes s (sfuWord r ok lat k body s) :=
  ⟨fun _ => onlyStrands_enginesWord hbody⟩

/-! The families of words. -/

section Families
variable (i : Instr) (y : BitVec 3) (d a b : BitVec 6) (k4 : BitVec 4) (sbit : BitVec 1) (s : State)

theorem intWord1_onLanes (f : Nat → Nat) : OnLanes s (intWord1 i y d a sbit f s) :=
  vecWord_onLanes _ _ (fun _ _ => (putLanes_control ..).trans (sources_control ..)) s

theorem intWord2_onLanes (f : Nat → Nat → Nat) : OnLanes s (intWord2 i y d a b sbit f s) :=
  vecWord_onLanes _ _ (fun _ _ => (putLanes_control ..).trans (sources_control ..)) s

theorem intWord3_onLanes (f : Nat → Nat → Nat → Nat) : OnLanes s (intWord3 i y d a b sbit f s) :=
  vecWord_onLanes _ _ (fun _ _ => (putLanes_control ..).trans (sources_control ..)) s

theorem floatWord2_onLanes (f : Fmt → RMode → Nat → Nat → Nat × Flags) : OnLanes s (floatWord2 i y d a b sbit f s) :=
  vecWord_onLanes _ _ (fun _ _ => (putLanes_control ..).trans (sources_control ..)) s

theorem signWord_onLanes (f : Nat → Nat → Nat) : OnLanes s (signWord i y d a sbit f s) :=
  vecWord_onLanes _ _ (fun _ _ => (putLanes_control ..).trans (sources_control ..)) s

theorem intCompare_onLanes (f : Int → Int → Bool) : OnLanes s (intCompare i y k4 a b sbit f s) :=
  vecWord_onLanes _ _ (fun _ _ => (putMask_control ..).trans (sources_control ..)) s

theorem floatCompare_onLanes (c : Nat) : OnLanes s (floatCompare i c y k4 a b sbit s) :=
  vecWord_onLanes _ _ (fun _ _ => (putMask_control ..).trans (sources_control ..)) s

theorem maskWord_onLanes (f : Strand → Mask) : OnLanes s (maskWord i k4 sbit f s) :=
  vecWord_onLanes _ _ (fun _ _ => setMr_control ..) s

theorem maskCount_onLanes (f : Strand → Nat) : OnLanes s (maskCount i d sbit f s) :=
  vecWord_onLanes _ _ (fun _ _ => putWhole_control ..) s

theorem intReduce_onLanes (f : Nat → Nat → Nat) (n : Nat) : OnLanes s (intReduce i y d a sbit f n s) :=
  vecWord_onLanes _ _ (fun _ _ => (putWhole_control ..).trans (sources_control ..)) s

theorem floatReduce_onLanes (f : RMode → Nat → Nat → Nat × Flags) (n : Nat) : OnLanes s (floatReduce i y d a sbit f n s) :=
  vecWord_onLanes _ _ (fun _ _ => (putWhole_control ..).trans ((raise_control ..).trans (sources_control ..))) s

theorem transWord_onLanes (k : BitVec 3) (f : Fmt → RMode → FVal → Nat × Flags) : OnLanes s (transWord y d a k f s) :=
  sfuWord_onLanes _ _ _ _ (fun _ _ => (putLanes_control ..).trans (sources_control ..)) s

/-! Words of their own. -/

theorem execVfma_onLanes : OnLanes s (execVfma y d a b sbit s) :=
  vecWord_onLanes _ _ (fun _ _ => (putLanes_control ..).trans (sources_control ..)) s

theorem execMsetLt_onLanes : OnLanes s (execMsetLt k4 a sbit s) :=
  vecWord_onLanes _ _ (fun _ _ => setMr_control ..) s

theorem execMsetGe_onLanes : OnLanes s (execMsetGe k4 a sbit s) :=
  vecWord_onLanes _ _ (fun _ _ => setMr_control ..) s

theorem execMsetQ_onLanes : OnLanes s (execMsetQ k4 a sbit s) :=
  vecWord_onLanes _ _ (fun _ t => by dsimp only; split <;> simp) s

theorem execVsel_onLanes : OnLanes s (execVsel y d a b sbit s) :=
  vecWord_onLanes _ _ (fun _ _ => (putWhole_control ..).trans (sources_control ..)) s

theorem execVbcast_onLanes : OnLanes s (execVbcast y d a sbit s) :=
  vecWord_onLanes _ _ (fun _ _ => putLanes_control ..) s

theorem execVext_onLanes : OnLanes s (execVext y d a b sbit s) :=
  vecWord_onLanes _ _ (fun _ _ => (putWhole_control ..).trans (sources_control ..)) s

theorem execVins_onLanes : OnLanes s (execVins y d a b sbit s) :=
  vecWord_onLanes _ _ (fun _ _ => (putWhole_control ..).trans (sources_control ..)) s

theorem execVperm_onLanes : OnLanes s (execVperm y d a b sbit s) :=
  vecWord_onLanes _ _ (fun _ _ => (putLanes_control ..).trans (sources_control ..)) s

theorem execVshuf_onLanes : OnLanes s (execVshuf y d a b sbit s) :=
  vecWord_onLanes _ _ (fun _ _ => (putLanes_control ..).trans (sources_control ..)) s

theorem execVrot_onLanes : OnLanes s (execVrot y d a b sbit s) :=
  vecWord_onLanes _ _ (fun _ _ => (putLanes_control ..).trans (sources_control ..)) s

theorem execVidx_onLanes : OnLanes s (execVidx y d a sbit s) :=
  vecWord_onLanes _ _ (fun _ _ => putLanes_control ..) s

theorem execVlut_onLanes : OnLanes s (execVlut y d a b sbit s) :=
  vecWord_onLanes _ _ (fun _ _ => (putLanes_control ..).trans (sources_control ..)) s

theorem execVscanAdd_onLanes (f : BitVec 1) : OnLanes s (execVscanAdd y d a f sbit s) :=
  vecWord_onLanes _ _ (fun _ _ => (putLanes_control ..).trans (sources_control ..)) s

/-- Every register or queue entry of the result is a result (R193). -/
theorem execVcvt_onLanes (sat q r : BitVec 1) (ty : BitVec 3) : OnLanes s (execVcvt y d a sat q r ty sbit s) :=
  vecWord_onLanes _ _ (fun view t => by
    dsimp only
    rw [control_foldl]
    · simp
    · intro t j
      split <;> rfl) s

theorem execVquant_onLanes : OnLanes s (execVquant y d a b sbit s) :=
  vecWord_onLanes _ _ (fun view t => by
    dsimp only
    split <;> simp only [setVr_control, putWhole_control, raise_control, sources_control]) s

theorem execVdequant_onLanes : OnLanes s (execVdequant y d a sbit s) :=
  vecWord_onLanes _ _ (fun _ _ => (putLanes_control ..).trans (sources_control ..)) s

theorem execVsmxUpd_onLanes : OnLanes s (execVsmxUpd d a b sbit s) :=
  vecWord_onLanes _ _ (fun _ _ => by simp only [putWhole_control, raise_control, sources_control]) s

theorem execVsmxFin_onLanes : OnLanes s (execVsmxFin d a b sbit s) :=
  vecWord_onLanes _ _ (fun view t => by dsimp only; split <;> simp) s

theorem execVrbias_onLanes : OnLanes s (execVrbias d a b sbit s) :=
  vecWord_onLanes _ _ (fun _ _ => (putLanes_control ..).trans (sources_control ..)) s

variable (f k : BitVec 3)

theorem execSfuSqrt_onLanes : OnLanes s (execSfuSqrt y d a k s) :=
  sfuWord_onLanes _ _ _ _ (fun _ _ => (putLanes_control ..).trans (sources_control ..)) s

/-- Each element that is loaded repairs its knot (R201). -/
theorem execTload_onLanes : OnLanes s (execTload d a f k s) :=
  sfuWord_onLanes _ _ _ _ (fun view t => by
    dsimp only
    rw [setTable_control, control_foldl]
    · simp
    · intro t j
      split <;> rfl) s

theorem execTint_onLanes : OnLanes s (execTint y d a f k s) :=
  sfuWord_onLanes _ _ _ _ (fun _ _ => (putLanes_control ..).trans (sources_control ..)) s

theorem execTopkInit_onLanes : OnLanes s (execTopkInit y a k s) :=
  sfuWord_onLanes _ _ _ _ (fun _ _ => (topk_control ..).trans (repaired_control ..)) s

theorem execTopkFeed_onLanes : OnLanes s (execTopkFeed y d a k s) :=
  sfuWord_onLanes _ _ _ _ (fun _ _ => (topk_control ..).trans (sources_control ..)) s

theorem execTopkEmit_onLanes : OnLanes s (execTopkEmit d a f k s) :=
  sfuWord_onLanes _ _ _ _ (fun view t => by dsimp only; split <;> simp) s

theorem execTopkQ_onLanes : OnLanes s (execTopkQ d k s) :=
  sfuWord_onLanes _ _ _ _ (fun _ _ => putWhole_control ..) s

end Families

end Sys2Proof.Machine
end

section
namespace Sys2Proof.Machine
open State

/-- The three top bits of a word's number name its engine (R77). -/
theorem not_lanes_of_number {w : Word} {n : Nat} (hw : w = BitVec.ofNat 32 n)
    (hn : n % 2 ^ 32 / 2 ^ 29 % 2 ^ 3 ≠ 2 ∧ n % 2 ^ 32 / 2 ^ 29 % 2 ^ 3 ≠ 4) : ¬(engineOf w = 2 ∨ engineOf w = 4) := by
  have hengine : engineOf w = n % 2 ^ 32 / 2 ^ 29 % 2 ^ 3 := by rw [hw]; rfl
  rw [hengine, not_or]
  exact hn

/-- A word of the VEC or SFU engine is one of the lane words above; no other word has their engine number. -/
theorem exec_onLanes (i : Instr) (hw : i.isWord = true) (h : engineOf (encode i) = 2 ∨ engineOf (encode i) = 4) (s : State) : OnLanes s (exec i s) := by
  cases i with
  | vadd => rw [exec_vadd]; exact intWord2_onLanes ..
  | vsub => rw [exec_vsub]; exact intWord2_onLanes ..
  | vmul => rw [exec_vmul]; exact intWord2_onLanes ..
  | vmulh => rw [exec_vmulh]; exact intWord2_onLanes ..
  | vmad => rw [exec_vmad]; exact intWord3_onLanes ..
  | vabs => rw [exec_vabs]; exact intWord1_onLanes ..
  | vneg => rw [exec_vneg]; exact intWord1_onLanes ..
  | vmin => rw [exec_vmin]; exact intWord2_onLanes ..
  | vmax => rw [exec_vmax]; exact intWord2_onLanes ..
  | vand => rw [exec_vand]; exact intWord2_onLanes ..
  | vor => rw [exec_vor]; exact intWord2_onLanes ..
  | vxor => rw [exec_vxor]; exact intWord2_onLanes ..
  | vnot => rw [exec_vnot]; exact intWord1_onLanes ..
  | vshl => rw [exec_vshl]; exact intWord2_onLanes ..
  | vshr => rw [exec_vshr]; exact intWord2_onLanes ..
  | vbfx => rw [exec_vbfx]; exact intWord2_onLanes ..
  | vbfi => rw [exec_vbfi]; exact intWord3_onLanes ..
  | vfshl => rw [exec_vfshl, execVfshl]; exact intWord3_onLanes ..
  | vfshr => rw [exec_vfshr, execVfshr]; exact intWord3_onLanes ..
  | vpopc => rw [exec_vpopc]; exact intWord1_onLanes ..
  | vclz => rw [exec_vclz]; exact intWord1_onLanes ..
  | vaddi => rw [exec_vaddi, execVaddi]; exact intWord1_onLanes ..
  | vshli => rw [exec_vshli, execVshli]; exact intWord1_onLanes ..
  | vshri => rw [exec_vshri, execVshri]; exact intWord1_onLanes ..
  | vfadd => rw [exec_vfadd]; exact floatWord2_onLanes ..
  | vfsub => rw [exec_vfsub]; exact floatWord2_onLanes ..
  | vfmul => rw [exec_vfmul]; exact floatWord2_onLanes ..
  | vfma => rw [exec_vfma]; exact execVfma_onLanes ..
  | vfmin => rw [exec_vfmin]; exact floatWord2_onLanes ..
  | vfmax => rw [exec_vfmax]; exact floatWord2_onLanes ..
  | vfabs => rw [exec_vfabs]; exact signWord_onLanes ..
  | vfneg => rw [exec_vfneg]; exact signWord_onLanes ..
  | vcmpEq => rw [exec_vcmpEq]; exact intCompare_onLanes ..
  | vcmpNe => rw [exec_vcmpNe]; exact intCompare_onLanes ..
  | vcmpLt => rw [exec_vcmpLt]; exact intCompare_onLanes ..
  | vcmpGe => rw [exec_vcmpGe]; exact intCompare_onLanes ..
  | vfcmpEq => rw [exec_vfcmpEq]; exact floatCompare_onLanes ..
  | vfcmpLt => rw [exec_vfcmpLt]; exact floatCompare_onLanes ..
  | vfcmpLe => rw [exec_vfcmpLe]; exact floatCompare_onLanes ..
  | vfcmpUn => rw [exec_vfcmpUn]; exact floatCompare_onLanes ..
  | mand => rw [exec_mand]; exact maskWord_onLanes ..
  | mor => rw [exec_mor]; exact maskWord_onLanes ..
  | mxor => rw [exec_mxor]; exact maskWord_onLanes ..
  | mnot => rw [exec_mnot]; exact maskWord_onLanes ..
  | mpopc => rw [exec_mpopc]; exact maskCount_onLanes ..
  | mfirst => rw [exec_mfirst]; exact maskCount_onLanes ..
  | msetLt => rw [exec_msetLt]; exact execMsetLt_onLanes ..
  | msetGe => rw [exec_msetGe]; exact execMsetGe_onLanes ..
  | msetQ => rw [exec_msetQ]; exact execMsetQ_onLanes ..
  | vsel => rw [exec_vsel]; exact execVsel_onLanes ..
  | vmov => rw [exec_vmov]; exact intWord1_onLanes ..
  | vbcast => rw [exec_vbcast]; exact execVbcast_onLanes ..
  | vext => rw [exec_vext]; exact execVext_onLanes ..
  | vins => rw [exec_vins]; exact execVins_onLanes ..
  | vperm => rw [exec_vperm]; exact execVperm_onLanes ..
  | vshuf => rw [exec_vshuf]; exact execVshuf_onLanes ..
  | vrot => rw [exec_vrot]; exact execVrot_onLanes ..
  | vredAdd => rw [exec_vredAdd]; exact intReduce_onLanes ..
  | vredMax => rw [exec_vredMax]; exact intReduce_onLanes ..
  | vredMin => rw [exec_vredMin]; exact intReduce_onLanes ..
  | vfredAdd => rw [exec_vfredAdd]; exact floatReduce_onLanes ..
  | vfredMax => rw [exec_vfredMax]; exact floatReduce_onLanes ..
  | vfredMin => rw [exec_vfredMin]; exact floatReduce_onLanes ..
  | vscanAdd => rw [exec_vscanAdd]; exact execVscanAdd_onLanes ..
  | vcvt => rw [exec_vcvt]; exact execVcvt_onLanes ..
  | vquant => rw [exec_vquant]; exact execVquant_onLanes ..
  | vdequant => rw [exec_vdequant]; exact execVdequant_onLanes ..
  | vsmxUpd => rw [exec_vsmxUpd]; exact execVsmxUpd_onLanes ..
  | vsmxFin => rw [exec_vsmxFin]; exact execVsmxFin_onLanes ..
  | vrbias => rw [exec_vrbias]; exact execVrbias_onLanes ..
  | vidx => rw [exec_vidx]; exact execVidx_onLanes ..
  | vlut => rw [exec_vlut]; exact execVlut_onLanes ..
  | sfuExp2 => rw [exec_sfuExp2]; exact transWord_onLanes ..
  | sfuLog2 => rw [exec_sfuLog2]; exact transWord_onLanes ..
  | sfuRcp => rw [exec_sfuRcp]; exact transWord_onLanes ..
  | sfuRsqrt => rw [exec_sfuRsqrt]; exact transWord_onLanes ..
  | sfuSqrt => rw [exec_sfuSqrt]; exact execSfuSqrt_onLanes ..
  | sfuSin => rw [exec_sfuSin]; exact transWord_onLanes ..
  | sfuCos => rw [exec_sfuCos]; exact transWord_onLanes ..
  | tint => rw [exec_tint]; exact execTint_onLanes ..
  | tload => rw [exec_tload]; exact execTload_onLanes ..
  | topkInit => rw [exec_topkInit]; exact execTopkInit_onLanes ..
  | topkFeed => rw [exec_topkFeed]; exact execTopkFeed_onLanes ..
  | topkEmit => rw [exec_topkEmit]; exact execTopkEmit_onLanes ..
  | topkQ => rw [exec_topkQ]; exact execTopkQ_onLanes ..
  | _ =>
    cases hw <;>
      exact absurd h (not_lanes_of_number rfl (by omega))

/-- Settles O60: every word of the two engines issues through the one operation `enginesWord`, whose body changes the strand alone. -/
theorem vectorAndFunctionWordsTouchOnlyTheirStrand : Obligations.VectorAndFunctionWordsTouchOnlyTheirStrand := by
  unfold Obligations.VectorAndFunctionWordsTouchOnlyTheirStrand
  intro s t i hword hengine hnext
  obtain ⟨frame, control⟩ := (exec_onLanes i hword hengine s).onlyStrands t hnext
  refine ⟨frame, fun a => by rw [frame], fun hframe => ?_⟩
  simpa only [Strand.control, Prod.mk.injEq] using control hframe

end Sys2Proof.Machine
end

section
/-! The bits of a word (R77, R80 to R87): a number that is the sum of fixed bits and of fields at their places, and its fields read back. -/

namespace Sys2Proof

/-! Fields that are added up. -/

/-- A field of a word: its lowest bit, its width and its value. -/
structure WordField where
  lo : Nat
  n : Nat
  val : BitVec n

/-- What a field adds to the number of its word, written as `encode` writes it: without a factor at place 0, so that both sides of a row are
the same term once evaluated. -/
def WordField.part (f : WordField) : Nat :=
  match f.lo with
  | 0 => f.val.toNat
  | lo + 1 => 2 ^ (lo + 1) * f.val.toNat

/-- The number of a word with the fixed bits of `k` and the fields `l`. -/
def rowNumber (k : Nat) (l : List WordField) : Nat := l.foldl (fun m f => m + f.part) k

/-- The fields lie below bit `top`, one below the other, where the fixed bits `k` are 0. -/
def fits (k top : Nat) : List WordField → Bool
  | [] => true
  | ⟨lo, n, _⟩ :: l => lo + n ≤ top && k / 2 ^ lo % 2 ^ n == 0 && fits k lo l

/-- No field meets the `n` bits from `lo` on. -/
def clearOf (lo n : Nat) (l : List WordField) : Bool := l.all (fun ⟨p, m, _⟩ => lo + n ≤ p || p + m ≤ lo)

theorem WordField.part_eq (f : WordField) : f.part = 2 ^ f.lo * f.val.toNat := by
  obtain ⟨lo, n, v⟩ := f
  cases lo <;> simp [WordField.part]

/-! One field is added where the number has zeros. -/

theorem add_field_below {m p x q r : Nat} (hq : q + r ≤ p) : (m + 2 ^ p * x) / 2 ^ q % 2 ^ r = m / 2 ^ q % 2 ^ r := by
  obtain ⟨t, rfl⟩ := Nat.exists_eq_add_of_le hq
  rw [Nat.pow_add, Nat.pow_add, Nat.mul_assoc, Nat.mul_assoc, Nat.add_mul_div_left _ _ (by positivity), Nat.add_mul_mod_self_left]

section
variable {m p n x : Nat} (hm : m / 2 ^ p % 2 ^ n = 0) (hx : x < 2 ^ n)
include hm hx

theorem add_field_div_mod : (m + 2 ^ p * x) / 2 ^ p % 2 ^ n = x := by
  rw [Nat.add_mul_div_left _ _ (by positivity), Nat.add_mod, hm, Nat.zero_add, Nat.mod_mod, Nat.mod_eq_of_lt hx]

theorem add_field_above {q : Nat} (hq : p + n ≤ q) : (m + 2 ^ p * x) / 2 ^ q = m / 2 ^ q := by
  obtain ⟨r, rfl⟩ := Nat.exists_eq_add_of_le hq
  rw [Nat.pow_add, Nat.pow_add, ← Nat.div_div_eq_div_mul, ← Nat.div_div_eq_div_mul, ← Nat.div_div_eq_div_mul, ← Nat.div_div_eq_div_mul,
    Nat.add_mul_div_left _ _ (by positivity)]
  congr 1
  have h := Nat.div_add_mod (m / 2 ^ p) (2 ^ n)
  rw [hm, Nat.add_zero] at h
  rw [← h, Nat.mul_add_div (by positivity), Nat.div_eq_of_lt hx, Nat.mul_div_cancel_left _ (by positivity), Nat.add_zero]

end

/-! Fields that fit. -/

theorem fits_cons {k top : Nat} {f : WordField} {l : List WordField} (h : fits k top (f :: l) = true) :
    f.lo + f.n ≤ top ∧ k / 2 ^ f.lo % 2 ^ f.n = 0 ∧ fits k f.lo l = true := by
  simp only [fits, Bool.and_eq_true, decide_eq_true_eq, beq_iff_eq] at h
  obtain ⟨⟨below, zero⟩, rest⟩ := h
  exact ⟨below, zero, rest⟩

theorem fits_congr {j k top : Nat} {l : List WordField} (h : ∀ q r, q + r ≤ top → j / 2 ^ q % 2 ^ r = k / 2 ^ q % 2 ^ r)
    (hl : fits k top l = true) : fits j top l = true := by
  induction l generalizing top with
  | nil => rfl
  | cons f l ih =>
    obtain ⟨below, zero, rest⟩ := fits_cons hl
    simp only [fits, Bool.and_eq_true, decide_eq_true_eq, beq_iff_eq]
    exact ⟨⟨below, (h _ _ below).trans zero⟩, ih (fun q r hq => h q r (by omega)) rest⟩

theorem fits_rest {k top : Nat} {f : WordField} {l : List WordField} (h : fits k top (f :: l) = true) : fits (k + f.part) f.lo l = true := by
  obtain ⟨-, -, rest⟩ := fits_cons h
  exact fits_congr (fun q r hq => by rw [f.part_eq, add_field_below hq]) rest

theorem clearOf_of_fits {k top lo : Nat} {l : List WordField} (h : fits k top l = true) (hlo : top ≤ lo) (n : Nat) : clearOf lo n l = true := by
  induction l generalizing top with
  | nil => rfl
  | cons f l ih =>
    obtain ⟨below, -, rest⟩ := fits_cons h
    simp only [clearOf, List.all_cons, Bool.and_eq_true, Bool.or_eq_true, decide_eq_true_eq]
    exact ⟨.inr (by omega), ih rest (by omega)⟩

/-- Bits that no field meets are those of the fixed part. -/
theorem rowNumber_fixed {k top lo n : Nat} {l : List WordField} (hl : fits k top l = true) (hc : clearOf lo n l = true) :
    rowNumber k l / 2 ^ lo % 2 ^ n = k / 2 ^ lo % 2 ^ n := by
  induction l generalizing k top with
  | nil => rfl
  | cons f l ih =>
    obtain ⟨-, zero, -⟩ := fits_cons hl
    simp only [clearOf, List.all_cons, Bool.and_eq_true, Bool.or_eq_true, decide_eq_true_eq] at hc
    obtain ⟨apart, hc⟩ := hc
    calc rowNumber (k + f.part) l / 2 ^ lo % 2 ^ n = (k + f.part) / 2 ^ lo % 2 ^ n := ih (fits_rest hl) hc
      _ = k / 2 ^ lo % 2 ^ n := by
        rw [f.part_eq]
        rcases apart with below | above
        · rw [add_field_below below]
        · rw [add_field_above zero f.val.isLt above]

/-- The bits of a field are its value. -/
theorem rowNumber_field {k top : Nat} {l : List WordField} (hl : fits k top l = true) {f : WordField} (hf : f ∈ l) :
    rowNumber k l / 2 ^ f.lo % 2 ^ f.n = f.val.toNat := by
  induction l generalizing k top with
  | nil => cases hf
  | cons g l ih =>
    obtain ⟨-, zero, -⟩ := fits_cons hl
    rcases List.mem_cons.mp hf with rfl | hf
    · calc rowNumber (k + f.part) l / 2 ^ f.lo % 2 ^ f.n = (k + f.part) / 2 ^ f.lo % 2 ^ f.n :=
            rowNumber_fixed (fits_rest hl) (clearOf_of_fits (fits_rest hl) le_rfl _)
        _ = f.val.toNat := by rw [f.part_eq, add_field_div_mod zero f.val.isLt]
    · exact ih (fits_rest hl) hf

/-! Fields that are read. -/

theorem fld_toNat (w : Word) (lo n : Nat) : (fld w lo n).toNat = fldN w lo n := BitVec.toNat_ofNat ..

theorem fldN_ofNat {lo n : Nat} (k : Nat) (h : lo + n ≤ 32) : fldN (BitVec.ofNat 32 k) lo n = k / 2 ^ lo % 2 ^ n := by
  rw [fldN, BitVec.toNat_ofNat, show 2 ^ 32 = 2 ^ lo * 2 ^ (32 - lo) by rw [← Nat.pow_add]; congr 1; omega, Nat.mod_mul_right_div_self,
    Nat.mod_mod_of_dvd _ (Nat.pow_dvd_pow 2 (by omega))]

/-- A field within a field. -/
theorem fldN_inner (w : Word) {lo m p n : Nat} (h : p + n ≤ m) : fldN w (lo + p) n = fldN w lo m / 2 ^ p % 2 ^ n := by
  obtain ⟨r, rfl⟩ := Nat.exists_eq_add_of_le h
  rw [fldN, fldN, Nat.pow_add, ← Nat.div_div_eq_div_mul, Nat.add_assoc, Nat.pow_add 2 p, Nat.mod_mul_right_div_self, Nat.pow_add,
    Nat.mod_mul_right_mod]

/-- A field does not hold `v` where a part of it differs. -/
theorem not_test_of_inner {w : Word} {lo m p n v : Nat} (h : p + n ≤ m) (hne : fldN w (lo + p) n ≠ v / 2 ^ p % 2 ^ n) :
    ¬ (fldN w lo m == v) = true := by
  rw [beq_iff_eq]
  rintro rfl
  exact hne (fldN_inner w h)

/-! A word as the sum of its fields, in integers: each field is a difference, so a sum of neighbours telescopes. -/

/-- The number that the bits of a word from `p` up make. -/
def bitsFrom (w : Word) (p : Nat) : Int := (w.toNat / 2 ^ p : Nat)

theorem bitsFrom_zero (w : Word) : bitsFrom w 0 = w.toNat := by simp [bitsFrom]

theorem bitsFrom_top (w : Word) : bitsFrom w 32 = 0 := by
  rw [bitsFrom, Nat.div_eq_of_lt w.isLt]; rfl

theorem fldN_eq_bitsFrom (w : Word) (p n : Nat) : (fldN w p n : Int) = bitsFrom w p - 2 ^ n * bitsFrom w (p + n) := by
  have h := Nat.div_add_mod (w.toNat / 2 ^ p) (2 ^ n)
  rw [Nat.div_div_eq_div_mul, ← Nat.pow_add] at h
  have h : (2 ^ n * (w.toNat / 2 ^ (p + n) : Nat) + fldN w p n : Int) = (w.toNat / 2 ^ p : Nat) := mod_cast h
  rw [bitsFrom, bitsFrom, ← h]
  ring

theorem fldN_eq_iff {w : Word} {p n k : Nat} : fldN w p n = k ↔ bitsFrom w p - 2 ^ n * bitsFrom w (p + n) = k := by
  rw [← fldN_eq_bitsFrom, Nat.cast_inj]

theorem engineOf_eq_iff {w : Word} {k : Nat} : engineOf w = k ↔ bitsFrom w 29 = k := by
  rw [engineOf, fldN_eq_iff, bitsFrom_top, mul_zero, sub_zero]

theorem opcodeOf_eq_iff {w : Word} {k : Nat} : opcodeOf w = k ↔ bitsFrom w 22 - 2 ^ 7 * bitsFrom w 29 = k := fldN_eq_iff

theorem ofNat_eq_word {w : Word} {n : Nat} (h : (n : Int) = bitsFrom w 0) : BitVec.ofNat 32 n = w := by
  rw [bitsFrom_zero, Nat.cast_inj] at h
  rw [h, BitVec.ofNat_toNat, BitVec.setWidth_eq]

/-- The four bytes of a word make the word (R6, R77). -/
theorem wordOfBytes_bytes (w : Word) : wordOfBytes (fld w 0 8) (fld w 8 8) (fld w 16 8) (fld w 24 8) = w := by
  have top := bitsFrom_top w
  refine ofNat_eq_word ?_
  simp only [fld_toNat, Nat.cast_add, Nat.cast_mul, Nat.cast_pow, Nat.cast_ofNat, fldN_eq_bitsFrom, Nat.reduceAdd, Int.reducePow]
  omega

end Sys2Proof
end

section
/-! The rows of the opcode table by the layout of their words, and the decoder on the words of well-formed instructions (R80 to R87, R97,
R98). -/

namespace Sys2Proof

/-- The engine of a word (R77), with the EXT words (R86), which are of none. -/
inductive WordEngine where
  | ctrl | acc | vec | mtx | sfu | xfer | join | ext

/-- The layout of a word: its engine and its fields, from the highest down. -/
structure Layout where
  engine : WordEngine
  fields : List WordField

/-- The formats of the words (R80 to R87), each with the rows of the opcode table that have it. -/
def Instr.layout : Instr → Layout
  | .nop | .yield | .yieldPause | .parkEnd | .rtt | .rttNext | .tlbinvAll => ⟨.ctrl, []⟩
  | .add d a b | .sub d a b | .mul d a b | .mulhS d a b | .mulhN d a b | .and d a b | .or d a b | .xor d a b | .andn d a b | .shl d a b
    | .shrN d a b | .shrS d a b | .rot d a b | .minS d a b | .minN d a b | .maxS d a b | .maxN d a b | .bfxS d a b | .bfxN d a b
    | .bfi d a b | .fshl d a b | .fshr d a b | .ctxsetPrio d a b | .ctxsetBind d a b | .hingePin d a b | .hingeMove d a b
    | .hangRd d a b => ⟨.ctrl, [⟨16, 6, d⟩, ⟨10, 6, a⟩, ⟨4, 6, b⟩]⟩
  | .divS d a b t | .divN d a b t | .remS d a b t | .remN d a b t | .fadd d a b t | .fsub d a b t | .fmul d a b t | .ffma d a b t
    | .fdiv d a b t | .fmin d a b t | .fmax d a b t => ⟨.ctrl, [⟨16, 6, d⟩, ⟨10, 6, a⟩, ⟨4, 6, b⟩, ⟨0, 1, t⟩]⟩
  | .clz d a | .ctz d a | .popc d a | .jr d a | .cswitch d a | .ctxqSt d a | .ctxqWake d a | .ctxqTiers d a | .ctxnew d a | .ctxfree d a
    | .kill d a | .hingeUnpin d a | .hingeQ d a => ⟨.ctrl, [⟨16, 6, d⟩, ⟨10, 6, a⟩]⟩
  | .sel d a b f | .cmp d a b f | .fcvt d a b f => ⟨.ctrl, [⟨16, 6, d⟩, ⟨10, 6, a⟩, ⟨4, 6, b⟩, ⟨0, 4, f⟩]⟩
  | .addi d a i | .andi d a i | .ori d a i | .xori d a i | .shli d a i | .shriN d a i | .shriS d a i | .beq d a i | .bne d a i
    | .bltS d a i | .bltN d a i | .bgeS d a i | .bgeN d a i => ⟨.ctrl, [⟨16, 6, d⟩, ⟨10, 6, a⟩, ⟨0, 10, i⟩]⟩
  | .li d i | .loop d i | .trap d i => ⟨.ctrl, [⟨16, 6, d⟩, ⟨0, 16, i⟩]⟩
  | .fsqrt d a p => ⟨.ctrl, [⟨16, 6, d⟩, ⟨10, 6, a⟩, ⟨0, 1, p⟩]⟩
  | .fcmp d a b c p => ⟨.ctrl, [⟨16, 6, d⟩, ⟨10, 6, a⟩, ⟨4, 6, b⟩, ⟨1, 3, c⟩, ⟨0, 1, p⟩]⟩
  | .jmp o | .jal o => ⟨.ctrl, [⟨0, 22, o⟩]⟩
  | .loopi c o => ⟨.ctrl, [⟨12, 10, c⟩, ⟨0, 12, o⟩]⟩
  | .lbrk l z a => ⟨.ctrl, [⟨18, 4, l⟩, ⟨17, 1, z⟩, ⟨11, 6, a⟩]⟩
  | .barSync b m | .barArr b m | .barWait b m | .barDrop b m => ⟨.ctrl, [⟨18, 4, b⟩, ⟨17, 1, m⟩]⟩
  | .barWaitt b m d a => ⟨.ctrl, [⟨18, 4, b⟩, ⟨17, 1, m⟩, ⟨11, 6, d⟩, ⟨5, 6, a⟩]⟩
  | .evSig e => ⟨.ctrl, [⟨18, 4, e⟩]⟩
  | .evWait e t => ⟨.ctrl, [⟨18, 4, e⟩, ⟨10, 8, t⟩]⟩
  | .evWaitt e d a => ⟨.ctrl, [⟨18, 4, e⟩, ⟨11, 6, d⟩, ⟨5, 6, a⟩]⟩
  | .csrr d c | .csrw d c => ⟨.ctrl, [⟨16, 6, d⟩, ⟨0, 12, c⟩]⟩
  | .mbrd d c n => ⟨.ctrl, [⟨16, 6, d⟩, ⟨3, 1, c⟩, ⟨0, 3, n⟩]⟩
  | .mbwr a n => ⟨.ctrl, [⟨16, 6, a⟩, ⟨0, 3, n⟩]⟩
  | .time d | .timeCyc d => ⟨.ctrl, [⟨16, 6, d⟩]⟩
  | .park w m e t l r a b => ⟨.ctrl, [⟨18, 4, w⟩, ⟨17, 1, m⟩, ⟨16, 1, e⟩, ⟨15, 1, t⟩, ⟨14, 1, l⟩, ⟨13, 1, r⟩, ⟨7, 6, a⟩, ⟨1, 6, b⟩]⟩
  | .wakehint a b => ⟨.ctrl, [⟨10, 6, a⟩, ⟨4, 6, b⟩]⟩
  | .halt a | .tlbinvPart a | .tlbinvS2 a | .tlbinvFab a | .tlbinvHost a => ⟨.ctrl, [⟨10, 6, a⟩]⟩
  | .fence | .fenceView => ⟨.acc, []⟩
  | .ldBS c d a i | .ldBN c d a i | .ldHS c d a i | .ldHN c d a i | .ldWS c d a i | .ldWN c d a i | .ldD c d a i | .stB c d a i
    | .stH c d a i | .stW c d a i | .stD c d a i | .ldV c d a i | .stV c d a i | .ldVs c d a i | .stVs c d a i | .gathB c d a i
    | .gathH c d a i | .gathW c d a i | .scatB c d a i | .scatH c d a i | .scatW c d a i | .rwaitf c d a i | .amoW c d a i | .amoD c d a i
    | .amoF c d a i | .fld c d a i | .fst c d a i | .famo c d a i => ⟨.acc, [⟨18, 4, c⟩, ⟨12, 6, d⟩, ⟨6, 6, a⟩, ⟨0, 6, i⟩]⟩
  | .ldM c d a i | .stM c d a i | .dld c d a i | .dst c d a i | .wmap c d a i => ⟨.acc, [⟨18, 4, c⟩, ⟨12, 4, d⟩, ⟨6, 6, a⟩, ⟨0, 6, i⟩]⟩
  | .sfetch c d a b => ⟨.acc, [⟨18, 4, c⟩, ⟨12, 6, d⟩, ⟨6, 4, a⟩, ⟨0, 6, b⟩]⟩
  | .gathb c d t a b => ⟨.acc, [⟨18, 4, c⟩, ⟨12, 6, d⟩, ⟨11, 1, t⟩, ⟨6, 4, a⟩, ⟨0, 6, b⟩]⟩
  | .pref l a i => ⟨.acc, [⟨12, 1, l⟩, ⟨6, 6, a⟩, ⟨0, 6, i⟩]⟩
  | .dset d a k => ⟨.acc, [⟨12, 4, d⟩, ⟨6, 6, a⟩, ⟨0, 3, k⟩]⟩
  | .rwaite c a b | .rpub c a b | .rrel c a b | .wadv c a b => ⟨.acc, [⟨18, 4, c⟩, ⟨6, 6, a⟩, ⟨0, 6, b⟩]⟩
  | .rclaimP c d a | .rclaimC c d a => ⟨.acc, [⟨18, 4, c⟩, ⟨12, 6, d⟩, ⟨6, 6, a⟩]⟩
  | .wmapOff c a => ⟨.acc, [⟨18, 4, c⟩, ⟨6, 6, a⟩]⟩
  | .casW t d a b | .casD t d a b | .casQ t d a b | .fcas t d a b => ⟨.acc, [⟨21, 1, t⟩, ⟨12, 6, d⟩, ⟨6, 6, a⟩, ⟨0, 6, b⟩]⟩
  | .fenceCls c k => ⟨.acc, [⟨18, 4, c⟩, ⟨0, 4, k⟩]⟩
  | .vadd y d a b s | .vsub y d a b s | .vmul y d a b s | .vmulh y d a b s | .vmad y d a b s | .vmin y d a b s | .vmax y d a b s
    | .vand y d a b s | .vor y d a b s | .vxor y d a b s | .vshl y d a b s | .vshr y d a b s | .vbfx y d a b s | .vbfi y d a b s
    | .vfshl y d a b s | .vfshr y d a b s | .vaddi y d a b s | .vshli y d a b s | .vshri y d a b s | .vfadd y d a b s | .vfsub y d a b s
    | .vfmul y d a b s | .vfma y d a b s | .vfmin y d a b s | .vfmax y d a b s | .vsel y d a b s | .vext y d a b s | .vins y d a b s
    | .vperm y d a b s | .vshuf y d a b s | .vrot y d a b s | .vquant y d a b s
    | .vlut y d a b s => ⟨.vec, [⟨19, 3, y⟩, ⟨13, 6, d⟩, ⟨7, 6, a⟩, ⟨1, 6, b⟩, ⟨0, 1, s⟩]⟩
  | .vabs y d a s | .vneg y d a s | .vnot y d a s | .vpopc y d a s | .vclz y d a s | .vfabs y d a s | .vfneg y d a s | .vmov y d a s
    | .vbcast y d a s | .vredAdd y d a s | .vredMax y d a s | .vredMin y d a s | .vfredAdd y d a s | .vfredMax y d a s | .vfredMin y d a s
    | .vdequant y d a s | .vidx y d a s => ⟨.vec, [⟨19, 3, y⟩, ⟨13, 6, d⟩, ⟨7, 6, a⟩, ⟨0, 1, s⟩]⟩
  | .vcmpEq y d a b s | .vcmpNe y d a b s | .vcmpLt y d a b s | .vcmpGe y d a b s | .vfcmpEq y d a b s | .vfcmpLt y d a b s
    | .vfcmpLe y d a b s | .vfcmpUn y d a b s => ⟨.vec, [⟨19, 3, y⟩, ⟨13, 4, d⟩, ⟨7, 6, a⟩, ⟨1, 6, b⟩, ⟨0, 1, s⟩]⟩
  | .mand d a b s | .mor d a b s | .mxor d a b s => ⟨.vec, [⟨13, 4, d⟩, ⟨7, 4, a⟩, ⟨1, 4, b⟩, ⟨0, 1, s⟩]⟩
  | .mnot d a s => ⟨.vec, [⟨13, 4, d⟩, ⟨7, 4, a⟩, ⟨0, 1, s⟩]⟩
  | .mpopc d a s | .mfirst d a s => ⟨.vec, [⟨13, 6, d⟩, ⟨7, 4, a⟩, ⟨0, 1, s⟩]⟩
  | .msetLt d a s | .msetGe d a s | .msetQ d a s => ⟨.vec, [⟨13, 4, d⟩, ⟨7, 6, a⟩, ⟨0, 1, s⟩]⟩
  | .vscanAdd y d a f s => ⟨.vec, [⟨19, 3, y⟩, ⟨13, 6, d⟩, ⟨7, 6, a⟩, ⟨1, 1, f⟩, ⟨0, 1, s⟩]⟩
  | .vcvt y d a q r w t s => ⟨.vec, [⟨19, 3, y⟩, ⟨13, 6, d⟩, ⟨7, 6, a⟩, ⟨6, 1, q⟩, ⟨5, 1, r⟩, ⟨4, 1, w⟩, ⟨1, 3, t⟩, ⟨0, 1, s⟩]⟩
  | .vsmxUpd d a b s | .vsmxFin d a b s | .vrbias d a b s => ⟨.vec, [⟨13, 6, d⟩, ⟨7, 6, a⟩, ⟨1, 6, b⟩, ⟨0, 1, s⟩]⟩
  | .mmt c a b n p s r z => ⟨.mtx, [⟨19, 3, c⟩, ⟨15, 4, a⟩, ⟨11, 4, b⟩, ⟨7, 4, n⟩, ⟨4, 3, p⟩, ⟨3, 1, s⟩, ⟨2, 1, r⟩, ⟨1, 1, z⟩]⟩
  | .mmtWb c a w n p s z => ⟨.mtx, [⟨19, 3, c⟩, ⟨15, 4, a⟩, ⟨11, 2, w⟩, ⟨7, 4, n⟩, ⟨4, 3, p⟩, ⟨3, 1, s⟩, ⟨1, 1, z⟩]⟩
  | .scommit c n | .sdrop c n => ⟨.mtx, [⟨19, 3, c⟩, ⟨7, 4, n⟩]⟩
  | .accz c n s => ⟨.mtx, [⟨19, 3, c⟩, ⟨7, 4, n⟩, ⟨3, 1, s⟩]⟩
  | .accld c a n s => ⟨.mtx, [⟨19, 3, c⟩, ⟨15, 4, a⟩, ⟨7, 4, n⟩, ⟨3, 1, s⟩]⟩
  | .accst c a n s t => ⟨.mtx, [⟨19, 3, c⟩, ⟨15, 4, a⟩, ⟨7, 4, n⟩, ⟨3, 1, s⟩, ⟨1, 1, t⟩]⟩
  | .accmv c d a s l => ⟨.mtx, [⟨19, 3, c⟩, ⟨13, 6, d⟩, ⟨7, 6, a⟩, ⟨3, 1, s⟩, ⟨1, 1, l⟩]⟩
  | .wbload w a n => ⟨.mtx, [⟨19, 2, w⟩, ⟨15, 4, a⟩, ⟨7, 4, n⟩]⟩
  | .attb c a b n f z => ⟨.mtx, [⟨20, 2, c⟩, ⟨15, 4, a⟩, ⟨11, 4, b⟩, ⟨7, 4, n⟩, ⟨4, 1, f⟩, ⟨1, 1, z⟩]⟩
  | .sfuExp2 y d a k | .sfuLog2 y d a k | .sfuRcp y d a k | .sfuRsqrt y d a k | .sfuSqrt y d a k | .sfuSin y d a k | .sfuCos y d a k
    | .topkFeed y d a k => ⟨.sfu, [⟨19, 3, y⟩, ⟨13, 6, d⟩, ⟨7, 6, a⟩, ⟨1, 3, k⟩]⟩
  | .tint y d a f k => ⟨.sfu, [⟨19, 3, y⟩, ⟨13, 6, d⟩, ⟨7, 6, a⟩, ⟨4, 3, f⟩, ⟨1, 3, k⟩]⟩
  | .tload d a f k | .topkEmit d a f k => ⟨.sfu, [⟨13, 6, d⟩, ⟨7, 6, a⟩, ⟨4, 3, f⟩, ⟨1, 3, k⟩]⟩
  | .topkInit y a k => ⟨.sfu, [⟨19, 3, y⟩, ⟨7, 6, a⟩, ⟨1, 3, k⟩]⟩
  | .topkQ d k => ⟨.sfu, [⟨13, 6, d⟩, ⟨1, 3, k⟩]⟩
  | .copy x y z e | .copyMmt x y z e => ⟨.xfer, [⟨16, 6, x⟩, ⟨10, 6, y⟩, ⟨4, 6, z⟩, ⟨0, 4, e⟩]⟩
  | .collOpen x e | .collRed x e | .collBar x e | .collClose x e | .grecv x e | .gqwait x e
    | .launch x e => ⟨.xfer, [⟨16, 6, x⟩, ⟨0, 4, e⟩]⟩
  | .gready x y e | .gunready x y e | .gqpush x y e => ⟨.xfer, [⟨16, 6, x⟩, ⟨10, 6, y⟩, ⟨0, 4, e⟩]⟩
  | .gsend x y o e => ⟨.xfer, [⟨16, 6, x⟩, ⟨10, 6, y⟩, ⟨9, 1, o⟩, ⟨0, 4, e⟩]⟩
  | .mbsend x o k z e => ⟨.xfer, [⟨16, 6, x⟩, ⟨13, 1, o⟩, ⟨10, 3, k⟩, ⟨4, 6, z⟩, ⟨0, 4, e⟩]⟩
  | .join c a v m s x => ⟨.join, [⟨21, 1, c⟩, ⟨20, 1, a⟩, ⟨19, 1, v⟩, ⟨18, 1, m⟩, ⟨17, 1, s⟩, ⟨16, 1, x⟩]⟩
  | .extImm i => ⟨.ext, [⟨0, 26, i⟩]⟩
  | .extOrd s o c => ⟨.ext, [⟨23, 3, s⟩, ⟨21, 2, o⟩, ⟨17, 4, c⟩]⟩
  | .extTok w e t g f => ⟨.ext, [⟨25, 1, w⟩, ⟨21, 4, e⟩, ⟨13, 8, t⟩, ⟨12, 1, g⟩, ⟨8, 4, f⟩]⟩
  | .extStall c => ⟨.ext, [⟨0, 4, c⟩]⟩
  | .extMask z m => ⟨.ext, [⟨4, 1, z⟩, ⟨0, 4, m⟩]⟩
  | .extInd b x y z => ⟨.ext, [⟨20, 6, b⟩, ⟨19, 1, x⟩, ⟨18, 1, y⟩, ⟨17, 1, z⟩]⟩
  | _ => ⟨.ctrl, []⟩

/-- `i` has a word, and it is one of engine `e`: an equation of pairs, so that the rows of another engine and the steps without a word drop
out together. -/
def Instr.isOf (e : WordEngine) (i : Instr) : Prop := (i.layout.engine, i.isWord) = (e, true)

/-- The word of `i` has the fields of its layout, and `k` holds its other bits: engine, opcode, reserved bits, and the values that tell the
row from others of its opcode. -/
structure Row (i : Instr) (k : Nat) : Prop where
  word : encode i = BitVec.ofNat 32 (rowNumber k i.layout.fields)
  fits : fits k 29 i.layout.fields = true

/-! What the word of a row holds. The hypotheses are closed facts on numerals, true by evaluation for each row. -/

section
variable {i : Instr} {k : Nat} (row : Row i k) {lo n v : Nat}
include row

theorem Row.engine : engineOf (encode i) = k / 2 ^ 29 % 2 ^ 3 := by
  rw [engineOf, row.word, fldN_ofNat _ (by decide), rowNumber_fixed row.fits (clearOf_of_fits row.fits le_rfl 3)]

theorem Row.fixed (hn : Nat.ble (lo + n) 32 = true) (hc : clearOf lo n i.layout.fields = true) :
    fldN (encode i) lo n = k / 2 ^ lo % 2 ^ n := by
  rw [row.word, fldN_ofNat _ (Nat.le_of_ble_eq_true hn), rowNumber_fixed row.fits hc]

theorem Row.opcode (hc : clearOf 22 7 i.layout.fields = true) : opcodeOf (encode i) = k / 2 ^ 22 % 2 ^ 7 := row.fixed rfl hc

theorem Row.test (hn : Nat.ble (lo + n) 32 = true) (hc : clearOf lo n i.layout.fields = true) (hv : k / 2 ^ lo % 2 ^ n = v) :
    (fldN (encode i) lo n == v) = true := by
  rw [row.fixed hn hc, hv, beq_self_eq_true]

theorem Row.not_test (hn : Nat.ble (lo + n) 32 = true) (hc : clearOf lo n i.layout.fields = true)
    (hv : Nat.beq (k / 2 ^ lo % 2 ^ n) v = false) : ¬ (fldN (encode i) lo n == v) = true := by
  rw [row.fixed hn hc, beq_iff_eq]
  exact Nat.ne_of_beq_eq_false hv

theorem Row.fieldN {x : BitVec n} (hn : Nat.ble (lo + n) 32 = true)
    (hf : i.layout.fields.find? (fun ⟨p, _, _⟩ => p == lo) = some ⟨lo, n, x⟩) : fldN (encode i) lo n = x.toNat := by
  rw [row.word, fldN_ofNat _ (Nat.le_of_ble_eq_true hn)]
  exact rowNumber_field row.fits (List.mem_of_find?_eq_some hf)

/-- A field that holds a fixed bit, set otherwise in `v`, does not hold `v`. -/
theorem Row.not_test_part {m : Nat} (p n : Nat) (hp : Nat.ble (p + n) m = true) (hn : Nat.ble (lo + p + n) 32 = true)
    (hc : clearOf (lo + p) n i.layout.fields = true) (hv : Nat.beq (k / 2 ^ (lo + p) % 2 ^ n) (v / 2 ^ p % 2 ^ n) = false) :
    ¬ (fldN (encode i) lo m == v) = true :=
  not_test_of_inner (Nat.le_of_ble_eq_true hp) (ne_of_eq_of_ne (row.fixed hn hc) (Nat.ne_of_beq_eq_false hv))

/-- The low bits are not 0 where a field of one bit among them is set. -/
theorem Row.not_zero_of_bit {m : Nat} (p : Nat) (hp : Nat.ble (p + 1) m = true) (hn : Nat.ble (p + 1) 32 = true)
    (hf : i.layout.fields.find? (fun ⟨q, _, _⟩ => q == p) = some ⟨p, 1, 1⟩) : ¬ (fldN (encode i) 0 m == 0) = true :=
  not_test_of_inner (p := p) (n := 1) (Nat.le_of_ble_eq_true hp)
    (ne_of_eq_of_ne ((congrArg (fldN _ · 1) (Nat.zero_add p)).trans (row.fieldN hn hf)) (by rw [Nat.zero_div]; decide))

theorem Row.field {x : BitVec n} (hn : Nat.ble (lo + n) 32 = true)
    (hf : i.layout.fields.find? (fun ⟨p, _, _⟩ => p == lo) = some ⟨lo, n, x⟩) : fld (encode i) lo n = x :=
  BitVec.eq_of_toNat_eq ((fld_toNat ..).trans (row.fieldN hn hf))

end

/-- The row is found by unification: `k` is the constant of `encode i`. -/
theorem decode_encode_of_row {i : Instr} {k : Nat} (word : encode i = BitVec.ofNat 32 (rowNumber k i.layout.fields))
    (fits : fits k 29 i.layout.fields = true) (h : Row i k → decode (encode i) = .ok i) : decode (encode i) = .ok i := h ⟨word, fits⟩

/-! The decoder of each engine (R77). -/

theorem decode_of_ctrl {w : Word} (h : engineOf w = 0) : decode w = decodeCtrl w := by rw [decode, h]; rfl
theorem decode_of_acc {w : Word} (h : engineOf w = 1) : decode w = decodeAcc w := by rw [decode, h]; rfl
theorem decode_of_vec {w : Word} (h : engineOf w = 2) : decode w = decodeVec w := by rw [decode, h]; rfl
theorem decode_of_mtx {w : Word} (h : engineOf w = 3) : decode w = decodeMtx w := by rw [decode, h]; rfl
theorem decode_of_sfu {w : Word} (h : engineOf w = 4) : decode w = decodeSfu w := by rw [decode, h]; rfl
theorem decode_of_xfer {w : Word} (h : engineOf w = 5) : decode w = decodeXfer w := by rw [decode, h]; rfl
theorem decode_of_join {w : Word} (h : engineOf w = 6) : decode w = decodeJoin w := by rw [decode, h]; rfl
theorem decode_of_ext {w : Word} (h : engineOf w = 7) : decode w = decodeExt w := by rw [decode, h]; rfl

/-! The words of each engine read back. An opcode without reserved bits has one reading; one with reserved bits tests them; one that several
rows share tests what tells them apart. -/

/-- A `park` that waits for something is no `park end` (R255). -/
theorem park_not_end {w : BitVec 4} {m e t l r : BitVec 1} {a b : BitVec 6} {k : Nat} (row : Row (.park w m e t l r a b) k)
    (hw : (Instr.park w m e t l r a b).wf = true) : ¬ (fldN (encode (.park w m e t l r a b)) 0 22 == 0) = true := by
  have waits : m = 1 ∨ e = 1 ∨ t = 1 ∨ l = 1 ∨ r = 1 := by
    simp only [Instr.wf, Instr.fieldsOk, Bool.and_eq_true, Bool.or_eq_true, beq_iff_eq] at hw
    tauto
  rcases waits with rfl | rfl | rfl | rfl | rfl
  · exact row.not_zero_of_bit 17 rfl rfl rfl
  · exact row.not_zero_of_bit 16 rfl rfl rfl
  · exact row.not_zero_of_bit 15 rfl rfl rfl
  · exact row.not_zero_of_bit 14 rfl rfl rfl
  · exact row.not_zero_of_bit 13 rfl rfl rfl

theorem decode_encode_ctrl {i : Instr} (h : i.isOf .ctrl) (hw : i.wf = true) : decode (encode i) = .ok i := by
  cases i with
  | sel | cmp | addi | andi | ori | xori | shli | shriN | shriS | li | fcmp | fcvt | beq | bne | bltS | bltN | bgeS | bgeN | jmp | jal
    | loop | loopi | trap =>
    refine decode_encode_of_row rfl rfl fun row => ?_
    rw [decode_of_ctrl row.engine, decodeCtrl, row.opcode rfl]
    refine congrArg Except.ok ?_
    congr 1
    all_goals exact row.field rfl rfl
  | nop | add | sub | mul | mulhS | mulhN | divS | divN | remS | remN | and | or | xor | andn | shl | shrN | shrS | rot | minS | minN
    | maxS | maxN | clz | ctz | popc | bfxS | bfxN | bfi | fshl | fshr | fadd | fsub | fmul | ffma | fdiv | fsqrt | fmin | fmax | jr
    | lbrk | barSync | barArr | barWait | barWaitt | barDrop | evSig | evWait | evWaitt | csrr | csrw | mbrd | mbwr | time | yield
    | cswitch | parkEnd | wakehint | ctxqSt | ctxnew | ctxfree | ctxsetPrio | rtt | halt | kill | hingePin | hingeUnpin | hingeQ
    | hingeMove | tlbinvAll | hangRd =>
    refine decode_encode_of_row rfl rfl fun row => ?_
    rw [decode_of_ctrl row.engine, decodeCtrl, row.opcode rfl]
    refine (if_pos ?_).trans (congrArg Except.ok ?_)
    · repeat' apply Bool.and_intro
      all_goals exact row.test rfl rfl rfl
    · congr 1
      all_goals exact row.field rfl rfl
  | timeCyc | yieldPause | ctxqWake | ctxsetBind | rttNext | ctxqTiers =>
    refine decode_encode_of_row rfl rfl fun row => ?_
    rw [decode_of_ctrl row.engine, decodeCtrl, row.opcode rfl]
    repeat refine (if_neg (row.not_test rfl rfl rfl)).trans ?_
    refine (if_pos (row.test rfl rfl rfl)).trans (congrArg Except.ok ?_)
    congr 1
    all_goals exact row.field rfl rfl
  | tlbinvPart | tlbinvS2 | tlbinvFab | tlbinvHost =>
    refine decode_encode_of_row rfl rfl fun row => ?_
    rw [decode_of_ctrl row.engine, decodeCtrl, row.opcode rfl]
    refine (if_neg (row.not_test_part 0 10 rfl rfl rfl rfl)).trans ?_
    repeat refine (if_neg (mt Bool.and_elim_left (row.not_test rfl rfl rfl))).trans ?_
    refine (if_pos (Bool.and_intro (row.test rfl rfl rfl) (row.test rfl rfl rfl))).trans (congrArg Except.ok ?_)
    congr 1
    all_goals exact row.field rfl rfl
  | park w m e t l r a b =>
    refine decode_encode_of_row rfl rfl fun row => ?_
    rw [decode_of_ctrl row.engine, decodeCtrl, row.opcode rfl]
    refine (if_neg (park_not_end row hw)).trans ((if_pos (row.test rfl rfl rfl)).trans (congrArg Except.ok ?_))
    congr 1
    all_goals exact row.field rfl rfl
  | _ => cases h

theorem decode_encode_acc {i : Instr} (h : i.isOf .acc) : decode (encode i) = .ok i := by
  cases i with
  | ldBS | ldBN | ldHS | ldHN | ldWS | ldWN | ldD | stB | stH | stW | stD | ldV | stV | ldVs | stVs | gathB | gathH | gathW | scatB
    | scatH | scatW | rwaitf | amoW | amoD | amoF | fld | fst | famo =>
    refine decode_encode_of_row rfl rfl fun row => ?_
    rw [decode_of_acc row.engine, decodeAcc, row.opcode rfl]
    refine congrArg Except.ok ?_
    congr 1
    all_goals exact row.field rfl rfl
  | ldM | stM | sfetch | gathb | pref | dld | dst | dset | rwaite | rpub | rrel | rclaimP | wmapOff | wadv | casW | casD | casQ | fenceCls
    | fence | fenceView | fcas =>
    refine decode_encode_of_row rfl rfl fun row => ?_
    rw [decode_of_acc row.engine, decodeAcc, row.opcode rfl]
    refine (if_pos ?_).trans (congrArg Except.ok ?_)
    · repeat' apply Bool.and_intro
      all_goals exact row.test rfl rfl rfl
    · congr 1
      all_goals exact row.field rfl rfl
  | rclaimC =>
    refine decode_encode_of_row rfl rfl fun row => ?_
    rw [decode_of_acc row.engine, decodeAcc, row.opcode rfl]
    repeat refine (if_neg (row.not_test rfl rfl rfl)).trans ?_
    refine (if_pos (row.test rfl rfl rfl)).trans (congrArg Except.ok ?_)
    congr 1
    all_goals exact row.field rfl rfl
  | wmap =>
    refine decode_encode_of_row rfl rfl fun row => ?_
    rw [decode_of_acc row.engine, decodeAcc, row.opcode rfl]
    refine (if_neg (mt Bool.and_elim_right (row.not_test_part 4 2 rfl rfl rfl rfl))).trans ?_
    refine (if_pos (row.test rfl rfl rfl)).trans (congrArg Except.ok ?_)
    congr 1
    all_goals exact row.field rfl rfl
  | _ => cases h

theorem decode_encode_vec {i : Instr} (h : i.isOf .vec) : decode (encode i) = .ok i := by
  cases i with
  | vadd | vsub | vmul | vmulh | vmad | vmin | vmax | vand | vor | vxor | vshl | vshr | vbfx | vbfi | vfshl | vfshr | vaddi | vshli
    | vshri | vfadd | vfsub | vfmul | vfma | vfmin | vfmax | vsel | vext | vins | vperm | vshuf | vrot | vcvt | vquant | vlut =>
    refine decode_encode_of_row rfl rfl fun row => ?_
    rw [decode_of_vec row.engine, decodeVec, row.opcode rfl]
    refine congrArg Except.ok ?_
    congr 1
    all_goals exact row.field rfl rfl
  | vabs | vneg | vnot | vpopc | vclz | vfabs | vfneg | vcmpEq | vcmpNe | vcmpLt | vcmpGe | vfcmpEq | vfcmpLt | vfcmpLe | vfcmpUn | mand
    | mor | mxor | mnot | mpopc | mfirst | msetLt | vmov | vbcast | vredAdd | vredMax | vredMin | vfredAdd | vfredMax | vfredMin
    | vscanAdd | vdequant | vsmxUpd | vsmxFin | vrbias | vidx =>
    refine decode_encode_of_row rfl rfl fun row => ?_
    rw [decode_of_vec row.engine, decodeVec, row.opcode rfl]
    refine (if_pos ?_).trans (congrArg Except.ok ?_)
    · repeat' apply Bool.and_intro
      all_goals exact row.test rfl rfl rfl
    · congr 1
      all_goals exact row.field rfl rfl
  | msetGe | msetQ =>
    refine decode_encode_of_row rfl rfl fun row => ?_
    rw [decode_of_vec row.engine, decodeVec, row.opcode rfl]
    repeat refine (if_neg (mt Bool.and_elim_left (row.not_test rfl rfl rfl))).trans ?_
    refine (if_pos (Bool.and_intro (row.test rfl rfl rfl) (row.test rfl rfl rfl))).trans (congrArg Except.ok ?_)
    congr 1
    all_goals exact row.field rfl rfl
  | _ => cases h

theorem decode_encode_mtx {i : Instr} (h : i.isOf .mtx) : decode (encode i) = .ok i := by
  cases i with
  | mmt | mmtWb | scommit | sdrop | accz | accld | accst | accmv | wbload | attb =>
    refine decode_encode_of_row rfl rfl fun row => ?_
    rw [decode_of_mtx row.engine, decodeMtx, row.opcode rfl]
    refine (if_pos ?_).trans (congrArg Except.ok ?_)
    · repeat' apply Bool.and_intro
      all_goals exact row.test rfl rfl rfl
    · congr 1
      all_goals exact row.field rfl rfl
  | _ => cases h

theorem decode_encode_sfu {i : Instr} (h : i.isOf .sfu) : decode (encode i) = .ok i := by
  cases i with
  | sfuExp2 | sfuLog2 | sfuRcp | sfuRsqrt | sfuSqrt | sfuSin | sfuCos | tint | tload | topkInit | topkFeed | topkEmit | topkQ =>
    refine decode_encode_of_row rfl rfl fun row => ?_
    rw [decode_of_sfu row.engine, decodeSfu, row.opcode rfl]
    refine (if_pos ?_).trans (congrArg Except.ok ?_)
    · repeat' apply Bool.and_intro
      all_goals exact row.test rfl rfl rfl
    · congr 1
      all_goals exact row.field rfl rfl
  | _ => cases h

theorem decode_encode_xfer {i : Instr} (h : i.isOf .xfer) : decode (encode i) = .ok i := by
  cases i with
  | copy | copyMmt =>
    refine decode_encode_of_row rfl rfl fun row => ?_
    rw [decode_of_xfer row.engine, decodeXfer, row.opcode rfl]
    refine congrArg Except.ok ?_
    congr 1
    all_goals exact row.field rfl rfl
  | collOpen | collRed | collBar | collClose | gready | gunready | gsend | grecv | gqpush | gqwait | launch | mbsend =>
    refine decode_encode_of_row rfl rfl fun row => ?_
    rw [decode_of_xfer row.engine, decodeXfer, row.opcode rfl]
    refine (if_pos (row.test rfl rfl rfl)).trans (congrArg Except.ok ?_)
    congr 1
    all_goals exact row.field rfl rfl
  | _ => cases h

theorem decode_encode_join {i : Instr} (h : i.isOf .join) : decode (encode i) = .ok i := by
  cases i with
  | join =>
    refine decode_encode_of_row rfl rfl fun row => ?_
    rw [decode_of_join row.engine, decodeJoin, row.opcode rfl]
    refine (if_pos (row.test rfl rfl rfl)).trans (congrArg Except.ok ?_)
    congr 1
    all_goals exact row.field rfl rfl
  | _ => cases h

theorem decode_encode_ext {i : Instr} (h : i.isOf .ext) : decode (encode i) = .ok i := by
  cases i with
  | extImm =>
    refine decode_encode_of_row rfl rfl fun row => ?_
    rw [decode_of_ext row.engine, decodeExt, row.fixed rfl rfl]
    refine congrArg Except.ok ?_
    congr 1
    all_goals exact row.field rfl rfl
  | extOrd | extTok | extStall | extMask | extInd =>
    refine decode_encode_of_row rfl rfl fun row => ?_
    rw [decode_of_ext row.engine, decodeExt, row.fixed rfl rfl]
    refine (if_pos (row.test rfl rfl rfl)).trans (congrArg Except.ok ?_)
    congr 1
    all_goals exact row.field rfl rfl
  | _ => cases h

/-- The decoder reads a well-formed instruction from its word. -/
theorem decode_encode {i : Instr} (hw : i.wf = true) : decode (encode i) = .ok i := by
  have h := (Bool.and_eq_true_iff.mp hw).1
  cases e : i.layout.engine with
  | ctrl => exact decode_encode_ctrl (Prod.ext e h) hw
  | acc => exact decode_encode_acc (Prod.ext e h)
  | vec => exact decode_encode_vec (Prod.ext e h)
  | mtx => exact decode_encode_mtx (Prod.ext e h)
  | sfu => exact decode_encode_sfu (Prod.ext e h)
  | xfer => exact decode_encode_xfer (Prod.ext e h)
  | join => exact decode_encode_join (Prod.ext e h)
  | ext => exact decode_encode_ext (Prod.ext e h)

end Sys2Proof
end

section
/-! What the decoder accepts (R77, R97, R98), with the obligations O57 and O58. -/

namespace Sys2Proof

/-! A word that decodes is the word of its instruction: engine, opcode, the reserved bits that the decoder has tested and the fields that it
has read are all the bits of the word. -/

theorem encode_of_decodeCtrl {w : Word} {i : Instr} (he : engineOf w = 0) (h : decodeCtrl w = .ok i) : encode i = w ∧ i.isWord = true := by
  have top := bitsFrom_top w
  unfold decodeCtrl at h
  repeat' split at h
  all_goals cases h
  all_goals
    refine ⟨ofNat_eq_word ?_, rfl⟩
    simp only [engineOf_eq_iff, opcodeOf_eq_iff, Bool.and_eq_true, beq_iff_eq, fldN_eq_iff, fld_toNat, Nat.cast_add, Nat.cast_mul,
      Nat.cast_ofNat, fldN_eq_bitsFrom, Nat.reduceAdd, Int.reducePow] at *
    omega

theorem encode_of_decodeAcc {w : Word} {i : Instr} (he : engineOf w = 1) (h : decodeAcc w = .ok i) : encode i = w ∧ i.isWord = true := by
  have top := bitsFrom_top w
  unfold decodeAcc at h
  repeat' split at h
  all_goals cases h
  all_goals
    refine ⟨ofNat_eq_word ?_, rfl⟩
    simp only [engineOf_eq_iff, opcodeOf_eq_iff, Bool.and_eq_true, beq_iff_eq, fldN_eq_iff, fld_toNat, Nat.cast_add, Nat.cast_mul,
      Nat.cast_ofNat, fldN_eq_bitsFrom, Nat.reduceAdd, Int.reducePow] at *
    omega

theorem encode_of_decodeVec {w : Word} {i : Instr} (he : engineOf w = 2) (h : decodeVec w = .ok i) : encode i = w ∧ i.isWord = true := by
  have top := bitsFrom_top w
  unfold decodeVec at h
  repeat' split at h
  all_goals cases h
  all_goals
    refine ⟨ofNat_eq_word ?_, rfl⟩
    simp only [engineOf_eq_iff, opcodeOf_eq_iff, Bool.and_eq_true, beq_iff_eq, fldN_eq_iff, fld_toNat, Nat.cast_add, Nat.cast_mul,
      Nat.cast_ofNat, fldN_eq_bitsFrom, Nat.reduceAdd, Int.reducePow] at *
    omega

/-- The same for the engines of few opcodes and the EXT words. -/
theorem encode_of_decode_above {w : Word} {i : Instr} (he : 3 ≤ engineOf w) (h : decode w = .ok i) : encode i = w ∧ i.isWord = true := by
  have top := bitsFrom_top w
  have bound : engineOf w < 8 := Nat.mod_lt _ (by decide)
  obtain he | he | he | he | he : engineOf w = 3 ∨ engineOf w = 4 ∨ engineOf w = 5 ∨ engineOf w = 6 ∨ engineOf w = 7 := by omega
  on_goal 1 => rw [decode_of_mtx he, decodeMtx] at h
  on_goal 2 => rw [decode_of_sfu he, decodeSfu] at h
  on_goal 3 => rw [decode_of_xfer he, decodeXfer] at h
  on_goal 4 => rw [decode_of_join he, decodeJoin] at h
  on_goal 5 => rw [decode_of_ext he, decodeExt] at h
  all_goals repeat' split at h
  all_goals cases h
  all_goals
    refine ⟨ofNat_eq_word ?_, rfl⟩
    simp only [engineOf_eq_iff, opcodeOf_eq_iff, Bool.and_eq_true, beq_iff_eq, fldN_eq_iff, fld_toNat, Nat.cast_add, Nat.cast_mul,
      Nat.cast_ofNat, fldN_eq_bitsFrom, Nat.reduceAdd, Int.reducePow] at *
    omega

theorem encode_of_decode {w : Word} {i : Instr} (h : decode w = .ok i) : encode i = w ∧ i.isWord = true := by
  obtain he | he | he | he : engineOf w = 0 ∨ engineOf w = 1 ∨ engineOf w = 2 ∨ 3 ≤ engineOf w := by omega
  · exact encode_of_decodeCtrl he (decode_of_ctrl he ▸ h)
  · exact encode_of_decodeAcc he (decode_of_acc he ▸ h)
  · exact encode_of_decodeVec he (decode_of_vec he ▸ h)
  · exact encode_of_decode_above he h

/-- From the bytes of a word the decoder reads what it reads from the word, and leaves the bytes that follow. -/
theorem decodeBytes_bytesOfWord {w : Word} {i : Instr} (h : decode w = .ok i) (rest : List Byte) :
    decodeBytes (bytesOfWord w ++ rest) = some (i, rest) := by
  simp only [bytesOfWord, List.cons_append, List.nil_append, decodeBytes, wordOfBytes_bytes, h]

/-- Settles O58: the word of a row holds its fields and its fixed bits, which are what the decoder reads and tests; and what it reads and tests
is the whole word. -/
theorem everyWordRoundTrips : Obligations.EveryWordRoundTrips := by
  unfold Obligations.EveryWordRoundTrips
  exact ⟨fun i hw => ⟨decode_encode hw, decodeBytes_bytesOfWord (decode_encode hw)⟩, fun w i h => encode_of_decode h⟩

/-- A word that is written out as that of a well-formed instruction decodes to it. -/
theorem decode_eq_of_encode_eq {w : Word} {i : Instr} (hw : i.wf = true) (h : encode i = w) : decode w = .ok i := h ▸ decode_encode hw

/-- Settles O57: the words that are instructions are those of the encoder; the others fall to the decoder's refusals. -/
theorem wordsOfEveryEngineDecode : Obligations.WordsOfEveryEngineDecode := by
  unfold Obligations.WordsOfEveryEngineDecode
  refine ⟨?_, ?_, ?_, ?_, ?_, ?_, ?_, ?_, ?_, ?_, ?_, ?_, ?kind6, ?opcode, ?reserved⟩
  case kind6 => rw [decode_of_ext rfl]; rfl
  case opcode => rw [decode_of_ctrl rfl]; rfl
  case reserved => rw [decode_of_ctrl rfl]; rfl
  all_goals exact decode_eq_of_encode_eq rfl rfl

end Sys2Proof
end
section
/-! Early reads of the VEC engine (R94, R95): what a word does while a register that it reads has a pending write; with the refutation of the
obligation O26. -/

namespace Sys2Proof.Machine

/-- The earliest cycle at which a VEC word of `s` issues (R94). -/
def State.vecEarliest (s : State) : Nat := max s.cs.vclk s.cs.cyc + Config.issueDelay s.free

/-- The pending writes of registers and masks that the word `i` of `s` reads. -/
def State.vecEarly (s : State) (i : Instr) : List PendWrite :=
  earlyReads s.cs.pend s.vecEarliest ((rolesOf i).regs s.cs s.cs.unit (·.src)) (maskReads i s.cs.unit)

/-- The cycle at which the word issues: under SCBM 2 once these writes are ready. -/
def State.vecCycle (s : State) (i : Instr) : Nat :=
  if s.cs.scbm = 2 then (s.vecEarly i).foldl (fun c p => max c p.ready) s.vecEarliest else s.vecEarliest

/-- The strand as the word reads it: under SCBM 0 as before these writes. -/
def State.vecView (s : State) (i : Instr) : Strand :=
  let t := s.begun.cs.settlePend false (s.vecCycle i)
  if s.cs.scbm = 0 then beforeWrites t (s.vecEarly i) else t

/-- The stall count of a VEC word (R94). -/
def State.vecStall (s : State) (i : Instr) (sbit : BitVec 1) : Nat :=
  match s.cs.unit.ext 3 with
  | some x => fldN x 0 4
  | none => if sbit = 1 then vecLatency i else 0

/-- The pending writes that the word makes (R43, R64, R94). -/
def State.vecWrites (s : State) (i : Instr) (body : Strand → Strand → Strand) : List PendWrite :=
  let t := s.begun.cs.settlePend false (s.vecCycle i)
  newWrites t (s.vecCycle i) (vecLatency i) ((rolesOf i).regs t s.cs.unit (·.dst)) (maskWrites i) s.cs.unit.sig
    (engineFlags s false (s.vecCycle i) (fun _ => body (s.vecView i)))

/-- The state after the effect of the word. -/
def State.vecIssued (s : State) (i : Instr) (sbit : BitVec 1) (body : Strand → Strand → Strand) : State :=
  engineDid s false (s.vecCycle i) (s.vecCycle i + s.vecStall i sbit) (s.vecWrites i body) (fun _ => body (s.vecView i))

section
variable {i : Instr} {s : State} {sbit : BitVec 1} {body : Strand → Strand → Strand}

theorem vecWord_eq_enginesWord (i : Instr) (sbit : BitVec 1) (body : Strand → Strand → Strand) (s : State) : vecWord i sbit body s =
    enginesWord (rolesOf i) (fateOf s i) (maskReads i s.cs.unit) (maskWrites i) false (vecLatency i) (s.vecStall i sbit) body s := rfl

/-- Writes that become complete leave the unit, the registers and the scalars of the strand. -/
theorem settled_keeps (s : State) (c : Nat) : (s.begun.cs.settlePend false c).unit = s.cs.unit ∧
    (s.begun.cs.settlePend false c).v = s.cs.v ∧ (s.begun.cs.settlePend false c).s = s.cs.s := by
  obtain ⟨e, fl, settled⟩ := settlePend_eq false c s.begun.cs
  rw [settled]
  exact ⟨rfl, rfl, rfl⟩

/-- So does the taking of the sources, and the word has raised no flag yet. -/
theorem vecStart_keeps (s : State) (fs : List (Nat × BitVec 6)) (c : Nat) : (s.vecStart false fs c).unit = s.cs.unit ∧
    (s.vecStart false fs c).v = s.cs.v ∧ (s.vecStart false fs c).s = s.cs.s ∧ (s.vecStart false fs c).flags = 0 := by
  obtain ⟨unit, regs, scalars⟩ := settled_keeps s c
  obtain ⟨takeUnit, takeRegs, -, takeScalars, takeFlags⟩ :=
    takeSources_keeps (s.begun.cs.settlePend false c).unit fs { s.begun.cs.settlePend false c with flags := 0 }
  exact ⟨takeUnit.trans unit, takeRegs.trans regs, takeScalars.trans scalars, takeFlags⟩

/-- The effect of a VEC word, with early reads as SCBM says (R94, R95). -/
theorem enginesAct_of_vec (i : Instr) (s : State) (sbit : BitVec 1) (body : Strand → Strand → Strand) :
    enginesAct (rolesOf i) (maskReads i s.cs.unit) (maskWrites i) false (vecLatency i) (s.vecStall i sbit) body s.begun =
      if (decide (s.cs.scbm = 1) && !(s.vecEarly i).isEmpty) = true then .trap .stallCheck (s.cs.unit.word.setWidth 64)
      else if (s.vecWrites i body).isEmpty then .ok (s.vecIssued i sbit body) else .okNoSig (s.vecIssued i sbit body) := rfl

/-- What a VEC word does that issues. -/
theorem vecWord_of_issues (h : Issues i s) : vecWord i sbit body s = .next (
    if s.cs.scbm = 1 ∧ s.vecEarly i ≠ [] then s.trapped i .stallCheck (s.cs.unit.word.setWidth 64)
    else if (s.vecWrites i body).isEmpty then s.completes (s.vecIssued i sbit body) else s.vecIssued i sbit body) := by
  obtain ⟨fate, tok, queues, sound⟩ := h
  have test : (decide (s.cs.scbm = 1) && !(s.vecEarly i).isEmpty) = true ↔ s.cs.scbm = 1 ∧ s.vecEarly i ≠ [] := by simp
  rw [vecWord_eq_enginesWord]
  simp only [enginesWord, issueWith, fate, tok, queues, queuesHold_none, Bool.not_true, Bool.or_self, Bool.false_eq_true, if_false]
  rw [show s.onCs (fun t => t.setHeld false) = s.begun from rfl, undamaged_of_sound (s := s.begun) sound, enginesAct_of_vec]
  by_cases early : s.cs.scbm = 1 ∧ s.vecEarly i ≠ []
  · rw [if_pos early, if_pos (test.mpr early)]
    rfl
  · rw [if_neg early, if_neg (mt test.mp early)]
    cases (s.vecWrites i body).isEmpty <;> rfl

theorem beforeWrites_s (t : Strand) (l : List PendWrite) : (beforeWrites t l).s = t.s := by
  induction l with
  | nil => rfl
  | cons p l ih => rw [beforeWrites]; split <;> exact ih

/-- The scalars of the strand are the same in the word's view of it. -/
theorem vecView_s (i : Instr) (s : State) : (s.vecView i).s = s.cs.s := by
  obtain ⟨-, -, scalars⟩ := settled_keeps s (s.vecCycle i)
  simp only [State.vecView]
  split
  · rw [beforeWrites_s, scalars]
  · exact scalars

theorem vecView_vname (i : Instr) (s : State) (u : EUnit) (n : Nat) (x : BitVec 6) : (s.vecView i).vname u n x = s.cs.vname u n x := by
  simp only [Strand.vname, Strand.sc, vecView_s]

/-- A word that puts one value into each element of D, where it does not trap: from the sources as it reads them, at its cycle. -/
theorem lanes_of_view (h : Issues i s) (free : ¬ (s.cs.scbm = 1 ∧ s.vecEarly i ≠ [])) {fs : List (Nat × BitVec 6)} {d : BitVec 6} {w n : Nat}
    {g : Nat → Nat × Flags} (hw : w * n ≤ 4096) (word : exec i s = vecWord i sbit body s)
    (mask : (s.vecView i).maskOf s.cs.unit = s.cs.maskOf s.cs.unit)
    (lanes : body (s.vecView i) { s.begun.cs.settlePend false (s.vecCycle i) with flags := 0 } =
      putLanes (s.vecView i) (s.vecStart false fs (s.vecCycle i)) d w n g) :
    Lanes i s fs d w n g ∧ ∃ t : State, exec i s = .next t ∧ t.cs.vclk = s.vecCycle i + s.vecStall i sbit := by
  obtain ⟨unit, regs, scalars, zero⟩ := vecStart_keeps s fs (s.vecCycle i)
  obtain ⟨v, put, elems, bound⟩ := putLanes_eq (s := s) (view := s.vecView i) (t := s.vecStart false fs (s.vecCycle i)) (d := d) (w := w) (n := n)
    (by rw [unit, mask]) unit regs scalars hw g
  have result := lanes.trans put
  have run := word.trans (vecWord_of_issues (body := body) h)
  rw [if_neg free] at run
  refine ⟨⟨s.vecCycle i, s.vecCycle i + s.vecStall i sbit, s.vecWrites i body, v, ?_, ?_, elems, bound⟩, _, run, ?_⟩
  · rw [run]
    simp only [State.vecDid, State.vecIssued, engineDid, result, Bool.false_eq_true, if_false]
  · have flags : engineFlags s false (s.vecCycle i) (fun _ => body (s.vecView i)) = s.laneFlags n g := by
      rw [engineFlags, result]
      simp only [putWhole]
      split <;> simp [Strand.pushq, Strand.setDataq, Strand.setVr, Strand.repaired, Strand.raise, zero]
    rw [← flags]
    exact newWrites_signalled s _ _ _ _ _ _
  · cases (s.vecWrites i body).isEmpty
    · rfl
    · exact Strand.signal_vclk _ _

/-- Values that agree modulo the width give the same elements. -/
theorem Lanes.of_mod {fs : List (Nat × BitVec 6)} {d : BitVec 6} {w n : Nat} {x : Nat → Nat}
    (h : Lanes i s fs d w n (fun j => (x j % 2 ^ w, 0))) : Lanes i s fs d w n (fun j => (x j, 0)) := by
  obtain ⟨k, c, p, v, run, signalled, elems, bound⟩ := h
  refine ⟨k, c, p, v, run, signalled, fun j hj => (elems j hj).trans ?_, bound⟩
  split
  · exact Nat.mod_mod ..
  · rfl

/-- Where D names a register, a word that completes writes that register. -/
theorem Lanes.register {fs : List (Nat × BitVec 6)} {d : BitVec 6} {w n r : Nat} {g : Nat → Nat × Flags} (h : Lanes i s fs d w n g)
    (dest : s.cs.vname s.cs.unit 19 d = .reg r) : ∃ (t : State) (v : Vec), exec i s = .next t ∧ t.cs.v = Sparse.set 0 s.cs.v r v ∧
      ∀ j < n, elemAt v w j = (if s.active j then (g j).1 else s.oldLane d w j) % 2 ^ w := by
  obtain ⟨k, c, p, v, run, -, elems, -⟩ := h
  refine ⟨_, v, run, ?_, elems⟩
  obtain ⟨unit, regs, scalars, -⟩ := vecStart_keeps s fs k
  have name : ∀ fl, ((s.vecStart false fs k).raise fl).vname ((s.vecStart false fs k).raise fl).unit 19 d = .reg r := fun fl => by
    rw [← dest]
    simp only [Strand.vname, Strand.sc, Strand.raise, unit, scalars]
  have put : (putWhole ((s.vecStart false fs k).raise (s.laneFlags n g)) 19 d v (maskWhere n s.active)).v = Sparse.set 0 s.cs.v r v := by
    rw [putWhole, name]
    exact congrArg (Sparse.set 0 · r v) regs
  cases e : p.isEmpty
  · simpa [State.vecDid, e, State.onCs] using put
  · simpa [State.vecDid, e, State.onCs, State.completes] using put
end

/-! `vadd` with an early read. -/

theorem vname_reg_lt {t : Strand} {u : EUnit} {n k : Nat} {x : BitVec 6} (h : t.vname u n x = .reg k) : k < 256 := by
  have byIndex := x.isLt
  unfold Strand.vname at h
  repeat' split at h
  all_goals cases h
  all_goals omega

theorem wInt_mul_nInt (y : BitVec 3) : wInt y * nInt y ≤ 4096 := by
  revert y
  decide

/-- The statement's premises on `vadd`: source A is register `k`, source B another, and the one pending write is of `k` and early. -/
structure EarlyAdd (s : State) (y : BitVec 3) (d a b : BitVec 6) (f : BitVec 1) (k : Nat) (w : PendWrite) (kb : Nat) : Prop where
  issues : Issues (.vadd y d a b f) s
  nameA : s.cs.vname s.cs.unit 18 a = .reg k
  nameB : s.cs.vname s.cs.unit 17 b = .reg kb
  ne : kb ≠ k
  pend : s.cs.pend = [w]
  vector : w.isMask = false
  idx : w.idx = k
  early : s.vecEarliest < w.ready
  unmasked : s.cs.unit.ext 4 = none

section
variable {s : State} {y : BitVec 3} {d a b : BitVec 6} {f : BitVec 1} {k : Nat} {w : PendWrite} {kb : Nat} (h : EarlyAdd s y d a b f k w kb)
include h

theorem EarlyAdd.vecEarly : s.vecEarly (.vadd y d a b f) = [w] := by
  have regs : (rolesOf (.vadd y d a b f)).regs s.cs s.cs.unit (·.src) = [k, kb] := by
    change (rolesV f (vdst d) (vsrc a) (vsrc b)).regs s.cs s.cs.unit (·.src) = [k, kb]
    simp [rolesV, vdst, vsrc, Roles.regs, Roles.fields, h.nameA, h.nameB, Nat.mod_eq_of_lt (vname_reg_lt h.nameA),
      Nat.mod_eq_of_lt (vname_reg_lt h.nameB)]
  simp [State.vecEarly, earlyReads, regs, h.pend, h.vector, h.idx, h.early]

/-- The word reads both registers from its view of the strand. -/
theorem EarlyAdd.lanes (mode : s.cs.scbm ≠ 1) :
    Lanes (.vadd y d a b f) s [(18, a), (17, b)] d (wInt y) (nInt y) (fun j =>
      (elemAt ((s.vecView (.vadd y d a b f)).vr k) (wInt y) j + elemAt ((s.vecView (.vadd y d a b f)).vr kb) (wInt y) j, 0)) ∧
    ∃ t : State, exec (.vadd y d a b f) s = .next t ∧
      t.cs.vclk = s.vecCycle (.vadd y d a b f) + s.vecStall (.vadd y d a b f) f := by
  obtain ⟨unit, -, -⟩ := settled_keeps s (s.vecCycle (.vadd y d a b f))
  have mask : (s.vecView (.vadd y d a b f)).maskOf s.cs.unit = s.cs.maskOf s.cs.unit := by
    simp only [Strand.maskOf, h.unmasked]
  obtain ⟨lanes, clock⟩ := lanes_of_view h.issues (fun e => mode e.1) (fs := [(18, a), (17, b)]) (w := wInt y) (n := nInt y)
    (wInt_mul_nInt y) (exec_vadd ..) mask (by
      simp only [sources, State.vecStart, unit, takeSources, vecView_vname, h.nameA, h.nameB]
      rfl)
  exact ⟨lanes.of_mod, clock⟩

/-- Under SCBM 1 the word traps. -/
theorem EarlyAdd.traps (mode : s.cs.scbm = 1) :
    exec (.vadd y d a b f) s = .next (s.trapped (.vadd y d a b f) .stallCheck (s.cs.unit.word.setWidth 64)) := by
  have early : s.vecEarly (.vadd y d a b f) ≠ [] := by rw [h.vecEarly]; exact List.cons_ne_nil _ _
  rw [exec_vadd]
  exact (vecWord_of_issues h.issues).trans (by rw [if_pos ⟨mode, early⟩])

/-- Under SCBM 2 it issues once the write is ready. -/
theorem EarlyAdd.waits (mode : s.cs.scbm = 2) : s.vecCycle (.vadd y d a b f) = w.ready ∧ (s.vecView (.vadd y d a b f)).v = s.cs.v := by
  have below := h.early
  have other : ¬ (2 : BitVec 2) = 0 := by decide
  refine ⟨?_, ?_⟩
  · rw [State.vecCycle, mode, if_pos rfl, h.vecEarly]
    exact Nat.max_eq_right (Nat.le_of_lt below)
  · simp only [State.vecView, mode, if_neg other]
    exact (settled_keeps s _).2.1

/-- Under SCBM 0 it reads the file of registers with the old value put back. -/
theorem EarlyAdd.puts_back (mode : s.cs.scbm = 0) : (s.vecView (.vadd y d a b f)).v = Sparse.set 0 s.cs.v k w.old := by
  simp only [State.vecView, mode, if_true, h.vecEarly, beforeWrites, h.vector, h.idx, Bool.false_eq_true, if_false, Strand.setVr,
    (settled_keeps s _).2.1]

/-- What the statement says of the three modes holds where the register file is in its canonical form. -/
theorem EarlyAdd.modes_of_canonical (canonical : Sparse.wf 0 s.cs.v = true) :
    (s.cs.scbm = 1 → exec (.vadd y d a b f) s = .next (s.trapped (.vadd y d a b f) .stallCheck (s.cs.unit.word.setWidth 64))) ∧
    (s.cs.scbm = 0 → Lanes (.vadd y d a b f) s [(18, a), (17, b)] d (wInt y) (nInt y)
      (fun j => (elemAt w.old (wInt y) j + elemAt (s.cs.vr kb) (wInt y) j, 0))) ∧
    (s.cs.scbm = 2 → Lanes (.vadd y d a b f) s [(18, a), (17, b)] d (wInt y) (nInt y)
        (fun j => (elemAt (s.cs.vr k) (wInt y) j + elemAt (s.cs.vr kb) (wInt y) j, 0)) ∧
      ∃ t : State, exec (.vadd y d a b f) s = .next t ∧ t.cs.vclk = w.ready + s.vecStall (.vadd y d a b f) f) := by
  refine ⟨h.traps, fun mode => ?_, fun mode => ?_⟩
  · have lanes := (h.lanes (by rw [mode]; decide)).1
    simp only [Strand.vr, h.puts_back mode, Sparse.get_set_self _ _ _ canonical, Sparse.get_set_ne _ _ h.ne] at lanes
    exact lanes
  · have lanes := h.lanes (by rw [mode]; decide)
    obtain ⟨cycle, regs⟩ := h.waits mode
    simp only [Strand.vr, cycle, regs] at lanes
    exact lanes
end

/-- A strand whose register file lists register 1 twice, with an early write of it under SCBM 0. -/
def doubledRegister : State :=
  { cs := { v := [(1, 2), (1, 1)], scbm := 0, pend := [⟨false, 1, 0, Config.issueDelay 0 + 1, none, 0⟩] } }

theorem earlyAdd_doubledRegister : EarlyAdd doubledRegister 7 3 1 2 0 1 ⟨false, 1, 0, Config.issueDelay 0 + 1, none, 0⟩ 2 where
  issues := by decide
  nameA := rfl
  nameB := rfl
  ne := by decide
  pend := rfl
  vector := rfl
  idx := rfl
  early := by
    change max 0 0 + Config.issueDelay 0 < Config.issueDelay 0 + 1
    omega
  unmasked := rfl

/-- A write of another register shows there, whatever the file lists of register 1. -/
theorem get_set_doubledRegister (v : Vec) : Sparse.get 0 (Sparse.set 0 doubledRegister.cs.v 3 v) 3 = v := by
  by_cases zero : v = 0
  · simp [zero, doubledRegister, Sparse.set, Sparse.get]
  · exact Sparse.get_set_self_of_ne _ _ zero

/-- Refutes O26: its clause of SCBM 0 speaks of every strand, also of one whose register file is not in its canonical form and lists register 1
twice (`doubledRegister`). The old value of register 1 is 0, so to put it back removes the first entry and shows the second, 1: the word adds
1 where the statement has it add 0. -/
theorem not_scoreboardModesOfEarlyReads : ¬ Obligations.ScoreboardModesOfEarlyReads := by
  unfold Obligations.ScoreboardModesOfEarlyReads
  intro claim
  have h := earlyAdd_doubledRegister
  obtain ⟨-, old, -⟩ := claim doubledRegister 7 3 1 2 0 1 _ 2 h.issues h.nameA h.nameB h.ne h.pend h.vector h.idx h.early h.unmasked
  obtain ⟨t, v, run, file, elems⟩ := (h.lanes (by decide)).1.register (r := 3) rfl
  obtain ⟨t', v', run', file', elems'⟩ := (old rfl).register (r := 3) rfl
  have same : v = v' := by
    rw [run, Host.Outcome.next.injEq] at run'
    rw [← get_set_doubledRegister v, ← file, run', file', get_set_doubledRegister]
  have active : doubledRegister.active 0 = true := by simp [State.active, Strand.maskOf, h.unmasked]
  have shown := elems 0 (by decide)
  rw [same, elems' 0 (by decide)] at shown
  simp only [active, if_true, Strand.vr, h.puts_back rfl] at shown
  simp [doubledRegister, Sparse.set, Sparse.get, elemAt, wInt] at shown

end Sys2Proof.Machine
end

section
/-! Scalar integer words (09_control_instructions.md R116 to R122): what a word of one result answers, and the arithmetic of the results. -/

namespace Sys2Proof.Machine

/-- Whether a word has to wait does not decide what it reads. -/
@[simp] theorem Strand.sc_setHeld (t : Strand) (b : Bool) (n : BitVec 6) : (t.setHeld b).sc n = t.sc n := rfl

section
variable {i : Instr} {s : State}

/-- A word that is a scalar word and issues completes with its value. -/
theorem exec_scalarWord {d : BitVec 6} {f : Strand → Dword} {x : Dword} (run : exec i s = scalarWord i s d f) (h : Issues i s)
    (value : f s.begun.cs = x) : exec i s = .next (s.wrote d x) := by
  rw [run, scalarWord_eq h, value]

/-- A word whose effect on the machine is to go on in `t` completes there. -/
theorem exec_ok {body : State → Act} {t : State} (run : exec i s = .next (issue i s body)) (h : Issues i s) (b : body s.begun = .ok t) :
    exec i s = .next (s.completes t) := by
  rw [run, issue_ok h b]

/-- A word that finds its condition unmet waits. -/
theorem exec_wait {body : State → Act} (run : exec i s = .next (issue i s body)) (h : Issues i s) (b : body s.begun = .wait) :
    exec i s = .next s.waits := by
  rw [run, issue_wait h b]

/-- A word that finds a fault traps. -/
theorem exec_trap_of {body : State → Act} {c : Cause} {v : Dword} (run : exec i s = .next (issue i s body)) (h : Issues i s)
    (b : body s.begun = .trap c v) : exec i s = .next (s.trapped i c v) := by
  rw [run, issue_trap h b]
end

/-! Products and shifts (R116). -/

theorem mulHighS_eq (x y : Dword) : mulHighS x y = (BitVec.ofInt 128 (x.toInt * y.toInt)).extractLsb' 64 64 := by
  apply BitVec.eq_of_toNat_eq
  simp only [mulHighS, BitVec.extractLsb'_toNat, BitVec.toNat_ofInt, Nat.shiftRight_eq_div_pow]
  omega

theorem mulHighN_eq (x y : Dword) : mulHighN x y = (BitVec.ofNat 128 (x.toNat * y.toNat)).extractLsb' 64 64 := by
  apply BitVec.eq_of_toNat_eq
  simp only [mulHighN, BitVec.extractLsb'_toNat, BitVec.toNat_ofNat, Nat.shiftRight_eq_div_pow]
  omega

theorem sshiftRight_eq_div (x : Dword) (n : Nat) : x.sshiftRight n = BitVec.ofInt 64 (x.toInt / 2 ^ n) := by
  rw [BitVec.sshiftRight_eq, Int.shiftRight_eq_div_pow]
  norm_cast

theorem rotateLeft_shamt (x y : Dword) : x.rotateLeft (shamt y) = x <<< (y.toNat % 64) ||| x >>> (64 - y.toNat % 64) := by
  rw [BitVec.rotateLeft_def, shamt, Nat.mod_mod]

/-! Minimum and maximum (R116): of equal operands either is the result. -/

theorem minSigned_eq (x y : Dword) : minSigned x y = if x.toInt < y.toInt then x else y := by
  rcases lt_trichotomy x.toInt y.toInt with lt | eq | gt
  · simp [minSigned, lt, lt.le]
  · simp [minSigned, BitVec.eq_of_toInt_eq eq]
  · simp [minSigned, gt.not_ge, gt.not_gt]

theorem maxSigned_eq (x y : Dword) : maxSigned x y = if x.toInt < y.toInt then y else x := by
  rcases lt_trichotomy x.toInt y.toInt with lt | eq | gt
  · simp [maxSigned, lt, lt.le]
  · simp [maxSigned, BitVec.eq_of_toInt_eq eq]
  · simp [maxSigned, gt.not_ge, gt.not_gt]

theorem minUnsigned_eq (x y : Dword) : minUnsigned x y = if x.toNat < y.toNat then x else y := by
  rcases lt_trichotomy x.toNat y.toNat with lt | eq | gt
  · simp [minUnsigned, lt, lt.le]
  · simp [minUnsigned, BitVec.eq_of_toNat_eq eq]
  · simp [minUnsigned, gt.not_ge, gt.not_gt]

theorem maxUnsigned_eq (x y : Dword) : maxUnsigned x y = if x.toNat < y.toNat then y else x := by
  rcases lt_trichotomy x.toNat y.toNat with lt | eq | gt
  · simp [maxUnsigned, lt, lt.le]
  · simp [maxUnsigned, BitVec.eq_of_toNat_eq eq]
  · simp [maxUnsigned, gt.not_ge, gt.not_gt]

/-! Counts of bits (R116). -/

theorem lt_two_pow_bitLen (x : Nat) : x < 2 ^ bitLen x := by
  by_cases zero : x = 0
  · simp [bitLen, zero]
  · simpa [bitLen, zero] using Nat.lt_log2_self

theorem bitLen_le {x n : Nat} (h : x < 2 ^ n) : bitLen x ≤ n := by
  by_cases zero : x = 0
  · simp [bitLen, zero]
  · have := (Nat.log2_lt zero).mpr h
    simp only [bitLen, zero, if_false]
    omega

theorem testBit_bitLen {x : Nat} (h : x ≠ 0) : x.testBit (bitLen x - 1) = true := by
  simpa [bitLen, h] using Nat.testBit_log2 h

/-- The leading zeros of a scalar: the bits above them are clear, and the bit below them is set. -/
theorem countLeading_spec (x : Dword) : countLeading 64 x.toNat ≤ 64 ∧ x.toNat < 2 ^ (64 - countLeading 64 x.toNat) ∧
    (countLeading 64 x.toNat < 64 → x.getLsbD (63 - countLeading 64 x.toNat) = true) := by
  have len := bitLen_le x.isLt
  have eq : countLeading 64 x.toNat = 64 - bitLen x.toNat := by rw [countLeading, Nat.mod_eq_of_lt x.isLt]
  refine ⟨by omega, ?_, fun below => ?_⟩
  · rw [eq, Nat.sub_sub_self len]
    exact lt_two_pow_bitLen _
  · have some : x.toNat ≠ 0 := fun zero => by
      rw [eq, zero] at below
      exact absurd below (by decide)
    rw [eq, show 63 - (64 - bitLen x.toNat) = bitLen x.toNat - 1 by omega]
    exact testBit_bitLen some

/-- The trailing zeros of the low `n` bits of a number: the bits below them are clear, and the bit above them is set. -/
theorem countTrailing_spec (n x : Nat) : countTrailing n x ≤ n ∧ x % 2 ^ countTrailing n x = 0 ∧
    (countTrailing n x < n → x.testBit (countTrailing n x) = true) := by
  induction n generalizing x with
  | zero => simp [countTrailing, Nat.mod_one]
  | succ n ih =>
    obtain ⟨le, low, bit⟩ := ih (x / 2)
    rw [countTrailing]
    split
    · next odd => simp [Nat.mod_one, Nat.testBit_zero, odd]
    · next even =>
      refine ⟨by omega, ?_, fun below => ?_⟩
      · rw [pow_add, pow_one, Nat.mod_mul, low]
        omega
      · rw [Nat.add_comm 1, Nat.testBit_succ]
        exact bit (by omega)

/-- The one bits among the low `n` bits of a number. -/
theorem countOnes_eq (n x : Nat) : countOnes n x = (List.range n).countP (fun k => x.testBit k) := by
  induction n generalizing x with
  | zero => rfl
  | succ n ih =>
    have rest : (fun k => (x / 2).testBit k) = (fun k => x.testBit k) ∘ Nat.succ := by
      funext k
      simp [Nat.testBit_succ]
    rw [countOnes, ih, List.range_succ_eq_map, List.countP_cons, List.countP_map, rest, Nat.testBit_zero]
    rcases Nat.mod_two_eq_zero_or_one x with even | odd
    · simp [even]
    · simp [odd, Nat.add_comm]

/-- The condition of `sel`, of which scalar 0 never holds. -/
theorem sel_condition (t : Strand) (f : BitVec 4) : t.sc (f.setWidth 6) ≠ 0 ↔ f ≠ 0 ∧ t.sc (f.setWidth 6) ≠ 0 := by
  refine ⟨fun h => ⟨fun zero => h ?_, h⟩, And.right⟩
  simp [zero, Strand.sc]

/-- Settles O1: each word is a scalar word, with the result that the lemmas above state in the terms of R116. -/
theorem integerWordsComplete : Obligations.IntegerWordsComplete := by
  unfold Obligations.IntegerWordsComplete
  intro s d a b f x y n
  refine ⟨fun h => exec_scalarWord (exec_add ..) h rfl, fun h => exec_scalarWord (exec_sub ..) h rfl,
    fun h => exec_scalarWord (exec_mul ..) h rfl, fun h => exec_scalarWord (exec_mulhS ..) h (mulHighS_eq x y),
    fun h => exec_scalarWord (exec_mulhN ..) h (mulHighN_eq x y), fun h => exec_scalarWord (exec_and ..) h rfl,
    fun h => exec_scalarWord (exec_or ..) h rfl, fun h => exec_scalarWord (exec_xor ..) h rfl,
    fun h => exec_scalarWord (exec_andn ..) h rfl, fun h => exec_scalarWord (exec_shl ..) h rfl,
    fun h => exec_scalarWord (exec_shrN ..) h rfl, fun h => exec_scalarWord (exec_shrS ..) h (sshiftRight_eq_div x n),
    fun h => exec_scalarWord (exec_rot ..) h (rotateLeft_shamt x y), fun h => exec_scalarWord (exec_minS ..) h (minSigned_eq x y),
    fun h => exec_scalarWord (exec_minN ..) h (minUnsigned_eq x y), fun h => exec_scalarWord (exec_maxS ..) h (maxSigned_eq x y),
    fun h => exec_scalarWord (exec_maxN ..) h (maxUnsigned_eq x y), fun h => ?clz, fun h => ?ctz, fun h => ?popc, fun h => ?sel⟩
  case clz => exact ⟨_, exec_scalarWord (exec_clz ..) h rfl, countLeading_spec x⟩
  case ctz => exact ⟨_, exec_scalarWord (exec_ctz ..) h rfl, countTrailing_spec 64 x.toNat⟩
  case popc => exact exec_scalarWord (exec_popc ..) h (congrArg (BitVec.ofNat 64) (countOnes_eq 64 x.toNat))
  case sel => exact exec_scalarWord (exec_sel ..) h (if_congr (sel_condition s.cs f) rfl rfl)

end Sys2Proof.Machine
end

section
/-! Division (09_control_instructions.md R117). -/

namespace Sys2Proof.Machine

/-- The one signed quotient that is no number of 64 bits. -/
def divOverflow (x y : Dword) : Prop := x = 0x8000000000000000 ∧ y = BitVec.allOnes 64

section
variable {i : Instr} {s : State} {signed : Bool} {d a b : BitVec 6} {t : BitVec 1} {f : Dword → Dword → Dword}

theorem exec_divWord_zero (run : exec i s = divWord i signed d a b t f s) (h : Issues i s) (trap : t = 1) (zero : s.cs.sc b = 0) :
    exec i s = .next (s.trapped i .arith 0) := by
  refine exec_trap_of run h ?_
  simp [trap, zero]

theorem exec_divWord_overflow (run : exec i s = divWord i true d a b t f s) (h : Issues i s) (trap : t = 1)
    (ovf : divOverflow (s.cs.sc a) (s.cs.sc b)) : exec i s = .next (s.trapped i .arith 1) := by
  refine exec_trap_of run h ?_
  obtain ⟨dividend, divisor⟩ := ovf
  simp [trap, dividend, divisor]

/-- Where the trap variant finds no fault, and in the variant without traps, the result is that of `f`. -/
theorem exec_divWord (run : exec i s = divWord i signed d a b t f s) (h : Issues i s)
    (calm : t = 1 → s.cs.sc b ≠ 0 ∧ (signed = true → ¬ divOverflow (s.cs.sc a) (s.cs.sc b))) {x : Dword}
    (value : f (s.cs.sc a) (s.cs.sc b) = x) : exec i s = .next (s.wrote d x) := by
  refine exec_ok run h ?_
  have zero : ¬ (t = 1 ∧ s.begun.cs.sc b = 0) := fun e => (calm e.1).1 e.2
  have ovf : ¬ (((t = 1 ∧ signed = true) ∧ s.begun.cs.sc a = 0x8000000000000000) ∧ s.begun.cs.sc b = BitVec.allOnes 64) :=
    fun e => (calm e.1.1.1).2 e.1.1.2 ⟨e.1.2, e.2⟩
  simp only [Bool.and_eq_true, decide_eq_true_eq]
  rw [if_neg zero, if_neg ovf, ← value]
  rfl
end

theorem toInt_divSigned {x y : Dword} (zero : y ≠ 0) (ovf : ¬ divOverflow x y) : (divSigned x y).toInt = x.toInt.tdiv y.toInt := by
  rw [divSigned, if_neg zero, BitVec.toInt_ofInt, ← BitVec.toInt_sdiv]
  refine BitVec.toInt_sdiv_of_ne_or_ne x y ?_
  rw [divOverflow, not_and_or] at ovf
  exact ovf

/-- The remainder is the dividend less the truncated quotient times the divisor, also in the one overflow. -/
theorem toInt_remSigned {x y : Dword} (zero : y ≠ 0) : x.toInt = x.toInt.tdiv y.toInt * y.toInt + (remSigned x y).toInt := by
  rw [remSigned, if_neg zero, ← BitVec.toInt_srem, BitVec.ofInt_toInt, BitVec.toInt_srem, Int.tdiv_mul_add_tmod]

theorem divUnsigned_eq {x y : Dword} (zero : y ≠ 0) : divUnsigned x y = x / y := by
  rw [divUnsigned, if_neg zero, ← BitVec.toNat_udiv, BitVec.ofNat_toNat, BitVec.setWidth_eq]

theorem remUnsigned_eq {x y : Dword} (zero : y ≠ 0) : remUnsigned x y = x % y := by
  rw [remUnsigned, if_neg zero, ← BitVec.toNat_umod, BitVec.ofNat_toNat, BitVec.setWidth_eq]

theorem divSigned_overflow {x y : Dword} (ovf : divOverflow x y) : divSigned x y = x := by
  obtain ⟨rfl, rfl⟩ := ovf
  decide

theorem remSigned_overflow {x y : Dword} (ovf : divOverflow x y) : remSigned x y = 0 := by
  obtain ⟨rfl, rfl⟩ := ovf
  decide

/-- Settles O2, by the division word's three outcomes. -/
theorem divisionWordsComplete : Obligations.DivisionWordsComplete := by
  unfold Obligations.DivisionWordsComplete
  intro s d a b t x y ovf
  refine ⟨fun h zero calm => ⟨_, exec_divWord (exec_divS ..) h (fun _ => ⟨zero, fun _ => calm⟩) rfl, toInt_divSigned zero calm⟩,
    fun h zero calm => ⟨_, exec_divWord (exec_remS ..) h (fun _ => ⟨zero, fun _ => calm⟩) rfl, toInt_remSigned zero⟩,
    fun h zero => exec_divWord (exec_divN ..) h (fun _ => ⟨zero, nofun⟩) (divUnsigned_eq zero),
    fun h zero => exec_divWord (exec_remN ..) h (fun _ => ⟨zero, nofun⟩) (remUnsigned_eq zero), fun plain => ?plain, fun trap => ?trap⟩
  case plain =>
    have calm : ∀ {p : Prop}, t = 1 → p := fun one => absurd (plain.symm.trans one) (by decide)
    exact ⟨fun h zero => exec_divWord (exec_divS ..) h calm (if_pos zero), fun h zero => exec_divWord (exec_divN ..) h calm (if_pos zero),
      fun h zero => exec_divWord (exec_remS ..) h calm (if_pos zero), fun h zero => exec_divWord (exec_remN ..) h calm (if_pos zero),
      fun h corner => exec_divWord (exec_divS ..) h calm (divSigned_overflow corner),
      fun h corner => exec_divWord (exec_remS ..) h calm (remSigned_overflow corner)⟩
  case trap =>
    exact ⟨fun h zero => exec_divWord_zero (exec_divS ..) h trap zero, fun h zero => exec_divWord_zero (exec_divN ..) h trap zero,
      fun h zero => exec_divWord_zero (exec_remS ..) h trap zero, fun h zero => exec_divWord_zero (exec_remN ..) h trap zero,
      fun h corner => exec_divWord_overflow (exec_divS ..) h trap corner, fun h corner => exec_divWord_overflow (exec_remS ..) h trap corner⟩

end Sys2Proof.Machine
end

section
/-! Compare, immediate and bit-field words (09_control_instructions.md R118 to R122). -/

namespace Sys2Proof.Machine

section
variable {i : Instr} {s : State}

/-- A word outside its limits is ILLEGAL_FIELD (R98, R99). -/
theorem fateOf_of_limits (kind : s.cs.unit.badKind = false) (priv : isPrivileged i = false)
    (bad : (i.fieldsOk && dynamicOk i s.cs s.cs.unit (s.array s.cs.arrayNo).amode) = false) : fateOf s i = some .illegalField := by
  simp [fateOf, fateWith, kind, priv, bad]

theorem fieldsOk_of_issues (h : Issues i s) : i.fieldsOk = true := by
  obtain ⟨-, -, fields, -⟩ := fateOf_none h.1
  exact fields

theorem dynamicOk_of_issues (h : Issues i s) : dynamicOk i s.cs s.cs.unit (s.array s.cs.arrayNo).amode = true := by
  obtain ⟨-, -, -, limits, -⟩ := fateOf_none h.1
  exact limits
end

/-! `cmp` (R118). -/

theorem bit64_eq_ite {b : Bool} {p : Prop} [Decidable p] (h : b = true ↔ p) : bit64 b = if p then 1 else 0 := if_congr h rfl rfl

/-- The six conditions of `cmp`. -/
theorem cmpHolds_iff {c : BitVec 4} (hc : c.toNat ≤ 5) (x y : Dword) : cmpHolds c x y = true ↔
    (c = 0 ∧ x = y) ∨ (c = 1 ∧ x ≠ y) ∨ (c = 2 ∧ x.toInt < y.toInt) ∨ (c = 3 ∧ x.toNat < y.toNat) ∨
      (c = 4 ∧ y.toInt ≤ x.toInt) ∨ (c = 5 ∧ y.toNat ≤ x.toNat) := by
  have cases : c = 0 ∨ c = 1 ∨ c = 2 ∨ c = 3 ∨ c = 4 ∨ c = 5 := by
    revert hc
    revert c
    decide
  rcases cases with rfl | rfl | rfl | rfl | rfl | rfl <;> simp [cmpHolds]

/-! Immediates (R88, R119). -/

theorem immS_of_plain {u : EUnit} (h : u.ext 0 = none) {n : Nat} (i : BitVec n) : u.immS i = i.toInt := by
  rw [EUnit.immS, h]

theorem immS_of_ext {u : EUnit} {w : Word} (h : u.ext 0 = some w) {n : Nat} (i : BitVec n) :
    u.immS i = ((w.setWidth 26 : BitVec 26) ++ i).toInt := by
  have value : BitVec.ofNat (26 + n) (fldN w 0 26 * 2 ^ n + i.toNat) = (w.setWidth 26 : BitVec 26) ++ i := by
    apply BitVec.eq_of_toNat_eq
    have field : fldN w 0 26 < 2 ^ 26 := Nat.mod_lt _ (by decide)
    have below : fldN w 0 26 * 2 ^ n + i.toNat < 2 ^ (26 + n) := by
      rw [pow_add]
      calc fldN w 0 26 * 2 ^ n + i.toNat < fldN w 0 26 * 2 ^ n + 1 * 2 ^ n := by have := i.isLt; omega
        _ = (fldN w 0 26 + 1) * 2 ^ n := (Nat.add_mul ..).symm
        _ ≤ 2 ^ 26 * 2 ^ n := Nat.mul_le_mul_right _ field
    rw [BitVec.toNat_ofNat, Nat.mod_eq_of_lt below, BitVec.toNat_append, ← Nat.shiftLeft_add_eq_or_of_lt i.isLt, Nat.shiftLeft_eq,
      BitVec.toNat_setWidth, fldN, pow_zero, Nat.div_one]
  rw [EUnit.immS, h]
  dsimp only
  rw [value]

/-- The amount of a shift by an immediate with which the shift issues. -/
theorem shamt_ofInt {v : Int} (low : 0 ≤ v) (high : v ≤ 63) : shamt (BitVec.ofInt 64 v) = v.toNat := by
  rw [shamt, BitVec.toNat_ofInt]
  omega

/-- The limits of a shift's immediate (R119). -/
theorem immediate_in_range {i : Instr} {s : State} {d a : BitVec 6} {v : BitVec 10}
    (shift : i = .shli d a v ∨ i = .shriN d a v ∨ i = .shriS d a v) (h : Issues i s) : 0 ≤ s.cs.unit.immS v ∧ s.cs.unit.immS v ≤ 63 := by
  have limits : (decide (0 ≤ s.cs.unit.immS v) && decide (s.cs.unit.immS v ≤ 63)) = true := by
    rcases shift with rfl | rfl | rfl <;> exact dynamicOk_of_issues h
  simpa using limits

theorem immediate_out_of_range {i : Instr} {s : State} {d a : BitVec 6} {v : BitVec 10}
    (shift : i = .shli d a v ∨ i = .shriN d a v ∨ i = .shriS d a v) (out : ¬ (0 ≤ s.cs.unit.immS v ∧ s.cs.unit.immS v ≤ 63))
    (kind : s.cs.unit.badKind = false) : fateOf s i = some .illegalField := by
  have bad : (decide (0 ≤ s.cs.unit.immS v) && decide (s.cs.unit.immS v ≤ 63)) = false := by simpa using out
  rcases shift with rfl | rfl | rfl <;> exact fateOf_of_limits kind rfl bad

/-! Bit fields (R121). -/

theorem bfxUnsigned_eq (x y : Dword) : bfxUnsigned x y =
    ((x >>> (fieldOf y).1).setWidth (fieldOf y).2).setWidth 64 := by
  apply BitVec.eq_of_toNat_eq
  simp [bfxUnsigned, fieldBits, Nat.shiftRight_eq_div_pow]

/-- A number of `w` bits, read as two's complement, is the value of those bits. -/
theorem signOf_toNat {w : Nat} (z : BitVec w) : signOf z.toNat w = z.toInt := by
  cases w with
  | zero => simp [signOf, BitVec.of_length_zero]
  | succ n =>
    rw [signOf, if_neg (Nat.succ_ne_zero n), BitVec.toInt_eq_toNat_cond, Nat.add_sub_cancel]
    refine if_congr ?_ rfl (by push_cast; rfl)
    rw [pow_succ]
    omega

theorem bfxSigned_eq (x y : Dword) : bfxSigned x y = ((x >>> (fieldOf y).1).setWidth (fieldOf y).2).signExtend 64 := by
  have field : fieldBits x (fieldOf y).1 (fieldOf y).2 = ((x >>> (fieldOf y).1).setWidth (fieldOf y).2).toNat := by
    simp [fieldBits, Nat.shiftRight_eq_div_pow]
  rw [bfxSigned]
  dsimp only
  rw [field, signOf_toNat]
  rfl

/-- The bits of a field mask. -/
theorem testBit_fieldMask (o w k : Nat) : ((2 ^ w - 1) * 2 ^ o).testBit k = decide (o ≤ k ∧ k < o + w) := by
  rw [Nat.mul_comm, Nat.testBit_two_pow_mul, Nat.testBit_two_pow_sub_one, ← Bool.decide_and]
  exact decide_eq_decide.mpr (by omega)

/-- `bfi` replaces the bits of the field and no others. -/
theorem getLsbD_bfiInsert (old x y : Dword) {k : Nat} (hk : k < 64) : (bfiInsert old x y).getLsbD k =
    if (fieldOf y).1 ≤ k ∧ k < (fieldOf y).1 + (fieldOf y).2 then x.getLsbD (k - (fieldOf y).1) else old.getLsbD k := by
  rw [bfiInsert]
  dsimp only
  generalize (fieldOf y).1 = o, (fieldOf y).2 = w
  have mask : (BitVec.ofNat 64 ((2 ^ w - 1) * 2 ^ o)).getLsbD k = decide (o ≤ k ∧ k < o + w) := by
    rw [BitVec.getLsbD_ofNat, testBit_fieldMask]
    simp [hk]
  rw [BitVec.getLsbD_or, BitVec.getLsbD_and, BitVec.getLsbD_and, BitVec.getLsbD_not, BitVec.getLsbD_shiftLeft, mask]
  by_cases inside : o ≤ k ∧ k < o + w
  · have above : ¬ k < o := by omega
    simp [inside, hk, above]
  · simp [inside, hk]

/-! Funnel shifts (R122). -/

theorem funnelLeft_zero (h l : Dword) : funnelLeft h l 0 = h := by
  apply BitVec.eq_of_getLsbD_eq
  intro k hk
  rw [funnelLeft, BitVec.shiftLeft_zero, BitVec.getLsbD_extractLsb', BitVec.getLsbD_append, if_neg (by omega), Nat.add_sub_cancel_left]
  simp [hk]

theorem funnelRight_zero (h l : Dword) : funnelRight h l 0 = l := by
  apply BitVec.eq_of_getLsbD_eq
  intro k hk
  rw [funnelRight, BitVec.ushiftRight_zero, BitVec.getLsbD_extractLsb', BitVec.getLsbD_append, if_pos (by omega), Nat.zero_add]
  simp [hk]

/-- Settles O3: the words are scalar words whose results the lemmas above state, within the limits that the fate of each tests. -/
theorem compareImmediateAndFieldWordsComplete : Obligations.CompareImmediateAndFieldWordsComplete := by
  unfold Obligations.CompareImmediateAndFieldWordsComplete
  refine ⟨fun s d a b c i k => ?immediates, fun s d a b => ?fields⟩
  case immediates =>
    intro x y imm v
    refine ⟨fun h => ?cmp, fun high kind => ?illegal, fun plain => ⟨immS_of_plain plain i, immS_of_plain plain k⟩,
      fun w ext => ⟨immS_of_ext ext i, immS_of_ext ext k⟩, fun h => exec_scalarWord (exec_addi ..) h rfl,
      fun h => exec_scalarWord (exec_andi ..) h rfl, fun h => exec_scalarWord (exec_ori ..) h rfl,
      fun h => exec_scalarWord (exec_xori ..) h rfl, fun h => ?shli, fun h => ?shriN, fun h => ?shriS, fun out kind => ?shifts,
      fun h => exec_scalarWord (exec_li ..) h rfl⟩
    case cmp => exact exec_scalarWord (exec_cmp ..) h (bit64_eq_ite (cmpHolds_iff (of_decide_eq_true (fieldsOk_of_issues h)) x y))
    case illegal =>
      have unassigned : (decide (c.toNat ≤ 5) && true) = false := by
        rw [Bool.and_true, decide_eq_false_iff_not]
        omega
      exact fateOf_of_limits kind rfl unassigned
    case shli =>
      have range := immediate_in_range (.inl rfl) h
      exact ⟨exec_scalarWord (exec_shli ..) h (congrArg (x <<< ·) (shamt_ofInt range.1 range.2)), range⟩
    case shriN =>
      have range := immediate_in_range (.inr (.inl rfl)) h
      exact ⟨exec_scalarWord (exec_shriN ..) h (congrArg (x >>> ·) (shamt_ofInt range.1 range.2)), range⟩
    case shriS =>
      have range := immediate_in_range (.inr (.inr rfl)) h
      refine ⟨exec_scalarWord (exec_shriS ..) h ?_, range⟩
      exact (congrArg x.sshiftRight (shamt_ofInt range.1 range.2)).trans (sshiftRight_eq_div x _)
    case shifts =>
      exact ⟨immediate_out_of_range (.inl rfl) out kind, immediate_out_of_range (.inr (.inl rfl)) out kind,
        immediate_out_of_range (.inr (.inr rfl)) out kind⟩
  case fields =>
    intro x y old o w n
    refine ⟨fun h => exec_scalarWord (exec_bfxN ..) h (bfxUnsigned_eq x y), fun h => exec_scalarWord (exec_bfxS ..) h (bfxSigned_eq x y),
      fun h => ⟨_, exec_scalarWord (exec_bfi ..) h rfl, fun k hk => getLsbD_bfiInsert old x y hk⟩, fun h => ?left, fun h => ?right⟩
    case left =>
      have run := exec_scalarWord (exec_fshl d a b s) h rfl
      exact ⟨run, fun zero => exec_scalarWord (exec_fshl ..) h ((congrArg (funnelLeft old x) zero).trans (funnelLeft_zero old x))⟩
    case right =>
      have run := exec_scalarWord (exec_fshr d a b s) h rfl
      exact ⟨run, fun zero => exec_scalarWord (exec_fshr ..) h ((congrArg (funnelRight old x) zero).trans (funnelRight_zero old x))⟩

end Sys2Proof.Machine
end

section
/-! Scalar floating point (09_control_instructions.md R123 to R126; 04_number_formats.md R60, R66, R68). -/

namespace Sys2Proof.Machine

/-! Operands and modes (R60, R123). -/

theorem fsc_eq (t : Strand) (p : BitVec 1) (n : BitVec 6) : t.fsc p n = (t.sc n).toNat % (if p = 1 then 2 ^ 64 else 2 ^ 32) := by
  rw [Strand.fsc, precFmt]
  split <;> rfl

theorem amode_eq (t : Strand) : t.amode = if t.rndm = 5 then 0 else t.rndm.toNat := by
  refine if_congr ?_ rfl rfl
  exact (BitVec.toNat_inj (y := (5 : BitVec 3))).trans Iff.rfl

/-! A NaN operand decides the result (R66). -/

section
variable {f : Fmt} {m : RMode} {a b c : Nat} {r : Nat × Flags}

theorem fAdd_of_nan (h : firstNan f [a, b] = some r) : fAdd f m a b = r := by rw [fAdd, h]

theorem fSub_of_nan (h : firstNan f [a, b] = some r) : fSub f m a b = r := by rw [fSub, h]

theorem fMul_of_nan (h : firstNan f [a, b] = some r) : fMul f m a b = r := by rw [fMul, h]

theorem fDiv_of_nan (h : firstNan f [a, b] = some r) : fDiv f m a b = r := by rw [fDiv, h]

theorem fSqrt_of_nan (h : firstNan f [a] = some r) : fSqrt f m a = r := by rw [fSqrt, h]

/-- The addend is the first operand, and a product of zero and infinity is invalid beside it. -/
theorem fFma_of_nan (h : firstNan f [c, a, b] = some r) : fFma f m a b c = (r.1,
    if (decodeF f a).isZero = true ∧ (decodeF f b).isInf = true ∨ (decodeF f a).isInf = true ∧ (decodeF f b).isZero = true
    then r.2 ||| flagNV else r.2) := by
  rw [fFma, h]
  refine Prod.ext rfl (if_congr ?_ rfl rfl)
  rw [Bool.or_eq_true, Bool.and_eq_true, Bool.and_eq_true]
  exact or_comm

/-! Minimum and maximum with a NaN (R68). -/

theorem fMinMax_of_nans (top : Bool) (ha : (decodeF f a).isNan = true) (hb : (decodeF f b).isNan = true)
    (h : firstNan f [a, b] = some r) : fMinMax f top a b = r := by
  have first : some (quietEnc f a, if (decodeF f a).isSnan || (decodeF f b).isSnan then flagNV else 0) = some r := by
    rw [← h]
    simp [firstNan, ha]
  rw [← Option.some.inj first]
  simp [fMinMax, ha, hb]

theorem fMinMax_of_left_nan (top : Bool) (ha : (decodeF f a).isNan = true) (hb : ¬ (decodeF f b).isNan = true) :
    fMinMax f top a b = (b, if (decodeF f a).isSnan then flagNV else 0) := by
  simp [fMinMax, ha, hb]

theorem fMinMax_of_right_nan (top : Bool) (ha : ¬ (decodeF f a).isNan = true) (hb : (decodeF f b).isNan = true) :
    fMinMax f top a b = (a, if (decodeF f b).isSnan then flagNV else 0) := by
  simp [fMinMax, ha, hb]
end

section
variable {i : Instr} {s : State} {d : BitVec 6}

/-- A word that is a floating-point word and issues completes with its value and flags. -/
theorem exec_floatWord {f : Strand → Nat × Flags} {r : Nat × Flags} (run : exec i s = floatWord i s d f) (h : Issues i s)
    (value : f s.begun.cs = r) : exec i s = .next (s.wroteFlags d r) := by
  rw [run, floatWord_eq h, value]

/-- A word whose result a NaN operand decides (R66). -/
theorem wroteFlags_and_nan {x : Nat × Flags} {first : Option (Nat × Flags)} {g : Nat × Flags → Nat × Flags}
    (run : exec i s = .next (s.wroteFlags d x)) (nan : ∀ {r}, first = some r → x = g r) :
    exec i s = .next (s.wroteFlags d x) ∧ ∀ r, first = some r → exec i s = .next (s.wroteFlags d (g r)) :=
  ⟨run, fun _ h => nan h ▸ run⟩

/-- A minimum or maximum: two NaNs give the first one quieted, and one NaN gives the other operand (R68). -/
theorem wroteFlags_minMax {f : Fmt} {top : Bool} {x y : Nat} (run : exec i s = .next (s.wroteFlags d (fMinMax f top x y))) :
    exec i s = .next (s.wroteFlags d (fMinMax f top x y)) ∧
    (∀ r, (decodeF f x).isNan = true → (decodeF f y).isNan = true → firstNan f [x, y] = some r → exec i s = .next (s.wroteFlags d r)) ∧
    ((decodeF f x).isNan = true → ¬ (decodeF f y).isNan = true →
      exec i s = .next (s.wroteFlags d (y, if (decodeF f x).isSnan then flagNV else 0))) ∧
    (¬ (decodeF f x).isNan = true → (decodeF f y).isNan = true →
      exec i s = .next (s.wroteFlags d (x, if (decodeF f y).isSnan then flagNV else 0))) :=
  ⟨run, fun _ hx hy h => fMinMax_of_nans top hx hy h ▸ run, fun hx hy => fMinMax_of_left_nan top hx hy ▸ run,
    fun hx hy => fMinMax_of_right_nan top hx hy ▸ run⟩
end

/-- Settles O4: each word is a floating-point word, and a NaN operand decides its result. -/
theorem floatWordsComplete : Obligations.FloatWordsComplete := by
  unfold Obligations.FloatWordsComplete
  intro s d a b p c f fm x y z md nan zero inf one nans
  have operandA : s.begun.cs.fsc p a = x := fsc_eq ..
  have operandB : s.begun.cs.fsc p b = y := fsc_eq ..
  have operandD : s.begun.cs.fsc p d = z := fsc_eq ..
  have mode : s.begun.cs.amode = md := amode_eq _
  have arith : ∀ g : Fmt → RMode → Nat → Nat → Nat × Flags,
      g (precFmt p) s.begun.cs.amode (s.begun.cs.fsc p a) (s.begun.cs.fsc p b) = g fm md x y := fun g => by
    rw [operandA, operandB, mode]
    rfl
  have compare : ∀ g : Fmt → Nat → Nat → Nat × Flags, g (precFmt p) (s.begun.cs.fsc p a) (s.begun.cs.fsc p b) = g fm x y := fun g =>
    arith (fun f _ => g f)
  exact ⟨fun h => wroteFlags_and_nan (exec_floatWord (exec_fadd ..) h (arith fAdd)) fAdd_of_nan,
    fun h => wroteFlags_and_nan (exec_floatWord (exec_fsub ..) h (arith fSub)) fSub_of_nan,
    fun h => wroteFlags_and_nan (exec_floatWord (exec_fmul ..) h (arith fMul)) fMul_of_nan,
    fun h => wroteFlags_and_nan (exec_floatWord (exec_fdiv ..) h (arith fDiv)) fDiv_of_nan,
    fun h => wroteFlags_and_nan (exec_floatWord (exec_ffma ..) h
      ((congrArg (fFma _ _ _ _) operandD).trans (arith fun f m x y => fFma f m x y z))) fFma_of_nan,
    fun h => wroteFlags_and_nan (exec_floatWord (exec_fsqrt ..) h (arith fun f m x _ => fSqrt f m x)) fSqrt_of_nan,
    fun h => wroteFlags_minMax (exec_floatWord (exec_fmin ..) h (compare fun f => fMinMax f false)),
    fun h => wroteFlags_minMax (exec_floatWord (exec_fmax ..) h (compare fun f => fMinMax f true)),
    fun h => exec_floatWord (exec_fcmp ..) h (compare fun f x y => (if (fCmp f c.toNat x y).1 then 1 else 0, (fCmp f c.toNat x y).2)),
    fun h => exec_floatWord (exec_fcvt ..) h rfl⟩

end Sys2Proof.Machine
end

section
/-! Control flow and loops (09_control_instructions.md R128 to R133). -/

namespace Sys2Proof.Machine

section
variable {i : Instr} {s : State}

/-- A word whose effect on its strand is that of `f` completes as `f` says. -/
theorem exec_did {body : State → Act} {f g : Strand → Strand} (run : exec i s = .next (issue i s body)) (h : Issues i s)
    (b : body s.begun = .ok (s.begun.onCs g)) (same : g s.begun.cs = f s.begun.cs) : exec i s = .next (s.did f) := by
  rw [exec_ok run h b, State.did, State.onCs, State.onCs, same]

/-! Branches and jumps (R128, R129). -/

theorem exec_branchWord {o : BitVec 10} {cond : Strand → Bool} {c : Prop} [Decidable c] (run : exec i s = branchWord i o cond s)
    (h : Issues i s) (test : cond s.begun.cs = true ↔ c) : exec i s = .next (s.did (fun t =>
      t.fetchAt (if c then s.cs.unit.taddr + BitVec.ofInt 64 (4 * s.cs.unit.immS o) else s.cs.unit.taddr + 4))) :=
  exec_did run h rfl (congrArg s.begun.cs.fetchAt (if_congr test rfl rfl))
end

/-- An address with bits 1:0 cleared. -/
theorem getLsbD_aligned (x : Dword) {k : Nat} (hk : k < 64) : (x &&& ~~~3).getLsbD k = (decide (2 ≤ k) && x.getLsbD k) := by
  have low : (3 : Dword).getLsbD k = decide (k < 2) := by
    rw [show (3 : Dword) = BitVec.ofNat 64 (2 ^ 2 - 1) from rfl, BitVec.getLsbD_ofNat, Nat.testBit_two_pow_sub_one]
    simp [hk]
  rw [BitVec.getLsbD_and, BitVec.getLsbD_not, low]
  by_cases below : k < 2
  · simp [below, Nat.not_le.mpr below]
  · simp [hk, below, Nat.not_lt.mp below]

/-- Settles O5: each branch goes on by its comparison, and each jump at its target. -/
theorem branchAndJumpWordsComplete : Obligations.BranchAndJumpWordsComplete := by
  unfold Obligations.BranchAndJumpWordsComplete
  intro s d a b o j x y here br far
  refine ⟨fun h => exec_branchWord (exec_beq ..) h beq_iff_eq, fun h => exec_branchWord (exec_bne ..) h bne_iff_ne,
    fun h => exec_branchWord (exec_bltS ..) h decide_eq_true_iff, fun h => exec_branchWord (exec_bltN ..) h decide_eq_true_iff,
    fun h => exec_branchWord (exec_bgeS ..) h (decide_eq_true_iff.trans not_lt.symm),
    fun h => exec_branchWord (exec_bgeN ..) h (decide_eq_true_iff.trans not_lt.symm),
    fun h => exec_did (exec_jmp ..) h rfl rfl, fun h => exec_did (exec_jal ..) h rfl rfl,
    fun h => ⟨_, exec_did (exec_jr ..) h rfl rfl, fun k hk => getLsbD_aligned x hk⟩⟩

/-! Loops (R130, R131). -/

/-- A loop that ends at `stop` may be pushed on the stack: a level is free, and the end lies within the top level. -/
def loopFits (ls : List LoopLevel) (stop : Dword) : Prop := ls.length < 4 ∧ ∀ top ∈ ls.head?, stop.toNat ≤ top.stop.toNat

/-- The two checks of the loop words. -/
theorem loopChecks_iff (ls : List LoopLevel) (stop : Dword) : (decide (4 ≤ ls.length) || (match ls with
    | [] => false
    | l :: _ => decide (l.stop.toNat < stop.toNat))) = true ↔ ¬ loopFits ls stop := by
  cases ls with
  | nil => simp [loopFits]
  | cons l ls =>
    simp only [loopFits, Bool.or_eq_true, decide_eq_true_eq, List.head?_cons, Option.mem_some_iff, forall_eq']
    omega

section
variable {i : Instr} {s : State} {off : Int} {count : Strand → Dword}

theorem exec_loopWord_of_misfit (run : exec i s = loopWord i off count s) (h : Issues i s)
    (misfit : ¬ loopFits s.cs.loops (target s.cs.unit off)) :
    exec i s = .next (s.trapped i .illegalField (s.cs.unit.word.setWidth 64)) :=
  exec_trap_of run h (if_pos ((loopChecks_iff ..).mpr misfit))

/-- A loop that fits goes on after its end word where its count is 0, and else is pushed. -/
theorem exec_loopWord_of_fit (run : exec i s = loopWord i off count s) (h : Issues i s)
    (fit : loopFits s.cs.loops (target s.cs.unit off)) {n : Dword} (value : count s.begun.cs = n) :
    exec i s = .next (s.did (fun t => if n = 0 then t.fetchAt (target s.cs.unit off + 4)
      else { t.fetchAt (s.cs.unit.taddr + 4) with loops := ⟨s.cs.unit.taddr + 4, target s.cs.unit off, n⟩ :: s.cs.loops })) := by
  subst value
  have passes := mt (loopChecks_iff s.cs.loops (target s.cs.unit off)).mp (not_not_intro fit)
  by_cases zero : count s.begun.cs = 0
  · exact exec_did run h ((if_neg passes).trans (if_pos zero)) (if_pos zero).symm
  · exact exec_did run h ((if_neg passes).trans (if_neg zero)) (if_neg zero).symm
end

/-! `lbrk` (R133). -/

theorem bit_cases (z : BitVec 1) : z = 0 ∨ z = 1 := by
  revert z
  decide

/-- The condition of `lbrk` holds. -/
theorem lbrkTest_iff (x : Dword) (z : BitVec 1) : ((x != 0) != (z == 1)) = true ↔ (x ≠ 0 ↔ z = 0) := by
  rcases bit_cases z with rfl | rfl <;> simp

section
variable {s : State} {l : BitVec 4} {z : BitVec 1} {a : BitVec 6} (h : Issues (.lbrk l z a) s)
include h

theorem execLbrk_of_missing_level (none : s.cs.loops.length ≤ l.toNat) :
    exec (.lbrk l z a) s = .next (s.trapped (.lbrk l z a) .illegalField (s.cs.unit.word.setWidth 64)) :=
  exec_trap_of (exec_lbrk ..) h (if_pos (Nat.lt_succ_of_le none))

theorem execLbrk_of_taken {out : LoopLevel} (level : s.cs.loops[l.toNat]? = some out) (taken : s.cs.sc a ≠ 0 ↔ z = 0) :
    exec (.lbrk l z a) s =
      .next (s.did (fun t => { t.fetchAt (out.stop + 4) with loops := s.cs.loops.drop (l.toNat + 1) })) := by
  have there : ¬ s.cs.loops.length < l.toNat + 1 := fun short => by
    rw [List.getElem?_eq_none (Nat.le_of_lt_succ short)] at level
    cases level
  refine exec_did (g := fun t => { t.fetchAt (out.stop + 4) with loops := t.loops.drop (l.toNat + 1) }) (exec_lbrk ..) h
    ((if_neg there).trans ((if_pos ((lbrkTest_iff ..).mpr taken)).trans ?_)) rfl
  dsimp only
  rw [show s.begun.cs.loops[l.toNat + 1 - 1]? = some out from level]

theorem execLbrk_of_not_taken (there : l.toNat < s.cs.loops.length) (stays : ¬ (s.cs.sc a ≠ 0 ↔ z = 0)) :
    exec (.lbrk l z a) s = .next (s.did (fun t => t.fetchAt s.cs.pc)) :=
  exec_did (exec_lbrk ..) h ((if_neg (Nat.not_lt.mpr there)).trans (if_neg (fun c => stays ((lbrkTest_iff ..).mp c)))) rfl
end

/-! The back edge (R131). -/

section
variable {pc : Dword} {lv : LoopLevel} (ls : List LoopLevel)

theorem backEdge_of_other (other : lv.stop ≠ pc) : backEdge pc (lv :: ls) = (lv :: ls, pc + 4) := if_neg other

theorem backEdge_of_more (ends : lv.stop = pc) (more : 2 ≤ lv.remaining.toNat) :
    backEdge pc (lv :: ls) = ({ lv with remaining := lv.remaining - 1 } :: ls, lv.start) :=
  (if_pos ends).trans (if_neg (Nat.not_le.mpr more))

theorem backEdge_of_last (ends : lv.stop = pc) (last : lv.remaining = 1) : backEdge pc (lv :: ls) = backEdge pc ls :=
  (if_pos ends).trans (if_pos (by rw [last]; decide))
end

/-- Settles O6, by the two checks of the loop words, the condition of `lbrk` and the back-edge test. -/
theorem loopWordsComplete : Obligations.LoopWordsComplete := by
  unfold Obligations.LoopWordsComplete
  intro s a o n p l z pc lv ls here stop legal after word
  exact ⟨fun h fit => exec_loopWord_of_fit (exec_loop ..) h fit rfl,
    fun h misfit => exec_loopWord_of_misfit (exec_loop ..) h misfit,
    fun h fit => exec_loopWord_of_fit (exec_loopi ..) h fit (BitVec.ofNat_toNat ..).symm,
    fun h misfit => exec_loopWord_of_misfit (exec_loopi ..) h misfit,
    fun h none => execLbrk_of_missing_level h none, fun h out level taken => execLbrk_of_taken h level taken,
    fun h there stays => execLbrk_of_not_taken h there stays, backEdge_of_other ls, backEdge_of_more ls, backEdge_of_last ls, rfl⟩

end Sys2Proof.Machine
end

section
/-! Team barriers and timed waits (09_control_instructions.md R134 to R141). -/

namespace Sys2Proof.Machine

/-! Barriers (R134, R135). -/

section
variable {x : Barrier}

/-- An arrival that leaves others to come. -/
theorem arrive_of_more (more : x.a + 1 ≠ x.e) (drop : Bool) :
    x.arrive drop = { x with a := x.a + 1, p := if drop then x.p + 1 else x.p } := if_neg more

/-- The arrival that completes the phase. -/
theorem arrive_of_last (last : x.a + 1 = x.e) (drop : Bool) :
    x.arrive drop = { e := x.e - (if drop then x.p + 1 else x.p), a := 0, p := 0, phase := x.phase + 1 } := if_pos last
end

/-- The awaited phase has completed, or nothing is awaited. -/
theorem phaseDone_iff (t : Strand) (m : Team) (b : BitVec 4) : phaseDone t m b = true ↔
    t.phaseOf b = none ∨ ∃ p, t.phaseOf b = some p ∧ p < (m.barrier b).phase := by
  rw [phaseDone]
  cases t.phaseOf b <;> simp

/-- An arrival has to wait: an earlier one stands, or accesses that it is to follow are not complete (R135, R138). -/
theorem arrivalHolds_iff (done acc : Bool) (m : BitVec 1) :
    (!done || (decide (m = 1) && acc)) = true ↔ ¬ (done = true ∧ (m = 0 ∨ acc = false)) := by
  rcases bit_cases m with rfl | rfl <;> cases done <;> cases acc <;> decide

/-- A strand that arrives keeps the phase in which it did. -/
theorem arrive_phaseOf (s : State) (b : BitVec 4) (drop : Bool) :
    (s.arrive b drop).cs.phaseOf b = some (s.csTeam.barrier b).phase := Sparse.get_set_self_of_ne _ _ (Option.some_ne_none _)

section
variable {s : State} {b : BitVec 4} {m : BitVec 1} {drop : Bool}

theorem arriveAct_of_dropped (dropped : s.cs.barDropped.getLsbD b.toNat = true) :
    arriveAct b m drop s = .trap .illegalField (s.cs.unit.word.setWidth 64) := if_pos dropped

variable (stays : s.cs.barDropped.getLsbD b.toNat = false)
include stays

theorem arriveAct_of_free (done : phaseDone s.cs s.csTeam b = true) (quiet : m = 0 ∨ earlierAcc s.cs = false) :
    arriveAct b m drop s = .ok (s.arrive b drop) := by
  have goes := mt (arrivalHolds_iff ..).mp (not_not_intro ⟨done, quiet⟩)
  rw [arriveAct, stays, if_neg Bool.false_ne_true, if_neg goes]

theorem arriveAct_of_busy (busy : ¬ (phaseDone s.cs s.csTeam b = true ∧ (m = 0 ∨ earlierAcc s.cs = false))) :
    arriveAct b m drop s = .wait := by
  rw [arriveAct, stays, if_neg Bool.false_ne_true, if_pos ((arrivalHolds_iff ..).mpr busy)]
end

/-! `bar.sync` (R135): its first half arrives, or has arrived before, and its second half waits. -/

section
variable {i : Instr} {s : State}

/-- A word that waits with a change of the state. -/
theorem exec_waitWith {body : State → Act} {t : State} (run : exec i s = .next (issue i s body)) (h : Issues i s)
    (b : body s.begun = .waitWith t) : exec i s = .next (t.onCs (fun c => c.setHeld true)) := by
  rw [run, issue_of_issues h, b]
end

section
variable {s u : State} {b : BitVec 4} {m : BitVec 1} (h : Issues (.barSync b m) s)

/-- The first half of `bar.sync`. -/
def syncArrival (b : BitVec 4) (m : BitVec 1) (s : State) : Act := if s.cs.syncArrived then .ok s else arriveAct b m false s

theorem syncArrival_of_arrived (arrived : s.cs.syncArrived = true) : syncArrival b m s = .ok s := if_pos arrived

theorem syncArrival_of_new (new : s.cs.syncArrived = false) : syncArrival b m s = arriveAct b m false s := by
  rw [syncArrival, new, if_neg Bool.false_ne_true]

include h

theorem execBarSync_of_done (first : syncArrival b m s.begun = .ok u) (done : phaseDone u.cs u.csTeam b = true) :
    exec (.barSync b m) s = .next (s.completes (u.onCs (fun t => { t with syncArrived := false }))) := by
  refine exec_ok (exec_barSync ..) h ?_
  rw [syncArrival] at first
  dsimp only
  rw [first]
  exact if_pos done

theorem execBarSync_of_running (first : syncArrival b m s.begun = .ok u) (running : phaseDone u.cs u.csTeam b = false) :
    exec (.barSync b m) s = .next (u.onCs (fun t => { t with syncArrived := true, held := true })) := by
  refine exec_waitWith (exec_barSync ..) h (t := u.onCs (fun t => { t with syncArrived := true })) ?_
  rw [syncArrival] at first
  dsimp only
  rw [first]
  exact if_neg (Bool.eq_false_iff.mp running)

theorem execBarSync_of_wait (first : syncArrival b m s.begun = .wait) : exec (.barSync b m) s = .next s.waits := by
  refine exec_wait (exec_barSync ..) h ?_
  rw [syncArrival] at first
  dsimp only
  rw [first]

theorem execBarSync_of_trap {c : Cause} {v : Dword} (first : syncArrival b m s.begun = .trap c v) :
    exec (.barSync b m) s = .next (s.trapped (.barSync b m) c v) := by
  refine exec_trap_of (exec_barSync ..) h ?_
  rw [syncArrival] at first
  dsimp only
  rw [first]
end

/-! Timed waits (R139 to R141). -/

/-- The strand of a timed wait of destination `d` that has run out. -/
def Strand.timedOut (d : BitVec 6) (t : Strand) : Strand := (({ t with timeUp := false } : Strand).setSc d 0).setStat statTIMEOUT

section
variable {s : State} {d : BitVec 6} {deadline : Dword} {done : Bool}

theorem timedWait_of_done (inTime : s.cs.timeUp = false) (satisfied : done = true) :
    timedWait d deadline done s = .ok (s.onCs (fun t => t.setSc d 1)) := by
  simp [timedWait, inTime, satisfied]

theorem timedWait_of_late (late : s.cs.timeUp = true ∨ done = false ∧ deadline.toNat ≤ s.time % 2 ^ 64) :
    timedWait d deadline done s = .ok (s.onCs (Strand.timedOut d)) := by
  rcases late with up | ⟨missed, past⟩
  · simp only [timedWait, up, Bool.not_true, Bool.false_and, Bool.false_eq_true, if_false, Bool.true_or, if_true]
    rfl
  · simp only [timedWait, missed, Bool.and_false, Bool.false_eq_true, if_false, past, decide_true, Bool.or_true, if_true]
    rfl

theorem timedWait_of_early (inTime : s.cs.timeUp = false) (missing : done = false) (early : ¬ deadline.toNat ≤ s.time % 2 ^ 64) :
    timedWait d deadline done s = .wait := by
  simp only [timedWait, inTime, missing, Bool.and_false, Bool.false_eq_true, if_false, early, decide_false, Bool.or_self]
end

/-- Settles O7, by what an arrival, the first half of `bar.sync` and a timed wait find. -/
theorem barrierWordsComplete : Obligations.BarrierWordsComplete := by
  unfold Obligations.BarrierWordsComplete
  intro s b m d a team x here freed quiet dropped word late timedOut
  have done : phaseDone s.begun.cs s.begun.csTeam b = true ↔ freed := phaseDone_iff ..
  have running : ¬ freed → phaseDone s.begun.cs s.begun.csTeam b = false := fun n => Bool.eq_false_iff.mpr (mt done.mp n)
  have arrives : ∀ {drop}, dropped = false → freed → quiet → arriveAct b m drop s.begun = .ok (s.begun.arrive b drop) :=
    fun stays free calm => arriveAct_of_free stays (done.mpr free) calm
  have waits : ∀ {drop}, dropped = false → ¬ (freed ∧ quiet) → arriveAct b m drop s.begun = .wait :=
    fun stays busy => arriveAct_of_busy stays (fun c => busy ⟨done.mp c.1, c.2⟩)
  have traps : ∀ {drop}, dropped = true → arriveAct b m drop s.begun = .trap .illegalField word := fun gone => arriveAct_of_dropped gone
  have first : s.cs.syncArrived = false → syncArrival b m s.begun = arriveAct b m false s.begun :=
    fun new => syncArrival_of_new (s := s.begun) new
  refine ⟨fun h stays free calm => exec_ok (exec_barArr ..) h (arrives stays free calm),
    fun h stays free calm => exec_ok (exec_barDrop ..) h (arrives stays free calm),
    fun h stays busy => exec_wait (exec_barArr ..) h (waits stays busy), fun h stays busy => exec_wait (exec_barDrop ..) h (waits stays busy),
    fun h gone => exec_trap_of (exec_barArr ..) h (traps gone), fun h gone => exec_trap_of (exec_barDrop ..) h (traps gone),
    fun more => ⟨arrive_of_more more false, arrive_of_more more true⟩, fun last => ⟨arrive_of_last last false, arrive_of_last last true⟩,
    fun drop => ⟨arrive_phaseOf .., rfl, rfl⟩, fun h free => exec_ok (exec_barWait ..) h (if_pos (done.mpr free)),
    fun h busy => exec_wait (exec_barWait ..) h (if_neg (mt done.mp busy)), ?arrivedDone, ?arrivedRunning, ?newDone, ?newRunning, ?newBusy,
    ?newDropped, ?satisfied, ?late, ?early⟩
  case arrivedDone => exact fun h arrived free => execBarSync_of_done h (syncArrival_of_arrived arrived) (done.mpr free)
  case arrivedRunning => exact fun h arrived busy => execBarSync_of_running h (syncArrival_of_arrived arrived) (running busy)
  case newDone => exact fun h new stays free calm complete => execBarSync_of_done h ((first new).trans (arrives stays free calm)) complete
  case newRunning =>
    exact fun h new stays free calm goesOn => execBarSync_of_running h ((first new).trans (arrives stays free calm)) goesOn
  case newBusy => exact fun h new stays busy => execBarSync_of_wait h ((first new).trans (waits stays busy))
  case newDropped => exact fun h new gone => execBarSync_of_trap h ((first new).trans (traps gone))
  case satisfied => exact fun h inTime free => exec_ok (exec_barWaitt ..) h (timedWait_of_done inTime (done.mpr free))
  case late =>
    exact fun h past => exec_ok (exec_barWaitt ..) h (timedWait_of_late (past.imp_right fun o => ⟨running o.1, o.2⟩))
  case early => exact fun h inTime busy early => exec_wait (exec_barWaitt ..) h (timedWait_of_early inTime (running busy) early)

end Sys2Proof.Machine
end

section
/-! Event counters, CSR access, mailboxes, time and pauses (09_control_instructions.md R140 to R145, R147). -/

namespace Sys2Proof.Machine

/-! Event counters (R44, R140). -/

theorem satisfied_of_below {e t : BitVec 8} (h : (e - t).toNat < 128) : satisfied e t = true := decide_eq_true h

theorem satisfied_of_not_below {e t : BitVec 8} (h : ¬ (e - t).toNat < 128) : satisfied e t = false := decide_eq_false h

/-! CSRs (R142). -/

section
variable {s : State} {d a : BitVec 6} {c : BitVec 12}

theorem exec_csrr_of_some (h : Issues (.csrr d c) s) {x : Dword} (read : csrRead s.begun c = some x) :
    exec (.csrr d c) s = .next (s.wrote d x) := by
  refine exec_ok (exec_csrr ..) h ?_
  rw [read]

theorem exec_csrr_of_none (h : Issues (.csrr d c) s) (read : csrRead s.begun c = none) :
    exec (.csrr d c) s = .next (s.trapped (.csrr d c) .illegalField (s.cs.unit.word.setWidth 64)) := by
  refine exec_trap_of (exec_csrr ..) h ?_
  rw [read]
  rfl

theorem exec_csrw_of_some (h : Issues (.csrw a c) s) {t : State} (write : csrWrite s.begun c (s.cs.sc a) = some t) :
    exec (.csrw a c) s = .next (s.completes t) := by
  refine exec_ok (exec_csrw ..) h ?_
  rw [show s.begun.cs.sc a = s.cs.sc a from rfl, write]

theorem exec_csrw_of_none (h : Issues (.csrw a c) s) (write : csrWrite s.begun c (s.cs.sc a) = none) :
    exec (.csrw a c) s = .next (s.trapped (.csrw a c) .illegalField (s.cs.unit.word.setWidth 64)) := by
  refine exec_trap_of (exec_csrw ..) h ?_
  rw [show s.begun.cs.sc a = s.cs.sc a from rfl, write]
  rfl
end

/-! `yield.pause` (R145). -/

section
variable {s : State} (h : Issues .yieldPause s)
include h

theorem exec_yieldPause_of_new (new : s.cs.pauseEnd = none) : exec .yieldPause s =
    .next (s.begun.onCs (fun t => { t with pauseEnd := some (s.cs.cyc + 64), held := true })) := by
  refine exec_waitWith (exec_yieldPause ..) h (t := s.begun.onCs (fun t => { t with pauseEnd := some (t.cyc + 64) })) ?_
  rw [show s.begun.cs.pauseEnd = none from new]

variable {z : Nat} (until_ : s.cs.pauseEnd = some z)
include until_

theorem exec_yieldPause_of_past (past : z ≤ s.cs.cyc) : exec .yieldPause s = .next (s.did (fun t => { t with pauseEnd := none })) := by
  refine exec_ok (exec_yieldPause ..) h ?_
  rw [show s.begun.cs.pauseEnd = some z from until_]
  exact if_pos past

theorem exec_yieldPause_of_running (running : s.cs.cyc < z) : exec .yieldPause s = .next s.waits := by
  refine exec_wait (exec_yieldPause ..) h ?_
  rw [show s.begun.cs.pauseEnd = some z from until_]
  exact if_neg (Nat.not_le.mpr running)
end

/-- Settles O8, word by word. -/
theorem eventCsrAndMailboxWordsComplete : Obligations.EventCsrAndMailboxWordsComplete := by
  unfold Obligations.EventCsrAndMailboxWordsComplete
  intro s e t d a c k n sat late timedOut word mb
  refine ⟨fun h => exec_ok (exec_nop ..) h rfl, fun h => exec_ok (exec_evSig ..) h rfl,
    fun h met => exec_ok (exec_evWait ..) h (if_pos (satisfied_of_below met)),
    fun h unmet => exec_wait (exec_evWait ..) h (if_neg (Bool.eq_false_iff.mp (satisfied_of_not_below unmet))), ?timedDone, ?timedLate,
    ?timedEarly, fun h x read => exec_csrr_of_some h read, fun h read => exec_csrr_of_none h read,
    fun h u write => exec_csrw_of_some h write, fun h write => exec_csrw_of_none h write, ?read, ?readClear,
    fun h => exec_ok (exec_mbwr ..) h rfl, fun h => exec_ok (exec_time ..) h rfl, fun h => exec_scalarWord (exec_timeCyc ..) h rfl,
    fun h new => exec_yieldPause_of_new h new, fun h z pause past => exec_yieldPause_of_past h pause past,
    fun h z pause running => exec_yieldPause_of_running h pause running⟩
  case timedDone => exact fun h inTime met => exec_ok (exec_evWaitt ..) h (timedWait_of_done inTime (satisfied_of_below met))
  case timedLate =>
    exact fun h past => exec_ok (exec_evWaitt ..) h (timedWait_of_late (past.imp_right fun o => ⟨satisfied_of_not_below o.1, o.2⟩))
  case timedEarly =>
    exact fun h inTime unmet early => exec_wait (exec_evWaitt ..) h (timedWait_of_early inTime (satisfied_of_not_below unmet) early)
  case read =>
    rintro h rfl
    exact exec_ok (exec_mbrd ..) h rfl
  case readClear =>
    rintro h rfl
    exact exec_ok (exec_mbrd ..) h rfl

end Sys2Proof.Machine
end

section
/-! Taking a trap and returning from one, `halt`, and the timed steps of a strand (09_control_instructions.md R146; 15_system_instructions.md
R264, R265; 22_faults_and_translation.md R344, R348, R355). -/

namespace Sys2Proof.Machine

/-! Trap entry (R344). -/

section
variable {s : State} (u : EUnit) (eng : Nat) (c : Cause) (tval tepc : Dword) (fetchFault : Bool) (deferred : Option Nat)
  (pops pushes : List Nat)

/-- A trap of a strand with a handler and no frame enters the handler, and changes nothing else but the error log. -/
theorem enterTrap_of_handler (free : s.cs.frame = none) (vector : s.cs.tvec ≠ 0) :
    ∃ l, s.enterTrap u eng c tval tepc fetchFault deferred pops pushes =
      { s with cs := s.cs.enter u eng c tval tepc fetchFault deferred pops pushes, errLog := l } := by
  have enters : (s.cs.frame.isSome || decide (s.cs.tvec = 0)) = false := by
    rw [free, decide_eq_false vector]
    rfl
  unfold State.enterTrap
  dsimp only
  split
  · refine ⟨(s.log s.cs.die.toNat logUncorrectable tval.toNat).errLog, ?_⟩
    rw [show (s.log s.cs.die.toNat logUncorrectable tval.toNat).cs = s.cs from rfl, enters]
    rfl
  · refine ⟨s.errLog, ?_⟩
    rw [enters]
    rfl

/-- The cause register of a trap. -/
theorem enter_tcause (t : Strand) (h : eng < 6) :
    (t.enter u eng c tval tepc fetchFault deferred pops pushes).tcause.toNat = c.code.toNat + 256 * eng := by
  change ((BitVec.ofNat 3 eng) ++ c.code : BitVec 11).toNat = _
  have code := c.code.isLt
  rw [BitVec.toNat_append, ← Nat.shiftLeft_add_eq_or_of_lt code, Nat.shiftLeft_eq, BitVec.toNat_ofNat, Nat.mod_eq_of_lt (by omega)]
  omega
end

/-! Returning (R265, R348). -/

/-- A return waits unless the handler's queues and record are empty and one matrix command at most is left. -/
theorem rttWaits_iff (t : Strand) (f : Frame) : t.rttWaits f = true ↔ ¬ (t.q = {} ∧ t.arec = [] ∧ (t.mtx = none ∨ f.mtx = none)) := by
  rw [Strand.rttWaits, Bool.or_eq_true, Bool.or_eq_true, Bool.and_eq_true, bne_iff_ne, Bool.not_eq_true', List.isEmpty_eq_false_iff,
    Option.isSome_iff_ne_none, Option.isSome_iff_ne_none]
  tauto

section
variable {i : Instr} {f : Strand → Frame → Strand} {s : State} (run : exec i s = returnWord i f s) (h : Issues i s)
include run h

theorem exec_returnWord_of_no_frame (none : s.cs.frame = none) :
    exec i s = .next (s.trapped i .illegalField (s.cs.unit.word.setWidth 64)) := by
  refine exec_trap_of run h ?_
  rw [show s.begun.cs.frame = Option.none from none]
  rfl

variable {fr : Frame} (frame : s.cs.frame = some fr)
include frame

theorem exec_returnWord_of_free (free : s.cs.q = {} ∧ s.cs.arec = [] ∧ (s.cs.mtx = none ∨ fr.mtx = none)) :
    exec i s = .next (s.completes (replayCs (s.begun.onCs (fun t => f t fr)))) := by
  refine exec_ok run h ?_
  rw [show s.begun.cs.frame = some fr from frame]
  exact if_neg (mt (rttWaits_iff s.cs fr).mp (not_not_intro free))

theorem exec_returnWord_of_busy (busy : ¬ (s.cs.q = {} ∧ s.cs.arec = [] ∧ (s.cs.mtx = none ∨ fr.mtx = none))) :
    exec i s = .next s.waits := by
  refine exec_wait run h ?_
  rw [show s.begun.cs.frame = some fr from frame]
  exact if_pos ((rttWaits_iff s.cs fr).mpr busy)
end

/-- What `rtt` restores, and what it leaves. -/
theorem rtt_spec (t : Strand) (f : Frame) : (t.rtt f).p = t.pp ∧ (t.rtt f).frame = none ∧ (t.rtt f).loops = f.loops ∧ (t.rtt f).dq = f.dq ∧
    (t.rtt f).v = t.v ∧ (t.rtt f).e = t.e := by
  unfold Strand.rtt
  split
  · split <;> exact ⟨rfl, rfl, rfl, rfl, rfl, rfl⟩
  · exact ⟨rfl, rfl, rfl, rfl, rfl, rfl⟩

/-- Where TEPC was not moved and the trapped unit has not issued, it issues again. -/
theorem rtt_of_unissued {t : Strand} {f : Frame} (kept : t.tepc = f.unit.addr &&& ~~~3) (word : f.fetchFault = false)
    (unissued : f.issued = false) : t.rtt f = t.restore f f.requeue f.pc := by
  rw [Strand.rtt, if_pos kept, word, unissued, if_neg Bool.false_ne_true, if_neg Bool.false_ne_true]

/-- The view, the frame, the loop stack and the fetch address of a strand. -/
def Strand.flow (t : Strand) : Bool × Option Frame × List LoopLevel × Dword := (t.p, t.frame, t.loops, t.pc)

theorem signalUnit_flow (t : Strand) (u : EUnit) : (t.signalUnit u).flow = t.flow := by
  simp [Strand.signalUnit, Strand.flow]

/-- What `rtt.next` restores, and where it goes on after a fault of the fetch. -/
theorem rttNext_flow (t : Strand) (f : Frame) :
    (t.rttNext f).flow = (t.pp, none, f.loops, if f.fetchFault then f.unit.next else f.pc) := by
  have goesOn : ∀ (b : Bool) (x : Strand), (if b then { x with fetchHold := false } else x).flow = x.flow := by rintro (_ | _) x <;> rfl
  unfold Strand.rttNext
  dsimp only
  split
  · rw [signalUnit_flow]
    exact goesOn ..
  · split
    · exact goesOn ..
    · split
      · rw [signalUnit_flow]
        exact goesOn ..
      · exact goesOn ..

theorem rttNext_spec (t : Strand) (f : Frame) : (t.rttNext f).p = t.pp ∧ (t.rttNext f).frame = none ∧ (t.rttNext f).loops = f.loops ∧
    (f.fetchFault = true → (t.rttNext f).pc = f.unit.next) := by
  obtain ⟨view, rest⟩ := Prod.ext_iff.mp (rttNext_flow t f)
  obtain ⟨frame, rest⟩ := Prod.ext_iff.mp rest
  obtain ⟨loops, pc⟩ := Prod.ext_iff.mp rest
  exact ⟨view, frame, loops, fun fetched => pc.trans (if_pos fetched)⟩

/-! `halt` (R264). -/

theorem haltTeam_parkEnded (s : State) (status : BitVec 32) (code : Dword) : (s.haltTeam status code).cs.parkEnded = true := by
  simp [State.haltTeam, State.onStrands, Strand.stop]

/-- The teams of the halted team's number are halted, and end with the first status that is given them. -/
theorem mem_haltTeam {s : State} {status : BitVec 32} {code : Dword} {m : Team} (h : m ∈ (s.haltTeam status code).teams)
    (own : m.id = s.cs.team) :
    m.halted = true ∧ ∃ x ∈ s.teams, x.id = m.id ∧ m.endWith = some (x.endWith.getD (status, code)) := by
  obtain ⟨x, hx, rfl⟩ := List.mem_map.mp h
  by_cases mine : x.id = s.cs.team
  · refine ⟨?_, x, hx, ?_⟩ <;> simp [mine]
  · simp [mine] at own

theorem exec_halt_of_issues {s : State} {a : BitVec 6} (h : Issues (.halt a) s) :
    exec (.halt a) s = .next (s.begun.haltTeam statusHalted (s.cs.sc a)) := by
  rw [exec_halt]
  exact congrArg Host.Outcome.next (issue_okNoSig h rfl)

/-- Settles O11, by trap entry, the three outcomes of a return, and what `halt` does to the teams. -/
theorem trapWordsComplete : Obligations.TrapWordsComplete := by
  unfold Obligations.TrapWordsComplete
  intro s a i fr word tval free
  have trap : Issues (.trap a i) s → exec (.trap a i) s = .next (s.trapped (.trap a i) .userTrap tval) :=
    fun h => exec_trap_of (exec_trap ..) h rfl
  refine ⟨trap, ?entry, fun view kind => ⟨fateOf_of_user rfl view kind, fateOf_of_user rfl view kind, fateOf_of_user rfl view kind⟩,
    fun h none => exec_returnWord_of_no_frame (exec_rtt s) h none, fun h none => exec_returnWord_of_no_frame (exec_rttNext s) h none,
    fun h frame idle => exec_returnWord_of_free (exec_rtt s) h frame idle,
    fun h frame idle => exec_returnWord_of_free (exec_rttNext s) h frame idle,
    fun h frame busy => exec_returnWord_of_busy (exec_rtt s) h frame busy,
    fun h frame busy => exec_returnWord_of_busy (exec_rttNext s) h frame busy, ?restored, rttNext_spec s.cs fr,
    fun h => ⟨exec_halt_of_issues h, rfl, haltTeam_parkEnded .., fun m hm own => mem_haltTeam hm own⟩⟩
  case entry =>
    intro h none vector
    obtain ⟨l, entered⟩ := enterTrap_of_handler (s := s.begun) s.cs.unit (engineOf s.cs.unit.word % 6) .userTrap tval s.cs.unit.addr false
      Option.none ((rolesOf (.trap a i)).pops s.cs s.cs.unit) ((rolesOf (.trap a i)).pushes s.cs s.cs.unit) none vector
    exact ⟨_, (trap h).trans (congrArg Host.Outcome.next entered), rfl, enter_tcause _ _ _ _ _ _ _ _ _ _ (Nat.mod_lt _ (by decide)), rfl,
      rfl, rfl, rfl, rfl, rfl, rfl, rfl⟩
  case restored =>
    obtain ⟨view, frame, loops, dataq, vectors, events⟩ := rtt_spec s.cs fr
    refine ⟨view, frame, loops, dataq, vectors, events, fun kept fetched unissued => ?_⟩
    rw [rtt_of_unissued kept fetched unissued]
    exact ⟨Queues.get_set_self .., rfl⟩

/-! The timed steps (R139 to R145, R355). -/

theorem ofCode_code (k : Cause) : Cause.ofCode k.code = k := by cases k <;> rfl

/-- The state in which the head unit of the CTRL queue issues. -/
def State.ctrlIssues (s : State) (u : EUnit) : State :=
  s.onCs (fun t => { t with unit := u, q := { t.q with ctrl := t.q.ctrl.drop 1 }, hangTimer := 0 })

section
variable {s : State} {u : EUnit} {f : State → Result}

/-- A head unit that completes leaves its queue. -/
theorem issueCtrlHead_of_did {g : Strand → Strand} (run : f (s.ctrlIssues u) = .next ((s.ctrlIssues u).did g))
    (free : (g (s.ctrlIssues u).begun.cs).held = false) : s.issueCtrlHead u f = .next ((s.ctrlIssues u).did g) := by
  have held : ((s.ctrlIssues u).did g).cs.held = false := by
    rw [State.did, State.completes, State.onCs_cs, Strand.signal_held]
    exact free
  rw [State.issueCtrlHead]
  rw [State.ctrlIssues] at run held ⊢
  rw [run]
  dsimp only
  rw [held, if_neg Bool.false_ne_true]

/-- A head unit that waits stays at the head of its queue. -/
theorem issueCtrlHead_of_waits (run : f (s.ctrlIssues u) = .next (s.ctrlIssues u).waits) : s.issueCtrlHead u f = .next
    ((s.ctrlIssues u).waits.onCs (fun t => { t with q := { t.q with ctrl := .unit u :: t.q.ctrl }, hangTimer := s.cs.hangTimer })) := by
  rw [State.issueCtrlHead]
  rw [State.ctrlIssues] at run ⊢
  rw [run]
  rfl
end

section
variable {s : State} {u : EUnit} (head : s.cs.ctrlHead = some u)
include head

/-- WAIT_DEADLINE with `ev.waitt` at the head of the queue. -/
theorem execWaitDeadline_of_evWaitt {e : BitVec 4} {d a : BitVec 6} (word : decodeCtrl u.word = .ok (.evWaitt e d a)) :
    execWaitDeadline s = s.issueCtrlHead u (execEvWaitt e d a) := by
  rw [execWaitDeadline, head]
  dsimp only
  rw [word]

/-- YIELD_PAUSE_EXPIRY with `yield.pause` at the head of the queue. -/
theorem execYieldPauseExpiry_of_yieldPause (word : decodeCtrl u.word = .ok .yieldPause) :
    execYieldPauseExpiry s = s.issueCtrlHead u execYieldPause := by
  rw [execYieldPauseExpiry, head]
  dsimp only
  rw [word]

/-- The timed wait at the head of the queue, its deadline having passed unsatisfied, is a timeout. -/
theorem execWaitDeadline_of_late {e : BitVec 4} {d a : BitVec 6} (word : decodeCtrl u.word = .ok (.evWaitt e d a))
    (h : Issues (.evWaitt e d a) (s.ctrlIssues u))
    (late : 128 ≤ (s.cs.ev e - (s.cs.sc d).setWidth 8).toNat ∧ (s.cs.sc a).toNat ≤ s.time % 2 ^ 64 ∨ s.cs.timeUp = true) :
    execWaitDeadline s = .next ((s.ctrlIssues u).did (Strand.timedOut d)) := by
  have missed : s.cs.timeUp = true ∨ satisfied (s.cs.ev e) ((s.cs.sc d).setWidth 8) = false ∧ (s.cs.sc a).toNat ≤ s.time % 2 ^ 64 :=
    late.symm.imp_right fun l => ⟨satisfied_of_not_below (Nat.not_lt.mpr l.1), l.2⟩
  rw [execWaitDeadline_of_evWaitt head word]
  refine issueCtrlHead_of_did (exec_ok (exec_evWaitt ..) h (timedWait_of_late missed)) ?_
  simp [Strand.timedOut]

variable (word : decodeCtrl u.word = .ok .yieldPause) (h : Issues .yieldPause (s.ctrlIssues u)) {z : Nat} (pause : s.cs.pauseEnd = some z)
include word h pause

theorem execYieldPauseExpiry_of_past (past : z ≤ s.cs.cyc) :
    execYieldPauseExpiry s = .next ((s.ctrlIssues u).did (fun t => { t with pauseEnd := none })) := by
  rw [execYieldPauseExpiry_of_yieldPause head word]
  exact issueCtrlHead_of_did (exec_yieldPause_of_past h pause past) rfl

theorem execYieldPauseExpiry_of_running (running : s.cs.cyc < z) : execYieldPauseExpiry s = .next ((s.ctrlIssues u).waits.onCs
    (fun t => { t with q := { t.q with ctrl := .unit u :: t.q.ctrl }, hangTimer := s.cs.hangTimer })) := by
  rw [execYieldPauseExpiry_of_yieldPause head word]
  exact issueCtrlHead_of_waits (exec_yieldPause_of_running h pause running)
end

/-! The hang timeout (R355). -/

section
variable {s : State}

theorem execHangTimeout_of_early (early : s.hangctl = 0 ∨ s.cs.hangCounts = false ∨ s.cs.hangTimer < s.hangctl.toNat * 1000) :
    execHangTimeout s = .next s := by
  have due : hangDue s = false := by
    rcases early with off | idle | before
    · simp [hangDue, off]
    · simp [hangDue, idle]
    · simp [hangDue, before]
  rw [execHangTimeout, due]
  rfl

/-- The state in which the unit `u` of engine `e` is raised as the hang: the record of the strand slot is captured, and the unit is taken. -/
def hangCaptured (s : State) (e : Eng) (u : EUnit) : State :=
  { s with hangRec := (List.range 16).foldl (fun m n => Sparse.set 0 m (hangKey s.cs s.cs.slot n) (hangWord s n)) s.hangRec }.onCs
    (fun t => { t.progress with
      unit := u
      xpend := t.xpend.filter (fun o => o.unit.seq != u.seq)
      q := match (t.q.get e).head? with
        | some (.unit x) => if x.seq = u.seq then t.q.set e ((t.q.get e).drop 1) else t.q
        | _ => t.q })

theorem hangCaptured_hangRec (e : Eng) (u : EUnit) : (hangCaptured s e u).hangRec =
    (List.range 16).foldl (fun m n => Sparse.set 0 m (hangKey s.cs s.cs.slot n) (hangWord s n)) s.hangRec := by
  rw [hangCaptured, State.onCs_hangRec]

/-- A hang that is due: the oldest head unit traps over the captured record. -/
theorem execHangTimeout_eq (hangs : hangDue s = true) {e : Eng} {u : EUnit} (oldest : oldestHead s.cs = some (e, u)) :
    execHangTimeout s = .next ((hangCaptured s e u).enterTrap u e.num .hang (hangWord s 14) u.addr false none
      ((wordRoles u.word).pops s.cs u) ((wordRoles u.word).pushes s.cs u)) := by
  unfold execHangTimeout
  rw [hangs, oldest, Bool.not_true, if_neg Bool.false_ne_true]
  rfl

/-- A hang: the record of the strand slot is captured, and the oldest head unit traps in the handler. -/
theorem execHangTimeout_of_due (on : s.hangctl ≠ 0) (counts : s.cs.hangCounts = true) (due : s.hangctl.toNat * 1000 ≤ s.cs.hangTimer)
    {e : Eng} {u : EUnit} (oldest : oldestHead s.cs = some (e, u)) (free : s.cs.frame = none) (vector : s.cs.tvec ≠ 0) :
    ∃ t : State, execHangTimeout s = .next t ∧ t.cs.tcause.toNat = Cause.hang.code.toNat + 256 * e.num ∧ t.cs.tval = hangWord s 14 ∧
      t.cs.tepc = u.addr &&& ~~~3 ∧ t.cs.pc = s.cs.tvec ∧ t.mem = s.mem ∧
      t.hangRec = (List.range 16).foldl (fun m n => Sparse.set 0 m (hangKey s.cs s.cs.slot n) (hangWord s n)) s.hangRec := by
  have hangs : hangDue s = true := by
    rw [hangDue, counts, decide_eq_true on, decide_eq_true due]
    rfl
  have engine : e.num < 6 := by cases e <;> decide
  rw [execHangTimeout_eq hangs oldest]
  generalize hangWord s 14 = value
  obtain ⟨l, entered⟩ := enterTrap_of_handler u e.num .hang value u.addr false none ((wordRoles u.word).pops s.cs u)
    ((wordRoles u.word).pushes s.cs u) (s := hangCaptured s e u) free vector
  rw [entered, ← hangCaptured_hangRec e u]
  refine ⟨_, rfl, ?_, rfl, rfl, rfl, rfl, ?_⟩
  · exact enter_tcause _ _ _ _ _ _ _ _ _ _ engine
  · -- The projection alone: evaluating `hangCaptured` would run the capture of the sixteen words.
    dsimp only
end

/-- Settles O35: the timed steps run the head unit of the CTRL queue, and the other two enter the handler. -/
theorem timedStepsOfAStrand : Obligations.TimedStepsOfAStrand := by
  unfold Obligations.TimedStepsOfAStrand
  refine ⟨fun s k g v free vector engine => ?entry, fun s early => execHangTimeout_of_early early,
    fun s e u on counts due oldest free vector => execHangTimeout_of_due on counts due oldest free vector,
    fun s u head => ⟨fun e d a word h late => execWaitDeadline_of_late head word h late, fun word h z pause => ⟨?past, ?running⟩⟩,
    fun s none => ⟨?deadline, ?expiry⟩⟩
  case entry =>
    obtain ⟨l, entered⟩ := enterTrap_of_handler (s := s.onCs (fun t => t.raised t.unit.seq)) s.cs.unit (g.toNat % 6) k v s.cs.unit.addr
      false none [] [] free vector
    rw [exec_trapEntry, execTrapEntry, ofCode_code, entered]
    refine ⟨_, rfl, rfl, rfl, rfl, rfl, rfl, ?_, rfl, rfl⟩
    refine (enter_tcause _ _ _ _ _ _ _ _ _ _ (Nat.mod_lt _ (by decide))).trans ?_
    rw [Nat.mod_eq_of_lt engine]
  case past => exact fun past => execYieldPauseExpiry_of_past head word h pause past
  case running => exact fun running => ⟨_, execYieldPauseExpiry_of_running head word h pause running, rfl, pause, rfl⟩
  case deadline => rw [exec_waitDeadline, execWaitDeadline, none]
  case expiry => rw [exec_yieldPauseExpiry, execYieldPauseExpiry, none]

end Sys2Proof.Machine
end

section
/-! yield, park, park end and cswitch (09_control_instructions.md R137, R145; 15_system_instructions.md R254 to R257). -/

namespace Sys2Proof.Machine

/-! A strand that ends leaves the barriers (R137). -/

section
variable {x : Barrier}

theorem leave_of_arrived (more : x.a ≠ x.e) : x.leave true = { x with p := x.p + 1 } := if_neg more

theorem leave_of_arrived_last (last : x.a = x.e) :
    x.leave true = { e := x.e - (x.p + 1), a := 0, p := 0, phase := x.phase + 1 } := if_pos last

theorem leave_of_absent (more : x.a ≠ x.e - 1) : x.leave false = { x with e := x.e - 1 } := if_neg more

/-- The last of the strands expected, where the phase completes without it. -/
theorem leave_of_last (last : x.a = x.e - 1) : x.leave false = { e := x.e - 1 - x.p, a := 0, p := 0, phase := x.phase + 1 } := if_pos last

/-- A barrier that a strand has left is never one that no strand has used: the phase has risen, a strand is gone, or one has arrived. -/
theorem leave_ne_unused (arrived : Bool) : x.leave arrived ≠ {} := by
  cases arrived with
  | true =>
    by_cases last : x.a = x.e
    · rw [leave_of_arrived_last last]
      simp
    · rw [leave_of_arrived last]
      simp
  | false =>
    by_cases last : x.a = x.e - 1
    · rw [leave_of_last last]
      simp
    · rw [leave_of_absent last]
      intro unused
      injection unused with e a
      exact last (a.trans e.symm)
end

/-- What the end of a strand makes of a barrier. -/
def Strand.leaves (t : Strand) (z : BitVec 4) (x : Barrier) : Barrier :=
  if t.barDropped.getLsbD z.toNat then x else x.leave (t.phaseOf z == some x.phase)

/-- The step of `State.leaveBarriers` for one barrier. -/
def Team.leaveBarrier (t : Strand) (m : Team) (k : Nat) : Team :=
  if t.barDropped.getLsbD k then m
  else
    let b := BitVec.ofNat 4 k
    m.setBarrier b ((m.barrier b).leave (t.phaseOf b == some (m.barrier b).phase))

theorem leaveBarriers_eq (s : State) : s.leaveBarriers =
    s.onTeam s.cs.team (fun m => (List.range 16).foldl (Team.leaveBarrier s.cs) m) := rfl

section
variable (t : Strand) (m : Team) (z : BitVec 4)

theorem leaveBarrier_id (k : Nat) : (Team.leaveBarrier t m k).id = m.id := by
  unfold Team.leaveBarrier
  split <;> rfl

theorem barrier_leaveBarrier_same : (Team.leaveBarrier t m z.toNat).barrier z = t.leaves z (m.barrier z) := by
  unfold Team.leaveBarrier Strand.leaves
  rw [BitVec.ofNat_toNat, BitVec.setWidth_eq]
  split
  · rfl
  · exact Sparse.get_set_self_of_ne _ _ (leave_ne_unused _)

theorem barrier_leaveBarrier_other {k : Nat} (small : k < 16) (other : z.toNat ≠ k) : (Team.leaveBarrier t m k).barrier z = m.barrier z := by
  unfold Team.leaveBarrier
  split
  · rfl
  · exact Sparse.get_set_ne _ _ (by rwa [BitVec.toNat_ofNat, Nat.mod_eq_of_lt small])
end

section
variable (t : Strand) (z : BitVec 4) {l : List Nat}

theorem leaveBarrier_fold_id (l : List Nat) (m : Team) : (l.foldl (Team.leaveBarrier t) m).id = m.id := by
  induction l generalizing m with
  | nil => rfl
  | cons k l ih => rw [List.foldl_cons, ih, leaveBarrier_id]

theorem barrier_fold_of_not_mem (small : ∀ k ∈ l, k < 16) (out : z.toNat ∉ l) (m : Team) :
    (l.foldl (Team.leaveBarrier t) m).barrier z = m.barrier z := by
  induction l generalizing m with
  | nil => rfl
  | cons k l ih =>
    obtain ⟨first, rest⟩ := List.forall_mem_cons.mp small
    obtain ⟨other, out⟩ := List.ne_and_not_mem_of_not_mem_cons out
    rw [List.foldl_cons, ih rest out, barrier_leaveBarrier_other t m z first other]

theorem barrier_fold_of_mem (small : ∀ k ∈ l, k < 16) (once : l.Nodup) (here : z.toNat ∈ l) (m : Team) :
    (l.foldl (Team.leaveBarrier t) m).barrier z = t.leaves z (m.barrier z) := by
  induction l generalizing m with
  | nil => cases here
  | cons k l ih =>
    obtain ⟨first, rest⟩ := List.forall_mem_cons.mp small
    obtain ⟨out, once⟩ := List.nodup_cons.mp once
    rw [List.foldl_cons]
    by_cases same : z.toNat = k
    · subst same
      rw [barrier_fold_of_not_mem t z rest out, barrier_leaveBarrier_same]
    · rw [ih rest once (List.mem_of_ne_of_mem same here), barrier_leaveBarrier_other t m z first same]
end

/-- A change of a team that keeps its number changes that team where it is found. -/
theorem team?_onTeam {s : State} {id : Nat} {f : Team → Team} (keeps : ∀ m, (f m).id = m.id) {x : Team} (found : s.team? id = some x) :
    (s.onTeam id f).team? id = some (f x) := by
  have same : (fun m : Team => m.id == id) ∘ (fun m : Team => if m.id == id then f m else m) = fun m => m.id == id := by
    funext m
    dsimp only [Function.comp]
    split <;> simp [keeps]
  have named : (x.id == id) = true := List.find?_some (p := fun m : Team => m.id == id) found
  rw [State.team?, State.onTeam_teams, List.find?_map, same, show s.teams.find? (fun m => m.id == id) = some x from found, Option.map_some,
    if_pos named]

/-- The team of a strand that ends, and each of its barriers. -/
theorem team?_leaveBarriers {s : State} {x : Team} (found : s.team? s.cs.team = some x) :
    ∃ y, s.leaveBarriers.team? s.cs.team = some y ∧ ∀ z, y.barrier z = s.cs.leaves z (x.barrier z) := by
  rw [leaveBarriers_eq]
  exact ⟨_, team?_onTeam (leaveBarrier_fold_id s.cs _) found, fun z =>
    barrier_fold_of_mem s.cs z (fun _ => List.mem_range.mp) List.nodup_range (List.mem_range.mpr z.isLt) x⟩

/-! `yield`, `park` and `park end` (R32, R145, R256). -/

/-- No operation of a strand has stopped on a fault: nothing is raised at its end. -/
theorem raiseEnded_of_none {s : State} {id sid : Nat} (quiet : ∀ o ∈ s.ops, o.team = id → o.sid = sid → ∀ f v, o.stat ≠ .fault f v) :
    raiseEnded s id sid = s := by
  unfold raiseEnded
  split
  · next t o strand found =>
    have stopped := List.find?_some found
    rw [Bool.and_eq_true, Bool.and_eq_true, beq_iff_eq, beq_iff_eq] at stopped
    obtain ⟨⟨team, number⟩, fault⟩ := stopped
    split
    · next f v stat => exact absurd stat (quiet o (List.mem_of_find?_eq_some found) team number f v)
    · rfl
  · rfl

/-- The strand that executes `park end` has ended: no loop and no frame is left, and nothing behind the word is executed. -/
def Strand.ended (t : Strand) : Strand :=
  { t with
    parkEnded := true, pfx := {}, fetchReq := none, loops := []
    q := Eng.all.foldl (fun q e => q.set e (itemsBefore t.unit.seq (q.get e))) t.q
    arec := t.arec ++ (match t.frame with | some f => f.arec.filter (fun e => e.state != .faulted) | none => [])
    frame := none }

theorem exec_parkEnd_of_quiet {s : State} (h : Issues .parkEnd s)
    (quiet : ∀ o ∈ s.ops, o.team = s.cs.team → o.sid = s.cs.sid → ∀ f v, o.stat ≠ .fault f v) :
    exec .parkEnd s = .next (s.completes (s.begun.leaveBarriers.onCs Strand.ended)) :=
  exec_ok (exec_parkEnd s) h (congrArg Act.ok (raiseEnded_of_none (s := s.begun.leaveBarriers.onCs Strand.ended) quiet))

/-! `cswitch` (R257). -/

section
variable {s : State} {d a : BitVec 6} (h : Issues (.cswitch d a) s)
  (ok : handleFault s.begun ((s.cs.sc a).setWidth 32) = none)
include h ok

theorem exec_cswitch_of_far (far : handleDie ((s.cs.sc a).setWidth 32) ≠ s.cs.die) : exec (.cswitch d a) s = .next (s.wrote d 2) :=
  (exec_cswitch ..).trans (contextWord_ok h ok (if_pos far))

variable (near : handleDie ((s.cs.sc a).setWidth 32) = s.cs.die)
include near

theorem exec_cswitch_of_none (no : switchTarget s.begun (handleIndex ((s.cs.sc a).setWidth 32)) = none) :
    exec (.cswitch d a) s = .next (s.wrote d 1) := by
  refine (exec_cswitch ..).trans (contextWord_ok h ok ?_)
  refine (if_neg (not_not_intro near)).trans ?_
  rw [no]
  rfl

variable {x : Team} (target : switchTarget s.begun (handleIndex ((s.cs.sc a).setWidth 32)) = some x)
include target

theorem exec_cswitch_of_resolving (faults : x.faults ≠ []) : exec (.cswitch d a) s = .next s.waits := by
  refine (exec_cswitch ..).trans ((contextWord_of_effect h ok (r := .wait) ?_).trans (congrArg Host.Outcome.next (issue_wait h rfl)))
  refine (if_neg (not_not_intro near)).trans ?_
  rw [target]
  dsimp only
  rw [List.isEmpty_eq_false_iff.mpr faults]
  rfl

variable (clear : x.faults = [])
include clear

theorem exec_cswitch_of_unready {v : State} (ready : readyTeam s.begun x = (v, none)) :
    exec (.cswitch d a) s = .next (v.onCs (fun t => t.setHeld true)) := by
  refine (exec_cswitch ..).trans ((contextWord_of_effect h ok (r := .waitWith v) ?_).trans ?_)
  · refine (if_neg (not_not_intro near)).trans ?_
    rw [target]
    dsimp only
    rw [clear, ready]
    rfl
  · rw [issue_of_issues h]

theorem exec_cswitch_of_ready {v : State} {y : Team} (ready : readyTeam s.begun x = (v, some y)) :
    ∃ z, exec (.cswitch d a) s = .next (s.completes
      ((frameFreed (seat (vacate (v.result d 0) s.csTeam.id) y s.csTeam.die s.csTeam.tile)).setDeficit (handleDie y.ctx).toNat
        (handlePart y.ctx).toNat z)) := by
  let p := frameFreed (seat (vacate (v.result d 0) s.csTeam.id) y s.csTeam.die s.csTeam.tile)
  refine ⟨p.deficit (handleDie y.ctx).toNat (handlePart y.ctx).toNat - ((y.c * y.p * quantum v (handleDie y.ctx).toNat : Nat) : Int),
    (exec_cswitch ..).trans (contextWord_ok h ok ?_)⟩
  refine (if_neg (not_not_intro near)).trans ?_
  rw [target]
  dsimp only
  rw [clear, ready]
  rfl
end

/-- Settles O12: yield and park by their conditions, the barriers that `park end` leaves one after another, and the cases of cswitch. -/
theorem switchAndParkWordsComplete : Obligations.SwitchAndParkWordsComplete := by
  unfold Obligations.SwitchAndParkWordsComplete
  intro s w m e t l r a b d
  refine ⟨fun h placed rivals => ?yield, fun h alone => ?alone, fun h met => ?met, fun h unmet => ?unmet, fun h quiet => ?parkEnd,
    fun x => ⟨leave_of_arrived, leave_of_absent, leave_of_last⟩, fun h f fault => ?fault,
    fun h ok far => exec_cswitch_of_far h ok far, fun h ok near no => exec_cswitch_of_none h ok near no,
    fun h ok near x target => ⟨fun faults => exec_cswitch_of_resolving h ok near target faults,
      fun clear v ready => exec_cswitch_of_unready h ok near target clear ready,
      fun clear v y ready => exec_cswitch_of_ready h ok near target clear ready⟩⟩
  case yield => exact exec_ok (exec_yield s) h (if_pos (Bool.and_eq_true_iff.mpr ⟨placed, rivals⟩))
  case alone =>
    refine exec_ok (exec_yield s) h (if_neg fun both => ?_)
    obtain ⟨placed, rivals⟩ := Bool.and_eq_true_iff.mp both
    exact alone.elim (fun no => Bool.false_ne_true (no.symm.trans placed)) (fun no => Bool.false_ne_true (no.symm.trans rivals))
  case met => exact exec_ok (exec_park ..) h (if_pos met)
  case unmet => exact exec_ok (exec_park ..) h (if_neg (not_not_intro unmet))
  case parkEnd =>
    exact ⟨_, exec_parkEnd_of_quiet h quiet, rfl, Strand.signal_parkEnded _ _, Strand.signal_frame _ _,
      Strand.signal_loops _ _, Strand.signal_s _ _, Strand.signal_v _ _, fun x found => team?_leaveBarriers (s := s.begun) found⟩
  case fault => exact (exec_cswitch ..).trans (contextWord_of_fault h fault)

end Sys2Proof.Machine
end

section
/-! Bytes of images and fields of records (06_instruction_encoding.md R6; 04_number_formats.md R54; 10_access_instructions.md R160, R168). -/

namespace Sys2Proof.Machine

/-! Fields of a record. -/

theorem recField_eq_extract {w : Nat} (x : BitVec w) (off n : Nat) : recField x off n = (x.extractLsb' (8 * off) (8 * n)).toNat := by
  simp [recField, Nat.shiftRight_eq_div_pow]

theorem recField_zero {w : Nat} (off n : Nat) : recField (0 : BitVec w) off n = 0 := by simp [recField]

theorem recField_lt {w : Nat} (x : BitVec w) (off n : Nat) : recField x off n < 2 ^ (8 * n) := Nat.mod_lt _ (Nat.two_pow_pos _)

theorem getLsbD_setField {w : Nat} (h : BitVec w) (off n x j : Nat) : (setField h off n x).getLsbD j =
    if 8 * off ≤ j ∧ j < 8 * off + 8 * n then decide (j < w) && x.testBit (j - 8 * off) else h.getLsbD j := by
  unfold setField
  simp only [BitVec.getLsbD_or, BitVec.getLsbD_and, BitVec.getLsbD_not, BitVec.getLsbD_shiftLeft, BitVec.getLsbD_ofNat,
    Nat.testBit_two_pow_sub_one, Nat.testBit_mod_two_pow]
  by_cases hw : j < w
  · by_cases low : j < 8 * off
    · simp [hw, low, Nat.not_le_of_lt low]
    · by_cases high : j < 8 * off + 8 * n
      · simp [hw, low, high, Nat.le_of_not_lt low, show j - 8 * off < w by omega, show j - 8 * off < 8 * n by omega]
      · simp [hw, low, high, show ¬ j - 8 * off < 8 * n by omega]
  · simp [hw, BitVec.getLsbD_of_ge h j (Nat.le_of_not_lt hw)]

/-- A field reads as it has been written. -/
theorem recField_setField_same {w : Nat} (h : BitVec w) {off n : Nat} (x : Nat) (fits : 8 * off + 8 * n ≤ w) :
    recField (setField h off n x) off n = x % 2 ^ (8 * n) := by
  rw [recField_eq_extract, ← BitVec.toNat_ofNat]
  congr 1
  apply BitVec.eq_of_getLsbD_eq
  intro j hj
  rw [BitVec.getLsbD_extractLsb', getLsbD_setField, if_pos (by omega), BitVec.getLsbD_ofNat]
  simp [hj, show 8 * off + j < w by omega]

/-- A write leaves the fields beside it as they are. -/
theorem recField_setField_other {w : Nat} (h : BitVec w) {off n off' n' : Nat} (x : Nat) (apart : off + n ≤ off' ∨ off' + n' ≤ off) :
    recField (setField h off n x) off' n' = recField h off' n' := by
  rw [recField_eq_extract, recField_eq_extract]
  congr 1
  apply BitVec.eq_of_getLsbD_eq
  intro j hj
  rw [BitVec.getLsbD_extractLsb', BitVec.getLsbD_extractLsb', getLsbD_setField, if_neg (by omega)]

/-! Bytes of a wide value. -/

theorem toNat_byteOf {w : Nat} (x : BitVec w) (i : Nat) : (byteOf x i).toNat = recField x i 1 := (recField_eq_extract x i 1).symm

theorem setByteOf_eq_setField {w : Nat} (x : BitVec w) (i : Nat) (b : Byte) : setByteOf x i b = setField x i 1 b.toNat := by
  rw [setByteOf, setField, Nat.mod_eq_of_lt b.isLt, show 2 ^ (8 * 1) - 1 = 255 from rfl]

theorem byteOf_setByteOf {w : Nat} (x : BitVec w) {i : Nat} (j : Nat) (b : Byte) (fits : 8 * i + 8 ≤ w) :
    byteOf (setByteOf x i b) j = if j = i then b else byteOf x j := by
  apply BitVec.eq_of_toNat_eq
  rw [toNat_byteOf, setByteOf_eq_setField]
  split
  · next same => rw [same, recField_setField_same x _ fits, Nat.mod_eq_of_lt b.isLt]
  · next other => rw [recField_setField_other x _ (by omega), ← toNat_byteOf]

/-- The low bytes of a value make its low bits (R6). -/
theorem leNat_bytes {w : Nat} (x : BitVec w) (n : Nat) : leNat ((List.range n).map (byteOf x)) = x.toNat % 2 ^ (8 * n) := by
  suffices from_ : ∀ k, leNat ((List.range' k n).map (byteOf x)) = recField x k n by
    simpa [List.range_eq_range', recField] using from_ 0
  induction n with
  | zero => intro k; simp [leNat, recField, Nat.mod_one]
  | succ n ih =>
    intro k
    rw [List.range'_succ, List.map_cons, leNat, ih (k + 1), toNat_byteOf, recField, recField, recField,
      show 8 * (n + 1) = 8 + 8 * n by omega, show 8 * (k + 1) = 8 * k + 8 by omega, Nat.pow_add 2 8, Nat.pow_add 2 (8 * k),
      ← Nat.div_div_eq_div_mul, Nat.mod_mul]

/-! Bytes of images. -/

/-- A byte put into the images is there, and the others stay. -/
theorem imgByte_setImg {imgs : List Vec} {off : Nat} (room : off < 512 * imgs.length) (b : Byte) (k : Nat) :
    imgByte (setImg imgs off b) k = if k = off then b else imgByte imgs k := by
  have here : off / 512 < imgs.length := by omega
  unfold imgByte setImg
  rw [List.getElem?_modify]
  by_cases same : off / 512 = k / 512
  · have old : imgs[k / 512]? = some imgs[k / 512] := List.getElem?_eq_getElem (same ▸ here)
    rw [old, Option.map_eq_map, Option.map_some, if_pos same, Option.getD_some, Option.getD_some, byteOf_setByteOf _ _ _ (by omega)]
    exact if_congr (by omega) rfl rfl
  · simp only [if_neg same, Option.map_eq_map, Option.map_id']
    rw [if_neg (fun e => same (by rw [e]))]

section
variable {α : Type} (f : α → Byte) {plan : List (Nat × α)} {imgs : List Vec}

/-- The images that the bytes `f` of a plan have been put into. -/
def putImgs (imgs : List Vec) (plan : List (Nat × α)) : List Vec := plan.foldl (fun imgs p => setImg imgs p.1 (f p.2)) imgs

theorem putImgs_cons (p : Nat × α) : putImgs f imgs (p :: plan) = putImgs f (setImg imgs p.1 (f p.2)) plan := rfl

theorem length_putImgs (plan : List (Nat × α)) (imgs : List Vec) : (putImgs f imgs plan).length = imgs.length := by
  induction plan generalizing imgs with
  | nil => rfl
  | cons p l ih => rw [putImgs_cons, ih, setImg, List.length_modify]

theorem imgByte_putImgs_of_not_mem {k : Nat} (out : k ∉ plan.map Prod.fst) (room : ∀ p ∈ plan, p.1 < 512 * imgs.length) :
    imgByte (putImgs f imgs plan) k = imgByte imgs k := by
  induction plan generalizing imgs with
  | nil => rfl
  | cons p l ih =>
    obtain ⟨first, rest⟩ := List.forall_mem_cons.mp room
    obtain ⟨other, out⟩ := List.ne_and_not_mem_of_not_mem_cons out
    rw [putImgs_cons, ih out (by simpa [setImg] using rest), imgByte_setImg first, if_neg other]

theorem imgByte_putImgs_of_mem {p : Nat × α} (here : p ∈ plan) (once : (plan.map Prod.fst).Nodup)
    (room : ∀ p ∈ plan, p.1 < 512 * imgs.length) : imgByte (putImgs f imgs plan) p.1 = f p.2 := by
  induction plan generalizing imgs with
  | nil => cases here
  | cons q l ih =>
    obtain ⟨first, rest⟩ := List.forall_mem_cons.mp room
    have rest' : ∀ x ∈ l, x.1 < 512 * (setImg imgs q.1 (f q.2)).length := by simpa [setImg] using rest
    obtain ⟨out, once⟩ := List.nodup_cons.mp once
    rw [putImgs_cons]
    rcases List.mem_cons.mp here with rfl | later
    · rw [imgByte_putImgs_of_not_mem f out rest', imgByte_setImg first, if_pos rfl]
    · exact ih later once rest'

/-- The bytes of a plan whose data offsets are 0, 1, … stand in the images in their order. -/
theorem imgBytes_putImgs {n : Nat} (order : plan.map Prod.fst = List.range n) (room : n ≤ 512 * imgs.length) :
    imgBytes (putImgs f imgs plan) n = plan.map (fun p => f p.2) := by
  have small : ∀ p ∈ plan, p.1 < n := fun p hp => List.mem_range.mp (order ▸ List.mem_map_of_mem hp)
  rw [imgBytes, ← order, List.map_map]
  exact List.map_congr_left fun p hp =>
    imgByte_putImgs_of_mem f hp (order ▸ List.nodup_range) (fun q hq => Nat.lt_of_lt_of_le (small q hq) room)
end

/-- The first image as a number, from its low bytes. -/
theorem headD_mod_eq_leNat (imgs : List Vec) {n : Nat} (small : n ≤ 512) :
    (imgs.headD 0).toNat % 2 ^ (8 * n) = leNat (imgBytes imgs n) := by
  rw [← leNat_bytes, imgBytes]
  congr 1
  refine List.map_congr_left fun k hk => ?_
  have low : k < 512 := Nat.lt_of_lt_of_le (List.mem_range.mp hk) small
  rw [imgByte, Nat.div_eq_of_lt low, Nat.mod_eq_of_lt low, List.headD_eq_head?_getD, List.head?_eq_getElem?]

/-- The bytes of a plan whose data offsets are 0, 1, …, put into one image, as a number. -/
theorem headD_putImgs_mod {α : Type} (f : α → Byte) {plan : List (Nat × α)} {n : Nat} (order : plan.map Prod.fst = List.range n)
    (small : n ≤ 512) : ((putImgs f [0] plan).headD 0).toNat % 2 ^ (8 * n) = leNat (plan.map (fun p => f p.2)) := by
  rw [headD_mod_eq_leNat _ small, imgBytes_putImgs f order (by simpa using small)]

theorem leNat_lt (l : List Byte) : leNat l < 2 ^ (8 * l.length) := by
  induction l with
  | nil => simp [leNat]
  | cons b l ih =>
    have hb := b.isLt
    rw [leNat, List.length_cons, show 8 * (l.length + 1) = 8 * l.length + 8 by omega, Nat.pow_add]
    omega

/-! The data offsets of a plan. -/

theorem planBytes_order (sp : Space) (k : AKind) (cov : Dword → Bool) {n off : Nat} {va : Dword} {s u : State} {acc plan : List (Nat × Loc)}
    (h : planBytes sp k cov n off va (s, acc) = (u, .ok plan)) : plan.reverse.map Prod.fst = acc.reverse.map Prod.fst ++ List.range' off n := by
  induction n generalizing off va s acc with
  | zero =>
    obtain ⟨-, h⟩ := Prod.mk.inj h
    simp [Except.ok.inj h]
  | succ n ih =>
    unfold planBytes at h
    split at h
    · rw [ih h]
      simp [List.range'_succ]
    · cases h

/-- The bytes of one element are planned in their order. -/
theorem planElems_one_order {sp : Space} {k : AKind} {va : Dword} {n : Nat} {s u : State} {plan : List (Nat × Loc)}
    (h : planElems sp k [⟨0, va, n⟩] (s, []) = (u, .ok plan)) : plan.map Prod.fst = List.range n := by
  unfold planElems at h
  split at h
  · next s' acc found =>
    obtain ⟨-, h⟩ := Prod.mk.inj h
    rw [← Except.ok.inj h, planBytes_order sp k _ found, List.range_eq_range']
    rfl
  · cases h

end Sys2Proof.Machine
end

section
/-! Requests whose bytes are all reached are performed at once (R46, R151, R155, R276, R283, R318). -/

namespace Sys2Proof.Machine

variable {s u : State} {sp : Space} {q : Req} {plan : List (Nat × Loc)}

/-! Performing a request that nothing hinders. -/

/-- Nothing keeps the request from the places of `plan` in the state `u`: all are of this device or its host, undamaged, free of host copies
and in working channels, and so are the L1 lines that the request writes back. -/
def Unhindered (u : State) (sp : Space) (q : Req) (plan : List (Nat × Loc)) : Prop :=
  l1Waits u (flushedBy sp q plan) = none ∧
  ∀ p ∈ plan, p.2.isFab = false ∧ u.bad p.2.key = false ∧ devWait u q.akind.writes p.2.key = none

theorem Unhindered.here (h : Unhindered u sp q plan) : ∀ p ∈ plan, p.2.isFab = false := fun p hp => (h.2 p hp).1

theorem Unhindered.free (h : Unhindered u sp q plan) :
    plan.findSome? (fun p => if p.2.isFab then none else devWait u q.akind.writes p.2.key) = none :=
  List.findSome?_eq_none_iff.mpr fun p hp => by
    rw [h.here p hp]
    exact (h.2 p hp).2.2

section
variable {s0 : State} {plan0 : List (Nat × Loc)} (resolved : resolveFab u (fld sp.ctx 16 6) q.akind plan0 = .ok plan)
  (h : Unhindered u sp q plan)
include resolved h

theorem performPlan_of_unhindered (plainAccess : q.atom = none) : performPlan s0 u sp q false plan0 =
    if q.write then .done (orderDone (writeHere (prepareL1 u sp q plan) sp q.data plan) sp q.ord) q.base
    else .done (orderDone (prepareL1 u sp q plan) sp q.ord) (q.final (readHere (prepareL1 u sp q plan) sp q.start plan)) := by
  rw [performPlan, resolved]
  simp only [Except.map, Bool.false_eq_true, if_false]
  rw [h.free, h.1]
  simp only [Option.orElse]
  rw [badByte_of_sound _ fun p hp => (h.2 p hp).2.1, plainAccess]
  simp only [any_fab_of_here h.here, Bool.false_eq_true, if_false]

/-- An atomic on device memory through the row view is performed here. -/
theorem performPlan_of_atomic {a : AtomOp} (atomic : q.atom = some a) (rows : ∀ p ∈ plan, p.2.otherView = false)
    (device : hostOf plan = none) :
    performPlan s0 u sp q false plan0 = atomicHere (prepareL1 u sp q plan) sp q.ord a plan := by
  rw [performPlan, resolved]
  simp only [Except.map, Bool.false_eq_true, if_false]
  rw [h.free, h.1]
  simp only [Option.orElse]
  rw [badByte_of_sound _ fun p hp => (h.2 p hp).2.1, atomic]
  have other : plan.any (fun p => p.2.otherView) = false := by simpa using rows
  simp only [any_fab_of_here h.here, other, device, Bool.false_eq_true, if_false]
end

theorem ReachIn.unhindered (h : ReachIn sp s q.akind q.elems u plan) : Unhindered u sp q plan :=
  ⟨l1Waits_of_all _ h.2.1, h.2.2⟩

/-- A request with an address space of its own is performed on the plan of its bytes. -/
theorem runReq_of_planned (kind : q.kind ≠ .fabric) (h : ReachIn sp s q.akind q.elems u plan) :
    runReq s sp q = performPlan s u sp q false plan := by
  rw [runReq, if_neg (by simpa using kind), h.1]

/-! The L1s before and after an access. -/

@[simp] theorem touchRows_mem (s : State) (keys : List Nat) : (s.touchRows keys).mem = s.mem := by rw [touchRows_frame]
@[simp] theorem touchRows_l1 (s : State) (keys : List Nat) : (s.touchRows keys).l1 = s.l1 := by rw [touchRows_frame]
@[simp] theorem touchRows_cs (s : State) (keys : List Nat) : (s.touchRows keys).cs = s.cs := by rw [touchRows_frame]

theorem isRelease_of_order {o : AccOrd} (h : o.order = 0) : o.isRelease = false := by simp [AccOrd.isRelease, h]
theorem isAcquire_of_order {o : AccOrd} (h : o.order = 0) : o.isAcquire = false := by simp [AccOrd.isAcquire, h]

theorem orderDone_of_order {o : AccOrd} (h : o.order = 0) (s : State) (sp : Space) : orderDone s sp o = s := by
  unfold orderDone
  split
  · rfl
  · simp [isRelease_of_order h, isAcquire_of_order h]

theorem OnlyL1.cs {s t : State} (h : OnlyL1 s t) : t.cs = s.cs := by rw [h.1]

theorem orderDone_cs (s : State) (sp : Space) (o : AccOrd) : (orderDone s sp o).cs = s.cs := by
  unfold orderDone
  split
  · rfl
  · dsimp only
    have released : ∀ core, (if o.isRelease then releaseL1 s core o.scope else s).cs = s.cs := fun core => by
      split
      exacts [(releaseL1_spec ..).cs, rfl]
    split
    · exact (acquireL1_spec ..).1.cs.trans (released _)
    · exact released _

/-- The lines of a plan are filled one by one. -/
def fillLines (s : State) (core : Nat) (part : BitVec 6) (plan : List (Nat × Loc)) : State :=
  plan.foldl (fun v p => fillL1 v core part p.2) s

theorem fillLines_cons (s : State) (core : Nat) (part : BitVec 6) (p : Nat × Loc) (plan : List (Nat × Loc)) :
    fillLines s core part (p :: plan) = fillLines (fillL1 s core part p.2) core part plan := rfl

theorem fillLines_cs (s : State) (core : Nat) (part : BitVec 6) (plan : List (Nat × Loc)) : (fillLines s core part plan).cs = s.cs := by
  induction plan generalizing s with
  | nil => rfl
  | cons p l ih => rw [fillLines_cons, ih, (fillL1_spec ..).cs]

theorem makeRoom_of_room (room : s.l1.length < 8192) (core : Nat) : makeRoom s core = s := by
  rw [makeRoom, if_pos (by simp [room])]

/-- While the L1s have room, a fill brings in a line and leaves memory alone. -/
theorem fillL1_of_room (room : s.l1.length < 8192) (core : Nat) (part : BitVec 6) (l : Loc) :
    (fillL1 s core part l).mem = s.mem ∧ (fillL1 s core part l).l1.length ≤ s.l1.length + 1 := by
  unfold fillL1
  rw [makeRoom_of_room room]
  (repeat' split) <;> simp

theorem fillLines_of_room (core : Nat) (part : BitVec 6) (room : s.l1.length + plan.length ≤ 8192) :
    (fillLines s core part plan).mem = s.mem := by
  induction plan generalizing s with
  | nil => rfl
  | cons p l ih =>
    rw [List.length_cons] at room
    obtain ⟨mem, lines⟩ := fillL1_of_room (s := s) (by omega) core part p.2
    rw [fillLines_cons, ih (by omega), mem]

theorem fillL1_of_plain {l : Loc} (h : l.tag? = none) (s : State) (core : Nat) (part : BitVec 6) : fillL1 s core part l = s := by
  rw [fillL1, h]

theorem fillLines_of_plain (h : plain plan) (s : State) (core : Nat) (part : BitVec 6) : fillLines s core part plan = s := by
  induction plan generalizing s with
  | nil => rfl
  | cons p l ih =>
    obtain ⟨first, rest⟩ := List.forall_mem_cons.mp h
    rw [fillLines_cons, fillL1_of_plain first, ih rest]

theorem ready_eq (s u : State) (o : AccOrd) (plan : List (Nat × Loc)) : s.ready u o plan =
    fillLines (if o.isRelease then releaseL1 (u.touchRows (plan.map (·.2.key))) s.cs.l1No o.scope else u.touchRows (plan.map (·.2.key)))
      s.cs.l1No s.cs.part plan := rfl

theorem ready_cs (s u : State) (o : AccOrd) (plan : List (Nat × Loc)) : (s.ready u o plan).cs = u.cs := by
  rw [ready_eq, fillLines_cs]
  split
  · exact (releaseL1_spec ..).cs.trans (touchRows_cs ..)
  · exact touchRows_cs ..

/-- A relaxed access finds memory as its translation left it, unless a full L1 gives up a line. -/
theorem ready_mem {o : AccOrd} (relaxed : o.order = 0) (h : u.l1.length + plan.length ≤ 8192 ∨ plain plan) :
    (s.ready u o plan).mem = u.mem := by
  rw [ready_eq, if_neg (by simp [isRelease_of_order relaxed])]
  rcases h with room | single
  · rw [fillLines_of_room _ _ (by simpa using room), touchRows_mem]
  · rw [fillLines_of_plain single, touchRows_mem]

/-- The core's own L1 takes part in an ACC access that is no atomic. -/
theorem prepareL1_eq_ready (kind : q.kind ≠ .fabric) (plainAccess : q.atom = none) (here : ∀ p ∈ plan, p.2.isFab = false) :
    prepareL1 u s.acc q plan = s.ready u q.ord plan := by
  have core : s.acc.core = some s.cs.l1No := rfl
  simp only [prepareL1, core, plainAccess, filter_here here, Option.isSome_none, Bool.false_eq_true, if_false]
  rw [if_neg (by simpa using kind)]
  rfl

/-! Reading. -/

theorem readHere_eq_putImgs (s : State) (sp : Space) (imgs : List Vec) (plan : List (Nat × Loc)) :
    readHere s sp imgs plan = putImgs (hereByte s sp) imgs plan := rfl

theorem readPlan_eq_putImgs (m : List Host.Cell) (imgs : List Vec) (plan : List (Nat × Loc)) :
    readPlan m imgs plan = putImgs (fun l => memByte m l.key) imgs plan := rfl

theorem hereByte_of_plain {l : Loc} (h : l.tag? = none) (s : State) (sp : Space) : hereByte s sp l = memByte s.mem l.key := by
  cases core : sp.core <;> simp [hereByte, l1Byte, h, core]

theorem readsNat_of_plain (h : plain plan) (v : State) : s.readsNat v plan = planNat v.mem plan := by
  rw [State.readsNat, planNat]
  exact congrArg leNat (List.map_congr_left fun p hp => hereByte_of_plain (h p hp) v _)

/-! Writing. -/

theorem l1Puts_mem (sp : Space) (data : List Vec) (plan : List (Nat × Loc)) (s : State) :
    (plan.foldl (fun s p => ((sp.core.bind (fun c => l1Put s c (fld sp.ctx 16 6) p.2 (imgByte data p.1)))).getD s) s).mem = s.mem ∧
    (plan.foldl (fun s p => ((sp.core.bind (fun c => l1Put s c (fld sp.ctx 16 6) p.2 (imgByte data p.1)))).getD s) s).cs = s.cs := by
  induction plan generalizing s with
  | nil => exact ⟨rfl, rfl⟩
  | cons p l ih =>
    have put : ∀ o : Option State, (∀ t, o = some t → t.mem = s.mem ∧ t.cs = s.cs) → (o.getD s).mem = s.mem ∧ (o.getD s).cs = s.cs := by
      intro o h
      cases o with
      | none => exact ⟨rfl, rfl⟩
      | some t => exact h t rfl
    obtain ⟨mem, cs⟩ := put (sp.core.bind (fun c => l1Put s c (fld sp.ctx 16 6) p.2 (imgByte data p.1))) fun t ht => by
      obtain ⟨c, -, ht⟩ := Option.bind_eq_some_iff.mp ht
      have frame := (l1Put_spec _ _ _ _ _ _ ht).1
      rw [frame]
      exact ⟨rfl, rfl⟩
    rw [List.foldl_cons]
    exact ⟨(ih _).1.trans mem, (ih _).2.trans cs⟩

theorem repairGranules_cs (s : State) (plan : List (Nat × Loc)) : (repairGranules s plan).cs = s.cs := by
  unfold repairGranules
  split <;> rfl

/-- The L1 of the accessing core holds the byte of a place. -/
def heldInL1 (s : State) (sp : Space) (p : Nat × Loc) : Bool :=
  !s.l1.isEmpty && sp.core.any (fun c => (l1Byte s c (fld sp.ctx 16 6) p.2).isSome)

/-- A store writes to memory those bytes of its plan that no line of its core's L1 holds. -/
theorem writeHere_mem (s : State) (sp : Space) (data : List Vec) (plan : List (Nat × Loc)) :
    (writeHere s sp data plan).mem = writePlan s.mem data (plan.filter (fun p => !heldInL1 s sp p)) :=
  (l1Puts_mem ..).1.trans (repairGranules_mem ..)

theorem writeHere_cs (s : State) (sp : Space) (data : List Vec) (plan : List (Nat × Loc)) : (writeHere s sp data plan).cs = s.cs :=
  (l1Puts_mem ..).2.trans (repairGranules_cs ..)

theorem memByte_writeHere_out (s : State) (sp : Space) (data : List Vec) {b : Nat} (out : ∀ p ∈ plan, p.2.key ≠ b) :
    memByte (writeHere s sp data plan).mem b = memByte s.mem b := by
  rw [writeHere_mem, memByte_writePlan_out _ _ _ fun p hp => out p (List.mem_of_mem_filter hp)]

/-- Bytes with one copy are written to memory. -/
theorem writeHere_mem_of_plain (h : plain plan) (s : State) (sp : Space) (data : List Vec) :
    (writeHere s sp data plan).mem = writePlan s.mem data plan := by
  have absent : ∀ p ∈ plan, heldInL1 s sp p = false := by
    intro p hp
    cases core : sp.core <;> simp [heldInL1, l1Byte, h p hp, core]
  rw [writeHere_mem, List.filter_eq_self.mpr fun p hp => by rw [absent p hp]; rfl]

/-! What loads and stores leave of memory. -/

theorem loaded_mem (s v : State) (o : AccOrd) (f : Strand → Strand) : (s.loaded v o f).mem = (orderDone v s.acc o).mem := rfl

theorem loadsOnly_loaded {o : AccOrd} {f : Strand → Strand} :
    LoadsOnly u (s.loaded (s.ready u o plan) o f) o plan := by
  intro relaxed h
  rw [loaded_mem, orderDone_of_order relaxed, ready_mem relaxed h]

theorem stored_mem_of_plain {o : AccOrd} (relaxed : o.order = 0) (h : plain plan) (data : List Vec) (f : Strand → Strand) :
    (s.stored (s.ready u o plan) o data plan f).mem = writePlan u.mem data plan := by
  rw [State.stored, loaded_mem, orderDone_of_order relaxed, writeHere_mem_of_plain h, ready_mem relaxed (.inr h)]

theorem storesOnly_stored {o : AccOrd} {data : List Vec} {f : Strand → Strand} :
    StoresOnly u (s.stored (s.ready u o plan) o data plan f) o data plan := by
  intro relaxed
  refine ⟨fun room b out => ?_, fun single => ⟨stored_mem_of_plain relaxed single data f, fun b out => ?_⟩⟩
  · rw [State.stored, loaded_mem, orderDone_of_order relaxed, memByte_writeHere_out _ _ _ out, ready_mem relaxed (.inl room)]
  · rw [stored_mem_of_plain relaxed single, memByte_writePlan_out _ _ _ out]

/-! The ACC word as a whole. -/

theorem recordBusy_of_free (free : q.elems = [] ∨ RecordFree s q.ord.cls q.elems) : recordBusy s.begun q = false := by
  rcases free with none | ⟨room, alone⟩
  · simp [recordBusy, none]
  · have alone' : recordHolds s.begun.cs q.ord.cls q.elems = false := alone
    have room' : decide (64 ≤ s.begun.cs.arec.length) = false := decide_eq_false (Nat.not_le.mpr room)
    rw [recordBusy, room', alone', Bool.or_self, Bool.and_false]

/-- A request that is performed at once completes its word, with its data delivered. -/
theorem accReq_of_done {ordered : Bool} {setup : State → State} {v : State} {imgs : List Vec}
    (free : q.elems = [] ∨ RecordFree s q.ord.cls q.elems) (done : runReq s.begun s.acc q = .done v imgs) :
    accReq s.begun q ordered setup = .ok (setup (v.onCs (fun t => t.clearAnswered.deliver q.dest imgs none))) := by
  rw [accReq, recordBusy_of_free free]
  exact congrArg (actOf s.begun q ordered setup) done

theorem onCs_congr {v : State} {f g : Strand → Strand} (h : f v.cs = g v.cs) : v.onCs f = v.onCs g := by
  rw [State.onCs, State.onCs, h]

section
variable {i : Instr} {body : State → Act} {ordered : Bool} {setup : State → State} {f g : Strand → Strand} {o : AccOrd} {es : List Elem}
  (run : exec i s = .next (issue i s body)) (h : Issues i s) (b : body s.begun = accReq s.begun q ordered setup)
  (own : ∀ v, setup v = v.onCs g) (order : q.ord = o) (elems : q.elems = es) (free : es = [] ∨ RecordFree s o.cls es)
include run h b own order elems free

/-- A word whose request is performed at once completes: of its strand the data it delivers and its own change have changed. -/
theorem exec_of_done {v : State} {imgs : List Vec} (done : runReq s.begun s.acc q = .done (orderDone v s.acc q.ord) imgs)
    (same : g (v.cs.clearAnswered.deliver q.dest imgs none) = f v.cs.clearAnswered) : exec i s = .next (s.loaded v o f) := by
  subst order elems
  have strand : (orderDone v s.acc q.ord).onCs (fun t => g (t.clearAnswered.deliver q.dest imgs none)) =
      (orderDone v s.acc q.ord).onCs (fun t => f t.clearAnswered) := onCs_congr (by rw [orderDone_cs]; exact same)
  rw [exec_ok run h (b.trans (accReq_of_done free done)), own]
  exact congrArg (fun t => Host.Outcome.next (s.completes t)) strand

variable (kind : q.kind ≠ .fabric) (plainAccess : q.atom = none)
include kind plainAccess

theorem exec_load (write : q.write = false) (reach : Reach s.begun .read es u plan)
    (same : g (s.begun.cs.clearAnswered.deliver q.dest (q.final (s.reads (s.ready u o plan) q.start plan)) none) =
      f s.begun.cs.clearAnswered) :
    exec i s = .next (s.loaded (s.ready u o plan) o f) := by
  have akind : q.akind = .read := by simp [Req.akind, write, plainAccess]
  have reached : ReachIn s.acc s.begun q.akind q.elems u plan := by rw [akind, elems]; exact reach
  have here : ∀ p ∈ plan, p.2.isFab = false := reached.unhindered.here
  have cs : (s.ready u o plan).cs = s.begun.cs := (ready_cs ..).trans (records_eq_iff.mp reached.records).1
  refine exec_of_done run h b own order elems free ?_ (by rw [cs]; exact same)
  rw [runReq_of_planned kind reached, performPlan_of_unhindered (resolveFab_of_here _ _ _ here) reached.unhindered plainAccess,
    if_neg (by simp [write]), prepareL1_eq_ready kind plainAccess here, order]
  rfl

theorem exec_store {data : List Vec} (write : q.write = true) (content : q.data = data) (dest : q.dest = .none)
    (reach : Reach s.begun .write es u plan) (same : g s.begun.cs.clearAnswered = f s.begun.cs.clearAnswered) :
    exec i s = .next (s.stored (s.ready u o plan) o data plan f) := by
  have akind : q.akind = .write := by simp [Req.akind, write, plainAccess]
  have reached : ReachIn s.acc s.begun q.akind q.elems u plan := by rw [akind, elems]; exact reach
  have here : ∀ p ∈ plan, p.2.isFab = false := reached.unhindered.here
  have cs : (writeHere (s.ready u o plan) s.acc data plan).cs = s.begun.cs :=
    (writeHere_cs ..).trans ((ready_cs ..).trans (records_eq_iff.mp reached.records).1)
  refine exec_of_done run h b own order elems free ?_ (imgs := q.base) (by rw [cs, dest]; exact same)
  rw [runReq_of_planned kind reached, performPlan_of_unhindered (resolveFab_of_here _ _ _ here) reached.unhindered plainAccess,
    if_pos write, prepareL1_eq_ready kind plainAccess here, order, content]
end

end Sys2Proof.Machine
end

section
/-! Loads and stores of scalars, vectors, masks and descriptors (10_access_instructions.md R148 to R159, R163, R165), with the obligations O15
and O16. -/

namespace Sys2Proof.Machine

variable {s u : State} {plan : List (Nat × Loc)} {i : Instr} {c : BitVec 4} {d a imm : BitVec 6}

/-! Alignment (R150). -/

theorem aligned_iff {va : Dword} {n : Nat} : aligned va n = true ↔ va.toNat % n = 0 := by simp [aligned]

theorem alignedReq_of_aligned {va : Dword} {n : Nat} (h : va.toNat % n = 0) (f : State → Act) : alignedReq s va n f = f s := by
  rw [alignedReq, if_pos (aligned_iff.mpr h)]

theorem alignedReq_of_misaligned {va : Dword} {n : Nat} (h : va.toNat % n ≠ 0) (f : State → Act) :
    alignedReq s va n f = .trap .misaligned va := by
  rw [alignedReq, if_neg (fun al => h (aligned_iff.mp al))]

/-! Scalars (R155). -/

theorem loadValue_false (v : Vec) (n : Nat) : loadValue v n false = BitVec.ofNat 64 (v.toNat % 2 ^ (8 * n)) := rfl

theorem loadValue_true (v : Vec) {n : Nat} (pos : 0 < n) :
    loadValue v n true = (BitVec.ofNat (8 * n) (v.toNat % 2 ^ (8 * n))).signExtend 64 := by
  have half : 2 ^ (8 * n) = 2 * 2 ^ (8 * n - 1) := by rw [← Nat.pow_succ', Nat.succ_eq_add_one, Nat.sub_add_cancel (by omega)]
  rw [loadValue, BitVec.signExtend, BitVec.toInt_eq_toNat_cond, BitVec.toNat_ofNat, Nat.mod_mod, Bool.true_and]
  by_cases high : 2 ^ (8 * n - 1) ≤ v.toNat % 2 ^ (8 * n)
  · rw [if_pos (by simpa using high), if_neg (by omega)]
    norm_cast
  · rw [if_neg (by simpa using high), if_pos (by omega), BitVec.ofInt_natCast]

/-- The scalar that a load of `n` bytes writes is a function of the bytes as a number. -/
theorem loadValue_reads {va : Dword} {n : Nat} {signed : Bool} {f : Nat → Dword} (small : n ≤ 512)
    (extends_ : ∀ v : Vec, loadValue v n signed = f (v.toNat % 2 ^ (8 * n))) (v : State)
    (planned : planElems s.acc .read [⟨0, va, n⟩] (s.begun, []) = (u, .ok plan)) :
    loadValue ((s.reads v [0] plan).headD 0) n signed = f (s.readsNat v plan) := by
  rw [extends_, State.reads, readHere_eq_putImgs, headD_putImgs_mod _ (planElems_one_order planned) small]
  rfl

/-- `scalarLoad` as R155 has it: `f` is the extension of a number of `n` bytes. -/
theorem scalarLoad_complete {n : Nat} {signed : Bool} {f : Nat → Dword} (small : n ≤ 512)
    (extends_ : ∀ v : Vec, loadValue v n signed = f (v.toNat % 2 ^ (8 * n)))
    (run : exec i s = scalarLoad i c d a imm n signed s) :
    let o := s.cs.unit.ordOf c
    let va := s.cs.sc a + BitVec.ofInt 64 (s.cs.unit.immS imm * n)
    (Issues i s → va.toNat % n ≠ 0 → exec i s = .next (s.trapped i .misaligned va)) ∧
    (Issues i s → va.toNat % n = 0 → RecordFree s o.cls [⟨0, va, n⟩] → ∀ u plan, Reach s.begun .read [⟨0, va, n⟩] u plan →
      let v := s.ready u o plan
      let t := s.loaded v o (fun t => t.setSc d (f (s.readsNat v plan)))
      exec i s = .next t ∧ LoadsOnly u t o plan ∧ (plain plan → s.readsNat v plan = planNat v.mem plan)) := by
  intro o va
  refine ⟨fun h mis => exec_trap_of run h (alignedReq_of_misaligned mis _), fun h al free u plan reach => ⟨?_, ?_, ?_⟩⟩
  · exact exec_load run h (alignedReq_of_aligned al _) (g := id) (fun _ => rfl) rfl rfl (.inr free) (fun e => nomatch e) rfl rfl reach
      (congrArg (Strand.setSc _ d) (loadValue_reads small extends_ _ reach.1))
  · exact loadsOnly_loaded
  · exact fun single => readsNat_of_plain single _

theorem byteOf_setWidth {w : Nat} (x : BitVec w) {v k : Nat} (fits : 8 * k + 8 ≤ v) : byteOf (x.setWidth v) k = byteOf x k := by
  apply BitVec.eq_of_getLsbD_eq
  intro j hj
  rw [byteOf, byteOf, BitVec.getLsbD_extractLsb', BitVec.getLsbD_extractLsb', BitVec.getLsbD_setWidth]
  simp [show 8 * k + j < v by omega]

/-- The bytes of one image, in the order of a plan. -/
theorem writePlan_image {w : Nat} (x : BitVec w) (m : List Host.Cell) {n : Nat} (small : n ≤ 512)
    (order : plan.map Prod.fst = List.range n) :
    writePlan m [x.setWidth 4096] plan = plan.foldl (fun m p => setByte m p.2.key (byteOf x p.1)) m := by
  refine List.foldl_ext _ _ _ fun m p hp => ?_
  have low : p.1 < 512 := Nat.lt_of_lt_of_le (List.mem_range.mp (order ▸ List.mem_map_of_mem hp)) small
  rw [imgByte, Nat.div_eq_of_lt low, Nat.mod_eq_of_lt low]
  exact congrArg (setByte m p.2.key) (byteOf_setWidth x (by omega))

/-- `scalarStore` as R155 has it. -/
theorem scalarStore_complete {n : Nat} (small : n ≤ 512) (run : exec i s = scalarStore i c d a imm n s) :
    let o := s.cs.unit.ordOf c
    let va := s.cs.sc a + BitVec.ofInt 64 (s.cs.unit.immS imm * n)
    (Issues i s → va.toNat % n ≠ 0 → exec i s = .next (s.trapped i .misaligned va)) ∧
    (Issues i s → va.toNat % n = 0 → RecordFree s o.cls [⟨0, va, n⟩] → ∀ u plan, Reach s.begun .write [⟨0, va, n⟩] u plan →
      let t := s.stored (s.ready u o plan) o [(s.cs.sc d).setWidth 4096] plan
      exec i s = .next t ∧ StoresOnly u t o [(s.cs.sc d).setWidth 4096] plan ∧
        (o.order = 0 → plain plan → t.mem = plan.foldl (fun m p => setByte m p.2.key (byteOf (s.cs.sc d) p.1)) u.mem)) := by
  intro o va
  refine ⟨fun h mis => exec_trap_of run h (alignedReq_of_misaligned mis _), fun h al free u plan reach => ⟨?_, ?_, fun relaxed single => ?_⟩⟩
  · exact exec_store run h (alignedReq_of_aligned al _) (g := id) (fun _ => rfl) rfl rfl (.inr free) (fun e => nomatch e) rfl rfl rfl rfl reach rfl
  · exact storesOnly_stored
  · rw [stored_mem_of_plain relaxed single, writePlan_image _ _ small (planElems_one_order reach.1)]

/-- Settles O15: the words differ in their size and in the extension of the bytes that they read. -/
theorem scalarLoadAndStoreWordsComplete : Obligations.ScalarLoadAndStoreWordsComplete := by
  have unsigned : ∀ n v, loadValue v n false = BitVec.ofNat 64 (v.toNat % 2 ^ (8 * n)) := fun n v => loadValue_false v n
  refine ⟨fun s c d a i => ⟨?_, ?_, ?_, ?_, ?_, ?_, ?_⟩, fun s c d a i => ⟨?_, ?_, ?_, ?_⟩⟩
  · exact scalarLoad_complete (f := fun x => (BitVec.ofNat 8 x).signExtend 64) (by decide) (loadValue_true · (by decide)) (exec_ldBS ..)
  · exact scalarLoad_complete (by decide) (unsigned 1) (exec_ldBN ..)
  · exact scalarLoad_complete (f := fun x => (BitVec.ofNat 16 x).signExtend 64) (by decide) (loadValue_true · (by decide)) (exec_ldHS ..)
  · exact scalarLoad_complete (by decide) (unsigned 2) (exec_ldHN ..)
  · exact scalarLoad_complete (f := fun x => (BitVec.ofNat 32 x).signExtend 64) (by decide) (loadValue_true · (by decide)) (exec_ldWS ..)
  · exact scalarLoad_complete (by decide) (unsigned 4) (exec_ldWN ..)
  · exact scalarLoad_complete (by decide) (unsigned 8) (exec_ldD ..)
  · exact scalarStore_complete (by decide) (exec_stB ..)
  · exact scalarStore_complete (by decide) (exec_stH ..)
  · exact scalarStore_complete (by decide) (exec_stW ..)
  · exact scalarStore_complete (by decide) (exec_stD ..)

/-! Delivery and sources. -/

theorem clearAnswered_eq (t : Strand) : t.clearAnswered = { t with answered := [] } := by
  unfold Strand.clearAnswered
  split
  · next none => rw [← List.isEmpty_iff.mp none]
  · rfl

theorem length_reads (s v : State) (imgs : List Vec) (plan : List (Nat × Loc)) : (s.reads v imgs plan).length = imgs.length :=
  length_putImgs ..

section
variable {imgs : List Vec} (one : imgs.length = 1) (t : Strand)
include one

theorem deliver_vecs_one {r : Nat} (small : r < 256) : t.deliver (.vecs [r]) imgs none = t.setVr r (imgs.headD 0) := by
  obtain ⟨v, rfl⟩ := List.length_eq_one_iff.mp one
  simp [Strand.deliver, Nat.mod_eq_of_lt small]

theorem deliver_queue_one (k : Nat) (m : Mask) :
    t.deliver (.queue k [m]) imgs none = t.pushq k { data := imgs.headD 0, mask := m } := by
  obtain ⟨v, rfl⟩ := List.length_eq_one_iff.mp one
  rfl
end

section
variable {t : Strand} {unit : EUnit} {k r : Nat}

theorem takeSources_of_reg (name : t.vname unit k d = .reg r) : takeSources unit [(k, d)] t = ([t.vr r], t) := by
  rw [takeSources, name]
  rfl

/-- What a pop gives depends on the data queues alone. -/
theorem popq_fst {t' : Strand} (same : t.dq = t'.dq) (k : Nat) : (t.popq k).1 = (t'.popq k).1 := by
  have queue : t.dataq k = t'.dataq k := congrArg (Sparse.get [] · k) same
  rw [Strand.popq, Strand.popq, queue]
  split <;> rfl

theorem takeSources_of_queue (name : t.vname unit k d = .queue r) :
    takeSources unit [(k, d)] t = ([(t.popq r).1.data], (t.popq r).2) := by
  rw [takeSources, name]
  rfl
end

/-! Vectors (R156 to R158). -/

theorem vecMisaligned_of_misaligned {t : Strand} {x y : Dword} (mis : ¬ (x.toNat % 64 = 0 ∧ y.toNat % 64 = 0))
    (active : vecElems t x y ≠ []) : vecMisaligned t x y = true := by
  simp only [vecMisaligned, Bool.and_eq_true, Bool.or_eq_true, Bool.not_eq_true', List.isEmpty_eq_false_iff]
  refine ⟨?_, active⟩
  rw [not_and_or, ← aligned_iff, ← aligned_iff] at mis
  simpa using mis

theorem vecMisaligned_of_aligned {t : Strand} {x y : Dword} (h : x.toNat % 64 = 0 ∧ y.toNat % 64 = 0 ∨ vecElems t x y = []) :
    vecMisaligned t x y = false := by
  rcases h with ⟨hx, hy⟩ | none
  · simp [vecMisaligned, aligned_iff.mpr hx, aligned_iff.mpr hy]
  · simp [vecMisaligned, none]

section
variable {va stride : Strand → Dword} {x y : Dword} (hx : va s.begun.cs = x) (hy : stride s.begun.cs = y)
include hx hy

/-- `vectorLoad` as R156 to R158 have it. -/
theorem vectorLoad_complete (run : exec i s = vectorLoad i c d va stride s) :
    let o := s.cs.unit.ordOf c
    let v := s.ready u o plan
    let es := vecElems s.cs x y
    let loads := fun (f : Strand → Strand) => exec i s = .next (s.loaded v o f) ∧ LoadsOnly u (s.loaded v o f) o plan
    (Issues i s → ¬ (x.toNat % 64 = 0 ∧ y.toNat % 64 = 0) → es ≠ [] → exec i s = .next (s.trapped i .misaligned x)) ∧
    (Issues i s → (x.toNat % 64 = 0 ∧ y.toNat % 64 = 0 ∨ es = []) → (es = [] ∨ RecordFree s o.cls es) → Reach s.begun .read es u plan →
      (∀ r, s.cs.vname s.cs.unit 19 d = .reg r → loads (fun t => t.setVr r ((s.reads v [mergeBase s.cs r] plan).headD 0))) ∧
      (∀ q, s.cs.vname s.cs.unit 19 d = .queue q →
        loads (fun t => t.pushq q { data := (s.reads v [0] plan).headD 0, mask := (s.cs.maskOf s.cs.unit).1 }))) := by
  intro o v es loads
  subst hx hy
  let q : Req := { kind := .load, elems := vecElems s.begun.cs (va s.begun.cs) (stride s.begun.cs), ord := s.begun.cs.unit.ordOf c }
  refine ⟨fun h mis active => exec_trap_of run h (if_pos (vecMisaligned_of_misaligned mis active)), fun h al free reach => ⟨?_, ?_⟩⟩
  · intro r name
    have named : s.begun.cs.vname s.begun.cs.unit 19 d = .reg r := name
    refine ⟨exec_load (q := { q with dest := .vecs [r], base := [mergeBase s.begun.cs r] }) (ordered := false) run h ?_ (g := id) (fun _ => rfl) rfl rfl free
      (fun e => nomatch e) rfl rfl reach (deliver_vecs_one (length_reads ..) _ (vname_reg_lt name)), loadsOnly_loaded⟩
    exact (if_neg (Bool.eq_false_iff.mp (vecMisaligned_of_aligned al))).trans (by rw [named]; rfl)
  · intro k name
    have named : s.begun.cs.vname s.begun.cs.unit 19 d = .queue k := name
    refine ⟨exec_load (q := { q with dest := .queue k [(s.begun.cs.maskOf s.begun.cs.unit).1], base := [0] })
      (ordered := false) run h ?_ (g := id)
      (fun _ => rfl) rfl rfl free (fun e => nomatch e) rfl rfl reach (deliver_queue_one (length_reads ..) _ k _), loadsOnly_loaded⟩
    exact (if_neg (Bool.eq_false_iff.mp (vecMisaligned_of_aligned al))).trans (by rw [named]; rfl)

/-- `vectorStore` as R156 to R158 have it. -/
theorem vectorStore_complete (run : exec i s = vectorStore i c d va stride s) :
    let o := s.cs.unit.ordOf c
    let v := s.ready u o plan
    let es := vecElems s.cs x y
    let stores := fun (data : Vec) (f : Strand → Strand) =>
      exec i s = .next (s.stored v o [data] plan f) ∧ StoresOnly u (s.stored v o [data] plan f) o [data] plan
    (Issues i s → ¬ (x.toNat % 64 = 0 ∧ y.toNat % 64 = 0) → es ≠ [] → exec i s = .next (s.trapped i .misaligned x)) ∧
    (Issues i s → (x.toNat % 64 = 0 ∧ y.toNat % 64 = 0 ∨ es = []) → (es = [] ∨ RecordFree s o.cls es) → Reach s.begun .write es u plan →
      (∀ r, s.cs.vname s.cs.unit 19 d = .reg r → stores (s.cs.vr r) id) ∧
      (∀ k, s.cs.vname s.cs.unit 19 d = .queue k → stores (s.cs.popq k).1.data (fun t => (t.popq k).2))) := by
  intro o v es stores
  subst hx hy
  let q : Req := { kind := .store, write := true, elems := vecElems s.begun.cs (va s.begun.cs) (stride s.begun.cs), ord := s.begun.cs.unit.ordOf c
                   data := [(takeSources s.begun.cs.unit [(19, d)] s.begun.cs).1.headD 0] }
  refine ⟨fun h mis active => exec_trap_of run h (if_pos (vecMisaligned_of_misaligned mis active)), fun h al free reach => ⟨?_, ?_⟩⟩
  · intro r name
    refine ⟨exec_store (q := q) run h (if_neg (Bool.eq_false_iff.mp (vecMisaligned_of_aligned al))) (fun _ => rfl) rfl rfl free
      (fun e => nomatch e) rfl rfl ?_ rfl reach ?_, storesOnly_stored⟩
    · exact congrArg (fun p : List Vec × Strand => [p.1.headD 0]) (takeSources_of_reg (t := s.begun.cs) name)
    · rw [clearAnswered_eq]
      exact congrArg Prod.snd (takeSources_of_reg (t := { s.begun.cs with answered := [] }) name)
  · intro k name
    refine ⟨exec_store (q := q) run h (if_neg (Bool.eq_false_iff.mp (vecMisaligned_of_aligned al))) (fun _ => rfl) rfl rfl free
      (fun e => nomatch e) rfl rfl ?_ rfl reach ?_, storesOnly_stored⟩
    · exact (congrArg (fun p : List Vec × Strand => [p.1.headD 0]) (takeSources_of_queue (t := s.begun.cs) name)).trans
        (congrArg (fun e : QEntry => [e.data]) (popq_fst (t := s.begun.cs) (t' := s.cs) rfl k))
    · rw [clearAnswered_eq]
      exact congrArg Prod.snd (takeSources_of_queue (t := { s.begun.cs with answered := [] }) name)
end

/-! Masks (R159) and descriptors (R163). -/

section
variable {n : Nat} {kind : AccKind} (own : kind ≠ .fabric)
include own

/-- `blockLoad` moves `n` bytes into `dest`. -/
theorem blockLoad_complete {dest : Dest} {put : Strand → Vec → Strand}
    (delivers : ∀ t : Strand, ∀ imgs, t.deliver dest imgs none = put t (imgs.headD 0))
    (run : exec i s = blockLoad i c a imm n kind dest s) :
    let o := s.cs.unit.ordOf c
    let v := s.ready u o plan
    let va := s.cs.sc a + BitVec.ofInt 64 (s.cs.unit.immS imm * n)
    let es : List Elem := [⟨0, va, n⟩]
    let t := s.loaded v o (fun t => put t ((s.reads v [0] plan).headD 0))
    (Issues i s → va.toNat % n ≠ 0 → exec i s = .next (s.trapped i .misaligned va)) ∧
    (Issues i s → va.toNat % n = 0 → (es = [] ∨ RecordFree s o.cls es) → Reach s.begun .read es u plan →
      exec i s = .next t ∧ LoadsOnly u t o plan) := by
  intro o v va es t
  refine ⟨fun h mis => exec_trap_of run h (alignedReq_of_misaligned mis _), fun h al free reach => ⟨?_, loadsOnly_loaded⟩⟩
  exact exec_load run h (alignedReq_of_aligned al _) (g := id) (fun _ => rfl) rfl rfl free own rfl rfl reach (delivers _ _)

/-- `blockStore` moves `n` bytes out of the strand. -/
theorem blockStore_complete {data : Strand → Vec} {x : Vec} (content : data s.begun.cs = x)
    (run : exec i s = blockStore i c a imm n kind data s) :
    let o := s.cs.unit.ordOf c
    let va := s.cs.sc a + BitVec.ofInt 64 (s.cs.unit.immS imm * n)
    let es : List Elem := [⟨0, va, n⟩]
    let t := s.stored (s.ready u o plan) o [x] plan
    (Issues i s → va.toNat % n ≠ 0 → exec i s = .next (s.trapped i .misaligned va)) ∧
    (Issues i s → va.toNat % n = 0 → (es = [] ∨ RecordFree s o.cls es) → Reach s.begun .write es u plan →
      exec i s = .next t ∧ StoresOnly u t o [x] plan) := by
  intro o va es t
  refine ⟨fun h mis => exec_trap_of run h (alignedReq_of_misaligned mis _), fun h al free reach => ⟨?_, storesOnly_stored⟩⟩
  exact exec_store run h (alignedReq_of_aligned al _) (g := id) (fun _ => rfl) rfl rfl free own rfl rfl (congrArg (fun v => [v]) content) rfl
    reach rfl
end

/-- `dset` replaces one field of 64 bits (R163). -/
theorem dset_eq_setField (x : Desc) (y : Dword) (k : BitVec 3) :
    (x &&& ~~~((BitVec.ofNat 512 (2 ^ 64 - 1)) <<< (64 * k.toNat))) ||| ((y.setWidth 512) <<< (64 * k.toNat)) =
      setField x (8 * k.toNat) 8 y.toNat := by
  rw [setField, Nat.mod_eq_of_lt y.isLt, show 8 * (8 * k.toNat) = 64 * k.toNat by omega, BitVec.ofNat_toNat]

theorem getLsbD_dset (x : Desc) (y : Dword) (k : BitVec 3) {n : Nat} (small : n < 512) :
    (setField x (8 * k.toNat) 8 y.toNat).getLsbD n =
      if 64 * k.toNat ≤ n ∧ n < 64 * k.toNat + 64 then y.getLsbD (n - 64 * k.toNat) else x.getLsbD n := by
  rw [getLsbD_setField, show 8 * (8 * k.toNat) = 64 * k.toNat by omega]
  simp only [small, decide_true, Bool.true_and]
  rfl

/-- Settles O16: a vector word differs in where its lines lie, and a move of a mask or a descriptor in its size. -/
theorem vectorMaskAndDescriptorMovesComplete : Obligations.VectorMaskAndDescriptorMovesComplete := by
  intro s c d a i b m k l u plan o v free stores loads vload vstore at'
  have ldM := blockLoad_complete (u := u) (plan := plan) (kind := .load) (put := fun t v => t.setMr m.toNat (v.setWidth 1024))
    (fun e => nomatch e) (fun _ _ => rfl) (exec_ldM c m a i s)
  have stM := blockStore_complete (u := u) (plan := plan) (kind := .store) (fun e => nomatch e) rfl (exec_stM c m a i s)
  have dld := blockLoad_complete (u := u) (plan := plan) (kind := .desc) (put := fun t v => t.setDr m.toNat (v.setWidth 512))
    (fun e => nomatch e) (fun _ _ => rfl) (exec_dld c m a i s)
  have dst := blockStore_complete (u := u) (plan := plan) (kind := .desc) (fun e => nomatch e) rfl (exec_dst c m a i s)
  refine ⟨vectorLoad_complete rfl rfl (exec_ldV ..), vectorLoad_complete rfl rfl (exec_ldVs ..), vectorStore_complete rfl rfl (exec_stV ..),
    vectorStore_complete rfl rfl (exec_stVs ..), ldM.1, ldM.2, stM.1, stM.2, dld.1, dld.2, dst.1, dst.2, fun h => ?_, fun h => ?_⟩
  · exact ⟨_, exec_did (exec_dset ..) h rfl (congrArg (Strand.setDr _ m.toNat) (dset_eq_setField ..)),
      fun n small => getLsbD_dset _ _ k small⟩
  · exact exec_ok (exec_pref ..) h rfl

end Sys2Proof.Machine
end

section
/-! Gathers, scatters and stream fetches (10_access_instructions.md R160 to R167), with the obligation O17. -/

namespace Sys2Proof.Machine

variable {s u : State} {plan : List (Nat × Loc)} {i : Instr} {c n : BitVec 4} {d a b : BitVec 6}

/-! Sources. -/

theorem popq_setHeld (t : Strand) (h : Bool) (q : Nat) : (t.setHeld h).popq q = ((t.popq q).1, (t.popq q).2.setHeld h) := by
  have queue : (t.setHeld h).dataq q = t.dataq q := rfl
  rw [Strand.popq, Strand.popq, queue]
  split <;> rfl

/-- Whether a word has to wait does not decide what its sources give. -/
theorem takeSources_setHeld (unit : EUnit) (fs : List (Nat × BitVec 6)) (t : Strand) (h : Bool) :
    takeSources unit fs (t.setHeld h) = ((takeSources unit fs t).1, (takeSources unit fs t).2.setHeld h) := by
  induction fs generalizing t with
  | nil => rfl
  | cons f fs ih =>
    obtain ⟨k, x⟩ := f
    have named : (t.setHeld h).vname unit k x = t.vname unit k x := rfl
    rw [takeSources, takeSources, named]
    split
    · rw [ih]; rfl
    · rw [popq_setHeld]
      dsimp only
      rw [ih]

theorem takeSources_begun (s : State) (fs : List (Nat × BitVec 6)) :
    (takeSources s.begun.cs.unit fs s.begun.cs).1 = (takeSources s.cs.unit fs s.cs).1 :=
  (congrArg Prod.fst (takeSources_setHeld s.cs.unit fs s.cs false) :)

/-! Gathers and scatters (R166). -/

section
variable {size : Nat} {q : Req} {setup : State → State}

theorem gathAct_of_aligned (al : ∀ e ∈ q.elems, e.va.toNat % size = 0) : gathAct s size q setup = accReq s q false setup := by
  have none : q.elems.find? (fun e => !aligned e.va size) = none :=
    List.find?_eq_none.mpr fun e he => by simp [aligned_iff.mpr (al e he)]
  rw [gathAct, none]

/-- Nothing comes before a first element that is misaligned. -/
theorem gathAct_of_misaligned {e : Elem} {l : List Elem} (elems : q.elems = e :: l) (mis : e.va.toNat % size ≠ 0) :
    gathAct s size q setup = .trap .misaligned e.va := by
  have no : aligned e.va size = false := Bool.eq_false_iff.mpr fun al => mis (aligned_iff.mp al)
  have first : (e :: l).find? (fun e => !aligned e.va size) = some e := by simp [no]
  rw [gathAct, elems, first]
  dsimp only
  rw [List.takeWhile_cons, if_neg (by simp [no])]
  rfl

/-- `gather` as R166 has it. -/
theorem gather_complete (run : exec i s = gather i c d a b size s) :
    let idx := (takeSources s.cs.unit [(17, b)] s.cs).1.headD 0
    let pop := fun (t : Strand) => (takeSources s.cs.unit [(17, b)] t).2
    let o := s.cs.unit.ordOf c
    let v := s.ready u o plan
    let loads := fun (f : Strand → Strand) => exec i s = .next (s.loaded v o f) ∧ LoadsOnly u (s.loaded v o f) o plan
    let es := gathElems s.cs (s.cs.sc a) idx size
    (Issues i s → (∀ e ∈ es, e.va.toNat % size = 0) → (es = [] ∨ RecordFree s o.cls es) → Reach s.begun .read es u plan →
      (∀ r, s.cs.vname s.cs.unit 19 d = .reg r →
        loads (fun t => t.setVr r ((s.reads v [gathBase s.cs r size] plan).headD 0) |> pop)) ∧
      (∀ q, s.cs.vname s.cs.unit 19 d = .queue q → loads (fun t => t.pushq q
        { data := (s.reads v [0] plan).headD 0, mask := (s.cs.maskOf s.cs.unit).1 &&& bitRun 0 128 } |> pop))) ∧
    (Issues i s → ∀ e l, es = e :: l → e.va.toNat % size ≠ 0 → exec i s = .next (s.trapped i .misaligned e.va)) := by
  intro idx pop o v loads es
  let q : Req := {
    kind := .gather, ord := s.begun.cs.unit.ordOf c
    elems := gathElems s.begun.cs (s.begun.cs.sc a) ((takeSources s.begun.cs.unit [(17, b)] s.begun.cs).1.headD 0) size }
  have elems : q.elems = es := by
    show gathElems s.begun.cs _ ((takeSources s.begun.cs.unit [(17, b)] s.begun.cs).1.headD 0) size = _
    rw [takeSources_begun]
    rfl
  refine ⟨fun h al free reach => ⟨fun r name => ?_, fun k name => ?_⟩, fun h e l first mis => ?_⟩
  · have named : s.begun.cs.vname s.begun.cs.unit 19 d = .reg r := name
    refine ⟨exec_load (q := { q with dest := .vecs [r], base := [gathBase s.begun.cs r size] })
      (g := fun t => (takeSources t.unit [(17, b)] t).2) (ordered := false) run h ?_ (fun _ => rfl)
      rfl elems free (fun e => nomatch e) rfl rfl reach ?_, loadsOnly_loaded⟩
    · refine Eq.trans ?_ (gathAct_of_aligned (size := size) (by rw [elems]; exact al))
      dsimp only
      rw [named]
    · dsimp only
      rw [deliver_vecs_one (length_reads ..) _ (vname_reg_lt name), clearAnswered_eq]
      rfl
  · have named : s.begun.cs.vname s.begun.cs.unit 19 d = .queue k := name
    refine ⟨exec_load (q := { q with dest := .queue k [(s.begun.cs.maskOf s.begun.cs.unit).1 &&& bitRun 0 128], base := [0] })
      (g := fun t => (takeSources t.unit [(17, b)] t).2) (ordered := false) run h ?_ (fun _ => rfl) rfl elems free
      (fun e => nomatch e) rfl rfl reach ?_, loadsOnly_loaded⟩
    · refine Eq.trans ?_ (gathAct_of_aligned (size := size) (by rw [elems]; exact al))
      dsimp only
      rw [named]
    · dsimp only
      rw [deliver_queue_one (length_reads ..), clearAnswered_eq]
      rfl
  · refine exec_trap_of run h ?_
    dsimp only
    split
    all_goals exact gathAct_of_misaligned (elems.trans first) mis

/-- `scatter` as R166 has it. -/
theorem scatter_complete (run : exec i s = scatter i c d a b size s) :
    let src := (takeSources s.cs.unit [(19, d), (17, b)] s.cs).1
    let o := s.cs.unit.ordOf c
    let es := gathElems s.cs (s.cs.sc a) ((src[1]?).getD 0) size
    (Issues i s → (∀ e ∈ es, e.va.toNat % size = 0) → (es = [] ∨ RecordFree s o.cls es) → Reach s.begun .write es u plan →
      let t := s.stored (s.ready u o plan) o [src.headD 0] plan (fun t => (takeSources s.cs.unit [(19, d), (17, b)] t).2)
      exec i s = .next t ∧ StoresOnly u t o [src.headD 0] plan) ∧
    (Issues i s → ∀ e l, es = e :: l → e.va.toNat % size ≠ 0 → exec i s = .next (s.trapped i .misaligned e.va)) := by
  intro src o es
  let vs := (takeSources s.begun.cs.unit [(19, d), (17, b)] s.begun.cs).1
  have sources : vs = src := takeSources_begun s _
  let q : Req := {
    kind := .scatter, write := true, ord := s.begun.cs.unit.ordOf c, data := [vs.headD 0]
    elems := gathElems s.begun.cs (s.begun.cs.sc a) ((vs[1]?).getD 0) size }
  have elems : q.elems = es := congrArg (fun l : List Vec => gathElems s.cs (s.cs.sc a) ((l[1]?).getD 0) size) sources
  refine ⟨fun h al free reach => ⟨?_, storesOnly_stored⟩, fun h e l first mis => exec_trap_of run h (gathAct_of_misaligned (q := q) (l := l) ?_ mis)⟩
  · refine exec_store (q := q) (ordered := false) (g := fun t => (takeSources t.unit [(19, d), (17, b)] t).2) run h
      (gathAct_of_aligned (q := q) (by rw [elems]; exact al)) (fun _ => rfl) rfl elems free (fun e => nomatch e) rfl rfl
      (congrArg (fun l : List Vec => [l.headD 0]) sources) rfl reach ?_
    rw [clearAnswered_eq]
    rfl
  · exact elems.trans first
end

/-! Stream fetches (R160 to R164). -/

/-- The entries that a load of several images pushes. -/
theorem deliver_queue (t : Strand) (k : Nat) (masks : List Mask) (imgs : List Vec) :
    t.deliver (.queue k masks) imgs none =
      (masks.zip imgs).foldl (fun t e => t.pushq k { data := e.2, mask := e.1 }) t := rfl

theorem dataq_pushq (t : Strand) (k : Nat) (e : QEntry) : (t.pushq k e).dataq k = t.dataq k ++ [e] :=
  Sparse.get_set_self_of_ne _ _ (List.append_ne_nil_of_right_ne_nil _ (List.cons_ne_nil _ _))

/-- Pushes append their entries, and leave the registers alone. -/
theorem pushes_spec (k : Nat) (l : List (Mask × Vec)) (t : Strand) :
    (l.foldl (fun t e => t.pushq k { data := e.2, mask := e.1 }) t).dataq k = t.dataq k ++ l.map (fun e => { data := e.2, mask := e.1 }) ∧
    (l.foldl (fun t e => t.pushq k { data := e.2, mask := e.1 }) t).d = t.d := by
  induction l generalizing t with
  | nil => exact ⟨(List.append_nil _).symm, rfl⟩
  | cons e l ih =>
    obtain ⟨queue, regs⟩ := ih (t.pushq k { data := e.2, mask := e.1 })
    rw [List.foldl_cons]
    exact ⟨by rw [queue, dataq_pushq, List.append_assoc]; rfl, regs⟩

/-- A valid descriptor has rows in its chunks, whatever its POS: it is not zero. -/
theorem setPos_ne_zero {x : Desc} (ok : descOk x = true) (k : Nat) : setField x 0x38 4 k ≠ 0 := by
  intro zero
  have rows : dTROWS (setField x 0x38 4 k) = dTROWS x := recField_setField_other _ _ (by decide)
  have some_ : 1 ≤ dTROWS x := by
    simp only [descOk, Bool.and_eq_true, decide_eq_true_eq] at ok
    obtain ⟨⟨⟨⟨⟨⟨⟨-, rows⟩, -⟩, -⟩, -⟩, -⟩, -⟩, -⟩ := ok
    exact rows
  rw [← rows, zero] at some_
  rw [dTROWS, recField_zero] at some_
  exact absurd some_ (by decide)

theorem loaded_cs (s v : State) (o : AccOrd) (f : Strand → Strand) : (s.loaded v o f).cs = (f v.cs.clearAnswered).signal s.cs.unit.sig := by
  show (f (orderDone v s.acc o).cs.clearAnswered).signal _ = _
  rw [orderDone_cs]

/-- The strand with the POS of descriptor `n` moved on, where the word names no chunk (R164). -/
def Strand.posNext (t : Strand) (n : Nat) (x : Desc) (b : BitVec 6) (k : Nat) : Strand :=
  if b = 0 then t.setDr n (setField x 0x38 4 (k + 1)) else t

section
variable {x : Desc} (named : s.cs.dr n.toNat = x) {k : Nat} (chunk : (if b = 0 then dPOS x else (s.cs.sc b).toNat) = k)
  (h : Issues (.sfetch c d n b) s)
include named h

theorem exec_sfetch_of_bad (bad : descOk x = false) :
    exec (.sfetch c d n b) s = .next (s.trapped (.sfetch c d n b) .illegalField (n.setWidth 64)) := by
  subst named
  exact exec_trap_of (exec_sfetch ..) h (if_pos (show (!descOk (s.cs.dr n.toNat)) = true by rw [bad]; rfl))

include chunk

theorem exec_sfetch_of_past (ok : descOk x = true) (past : chunkTotal x ≤ k) :
    exec (.sfetch c d n b) s = .next (s.trapped (.sfetch c d n b) .bounds (BitVec.ofNat 64 k)) := by
  subst named chunk
  exact exec_trap_of (exec_sfetch ..) h ((if_neg (show ¬ (!descOk (s.cs.dr n.toNat)) = true by rw [ok]; decide)).trans (if_pos past))

/-- A chunk of the stream is pushed with its masks (R164). -/
theorem exec_sfetch_of_chunk (ok : descOk x = true) (within : k < chunkTotal x) (room : chunkEntries x ≤ s.cs.qfree (d.toNat - 56)) :
    let o := s.cs.unit.ordOf c
    let q := chunkReq x (chunkRows x k) .sfetch
    let v := s.ready u o plan
    (q.elems = [] ∨ RecordFree s o.cls q.elems) → Reach s.begun .read q.elems u plan →
      exec (.sfetch c d n b) s = .next (s.loaded v o (fun t =>
        (t.deliver (.queue (d.toNat - 56) (chunkMasks x (chunkRows x k))) (q.final (s.reads v q.start plan)) none).posNext n.toNat x b k)) := by
  intro o q v free reach
  subst named
  refine exec_load (ordered := false)
    (q := { q with dest := .queue (d.toNat - 56) (chunkMasks (s.cs.dr n.toNat) (chunkRows (s.cs.dr n.toNat) k)), ord := o })
    (setup := fun v => if b = 0 then v.onCs (fun t => t.setDr n.toNat (setField (s.cs.dr n.toNat) 0x38 4 (k + 1))) else v)
    (g := fun t => t.posNext n.toNat (s.cs.dr n.toNat) b k) (exec_sfetch ..) h ?_ (fun v => ?_) rfl rfl free (fun e => nomatch e) rfl rfl reach rfl
  · subst chunk
    exact (if_neg (show ¬ (!descOk (s.cs.dr n.toNat)) = true by rw [ok]; decide)).trans
      ((if_neg (Nat.not_le.mpr within)).trans (if_neg (Nat.not_lt.mpr room)))
  · unfold Strand.posNext
    split <;> rfl
end

/-- What the strand of a chunk's fetch holds afterwards. -/
theorem sfetch_strand {t : Strand} {x : Desc} (ok : descOk x = true) (q : Nat) (masks : List Mask) (imgs : List Vec) (m k : Nat)
    (sig : Option (BitVec 4)) :
    let f := ((t.deliver (.queue q masks) imgs none).posNext m x b k).signal sig
    f.dataq q = t.dataq q ++ (masks.zip imgs).map (fun e => { data := e.2, mask := e.1 }) ∧ (b ≠ 0 → f.d = t.d) ∧
    (b = 0 → f.dr m = setField x 0x38 4 (k + 1)) := by
  intro f
  obtain ⟨queue, regs⟩ := pushes_spec q (masks.zip imgs) t
  rw [← deliver_queue] at queue regs
  have frame : f.dq = ((t.deliver (.queue q masks) imgs none).posNext m x b k).dq ∧
      f.d = ((t.deliver (.queue q masks) imgs none).posNext m x b k).d := by
    show (Strand.signal _ sig).dq = _ ∧ (Strand.signal _ sig).d = _
    cases sig <;> exact ⟨rfl, rfl⟩
  refine ⟨?_, fun named => ?_, fun own => ?_⟩
  · rw [← queue, Strand.dataq, frame.1, Strand.posNext]
    split <;> rfl
  · rw [frame.2, Strand.posNext, if_neg named, regs]
  · rw [Strand.dr, frame.2, Strand.posNext, if_pos own]
    exact Sparse.get_set_self_of_ne _ _ (setPos_ne_zero ok _)

/-- `sfetch` as R164 has it. -/
theorem sfetch_complete {x : Desc} (named : s.cs.dr n.toNat = x) (h : Issues (.sfetch c d n b) s) (ok : descOk x = true) :
    let o := s.cs.unit.ordOf c
    let v := s.ready u o plan
    let k := if b = 0 then dPOS x else (s.cs.sc b).toNat
    let q := chunkReq x (chunkRows x k) .sfetch
    (chunkTotal x ≤ k → exec (.sfetch c d n b) s = .next (s.trapped (.sfetch c d n b) .bounds (BitVec.ofNat 64 k))) ∧
    (k < chunkTotal x → chunkEntries x ≤ s.cs.qfree (d.toNat - 56) → (q.elems = [] ∨ RecordFree s o.cls q.elems) →
      Reach s.begun .read q.elems u plan → ∃ t : State, exec (.sfetch c d n b) s = .next t ∧
        t.cs.dataq (d.toNat - 56) = u.cs.dataq (d.toNat - 56) ++ ((chunkMasks x (chunkRows x k)).zip (q.final (s.reads v q.start plan))).map
          (fun e => { data := e.2, mask := e.1 }) ∧
        LoadsOnly u t o plan ∧ (b ≠ 0 → t.cs.d = u.cs.d) ∧ (b = 0 → dPOS (t.cs.dr n.toNat) = (k + 1) % 2 ^ 32 ∧
          dBASE (t.cs.dr n.toNat) = dBASE x ∧ dCOLS (t.cs.dr n.toNat) = dCOLS x)) := by
  intro o v k q
  refine ⟨exec_sfetch_of_past named rfl h ok, fun within room free reach =>
    ⟨_, exec_sfetch_of_chunk named rfl h ok within room free reach, ?_⟩⟩
  obtain ⟨queue, other, own⟩ := sfetch_strand (t := u.cs.clearAnswered) (b := b) ok (d.toNat - 56) (chunkMasks x (chunkRows x k))
    (q.final (s.reads v q.start plan)) n.toNat k s.cs.unit.sig
  rw [loaded_cs, ready_cs]
  rw [clearAnswered_eq] at queue other own ⊢
  refine ⟨queue, loadsOnly_loaded, other, fun none => ?_⟩
  rw [own none]
  exact ⟨recField_setField_same _ _ (by decide), recField_setField_other _ _ (by decide), recField_setField_other _ _ (by decide)⟩

/-! Row gathers (R167). -/

theorem foldl_setVr_unit (l : List (Nat × Vec)) (t : Strand) : (l.foldl (fun t e => t.setVr (e.1 % 256) e.2) t).unit = t.unit := by
  induction l generalizing t with
  | nil => rfl
  | cons e l ih => exact ih _

/-- The registers that an unmasked gather of rows writes lie below NV and are named directly: it reads every active row into them. -/
theorem gathbGo_of_reg {s : State} {t : Strand} {x : Desc} {idx : Vec} {act : List Nat} {zeroing : Bool} {r : Nat}
    (name : t.vname t.unit 19 d = .reg r) (unmasked : t.unit.ext 4 = none) (last : r + chunkEntries x ≤ 56)
    (regs : 56 ≤ s.csTeam.hdr.nv) :
    execGathb.go c d b s t x idx act [] zeroing =
      accReq s { chunkReq x (act.map (fun j => (⟨indexOf idx j, 0, j * dTCOLS x⟩ : CRow))) .gathb with
        dest := .vecs ((List.range (chunkEntries x)).map (fun j => (r + j) % 256)), ord := t.unit.ordOf c } false
        (fun s => s.onCs (fun t => (takeSources t.unit [(17, b)] t).2)) := by
  have all : act.filter (fun j => !([] : List Nat).contains j) = act := List.filter_eq_self.mpr fun j _ => rfl
  have pos : 0 < chunkEntries x := by unfold chunkEntries; omega
  have below : ((List.range (chunkEntries x)).map (fun j => (r + j) % 256)).any (fun k => s.csTeam.hdr.nv ≤ k) = false := by
    simp only [List.any_eq_false, List.mem_map, List.mem_range, decide_eq_true_eq]
    rintro k ⟨j, hj, rfl⟩
    omega
  have direct : decide (56 ≤ r + chunkEntries x - 1) = false := decide_eq_false (by omega)
  unfold execGathb.go
  rw [name, all]
  dsimp only
  rw [below, direct, Bool.and_false, Bool.or_self, if_neg Bool.false_ne_true, unmasked]
  rfl

section
variable {tr : BitVec 1} {x : Desc} (named : s.cs.dr n.toNat = x) (h : Issues (.gathb c d tr n b) s)
include named h

theorem exec_gathb_of_bad (bad : descOk x = false) :
    exec (.gathb c d tr n b) s = .next (s.trapped (.gathb c d tr n b) .illegalField (n.setWidth 64)) := by
  subst named
  exact exec_trap_of (exec_gathb ..) h (if_pos (show (!descOk (s.cs.dr n.toNat)) = true by rw [bad]; rfl))

variable (ok : descOk x = true) {idx : Vec} (index : (takeSources s.cs.unit [(17, b)] s.cs).1.headD 0 = idx) {act : List Nat}
  (rows : (List.range (dTROWS x)).filter (fun j => (s.cs.maskOf s.cs.unit).1.getLsbD j) = act)
include ok index rows

theorem exec_gathb_of_bounds {j : Nat} {l : List Nat} (out : act.filter (fun j => dROWS x ≤ indexOf idx j) = j :: l) (trap : tr = 1) :
    exec (.gathb c d tr n b) s = .next (s.trapped (.gathb c d tr n b) .bounds (BitVec.ofNat 64 (indexOf idx j))) := by
  subst named index rows trap
  refine exec_trap_of (exec_gathb ..) h ((if_neg (show ¬ (!descOk (s.cs.dr n.toNat)) = true by rw [ok]; decide)).trans ?_)
  rw [← takeSources_begun] at out ⊢
  dsimp only
  erw [out]
  rfl

/-- The rows of a gather without bounds faults are read whole (R167). -/
theorem exec_gathb_of_rows (within : ∀ j ∈ act, indexOf idx j < dROWS x) {r : Nat} (name : s.cs.vname s.cs.unit 19 d = .reg r)
    (unmasked : s.cs.unit.ext 4 = none) (last : r + chunkEntries x ≤ 56) (regs : 56 ≤ s.csTeam.hdr.nv) :
    let o := s.cs.unit.ordOf c
    let q := chunkReq x (act.map (fun j => (⟨indexOf idx j, 0, j * dTCOLS x⟩ : CRow))) .gathb
    let v := s.ready u o plan
    (q.elems = [] ∨ RecordFree s o.cls q.elems) → Reach s.begun .read q.elems u plan →
      exec (.gathb c d tr n b) s = .next (s.loaded v o (fun t =>
        (takeSources s.cs.unit [(17, b)] ((((List.range (chunkEntries x)).map (fun j => (r + j) % 256)).zip
          (q.final (s.reads v q.start plan))).foldl (fun t e => t.setVr (e.1 % 256) e.2) t)).2)) := by
  intro o q v free reach
  have named' : s.begun.cs.vname s.begun.cs.unit 19 d = .reg r := name
  refine exec_load (q := { q with dest := .vecs ((List.range (chunkEntries x)).map (fun j => (r + j) % 256)), ord := o }) (ordered := false)
    (g := fun t => (takeSources t.unit [(17, b)] t).2) (exec_gathb ..) h ?_ (fun _ => rfl) rfl rfl free (fun e => nomatch e) rfl rfl reach ?_
  · subst named index rows
    refine (if_neg (show ¬ (!descOk (s.cs.dr n.toNat)) = true by rw [ok]; decide)).trans ?_
    have none : ((List.range (dTROWS (s.cs.dr n.toNat))).filter (fun j => (s.cs.maskOf s.cs.unit).1.getLsbD j)).filter
        (fun j => dROWS (s.cs.dr n.toNat) ≤ indexOf ((takeSources s.cs.unit [(17, b)] s.cs).1.headD 0) j) = [] :=
      List.filter_eq_nil_iff.mpr fun j hj => by simpa only [decide_eq_true_eq, Nat.not_le] using within j hj
    refine Eq.trans ?_ (gathbGo_of_reg (t := s.begun.cs) (zeroing := (s.begun.cs.maskOf s.begun.cs.unit).2) named' unmasked last regs)
    rw [← takeSources_begun] at none ⊢
    dsimp only
    erw [none]
    rfl
  · rw [clearAnswered_eq]
    show (takeSources (Strand.unit (List.foldl _ _ _)) [(17, b)] _).2 = _
    rw [foldl_setVr_unit]
    rfl
end

/-- Settles O17: each word is its request, for the elements, the chunk or the rows that it names. -/
theorem gatherScatterAndStreamWordsComplete : Obligations.GatherScatterAndStreamWordsComplete := by
  intro s c d a b n tr u plan x idx pop o v free loads gath scat
  refine ⟨gather_complete (exec_gathB ..), gather_complete (exec_gathH ..), gather_complete (exec_gathW ..), scatter_complete (exec_scatB ..),
    scatter_complete (exec_scatH ..), scatter_complete (exec_scatW ..), exec_sfetch_of_bad rfl, sfetch_complete rfl, exec_gathb_of_bad rfl,
    fun h ok => ⟨fun j l out trap => exec_gathb_of_bounds rfl h ok rfl rfl out trap, fun within free reach r name unmasked direct last regs => ?_⟩⟩
  exact ⟨exec_gathb_of_rows rfl h ok rfl rfl within name unmasked last regs free reach, loadsOnly_loaded⟩

end Sys2Proof.Machine
end

section
/-! Ring words (10_access_instructions.md R168 to R171). -/

namespace Sys2Proof.Machine

/-! Marks and counts of a header (R169, R171). -/

theorem advance_of_clear {c m : Nat} (clear : m / 2 ^ (c % 64) % 2 = 0) (n : Nat) : advance n c m = (c, m) := by
  cases n with
  | zero => rfl
  | succ n => rw [advance, if_neg (by omega)]

theorem advance_bounds (n c m : Nat) : c ≤ (advance n c m).1 ∧ (advance n c m).1 ≤ c + n := by
  induction n generalizing c m with
  | zero => exact ⟨Nat.le_refl _, Nat.le_refl _⟩
  | succ n ih =>
    unfold advance
    split
    · obtain ⟨low, high⟩ := ih (c + 1) (m - 2 ^ (c % 64))
      omega
    · dsimp only
      omega

/-- A count whose slot is marked moves. -/
theorem advance_of_set {c m n : Nat} (marked : m / 2 ^ (c % 64) % 2 = 1) (some_ : 0 < n) :
    c < (advance n c m).1 ∧ (advance n c m).1 ≤ c + n := by
  obtain ⟨n, rfl⟩ := Nat.exists_eq_add_of_lt some_
  rw [Nat.zero_add, advance, if_pos marked]
  obtain ⟨low, high⟩ := advance_bounds n (c + 1) (m - 2 ^ (c % 64))
  omega

theorem mark_here {m i : Nat} (clear : m / 2 ^ i % 2 = 0) : (m + 2 ^ i) / 2 ^ i % 2 = 1 := by
  rw [Nat.add_div_right _ (Nat.two_pow_pos i)]
  omega

/-- A mark set in a map leaves the others. -/
theorem mark_other {m i j : Nat} (clear : m / 2 ^ i % 2 = 0) (other : i ≠ j) : (m + 2 ^ i) / 2 ^ j % 2 = m / 2 ^ j % 2 := by
  rcases Nat.lt_or_gt_of_ne other with below | above
  · obtain ⟨d, rfl⟩ := Nat.exists_eq_add_of_lt below
    have power : 2 ^ (i + d + 1) = 2 ^ i * 2 * 2 ^ d := by ring
    have noCarry : (m / 2 ^ i + 1) / 2 = m / 2 ^ i / 2 := by omega
    rw [power, ← Nat.div_div_eq_div_mul, ← Nat.div_div_eq_div_mul, ← Nat.div_div_eq_div_mul, ← Nat.div_div_eq_div_mul,
      Nat.add_div_right _ (Nat.two_pow_pos i), noCarry]
  · obtain ⟨d, rfl⟩ := Nat.exists_eq_add_of_lt above
    have power : 2 ^ (j + d + 1) = 2 ^ j * (2 * 2 ^ d) := by ring
    rw [power, Nat.add_mul_div_left _ _ (Nat.two_pow_pos j)]
    omega

theorem publish_of_fits {h : Desc} {k : Nat} (fits : (hTAIL h ≤ k && k < hPCLAIM h && hPUBMAP h / 2 ^ (k % 64) % 2 = 0) = true) :
    publish h k = some (setField (setField h 0x18 8 (advance 64 (hTAIL h) (hPUBMAP h + 2 ^ (k % 64))).1) 0x30 8
      (advance 64 (hTAIL h) (hPUBMAP h + 2 ^ (k % 64))).2) := if_pos fits

/-- What `publish` has checked, and where TAIL is then. -/
theorem publish_spec {h h' : Desc} {k : Nat} (p : publish h k = some h') :
    hTAIL h ≤ k ∧ k < hPCLAIM h ∧ hPUBMAP h / 2 ^ (k % 64) % 2 = 0 ∧
      hTAIL h' = (advance 64 (hTAIL h) (hPUBMAP h + 2 ^ (k % 64))).1 % 2 ^ 64 := by
  by_cases fits : (hTAIL h ≤ k && k < hPCLAIM h && hPUBMAP h / 2 ^ (k % 64) % 2 = 0) = true
  · rw [publish_of_fits fits] at p
    simp only [Bool.and_eq_true, decide_eq_true_eq] at fits
    obtain ⟨⟨low, high⟩, clear⟩ := fits
    refine ⟨low, high, clear, ?_⟩
    rw [← Option.some.inj p, hTAIL, recField_setField_other _ _ (by decide), recField_setField_same _ _ (by decide)]
  · cases (if_neg fits).symm.trans p

theorem publish_of_unfit {h : Desc} {k : Nat} (unfit : ¬ (hTAIL h ≤ k ∧ k < hPCLAIM h) ∨ hPUBMAP h / 2 ^ (k % 64) % 2 = 1) :
    publish h k = none := by
  refine if_neg fun fits => ?_
  simp only [Bool.and_eq_true, decide_eq_true_eq] at fits
  obtain ⟨range, clear⟩ := fits
  rcases unfit with out | marked
  · exact out range
  · omega

/-- TAIL moves past the slot that it stands at, and stays while that is unpublished (R169). -/
theorem publish_tail {h h' : Desc} {k : Nat} (p : publish h k = some h') :
    hTAIL h ≤ k ∧ k < hPCLAIM h ∧ (k = hTAIL h → k < 2 ^ 64 - 64 → k < hTAIL h') ∧
      (k % 64 ≠ hTAIL h % 64 → hPUBMAP h / 2 ^ (hTAIL h % 64) % 2 = 0 → hTAIL h' = hTAIL h) := by
  obtain ⟨low, high, clear, tail⟩ := publish_spec p
  refine ⟨low, high, fun same small => ?_, fun other unpublished => ?_⟩
  · obtain ⟨more, most⟩ := advance_of_set (n := 64) (mark_here (same ▸ clear)) (by decide)
    rw [tail, same, Nat.mod_eq_of_lt (by omega)]
    exact more
  · rw [tail, advance_of_clear (by rw [mark_other clear other, unpublished])]
    exact Nat.mod_eq_of_lt (recField_lt ..)

theorem release_range {h h' : Desc} {k : Nat} (p : release h k = some h') : hHEAD h ≤ k ∧ k < hTAIL h := by
  unfold release at p
  split at p
  · next fits =>
    simp only [Bool.and_eq_true, decide_eq_true_eq] at fits
    exact fits.1
  · cases p

theorem release_of_unfit {h : Desc} {k : Nat} (unfit : ¬ (hHEAD h ≤ k ∧ k < hTAIL h) ∨ hRELMAP h / 2 ^ (k % 64) % 2 = 1) :
    release h k = none := by
  refine if_neg fun fits => ?_
  simp only [Bool.and_eq_true, decide_eq_true_eq] at fits
  obtain ⟨range, clear⟩ := fits
  rcases unfit with out | marked
  · exact out range
  · omega

/-- The header after `wadv` of `n` slots (R171). -/
def advancedHeader (h : Desc) (n : Nat) : Desc :=
  setField (setField (setField h 0x38 8 (clearSlots n (hHEAD h) (hRELMAP h))) 0x28 8 (hHEAD h + n)) 0x20 8 (max (hCCLAIM h) (hHEAD h + n))

theorem advancedHeader_fields {h : Desc} {n : Nat} (published : hHEAD h + n ≤ hTAIL h) :
    hHEAD (advancedHeader h n) = hHEAD h + n ∧ hCCLAIM (advancedHeader h n) = max (hCCLAIM h) (hHEAD h + n) ∧
      hTAIL (advancedHeader h n) = hTAIL h ∧ hBASE (advancedHeader h n) = hBASE h := by
  have tail : hTAIL h < 2 ^ 64 := recField_lt ..
  have claims : hCCLAIM h < 2 ^ 64 := recField_lt ..
  unfold advancedHeader
  generalize clearSlots n (hHEAD h) (hRELMAP h) = map
  refine ⟨?_, ?_, ?_, ?_⟩
  · rw [hHEAD, recField_setField_other _ _ (by decide), recField_setField_same _ _ (by decide)]
    exact Nat.mod_eq_of_lt (Nat.lt_of_le_of_lt published tail)
  · rw [hCCLAIM, recField_setField_same _ _ (by decide)]
    exact Nat.mod_eq_of_lt (Nat.max_lt.mpr ⟨claims, Nat.lt_of_le_of_lt published tail⟩)
  · simp only [hTAIL]
    iterate 3 rw [recField_setField_other _ _ (by decide)]
  · simp only [hBASE]
    iterate 3 rw [recField_setField_other _ _ (by decide)]

/-- The header of a ring that `wmap` has bound, with FLAGS `f` (R170). -/
def boundHeader (h : Desc) (f : Nat) : Desc :=
  [0x18, 0x20, 0x28, 0x30, 0x38].foldl (fun h o => setField h o 8 0) (setField (setField h 0x0A 2 f) 0x10 8 0)

theorem boundHeader_fields (h : Desc) {f : Nat} (small : f < 2 ^ 16) :
    hFLAGS (boundHeader h f) = f ∧ hHEAD (boundHeader h f) = 0 ∧ hTAIL (boundHeader h f) = 0 ∧ hNSLOT (boundHeader h f) = hNSLOT h := by
  simp only [boundHeader, List.foldl, hFLAGS, hHEAD, hTAIL, hNSLOT]
  refine ⟨?_, ?_, ?_, ?_⟩
  · iterate 6 rw [recField_setField_other _ _ (by decide)]
    rw [recField_setField_same _ _ (by decide), Nat.mod_eq_of_lt small]
  · iterate 2 rw [recField_setField_other _ _ (by decide)]
    exact recField_setField_same _ _ (by decide)
  · iterate 4 rw [recField_setField_other _ _ (by decide)]
    exact recField_setField_same _ _ (by decide)
  · iterate 7 rw [recField_setField_other _ _ (by decide)]

/-! Record entries. -/

theorem addEntry_of_fixed {s : State} {q : Req} (fixed : ∀ t seq, Strand.reserve t q.dest seq = t) (st : RecState) (key : Nat)
    (fail : Option (Cause × Dword)) : ∃ e : RecEntry, e.state = st ∧ e.fail = fail ∧
      (addEntry s q st key fail).1 = { s with nextId := s.nextId + 1, cs := { s.cs with arec := s.cs.arec ++ [e] } } :=
  ⟨_, rfl, rfl, congrArg (fun t => { s with nextId := s.nextId + 1, cs := t }) (fixed ..)⟩

theorem State.hold_cs (s : State) (obj : BitVec 48) (die : BitVec 2) (id : Nat) : (s.hold obj die id).1.cs = s.cs := by
  unfold State.hold
  (repeat' split) <;> rfl

/-- A held request leaves one record entry of its word. -/
theorem heldAct_record (s : State) (q : Req) (obj : BitVec 48) (fixed : ∀ t seq, Strand.reserve t q.dest seq = t) :
    ∃ t, heldAct s q obj = .okNoSig t ∧ t.mem = s.mem ∧ t.cs.s = s.cs.s ∧ t.cs.arec.length = s.cs.arec.length + 1 := by
  obtain ⟨e, -, -, added⟩ := addEntry_of_fixed (s := s) fixed .held 0 none
  refine ⟨_, rfl, ?_, ?_, ?_⟩
  · exact (State.hold_mem ..).trans (addEntry_mem ..)
  · show ((State.hold (addEntry s q .held 0).1 obj _ _).1.cs).s = _
    rw [State.hold_cs, added]
  · show (((State.hold (addEntry s q .held 0).1 obj _ _).1.cs).arec.map _).length = _
    rw [List.length_map, State.hold_cs, added]
    exact List.length_append

/-! A ring word on its header (R169). -/

/-- What the issuing ring word of the state `s` does, with destination `d`, once it acts so on its header. -/
def RingRes.act (s : State) (d : Dest) : RingRes → Act
  | .done v x stat => .ok ((v.onStrand s.cs.team s.cs.sid (fun t => t.setStat stat)).onCs (fun t => t.clearAnswered.deliver d [x.setWidth 4096] none))
  | .wait => .wait
  | .illegal => .trap .illegalField (s.cs.unit.word.setWidth 64)

section
variable {s u : State} {cls : BitVec 4} {va : Dword} {op : RingOp} {plan : List (Nat × Loc)} {h : Desc}

theorem RingAt.notBusy (reached : RingAt s cls va op.akind u plan h) (d : Dest) : recordBusy s.begun (ringReq cls va d op) = false :=
  recordBusy_of_free (.inr ⟨reached.1, reached.2.1⟩)

theorem RingAt.noWait (reached : RingAt s cls va op.akind u plan h) (t : Strand) : ringWaits u t plan = none := by
  obtain ⟨-, -, -, -, free, -⟩ := reached
  unfold ringWaits
  split
  exacts [l1Waits_of_all _ free, rfl]

theorem RingAt.noFault (reached : RingAt s cls va op.akind u plan h) :
    u.windows.find? (fun w => w.ring == planKey plan && w.team == s.cs.team && w.sid == s.cs.sid && w.fault.isSome) = none := by
  obtain ⟨-, -, -, -, -, clean⟩ := reached
  refine List.find?_eq_none.mpr fun w hw => ?_
  simpa [and_assoc] using clean w hw

/-- A word that reaches its header acts on it. -/
theorem ringAct_of_at (reached : RingAt s cls va op.akind u plan h) (d : Dest) :
    ringAct s.begun cls va d op = (ringDo u s.begun.cs s.cs.unit s.cs.p plan h op).act s d := by
  have noFault := reached.noFault
  have noWait := reached.noWait s.begun.cs
  have notBusy := reached.notBusy d
  obtain ⟨-, -, found, ok, -, -⟩ := reached
  have found' : headerAt s.begun (accSpace s.begun.cs s.begun.csTeam s.begun.cs.p) va op.akind = .ok u plan h := found
  rw [ringAct, notBusy, if_neg Bool.false_ne_true, found']
  dsimp only
  erw [noFault]
  dsimp only
  rw [ringOut, ok, noWait]
  dsimp only
  show (match (match ringDo u s.begun.cs s.cs.unit s.cs.p plan h op with
    | .done v x stat => ROut.done _ _
    | .wait => _
    | .illegal => _) with | .again t => _ | out => _) = _
  cases ringDo u s.begun.cs s.cs.unit s.cs.p plan h op with
  | done v x stat => rfl
  | wait => exact if_pos rfl
  | illegal => rfl

section
variable {i : Instr} {body : State → Act} {d : Dest} (run : exec i s = .next (issue i s body)) (issues : Issues i s)
  (b : body s.begun = ringAct s.begun cls va d op)
include run issues b

section
variable (reached : RingAt s cls va op.akind u plan h)
include reached

/-- A ring word whose condition holds completes with its value and its bit of STAT. -/
theorem exec_ring_done {v : State} {x : Dword} {stat : BitVec 6} {f : Strand → Strand}
    (does : ringDo u s.begun.cs s.cs.unit s.cs.p plan h op = .done v x stat)
    (same : ∀ t : Strand, t.deliver d [x.setWidth 4096] none = f t) : exec i s = .next (s.ringDid v stat f) := by
  have act : body s.begun = .ok ((v.onStrand s.cs.team s.cs.sid (fun t => t.setStat stat)).onCs (fun t => f t.clearAnswered)) := by
    rw [b, ringAct_of_at reached, does]
    exact congrArg Act.ok (onCs_congr (same _))
  exact exec_ok run issues act

/-- A ring word whose condition does not hold waits as it is. -/
theorem exec_ring_wait (does : ringDo u s.begun.cs s.cs.unit s.cs.p plan h op = .wait) : exec i s = .next s.waits :=
  exec_wait run issues (by rw [b, ringAct_of_at reached, does]; rfl)

theorem exec_ring_illegal (does : ringDo u s.begun.cs s.cs.unit s.cs.p plan h op = .illegal) :
    exec i s = .next (s.trapped i .illegalField (s.cs.unit.word.setWidth 64)) :=
  exec_trap_of run issues (by rw [b, ringAct_of_at reached, does]; rfl)
end

/-! A header that is not reached, or outside its limits. -/

variable (room : s.cs.arec.length < 64) (alone : recordHolds s.cs cls [⟨0, va, 64⟩] = false)
include room alone

omit run issues in
theorem ring_body_of_stop {out : ROut} (found : headerAt s.begun s.acc va op.akind = .stop out)
    {r : Act} (ends : actOf s.begun (ringReq cls va d op) false id out = r) : body s.begun = r := by
  have notBusy : recordBusy s.begun (ringReq cls va d op) = false := recordBusy_of_free (.inr ⟨room, alone⟩)
  have found' : headerAt s.begun (accSpace s.begun.cs s.begun.csTeam s.begun.cs.p) va op.akind = .stop out := found
  rw [b, ringAct, notBusy, if_neg Bool.false_ne_true, found', ← ends]

theorem exec_ring_misaligned (mis : va.toNat % 64 ≠ 0) : exec i s = .next (s.trapped i .misaligned va) := by
  have found : headerAt s.begun s.acc va op.akind = .stop (.trap .misaligned va) := by
    rw [headerAt, if_pos]
    rwa [Bool.not_eq_true', ← Bool.not_eq_true, aligned_iff]
  exact exec_trap_of run issues (ring_body_of_stop b room alone found rfl)

/-- A header outside its limits traps with its address (R168). -/
theorem exec_ring_limits (found : headerAt s.begun s.acc va op.akind = .ok u plan h) (windowless : u.windows = []) (bad : ringOk h = false) :
    exec i s = .next (s.trapped i .illegalField va) := by
  have notBusy : recordBusy s.begun (ringReq cls va d op) = false := recordBusy_of_free (.inr ⟨room, alone⟩)
  have found' : headerAt s.begun (accSpace s.begun.cs s.begun.csTeam s.begun.cs.p) va op.akind = .ok u plan h := found
  refine exec_trap_of run issues (b.trans ?_)
  rw [ringAct, notBusy, if_neg Bool.false_ne_true, found']
  dsimp only
  rw [windowless, ringOut, bad]
  rfl

/-- A word whose header a migration holds has its record entry (R301). -/
theorem exec_ring_held {obj : BitVec 48} (found : headerAt s.begun s.acc va op.akind = .stop (.held obj))
    (fixed : ∀ t seq, Strand.reserve t d seq = t) :
    ∃ t, exec i s = .next t ∧ t.mem = s.mem ∧ t.cs.s = s.cs.s ∧ t.cs.arec.length = s.cs.arec.length + 1 := by
  obtain ⟨t, act, mem, regs, entries⟩ := heldAct_record s.begun (ringReq cls va d op) obj fixed
  exact ⟨t, by rw [run, issue_okNoSig issues (ring_body_of_stop b room alone found act)], mem, regs, entries⟩
end

/-! The ring words. -/

theorem loadValue_setWidth (x : Dword) : loadValue (x.setWidth 4096) 8 false = x := by
  rw [loadValue_false, BitVec.toNat_setWidth_of_le (by decide), Nat.mod_eq_of_lt x.isLt, BitVec.ofNat_toNat, BitVec.setWidth_eq]

theorem deliver_scalar (t : Strand) (d : BitVec 6) (n : Nat) (signed : Bool) (v : Vec) :
    t.deliver (.scalar d n signed) [v] none = t.setSc d (loadValue v n signed) := rfl

theorem deliver_scalar_dword (t : Strand) (d : BitVec 6) (x : Dword) :
    t.deliver (.scalar d 8 false) [x.setWidth 4096] none = t.setSc d x := by
  rw [deliver_scalar, loadValue_setWidth]

theorem advanceSlots_of_room {rel : State} {n : Nat} (held : n ≤ hNSLOT h) (published : hHEAD h + n ≤ hTAIL h) (some_ : n ≠ 0) :
    advanceSlots s rel plan h n = .done (putHeader rel plan (advancedHeader h n)) := by
  have claims : hCCLAIM (setField h 0x38 8 (clearSlots n (hHEAD h) (hRELMAP h))) = hCCLAIM h := recField_setField_other _ _ (by decide)
  rw [advanceSlots, if_neg (Nat.not_lt.mpr held), if_neg (Nat.not_lt.mpr published), if_neg some_]
  dsimp only
  rw [claims, advancedHeader]

/-- The window that `wmap` makes of the strand's view, for a stream from chunk `first` on (R170). -/
def newWindow (u : State) (t : Strand) (unit : EUnit) (priv : Bool) (ring : Nat) (x : Desc) (first : Nat) : Window :=
  { id := u.nextId, ring := ring, tile := keyTile ring, team := t.team, sid := t.sid, ctx := t.ctx, priv := priv, unit := unit, desc := x
    next := first, start := first }

/-- `wmap` of a ring in tile SRAM that no window has, while its tile has fewer than 16, binds it (R170). -/
theorem mapWindow_of_free {t : Strand} {unit : EUnit} {priv : Bool} {x : Desc} {first : Nat} (unbound : ∀ w ∈ u.windows, w.ring ≠ planKey plan)
    (tile : isTile (planKey plan) = true) (whole : hSLOTSZ h % imageSize x = 0)
    (room : (u.windows.filter (fun w => w.tile == keyTile (planKey plan))).length < 16) :
    mapWindow u t unit priv plan h x first = .done { putHeader u plan (boundHeader h (if chunkTotal x ≤ first then 3 else 2)) with
      nextId := u.nextId + 1, windows := u.windows ++ [newWindow u t unit priv (planKey plan) x first] } := by
  have none_ : u.windows.find? (fun w => w.ring == planKey plan) = none :=
    List.find?_eq_none.mpr fun w hw => by simpa using unbound w hw
  have all : u.windows.filter (fun w => w.ring ≠ planKey plan) = u.windows :=
    List.filter_eq_self.mpr fun w hw => by simpa using unbound w hw
  unfold mapWindow
  dsimp only
  rw [none_]
  simp only [Bool.false_eq_true, if_false, tile, whole, ne_eq, not_true_eq_false, decide_false, Bool.not_true, Bool.or_self,
    Option.isNone_none, Bool.true_and, Nat.not_le.mpr room]
  simp only [ne_eq] at all
  rw [all]
  rfl
end

/-- Settles O18: each word is its effect on a header that is reached. -/
theorem ringWordsComplete : Obligations.RingWordsComplete := by
  intro s c d a b n u plan h va k rw_ rd scope acq rel put
  refine ⟨fun i at_ => ?_, fun i at_ => ?_, fun i at_ below => ?_, fun i at_ past last => ?_, fun i at_ past more => ?_, fun i at_ below => ?_,
    fun i at_ full => ?_, fun i at_ h' p => ?_, fun i at_ h' p => ?_, fun i at_ unfit => ?_, fun i at_ unfit => ?_, fun i at_ beyond => ?_,
    fun i at_ held early => ?_, fun i at_ held published some_ => ?_, fun i at_ zero published => ?_, fun i at_ => ?_, fun i bad => ?_,
    fun i ok at_ unbound tile whole room => ?_, fun i room alone mis => ?_, fun i room alone found windowless bad => ?_,
    fun i room alone obj found => ?_⟩
  · exact exec_ring_done (exec_rclaimP ..) i rfl (op := .claim 0x10) at_ rfl (deliver_scalar_dword · d _)
  · exact exec_ring_done (exec_rclaimC ..) i rfl (op := .claim 0x20) at_ rfl (deliver_scalar_dword · d _)
  · exact exec_ring_done (exec_rwaitf ..) i rfl (op := .waitFull k) at_ (if_pos below) (deliver_scalar_dword · d _)
  · exact exec_ring_done (exec_rwaitf ..) i rfl (op := .waitFull k) at_ ((if_neg (Nat.not_lt.mpr past)).trans (if_pos last)) (deliver_scalar_dword · d _)
  · exact exec_ring_wait (exec_rwaitf ..) i rfl (op := .waitFull k) at_ ((if_neg (Nat.not_lt.mpr past)).trans (if_neg (Bool.eq_false_iff.mp more)))
  · exact exec_ring_done (exec_rwaite ..) i rfl (op := .waitFree k) at_ (if_pos below) (fun _ => rfl)
  · exact exec_ring_wait (exec_rwaite ..) i rfl (op := .waitFree k) at_ (if_neg (Nat.not_lt.mpr full))
  · exact ⟨exec_ring_done (exec_rpub ..) i rfl (op := .publish k) at_ (congrArg (markSlot rel plan) p) (fun _ => rfl), publish_tail p⟩
  · exact ⟨exec_ring_done (exec_rrel ..) i rfl (op := .release k) at_ (congrArg (markSlot rel plan) p) (fun _ => rfl), release_range p⟩
  · exact exec_ring_done (exec_rpub ..) i rfl (op := .publish k) at_ (congrArg (markSlot rel plan) (publish_of_unfit unfit)) (fun _ => rfl)
  · exact exec_ring_done (exec_rrel ..) i rfl (op := .release k) at_ (congrArg (markSlot rel plan) (release_of_unfit unfit)) (fun _ => rfl)
  · exact exec_ring_illegal (exec_wadv ..) i rfl (op := .advance k) at_ (if_pos beyond)
  · exact exec_ring_wait (exec_wadv ..) i rfl (op := .advance k) at_ ((if_neg (Nat.not_lt.mpr held)).trans (if_pos early))
  · exact ⟨_, exec_ring_done (exec_wadv ..) i rfl (op := .advance k) at_ (advanceSlots_of_room held published some_) (fun _ => rfl),
      advancedHeader_fields published⟩
  · have none_ : advanceSlots u rel plan h k = .done u := by
      rw [advanceSlots, if_neg (by omega), if_neg (by omega), if_pos zero]
    exact exec_ring_done (exec_wadv ..) i rfl (op := .advance k) at_ none_ (fun _ => rfl)
  · exact exec_ring_done (exec_wmapOff ..) i rfl (op := .unmap) at_ rfl (fun _ => rfl)
  · exact exec_trap_of (exec_wmap ..) i (if_pos (show (!descOk (s.cs.dr n.toNat)) = true by rw [bad]; rfl))
  · let first := if b = 0 then 0 else k
    obtain ⟨flags, head, tail, slots⟩ := boundHeader_fields h (f := if chunkTotal (s.cs.dr n.toNat) ≤ first then 3 else 2) (by split <;> decide)
    refine ⟨_, _, exec_ring_done (exec_wmap ..) i (if_neg (show ¬ (!descOk (s.cs.dr n.toNat)) = true by rw [ok]; decide))
      (op := .map (s.cs.dr n.toNat) first) at_ (mapWindow_of_free unbound tile whole room) (fun _ => rfl), ?_, ?_, head, tail, slots, rfl, rfl, rfl⟩
    · rw [hBOUND, flags]
      split <;> rfl
    · show hEND _ = decide (_ ≤ first)
      rw [hEND, flags]
      split
      · next done => exact (decide_eq_true done).symm
      · next more => exact (decide_eq_false more).symm
  · exact exec_ring_misaligned (exec_rclaimP ..) i rfl (op := .claim 0x10) room alone mis
  · exact exec_ring_limits (exec_rclaimP ..) i rfl (op := .claim 0x10) room alone found windowless bad
  · exact exec_ring_held (exec_rclaimP ..) i rfl (op := .claim 0x10) room alone found (fun _ _ => rfl)

end Sys2Proof.Machine
end

section
/-! Atomics and fences (10_access_instructions.md R172 to R177). -/

namespace Sys2Proof.Machine

variable {s u : State} {plan : List (Nat × Loc)} {i : Instr} {body : State → Act}

/-! An atomic at its place (R172). -/

/-- What an atomic writes where memory holds `m`; none where a compare fails. -/
def AtomOp.new? (a : AtomOp) (m : Nat) : Option Nat := if atomWrites a m then some (atomNew a m) else none

/-- Memory once an atomic on the places of `plan` has written. -/
def State.withNew (v : State) (plan : List (Nat × Loc)) : Option Nat → State
  | some x => { v with mem := writePlan v.mem [BitVec.ofNat 4096 x] plan }
  | none => v

/-- The state in which the atomic of `s` is performed: its rows are touched, and its lines have left every L1 (R276). -/
def State.atomReady (s u : State) (o : AccOrd) (plan : List (Nat × Loc)) : State :=
  let r := u.touchRows (plan.map (·.2.key))
  flushL1 (if o.isRelease then releaseL1 r s.cs.l1No o.scope else r) false (·.meets (plan.map (·.2.key)))

theorem atomReady_cs (s u : State) (o : AccOrd) (plan : List (Nat × Loc)) : (s.atomReady u o plan).cs = u.cs := by
  refine (flushL1_spec ..).1.cs.trans ?_
  split
  · exact (releaseL1_spec ..).cs.trans (touchRows_cs ..)
  · exact touchRows_cs ..

theorem withNew_cs (v : State) (plan : List (Nat × Loc)) (x : Option Nat) : (v.withNew plan x).cs = v.cs := by cases x <;> rfl

theorem prepareL1_of_atomic {q : Req} {a : AtomOp} (atomic : q.atom = some a) (here : ∀ p ∈ plan, p.2.isFab = false) :
    prepareL1 u s.acc q plan = s.atomReady u q.ord plan := by
  have core : s.acc.core = some s.cs.l1No := rfl
  simp only [prepareL1, core, atomic, filter_here here, Option.isSome_some, if_true]
  rfl

theorem planNat_of_order {n : Nat} (m : List Host.Cell) (small : n ≤ 512) (order : plan.map Prod.fst = List.range n) :
    ((readPlan m [0] plan).headD 0).toNat % 2 ^ (8 * n) = planNat m plan := by
  rw [readPlan_eq_putImgs, headD_putImgs_mod _ order small, planNat]

theorem planNat_lt {n : Nat} (m : List Host.Cell) (order : plan.map Prod.fst = List.range n) : planNat m plan < 2 ^ (8 * n) := by
  have length : plan.length = n := by simpa using congrArg List.length order
  simpa [planNat, length] using leNat_lt (plan.map (fun p => memByte m p.2.key))

theorem atomicHere_of_order {v : State} {a : AtomOp} (small : a.size ≤ 512) (order : plan.map Prod.fst = List.range a.size) (sp : Space)
    (o : AccOrd) : atomicHere v sp o a plan =
      .done (orderDone (v.withNew plan (a.new? (planNat v.mem plan))) sp o) (readPlan v.mem [0] plan) := by
  unfold atomicHere
  dsimp only
  rw [planNat_of_order v.mem small order, AtomOp.new?]
  split <;> rfl

/-- The request of an atomic word at S[A] of the state `s`. -/
def State.atomicReq (s : State) (kind : AccKind) (a : BitVec 6) (dest : Dest) (x : AtomOp) : Req :=
  { kind := kind, write := true, elems := [⟨0, s.cs.sc a, x.size⟩], dest := dest, base := [0], atom := some x, ord := s.cs.unit.ordOf 0 }

theorem atomicAct_of_misaligned {kind : AccKind} {a : BitVec 6} {dest : Dest} {x : AtomOp} (mis : (s.cs.sc a).toNat % x.size ≠ 0) :
    atomicAct s kind a dest x = .trap .misaligned (s.cs.sc a) := by
  unfold atomicAct
  exact alignedReq_of_misaligned mis _

theorem atomicAct_of_aligned {kind : AccKind} {a : BitVec 6} {dest : Dest} {x : AtomOp} (al : (s.cs.sc a).toNat % x.size = 0) :
    atomicAct s kind a dest x = accReq s (s.atomicReq kind a dest x) (kind == .fabric) := by
  unfold atomicAct
  exact alignedReq_of_aligned al _

/-- An atomic word at S[A] as R172 and R173 have it: `put` is what its destination takes, `new` what it writes. -/
theorem atomic_complete {n : Nat} {a : BitVec 6} {dest : Dest} {x : AtomOp} {put : Strand → Nat → Strand} {new : Nat → Option Nat}
    (run : exec i s = .next (issue i s body)) (b : body s.begun = atomicAct s.begun .atomic a dest x) (size : x.size = n) (small : n ≤ 512)
    (delivers : ∀ (t : Strand) (imgs : List Vec), t.deliver dest imgs none = put t ((imgs.headD 0).toNat % 2 ^ (8 * n)))
    (agree : ∀ m, m < 2 ^ (8 * n) → x.new? m = new m) :
    let va := s.cs.sc a
    let o := s.cs.unit.ordOf 0
    let v := s.atomReady u o plan
    (Issues i s → va.toNat % n ≠ 0 → exec i s = .next (s.trapped i .misaligned va)) ∧
    (Issues i s → va.toNat % n = 0 → RecordFree s o.cls [⟨0, va, n⟩] → Reach s.begun .rw [⟨0, va, n⟩] u plan →
      (∀ q ∈ plan, q.2.otherView = false) → hostOf plan = none →
      exec i s = .next (s.loaded (v.withNew plan (new (planNat v.mem plan))) o (fun t => put t (planNat v.mem plan)))) := by
  intro va o v
  subst size
  refine ⟨fun h mis => exec_trap_of run h ?_, fun h al free reach rows device => ?_⟩
  · rw [b]
    exact atomicAct_of_misaligned mis
  let q := s.begun.atomicReq .atomic a dest x
  have reached : ReachIn s.acc s.begun q.akind q.elems u plan := reach
  have order : plan.map Prod.fst = List.range x.size := planElems_one_order reach.1
  have here : ∀ p ∈ plan, p.2.isFab = false := reached.unhindered.here
  have cs : (v.withNew plan (new (planNat v.mem plan))).cs = s.begun.cs :=
    (withNew_cs ..).trans ((atomReady_cs ..).trans (records_eq_iff.mp reached.records).1)
  refine exec_of_done (q := q) (ordered := false) (setup := id) (g := id) run h ?_ (fun _ => rfl) rfl rfl
    (.inr free) (imgs := readPlan v.mem [0] plan) ?_ ?_
  · rw [b]
    exact atomicAct_of_aligned al
  · rw [runReq_of_planned (by exact fun e => nomatch e) reached,
      performPlan_of_atomic (resolveFab_of_here _ _ _ here) reached.unhindered rfl rows device, prepareL1_of_atomic rfl here,
      ← agree _ (planNat_lt _ order)]
    exact atomicHere_of_order small order ..
  · rw [cs]
    exact (delivers ..).trans (congrArg (put _) (planNat_of_order v.mem small order))

/-! What the operations write. -/

theorem amoOp_operand (kind : BitVec 2) (p : BitVec 4) (n : Nat) (b : Dword) : (amoOp kind p n b).b.toNat = b.toNat :=
  BitVec.toNat_setWidth_of_le (by decide)

theorem amoOp_code (kind : BitVec 2) (p : BitVec 4) (n : Nat) (b : Dword) : (amoOp kind p n b).op.toNat = p.toNat % 8 := by
  simp [amoOp]

/-- The sign of an operand of `w` bits. -/
theorem signOf64_eq_toInt {x w : Nat} (small : x < 2 ^ w) (pos : 0 < w) : atomNew.signOf64 x w = (BitVec.ofNat w x).toInt := by
  have half : 2 ^ w = 2 * 2 ^ (w - 1) := by rw [← Nat.pow_succ', Nat.succ_eq_add_one, Nat.sub_add_cancel pos]
  rw [atomNew.signOf64, BitVec.toInt_eq_toNat_cond, BitVec.toNat_ofNat, Nat.mod_eq_of_lt small]
  push_cast
  exact if_congr (by omega) rfl rfl

/-- The integer operations by their code (R172). -/
def amoInt (p w m y : Nat) : Nat :=
  if p = 0 then y else if p = 1 then (m + y) % 2 ^ w else if p = 2 then m &&& y else if p = 3 then m ||| y
  else if p = 4 then (if (BitVec.ofNat w m).toInt ≤ (BitVec.ofNat w y).toInt then m else y)
  else if p = 5 then (if (BitVec.ofNat w m).toInt ≤ (BitVec.ofNat w y).toInt then y else m) else if p = 6 then min m y else max m y

theorem atomNew_of_int {a : AtomOp} {m : Nat} (kind : a.kind = 0) (small : m < 2 ^ (8 * a.size)) (pos : 0 < a.size) :
    atomNew a m = amoInt a.op.toNat (8 * a.size) m (a.b.toNat % 2 ^ (8 * a.size)) := by
  have code : a.op.toNat < 8 := a.op.isLt
  unfold atomNew
  dsimp only
  rw [kind, signOf64_eq_toInt small (by omega), signOf64_eq_toInt (Nat.mod_lt _ (Nat.two_pow_pos _)) (by omega)]
  generalize a.op.toNat = k at code
  interval_cases k <;> rfl

/-- The float operations by their code (R172). -/
def amoFloat (p m y : Nat) : Nat :=
  if p = 0 then (fAdd fmtF32 0 m y).1 else if p = 1 then (fMinMax fmtF32 false m y).1
  else if p = 2 then (fMinMax fmtF32 true m y).1 else if p = 3 then (fAdd fmtF64 0 m y).1
  else if p = 4 then (fMinMax fmtF64 false m y).1 else (fMinMax fmtF64 true m y).1

theorem atomNew_float (p : BitVec 4) (n : Nat) (b : Dword) (m : Nat) :
    atomNew (amoOp 1 p n b) m = amoFloat (p.toNat % 8) m (b.toNat % 2 ^ (8 * n)) := by
  have code : p.toNat % 8 < 8 := Nat.mod_lt _ (by decide)
  unfold atomNew
  dsimp only
  rw [amoOp_code, amoOp_operand, show (amoOp 1 p n b).size = n from rfl]
  generalize p.toNat % 8 = k at code
  interval_cases k <;> rfl

/-- Compare-and-swap writes where memory holds the expected value (R173). -/
theorem new?_of_cas {a : AtomOp} (kind : a.kind = 2) (m : Nat) :
    a.new? m = if m = a.expect.toNat % 2 ^ (8 * a.size) then some (a.b.toNat % 2 ^ (8 * a.size)) else none := by
  by_cases same : m = a.expect.toNat % 2 ^ (8 * a.size)
  · rw [AtomOp.new?, if_pos (by simp [atomWrites, kind, ← same]), if_pos same, atomNew, kind]
    exact congrArg some (if_pos same)
  · rw [AtomOp.new?, if_neg (by simp [atomWrites, kind, same]), if_neg same]

theorem new?_of_int {a : AtomOp} {m : Nat} (kind : a.kind = 0) (small : m < 2 ^ (8 * a.size)) (pos : 0 < a.size) :
    a.new? m = some (amoInt a.op.toNat (8 * a.size) m (a.b.toNat % 2 ^ (8 * a.size))) := by
  rw [AtomOp.new?, if_pos (by simp [atomWrites, kind]), atomNew_of_int kind small pos]

theorem new?_cas (t : BitVec 1) {n w : Nat} (width : 8 * n = w) (expect b : BitVec 128) (m : Nat) : (casOp t n expect b).new? m =
    if m = expect.toNat % 2 ^ w then some (b.toNat % 2 ^ w) else none := by
  subst width
  exact new?_of_cas rfl m

/-! The atomic words. -/

/-- What an atomic of `n` bytes with destination `d` delivers. -/
theorem deliver_old (d : BitVec 6) (n : Nat) (t : Strand) (imgs : List Vec) :
    t.deliver (.scalar d n false) imgs none = t.setSc d (BitVec.ofNat 64 ((imgs.headD 0).toNat % 2 ^ (8 * n))) := rfl

/-- The two registers of an atomic of 16 bytes take its halves. -/
theorem deliver_pair (d : BitVec 6) (t : Strand) (imgs : List Vec) : t.deliver (.pair d) imgs none =
    (t.setSc d (BitVec.ofNat 64 ((imgs.headD 0).toNat % 2 ^ (8 * 16)))).setSc (d + 1)
      (BitVec.ofNat 64 ((imgs.headD 0).toNat % 2 ^ (8 * 16) / 2 ^ 64)) := by
  rw [Strand.deliver]
  generalize (imgs.headD 0).toNat = x
  have low : BitVec.ofNat 64 x = BitVec.ofNat 64 (x % 2 ^ (8 * 16)) := BitVec.eq_of_toNat_eq (by simp only [BitVec.toNat_ofNat]; omega)
  have high : BitVec.ofNat 64 (x / 2 ^ 64) = BitVec.ofNat 64 (x % 2 ^ (8 * 16) / 2 ^ 64) :=
    BitVec.eq_of_toNat_eq (by simp only [BitVec.toNat_ofNat]; omega)
  rw [low, high]

/-- A compare-and-swap takes its operands from registers of 64 bits. -/
theorem new?_cas_dword (t : BitVec 1) {n w : Nat} (width : 8 * n = w) (expect b : Dword) (m : Nat) :
    (casOp t n (expect.setWidth 128) (b.setWidth 128)).new? m = if m = expect.toNat % 2 ^ w then some (b.toNat % 2 ^ w) else none := by
  rw [new?_cas t width, BitVec.toNat_setWidth_of_le (by decide), BitVec.toNat_setWidth_of_le (by decide)]

theorem toNat_append_dword (x y : Dword) : (y ++ x).toNat = x.toNat + 2 ^ 64 * y.toNat := by
  rw [BitVec.toNat_append, ← Nat.shiftLeft_add_eq_or_of_lt x.isLt, Nat.shiftLeft_eq]
  omega

/-- The operands of 16 bytes come from two registers each. -/
theorem new?_cas_pair (t : BitVec 1) (e e' b b' : Dword) (m : Nat) :
    (casOp t 16 (e' ++ e) (b' ++ b)).new? m = if m = e.toNat + 2 ^ 64 * e'.toNat then some (b.toNat + 2 ^ 64 * b'.toNat) else none := by
  have bound : ∀ x y : Dword, x.toNat + 2 ^ 64 * y.toNat < 2 ^ 128 := fun x y => by
    have := x.isLt
    have := y.isLt
    omega
  rw [new?_cas t (w := 128) rfl, toNat_append_dword, toNat_append_dword, Nat.mod_eq_of_lt (bound ..), Nat.mod_eq_of_lt (bound ..)]

theorem new?_int (p : BitVec 4) {n w : Nat} (pos : 0 < n) (width : 8 * n = w) (b : Dword) (m : Nat) (small : m < 2 ^ (8 * n)) :
    (amoOp 0 p n b).new? m = some (amoInt (p.toNat % 8) w m (b.toNat % 2 ^ w)) := by
  subst width
  rw [new?_of_int (a := amoOp 0 p n b) rfl small pos, amoOp_code, amoOp_operand]
  rfl

theorem new?_float (p : BitVec 4) {n w : Nat} (width : 8 * n = w) (b : Dword) (m : Nat) :
    (amoOp 1 p n b).new? m = some (amoFloat (p.toNat % 8) m (b.toNat % 2 ^ w)) := by
  rw [AtomOp.new?, if_pos (by rfl), atomNew_float, width]

/-! Fences (R175 to R177). -/

theorem exec_fenceCls_done {c k : BitVec 4} (h : Issues (.fenceCls c k) s)
    (free : c = k ∨ ∀ e ∈ s.cs.earlier, e.req.ord.cls ≠ c ∧ e.req.ord.cls ≠ k) : exec (.fenceCls c k) s = .next s.passed := by
  refine exec_ok (exec_fenceCls ..) h (if_neg fun waits => ?_)
  simp only [Bool.and_eq_true, decide_eq_true_eq, List.any_eq_true, Bool.or_eq_true, beq_iff_eq] at waits
  obtain ⟨differ, e, mem, cls⟩ := waits
  rcases free with same | none_
  · exact differ same
  · obtain ⟨first, second⟩ := none_ e mem
    exact cls.elim first second

theorem exec_fenceCls_wait {c k : BitVec 4} (h : Issues (.fenceCls c k) s) (differ : c ≠ k)
    (held : ∃ e ∈ s.cs.earlier, e.req.ord.cls = c ∨ e.req.ord.cls = k) : exec (.fenceCls c k) s = .next s.waits := by
  refine exec_wait (exec_fenceCls ..) h (if_pos ?_)
  simp only [Bool.and_eq_true, decide_eq_true_eq, List.any_eq_true, Bool.or_eq_true, beq_iff_eq]
  exact ⟨differ, held⟩

theorem fenceHolds_of_none {t : Strand} (none_ : t.earlier = []) (order : BitVec 2) : fenceHolds t order = false := by
  unfold fenceHolds
  split <;> simp [none_]

theorem orderWait_of_all (free : l1Waits s (fun _ => true) = none) (core : Nat) (o : AccOrd) : orderWait s core o = none := by
  unfold orderWait
  split
  exacts [l1Waits_of_all _ free, rfl]

section
variable (none_ : s.cs.earlier = []) (free : l1Waits s (fun _ => true) = none)
include none_ free

/-- A fence that finds no earlier entry acts on the lines of the core (R176). -/
theorem exec_fence_done (h : Issues .fence s) : exec .fence s = .next (s.completes (fenceLines s.begun (s.cs.unit.ordOf 0))) := by
  have free' : l1Waits s.begun (fun _ => true) = none := free
  have holds : fenceHolds s.begun.cs (s.begun.cs.unit.ordOf 0).order = false := fenceHolds_of_none none_ _
  refine exec_ok (exec_fence ..) h ?_
  dsimp only
  rw [holds, if_neg Bool.false_ne_true, orderWait_of_all free']
  rfl

theorem exec_fenceView_done (h : Issues .fenceView s) : exec .fenceView s = .next (s.completes
    (flushL1 (fenceLines s.begun (s.cs.unit.ordOf 0)) false (fun l => l.view && l.core == s.cs.l1No))) := by
  have free' : l1Waits s.begun (fun _ => true) = none := free
  have holds : fenceHolds s.begun.cs (s.begun.cs.unit.ordOf 0).order = false := fenceHolds_of_none none_ _
  have writes : s.begun.cs.earlier.any (fun e => e.req.write) = false := congrArg (List.any · _) none_
  refine exec_ok (exec_fenceView ..) h ?_
  dsimp only
  rw [writes, holds, Bool.or_self, if_neg Bool.false_ne_true, orderWait_of_all free', Option.orElse, l1Waits_of_all _ free']
  rfl
end

theorem exec_fence_wait (h : Issues .fence s) (held : s.cs.earlier ≠ []) (order : (s.cs.unit.ordOf 0).order = 2) :
    exec .fence s = .next s.waits := by
  refine exec_wait (exec_fence ..) h (if_pos ?_)
  have order' : (s.begun.cs.unit.ordOf 0).order = 2 := order
  rw [order']
  exact (Bool.not_eq_true' _).mpr (List.isEmpty_eq_false_iff.mpr held)

theorem exec_fenceView_wait (h : Issues .fenceView s) (held : ∃ e ∈ s.cs.earlier, e.req.write = true) :
    exec .fenceView s = .next s.waits := by
  have writes : s.begun.cs.earlier.any (fun e => e.req.write) = true := List.any_eq_true.mpr held
  refine exec_wait (exec_fenceView ..) h (if_pos ?_)
  rw [writes, Bool.true_or]

/-! Fabric words to the own device (R178). -/

/-- The places of a fabric word of 8 bytes, one run from its address on (R178). -/
def fabAt (va : Dword) : List (Nat × Loc) := (List.range 8).map (fun j => (j, Loc.fab (va + BitVec.ofNat 64 j)))

theorem fabPlan_one {q : Req} {va : Dword} (elems : q.elems = [⟨0, va, 8⟩]) : fabPlan q = fabAt va := by
  rw [fabPlan, elems]
  rfl

/-- The state in which a fabric word of `s` performs its access here: coherent with the L1s of the die. -/
def State.fabReady (s : State) (o : AccOrd) (keep : Bool) (plan : List (Nat × Loc)) : State :=
  let r := s.begun.touchRows (plan.map (·.2.key))
  flushL1 (if o.isRelease then releaseL1 r s.cs.l1No o.scope else r) keep
    (fun l => l.core / 128 == s.cs.die.toNat && l.meets (plan.map (·.2.key)))

theorem fabReady_cs (s : State) (o : AccOrd) (keep : Bool) (plan : List (Nat × Loc)) : (s.fabReady o keep plan).cs = s.begun.cs := by
  refine (flushL1_spec ..).1.cs.trans ?_
  split
  · exact (releaseL1_spec ..).cs.trans (touchRows_cs ..)
  · exact touchRows_cs ..

section
variable {q : Req} (kind : q.kind = .fabric) (plainAccess : q.atom = none)
include kind plainAccess

theorem prepareL1_of_fabric (here : ∀ p ∈ plan, p.2.isFab = false) :
    prepareL1 s.begun s.acc q plan = s.fabReady q.ord (!q.write) plan := by
  have core : s.acc.core = some s.cs.l1No := rfl
  simp only [prepareL1, core, plainAccess, filter_here here, Option.isSome_none, Bool.false_eq_true, if_false]
  rw [kind]
  rfl

/-- A fabric word whose places are of this device is performed there at once. -/
theorem runReq_of_fabric (planned : resolveFab s.begun (fld s.acc.ctx 16 6) q.akind (fabPlan q) = .ok plan)
    (h : Unhindered s.begun s.acc q plan) : runReq s.begun s.acc q =
      if q.write then .done (orderDone (writeHere (s.fabReady q.ord false plan) s.acc q.data plan) s.acc q.ord) q.base
      else .done (orderDone (s.fabReady q.ord true plan) s.acc q.ord)
        (q.final (readHere (s.fabReady q.ord true plan) s.acc q.start plan)) := by
  rw [runReq, if_pos (by rw [kind]; rfl), performPlan_of_unhindered planned h plainAccess, prepareL1_of_fabric kind plainAccess h.here]
  split <;> simp [*]
end

end Sys2Proof.Machine
end

section
/-! Fabric words (10_access_instructions.md R178; 26_fabric.md R379, R382). -/

namespace Sys2Proof.Machine

variable {s : State} {plan : List (Nat × Loc)} {i : Instr} {body : State → Act} {q : Req} {va : Dword}

/-! The places of a fabric word. -/

theorem fabDev_add {j : Nat} (al : va.toNat % 8 = 0) (small : j < 8) : fabDev (va + BitVec.ofNat 64 j) = fabDev va := by
  have bound := va.isLt
  apply BitVec.eq_of_toNat_eq
  simp only [fabDev, BitVec.extractLsb'_toNat, BitVec.toNat_add, BitVec.toNat_ofNat, Nat.shiftRight_eq_div_pow]
  omega

theorem fabAt_mem {p : Nat × Loc} (h : p ∈ fabAt va) : ∃ j, j < 8 ∧ p = (j, Loc.fab (va + BitVec.ofNat 64 j)) := by
  simp only [fabAt, List.mem_map, List.mem_range] at h
  obtain ⟨j, small, eq⟩ := h
  exact ⟨j, small, eq.symm⟩

/-- The bytes of an aligned word are one run. -/
theorem fabRuns_range (inside : ∀ j, 0 < j → j < 8 → (va + BitVec.ofNat 64 j).toNat % 4096 ≠ 0) (n o : Nat) (last : o + (n + 1) = 8) :
    fabRuns ((List.range' o (n + 1)).map (fun j => (j, Loc.fab (va + BitVec.ofNat 64 j)))) = [(o, va + BitVec.ofNat 64 o, n + 1)] := by
  induction n generalizing o with
  | zero => rfl
  | succ n ih =>
    have next : va + BitVec.ofNat 64 (o + 1) = va + BitVec.ofNat 64 o + 1 := by
      rw [BitVec.ofNat_add, ← BitVec.add_assoc]
      rfl
    have joins : o + 1 = o + 1 ∧ va + BitVec.ofNat 64 (o + 1) = va + BitVec.ofNat 64 o + 1 ∧ (va + BitVec.ofNat 64 (o + 1)).toNat % 4096 ≠ 0 :=
      ⟨rfl, next, inside _ (by omega) (by omega)⟩
    rw [List.range'_succ, List.map_cons, fabRuns, ih (o + 1) (by omega)]
    refine if_pos ?_
    simpa only [Bool.and_eq_true, decide_eq_true_eq, and_assoc] using joins

theorem fabRuns_fabAt (al : va.toNat % 8 = 0) : fabRuns (fabAt va) = [(0, va, 8)] := by
  have bound := va.isLt
  have inside : ∀ j, 0 < j → j < 8 → (va + BitVec.ofNat 64 j).toNat % 4096 ≠ 0 := by
    intro j pos small
    rw [BitVec.toNat_add, BitVec.toNat_ofNat]
    omega
  rw [fabAt, List.range_eq_range', fabRuns_range inside 7 0 rfl]
  simp

/-! Bytes at another device. -/

theorem resolveFab_of_remote {part : BitVec 6} {k : AKind}
    (h : ∀ p ∈ plan, ∃ o a, p = (o, Loc.fab a) ∧ fabDev a ≠ s.devNum ∧ mayReach s (fabDev a) = true) : resolveFab s part k plan = .ok plan := by
  induction plan with
  | nil => rfl
  | cons p l ih =>
    obtain ⟨⟨o, a, rfl, other, reach⟩, rest⟩ := List.forall_mem_cons.mp h
    have elsewhere : (s.assigned && fabDev a == s.devNum) = false := by rw [beq_eq_false_iff_ne.mpr other, Bool.and_false]
    rw [resolveFab, elsewhere, if_neg Bool.false_ne_true, if_pos reach, ih rest]
    rfl

theorem flushL1_mem_of_none {p : L1Line → Bool} (none_ : ∀ l, p l = false) (s : State) (keep : Bool) : (flushL1 s keep p).mem = s.mem := by
  unfold flushL1
  split
  · rfl
  · dsimp only
    rw [List.filter_eq_nil_iff.mpr (fun l _ => by rw [none_ l]; exact Bool.false_ne_true), List.foldl_nil]

/-- A fabric word whose bytes are all at another device writes back what its release asks for, and no other line. -/
theorem prepareL1_of_remote {sp : Space} {c : Nat} (core : sp.core = some c) (kind : q.kind = .fabric)
    (remote : ∀ p ∈ plan, p.2.isFab = true) :
    let v := prepareL1 s sp q plan
    v.cs = s.cs ∧ v.pending = s.pending ∧ (q.ord.isRelease = false → v.mem = s.mem) := by
  have none_ : plan.filter (fun p => !p.2.isFab) = [] := List.filter_eq_nil_iff.mpr fun p hp => by rw [remote p hp]; decide
  let r := if q.ord.isRelease then releaseL1 (s.touchRows []) c q.ord.scope else s.touchRows []
  have released : r.cs = s.cs ∧ r.pending = s.pending ∧ (q.ord.isRelease = false → r.mem = s.mem) := by
    have touched : (s.touchRows []).pending = s.pending := by rw [touchRows_frame]
    by_cases rel : q.ord.isRelease = true
    · obtain ⟨only, -⟩ := releaseL1_spec (s.touchRows []) c q.ord.scope
      dsimp only [r]
      rw [if_pos rel, only]
      exact ⟨touchRows_cs .., touched, fun plainOrder => by rw [rel] at plainOrder; cases plainOrder⟩
    · dsimp only [r]
      rw [if_neg rel]
      exact ⟨touchRows_cs .., touched, fun _ => touchRows_mem ..⟩
  have flushed : ∃ keep p, (∀ l, p l = false) ∧ prepareL1 s sp q plan = flushL1 r keep p := by
    cases atom : q.atom with
    | none =>
      refine ⟨!q.write, fun l => l.core / 128 == sp.die.toNat && l.meets [], fun l => Bool.and_false _, ?_⟩
      rw [prepareL1, none_, core, atom, kind]
      rfl
    | some a =>
      refine ⟨false, fun l => l.meets [], fun l => rfl, ?_⟩
      rw [prepareL1, none_, core, atom]
      rfl
  obtain ⟨keep, p, nothing, eq⟩ := flushed
  obtain ⟨cs, pending, mem⟩ := released
  obtain ⟨⟨only, -⟩, -⟩ := flushL1_spec r keep p
  intro v
  refine ⟨?_, ?_, fun plainOrder => ?_⟩
  · rw [show v = _ from eq, only, cs]
  · rw [show v = _ from eq, only, pending]
  · rw [show v = _ from eq, flushL1_mem_of_none nothing, mem plainOrder]

/-- A fabric word to another device asks that device. -/
theorem performPlan_of_remote {s0 : State} {sp : Space} {plan0 : List (Nat × Loc)}
    (resolved : resolveFab s (fld sp.ctx 16 6) q.akind plan0 = .ok plan) (some_ : plan ≠ []) (remote : ∀ p ∈ plan, p.2.isFab = true)
    (rows : ∀ p ∈ plan, p.2.otherView = false) (free : l1Waits s (fun _ => true) = none) :
    ∃ imgs, performPlan s0 s sp q false plan0 = .remote (prepareL1 s sp q plan) plan imgs := by
  have none_ : plan.filter (fun p => !p.2.isFab) = [] := List.filter_eq_nil_iff.mpr fun p hp => by rw [remote p hp]; decide
  have away : plan.any (fun p => p.2.isFab) = true := by
    obtain ⟨p, hp⟩ := List.exists_mem_of_ne_nil _ some_
    exact List.any_eq_true.mpr ⟨p, hp, remote p hp⟩
  have noWait : plan.findSome? (fun p => if p.2.isFab then none else devWait s q.akind.writes p.2.key) = none :=
    List.findSome?_eq_none_iff.mpr fun p hp => by rw [remote p hp]; rfl
  have sound : ∀ w, badByte s w plan = none := fun w => by
    unfold badByte
    rw [none_]
    split <;> rfl
  have other : plan.any (fun p => p.2.otherView) = false := by simpa using rows
  rw [performPlan, resolved]
  simp only [Except.map, Bool.false_eq_true, if_false]
  rw [noWait, l1Waits_of_all _ free]
  simp only [Option.orElse]
  rw [sound]
  cases atom : q.atom with
  | none =>
    dsimp only
    rw [if_pos away, none_, List.isEmpty_nil, if_pos rfl]
    cases q.write
    exacts [⟨_, rfl⟩, ⟨_, rfl⟩]
  | some a =>
    dsimp only
    rw [other, if_neg Bool.false_ne_true, if_pos away]
    exact ⟨_, rfl⟩

/-! The packets. -/

theorem sendStream_pending (s : State) (key : Nat) (p : Packet) (x : Pending) :
    (sendStream s key p x).cs = s.cs ∧ (sendStream s key p x).pending.length = s.pending.length + 1 := by
  unfold sendStream
  split <;> exact ⟨rfl, List.length_append⟩

/-- One run is one packet. -/
theorem sendRuns_one (s : State) (t : Strand) (q : Req) (seq : Nat) (r : Nat × Dword × Nat) :
    (sendRuns s t q seq true [r]).cs = s.cs ∧ (sendRuns s t q seq true [r]).pending.length = s.pending.length + 1 :=
  sendStream_pending ..

/-- The state `v` with the PENDING entry of the request `q`, of whose bytes some are here. -/
def State.asked (v : State) (q : Req) (here : Nat) : State :=
  let (w, seq) := addEntry v q .pending 0
  w.onCs (fun t => t.onEntry seq (fun e => { e with here := here }))

theorem asked_frame (v : State) {q : Req} (fixed : ∀ t seq, Strand.reserve t q.dest seq = t) (here : Nat) :
    (v.asked q here).mem = v.mem ∧ (v.asked q here).pending = v.pending ∧ (v.asked q here).cs.s = v.cs.s ∧
      (v.asked q here).cs.arec.length = v.cs.arec.length + 1 := by
  obtain ⟨e, -, -, added⟩ := addEntry_of_fixed (s := v) fixed .pending 0 none
  refine ⟨rfl, rfl, ?_, ?_⟩
  · show (addEntry v q .pending 0).1.cs.s = _
    rw [added]
  · show ((addEntry v q .pending 0).1.cs.arec.map _).length = _
    rw [List.length_map, added]
    exact List.length_append

/-- A request to another device has its entry and its packets, or waits while its stream is full. -/
theorem actOf_remote (s v : State) (q : Req) (imgs : List Vec) {runs : List (Nat × Dword × Nat)} (eq : fabRuns plan = runs) :
    actOf s q true id (.remote v plan imgs) = if streamFull s s.cs.die q.ord.cls runs then .wait
      else .okNoSig (sendRuns (v.asked { q with part := imgs } (spansHere q plan)) (v.asked { q with part := imgs } (spansHere q plan)).cs q
        v.nextId true runs) := by
  subst eq
  rw [actOf, Bool.true_and]
  rfl

/-! The word as a whole. -/

section
variable {ord : AccOrd} (run : exec i s = .next (issue i s body)) (issues : Issues i s) (al : va.toNat % 8 = 0)
  (b : body s.begun = accReq s.begun q true) (kind : q.kind = .fabric) (elems : q.elems = [⟨0, va, 8⟩]) (order : q.ord = ord)
  (fixed : ∀ t seq, Strand.reserve t q.dest seq = t) (free : RecordFree s ord.cls [⟨0, va, 8⟩])
include run issues al b kind elems order fixed free

/-- A device that cannot be reached: the entry is FAULTED, with FABRIC_ERROR and the address. -/
theorem exec_fabric_unreachable (unreached : mayReach s (fabDev va) = false) (other : fabDev va ≠ s.devNum) :
    ∃ x e, exec i s = .next x ∧ x.mem = s.mem ∧ x.cs.s = s.cs.s ∧ x.pending = s.pending ∧ x.cs.arec = s.cs.arec ++ [e] ∧
      e.state = .faulted ∧ e.fail = some (.fabricError, va) := by
  have notBusy : recordBusy s.begun q = false := recordBusy_of_free (.inr (by rw [order, elems]; exact free))
  have error : resolveFab s.begun (fld s.acc.ctx 16 6) q.akind (fabPlan q) = .error (0, .fault .fabricError) := by
    have first : fabDev (va + BitVec.ofNat 64 0) = fabDev va := fabDev_add al (by decide)
    have other' : fabDev va ≠ s.begun.devNum := other
    have elsewhere : (s.begun.assigned && fabDev (va + BitVec.ofNat 64 0) == s.begun.devNum) = false := by
      rw [first, beq_eq_false_iff_ne.mpr other', Bool.and_false]
    have unreached' : mayReach s.begun (fabDev (va + BitVec.ofNat 64 0)) = false := by rw [first]; exact unreached
    rw [fabPlan_one elems, fabAt, List.range_eq_range', List.range'_succ, List.map_cons, resolveFab, elsewhere, if_neg Bool.false_ne_true,
      unreached', if_neg Bool.false_ne_true]
  have address : q.vaOf 0 = va := by
    rw [Req.vaOf, elems]
    simp
  have outcome : runReq s.begun s.acc q = .trap .fabricError va := by
    rw [runReq, if_pos (by rw [kind]; rfl), performPlan, error, ← address]
    rfl
  have act : body s.begun = .okNoSig (addEntry s.begun q .faulted 0 (some (.fabricError, va))).1 := by
    rw [b, accReq, notBusy, if_neg Bool.false_ne_true]
    exact congrArg (actOf s.begun q true id) outcome
  obtain ⟨e, state, fail, added⟩ := addEntry_of_fixed (s := s.begun) fixed .faulted 0 (some (.fabricError, va))
  refine ⟨_, e, by rw [run, issue_okNoSig issues act], ?_, ?_, ?_, ?_, state, fail⟩ <;> rw [added] <;> rfl

/-- A device of the domain: one entry and one packet, unless the stream is full. -/
theorem exec_fabric_remote (reached : mayReach s (fabDev va) = true) (other : fabDev va ≠ s.devNum)
    (clean : l1Waits s (fun _ => true) = none) :
    (streamFull s s.cs.die ord.cls [(0, va, 8)] = true → exec i s = .next s.waits) ∧
    (streamFull s s.cs.die ord.cls [(0, va, 8)] = false →
      ∃ x, exec i s = .next x ∧ (ord.isRelease = false → x.mem = s.mem) ∧ x.cs.s = s.cs.s ∧ x.cs.arec.length = s.cs.arec.length + 1 ∧
        x.pending.length = s.pending.length + 1) := by
  subst order
  have notBusy : recordBusy s.begun q = false := recordBusy_of_free (.inr (by rw [elems]; exact free))
  have remote : ∀ p ∈ fabAt va, p.2.isFab = true := fun p hp => by
    obtain ⟨j, -, rfl⟩ := fabAt_mem hp
    rfl
  have rows : ∀ p ∈ fabAt va, p.2.otherView = false := fun p hp => by
    obtain ⟨j, -, rfl⟩ := fabAt_mem hp
    rfl
  have planned : resolveFab s.begun (fld s.acc.ctx 16 6) q.akind (fabPlan q) = .ok (fabAt va) := by
    rw [fabPlan_one elems]
    refine resolveFab_of_remote fun p hp => ?_
    obtain ⟨j, small, rfl⟩ := fabAt_mem hp
    have dev := fabDev_add al small
    exact ⟨_, _, rfl, by rw [dev]; exact other, by rw [dev]; exact reached⟩
  obtain ⟨imgs, performed⟩ := performPlan_of_remote (s0 := s.begun) planned (by exact List.cons_ne_nil _ _) remote rows clean
  obtain ⟨cs, pending, mem⟩ := prepareL1_of_remote (s := s.begun) (sp := s.acc) (c := s.cs.l1No) rfl kind remote
  have outcome : runReq s.begun s.acc q = .remote (prepareL1 s.begun s.acc q (fabAt va)) (fabAt va) imgs := by
    rw [runReq, if_pos (by rw [kind]; rfl), performed]
  have act : body s.begun = actOf s.begun q true id (.remote (prepareL1 s.begun s.acc q (fabAt va)) (fabAt va) imgs) := by
    rw [b, accReq, notBusy, if_neg Bool.false_ne_true]
    exact congrArg (actOf s.begun q true id) outcome
  rw [actOf_remote _ _ _ _ (fabRuns_fabAt al)] at act
  refine ⟨fun full => exec_wait run issues (act.trans (if_pos full)), fun room => ?_⟩
  have act' := act.trans (if_neg (Bool.eq_false_iff.mp room))
  generalize prepareL1 s.begun s.acc q (fabAt va) = v at cs pending mem act'
  obtain ⟨askedMem, askedPending, regs, entries⟩ := asked_frame v (q := { q with part := imgs }) fixed (spansHere q (fabAt va))
  generalize v.asked { q with part := imgs } (spansHere q (fabAt va)) = w at askedMem askedPending regs entries act'
  obtain ⟨sentCs, sentPending⟩ := sendRuns_one w w.cs q v.nextId (0, va, 8)
  refine ⟨_, by rw [run, issue_okNoSig issues act'], fun plainOrder => ?_, ?_, ?_, ?_⟩
  · rw [sendRuns_mem, askedMem, mem plainOrder]
    rfl
  · rw [sentCs, regs, cs]
    rfl
  · rw [sentCs, entries, cs]
    rfl
  · rw [sentPending, askedPending, pending]
    rfl
end

/-- A fabric word of 8 bytes as R178 has it, towards another device. -/
theorem fabric_complete {ord : AccOrd} (run : exec i s = .next (issue i s body))
    (traps : va.toNat % 8 ≠ 0 → body s.begun = .trap .misaligned va) (asks : va.toNat % 8 = 0 → body s.begun = accReq s.begun q true)
    (kind : q.kind = .fabric) (elems : q.elems = [⟨0, va, 8⟩]) (order : q.ord = ord) (fixed : ∀ t seq, Strand.reserve t q.dest seq = t) :
    (Issues i s → va.toNat % 8 ≠ 0 → exec i s = .next (s.trapped i .misaligned va)) ∧
    (Issues i s → va.toNat % 8 = 0 → RecordFree s ord.cls [⟨0, va, 8⟩] → mayReach s (fabDev va) = false → fabDev va ≠ s.devNum →
      ∃ x e, exec i s = .next x ∧ x.mem = s.mem ∧ x.cs.s = s.cs.s ∧ x.pending = s.pending ∧ x.cs.arec = s.cs.arec ++ [e] ∧
        e.state = .faulted ∧ e.fail = some (.fabricError, va)) ∧
    (Issues i s → va.toNat % 8 = 0 → RecordFree s ord.cls [⟨0, va, 8⟩] → mayReach s (fabDev va) = true → fabDev va ≠ s.devNum →
      l1Waits s (fun _ => true) = none →
      (streamFull s s.cs.die ord.cls [(0, va, 8)] = true → exec i s = .next s.waits) ∧
      (streamFull s s.cs.die ord.cls [(0, va, 8)] = false →
        ∃ x, exec i s = .next x ∧ (ord.isRelease = false → x.mem = s.mem) ∧ x.cs.s = s.cs.s ∧ x.cs.arec.length = s.cs.arec.length + 1 ∧
          x.pending.length = s.pending.length + 1)) := by
  refine ⟨fun h mis => exec_trap_of run h (traps mis), fun h al free unreached other => ?_,
    fun h al free reached other clean => ?_⟩
  · exact exec_fabric_unreachable run h al (asks al) kind elems order fixed free unreached other
  · exact exec_fabric_remote run h al (asks al) kind elems order fixed free reached other clean

/-! A fabric word to the own device. -/

section
variable {f : Strand → Strand} {ord : AccOrd} (run : exec i s = .next (issue i s body)) (h : Issues i s)
  (b : body s.begun = accReq s.begun q true) (kind : q.kind = .fabric) (elems : q.elems = [⟨0, va, 8⟩])
  (order : q.ord = ord) (plainAccess : q.atom = none) (free : RecordFree s ord.cls [⟨0, va, 8⟩])
  (planned : resolveFab s.begun (fld s.cs.ctx 16 6) q.akind (fabAt va) = .ok plan) (clean : l1Waits s (fun _ => true) = none)
  (sound : ∀ p ∈ plan, p.2.isFab = false ∧ s.bad p.2.key = false ∧ devWait s q.akind.writes p.2.key = none)
include run h b kind elems order plainAccess free planned clean sound

theorem exec_fabric_read (write : q.write = false)
    (same : s.begun.cs.clearAnswered.deliver q.dest (q.final (readHere (s.fabReady ord true plan) s.acc q.start plan)) none =
      f s.begun.cs.clearAnswered) : exec i s = .next (s.loaded (s.fabReady ord true plan) ord f) := by
  have unhindered : Unhindered s.begun s.acc q plan := ⟨l1Waits_of_all _ clean, sound⟩
  refine exec_of_done (setup := id) (g := id) run h b (fun _ => rfl) order elems (.inr free) ?_
    (by rw [fabReady_cs]; exact same)
  rw [runReq_of_fabric kind plainAccess (by rw [fabPlan_one elems]; exact planned) unhindered, if_neg (by simp [write]), order]

theorem exec_fabric_write (write : q.write = true) (same : s.begun.cs.clearAnswered.deliver q.dest q.base none = f s.begun.cs.clearAnswered) :
    exec i s = .next (s.loaded (writeHere (s.fabReady ord false plan) s.acc q.data plan) ord f) := by
  have unhindered : Unhindered s.begun s.acc q plan := ⟨l1Waits_of_all _ clean, sound⟩
  refine exec_of_done (setup := id) (g := id) run h b (fun _ => rfl) order elems (.inr free) ?_
    (by rw [writeHere_cs, fabReady_cs]; exact same)
  rw [runReq_of_fabric kind plainAccess (by rw [fabPlan_one elems]; exact planned) unhindered, if_pos write, order]
end

theorem loadValue_dword (v : Vec) : loadValue v 8 false = v.setWidth 64 := by
  rw [loadValue_false]
  exact BitVec.eq_of_toNat_eq (by rw [BitVec.toNat_ofNat, BitVec.toNat_setWidth, Nat.mod_mod])

/-- Settles O19: an atomic differs in its size and in what it writes, a fabric word in its request. -/
theorem atomicsFencesAndFabricWordsComplete : Obligations.AtomicsFencesAndFabricWordsComplete := by
  intro s p t c k d a b i u plan va o amo sInt intOp one fabric
  have whole : ∀ x : Dword, x.toNat % 2 ^ 64 = x.toNat := fun x => Nat.mod_eq_of_lt x.isLt
  refine ⟨?_, ?_, ?_, ?_, ?_, ?_, ⟨exec_fenceCls_done, exec_fenceCls_wait, fun h none_ free => exec_fence_done none_ free h,
    exec_fence_wait, fun h none_ free => exec_fenceView_done none_ free h, exec_fenceView_wait⟩, ⟨?_, ?_, ?_, ?_⟩, ?_, ?_⟩
  · exact (atomic_complete (u := u) (plan := plan) (n := 4) (put := one) (x := amoOp 0 p 4 (s.cs.sc b)) (exec_amoW p d a b s) rfl rfl
      (by decide) (deliver_old d 4) (new?_int p (by decide) (w := 32) rfl _) :)
  · have new := new?_int p (n := 8) (by decide) (w := 64) rfl (s.cs.sc b)
    rw [whole] at new
    exact (atomic_complete (u := u) (plan := plan) (n := 8) (put := one) (x := amoOp 0 p 8 (s.cs.sc b)) (exec_amoD p d a b s) rfl rfl
      (by decide) (deliver_old d 8) new :)
  · have width : 8 * amoFSize p = if p.toNat % 8 ≤ 2 then 32 else 64 := by unfold amoFSize; split <;> rfl
    exact (atomic_complete (u := u) (plan := plan) (n := amoFSize p) (put := one) (x := amoOp 1 p (amoFSize p) (s.cs.sc b))
      (exec_amoF p d a b s) rfl rfl (by unfold amoFSize; split <;> decide) (deliver_old d _) (fun m _ => new?_float p width _ m) :)
  · exact (atomic_complete (u := u) (plan := plan) (n := 4) (put := one) (x := casOp t 4 ((s.cs.sc d).setWidth 128) ((s.cs.sc b).setWidth 128))
      (exec_casW t d a b s) rfl rfl (by decide) (deliver_old d 4) (fun m _ => new?_cas_dword t (w := 32) rfl _ _ m) :)
  · have new := new?_cas_dword t (n := 8) (w := 64) rfl (s.cs.sc d) (s.cs.sc b)
    rw [whole, whole] at new
    exact (atomic_complete (u := u) (plan := plan) (n := 8) (put := one) (x := casOp t 8 ((s.cs.sc d).setWidth 128) ((s.cs.sc b).setWidth 128))
      (exec_casD t d a b s) rfl rfl (by decide) (deliver_old d 8) (fun m _ => new m) :)
  · exact (atomic_complete (u := u) (plan := plan) (n := 16) (x := casOp t 16 (s.cs.sc (d + 1) ++ s.cs.sc d) (s.cs.sc (b + 1) ++ s.cs.sc b))
      (put := fun t x => (t.setSc d (BitVec.ofNat 64 x)).setSc (d + 1) (BitVec.ofNat 64 (x / 2 ^ 64))) (exec_casQ t d a b s) rfl rfl (by decide)
      (deliver_pair d) (fun m _ => new?_cas_pair t _ _ _ _ m) :)
  · intro h al free own assigned planned clean sound
    exact exec_fabric_read (exec_fld ..) h (alignedReq_of_aligned al _) rfl rfl rfl rfl free planned clean sound rfl
      ((deliver_scalar ..).trans (congrArg (Strand.setSc _ d) (loadValue_dword _)))
  · intro h al free own assigned planned clean sound
    let q : Req := { kind := .fabric, write := true, elems := [⟨0, s.cs.sc a + BitVec.ofInt 64 (s.cs.unit.immS i * 8), 8⟩]
                     data := [(s.cs.sc d).setWidth 4096], ord := s.cs.unit.ordOf c }
    exact exec_fabric_write (q := q) (f := id) (exec_fst ..) h (alignedReq_of_aligned al _) rfl rfl rfl rfl free planned clean sound rfl rfl
  · exact fabric_complete (exec_fld ..) (alignedReq_of_misaligned · _) (alignedReq_of_aligned · _) rfl rfl rfl (fun _ _ => rfl)
  · exact fabric_complete (exec_fst ..) (alignedReq_of_misaligned · _) (alignedReq_of_aligned · _) rfl rfl rfl (fun _ _ => rfl)
  · exact fabric_complete (q := s.begun.atomicReq .fabric a (.scalar d 8 false) (amoOp 0 p 8 (s.begun.cs.sc b))) (exec_famo ..)
      (fun mis => atomicAct_of_misaligned mis) (fun al => atomicAct_of_aligned al) rfl rfl rfl (fun _ _ => rfl)
  · exact fabric_complete (q := s.begun.atomicReq .fabric a (.scalar d 8 false) (casOp t 8 ((s.begun.cs.sc d).setWidth 128) ((s.begun.cs.sc b).setWidth 128)))
      (exec_fcas ..) (fun mis => atomicAct_of_misaligned mis) (fun al => atomicAct_of_aligned al) rfl rfl rfl (fun _ _ => rfl)

end Sys2Proof.Machine
end

section
/-! Requests of other devices (10_access_instructions.md R178; 22_faults_and_translation.md R364; 26_fabric.md R379, R381, R382, R392). -/

namespace Sys2Proof.Machine

variable {s u : State} {p : Packet} {plan : List (Nat × Loc)}

/-! The fabric MMU names device memory only (R364). -/

theorem Walk.stop_of_bind {α β : Type} {x : Walk α} {f : α → Walk β} {r : TRes} (h : x.bind f = .stop r) :
    x = .stop r ∨ ∃ a, f a = .stop r := by
  cases x with
  | found a => exact .inr ⟨a, h⟩
  | fails => cases h
  | stop r' => exact .inl (congrArg _ (Walk.stop.inj h))

theorem devWait_ne_ok {w : Bool} {a : Nat} {l : Loc} : devWait s w a ≠ some (.ok l) := by
  unfold devWait
  split
  · exact fun h => nomatch h
  · split <;> exact fun h => nomatch h

theorem devEntry_stop {a : Nat} {l : Loc} : devEntry s a ≠ .stop (.ok l) := by
  unfold devEntry
  split
  · next r wait => exact fun h => devWait_ne_ok (Walk.stop.inj h ▸ wait)
  · exact fun h => nomatch h

theorem s2Walk_stop {fab : Bool} {addr n table : Nat} {l : Loc} : s2Walk s fab addr n table ≠ .stop (.ok l) := by
  induction n generalizing table with
  | zero => exact fun h => nomatch h
  | succ n ih =>
    intro h
    rcases Walk.stop_of_bind h with first | ⟨e, rest⟩
    · exact devEntry_stop first
    · split at rest
      · cases rest
      · split at rest
        · cases rest
        · split at rest
          · cases rest
          · exact ih rest

theorem s2Root_stop {fab : Bool} {root addr : Nat} {l : Loc} : s2Root s fab root addr ≠ .stop (.ok l) := by
  intro h
  rcases Walk.stop_of_bind h with first | ⟨e, rest⟩
  · exact devEntry_stop first
  · split at rest
    · cases rest
    · exact s2Walk_stop rest

theorem fabricMmu_dev {part : BitVec 6} {off : Nat} {k : AKind} {l : Loc} (h : fabricMmu s part off k = (u, .ok l)) : ∃ a, l = .dev a := by
  have leaf : ∀ r : TRes, (match r with | .ok (.dev a) => TRes.ok (.dev a) | _ => TRes.fault .fabricError) = .ok l → ∃ a, l = .dev a := by
    intro r found
    split at found
    · exact ⟨_, (TRes.ok.inj found).symm⟩
    · cases found
  unfold fabricMmu at h
  dsimp only at h
  split at h
  · exact leaf _ (Prod.mk.inj h).2
  · split at h
    · cases (Prod.mk.inj h).2
    · next stop => exact absurd ((Prod.mk.inj h).2 ▸ stop) s2Root_stop
    · exact leaf _ (Prod.mk.inj h).2

theorem fabBytes_spec {part : BitVec 6} {k : AKind} {off n o : Nat} (h : fabBytes part k off n o s = (u, .ok plan)) :
    plan.map Prod.fst = List.range' o n ∧ ∀ p ∈ plan, ∃ a, p.2 = Loc.dev a := by
  induction n generalizing o s plan with
  | zero =>
    obtain ⟨-, h⟩ := Prod.mk.inj h
    rw [← Except.ok.inj h]
    exact ⟨rfl, fun _ h => nomatch h⟩
  | succ n ih =>
    unfold fabBytes at h
    split at h
    · next v l found =>
      obtain ⟨a, rfl⟩ := fabricMmu_dev found
      dsimp only at h
      obtain ⟨state, h⟩ := Prod.mk.inj h
      cases rest : (fabBytes part k off n (o + 1) v).2 with
      | error r => rw [rest] at h; cases h
      | ok l =>
        rw [rest] at h
        rw [← Except.ok.inj h]
        obtain ⟨order, dev⟩ := ih (plan := l) (o := o + 1) (s := v) (by rw [← state, ← rest])
        refine ⟨by rw [List.map_cons, order, List.range'_succ], List.forall_mem_cons.mpr ⟨⟨a, rfl⟩, dev⟩⟩
    · cases (Prod.mk.inj h).2

/-- The bytes of a request, planned from its first on, are of this device. -/
theorem fabBytes_order {part : BitVec 6} {k : AKind} {off n : Nat} (h : fabBytes part k off n 0 s = (u, .ok plan)) :
    plan.map Prod.fst = List.range n := by
  rw [List.range_eq_range', (fabBytes_spec h).1]

/-! Bytes of a payload. -/

/-- The bytes of a list, as a number, are its bytes. -/
theorem leBytes_leNat (l : List Byte) : leBytes l.length (leNat l) = l := by
  induction l with
  | nil => rfl
  | cons b l ih =>
    have low := b.isLt
    rw [List.length_cons, leNat, leBytes, show (b.toNat + 256 * leNat l) / 256 = leNat l by omega, ih]
    congr 1
    exact BitVec.eq_of_toNat_eq (by rw [BitVec.toNat_ofNat]; omega)

theorem byteOf_ofNat_leNat {w : Nat} {l : List Byte} (fits : 8 * l.length ≤ w) (k : Nat) :
    byteOf (BitVec.ofNat w (leNat l)) k = (l[k]?).getD 0 := by
  have bound : leNat l < 2 ^ w := Nat.lt_of_lt_of_le (leNat_lt l) (Nat.pow_le_pow_right (by decide) fits)
  have value : (BitVec.ofNat w (leNat l)).toNat = leNat l := Nat.mod_eq_of_lt bound
  by_cases inside : k < l.length
  · have byte := getElem?_leBytes_toNat (BitVec.ofNat w (leNat l)) l.length inside
    rw [value, leBytes_leNat] at byte
    rw [byte]
    rfl
  · rw [List.getElem?_eq_none (Nat.le_of_not_lt inside), Option.getD_none]
    apply BitVec.eq_of_toNat_eq
    rw [toNat_byteOf, recField, value, Nat.div_eq_of_lt (Nat.lt_of_lt_of_le (leNat_lt l) (Nat.pow_le_pow_right (by decide) (by omega)))]
    rfl

/-- The images of a list hold its bytes. -/
theorem imgByte_bytesImg (l : List Byte) (k : Nat) : imgByte (bytesImg l) k = (l[k]?).getD 0 := by
  rw [imgByte, bytesImg, List.getElem?_map]
  by_cases inside : k / 512 < ceilDiv l.length 512
  · rw [List.getElem?_range inside, Option.map_some, Option.getD_some,
      byteOf_ofNat_leNat (by rw [List.length_take]; omega), List.getElem?_take, if_pos (Nat.mod_lt _ (by decide)), List.getElem?_drop,
      Nat.div_add_mod]
  · have past : l.length ≤ k := by
      rw [ceilDiv, if_neg (by decide)] at inside
      omega
    rw [List.getElem?_eq_none (by simpa using inside), List.getElem?_eq_none past, Option.map_none,
      Option.getD_none, Option.getD_none]
    exact BitVec.eq_of_toNat_eq (by rw [toNat_byteOf, recField_zero]; rfl)

end Sys2Proof.Machine
end

section
/-! How a request of another device is performed and answered (26_fabric.md R379, R381, R382, R392). -/

namespace Sys2Proof.Machine

variable {s u v : State} {p : Packet} {plan : List (Nat × Loc)}

/-! Answers. -/

/-- What has been sent once the answer to `p` has left, if it can leave. -/
def State.answered (s : State) (p : Packet) (status : Nat) (bytes : List Byte) : List Out :=
  let q : Packet := Packet.load {
    type := ptRESP, vc := 1, ddev := p.sdev, ddie := p.sdie, sdev := p.ddev, sdie := p.ddie, part := p.part
    arg := BitVec.ofNat 64 status, xid := p.xid } bytes
  s.out ++ (if carries s ptRESP p.sdev then [.packet { q with since := s.time, port := leavePort s q }] else [])

theorem sendPacket_out {q : Packet} (far : q.ddev ≠ s.devNum) : (sendPacket s q).out =
    s.out ++ (if carries s q.type q.ddev then [.packet { q with since := s.time, port := leavePort s q }] else []) := by
  rw [sendPacket, if_neg (by simpa using far)]
  split
  · rfl
  · exact (List.append_nil _).symm

theorem respTo_out {status : Nat} (final : status ≠ 1) (far : s.devNum ≠ p.sdev) (bytes : List Byte) :
    (respTo s p status bytes).out = s.answered p status bytes := by
  rw [respTo, if_neg final]
  exact sendPacket_out (Ne.symm far)

/-- Memory and the L1s apart, and what counts accesses, the states are one. -/
def OnlyMem (s t : State) : Prop := t = { s with mem := t.mem, poison := t.poison, l1 := t.l1, hits := t.hits }

theorem OnlyMem.trans (h : OnlyMem s u) (h' : OnlyMem u v) : OnlyMem s v := by
  rw [OnlyMem, h', h]

theorem OnlyL1.onlyMem (h : OnlyL1 u v) : OnlyMem u v := by
  obtain ⟨only, -⟩ := h
  rw [OnlyMem, only]

theorem onlyMem_touchRows (u : State) (keys : List Nat) : OnlyMem u (u.touchRows keys) := by
  rw [OnlyMem, touchRows_frame]

theorem answered_of_onlyMem (h : OnlyMem u v) (status : Nat) (bytes : List Byte) : v.answered p status bytes = u.answered p status bytes := by
  rw [h]
  rfl

theorem OnlyMem.devNum (h : OnlyMem u v) : v.devNum = u.devNum := by
  rw [h]
  rfl

/-! The places of a request. -/

/-- The space of a request: no core takes part, and the L1s of the die are kept coherent. -/
def reqSpace (p : Packet) : Space := { ctx := 0, die := p.ddie }

theorem onlyMem_prepareL1 (u : State) (p : Packet) (q : Req) (plan : List (Nat × Loc)) : OnlyMem u (prepareL1 u (reqSpace p) q plan) := by
  show OnlyMem u (if q.atom.isSome then flushL1 (u.touchRows _) false _ else flushL1 (u.touchRows _) _ _)
  split
  · exact (onlyMem_touchRows ..).trans (flushL1_spec ..).1.onlyMem
  · exact (onlyMem_touchRows ..).trans (flushL1_spec ..).1.onlyMem

theorem onlyMem_writeHere (h : OnlyMem u v) (data : List Vec) : OnlyMem u (writeHere v (reqSpace p) data plan) := by
  have none_ : plan.filter (fun x => !v.l1.isEmpty && (reqSpace p).core.any (fun c => (l1Byte v c (fld (reqSpace p).ctx 16 6) x.2).isSome)) = [] :=
    List.filter_eq_nil_iff.mpr fun x _ => by rw [show (reqSpace p).core = none from rfl, Option.any_none, Bool.and_false]; exact Bool.false_ne_true
  unfold writeHere
  dsimp only
  rw [none_, List.foldl_nil, repairGranules]
  split <;> rw [OnlyMem, h]

theorem onlyMem_withNew (h : OnlyMem u v) (x : Option Nat) : OnlyMem u (v.withNew plan x) := by
  cases x with
  | none => exact h
  | some x => rw [State.withNew, OnlyMem, h]

theorem withNew_mem (v : State) (plan : List (Nat × Loc)) (x : Option Nat) : (v.withNew plan x).mem = match x with
    | some x => writePlan v.mem [BitVec.ofNat 4096 x] plan
    | none => v.mem := by cases x <;> rfl

/-! Serving a request. -/

/-- What a request in order does, where no other is held. -/
theorem fabricRequestArrival_served (idle : s.fabHeld = []) (ready : s.mstate = 3) (type : p.type ∈ [ptREAD, ptWRITE, ptATOMIC]) (arg : argOk p = true)
    (len : lenOk p = true) : exec (.fabricRequestArrival p) s = .next (serveRequest s p) := by
  rw [exec_fabricRequestArrival, execFabricRequestArrival, packetOf_of_ok ready (List.contains_iff_mem.mpr type) arg len, idle]
  rfl

theorem serveRequest_done (turn : inTurn s p = true) (done : performRequest s p = (v, true)) :
    (serveRequest s p).mem = v.mem ∧ (serveRequest s p).out = v.out := by
  rw [serveRequest, turn, Bool.not_true, if_neg Bool.false_ne_true, done]
  exact ⟨rfl, rfl⟩

theorem holdRequest_of_idle (idle : s.fabHeld = []) (p : Packet) : holdRequest s p = { s with fabHeld := [p] } := by
  rw [holdRequest, idle]
  rfl

theorem serveRequest_wait (turn : inTurn s p = true) (idle : v.fabHeld = []) (waits : performRequest s p = (v, false)) :
    serveRequest s p = { v with fabHeld := [p] } := by
  rw [serveRequest, turn, Bool.not_true, if_neg Bool.false_ne_true, waits]
  exact holdRequest_of_idle idle p

theorem askFor_fabHeld (s : State) (r : TRes) : (askFor s r).fabHeld = s.fabHeld := by
  unfold askFor State.askHost
  (repeat' split) <;> rfl

section
variable (len : lenOk p = true)
include len

theorem lenOk_beats : p.len.toNat ≤ 128 := by
  rw [lenOk, Bool.and_eq_true, decide_eq_true_eq] at len
  exact len.1

theorem lenOk_payload (carries : p.type ≠ ptREAD) : p.payload.length = 32 * p.len.toNat := by
  rw [lenOk, Bool.and_eq_true, if_neg carries, beq_iff_eq] at len
  exact len.2
end

theorem packetAtom_size (p : Packet) : (packetAtom p).size = 4 ∨ (packetAtom p).size = 8 ∨ (packetAtom p).size = 16 := by
  unfold packetAtom
  dsimp only
  split
  · next sizes =>
    simp only [Bool.or_eq_true, decide_eq_true_eq] at sizes
    omega
  · exact .inr (.inl rfl)

/-- No request touches more than 4096 bytes. -/
theorem reqLen_le (len : lenOk p = true) : reqLen p ≤ 4096 := by
  have beats := lenOk_beats len
  unfold reqLen
  split
  · have := packetAtom_size p
    omega
  · split
    · next write =>
      have payload := lenOk_payload len (by rw [write]; decide)
      have stored : (writeData p).length ≤ p.payload.length := by
        unfold writeData
        dsimp only
        split <;> simp
      omega
    · omega

theorem performRequest_misaligned (atomic : p.type = ptATOMIC) (mis : reqOff p % reqLen p ≠ 0) :
    performRequest s p = (respTo s p 2 [], true) := by
  unfold performRequest
  exact if_pos (by simp [atomic, mis])

section
variable (small : reqLen p ≤ 4096) (al : p.type = ptATOMIC → reqOff p % reqLen p = 0)
include small al

theorem performRequest_limits : ¬ (decide (4096 < reqLen p) || (decide (p.type = ptATOMIC) && decide (reqOff p % reqLen p ≠ 0))) = true := by
  simp only [Bool.or_eq_true, Bool.and_eq_true, decide_eq_true_eq, not_or, not_and, not_not]
  exact ⟨by omega, al⟩

theorem performRequest_fault {c : Cause} (planned : fabBytes p.part (packetReq p).akind (reqBase p) (reqLen p) 0 s = (u, .error (.fault c))) :
    performRequest s p = (respTo u p 2 [], true) := by
  unfold performRequest
  dsimp only
  rw [if_neg (performRequest_limits small al), planned]

theorem performRequest_wait {r : TRes} (planned : fabBytes p.part (packetReq p).akind (reqBase p) (reqLen p) 0 s = (u, .error r))
    (waits : ∀ c, r ≠ .fault c) : performRequest s p = (askFor s r, false) := by
  unfold performRequest
  dsimp only
  rw [if_neg (performRequest_limits small al), planned]
  cases r with
  | fault c => exact absurd rfl (waits c)
  | _ => rfl

theorem performRequest_done {imgs : List Vec} (planned : fabBytes p.part (packetReq p).akind (reqBase p) (reqLen p) 0 s = (u, .ok plan))
    (done : performPlan s u (reqSpace p) (packetReq p) false plan = .done v imgs) :
    performRequest s p = (respTo v p 0 (if p.type = ptWRITE then [] else imgBytes imgs (reqLen p)), true) := by
  have done' : performPlan s u { ctx := 0, die := p.ddie } (packetReq p) false plan = .done v imgs := done
  unfold performRequest
  dsimp only
  rw [if_neg (performRequest_limits small al), planned]
  dsimp only
  rw [done']
end

/-! Reads, writes and atomics. -/

theorem packetReq_read (type : p.type = ptREAD) : (packetReq p).akind = .read ∧ (packetReq p).atom = none ∧ (packetReq p).write = false ∧
    reqBase p = reqOff p / 32 * 32 ∧ reqLen p = 32 * p.len.toNat := by
  have noAtomic : p.type ≠ ptATOMIC := by rw [type]; decide
  have noWrite : p.type ≠ ptWRITE := by rw [type]; decide
  have plainAccess : (packetReq p).atom = none := if_neg noAtomic
  have write : (packetReq p).write = false := decide_eq_false (not_not.mpr type)
  exact ⟨by rw [Req.akind, plainAccess, write]; rfl, plainAccess, write, if_pos type, by rw [reqLen, if_neg noAtomic, if_neg noWrite]⟩

theorem packetReq_write (type : p.type = ptWRITE) :
    (packetReq p).akind = .write ∧ (packetReq p).atom = none ∧ (packetReq p).write = true ∧ reqBase p = reqOff p := by
  have noAtomic : p.type ≠ ptATOMIC := by rw [type]; decide
  have noRead : p.type ≠ ptREAD := by rw [type]; decide
  have plainAccess : (packetReq p).atom = none := if_neg noAtomic
  have write : (packetReq p).write = true := decide_eq_true noRead
  exact ⟨by rw [Req.akind, plainAccess, write]; rfl, plainAccess, write, if_neg noRead⟩

theorem packetReq_atomic (type : p.type = ptATOMIC) : (packetReq p).akind = .rw ∧ (packetReq p).atom = some (packetAtom p) ∧
    reqBase p = reqOff p ∧ reqLen p = (packetAtom p).size := by
  have noRead : p.type ≠ ptREAD := by rw [type]; decide
  have atomic : (packetReq p).atom = some (packetAtom p) := if_pos type
  exact ⟨by rw [Req.akind, atomic]; rfl, atomic, if_neg noRead, if_pos type⟩

section
variable {part : BitVec 6} {k : AKind} {off n : Nat} (planned : fabBytes part k off n 0 s = (u, .ok plan))
include planned

theorem fabBytes_here : ∀ x ∈ plan, x.2.isFab = false := fun x hx => by
  obtain ⟨a, eq⟩ := (fabBytes_spec planned).2 x hx
  rw [eq]
  rfl

theorem fabBytes_plain : plain plan := fun x hx => by
  obtain ⟨a, eq⟩ := (fabBytes_spec planned).2 x hx
  rw [eq]
  rfl

theorem fabBytes_rows : ∀ x ∈ plan, x.2.otherView = false := fun x hx => by
  obtain ⟨a, eq⟩ := (fabBytes_spec planned).2 x hx
  rw [eq]
  rfl

theorem fabBytes_device : hostOf plan = none := by
  cases plan with
  | nil => rfl
  | cons x l =>
    obtain ⟨a, eq⟩ := (fabBytes_spec planned).2 x (List.mem_cons_self ..)
    obtain ⟨o, l⟩ := x
    subst eq
    rfl

theorem unhindered_of_clear (free : l1Waits u (flushedBy (reqSpace p) (packetReq p) plan) = none)
    (sound : ∀ x ∈ plan, devWait u (packetReq p).akind.writes x.2.key = none ∧ u.bad x.2.key = false) :
    Unhindered u (reqSpace p) (packetReq p) plan :=
  ⟨free, fun x hx => ⟨fabBytes_here planned x hx, (sound x hx).2, (sound x hx).1⟩⟩

end

section
variable (h : Unhindered u (reqSpace p) (packetReq p) plan)
include h

theorem performPlan_read (type : p.type = ptREAD) (order : plan.map Prod.fst = List.range (reqLen p)) :
    ∃ imgs, performPlan s u (reqSpace p) (packetReq p) false plan = .done (prepareL1 u (reqSpace p) (packetReq p) plan) imgs ∧
      imgBytes imgs (reqLen p) = plan.map (fun x => memByte (prepareL1 u (reqSpace p) (packetReq p) plan).mem x.2.key) := by
  obtain ⟨-, plainAccess, write, -, -⟩ := packetReq_read type
  refine ⟨_, (performPlan_of_unhindered (resolveFab_of_here _ _ _ h.here) h plainAccess).trans (if_neg (by simp [write])), ?_⟩
  have room : reqLen p ≤ 512 * (List.replicate (ceilDiv (reqLen p) 512) (0 : Vec)).length := by
    rw [List.length_replicate, ceilDiv, if_neg (by decide)]
    omega
  exact imgBytes_putImgs (fun l : Loc => memByte (prepareL1 u (reqSpace p) (packetReq p) plan).mem l.key) order room

theorem performPlan_write (type : p.type = ptWRITE) : ∃ imgs, performPlan s u (reqSpace p) (packetReq p) false plan =
    .done (writeHere (prepareL1 u (reqSpace p) (packetReq p) plan) (reqSpace p) (bytesImg (writeData p)) plan) imgs := by
  obtain ⟨-, plainAccess, write, -⟩ := packetReq_write type
  exact ⟨_, (performPlan_of_unhindered (resolveFab_of_here _ _ _ h.here) h plainAccess).trans (if_pos write)⟩

/-- An atomic of another device is that of a word, at the places of the fabric MMU (R379). -/
theorem performPlan_atomic (type : p.type = ptATOMIC) (order : plan.map Prod.fst = List.range (reqLen p))
    (rows : ∀ x ∈ plan, x.2.otherView = false) (device : hostOf plan = none) :
    let v := prepareL1 u (reqSpace p) (packetReq p) plan
    ∃ imgs, performPlan s u (reqSpace p) (packetReq p) false plan =
      .done (v.withNew plan ((packetAtom p).new? (planNat v.mem plan))) imgs ∧ imgBytes imgs (reqLen p) = leBytes (reqLen p) (planNat v.mem plan) := by
  intro v
  obtain ⟨-, atomic, -, size⟩ := packetReq_atomic type
  have small : reqLen p ≤ 512 := by
    have := packetAtom_size p
    omega
  have length : plan.length = reqLen p := by simpa using congrArg List.length order
  refine ⟨_, (performPlan_of_atomic (resolveFab_of_here _ _ _ h.here) h atomic rows device).trans
    (atomicHere_of_order (by rw [← size]; exact small) (by rw [← size]; exact order) ..), ?_⟩
  have bytes : imgBytes (readPlan v.mem [0] plan) (reqLen p) = plan.map (fun x => memByte v.mem x.2.key) :=
    imgBytes_putImgs (fun l : Loc => memByte v.mem l.key) order (by simpa using small)
  rw [bytes, planNat, ← length, ← List.length_map (fun x : Nat × Loc => memByte v.mem x.2.key), leBytes_leNat]
end

/-- A WRITE leaves its bytes at its places (assumption 68). -/
theorem writePlan_payload (m : List Host.Cell) (l : List Byte) (plan : List (Nat × Loc)) :
    writePlan m (bytesImg l) plan = plan.foldl (fun m x => setByte m x.2.key ((l[x.1]?).getD 0)) m := by
  simp only [writePlan, imgByte_bytesImg]

theorem packetAtom_operands (p : Packet) : (packetAtom p).b.toNat = leNat (p.payload.take 16) ∧
    (packetAtom p).expect.toNat = leNat ((p.payload.drop 16).take 16) := by
  have bound : ∀ l : List Byte, leNat (l.take 16) < 2 ^ 128 := fun l =>
    Nat.lt_of_lt_of_le (leNat_lt _) (Nat.pow_le_pow_right (by decide) (by rw [List.length_take]; omega))
  exact ⟨Nat.mod_eq_of_lt (bound _), Nat.mod_eq_of_lt (bound _)⟩

theorem packetAtom_op (p : Packet) : (packetAtom p).op.toNat = p.arg.toNat / 2 ^ 58 % 8 := by
  simp [packetAtom, Nat.shiftRight_eq_div_pow]

theorem packetAtom_kind (integer : (packetAtom p).kind ≠ 1) : (packetAtom p).kind = if p.arg.getLsbD 62 then 2 else 0 := by
  have kind : (packetAtom p).kind = if p.arg.getLsbD 62 then 2 else if leNat ((p.payload.drop 32).take 1) = 1 then 1 else 0 := rfl
  rw [kind] at integer ⊢
  by_cases compare : p.arg.getLsbD 62 = true
  · rw [if_pos compare, if_pos compare]
  · rw [if_neg compare] at integer
    rw [if_neg compare, if_neg compare, if_neg fun float => integer (if_pos float)]

/-- What the integer atomic of a packet writes (R174, R379). -/
theorem new?_packet {m n : Nat} (integer : (packetAtom p).kind ≠ 1) (size : (packetAtom p).size = n) (small : m < 2 ^ (8 * n)) :
    let y := leNat (p.payload.take 16) % 2 ^ (8 * n)
    (packetAtom p).new? m = if p.arg.getLsbD 62 then (if m = leNat ((p.payload.drop 16).take 16) % 2 ^ (8 * n) then some y else none)
      else some (amoInt (p.arg.toNat / 2 ^ 58 % 8) (8 * n) m y) := by
  intro y
  subst size
  have kind := packetAtom_kind integer
  obtain ⟨operand, expect⟩ := packetAtom_operands p
  cases compare : p.arg.getLsbD 62 with
  | true =>
    rw [compare] at kind
    rw [new?_of_cas kind, operand, expect]
    rfl
  | false =>
    rw [compare] at kind
    rw [new?_of_int kind small (by have := packetAtom_size p; omega), operand, packetAtom_op]
    rfl

/-! A request as a whole. -/

section
variable (idle : s.fabHeld = []) (ready : s.mstate = 3) (arg : argOk p = true) (len : lenOk p = true)
include idle ready arg len

section
variable (type : p.type ∈ [ptREAD, ptWRITE, ptATOMIC]) (turn : p.seq = 0x7FFF)
include type turn

theorem exec_request_done {r : State} (done : performRequest s p = (r, true)) :
    ∃ t, exec (.fabricRequestArrival p) s = .next t ∧ t.mem = r.mem ∧ t.out = r.out := by
  have turn' : inTurn s p = true := by simp [inTurn, turn]
  obtain ⟨mem, out⟩ := serveRequest_done turn' done
  exact ⟨_, fabricRequestArrival_served idle ready type arg len, mem, out⟩

/-- A request that is performed at places of this device is answered with status 0. -/
theorem exec_request_answered {imgs : List Vec} (al : p.type = ptATOMIC → reqOff p % reqLen p = 0) (far : u.devNum ≠ p.sdev)
    (planned : fabBytes p.part (packetReq p).akind (reqBase p) (reqLen p) 0 s = (u, .ok plan)) (only : OnlyMem u v)
    (done : performPlan s u (reqSpace p) (packetReq p) false plan = .done v imgs) :
    ∃ t, exec (.fabricRequestArrival p) s = .next t ∧ t.mem = v.mem ∧
      t.out = u.answered p 0 (if p.type = ptWRITE then [] else imgBytes imgs (reqLen p)) := by
  obtain ⟨t, run, mem, out⟩ := exec_request_done idle ready arg len type turn (performRequest_done (reqLen_le len) al planned done)
  refine ⟨t, run, mem.trans (respTo_mem ..), out.trans ?_⟩
  rw [respTo_out (by decide) (by rw [only.devNum]; exact far), answered_of_onlyMem only]
end

/-- A request whose turn has not come is held (R382). -/
theorem exec_request_early (type : p.type ∈ [ptREAD, ptWRITE, ptATOMIC]) (numbered : p.seq ≠ 0x7FFF)
    (early : p.seq.toNat ≠ Sparse.get 0 s.fabNext (reqStream p)) : exec (.fabricRequestArrival p) s = .next { s with fabHeld := [p] } := by
  have later : inTurn s p = false := by rw [inTurn, decide_eq_false numbered, decide_eq_false early, Bool.or_self]
  rw [fabricRequestArrival_served idle ready type arg len, serveRequest, later, ← holdRequest_of_idle idle p]
  rfl
end

theorem packetOf_of_unfit {ty : List (BitVec 6)} (ready : s.mstate = 3) (bad : p.type ∉ ty ∨ argOk p = false ∨ lenOk p = false) (f : State → State) :
    packetOf ty p s f = .next (dropPacket s p) := by
  rw [packetOf, whenReady_of_ready ready, if_neg]
  simp only [Bool.and_eq_true, List.contains_iff_mem]
  rintro ⟨⟨listed, arg⟩, len⟩
  rcases bad with unlisted | badArg | badLen
  · exact unlisted listed
  · rw [arg] at badArg
    cases badArg
  · rw [len] at badLen
    cases badLen

/-- A packet that is dropped is logged, and a request is refused. -/
theorem dropPacket_spec (s : State) (p : Packet) : (dropPacket s p).mem = s.mem ∧ (dropPacket s p).strands = s.strands ∧
    (dropPacket s p).errLog.length = s.errLog.length + 1 ∧
    (isRequest p = true → s.devNum ≠ p.sdev → (dropPacket s p).out = s.answered p 2 []) := by
  obtain ⟨only, -⟩ := onlySends_dropPacket s p
  refine ⟨dropPacket_mem s p, ?_, ?_, fun request far => ?_⟩
  · rw [only]
    rfl
  · rw [only]
    exact List.length_append
  · rw [dropPacket, if_pos request]
    exact respTo_out (s := s.log p.ddie.toNat logPacket p.arg.toNat) (status := 2) (by decide) far []

/-- Settles O46: a request is performed as a word's access to the places that the fabric MMU gives. -/
theorem fabricRequestsArePerformedAndAnswered : Obligations.FabricRequestsArePerformedAndAnswered := by
  intro s p idle resp go sp plainP off n clear ready
  have listedRead : p.type = ptREAD → p.type ∈ [ptREAD, ptWRITE, ptATOMIC] := fun type => by rw [type]; decide
  have listedWrite : p.type = ptWRITE → p.type ∈ [ptREAD, ptWRITE, ptATOMIC] := fun type => by rw [type]; decide
  have listedAtomic : p.type = ptATOMIC → p.type ∈ [ptREAD, ptWRITE, ptATOMIC] := fun type => by rw [type]; decide
  have notAtomic : p.type = ptREAD ∨ p.type = ptWRITE → p.type = ptATOMIC → reqOff p % reqLen p = 0 := fun type atomic => by
    rw [atomic] at type
    exact absurd type (by decide)
  refine ⟨fun notReady => (exec_fabricRequestArrival ..).trans (packetOf_of_not_ready notReady ..), fun inReady bad => ?_,
    fun ⟨inReady, type, arg, len, turn⟩ far mis => ?_,
    fun u c ⟨inReady, type, arg, len, turn⟩ planned far => ?_, fun u r ⟨inReady, type, arg, len, turn⟩ planned waits => ?_,
    fun u plan ⟨inReady, type, arg, len, turn⟩ planned ⟨far, free, sound⟩ => ?_,
    fun u plan ⟨inReady, type, arg, len, turn⟩ planned ⟨far, free, sound⟩ => ?_,
    fun u plan ⟨inReady, type, arg, len, turn⟩ integer al planned ⟨far, free, sound⟩ => ?_,
    fun inReady type arg len numbered early => exec_request_early idle inReady arg len type numbered early⟩
  · exact ⟨_, (exec_fabricRequestArrival ..).trans (packetOf_of_unfit inReady bad _), dropPacket_spec s p⟩
  · obtain ⟨t, run, mem, out⟩ := exec_request_done idle inReady arg len (listedAtomic type) turn (performRequest_misaligned type mis)
    exact ⟨t, run, mem.trans (respTo_mem ..), out.trans (respTo_out (status := 2) (by decide) far [])⟩
  · obtain ⟨akind, -, -, base⟩ := packetReq_write type
    rw [← akind, show off = _ from base.symm] at planned
    obtain ⟨t, run, mem, out⟩ := exec_request_done idle inReady arg len (listedWrite type) turn
      (performRequest_fault (reqLen_le len) (notAtomic (.inr type)) planned)
    exact ⟨t, run, mem.trans (respTo_mem ..), out.trans (respTo_out (status := 2) (by decide) far [])⟩
  · obtain ⟨akind, -, -, base⟩ := packetReq_write type
    rw [← akind, show off = _ from base.symm] at planned
    have turn' : inTurn s p = true := by simp [inTurn, turn]
    exact (fabricRequestArrival_served idle inReady (listedWrite type) arg len).trans
      (congrArg _ (serveRequest_wait turn' (by rw [askFor_fabHeld]; exact idle) (performRequest_wait (reqLen_le len) (notAtomic (.inr type)) planned waits)))
  · obtain ⟨akind, -, -, base, size⟩ := packetReq_read type
    rw [← akind, show off / 32 * 32 = _ from base.symm, ← size] at planned
    obtain ⟨imgs, done, bytes⟩ := performPlan_read (s := s) (unhindered_of_clear planned free (by rw [akind]; exact sound)) type (fabBytes_order planned)
    obtain ⟨t, run, mem, out⟩ := exec_request_answered idle inReady arg len (listedRead type) turn (notAtomic (.inl type)) far planned
      (onlyMem_prepareL1 ..) done
    refine ⟨t, run, mem, out.trans ?_⟩
    rw [if_neg (by rw [type]; decide), bytes]
    rfl
  · obtain ⟨akind, -, -, base⟩ := packetReq_write type
    rw [← akind, show off = _ from base.symm] at planned
    obtain ⟨imgs, done⟩ := performPlan_write (s := s) (unhindered_of_clear planned free (by rw [akind]; exact sound)) type
    obtain ⟨t, run, mem, out⟩ := exec_request_answered idle inReady arg len (listedWrite type) turn (notAtomic (.inr type)) far planned
      (onlyMem_writeHere (onlyMem_prepareL1 ..) _) done
    rw [writeHere_mem_of_plain (fabBytes_plain planned)] at mem
    refine ⟨t, run, out.trans (by rw [if_pos type]; rfl), mem.trans (writePlan_payload ..), fun b out => ?_⟩
    exact (congrArg (memByte · b) mem).trans (memByte_writePlan_out _ _ _ out)
  · obtain ⟨akind, -, base, size⟩ := packetReq_atomic type
    rw [← akind, show off = _ from base.symm] at planned
    have order := fabBytes_order planned
    obtain ⟨imgs, done, bytes⟩ := performPlan_atomic (s := s) (unhindered_of_clear planned free (by rw [akind]; exact sound)) type order
      (fabBytes_rows planned) (fabBytes_device planned)
    obtain ⟨t, run, mem, out⟩ := exec_request_answered idle inReady arg len (listedAtomic type) turn (fun _ => al) far planned
      (onlyMem_withNew (onlyMem_prepareL1 ..) _) done
    rw [new?_packet integer size.symm (planNat_lt _ order)] at mem
    refine ⟨t, run, out.trans ?_, mem.trans ?_⟩
    · rw [if_neg (by rw [type]; decide), bytes]
      rfl
    · exact withNew_mem ..

end Sys2Proof.Machine
end

section
/-! A window fills its slots (10_access_instructions.md R170; 16_memory_hierarchy.md R280, R301, R302). -/

namespace Sys2Proof.Machine

variable {s s0 u : State} {w : Window} {n : Nat}

/-! Memory that is read back. -/

theorem memBytes_eq_map (m : List Host.Cell) (a n : Nat) : memBytes m a n = (List.range n).map (fun k => memByte m (a + k)) := by
  suffices from_ : ∀ k, memBytes m (a + k) n = (List.range' k n).map (fun k => memByte m (a + k)) by
    simpa [List.range_eq_range'] using from_ 0
  induction n with
  | zero => exact fun _ => rfl
  | succ n ih => exact fun k => by rw [memBytes, List.range'_succ, List.map_cons, Nat.add_assoc, ih (k + 1)]

theorem memNat_congr {m m' : List Host.Cell} {a n : Nat} (same : ∀ k < n, memByte m (a + k) = memByte m' (a + k)) : memNat m a n = memNat m' a n := by
  rw [memNat, memNat, memBytes_eq_map, memBytes_eq_map]
  exact congrArg leNat (List.map_congr_left fun k hk => same k (List.mem_range.mp hk))

/-- A value that has been written reads back. -/
theorem memNat_setBytes {v : Nat} (x : BitVec v) {m : List Host.Cell} (wf : Memory.wf m = true) (a : Nat) {n : Nat} (fits : v ≤ 8 * n) :
    memNat (setBytes m a (leBytes n x.toNat)) a n = x.toNat := by
  have bytes : memBytes (setBytes m a (leBytes n x.toNat)) a n = (List.range n).map (byteOf x) := by
    rw [memBytes_eq_map]
    refine List.map_congr_left fun k hk => ?_
    have inside : k < (leBytes n x.toNat).length := by rw [length_leBytes]; exact List.mem_range.mp hk
    rw [memByte_setBytes_in _ _ _ inside wf]
    exact Option.some.inj ((List.getElem?_eq_getElem inside).symm.trans (getElem?_leBytes_toNat x n (List.mem_range.mp hk)))
  rw [memNat, bytes, leNat_bytes, Nat.mod_eq_of_lt (Nat.lt_of_lt_of_le x.isLt (Nat.pow_le_pow_right (by decide) fits))]

/-- The header of a window is where its ring is. -/
theorem windowHeader_of_ring {w w' : Window} (ring : w.ring = w'.ring) (s : State) : windowHeader s w = windowHeader s w' := by
  rw [windowHeader, windowHeader, ring]

theorem windowHeader_putWindow {s : State} (wf : Memory.wf s.mem = true) {w w' : Window} (ring : w'.ring = w.ring) (h : Desc) :
    windowHeader (putWindow s w h) w' = h := by
  rw [windowHeader_of_ring ring, windowHeader, putWindow, memNat_setBytes h wf w.ring (by decide), BitVec.ofNat_toNat, BitVec.setWidth_eq]

theorem putWindow_windows (s : State) (w : Window) (h : Desc) : (putWindow s w h).windows = s.windows := by rw [putWindow]

theorem memByte_putWindow_out (s : State) {w : Window} (h : Desc) {a : Nat} (out : a < w.ring ∨ w.ring + 64 ≤ a) :
    memByte (putWindow s w h).mem a = memByte s.mem a := by
  rw [putWindow, memByte_setBytes_out]
  rwa [length_leBytes]

/-! Lines of 64 bytes at their places. -/

/-- The lines of `bytes` from line `i` on, put at the places in their order. -/
def setLines (m : List Host.Cell) (bytes : List Byte) (places : List Nat) (i : Nat) : List Host.Cell :=
  (places.zipIdx i).foldl (fun m p => setBytes m p.1 ((bytes.drop (64 * p.2)).take 64)) m

theorem setLines_cons (m : List Host.Cell) (bytes : List Byte) (p : Nat) (l : List Nat) (i : Nat) :
    setLines m bytes (p :: l) i = setLines (setBytes m p ((bytes.drop (64 * i)).take 64)) bytes l (i + 1) := rfl

theorem putLines_mem (s : State) (places : List Nat) (bytes : List Byte) : (putLines s places bytes).mem = setLines s.mem bytes places 0 := rfl

section
variable {m : List Host.Cell} {bytes : List Byte} {places : List Nat}

theorem wf_setLines (wf : Memory.wf m = true) (i : Nat) : Memory.wf (setLines m bytes places i) = true := by
  induction places generalizing m i with
  | nil => exact wf
  | cons p l ih => exact ih (wf_setBytes _ _ _ wf) (i + 1)

theorem memByte_setLines_out {a : Nat} (out : ∀ p ∈ places, a < p ∨ p + 64 ≤ a) (i : Nat) :
    memByte (setLines m bytes places i) a = memByte m a := by
  induction places generalizing m i with
  | nil => rfl
  | cons p l ih =>
    obtain ⟨first, rest⟩ := List.forall_mem_cons.mp out
    rw [setLines_cons, ih rest, memByte_setBytes_out]
    rw [List.length_take]
    omega

/-- Lines at places that do not overlap hold their bytes. -/
theorem memByte_setLines_in (wf : Memory.wf m = true) (apart : places.Pairwise (fun p q => p + 64 ≤ q ∨ q + 64 ≤ p)) {j k p i : Nat}
    (place : places[j]? = some p) (low : k < 64) (inside : 64 * (i + j) + k < bytes.length) :
    memByte (setLines m bytes places i) (p + k) = bytes[64 * (i + j) + k] := by
  induction places generalizing m i j with
  | nil => cases place
  | cons q l ih =>
    obtain ⟨others, apart⟩ := List.pairwise_cons.mp apart
    cases j with
    | zero =>
      have here : q = p := Option.some.inj place
      subst here
      have fits : k < ((bytes.drop (64 * i)).take 64).length := by rw [List.length_take, List.length_drop]; omega
      rw [setLines_cons, memByte_setLines_out (fun x hx => by have := others x hx; omega), memByte_setBytes_in _ _ _ fits wf,
        List.getElem_take, List.getElem_drop]
      rfl
    | succ j =>
      have place' : l[j]? = some p := by simpa using place
      have later := ih (m := setBytes m q ((bytes.drop (64 * i)).take 64)) (i := i + 1) (j := j) (wf_setBytes _ _ _ wf) apart place' (by omega)
      rw [setLines_cons, later]
      congr 1
      omega
end

/-! The step of one window. -/

theorem imageSize_cases (x : Desc) : imageSize x = 512 ∨ imageSize x = 1024 := by
  unfold imageSize
  split
  exacts [.inr rfl, .inl rfl]

theorem windowFill_of_none (none_ : ∀ w ∈ s.windows, w.id ≠ n) : windowFill s n = s := by
  have find : s.windows.find? (fun w => w.id == n) = none := List.find?_eq_none.mpr fun w hw => by simpa using none_ w hw
  rw [windowFill, find]

theorem windowFill_of_unready (found : s.windows.find? (fun w => w.id == n) = some w) (unready : w.ready s = false) : windowFill s n = s := by
  rw [windowFill, found]
  dsimp only
  rw [unready]
  rfl

/-- What a window that is ready to fill a slot fulfils (R170). -/
theorem Window.ready_iff : w.ready s = true ↔ ∃ t, s.strand? w.team w.sid = some t ∧ t.live = true ∧ w.fault = none ∧ w.stopped = false ∧
    w.filling = true ∧ ringOk (windowHeader s w) = true ∧ t.arec.length < 64 ∧ (∀ e ∈ t.arec, ¬ (e.unit.addr = w.unit.addr ∧ e.req.kind = .fill)) ∧
    (w.slot.isSome = true ∨ hPCLAIM (windowHeader s w) < hHEAD (windowHeader s w) + hNSLOT (windowHeader s w)) := by
  unfold Window.ready
  split
  · next none_ => simp [none_]
  · next t found =>
    simp only [found, Option.some.injEq, exists_eq_left', Bool.and_eq_true, Bool.or_eq_true, Bool.not_eq_true', decide_eq_true_eq,
      List.all_eq_true, bne_iff_ne, Option.isNone_iff_eq_none, and_assoc, not_and_or]

/-- Why a window fills nothing (R170). -/
theorem Window.unready (found : s.windows.find? (fun w => w.id == n) = some w)
    (h : w.fault.isSome = true ∨ w.stopped = true ∨ chunkTotal w.desc ≤ w.next ∨ (∀ t ∈ s.strands, t.team = w.team → t.sid = w.sid → t.live = false) ∨
      (∃ t, s.strand? w.team w.sid = some t ∧ ∃ e ∈ t.arec, e.unit.addr = w.unit.addr ∧ e.req.kind = .fill) ∨
      (w.slot = none ∧ hHEAD (windowHeader s w) + hNSLOT (windowHeader s w) ≤ hPCLAIM (windowHeader s w))) : windowFill s n = s := by
  refine windowFill_of_unready found (Bool.eq_false_iff.mpr fun ready => ?_)
  obtain ⟨t, strand, live, fault, stopped, filling, -, -, idle, room⟩ := Window.ready_iff.mp ready
  rcases h with faulted | stop | delivered | gone | ⟨t', strand', e, mem, addr, kind⟩ | ⟨none_, full⟩
  · rw [fault] at faulted
    cases faulted
  · rw [stopped] at stop
    cases stop
  · rw [Window.filling, decide_eq_true_eq] at filling
    omega
  · have named := List.find?_some strand
    simp only [Bool.and_eq_true, beq_iff_eq] at named
    obtain ⟨team, sid⟩ := named
    rw [gone t (List.mem_of_find?_eq_some strand) team sid] at live
    cases live
  · rw [strand] at strand'
    cases strand'
    exact idle e mem ⟨addr, kind⟩
  · rcases room with held | free
    · rw [none_] at held
      cases held
    · omega

/-- The window, and its slot, once it has claimed slot `k`. -/
def Window.claim (w : Window) (k : Nat) : Window := { w with slot := some k, start := if w.slot.isSome then w.start else w.next }

/-- The state once the window's slot `k` is claimed in its header `h`. -/
def State.claimed (s : State) (w : Window) (h : Desc) (k : Nat) : State :=
  if w.slot.isSome then s else putWindow s w (setField h 0x10 8 (k + 1))

/-- The filling of slot `k` that the window `w` has claimed, `h` the header before the claim. -/
def fillClaimed (s : State) (t : Strand) (m : Team) (w : Window) (h : Desc) (k : Nat) (id : Nat) : State :=
  let slot := slotAddr w h k
  let done := w.next - w.start
  let n := hSLOTSZ h / imageSize w.desc - done
  if !slotAllowed s m slot (hSLOTSZ h) then
    s.onWindow id (fun _ => { w with fault := some (.protection, BitVec.ofNat 64 (t.dswbase.toNat + slot % 2 ^ 26)) })
  else match slotPlaces (fld m.ctx 16 6) (slot + done * imageSize w.desc) (n * (imageSize w.desc / 64)) s with
    | .error r => askFor (s.onWindow id (fun _ => w)) r
    | .ok (s, places) =>
      let (s, w, ok) := fillChunks s t m w places n
      if ok then
        let h := windowHeader s w
        let h := (publish h k).getD h
        putWindow (s.onWindow id (fun _ => { w with slot := none })) w (if w.filling then h else setField h 0x0A 2 3)
      else s.onWindow id (fun _ => w)

/-- A ready window whose header can be written claims its slot and fills it. -/
theorem windowFill_of_ready {t : Strand} {m : Team} (found : s.windows.find? (fun w => w.id == n) = some w) (ready : w.ready s = true)
    (strand : s.strand? w.team w.sid = some t) (team : s.team? w.team = some m) (place : headerPlace s w = (s0, true)) :
    let h := windowHeader s0 w
    let k := w.slot.getD (hPCLAIM h)
    windowFill s n = fillClaimed (s0.claimed w h k) t m (w.claim k) h k n := by
  intro h k
  have claim : (if w.slot.isSome then w else { w with slot := some k, start := w.next }) = w.claim k := by
    unfold Window.claim
    cases slot : w.slot with
    | none => rfl
    | some j =>
      have same : k = j := by
        dsimp only [k]
        rw [slot, Option.getD_some]
      rw [Option.isSome_some, if_pos rfl, if_pos rfl, same, ← slot]
  rw [windowFill, found]
  dsimp only
  rw [ready, strand, team, place]
  dsimp only
  rw [claim, State.claimed, if_neg (by decide)]
  generalize w.claim k = w'
  dsimp only [k, h]
  generalize (if w.slot.isSome then s0 else putWindow s0 w (setField (windowHeader s0 w) 0x10 8 (w.slot.getD (hPCLAIM (windowHeader s0 w)) + 1))) = s'
  generalize w.slot.getD (hPCLAIM (windowHeader s0 w)) = k
  generalize windowHeader s0 w = h
  rfl

theorem mem_onWindow {x : Window} {id : Nat} {w' : Window} (member : x ∈ (s.onWindow id (fun _ => w')).windows) (named : x.id = id) : x = w' := by
  rw [State.onWindow, List.mem_map] at member
  obtain ⟨y, -, eq⟩ := member
  split at eq
  · exact eq.symm
  · next other =>
    rw [← eq] at named
    exact absurd (beq_iff_eq.mpr named) other

section
variable {t : Strand} {m : Team} {places : List Nat} (filling : w.filling = true)
include filling

theorem fillChunks_trap {c : Cause} {v : Dword} {l : Nat}
    (got : runReq s { spaceOf t m with priv := w.priv } (chunkReq (imageDesc w.desc) (chunkRows w.desc w.next) .fill) = .trap c v) :
    fillChunks s t m w places (l + 1) = (s, { w with fault := some (c, v) }, false) := by
  rw [fillChunks, filling]
  dsimp only
  erw [got]
  rfl

theorem fillChunks_done {v : State} {imgs : List Vec} {l : Nat}
    (got : runReq s { spaceOf t m with priv := w.priv } (chunkReq (imageDesc w.desc) (chunkRows w.desc w.next) .fill) = .done v imgs) :
    fillChunks s t m w places (l + 1) = fillChunks (putLines v (places.take (imageSize w.desc / 64)) (imageBytes w imgs)) t m
      { w with next := w.next + 1 } (places.drop (imageSize w.desc / 64)) l := by
  rw [fillChunks, filling]
  dsimp only
  erw [got]
  rfl
end

section
variable {t : Strand} {m : Team} {h : Desc} {k : Nat}

/-- A slot that the strand may not write leaves a fault in the window (R280). -/
theorem fillClaimed_protected (out : slotAllowed s m (slotAddr w h k) (hSLOTSZ h) = false) :
    ∃ v, fillClaimed s t m w h k n = s.onWindow n (fun _ => { w with fault := some (.protection, v) }) := by
  refine ⟨BitVec.ofNat 64 (t.dswbase.toNat + slotAddr w h k % 2 ^ 26), ?_⟩
  rw [fillClaimed, out]
  rfl

section
variable (one : hSLOTSZ h = imageSize w.desc) (first : w.start = w.next) (allowed : slotAllowed s m (slotAddr w h k) (hSLOTSZ h) = true)
include one first allowed

/-- A slot of one chunk is filled whole or not at all. -/
theorem fillClaimed_one : fillClaimed s t m w h k n =
    match slotPlaces (fld m.ctx 16 6) (slotAddr w h k) (hSLOTSZ h / 64) s with
    | .error r => askFor (s.onWindow n (fun _ => w)) r
    | .ok (s, places) =>
      let (s, w, ok) := fillChunks s t m w places 1
      if ok then
        let h := windowHeader s w
        let h := (publish h k).getD h
        putWindow (s.onWindow n (fun _ => { w with slot := none })) w (if w.filling then h else setField h 0x0A 2 3)
      else s.onWindow n (fun _ => w) := by
  have size : imageSize w.desc / imageSize w.desc = 1 := by rcases imageSize_cases w.desc with e | e <;> rw [e]
  rw [fillClaimed, allowed, first, Nat.sub_self, one, size, Nat.zero_mul, Nat.add_zero, Nat.sub_zero, Nat.one_mul]
  rfl

theorem fillClaimed_wait {r : TRes} (places : slotPlaces (fld m.ctx 16 6) (slotAddr w h k) (hSLOTSZ h / 64) s = .error r) :
    fillClaimed s t m w h k n = askFor (s.onWindow n (fun _ => w)) r := by
  rw [fillClaimed_one one first allowed, places]

variable {places : List Nat} (reached : slotPlaces (fld m.ctx 16 6) (slotAddr w h k) (hSLOTSZ h / 64) s = .ok (u, places)) (filling : w.filling = true)
include reached filling

theorem fillClaimed_trap {c : Cause} {v : Dword}
    (got : runReq u { spaceOf t m with priv := w.priv } (chunkReq (imageDesc w.desc) (chunkRows w.desc w.next) .fill) = .trap c v) :
    fillClaimed s t m w h k n = u.onWindow n (fun _ => { w with fault := some (c, v) }) := by
  rw [fillClaimed_one one first allowed, reached]
  dsimp only
  rw [fillChunks_trap filling got]
  rfl

/-- The state in which the slot of a window is full: its image lies at the places, the slot is published, and after the last chunk END is
set (R170). -/
def State.filledSlot (s : State) (w : Window) (places : List Nat) (imgs : List Vec) (k id : Nat) : State :=
  let v := putLines s (places.take (imageSize w.desc / 64)) (imageBytes w imgs)
  let w' := { w with next := w.next + 1 }
  let h := (publish (windowHeader v w') k).getD (windowHeader v w')
  putWindow (v.onWindow id (fun _ => { w' with slot := none })) w' (if w'.filling then h else setField h 0x0A 2 3)

theorem fillClaimed_done {v : State} {imgs : List Vec}
    (got : runReq u { spaceOf t m with priv := w.priv } (chunkReq (imageDesc w.desc) (chunkRows w.desc w.next) .fill) = .done v imgs) :
    fillClaimed s t m w h k n = v.filledSlot w places imgs k n := by
  rw [fillClaimed_one one first allowed, reached]
  dsimp only
  rw [fillChunks_done filling got, fillChunks]
  rfl
end
end

/-! The slot that is full. -/

section
variable {places : List Nat} {imgs : List Vec} {k id : Nat} (wf : Memory.wf s.mem = true)
  (beside : ∀ p ∈ places, w.ring + 64 ≤ p ∨ p + 64 ≤ w.ring) 
include beside

theorem windowHeader_putLines (l : Nat) (bytes : List Byte) (w' : Window) (ring : w'.ring = w.ring) :
    windowHeader (putLines s (places.take l) bytes) w' = windowHeader s w := by
  rw [windowHeader_of_ring ring]
  refine congrArg (BitVec.ofNat 512) (memNat_congr fun k low => ?_)
  rw [putLines_mem]
  exact memByte_setLines_out (fun p hp => by have := beside p (List.mem_of_mem_take hp); omega) 0

/-- The header that a full slot leaves, of a window that has moved on to `w'`. -/
def filledHeader (w' : Window) (h : Desc) (k : Nat) : Desc :=
  if w'.filling then (publish h k).getD h else setField ((publish h k).getD h) 0x0A 2 3

theorem filledSlot_eq : s.filledSlot w places imgs k id =
    putWindow ((putLines s (places.take (imageSize w.desc / 64)) (imageBytes w imgs)).onWindow id (fun _ => { w with next := w.next + 1, slot := none }))
      { w with next := w.next + 1 } (filledHeader { w with next := w.next + 1 } (windowHeader s w) k) := by
  rw [State.filledSlot, windowHeader_putLines beside _ _ { w with next := w.next + 1 } rfl]
  rfl

include wf

theorem filledSlot_tail : publish (windowHeader s w) k = none ∨
    ∃ y, publish (windowHeader s w) k = some y ∧ hTAIL (windowHeader (s.filledSlot w places imgs k id) w) = hTAIL y := by
  cases published : publish (windowHeader s w) k with
  | none => exact .inl rfl
  | some y =>
    have wf' : ∀ f, Memory.wf ((putLines s (places.take (imageSize w.desc / 64)) (imageBytes w imgs)).onWindow id f).mem = true :=
      fun _ => wf_setLines wf 0
    refine .inr ⟨y, rfl, ?_⟩
    rw [filledSlot_eq beside, windowHeader_putWindow (wf' _) (w := { w with next := w.next + 1 }) (w' := w) rfl, filledHeader, published,
      Option.getD_some]
    split
    · rfl
    · exact recField_setField_other _ _ (by decide)

theorem filledSlot_bytes (apart : places.Pairwise (fun p q => p + 64 ≤ q ∨ q + 64 ≤ p)) {b p : Nat} (inside : b < imageSize w.desc)
    (place : places[b / 64]? = some p) : memByte (s.filledSlot w places imgs k id).mem (p + b % 64) = imgByte imgs b := by
  have clear := beside p (List.mem_of_getElem? place)
  have length : (imageBytes w imgs).length = imageSize w.desc := by rw [imageBytes, List.length_map, List.length_range]
  have lines : b / 64 < imageSize w.desc / 64 := by rcases imageSize_cases w.desc with e | e <;> omega
  have taken : (places.take (imageSize w.desc / 64))[b / 64]? = some p := by rw [List.getElem?_take, if_pos lines, place]
  have byte := memByte_setLines_in (bytes := imageBytes w imgs) (i := 0) (k := b % 64) wf (apart.sublist (List.take_sublist ..)) taken
    (Nat.mod_lt _ (by decide)) (by omega)
  have outside : p + b % 64 < w.ring ∨ w.ring + 64 ≤ p + b % 64 := by omega
  rw [filledSlot_eq beside, memByte_putWindow_out (w := { w with next := w.next + 1 }) _ _ outside]
  refine byte.trans ?_
  simp only [imageBytes, List.getElem_map, List.getElem_range]
  congr 1
  omega

omit wf beside in
theorem filledSlot_window {x : Window} (member : x ∈ (s.filledSlot w places imgs k id).windows) (named : x.id = id) :
    x = { w with next := w.next + 1, slot := none } := by
  rw [State.filledSlot, putWindow_windows] at member
  exact mem_onWindow member named
end

/-- Settles O51: the step claims a slot, and for a slot of one chunk ends as the request of that chunk ends. -/
theorem aWindowFillsItsSlotsInOrder : Obligations.AWindowFillsItsSlotsInOrder := by
  intro s n go
  refine ⟨fun none_ => congrArg _ (windowFill_of_none none_), fun w found h => congrArg _ (Window.unready found h),
    fun w t m s0 found ready strand team place => ?_⟩
  intro h k s1 w1 size slot
  have part : m.ctx.extractLsb' 16 6 = fld m.ctx 16 6 := (fld_eq_extractLsb' ..).symm
  rw [part]
  obtain ⟨-, -, -, fault, -, filling, -⟩ := Window.ready_iff.mp ready
  have step : go = .next (fillClaimed s1 t m w1 h k n) := congrArg _ (windowFill_of_ready found ready strand team place)
  refine ⟨fun out => ?_, fun one first allowed => ⟨fun r places => ?_, fun s2 places reached => ⟨fun c v got => ?_, fun u imgs got wf beside apart => ?_⟩⟩⟩
  · obtain ⟨v, fault⟩ := fillClaimed_protected (t := t) (w := w1) (n := n) out
    refine ⟨_, step.trans (congrArg _ fault), rfl, fun x member named => ⟨v, mem_onWindow member named⟩⟩
  · exact step.trans (congrArg _ (fillClaimed_wait (w := w1) one first allowed places))
  · exact ⟨_, step.trans (congrArg _ (fillClaimed_trap (w := w1) one first allowed reached filling got)), rfl,
      fun x member named => mem_onWindow member named⟩
  · refine ⟨_, step.trans (congrArg _ (fillClaimed_done (w := w1) one first allowed reached filling got)), fun x member named => ?_,
      filledSlot_tail (w := w1) wf beside, fun b p inside place => filledSlot_bytes (w := w1) wf beside apart (one ▸ inside) place⟩
    rw [filledSlot_window member named]
    exact ⟨rfl, rfl, fault⟩

end Sys2Proof.Machine
end
